-- ==== Sys2Proof/Word.lean ====
section
/-! DEFINITION. The word types of the Strelian Oliosh (R7) and their plainest readings. -/

namespace Sys2Proof

/-- One byte (R7). -/
abbrev Byte := BitVec 8
/-- One integer register or address (R137, R61). -/
abbrev Word := BitVec 64
/-- One wide latch, bin or queue entry (R200, R224). -/
abbrev Wide := BitVec 512

/-- Die number 0 to 3 (R16). -/
abbrev DieId := Fin 4
/-- Hart number 0 to 15 within a core (R17). -/
abbrev HartId := Fin 16
/-- Stream slot number (R22). -/
abbrev SlotId := Fin 16
/-- Scale-up port number (R22). -/
abbrev PortId := Fin 18

/-- A hart of the package: the physical core number 1280 * die + 16 * cluster + core
(R15, R17) and the hart within the core. -/
structure HartRef where
  core : Nat
  hart : HartId
  deriving DecidableEq, Repr

end Sys2Proof
end

