-- ==== Sys2Proof/Syntax.lean ====
section
/-! DEFINITION. The instructions and steps of the device: one constructor of `Instr` for each row of
the table of operations and events, with the operands its encoding or its event carries (R137 to R148,
R251, R252, R287, R308). -/

namespace Sys2Proof

/-- Number of an integer register (R137). -/
abbrev Reg := BitVec 5

/-- The common fields of a trigger word: scope, ordering and source port (R139, R143). -/
structure Trig where
  scope : BitVec 2
  ord : BitVec 2
  port : BitVec 6
  deriving DecidableEq, Repr

/-- The scalar loads of RV64I (R159). -/
inductive LoadKind | lb | lh | lw | ld | lbu | lhu | lwu
  deriving DecidableEq, Repr

/-- The scalar stores of RV64I (R159). -/
inductive StoreKind | sb | sh | sw | sd
  deriving DecidableEq, Repr

/-- The atomic memory operations of the A extension (R159). -/
inductive AmoOp | add | swap | xor | or | and | min | max | minu | maxu
  deriving DecidableEq, Repr

/-- Conditional branches (R159). -/
inductive BranchCond | beq | bne | blt | bge | bltu | bgeu
  deriving DecidableEq, Repr

/-- Register-immediate computation on 64 bits (R159). -/
inductive ImmOp | addi | slti | sltiu | xori | ori | andi
  deriving DecidableEq, Repr

/-- Shifts (R159). -/
inductive ShiftOp | sll | srl | sra
  deriving DecidableEq, Repr

/-- Register-register computation on 64 bits, RV64I and M (R159). -/
inductive AluOp
  | add | sub | sll | slt | sltu | xor | srl | sra | or | and
  | mul | mulh | mulhsu | mulhu | div | divu | rem | remu
  deriving DecidableEq, Repr

/-- Register-register computation on 32 bits, RV64I and M (R159). -/
inductive AluWOp | addw | subw | sllw | srlw | sraw | mulw | divw | divuw | remw | remuw
  deriving DecidableEq, Repr

/-- Computation, jumps and branches of RV64I and M (R159). A branch immediate holds bits 12 to 1 of the
offset and a jump immediate bits 20 to 1. -/
inductive IntOp
  | lui (rd : Reg) (imm : BitVec 20)
  | auipc (rd : Reg) (imm : BitVec 20)
  | jal (rd : Reg) (imm : BitVec 20)
  | jalr (rd rs1 : Reg) (imm : BitVec 12)
  | branch (c : BranchCond) (rs1 rs2 : Reg) (imm : BitVec 12)
  | opImm (o : ImmOp) (rd rs1 : Reg) (imm : BitVec 12)
  | shiftImm (o : ShiftOp) (rd rs1 : Reg) (sh : BitVec 6)
  | addiw (rd rs1 : Reg) (imm : BitVec 12)
  | shiftImmW (o : ShiftOp) (rd rs1 : Reg) (sh : BitVec 5)
  | op (o : AluOp) (rd rs1 rs2 : Reg)
  | opW (o : AluWOp) (rd rs1 rs2 : Reg)
  deriving DecidableEq, Repr

/-- The three Zicsr operations (R159, R161). -/
inductive CsrOp | rw | rs | rc
  deriving DecidableEq, Repr

/-- The engine units of R142. -/
inductive EngineUnit | va | vs | cv | ls | mx | wb | ce | ni
  deriving DecidableEq, Repr

/-- The engines of a Cellar base die (R23). -/
inductive CellarEngine | gather | reduction | conversion
  deriving DecidableEq, Repr

/-- The fields of a stream instruction after its OP byte (R147). -/
structure SFields where
  imm64 : BitVec 64
  aux : BitVec 16
  mode : BitVec 8
  s3 : BitVec 6
  s2 : BitVec 6
  s1 : BitVec 6
  dst : BitVec 6
  prio : BitVec 2
  scope : BitVec 2
  sync : BitVec 1
  ord : BitVec 1
  rel : BitVec 1
  acq : BitVec 1
  deriving DecidableEq, Repr

/-- The fields of a copy command after its KIND byte (R251). -/
structure CFields where
  ord : BitVec 2
  scope : BitVec 2
  tag : BitVec 2
  rows : BitVec 16
  src : BitVec 64
  dst : BitVec 64
  len : BitVec 64
  sstride : BitVec 64
  dstride : BitVec 64
  tagw : BitVec 64
  idx : BitVec 64
  deriving DecidableEq, Repr

/-- The read-modify-write operations of A-extension AMOs and remote atomics (R159, R177 to R179). -/
inductive AtomOp | add | swap | and | or | xor | min | max | minu | maxu | addf | cas
  deriving DecidableEq, Repr

/-- The element formats of the add functions of the NI (R259). -/
inductive AddFormat | i32 | i64 | f32 | f64 | bf16
  deriving DecidableEq, Repr

/-- What an access does at its home (R117, R118). -/
inductive ReqOp
  | read (bytes : Nat)
  | write
  /-- A write of the bytes of 64 whose mask bits are 1 (R258). -/
  | writeMasked (mask : BitVec 64)
  | atomic (op : AtomOp) (dbl : Bool) (value expected : Word)
  | lr (dbl : Bool)
  | sc (dbl : Bool) (value : Word)
  | addEach (f : AddFormat)
  /-- The element updates of `SREDUCE`: op 0 adds, 1 takes the maximum, 2 the minimum (R296). -/
  | reduceEach (f : AddFormat) (op : BitVec 2)
  | arrivalOnly
  | message (target value : Word)
  | record (prio : BitVec 2) (resume : Bool)
  | own (desc : Word)
  deriving DecidableEq, Repr

/-- The counted arrival that an access carries (R73, R76). -/
inductive Arrival
  | none
  | flag (addr : Word)
  | tile (addr : Word) (index : BitVec 6)
  deriving DecidableEq, Repr

/-- How an access ended, as its reply tells (R120, R265, R366). -/
inductive Answer
  | done (data : List Byte)
  | refused
  | faulted (code : BitVec 8) (addr : Word) (detail : BitVec 16)
  /-- An uncorrectable error in a table of the walk (R390). -/
  | tableSoft (addr : Word)
  /-- The owner is elsewhere; the words that have performed stay so (R89, R118). -/
  | bounced (device die : Nat) (parts : List (Nat × List Byte))
  deriving DecidableEq, Repr

/-- An access of another device, as its flit carries it (R308). -/
structure Foreign where
  device : Nat
  core : Nat
  hart : HartId
  /-- The home die, as the issuer's owner cache or the address names it (R85). -/
  die : Nat
  seq : BitVec 32
  low : BitVec 32
  tag : Nat
  user : Bool
  asid : BitVec 16
  ctx : BitVec 8
  addr : Word
  op : ReqOp
  data : List Byte
  arrival : Arrival
  hops : Nat
  /-- Whether it fetches for execution, and whether an atomic returns the old value. -/
  exec : Bool
  old : Bool
  /-- The words that have performed before the others, with what a read took of them (R118). -/
  parts : List (Nat × List Byte)
  deriving DecidableEq, Repr

/-- A tensor version as a Cellar part names it (R270, R285): its base address and what its declaration says. -/
structure TensorForm where
  addr : Word
  rows : Nat
  cols : Nat
  rstride : Nat
  fmt : BitVec 8
  band : Word
  deriving DecidableEq, Repr

/-- The work of a Cellar part (R285, R286): its stream word, the address space, context and template's xcompat it acts for,
its data tensor and, for `SCVT`, the source, and its rows with their table rows, or its source blocks. -/
structure CellarWork where
  word : BitVec 128
  asid : BitVec 16
  ctx : BitVec 8
  compat : Word
  data : TensorForm
  source : TensorForm
  rows : List (Nat × Nat)
  deriving DecidableEq, Repr

/-- The transaction messages of the fabric (R89, R90, R286, R307, R308, R312). -/
inductive FabricMsg
  | request (f : Foreign)
  | reply (tag : Nat) (a : Answer)
  | redirect (asid : BitVec 16) (region : BitVec 36) (device die : Nat) (core : Nat)
  /-- A redirect of a core-context doorplate (R92). -/
  | contextRedirect (core vacated device die : Nat)
  | mapUpdate (asid : BitVec 16) (region : BitVec 36) (device die : Nat) (fromDevice fromDie fromStub : Nat)
  | mapUpdateAck (die stub : Nat)
  /-- The old owner begins to copy a region: the new owner's request, the old owner's die, and RD, WR, X, U, G and D of the new
  leaf as an entry holds them (R87). -/
  | regionStart (tag : Nat) (device die : Nat) (permissions : BitVec 8)
  /-- A chunk of a region with the offsets of its poisoned words (R87, R377). -/
  | chunk (asid : BitVec 16) (region : BitVec 36) (number : Nat) (data : List Byte) (poisoned : List Nat)
  /-- The new owner holds a chunk in full (R87). -/
  | chunkHeld (asid : BitVec 16) (region : BitVec 36) (number : Nat)
  | regionGranted (tag : Nat) (already : Bool)
  | flushMarker (device core : Nat) (release path live : Nat)
  | collectiveCompletion (device core release : Nat)
  /-- A part for another device, with its lead, the lead's number of it and its hop count (R286, R392). -/
  | cellarPart (lead tag : Nat) (work : CellarWork) (hops : Nat)
  /-- So many rows of a part are done, or have faulted. -/
  | cellarDone (tag rows : Nat) (fault : Option (BitVec 8 × Word))
  /-- A redirect or a bounce of rows of a part names the owner of their region (R286). -/
  | cellarReturned (tag : Nat) (work : CellarWork) (device : Nat)
  /-- The end-to-end acknowledgement of a numbered VC 2 message (R404). -/
  | taken (number : Nat)
  deriving DecidableEq, Repr

/-- A message as a flit carries it: its source device and, for numbered VC 2 traffic, its number (R404). -/
structure Carried where
  source : Nat
  number : Option Nat
  msg : FabricMsg
  deriving DecidableEq, Repr

/-- A flit as it arrives (R307): the fields of its header, the bytes 8 to 251 with the messages that they stand for, its CRC, and
whether the FEC could correct its codewords. DEDUCED (log 80). -/
structure Flit where
  seq : BitVec 12
  vc : BitVec 2
  /-- The highest sequence received in order, and the sequence whose repeat is requested. -/
  acked : BitVec 12
  repeatOf : Option (BitVec 12)
  /-- Credits returned, 4 bits for each virtual channel. -/
  credits : BitVec 16
  payload : List Byte
  messages : List Carried
  crc : BitVec 32
  corrected : Bool
  deriving DecidableEq, Repr

/-- Where a write of a device register comes from: a request that a hart sent through its NI (R120), or a
host write through BAR0 or through BAR2 (R313), which names the byte that it addresses. -/
inductive WriteSource
  | request (r : Nat)
  | host (offset : BitVec 30) (v : Word)
  | mailbox (offset : BitVec 22) (v : Word)
  deriving DecidableEq, Repr

/-- Why a port dies (R402). -/
inductive PortDeath | noLane | silent | repeatNotHeld
  deriving DecidableEq, Repr

/-- Soft errors of the device's storage as they come (R377): one that is corrected, of HBM or of another structure; a word of a
scratchpad or of HBM that is found later; an accumulator, a weight slot; a register, a latch or a bin of a hart by the numbers of
R378; a translation that a TLB holds; and an entry of a table that an agent, by its SOURCE, reads for a context. -/
inductive SoftError
  | corrected (d : DieId) (hbm : Bool)
  | scratch (core off : Nat)
  | hbm (d : DieId) (n : Nat)
  | accumulator (core n : Nat)
  | weightSlot (core n : Nat)
  | element (h : HartRef) (file : BitVec 4) (n : BitVec 12)
  | translation (d : DieId) (n : Nat)
  | table (d : DieId) (source : BitVec 4) (ctx : BitVec 8)
  deriving DecidableEq, Repr

/-- What a step of an agent acts on. The turn that names the step carries it into the state, as a slot or a
window entry carries the hart or the entry that a word acts for. -/
inductive EventArg
  | none
  /-- A hart (R30). -/
  | hart (h : HartRef)
  /-- A physical core. -/
  | core (c : Nat)
  /-- A core whose macro-operation sequencer writes so many 8-byte words next (R118). -/
  | coreWords (c n : Nat)
  /-- A die. -/
  | die (d : DieId)
  /-- A stream slot (R268). -/
  | slot (s : SlotId)
  /-- A window entry, or a place of the store drain, of a slot (R276, R281). -/
  | entry (s : SlotId) (n : Nat)
  /-- A request or message in flight (R264). -/
  | request (r : Nat)
  /-- One aligned 8-byte word of the bytes of a request, by its place among them (R118). -/
  | requestWord (r word : Nat)
  /-- An invalidation in flight and the die whose agent takes it (R84). -/
  | requestAt (r : Nat) (d : DieId)
  /-- A write of a device register (R313, R319). -/
  | write (src : WriteSource)
  /-- A store by a hart to a core register (R166). -/
  | store (h : HartRef) (v : Word)
  /-- A unit of a hart (R208). -/
  | unit (h : HartRef) (u : EngineUnit)
  /-- A command of an active list of a core's copy engine (R254). -/
  | command (core list n : Nat)
  /-- An entry of a die's stub table (R86). -/
  | stub (d : DieId) (n : Nat)
  /-- An engine of a stack (R23). -/
  | cellar (stack : Fin 8) (e : CellarEngine)
  /-- A scale-up port (R309). -/
  | port (p : PortId)
  /-- A flit received at a port (R308). -/
  | flit (p : PortId) (f : Flit)
  /-- A repeat that the other end asks for (R308). -/
  | repeatOf (p : PortId) (seq : BitVec 12)
  /-- The lanes of a port that remain aligned (R402). -/
  | lanes (p : PortId) (n : Nat)
  /-- The death of a port (R402). -/
  | death (p : PortId) (cause : PortDeath)
  /-- A path to a device (R311, R404). -/
  | path (device path : Nat)
  /-- A die boundary (R406). -/
  | boundary (b : Fin 4)
  /-- A temperature reading of a die (R412). -/
  | heat (d : DieId) (degC : BitVec 8)
  /-- Power readings of the four dies (R324). -/
  | power (watts : Vector (BitVec 16) 4)
  /-- A byte place in a die's HBM (R377). -/
  | place (d : DieId) (n : Nat)
  /-- A soft error of another structure, or one that is not found yet (R377). -/
  | softError (e : SoftError)
  /-- A host write at an offset of the aperture or the window (R314, R315). -/
  | hostWrite (off : Nat) (data : List Byte)
  /-- A host read at an offset of the aperture or the window (R314, R315). -/
  | hostRead (off size : Nat)
  /-- A host read through BAR0, or through BAR2 (R313). -/
  | barRead (mailbox : Bool) (off size : Nat)
  /-- The memory-model revision that the runtime gives a context at its binding (R135, R158). -/
  | revision (first : Bool)
  /-- A line of the coherent window (R314). -/
  | line (n : Nat)
  deriving DecidableEq, Repr

/-- The instructions and steps of the device. A step without operands acts on the state's `arg`. -/
inductive Instr
  /-- Stopping instruction that reads a declaration record and declares a tensor name with one committed descriptor (R288). -/
  | tdecl (f : SFields)
  /-- Copies rows from memory into the destination tensor's new version (R289). -/
  | sload (f : SFields)
  /-- Copies a tensor's rows to memory from the store drain after retirement (R289). -/
  | sstore (f : SFields)
  /-- Sets every element of the destination's new version to an encoded value (R290). -/
  | sfill (f : SFields)
  /-- Built-in matrix product over window cores, accumulated per R107 and stored through the destination window (R291). -/
  | smm (f : SFields)
  /-- Built-in element-wise operation selected by MODE (R292). -/
  | sew (f : SFields)
  /-- Built-in reduction of a tensor along one axis (R293). -/
  | sred (f : SFields)
  /-- Built-in transpose copying element bits (R294). -/
  | sxpose (f : SFields)
  /-- Format conversion of a tensor executed by the Cellar conversion engines (R295). -/
  | scvt (f : SFields)
  /-- Gathers table rows named by an index tensor into the destination's new version (R296). -/
  | sgather (f : SFields)
  /-- Scatters a tensor's rows into table rows named by an index tensor (R296). -/
  | sscatter (f : SFields)
  /-- Combines a tensor's rows into indexed table rows by add, max or min (R296). -/
  | sreduce (f : SFields)
  /-- Launches n tasks of a kernel as continuation records placed on window cores (R297). -/
  | skern (f : SFields)
  /-- Reads group descriptors and writes the context's group table and members' CGRP registers (R298). -/
  | sgroup (f : SFields)
  /-- Writes a tensor's rows to a remote packed region from the store drain (R299). -/
  | sput (f : SFields)
  /-- Reads rows from a remote packed region into the destination's new version (R299). -/
  | sget (f : SFields)
  /-- Continues fetch at a relative offset, always or by a word's value (R300). -/
  | sbr (f : SFields)
  /-- Opens a counted loop level or skips the body for a zero count (R301). -/
  | sloop (f : SFields)
  /-- Decrements the top loop count and branches back or pops the level (R301). -/
  | sendloop (f : SFields)
  /-- Continues fetch at a case selected by a word read at the head of the window (R302). -/
  | sswitch (f : SFields)
  /-- Waits until a flag word reaches a target, then acts as an acquire for younger instructions (R303). -/
  | swait (f : SFields)
  /-- Performs one flag arrival from the store drain after retirement (R303). -/
  | ssignal (f : SFields)
  /-- Completes when every store-drain entry within its scope has left, holding younger instructions (R303). -/
  | sfence (f : SFields)
  /-- Waits for an empty drain, halts the slot on retirement and optionally bumps a flag (R303). -/
  | shalt (f : SFields)
  /-- Migrates a 2 MiB region to the lead device as own does (R304). -/
  | sown (f : SFields)
  /-- Copy command that ends the list (R252). -/
  | ccEnd (c : CFields)
  /-- Copy command that moves LEN delivered bytes from SRC to DST (R252). -/
  | ccCopy (c : CFields)
  /-- Copy command that moves ROWS strided rows (R252). -/
  | ccCopy2d (c : CFields)
  /-- Copy command that fills LEN bytes with an 8-byte pattern (R252). -/
  | ccFill (c : CFields)
  /-- Copy command that copies rows selected by a local index list (R252). -/
  | ccGather (c : CFields)
  /-- Copy command that waits until a local flag word reaches a target (R252). -/
  | ccWait (c : CFields)
  /-- Copy command that makes one flag arrival with no data (R252). -/
  | ccBump (c : CFields)
  /-- Copy command that writes 8 bytes at DST (R252). -/
  | ccWrite (c : CFields)
  /-- Copy command that continues the list at another address (R252). -/
  | ccLink (c : CFields)
  /-- RV64I load, local at issue or split-phase through the NI (R120). -/
  | scalarLoad (k : LoadKind) (rd rs1 : Reg) (imm : BitVec 12)
  /-- RV64I store, local at issue or posted through the NI (R120). -/
  | scalarStore (k : StoreKind) (rs1 rs2 : Reg) (imm : BitVec 12)
  /-- A-extension atomic memory operation on virtual space or local W0 scratchpad (R159). -/
  | amo (op : AmoOp) (dbl aq rl : Bool) (rd rs1 rs2 : Reg)
  /-- Load-reserved sets a reservation on an 8-byte granule (R160). -/
  | lr (dbl aq rl : Bool) (rd rs1 : Reg)
  /-- Store-conditional writes if the reservation holds and returns 0, else 1 (R160). -/
  | sc (dbl aq rl : Bool) (rd rs1 rs2 : Reg)
  /-- RV64I and M computation, jumps and branches as RISC-V specifies (R159). -/
  | integerOp (op : IntOp)
  /-- Holds later non-local accesses until earlier ones complete (R128). -/
  | fence (fm pred succ : BitVec 4) (rs1 rd : Reg)
  /-- Holds fetches until earlier writes complete and discards prefetched lines (R128). -/
  | fenceI (imm : BitVec 12) (rs1 rd : Reg)
  /-- Sends invalidations to the four agents of the device and holds non-local accesses (R161). -/
  | sfenceVma (rs1 rs2 : Reg)
  /-- Zicsr read or write of a permitted CSR, hardware updates applied after the write (R162). -/
  | csrAccess (op : CsrOp) (imm : Bool) (rd src : Reg) (csr : BitVec 12)
  /-- Reads two source ports and writes two destination ports (R204). -/
  | mov2 (b : BitVec 6) (c : BitVec 6) (a : BitVec 6) (d : BitVec 6)
  /-- Moves one port value to another (R204). -/
  | mov (a : BitVec 6) (d : BitVec 6)
  /-- Copies a 64-bit lane of a port into an x-register (R205). -/
  | mvpxD (p : BitVec 6) (l : BitVec 3) (d : BitVec 5)
  /-- Copies a 32-bit lane of a port, sign-extended, into an x-register (R205). -/
  | mvpxW (p : BitVec 6) (l : BitVec 4) (d : BitVec 5)
  /-- Writes a 64-bit lane of a port from an x-register (R205). -/
  | mvxpD (p : BitVec 6) (l : BitVec 3) (a : BitVec 5)
  /-- Writes a 32-bit lane of a port from an x-register (R205). -/
  | mvxpW (p : BitVec 6) (l : BitVec 4) (a : BitVec 5)
  /-- Broadcasts x[rs1] into all 8 lanes of a port (R205). -/
  | mvbxD (p : BitVec 6) (a : BitVec 5)
  /-- Broadcasts x[rs1][31:0] into all 16 lanes of a port (R205). -/
  | mvbxW (p : BitVec 6) (a : BitVec 5)
  /-- Writes a sign-extended 5-bit immediate into all 16 lanes of a port (R205). -/
  | mvip (p : BitVec 6) (i : BitVec 5)
  /-- VA integer lane add modulo 2^w (R211). -/
  | vaAdd (g : Trig) (w : BitVec 2)
  /-- VA integer lane subtract (R211). -/
  | vaSub (g : Trig) (w : BitVec 2)
  /-- VA integer lane multiply, low bits (R211). -/
  | vaMul (g : Trig) (w : BitVec 2)
  /-- VA signed lane minimum (R211). -/
  | vaMin (g : Trig) (w : BitVec 2)
  /-- VA signed lane maximum (R211). -/
  | vaMax (g : Trig) (w : BitVec 2)
  /-- VA lane shift left (R211). -/
  | vaSll (g : Trig) (w : BitVec 2)
  /-- VA lane arithmetic shift right (R211). -/
  | vaSra (g : Trig) (w : BitVec 2)
  /-- VA lane logical shift right (R211). -/
  | vaSrl (g : Trig) (w : BitVec 2)
  /-- VA floating lane add (R212). -/
  | vaFadd (g : Trig) (f : BitVec 2)
  /-- VA floating lane subtract (R212). -/
  | vaFsub (g : Trig) (f : BitVec 2)
  /-- VA floating lane multiply (R212). -/
  | vaFmul (g : Trig) (f : BitVec 2)
  /-- VA fused multiply-add, one rounding (R212). -/
  | vaFma (g : Trig) (f : BitVec 2)
  /-- VA negated fused multiply-add (R212). -/
  | vaFnma (g : Trig) (f : BitVec 2)
  /-- VA floating lane minimum (R212). -/
  | vaFmin (g : Trig) (f : BitVec 2)
  /-- VA floating lane maximum (R212). -/
  | vaFmax (g : Trig) (f : BitVec 2)
  /-- VA sign injection (R212). -/
  | vaSgnj (g : Trig) (f : BitVec 2)
  /-- VA bitwise and (R213). -/
  | vaAnd (g : Trig)
  /-- VA bitwise or (R213). -/
  | vaOr (g : Trig)
  /-- VA bitwise xor (R213). -/
  | vaXor (g : Trig)
  /-- VA 32-bit lane select by mask (R213). -/
  | vaSelW (g : Trig)
  /-- VA 64-bit lane select by mask (R213). -/
  | vaSelD (g : Trig)
  /-- VA 32-bit equality compare (R213). -/
  | vaCeqW (g : Trig)
  /-- VA 32-bit signed less-than (R213). -/
  | vaCltW (g : Trig)
  /-- VA 32-bit unsigned less-than (R213). -/
  | vaCltuW (g : Trig)
  /-- VA 64-bit equality compare (R213). -/
  | vaCeqD (g : Trig)
  /-- VA 64-bit signed less-than (R213). -/
  | vaCltD (g : Trig)
  /-- VA FP32 equality compare (R213). -/
  | vaFceqS (g : Trig)
  /-- VA FP32 less-than compare (R213). -/
  | vaFcltS (g : Trig)
  /-- VA FP32 less-or-equal compare (R213). -/
  | vaFcleS (g : Trig)
  /-- VA FP64 equality compare (R213). -/
  | vaFceqD (g : Trig)
  /-- VA FP64 less-than compare (R213). -/
  | vaFcltD (g : Trig)
  /-- VA FP64 less-or-equal compare (R213). -/
  | vaFcleD (g : Trig)
  /-- VA FP32 base-2 exponential (R214). -/
  | vaExp2S (g : Trig)
  /-- VA FP32 base-2 logarithm (R214). -/
  | vaLog2S (g : Trig)
  /-- VA FP32 reciprocal (R214). -/
  | vaRcpS (g : Trig)
  /-- VA FP32 reciprocal square root (R214). -/
  | vaRsqrtS (g : Trig)
  /-- VS lane permute by indices (R215). -/
  | vsPerm (g : Trig) (w : BitVec 2)
  /-- VS broadcast of one lane (R215). -/
  | vsBcast (g : Trig) (w : BitVec 2)
  /-- VS interleave of low halves (R215). -/
  | vsZiplo (g : Trig) (w : BitVec 2)
  /-- VS interleave of high halves (R215). -/
  | vsZiphi (g : Trig) (w : BitVec 2)
  /-- VS byte rotate (R215). -/
  | vsRotb (g : Trig)
  /-- VS compress of masked lanes (R216). -/
  | vsCompress (g : Trig) (w : BitVec 2)
  /-- VS expand into masked lanes (R216). -/
  | vsExpand (g : Trig) (w : BitVec 2)
  /-- VS FP64 tree sum (R217). -/
  | vsRsumD (g : Trig)
  /-- VS FP64 maximum reduction (R217). -/
  | vsRmaxD (g : Trig)
  /-- VS FP64 minimum reduction (R217). -/
  | vsRminD (g : Trig)
  /-- VS FP32 tree sum (R217). -/
  | vsRsumS (g : Trig)
  /-- VS FP32 maximum reduction (R217). -/
  | vsRmaxS (g : Trig)
  /-- VS FP32 minimum reduction (R217). -/
  | vsRminS (g : Trig)
  /-- VS BF16 sum widened to FP32 (R217). -/
  | vsRsumBf (g : Trig)
  /-- VS BF16 maximum to FP32 (R217). -/
  | vsRmaxBf (g : Trig)
  /-- VS BF16 minimum to FP32 (R217). -/
  | vsRminBf (g : Trig)
  /-- VS FP16 sum widened to FP32 (R217). -/
  | vsRsumHf (g : Trig)
  /-- VS FP16 maximum to FP32 (R217). -/
  | vsRmaxHf (g : Trig)
  /-- VS FP16 minimum to FP32 (R217). -/
  | vsRminHf (g : Trig)
  /-- VS 32-bit integer sum (R217). -/
  | vsIrsumW (g : Trig)
  /-- VS 64-bit integer sum (R217). -/
  | vsIrsumD (g : Trig)
  /-- VS 32-bit signed maximum (R217). -/
  | vsIrmaxW (g : Trig)
  /-- VS 32-bit signed minimum (R217). -/
  | vsIrminW (g : Trig)
  /-- VS 32-bit unsigned maximum (R217). -/
  | vsIrmaxuW (g : Trig)
  /-- VS 32-bit unsigned minimum (R217). -/
  | vsIrminuW (g : Trig)
  /-- VS 64-bit signed maximum (R217). -/
  | vsIrmaxD (g : Trig)
  /-- VS 64-bit signed minimum (R217). -/
  | vsIrminD (g : Trig)
  /-- VS 64-bit unsigned maximum (R217). -/
  | vsIrmaxuD (g : Trig)
  /-- VS 64-bit unsigned minimum (R217). -/
  | vsIrminuD (g : Trig)
  /-- CV FP32 to BF16 narrowing (R219). -/
  | cvBf16F32 (g : Trig) (c : BitVec 2)
  /-- CV FP32 to FP16 narrowing (R219). -/
  | cvF16F32 (g : Trig) (c : BitVec 2)
  /-- CV FP64 to FP32 narrowing (R219). -/
  | cvF32F64 (g : Trig) (c : BitVec 2)
  /-- CV FP32 to INT32 conversion (R219). -/
  | cvI32F32 (g : Trig) (c : BitVec 2)
  /-- CV FP64 to INT64 conversion (R219). -/
  | cvI64F64 (g : Trig) (c : BitVec 2)
  /-- CV INT32 to FP32 conversion (R219). -/
  | cvF32I32 (g : Trig) (c : BitVec 2)
  /-- CV INT64 to FP64 conversion (R219). -/
  | cvF64I64 (g : Trig) (c : BitVec 2)
  /-- CV FP32 to unscaled E4M3 (R220). -/
  | cvE4m3F32 (g : Trig) (c : BitVec 2)
  /-- CV FP32 to unscaled E5M2 (R219). -/
  | cvE5m2F32 (g : Trig) (c : BitVec 2)
  /-- CV INT32 to INT8 saturating (R219). -/
  | cvI8I32 (g : Trig)
  /-- CV BF16 to FP32 exact widening of one part (R219). -/
  | cvF32Bf16 (g : Trig) (c : BitVec 1)
  /-- CV FP16 to FP32 exact widening (R219). -/
  | cvF32F16 (g : Trig) (c : BitVec 1)
  /-- CV FP32 to FP64 exact widening (R219). -/
  | cvF64F32 (g : Trig) (c : BitVec 1)
  /-- CV E4M3 to FP32 exact widening (R219). -/
  | cvF32E4m3 (g : Trig) (c : BitVec 2)
  /-- CV E5M2 to FP32 exact widening (R219). -/
  | cvF32E5m2 (g : Trig) (c : BitVec 2)
  /-- CV INT8 to INT32 sign extension (R219). -/
  | cvI32I8 (g : Trig) (c : BitVec 2)
  /-- CV encode of one MXFP8 E4M3 block (R221). -/
  | cvMxencE4m3 (g : Trig)
  /-- CV encode of one MXFP8 E5M2 block (R221). -/
  | cvMxencE5m2 (g : Trig)
  /-- CV encode of F4B8 elements 0-31 (R221). -/
  | cvF4encLo (g : Trig)
  /-- CV encode of F4B8 elements 32-63 (R221). -/
  | cvF4encHi (g : Trig)
  /-- LS load of one window unit group into ls.r (R223). -/
  | lsLd (g : Trig)
  /-- LS load of F4B8 elements 0-31 (R223). -/
  | lsLdlo (g : Trig)
  /-- LS load of F4B8 elements 32-63 (R223). -/
  | lsLdhi (g : Trig)
  /-- LS load of n raw bytes (R223). -/
  | lsLdn (g : Trig)
  /-- LS encode and store of ls.d through a window (R223). -/
  | lsSt (g : Trig)
  /-- LS byte-masked raw store (R223). -/
  | lsStm (g : Trig)
  /-- MX 16x16 step with K of 64 bytes (R238). -/
  | mxMm (g : Trig)
  /-- MX 16x16 step with K of 128 bytes over two slots (R238). -/
  | mxMmw (g : Trig)
  /-- MX 8x8 FP64 step (R238). -/
  | mxMmd (g : Trig)
  /-- MX 16x8 step on half the slot columns (R238). -/
  | mxMmn (g : Trig)
  /-- Zeroes an accumulator and sets its format tag (R240). -/
  | mxZero (g : Trig)
  /-- Stores an accumulator into tile rows through the tile's window (R240). -/
  | mxSt (g : Trig)
  /-- Loads an accumulator from tile rows (R240). -/
  | mxLd (g : Trig)
  /-- Loads 16 columns into a weight slot (R246). -/
  | wbLd (g : Trig)
  /-- Loads and expands 2:4 compressed columns into a weight slot (R248). -/
  | wbLdc (g : Trig)
  /-- Clears a weight slot and records its window and band scale (R246). -/
  | wbClr (g : Trig)
  /-- Starts a copy-command list held in local scratchpad (R250). -/
  | ceRun (g : Trig)
  /-- Starts a copy-command list held in virtual space (R250). -/
  | ceRunv (g : Trig)
  /-- Posted store of one window unit group, with optional flag or tile arrival (R258). -/
  | niSt (g : Trig) (t : BitVec 2)
  /-- Posted store of local lines to a remote scratchpad (R257). -/
  | niTst (g : Trig) (t : BitVec 2)
  /-- Remote element-wise INT32 add of ni.d (R259). -/
  | niVaddI32 (g : Trig) (t : BitVec 2)
  /-- Remote element-wise INT64 add (R259). -/
  | niVaddI64 (g : Trig) (t : BitVec 2)
  /-- Remote element-wise FP32 add (R259). -/
  | niVaddF32 (g : Trig) (t : BitVec 2)
  /-- Remote element-wise FP64 add (R259). -/
  | niVaddF64 (g : Trig) (t : BitVec 2)
  /-- Remote element-wise BF16 add (R259). -/
  | niVaddBf16 (g : Trig) (t : BitVec 2)
  /-- Remote INT32 add of local lines (R259). -/
  | niTaddI32 (g : Trig) (t : BitVec 2)
  /-- Remote FP32 add of local lines (R259). -/
  | niTaddF32 (g : Trig) (t : BitVec 2)
  /-- Remote FP64 add of local lines (R259). -/
  | niTaddF64 (g : Trig) (t : BitVec 2)
  /-- Reads remote lines into local scratchpad with optional local arrival (R260). -/
  | niGet (g : Trig) (t : BitVec 2)
  /-- Sends a message value to a target hart's q-register (R257). -/
  | niMsg (g : Trig)
  /-- Binds a put window to a target device (R262). -/
  | niWin (g : Trig)
  /-- Returns a peer's capability word in ni.r (R263). -/
  | niCap (g : Trig)
  /-- Completes if a local flag word has reached the target, else watches it and parks (R171). -/
  | fwait (b : BitVec 5) (a : BitVec 5)
  /-- Posts one flag arrival with no data (R172). -/
  | fbump (a : BitVec 5)
  /-- Defines an EMPTY tile's base, window and lines (R173). -/
  | tdef (b : BitVec 5) (a : BitVec 5)
  /-- Arms an EMPTY tile for n arrivals (R174). -/
  | tarm (b : BitVec 5) (a : BitVec 5)
  /-- Releases a READY tile into DRAINING (R174). -/
  | trel (a : BitVec 5)
  /-- Completes when a tile is READY, else parks (R175). -/
  | twait (a : BitVec 5)
  /-- Posted store of 1 to 8 bytes with optional flag arrival (R176). -/
  | pstf (c : BitVec 5) (w : BitVec 2) (b : BitVec 5) (a : BitVec 5)
  /-- Non-fetching remote integer add with optional flag (R177). -/
  | raddfInt (c : BitVec 5) (w : BitVec 1) (b : BitVec 5) (a : BitVec 5)
  /-- Non-fetching remote floating-point add with optional flag (R177). -/
  | raddfFloat (c : BitVec 5) (w : BitVec 1) (b : BitVec 5) (a : BitVec 5)
  /-- Fetching remote integer add (R178). -/
  | rfadd (w : BitVec 1) (b : BitVec 5) (a : BitVec 5) (d : BitVec 5)
  /-- Fetching remote swap (R178). -/
  | rfswap (w : BitVec 1) (b : BitVec 5) (a : BitVec 5) (d : BitVec 5)
  /-- Fetching remote and (R178). -/
  | rfand (w : BitVec 1) (b : BitVec 5) (a : BitVec 5) (d : BitVec 5)
  /-- Fetching remote or (R178). -/
  | rfor (w : BitVec 1) (b : BitVec 5) (a : BitVec 5) (d : BitVec 5)
  /-- Fetching remote xor (R178). -/
  | rfxor (w : BitVec 1) (b : BitVec 5) (a : BitVec 5) (d : BitVec 5)
  /-- Fetching remote signed minimum (R178). -/
  | rfmin (w : BitVec 1) (b : BitVec 5) (a : BitVec 5) (d : BitVec 5)
  /-- Fetching remote signed maximum (R178). -/
  | rfmax (w : BitVec 1) (b : BitVec 5) (a : BitVec 5) (d : BitVec 5)
  /-- Fetching remote unsigned minimum (R178). -/
  | rfminu (w : BitVec 1) (b : BitVec 5) (a : BitVec 5) (d : BitVec 5)
  /-- Fetching remote unsigned maximum (R178). -/
  | rfmaxu (w : BitVec 1) (b : BitVec 5) (a : BitVec 5) (d : BitVec 5)
  /-- Fetching remote floating-point add (R178). -/
  | rfaddf (w : BitVec 1) (b : BitVec 5) (a : BitVec 5) (d : BitVec 5)
  /-- Remote compare-and-swap returning the old value (R179). -/
  | rcas (c : BitVec 5) (w : BitVec 1) (b : BitVec 5) (a : BitVec 5) (d : BitVec 5)
  /-- Release at a scope; rd fills when it performs (R180). -/
  | rfenceRel (s : BitVec 2) (d : BitVec 5)
  /-- Acquire; rd fills when earlier non-local reads and AMOs have completed (R180). -/
  | rfenceAcq (s : BitVec 2) (d : BitVec 5)
  /-- Sends a value to a q-register of a target hart (R181). -/
  | msend (b : BitVec 5) (a : BitVec 5) (q : BitVec 3)
  /-- Moves a full q-register into rd and empties it, else parks (R182). -/
  | qmov (q : BitVec 3) (d : BitVec 5)
  /-- Sends a continuation record to the home core and awaits the return in a q-register (R183). -/
  | callat (b : BitVec 5) (a : BitVec 5) (p : BitVec 2) (q : BitVec 3)
  /-- Moves the current task to the home core's queue after draining (R184). -/
  | hop (b : BitVec 5) (a : BitVec 5)
  /-- Requests migration of a 2 MiB region to this device (R187). -/
  | own (b : BitVec 5) (a : BitVec 5) (d : BitVec 5)
  /-- Drops the owner-cache entry for a region and resends FAULTED requests there (R188). -/
  | ocinv (a : BitVec 5)
  /-- Reads a shared core register (R189). -/
  | kget (k : BitVec 3) (d : BitVec 5)
  /-- Writes a shared core register (R189). -/
  | kset (a : BitVec 5) (k : BitVec 3)
  /-- Releases, arrives at a group barrier and parks until completion (R190). -/
  | gbar (a : BitVec 5)
  /-- Barrier arrival with a summed contribution (R191). -/
  | gsum (b : BitVec 5) (a : BitVec 5) (d : BitVec 5)
  /-- Barrier arrival with a maximum contribution (R191). -/
  | gmax (b : BitVec 5) (a : BitVec 5) (d : BitVec 5)
  /-- Barrier arrival with a minimum contribution (R191). -/
  | gmin (b : BitVec 5) (a : BitVec 5) (d : BitVec 5)
  /-- Hart 0 starts an OFF hart on a local record (R192). -/
  | hstart (b : BitVec 5) (a : BitVec 5) (d : BitVec 5)
  /-- Hart 0 obtains the exit value of a hart's task (R193). -/
  | hreap (a : BitVec 5) (d : BitVec 5)
  /-- Hart 0 drains a hart and has it save its image (R194). -/
  | hsave (b : BitVec 5) (a : BitVec 5)
  /-- Hart 0 loads an image into an OFF hart (R194). -/
  | hload (b : BitVec 5) (a : BitVec 5)
  /-- Enqueues a local record into the core's task queue (R185). -/
  | tqpush (b : BitVec 5) (a : BitVec 5) (d : BitVec 5)
  /-- Takes an admitted task-queue entry into local scratchpad (R186). -/
  | tqpop (b : BitVec 5) (a : BitVec 5) (d : BitVec 5)
  /-- Writes the hart's port image to local scratchpad (R196). -/
  | psave (a : BitVec 5)
  /-- Loads the hart's port file from a port image (R196). -/
  | pload (a : BitVec 5)
  /-- Hart 0 migrates its core context to an unbound target core (R198). -/
  | cmig (a : BitVec 5) (d : BitVec 5)
  /-- Installs a debug overlay redirecting fetches of a code page (R199). -/
  | ovmap (b : BitVec 5) (a : BitVec 5)
  /-- Removes a debug overlay entry (R199). -/
  | ovunmap (a : BitVec 5)
  /-- Power-on or assertion of the reset input resets every field to its Reset value and starts bring-up from PHASE 0 (R10). -/
  | coldReset
  /-- A CXL Hot Reset, link-down reset or Function Level Reset acts as a cold reset while keeping fuses and module flash (R10). -/
  | warmReset
  /-- The controller reads the firmware image from module flash and moves to VERIFY (R321). -/
  | phaseRom
  /-- The Ed25519 and ML-DSA-65 signatures are verified and the bring-up moves to MEMORY, or to RECOVERY on failure (R322). -/
  | firmwareVerify
  /-- The HBM stacks are trained and the harvest maps loaded (R321). -/
  | phaseMemory
  /-- Every fw field, the capability table and the domain mode are loaded (R321). -/
  | phaseConfig
  /-- The ports and the CXL port are enabled and trained, and the device reaches READY (R321). -/
  | phaseLinks
  /-- Mailbox command 1 returns the attestation report signed over the nonce with both identity keys (R323). -/
  | mailboxReport
  /-- Mailbox command 2 returns the device identity certificate (R323). -/
  | mailboxCert
  /-- Mailbox command 3 checks the payload and binds the window cores to a context in one step, starting hart 0 of each from the template (R337). -/
  | bindContext
  /-- Mailbox command 4 fences the context's slots, turns its harts OFF and releases its cores (R401). -/
  | unbindContext
  /-- A command value the mailbox does not answer completes with 0xFF in the response word (R323). -/
  | mailboxUnknownCommand
  /-- A write to a register field without its own row sets RW fields, clears W1C bits and ignores RO, RSV and firmware-only fields (R9). -/
  | registerWrite
  /-- A hart-0 store to CORECTL sets AUTOSTART, AUTOMASK and AUTOPRIO; a store by another hart raises COREREG (R41). -/
  | corectlWrite
  /-- Writing 1 to FWSTAT.PEND clears the flag-wake interrupt and sets COUNT to 0 (R79). -/
  | fwstatWrite
  /-- Advancing FBTAIL clears VALID in the records passed and frees buffer places for held faults (R372). -/
  | fbtailWrite
  /-- Writing CLR = 1 sets SOFTERR.CORR to 0 (R379). -/
  | softerrClr
  /-- A valid TARGET code different from CUR, written while BUSY is 0, sets BUSY and requests a die-clock step (R317). -/
  | dclkctlTargetWrite
  /-- After the first slot-15 die cycle following the request, the die clock halts and HALTREF records the time (R317). -/
  | clockHalt
  /-- 1,500 to 1,501 ticks after the halt, the clock resumes at the new code and STEPREF, STEPCYC, STEPINFO, CUR and BUSY are updated (R317). -/
  | clockRelock
  /-- HFLCMD command 1 waits for every earlier aperture write to perform and then counts one arrival at HFLFLAG (R315). -/
  | flush
  /-- HFLCMD command 2 flushes only the aperture writes within the given range and context, then counts the flag arrival (R315). -/
  | flushrange
  /-- When the covered aperture writes have completed, the flag arrival is made at HFLFLAG and BUSY returns to 0 (R315). -/
  | hostFlushComplete
  /-- A host write through BAR4 is sent with its virtual address and HAPCTX's ASID to its home, where it performs (R315). -/
  | hostApertureWrite
  /-- A host read through BAR4 performs at the home and returns data, or all ones if it faults (R315). -/
  | hostApertureRead
  /-- A host CXL.mem write to the coherent window performs when the port receives it, in receive order (R314). -/
  | hostWindowWrite
  /-- Loss of the host link writes a PORTDEAD record with SOURCE 8 while device agents continue (R408). -/
  | cxlLinkDown
  /-- Writing OPEN to a FREE slot that names a bound context makes this die the lead and enters OPENING (R269). -/
  | sctlOpen
  /-- When every dispatch agent has loaded the entry lines, the slot enters RUNNING with SPC at SBASE (R269). -/
  | slotOpenComplete
  /-- Writing CLOSE stops fetch, discards un-issued entries and enters CLOSING (R269). -/
  | sctlClose
  /-- When issued entries are DONE, the drain is empty and every descriptor is FREE, the slot becomes FREE (R269). -/
  | slotCloseComplete
  /-- Writing SLIMIT past new stream text launches fetch, and resumes a HALTED slot when it lies above SPC (R269). -/
  | slimitWrite
  /-- The lead sequencer receives a requested 64-byte line of stream text (R276). -/
  | streamLineFetch
  /-- One stream instruction per die cycle is decoded, renamed and placed in the window HELD (R276). -/
  | streamDecode
  /-- A HELD entry whose issue conditions all hold is issued, two at most per die cycle (R280). -/
  | streamIssue
  /-- An issued stream instruction's completion moves its window entry to DONE (R277). -/
  | streamEntryDone
  /-- Up to four DONE entries retire in order, commit versions and enter the store drain where stated (R281). -/
  | streamRetire
  /-- A store-drain entry leaves when its writes have completed (R281). -/
  | storeDrainLeave
  /-- Every 64 die cycles the sequencer rereads an SWAIT flag word and marks the instruction DONE when its target is reached (R303). -/
  | swaitPoll
  /-- Each die cycle the dispatcher places the oldest issued SKERN that can be placed, sending task records to cores (R58). -/
  | skernTaskPlacement
  /-- The end of a task with ST = 1 is reported to its SKERN, which becomes DONE when every task has ended (R297). -/
  | taskEndReport
  /-- At a tile-step boundary the macro-operation sequencer picks the next step by priority and age, stopping fenced or closing instructions (R284). -/
  | macroTileStep
  /-- A Cellar engine finishes a queued part, and the instruction is DONE when all its parts' writes have completed (R285). -/
  | cellarPartComplete
  /-- A Cellar part sent to another device is split by stack and queued there, forwarded or returned by its region state (R286). -/
  | remotePartArrival
  /-- A MARKED entry at the head of the window fences the slot, sets SFSTAT and discards every younger entry (R369). -/
  | streamFaultRaise
  /-- With autostart on, the core claims the lowest eligible OFF hart for the selected queued task and loads it (R40). -/
  | autostartClaim
  /-- The last byte of a record, image or template prefix is written and the hart enters RUNNING (R30). -/
  | hartLoadComplete
  /-- A draining hart's in-flight triggers have completed and it enters SAVING (R50). -/
  | hsaveDrainComplete
  /-- The last byte of the 1,920-byte image is written and the hart enters OFF (R50). -/
  | hartSaveComplete
  /-- Once triggers and the release have completed, a0 becomes the exit value, the return message is sent and the hart enters OFF (R195). -/
  | hstopComplete
  /-- When the live registers are full and triggers done, hop sends its record and the hart enters OFF (R47). -/
  | hopSend
  /-- After the drains, the core context moves to the target core, a context doorplate is allocated and the harts resume (R198). -/
  | cmigComplete
  /-- A PARKED hart whose condition holds issues in its first own slot at least 2 die cycles later (R31). -/
  | hartWake
  /-- The hart's tick count reaches xquantum.LIMIT, setting mip bit 16 and restarting the count (R52). -/
  | quantumExpiry
  /-- An enabled pending interrupt is taken as a trap in the hart's slot (R32). -/
  | interruptTrap
  /-- A pending engine, remote or translation fault is taken as cause 25 or 26 in the first eligible slot (R363). -/
  | deferredFaultTrap
  /-- A U-mode data translation fault enters the upcall handler at xupvec with a resumption reservation (R367). -/
  | upcallEntry
  /-- One queued or held fault record per die cycle is written into the fault buffer as places allow (R373). -/
  | faultRecordWrite
  /-- A continuation record arriving at a core's task queue is admitted to its partition or refused (R46). -/
  | taskRecordArrival
  /-- A message fills the target hart's empty q-register, or is refused, or forwarded by a context doorplate (R181). -/
  | messageArrival
  /-- A member core's arrival report reaches the group's combining-tree root (R55). -/
  | barrierArrivalReport
  /-- The completion reaches a member core, waking gbar harts and filling combining destinations (R355). -/
  | barrierCompletionArrival
  /-- A request leaves the NI's outbound queue once the window, retry buffer and ordering rules allow (R264). -/
  | niRequestSend
  /-- A write request arriving at its home performs and is acknowledged (R118). -/
  | remoteStorePerform
  /-- A read request performs at its home and its data is returned (R120). -/
  | remoteLoadPerform
  /-- A remote atomic or add performs as one indivisible read-modify-write at its home, checked against capability (R177). -/
  | remoteAtomicPerform
  /-- A flag arrival increments COUNT modulo 2^48 and applies the SWAPPED rule (R76). -/
  | flagArrival
  /-- A tile arrival is counted in FILLING, refused in EMPTY or DRAINING, or reported TILEREADY (R73). -/
  | tileArrival
  /-- The home's acknowledgement reaches the issuing NI and completes the write (R120). -/
  | acknowledgementArrival
  /-- A returning value fills its destination register, or the tagged image slot of a saved hart (R231). -/
  | splitPhaseFill
  /-- A refused request enters the retry buffer to wait out its back-off (R265). -/
  | negativeAcknowledgement
  /-- When a back-off expires, the request is sent again from the retry buffer (R265). -/
  | retrySend
  /-- A remote fault returns to the issuing NI, which writes the record and settles the request (R366). -/
  | remoteFaultArrival
  /-- Every access of the release set within scope has completed, and the release performs (R125). -/
  | releasePerform
  /-- On an owner-cache miss the die's translation agent walks to level 1 and answers the owner (R85). -/
  | ownerLookup
  /-- A translation miss at the home agent takes a walker and walks the tables, updating A, D or CHAN (R84). -/
  | pageWalk
  /-- An sfence.vma invalidation reaches a translation agent, takes effect and is acknowledged (R84). -/
  | tlbInvalidation
  /-- Every agent has acknowledged and the hart's held accesses are released (R161). -/
  | sfenceVmaComplete
  /-- A request to own a region reaches the old owner, which allocates a COPYING stub while the new owner installs its leaf (R87). -/
  | ownRequestArrival
  /-- Copy of one 64 KiB chunk to the new owner completes and COPIED advances (R87). -/
  | chunkCopy
  /-- An access reaching a doorplate is forwarded with a redirect, or bounced at hop count 3 (R89). -/
  | doorplateForward
  /-- A redirect installs the named owner in the NI's owner cache (R90). -/
  | redirectArrival
  /-- A bounced access updates the owner cache and is sent again (R89). -/
  | bounceArrival
  /-- A device receiving a map update rewrites its level-1 entries, drops owner-cache entries and acknowledges (R90). -/
  | mapUpdate
  /-- A map-update acknowledgement decrements ACKS at the old owner's stub (R92). -/
  | mapUpdateAck
  /-- A QUIET stub returns to FREE once 100 µs have passed since LASTFWD (R92). -/
  | stubReclaim
  /-- A destination gathers the markers of a release and returns one collective completion (R312). -/
  | flushMarker
  /-- A collective completion completes every covered write of the source (R312). -/
  | collectiveCompletion
  /-- A VA, VS, CV or LS trigger completes after its fixed latency and fills its result latch (R208). -/
  | unitResultFill
  /-- A queued MX trigger begins in the array after its predecessor, checking formats and accumulator (R241). -/
  | mxTriggerStart
  /-- After the trigger's last array cycle, mx.s fills (R241). -/
  | mxResultFill
  /-- A WB trigger starts when WB is idle and earlier MX reads of its slot have finished (R249). -/
  | wbTriggerStart
  /-- Every byte of the slot is written and wb.s fills (R246). -/
  | wbResultFill
  /-- A queued CE trigger is activated when fewer than eight lists are active (R255). -/
  | ceListActivate
  /-- Each die cycle the CE issues one transfer for the next eligible active list (R255). -/
  | ceTransfer
  /-- A command completes, and ce.s fills when END or MAXCMD has completed with every earlier command (R254). -/
  | ceCommandComplete
  /-- Firmware enables a DOWN port, which enters TRAINING (R309). -/
  | portEnable
  /-- Lanes align, FEC locks and credits are exchanged, and the port enters ACTIVE (R309). -/
  | portTrained
  /-- No alignment within 10 ms returns the port to DOWN (R309). -/
  | trainingTimeout
  /-- Firmware requests quiesce and the ACTIVE port enters QUIESCED (R309). -/
  | portQuiesce
  /-- Every sent flit is acknowledged and the port enters DOWN (R309). -/
  | quiesceComplete
  /-- Firmware disables a DEAD port, moving it to DOWN (R402). -/
  | portDisable
  /-- A received flit is checked and its messages delivered by virtual channel, or a repeat is requested (R308). -/
  | flitReceive
  /-- The transmitter resends the requested flit from its repeat store (R308). -/
  | repeatRequestReceive
  /-- 256 repeat requests within 1 ms move the port to DEGRADED with a PORTDEG record (R402). -/
  | portDegrade
  /-- A lane losing alignment moves the port to DEGRADED on its remaining lanes (R402). -/
  | laneLoss
  /-- All lost lanes realign with few repeats and the port returns to ACTIVE (R402). -/
  | laneRealign
  /-- No good lane, 10 µs without a flit, or an unheld repeat moves the port to DEAD (R402). -/
  | portDead
  /-- 25 µs after a path dies, its unanswered requests are settled UNKNOWN (R404). -/
  | pathDeathSettle
  /-- A flit that has been in the fabric more than 20 µs is discarded (R404). -/
  | flitDiscard
  /-- A crossing error lasting 10 µs fails the boundary and reroutes or splits the dies (R406). -/
  | dieBoundaryFailure
  /-- TEMPMAX reaching 105 °C writes a THERMAL record and steps the die to code 10 (R412). -/
  | thermalLimit
  /-- TEMPMAX reaching 115 °C stops the die as a split, or stops all dies when it is die 0 (R412). -/
  | thermalStop
  /-- After 100 ms below 95 °C the die may leave code 10 (R412). -/
  | thermalRecover
  /-- When average power exceeds PWRLIM, the controller steps down the clock of the die with the highest power (R324). -/
  | powerLimitStep
  /-- With power at least 5% below the limit, the controller raises a die clock by one step (R324). -/
  | powerRestoreStep
  /-- Scrubbing finds an uncorrectable HBM error, poisons the word and writes an HBMSOFT record (R377). -/
  | hbmScrub
  /-- Parks the hart until an interrupt is pending and enabled in mie (R161). -/
  | wfi
  /-- Returns from an M-mode trap (R161). -/
  | mret
  /-- Returns from an S-mode trap (R161). -/
  | sret
  /-- Environment call trap by mode (R417). -/
  | ecall
  /-- Breakpoint trap, cause 3 (R417). -/
  | ebreak
  /-- Ends the hart's task after its triggers and release complete (R195). -/
  | hstop
  /-- Returns from an upcall to xupepc (R197). -/
  | upret
  /-- The host CXL link comes back up after going down, and the device writes that waited on a back-invalidation proceed (R408). -/
  | cxlLinkReturn
  /-- The host answers a back-invalidation of a window line, and the device write waiting on that line performs (R314). -/
  | backInvalidationResponse
  /-- The 20-slot transfer of a psave or pload ends, and the hart resumes issuing (R196). -/
  | portImageTransferComplete
  /-- Every die has updated the context's overlay table, and the ovmap or ovunmap completes so the hart may issue again (R199). -/
  | overlayUpdateComplete
  /-- An ni.win or ni.cap trigger completes locally within 4 die cycles and fills ni.r (R261). -/
  | niLocalTriggerComplete
  deriving DecidableEq, Repr

end Sys2Proof
end

