-- ==== Sys2Proof/WellFormed.lean ====
section
/-! DEFINITION. Which terms of `Instr` stand for a word or a step of the device: port codes and roles
(R141), limits of the moves (R144), orderings and scopes (R127, R143), reserved function codes (R218, R257),
unused fields of stream words and copy commands (R251, R278, R287). -/

namespace Sys2Proof

/-- Port codes that a transport can read (R141). -/
def isSourcePort (p : BitVec 6) : Bool :=
  p.toNat < 16 || p == 0x14 || p == 0x17 || p == 0x19 || p == 0x1D || p == 0x21 || p == 0x23 || p == 0x25
    || p == 0x29 || p == 0x2A || p == 0x2C

/-- Port codes that a transport can write (R141). -/
def isDestPort (p : BitVec 6) : Bool :=
  p.toNat < 16 || (0x10 ≤ p.toNat && p.toNat ≤ 0x13) || p == 0x15 || p == 0x16 || p == 0x18 || p == 0x1B
    || p == 0x1C || (0x1E ≤ p.toNat && p.toNat ≤ 0x20) || p == 0x22 || p == 0x24
    || (0x26 ≤ p.toNat && p.toNat ≤ 0x28) || p == 0x2B || p == 0x2C

/-- The valid combinations of ordering and scope (R127). -/
def orderScopeOk (ord scope : BitVec 2) : Bool := (ord == 0) == (scope == 0)

/-- A trigger word's source port is a source or the unit's own trigger operand, and its ordering and scope
are a valid pair (R143). -/
def Trig.ok (g : Trig) (operand : BitVec 6) : Bool :=
  (isSourcePort g.port || g.port == operand) && orderScopeOk g.ord g.scope

/-- Which of DST, S1, S2, S3, MODE, AUX and IMM64 an OP names (R287), in this order. -/
def streamUses (op : BitVec 8) : Bool × Bool × Bool × Bool × Bool × Bool × Bool :=
  match op with
  | 0x01#8 => (true, false, false, false, false, false, true)
  | 0x10#8 => (true, false, false, false, false, false, true)
  | 0x11#8 => (false, true, false, false, false, false, true)
  | 0x12#8 => (true, false, false, false, false, false, true)
  | 0x20#8 => (true, true, true, true, true, true, false)
  | 0x21#8 => (true, true, true, true, true, false, true)
  | 0x22#8 => (true, true, false, false, true, false, false)
  | 0x23#8 => (true, true, false, false, false, false, false)
  | 0x24#8 => (true, true, false, false, false, false, false)
  | 0x30#8 => (true, true, false, false, true, false, true)
  | 0x31#8 => (false, true, true, false, true, false, true)
  | 0x32#8 => (false, true, true, false, true, true, true)
  | 0x40#8 => (true, true, true, true, true, true, true)
  | 0x41#8 => (false, false, false, false, true, true, true)
  | 0x50#8 => (false, true, false, false, false, false, true)
  | 0x51#8 => (true, false, false, false, false, false, true)
  | 0x60#8 => (false, false, false, false, true, true, true)
  | 0x61#8 => (false, false, false, false, true, true, true)
  | 0x63#8 => (false, false, false, false, false, true, true)
  | 0x64#8 => (false, false, false, false, true, true, true)
  | 0x65#8 => (false, false, false, false, false, false, true)
  | 0x67#8 => (false, false, false, false, false, false, true)
  | 0x70#8 => (false, false, false, false, false, true, true)
  | _ => (false, false, false, false, false, false, false)

/-- The MODE bits that an OP names (R287): a nonzero bit beyond them is not an instruction (R423). -/
def streamModeMask (op : BitVec 8) : BitVec 8 :=
  match op with
  | 0x20#8 => 0x03
  | 0x21#8 => 0xFF
  | 0x22#8 => 0x1F
  | 0x30#8 | 0x31#8 | 0x32#8 => 0x3F
  | 0x40#8 => 0xFF
  | 0x41#8 => 0x01
  | 0x60#8 => 0x03
  | 0x61#8 => 0x01
  | 0x64#8 => 0xFF
  | _ => 0x00

/-- The AUX bits that an OP names (R287). R424 finds the AUX bits of `SKERN` and `SOWN` at issue. -/
def streamAuxMask (op : BitVec 8) : BitVec 16 :=
  match op with
  | 0x20#8 => 0x0001
  | 0x32#8 => 0x0003
  | _ => 0xFFFF

/-- Instructions on which none of ACQ, REL, ORD and SYNC may be set (R278). -/
def streamNoFlags (op : BitVec 8) : Bool :=
  op == 0x01 || op == 0x60 || op == 0x61 || op == 0x62 || op == 0x63 || op == 0x64 || op == 0x66

/-- The flags and SCOPE of R278 are legal. -/
def streamFlagsOk (op : BitVec 8) (f : SFields) : Bool :=
  let flags := f.acq != 0 || f.rel != 0 || f.ord != 0 || f.sync != 0
  let needScope := f.acq != 0 || f.rel != 0 || op == 0x64 || op == 0x66
  !(streamNoFlags op && flags) && ((f.scope != 0) == needScope)

/-- The first field of a stream word that keeps it from being an instruction, as the DETAIL of R415 numbers
them (0 for flags and SCOPE), or none where it is one (R423). -/
def sfieldOffence (op : BitVec 8) (f : SFields) : Option Nat :=
  let (d, s1, s2, s3, m, a, i) := streamUses op
  if !d && f.dst != 0 then some 1
  else if !s1 && f.s1 != 0 then some 2
  else if !s2 && f.s2 != 0 then some 3
  else if !s3 && f.s3 != 0 then some 4
  else if (!m && f.mode != 0) || f.mode &&& ~~~ streamModeMask op != 0 || (op == 0x60 && f.mode == 3) then some 5
  else if (!a && f.aux != 0) || f.aux &&& ~~~ streamAuxMask op != 0 || (op == 0x32 && f.aux == 3) then some 6
  else if (!i && f.imm64 != 0) || (op == 0x60 && f.mode == 0 && f.imm64 != 0) then some 7
  else if !streamFlagsOk op f then some 0
  else none

/-- Which of ROWS, SRC, DST, LEN, strides, IDX and a tag a copy command's kind uses, in this order (R252). -/
def copyUses (kind : BitVec 8) : Bool × Bool × Bool × Bool × Bool × Bool × Bool :=
  match kind with
  | 0x01#8 => (false, true, true, true, false, false, true)
  | 0x02#8 => (true, true, true, true, true, false, true)
  | 0x03#8 => (false, true, true, true, false, false, true)
  | 0x04#8 => (true, true, true, true, true, true, true)
  | 0x05#8 => (false, true, true, false, false, false, false)
  | 0x06#8 => (false, false, true, false, false, false, false)
  | 0x07#8 => (false, true, true, false, false, false, true)
  | 0x08#8 => (false, true, false, false, false, false, false)
  | 0x00#8 => (false, false, false, false, false, false, true)
  | _ => (false, false, false, false, false, false, false)

/-- The encoding conditions of R251, R252 and the first row of R422 on a command's fields. -/
def copyFieldsOk (kind : BitVec 8) (c : CFields) : Bool :=
  let (rows, src, dst, len, stride, idx, tag) := copyUses kind
  (rows || c.rows == 0) && (src || c.src == 0) && (dst || c.dst == 0 || (kind == 0x00 && c.tag == 2)) && (len || c.len == 0)
    && (stride || (c.sstride == 0 && c.dstride == 0)) && (idx || c.idx == 0)
    && (tag || c.tag == 0) && c.tag != 3 && (c.tag != 0 || c.tagw == 0)
    && orderScopeOk c.ord c.scope && (kind != 0x05 || c.ord == 0)

/-- The two orders of a trigger word are valid for `mov2` and `mov` (R144). -/
def moveOk (sa da sb db : BitVec 6) : Bool :=
  isSourcePort sa && isDestPort da && isSourcePort sb && isDestPort db && (da != db || da == 0x2C)

/-- The terms of `Instr` that stand for a word of their kind, or for a step of an agent that exists. -/
def Instr.wellFormed (i : Instr) : Bool :=
  match i with
  | .mov2 b c a d => moveOk a d b c && !(b == 0x2C && c == 0x2C)
  | .mov a d => moveOk a d 0x2C 0x2C
  | .mvpxD p _ _ => isSourcePort p && p != 0x2A
  | .mvpxW p _ _ => isSourcePort p && p != 0x2A
  | .mvxpD p _ _ => isDestPort p && p != 0x2B
  | .mvxpW p _ _ => isDestPort p && p != 0x2B
  | .mvbxD p _ => isDestPort p && p != 0x2B
  | .mvbxW p _ => isDestPort p && p != 0x2B
  | .mvip p _ => isDestPort p && p != 0x2B
  | .rfenceRel s _ => s != 0
  | .rfenceAcq s _ => s != 0
  | .vaAdd g _ => g.ok 0x10
  | .vaSub g _ => g.ok 0x10
  | .vaMul g _ => g.ok 0x10
  | .vaMin g _ => g.ok 0x10
  | .vaMax g _ => g.ok 0x10
  | .vaSll g _ => g.ok 0x10
  | .vaSra g _ => g.ok 0x10
  | .vaSrl g _ => g.ok 0x10
  | .vaFadd g _ => g.ok 0x10
  | .vaFsub g _ => g.ok 0x10
  | .vaFmul g _ => g.ok 0x10
  | .vaFma g _ => g.ok 0x10
  | .vaFnma g _ => g.ok 0x10
  | .vaFmin g _ => g.ok 0x10
  | .vaFmax g _ => g.ok 0x10
  | .vaSgnj g _ => g.ok 0x10
  | .vaAnd g => g.ok 0x10
  | .vaOr g => g.ok 0x10
  | .vaXor g => g.ok 0x10
  | .vaSelW g => g.ok 0x10
  | .vaSelD g => g.ok 0x10
  | .vaCeqW g => g.ok 0x10
  | .vaCltW g => g.ok 0x10
  | .vaCltuW g => g.ok 0x10
  | .vaCeqD g => g.ok 0x10
  | .vaCltD g => g.ok 0x10
  | .vaFceqS g => g.ok 0x10
  | .vaFcltS g => g.ok 0x10
  | .vaFcleS g => g.ok 0x10
  | .vaFceqD g => g.ok 0x10
  | .vaFcltD g => g.ok 0x10
  | .vaFcleD g => g.ok 0x10
  | .vaExp2S g => g.ok 0x10
  | .vaLog2S g => g.ok 0x10
  | .vaRcpS g => g.ok 0x10
  | .vaRsqrtS g => g.ok 0x10
  | .vsPerm g _ => g.ok 0x15
  | .vsBcast g _ => g.ok 0x15
  | .vsZiplo g w => g.ok 0x15 && w != 3
  | .vsZiphi g w => g.ok 0x15 && w != 3
  | .vsRotb g => g.ok 0x15
  | .vsCompress g _ => g.ok 0x15
  | .vsExpand g _ => g.ok 0x15
  | .vsRsumD g => g.ok 0x15
  | .vsRmaxD g => g.ok 0x15
  | .vsRminD g => g.ok 0x15
  | .vsRsumS g => g.ok 0x15
  | .vsRmaxS g => g.ok 0x15
  | .vsRminS g => g.ok 0x15
  | .vsRsumBf g => g.ok 0x15
  | .vsRmaxBf g => g.ok 0x15
  | .vsRminBf g => g.ok 0x15
  | .vsRsumHf g => g.ok 0x15
  | .vsRmaxHf g => g.ok 0x15
  | .vsRminHf g => g.ok 0x15
  | .vsIrsumW g => g.ok 0x15
  | .vsIrsumD g => g.ok 0x15
  | .vsIrmaxW g => g.ok 0x15
  | .vsIrminW g => g.ok 0x15
  | .vsIrmaxuW g => g.ok 0x15
  | .vsIrminuW g => g.ok 0x15
  | .vsIrmaxD g => g.ok 0x15
  | .vsIrminD g => g.ok 0x15
  | .vsIrmaxuD g => g.ok 0x15
  | .vsIrminuD g => g.ok 0x15
  | .cvBf16F32 g c => g.ok 0x18 && c != 3
  | .cvF16F32 g c => g.ok 0x18 && c != 3
  | .cvF32F64 g c => g.ok 0x18 && c != 3
  | .cvI32F32 g c => g.ok 0x18 && c != 3
  | .cvI64F64 g c => g.ok 0x18 && c != 3
  | .cvF32I32 g c => g.ok 0x18 && c != 3
  | .cvF64I64 g c => g.ok 0x18 && c != 3
  | .cvE4m3F32 g c => g.ok 0x18 && c != 3
  | .cvE5m2F32 g c => g.ok 0x18 && c != 3
  | .cvI8I32 g => g.ok 0x18
  | .cvF32Bf16 g _ => g.ok 0x18
  | .cvF32F16 g _ => g.ok 0x18
  | .cvF64F32 g _ => g.ok 0x18
  | .cvF32E4m3 g _ => g.ok 0x18
  | .cvF32E5m2 g _ => g.ok 0x18
  | .cvI32I8 g _ => g.ok 0x18
  | .cvMxencE4m3 g => g.ok 0x18
  | .cvMxencE5m2 g => g.ok 0x18
  | .cvF4encLo g => g.ok 0x18
  | .cvF4encHi g => g.ok 0x18
  | .lsLd g => g.ok 0x1B
  | .lsLdlo g => g.ok 0x1B
  | .lsLdhi g => g.ok 0x1B
  | .lsLdn g => g.ok 0x1B
  | .lsSt g => g.ok 0x1B
  | .lsStm g => g.ok 0x1B
  | .mxMm g => g.ok 0x1E
  | .mxMmw g => g.ok 0x1E
  | .mxMmd g => g.ok 0x1E
  | .mxMmn g => g.ok 0x1E
  | .mxZero g => g.ok 0x1E
  | .mxSt g => g.ok 0x1E
  | .mxLd g => g.ok 0x1E
  | .wbLd g => g.ok 0x22
  | .wbLdc g => g.ok 0x22
  | .wbClr g => g.ok 0x22
  | .ceRun g => g.ok 0x24
  | .ceRunv g => g.ok 0x24
  | .niSt g t => g.ok 0x26 && t != 3
  | .niTst g t => g.ok 0x26 && t != 3
  | .niVaddI32 g t => g.ok 0x26 && t != 3
  | .niVaddI64 g t => g.ok 0x26 && t != 3
  | .niVaddF32 g t => g.ok 0x26 && t != 3
  | .niVaddF64 g t => g.ok 0x26 && t != 3
  | .niVaddBf16 g t => g.ok 0x26 && t != 3
  | .niTaddI32 g t => g.ok 0x26 && t != 3
  | .niTaddF32 g t => g.ok 0x26 && t != 3
  | .niTaddF64 g t => g.ok 0x26 && t != 3
  | .niGet g t => g.ok 0x26 && t != 3
  | .niMsg g => g.ok 0x26
  | .niWin g => g.ok 0x26
  | .niCap g => g.ok 0x26
  | .tdecl f => sfieldOffence 0x01 f == none
  | .sload f => sfieldOffence 0x10 f == none
  | .sstore f => sfieldOffence 0x11 f == none
  | .sfill f => sfieldOffence 0x12 f == none
  | .smm f => sfieldOffence 0x20 f == none
  | .sew f => sfieldOffence 0x21 f == none
  | .sred f => sfieldOffence 0x22 f == none
  | .sxpose f => sfieldOffence 0x23 f == none
  | .scvt f => sfieldOffence 0x24 f == none
  | .sgather f => sfieldOffence 0x30 f == none
  | .sscatter f => sfieldOffence 0x31 f == none
  | .sreduce f => sfieldOffence 0x32 f == none
  | .skern f => sfieldOffence 0x40 f == none
  | .sgroup f => sfieldOffence 0x41 f == none
  | .sput f => sfieldOffence 0x50 f == none
  | .sget f => sfieldOffence 0x51 f == none
  | .sbr f => sfieldOffence 0x60 f == none
  | .sloop f => sfieldOffence 0x61 f == none
  | .sendloop f => sfieldOffence 0x62 f == none
  | .sswitch f => sfieldOffence 0x63 f == none
  | .swait f => sfieldOffence 0x64 f == none
  | .ssignal f => sfieldOffence 0x65 f == none
  | .sfence f => sfieldOffence 0x66 f == none
  | .shalt f => sfieldOffence 0x67 f == none
  | .sown f => sfieldOffence 0x70 f == none
  | .ccEnd c => copyFieldsOk 0x00 c
  | .ccCopy c => copyFieldsOk 0x01 c
  | .ccCopy2d c => copyFieldsOk 0x02 c
  | .ccFill c => copyFieldsOk 0x03 c
  | .ccGather c => copyFieldsOk 0x04 c
  | .ccWait c => copyFieldsOk 0x05 c
  | .ccBump c => copyFieldsOk 0x06 c
  | .ccWrite c => copyFieldsOk 0x07 c
  | .ccLink c => copyFieldsOk 0x08 c

  | _ => true

end Sys2Proof
end

