-- ==== Sys2Proof/Decode.lean ====
section
/-! DEFINITION. The decoder of core words (R137 to R146, R159, R416), of stream words (R147, R148, R423) and of
copy commands (R251, R252, R422), total on any bits, and after it the encoder from the same tables. -/

namespace Sys2Proof

/-- The bits of an R-type word (R139). -/
structure RWord where
  f7 : BitVec 7
  rs2 : BitVec 5
  rs1 : BitVec 5
  f3 : BitVec 3
  rd : BitVec 5
  op : BitVec 7
  deriving DecidableEq, Repr

/-- Lays out an R-type word (R139). -/
def rType (f7 : BitVec 7) (rs2 rs1 : BitVec 5) (f3 : BitVec 3) (rd : BitVec 5) (op : BitVec 7) : BitVec 32 :=
  f7 ++ rs2 ++ rs1 ++ f3 ++ rd ++ op

/-- Reads the fields of an R-type word (R139). -/
def splitR (w : BitVec 32) : RWord :=
  ⟨w.extractLsb' 25 7, w.extractLsb' 20 5, w.extractLsb' 15 5, w.extractLsb' 12 3, w.extractLsb' 7 5, w.extractLsb' 0 7⟩

/-- Lays out a TS word (R139): the R-type word with rs3 and funct2 in place of funct7. -/
def tsType (rs3 : BitVec 5) (f2 : BitVec 2) (rs2 rs1 : BitVec 5) (f3 : BitVec 3) (rd : BitVec 5) : BitVec 32 :=
  rType (rs3 ++ f2) rs2 rs1 f3 rd 0x5B

/-- Lays out an I-type word (R139). -/
def iType (imm : BitVec 12) (rs1 : BitVec 5) (f3 : BitVec 3) (rd : BitVec 5) (op : BitVec 7) : BitVec 32 :=
  rType (imm.extractLsb' 5 7) (imm.extractLsb' 0 5) rs1 f3 rd op

/-- The imm12 of an I-type word (R139). -/
def RWord.imm12 (r : RWord) : BitVec 12 := r.f7 ++ r.rs2

/-- Lays out an XG word (R139). -/
def xg (g : Trig) (fn : BitVec 8) (unit : BitVec 5) : BitVec 32 :=
  g.scope ++ g.ord ++ g.port ++ fn ++ 0#2 ++ unit ++ 0x2B#7

/-- Lays out an XM2 word (R139). -/
def xm2 (srcB dstB srcA dstA : BitVec 6) : BitVec 32 := 0#1 ++ srcB ++ dstB ++ srcA ++ dstA ++ 0x0B#7

/-- Lays out an XS word (R139). -/
def xs (port : BitVec 6) (lane rs1 : BitVec 5) (f3 : BitVec 3) (rd : BitVec 5) : BitVec 32 :=
  1#1 ++ port ++ lane ++ rs1 ++ f3 ++ rd ++ 0x0B#7

/-- The load of funct3 (RV64I). -/
def loadKind (f3 : BitVec 3) : Option LoadKind :=
  match f3 with
  | 0#3 => some .lb | 1#3 => some .lh | 2#3 => some .lw | 3#3 => some .ld
  | 4#3 => some .lbu | 5#3 => some .lhu | 6#3 => some .lwu | _ => none

/-- funct3 of a load (RV64I). -/
def LoadKind.f3 : LoadKind → BitVec 3
  | .lb => 0 | .lh => 1 | .lw => 2 | .ld => 3 | .lbu => 4 | .lhu => 5 | .lwu => 6

/-- The store of funct3 (RV64I). -/
def storeKind (f3 : BitVec 3) : Option StoreKind :=
  match f3 with
  | 0#3 => some .sb | 1#3 => some .sh | 2#3 => some .sw | 3#3 => some .sd | _ => none

/-- funct3 of a store (RV64I). -/
def StoreKind.f3 : StoreKind → BitVec 3
  | .sb => 0 | .sh => 1 | .sw => 2 | .sd => 3

/-- The AMO of funct5 (RV64A); LR and SC stand apart. -/
def amoOp (f5 : BitVec 5) : Option AmoOp :=
  match f5 with
  | 0x00#5 => some .add | 0x01#5 => some .swap | 0x04#5 => some .xor | 0x08#5 => some .or | 0x0C#5 => some .and
  | 0x10#5 => some .min | 0x14#5 => some .max | 0x18#5 => some .minu | 0x1C#5 => some .maxu | _ => none

/-- funct5 of an AMO (RV64A). -/
def AmoOp.f5 : AmoOp → BitVec 5
  | .add => 0x00 | .swap => 0x01 | .xor => 0x04 | .or => 0x08 | .and => 0x0C
  | .min => 0x10 | .max => 0x14 | .minu => 0x18 | .maxu => 0x1C

/-- The condition of funct3 (RV64I). -/
def branchCond (f3 : BitVec 3) : Option BranchCond :=
  match f3 with
  | 0#3 => some .beq | 1#3 => some .bne | 4#3 => some .blt | 5#3 => some .bge | 6#3 => some .bltu
  | 7#3 => some .bgeu | _ => none

/-- funct3 of a branch (RV64I). -/
def BranchCond.f3 : BranchCond → BitVec 3
  | .beq => 0 | .bne => 1 | .blt => 4 | .bge => 5 | .bltu => 6 | .bgeu => 7

/-- funct3 of a register-immediate operation (RV64I). -/
def ImmOp.f3 : ImmOp → BitVec 3
  | .addi => 0 | .slti => 2 | .sltiu => 3 | .xori => 4 | .ori => 6 | .andi => 7

/-- funct7 and funct3 of a 64-bit register operation (RV64I, M). -/
def AluOp.code : AluOp → BitVec 7 × BitVec 3
  | .add => (0, 0) | .sub => (0x20, 0) | .sll => (0, 1) | .slt => (0, 2) | .sltu => (0, 3) | .xor => (0, 4)
  | .srl => (0, 5) | .sra => (0x20, 5) | .or => (0, 6) | .and => (0, 7)
  | .mul => (1, 0) | .mulh => (1, 1) | .mulhsu => (1, 2) | .mulhu => (1, 3)
  | .div => (1, 4) | .divu => (1, 5) | .rem => (1, 6) | .remu => (1, 7)

/-- The 64-bit register operation of funct7 and funct3 (RV64I, M). -/
def aluOp (f7 : BitVec 7) (f3 : BitVec 3) : Option AluOp :=
  match f7 with
  | 0x00#7 => match f3 with
    | 0#3 => some .add | 1#3 => some .sll | 2#3 => some .slt | 3#3 => some .sltu
    | 4#3 => some .xor | 5#3 => some .srl | 6#3 => some .or | 7#3 => some .and
  | 0x20#7 => match f3 with
    | 0#3 => some .sub | 5#3 => some .sra | _ => none
  | 0x01#7 => match f3 with
    | 0#3 => some .mul | 1#3 => some .mulh | 2#3 => some .mulhsu | 3#3 => some .mulhu
    | 4#3 => some .div | 5#3 => some .divu | 6#3 => some .rem | 7#3 => some .remu
  | _ => none

/-- funct7 and funct3 of a 32-bit register operation (RV64I, M). -/
def AluWOp.code : AluWOp → BitVec 7 × BitVec 3
  | .addw => (0, 0) | .subw => (0x20, 0) | .sllw => (0, 1) | .srlw => (0, 5) | .sraw => (0x20, 5)
  | .mulw => (1, 0) | .divw => (1, 4) | .divuw => (1, 5) | .remw => (1, 6) | .remuw => (1, 7)

/-- The 32-bit register operation of funct7 and funct3 (RV64I, M). -/
def aluWOp (f7 : BitVec 7) (f3 : BitVec 3) : Option AluWOp :=
  match f7 with
  | 0x00#7 => match f3 with
    | 0#3 => some .addw | 1#3 => some .sllw | 5#3 => some .srlw | _ => none
  | 0x20#7 => match f3 with
    | 0#3 => some .subw | 5#3 => some .sraw | _ => none
  | 0x01#7 => match f3 with
    | 0#3 => some .mulw | 4#3 => some .divw | 5#3 => some .divuw | 6#3 => some .remw | 7#3 => some .remuw
    | _ => none
  | _ => none

/-- Custom-0 words, moves (R144). -/
def decodeCustom0 (w : BitVec 32) : Option Instr :=
  let r := splitR w
  let port := w.extractLsb' 25 6
  if w.extractLsb' 31 1 = 0#1 then
    let sb := w.extractLsb' 25 6
    let db := w.extractLsb' 19 6
    let sa := w.extractLsb' 13 6
    let da := w.extractLsb' 7 6
    if sb = 0x2C ∧ db = 0x2C then some (.mov sa da) else some (.mov2 sb db sa da)
  else match r.f3 with
    | 0#3 => if w.extractLsb' 23 2 = 0 ∧ r.rs1 = 0 then some (.mvpxD port (w.extractLsb' 20 3) r.rd) else none
    | 1#3 => if w.extractLsb' 24 1 = 0 ∧ r.rs1 = 0 then some (.mvpxW port (w.extractLsb' 20 4) r.rd) else none
    | 2#3 => if w.extractLsb' 23 2 = 0 ∧ r.rd = 0 then some (.mvxpD port (w.extractLsb' 20 3) r.rs1) else none
    | 3#3 => if w.extractLsb' 24 1 = 0 ∧ r.rd = 0 then some (.mvxpW port (w.extractLsb' 20 4) r.rs1) else none
    | 4#3 => if r.rs2 = 0 ∧ r.rd = 0 then some (.mvbxD port r.rs1) else none
    | 5#3 => if r.rs2 = 0 ∧ r.rd = 0 then some (.mvbxW port r.rs1) else none
    | 6#3 => if r.rs1 = 0 ∧ r.rd = 0 then some (.mvip port r.rs2) else none
    | _ => none

/-- The functions of VA (R142, the unit's chapter). -/
def decodeVa (g : Trig) (fn : BitVec 8) : Option Instr :=
  if fn.extractLsb' 6 2 = 0#2 then
    match fn.extractLsb' 2 4 with
    | 0x0#4 => some (.vaAdd g (fn.extractLsb' 0 2))
    | 0x1#4 => some (.vaSub g (fn.extractLsb' 0 2))
    | 0x2#4 => some (.vaMul g (fn.extractLsb' 0 2))
    | 0x3#4 => some (.vaMin g (fn.extractLsb' 0 2))
    | 0x4#4 => some (.vaMax g (fn.extractLsb' 0 2))
    | 0x5#4 => some (.vaSll g (fn.extractLsb' 0 2))
    | 0x6#4 => some (.vaSra g (fn.extractLsb' 0 2))
    | 0x7#4 => some (.vaSrl g (fn.extractLsb' 0 2))
    | 0x8#4 => some (.vaFadd g (fn.extractLsb' 0 2))
    | 0x9#4 => some (.vaFsub g (fn.extractLsb' 0 2))
    | 0xA#4 => some (.vaFmul g (fn.extractLsb' 0 2))
    | 0xB#4 => some (.vaFma g (fn.extractLsb' 0 2))
    | 0xC#4 => some (.vaFnma g (fn.extractLsb' 0 2))
    | 0xD#4 => some (.vaFmin g (fn.extractLsb' 0 2))
    | 0xE#4 => some (.vaFmax g (fn.extractLsb' 0 2))
    | _ => some (.vaSgnj g (fn.extractLsb' 0 2))
  else match fn with
    | 0x40#8 => some (.vaAnd g)
    | 0x41#8 => some (.vaOr g)
    | 0x42#8 => some (.vaXor g)
    | 0x43#8 => some (.vaSelW g)
    | 0x44#8 => some (.vaSelD g)
    | 0x45#8 => some (.vaCeqW g)
    | 0x46#8 => some (.vaCltW g)
    | 0x47#8 => some (.vaCltuW g)
    | 0x48#8 => some (.vaCeqD g)
    | 0x49#8 => some (.vaCltD g)
    | 0x4A#8 => some (.vaFceqS g)
    | 0x4B#8 => some (.vaFcltS g)
    | 0x4C#8 => some (.vaFcleS g)
    | 0x4D#8 => some (.vaFceqD g)
    | 0x4E#8 => some (.vaFcltD g)
    | 0x4F#8 => some (.vaFcleD g)
    | 0x50#8 => some (.vaExp2S g)
    | 0x51#8 => some (.vaLog2S g)
    | 0x52#8 => some (.vaRcpS g)
    | 0x53#8 => some (.vaRsqrtS g)
    | _ => none

/-- The functions of VS (R142, the unit's chapter). -/
def decodeVs (g : Trig) (fn : BitVec 8) : Option Instr :=
  match fn with
  | 0x0E#8 => some (.vsRotb g)
  | 0x18#8 => some (.vsRsumD g)
  | 0x19#8 => some (.vsRmaxD g)
  | 0x1A#8 => some (.vsRminD g)
  | 0x1B#8 => some (.vsRsumS g)
  | 0x1C#8 => some (.vsRmaxS g)
  | 0x1D#8 => some (.vsRminS g)
  | 0x1E#8 => some (.vsRsumBf g)
  | 0x1F#8 => some (.vsRmaxBf g)
  | 0x20#8 => some (.vsRminBf g)
  | 0x21#8 => some (.vsRsumHf g)
  | 0x22#8 => some (.vsRmaxHf g)
  | 0x23#8 => some (.vsRminHf g)
  | 0x24#8 => some (.vsIrsumW g)
  | 0x25#8 => some (.vsIrsumD g)
  | 0x26#8 => some (.vsIrmaxW g)
  | 0x27#8 => some (.vsIrminW g)
  | 0x28#8 => some (.vsIrmaxuW g)
  | 0x29#8 => some (.vsIrminuW g)
  | 0x2A#8 => some (.vsIrmaxD g)
  | 0x2B#8 => some (.vsIrminD g)
  | 0x2C#8 => some (.vsIrmaxuD g)
  | 0x2D#8 => some (.vsIrminuD g)
  | _ => match fn.extractLsb' 2 6 with
    | 0x00#6 => some (.vsPerm g (fn.extractLsb' 0 2))
    | 0x01#6 => some (.vsBcast g (fn.extractLsb' 0 2))
    | 0x04#6 => some (.vsCompress g (fn.extractLsb' 0 2))
    | 0x05#6 => some (.vsExpand g (fn.extractLsb' 0 2))
    | 0x02#6 | 0x03#6 =>
      if fn.extractLsb' 0 1 = 0#1 then some (.vsZiplo g (fn.extractLsb' 1 2)) else some (.vsZiphi g (fn.extractLsb' 1 2))
    | _ => none

/-- The functions of CV (R142, the unit's chapter). -/
def decodeCv (g : Trig) (fn : BitVec 8) : Option Instr :=
  match fn with
  | 0x09#8 => some (.cvI8I32 g)
  | 0x40#8 => some (.cvMxencE4m3 g)
  | 0x41#8 => some (.cvMxencE5m2 g)
  | 0x42#8 => some (.cvF4encLo g)
  | 0x43#8 => some (.cvF4encHi g)
  | _ =>
    if fn.extractLsb' 6 2 ≠ 0#2 then none else match fn.extractLsb' 0 4 with
    | 0x0#4 => some (.cvBf16F32 g (fn.extractLsb' 4 2))
    | 0x1#4 => some (.cvF16F32 g (fn.extractLsb' 4 2))
    | 0x2#4 => some (.cvF32F64 g (fn.extractLsb' 4 2))
    | 0x3#4 => some (.cvI32F32 g (fn.extractLsb' 4 2))
    | 0x4#4 => some (.cvI64F64 g (fn.extractLsb' 4 2))
    | 0x5#4 => some (.cvF32I32 g (fn.extractLsb' 4 2))
    | 0x6#4 => some (.cvF64I64 g (fn.extractLsb' 4 2))
    | 0x7#4 => some (.cvE4m3F32 g (fn.extractLsb' 4 2))
    | 0x8#4 => some (.cvE5m2F32 g (fn.extractLsb' 4 2))
    | 0xA#4 => if fn.extractLsb' 5 1 = 0#1 then some (.cvF32Bf16 g (fn.extractLsb' 4 1)) else none
    | 0xB#4 => if fn.extractLsb' 5 1 = 0#1 then some (.cvF32F16 g (fn.extractLsb' 4 1)) else none
    | 0xC#4 => if fn.extractLsb' 5 1 = 0#1 then some (.cvF64F32 g (fn.extractLsb' 4 1)) else none
    | 0xD#4 => some (.cvF32E4m3 g (fn.extractLsb' 4 2))
    | 0xE#4 => some (.cvF32E5m2 g (fn.extractLsb' 4 2))
    | 0xF#4 => some (.cvI32I8 g (fn.extractLsb' 4 2))
    | _ => none

/-- The functions of LS (R142, the unit's chapter). -/
def decodeLs (g : Trig) (fn : BitVec 8) : Option Instr :=
  match fn with
  | 0x00#8 => some (.lsLd g)
  | 0x01#8 => some (.lsLdlo g)
  | 0x02#8 => some (.lsLdhi g)
  | 0x03#8 => some (.lsLdn g)
  | 0x08#8 => some (.lsSt g)
  | 0x09#8 => some (.lsStm g)
  | _ => none

/-- The functions of MX (R142, the unit's chapter). -/
def decodeMx (g : Trig) (fn : BitVec 8) : Option Instr :=
  match fn with
  | 0x00#8 => some (.mxMm g)
  | 0x01#8 => some (.mxMmw g)
  | 0x02#8 => some (.mxMmd g)
  | 0x03#8 => some (.mxMmn g)
  | 0x08#8 => some (.mxZero g)
  | 0x09#8 => some (.mxSt g)
  | 0x0A#8 => some (.mxLd g)
  | _ => none

/-- The functions of WB (R142, the unit's chapter). -/
def decodeWb (g : Trig) (fn : BitVec 8) : Option Instr :=
  match fn with
  | 0x00#8 => some (.wbLd g)
  | 0x01#8 => some (.wbLdc g)
  | 0x02#8 => some (.wbClr g)
  | _ => none

/-- The functions of CE (R142, the unit's chapter). -/
def decodeCe (g : Trig) (fn : BitVec 8) : Option Instr :=
  match fn with
  | 0x00#8 => some (.ceRun g)
  | 0x01#8 => some (.ceRunv g)
  | _ => none

/-- The functions of NI (R142, the unit's chapter). -/
def decodeNi (g : Trig) (fn : BitVec 8) : Option Instr :=
  match fn with
  | 0x2C#8 => some (.niMsg g)
  | 0x30#8 => some (.niWin g)
  | 0x34#8 => some (.niCap g)
  | _ => match fn.extractLsb' 2 6 with
    | 0x00#6 => some (.niSt g (fn.extractLsb' 0 2))
    | 0x01#6 => some (.niTst g (fn.extractLsb' 0 2))
    | 0x02#6 => some (.niVaddI32 g (fn.extractLsb' 0 2))
    | 0x03#6 => some (.niVaddI64 g (fn.extractLsb' 0 2))
    | 0x04#6 => some (.niVaddF32 g (fn.extractLsb' 0 2))
    | 0x05#6 => some (.niVaddF64 g (fn.extractLsb' 0 2))
    | 0x06#6 => some (.niVaddBf16 g (fn.extractLsb' 0 2))
    | 0x07#6 => some (.niTaddI32 g (fn.extractLsb' 0 2))
    | 0x08#6 => some (.niTaddF32 g (fn.extractLsb' 0 2))
    | 0x09#6 => some (.niTaddF64 g (fn.extractLsb' 0 2))
    | 0x0A#6 => some (.niGet g (fn.extractLsb' 0 2))
    | _ => none

/-- Custom-1 words, triggers (R142, R143). -/
def decodeCustom1 (w : BitVec 32) : Option Instr :=
  let g : Trig := ⟨w.extractLsb' 30 2, w.extractLsb' 28 2, w.extractLsb' 22 6⟩
  let fn := w.extractLsb' 14 8
  if w.extractLsb' 12 2 ≠ 0#2 then none
  else match w.extractLsb' 7 5 with
    | 0#5 => decodeVa g fn
    | 1#5 => decodeVs g fn
    | 2#5 => decodeCv g fn
    | 3#5 => decodeLs g fn
    | 4#5 => decodeMx g fn
    | 5#5 => decodeWb g fn
    | 6#5 => decodeCe g fn
    | 7#5 => decodeNi g fn
    | _ => none

/-- Custom-2 words of funct3 000: flags and tiles (R145). -/
def decodeFlagTile (r : RWord) : Option Instr :=
  if r.rd ≠ 0 then none
  else match r.f7 with
    | 0x00#7 => some (.fwait r.rs2 r.rs1)
    | 0x01#7 => if r.rs2 = 0 then some (.fbump r.rs1) else none
    | 0x02#7 => some (.tdef r.rs2 r.rs1)
    | 0x03#7 => some (.tarm r.rs2 r.rs1)
    | 0x04#7 => if r.rs2 = 0 then some (.trel r.rs1) else none
    | 0x05#7 => if r.rs2 = 0 then some (.twait r.rs1) else none
    | _ => none

/-- Custom-2 words of funct3 011: fetching atomics (R145, R178). -/
def decodeFetchAtomic (r : RWord) : Option Instr :=
  let w := r.f7.extractLsb' 0 1
  match r.f7.extractLsb' 1 6 with
  | 0#6 => some (.rfadd w r.rs2 r.rs1 r.rd)
  | 1#6 => some (.rfswap w r.rs2 r.rs1 r.rd)
  | 2#6 => some (.rfand w r.rs2 r.rs1 r.rd)
  | 3#6 => some (.rfor w r.rs2 r.rs1 r.rd)
  | 4#6 => some (.rfxor w r.rs2 r.rs1 r.rd)
  | 5#6 => some (.rfmin w r.rs2 r.rs1 r.rd)
  | 6#6 => some (.rfmax w r.rs2 r.rs1 r.rd)
  | 7#6 => some (.rfminu w r.rs2 r.rs1 r.rd)
  | 8#6 => some (.rfmaxu w r.rs2 r.rs1 r.rd)
  | 9#6 => some (.rfaddf w r.rs2 r.rs1 r.rd)
  | _ => none

/-- Custom-2 words of funct3 110: messages, tasks and ownership (R145). -/
def decodeTask (r : RWord) : Option Instr :=
  match r.f7 with
  | 0x00#7 => if r.rd.extractLsb' 3 2 = 0 then some (.msend r.rs2 r.rs1 (r.rd.extractLsb' 0 3)) else none
  | 0x01#7 => if r.rs2 = 0 ∧ r.rs1.extractLsb' 3 2 = 0 then some (.qmov (r.rs1.extractLsb' 0 3) r.rd) else none
  | 0x02#7 => some (.callat r.rs2 r.rs1 (r.rd.extractLsb' 3 2) (r.rd.extractLsb' 0 3))
  | 0x03#7 => if r.rd = 0 then some (.hop r.rs2 r.rs1) else none
  | 0x04#7 => some (.own r.rs2 r.rs1 r.rd)
  | 0x05#7 => if r.rs2 = 0 ∧ r.rd = 0 then some (.ocinv r.rs1) else none
  | _ => none

/-- Custom-2 words of funct3 111: shared registers and groups (R145). -/
def decodeGroup (r : RWord) : Option Instr :=
  match r.f7 with
  | 0x00#7 => if r.rs2 = 0 ∧ r.rs1.extractLsb' 3 2 = 0 then some (.kget (r.rs1.extractLsb' 0 3) r.rd) else none
  | 0x01#7 => if r.rs2 = 0 ∧ r.rd.extractLsb' 3 2 = 0 then some (.kset r.rs1 (r.rd.extractLsb' 0 3)) else none
  | 0x03#7 => if r.rs2 = 0 ∧ r.rd = 0 then some (.gbar r.rs1) else none
  | 0x04#7 => some (.gsum r.rs2 r.rs1 r.rd)
  | 0x05#7 => some (.gmax r.rs2 r.rs1 r.rd)
  | 0x06#7 => some (.gmin r.rs2 r.rs1 r.rd)
  | _ => none

/-- Custom-2 words (R145). -/
def decodeCustom2 (r : RWord) : Option Instr :=
  let rs3 := r.f7.extractLsb' 2 5
  let f2 := r.f7.extractLsb' 0 2
  match r.f3 with
  | 0#3 => decodeFlagTile r
  | 1#3 => if r.rd = 0 then some (.pstf rs3 f2 r.rs2 r.rs1) else none
  | 2#3 =>
    if r.rd ≠ 0 then none
    else if f2.extractLsb' 1 1 = 0 then some (.raddfInt rs3 (f2.extractLsb' 0 1) r.rs2 r.rs1)
    else some (.raddfFloat rs3 (f2.extractLsb' 0 1) r.rs2 r.rs1)
  | 3#3 => decodeFetchAtomic r
  | 4#3 => if f2.extractLsb' 1 1 = 0 then some (.rcas rs3 (f2.extractLsb' 0 1) r.rs2 r.rs1 r.rd) else none
  | 5#3 =>
    if r.rs1 ≠ 0 ∨ r.f7 ≠ 0 ∨ r.rs2.extractLsb' 3 2 ≠ 0 then none
    else if r.rs2.extractLsb' 2 1 = 0 then some (.rfenceRel (r.rs2.extractLsb' 0 2) r.rd)
    else some (.rfenceAcq (r.rs2.extractLsb' 0 2) r.rd)
  | 6#3 => decodeTask r
  | 7#3 => decodeGroup r

/-- Custom-3 words (R146). -/
def decodeCustom3 (r : RWord) : Option Instr :=
  match r.f3 with
  | 0#3 => match r.f7 with
    | 0x00#7 => some (.hstart r.rs2 r.rs1 r.rd)
    | 0x01#7 => if r.rs2 = 0 then some (.hreap r.rs1 r.rd) else none
    | 0x02#7 => if r.rd = 0 then some (.hsave r.rs2 r.rs1) else none
    | 0x03#7 => if r.rd = 0 then some (.hload r.rs2 r.rs1) else none
    | 0x04#7 => if r.rd = 0 ∧ r.rs1 = 0 ∧ r.rs2 = 0 then some .hstop else none
    | 0x05#7 => some (.tqpush r.rs2 r.rs1 r.rd)
    | 0x06#7 => some (.tqpop r.rs2 r.rs1 r.rd)
    | _ => none
  | 1#3 => match r.f7 with
    | 0x00#7 => if r.rd = 0 ∧ r.rs2 = 0 then some (.psave r.rs1) else none
    | 0x01#7 => if r.rd = 0 ∧ r.rs2 = 0 then some (.pload r.rs1) else none
    | 0x02#7 => if r.rd = 0 ∧ r.rs1 = 0 ∧ r.rs2 = 0 then some .upret else none
    | 0x03#7 => if r.rs2 = 0 then some (.cmig r.rs1 r.rd) else none
    | _ => none
  | 2#3 => match r.f7 with
    | 0x00#7 => if r.rd = 0 then some (.ovmap r.rs2 r.rs1) else none
    | 0x01#7 => if r.rd = 0 ∧ r.rs2 = 0 then some (.ovunmap r.rs1) else none
    | _ => none
  | _ => none

/-- The SYSTEM words of the standard subset (R159, R161). -/
def decodeSystem (r : RWord) : Option Instr :=
  match r.f3 with
  | 0#3 =>
    if r.rd ≠ 0 then none
    else if r.f7 = 0x09 then some (.sfenceVma r.rs1 r.rs2)
    else if r.rs1 ≠ 0 then none
    else if r.f7 = 0 ∧ r.rs2 = 0 then some .ecall
    else if r.f7 = 0 ∧ r.rs2 = 1 then some .ebreak
    else if r.f7 = 0x08 ∧ r.rs2 = 2 then some .sret
    else if r.f7 = 0x18 ∧ r.rs2 = 2 then some .mret
    else if r.f7 = 0x08 ∧ r.rs2 = 5 then some .wfi
    else none
  | 1#3 => some (.csrAccess .rw false r.rd r.rs1 r.imm12)
  | 2#3 => some (.csrAccess .rs false r.rd r.rs1 r.imm12)
  | 3#3 => some (.csrAccess .rc false r.rd r.rs1 r.imm12)
  | 5#3 => some (.csrAccess .rw true r.rd r.rs1 r.imm12)
  | 6#3 => some (.csrAccess .rs true r.rd r.rs1 r.imm12)
  | 7#3 => some (.csrAccess .rc true r.rd r.rs1 r.imm12)
  | _ => none

/-- The A-extension words (R159, R160). -/
def decodeAmo (r : RWord) : Option Instr :=
  if r.f3 ≠ 2 ∧ r.f3 ≠ 3 then none
  else
    let dbl := r.f3 == 3
    let aq := r.f7.extractLsb' 1 1 == 1
    let rl := r.f7.extractLsb' 0 1 == 1
    let f5 := r.f7.extractLsb' 2 5
    if f5 = 0x02 then if r.rs2 = 0 then some (.lr dbl aq rl r.rd r.rs1) else none
    else if f5 = 0x03 then some (.sc dbl aq rl r.rd r.rs1 r.rs2)
    else match amoOp f5 with
      | some op => some (.amo op dbl aq rl r.rd r.rs1 r.rs2)
      | none => none

/-- Register-immediate computation (RV64I). -/
def decodeOpImm (r : RWord) : Option Instr :=
  let sh : BitVec 6 := r.f7.extractLsb' 0 1 ++ r.rs2
  let f6 := r.f7.extractLsb' 1 6
  match r.f3 with
  | 0#3 => some (.integerOp (.opImm .addi r.rd r.rs1 r.imm12))
  | 2#3 => some (.integerOp (.opImm .slti r.rd r.rs1 r.imm12))
  | 3#3 => some (.integerOp (.opImm .sltiu r.rd r.rs1 r.imm12))
  | 4#3 => some (.integerOp (.opImm .xori r.rd r.rs1 r.imm12))
  | 6#3 => some (.integerOp (.opImm .ori r.rd r.rs1 r.imm12))
  | 7#3 => some (.integerOp (.opImm .andi r.rd r.rs1 r.imm12))
  | 1#3 => if f6 = 0 then some (.integerOp (.shiftImm .sll r.rd r.rs1 sh)) else none
  | 5#3 =>
    if f6 = 0 then some (.integerOp (.shiftImm .srl r.rd r.rs1 sh))
    else if f6 = 0x10 then some (.integerOp (.shiftImm .sra r.rd r.rs1 sh))
    else none

/-- 32-bit register-immediate computation (RV64I). -/
def decodeOpImmW (r : RWord) : Option Instr :=
  match r.f3 with
  | 0#3 => some (.integerOp (.addiw r.rd r.rs1 r.imm12))
  | 1#3 => if r.f7 = 0 then some (.integerOp (.shiftImmW .sll r.rd r.rs1 r.rs2)) else none
  | 5#3 =>
    if r.f7 = 0 then some (.integerOp (.shiftImmW .srl r.rd r.rs1 r.rs2))
    else if r.f7 = 0x20 then some (.integerOp (.shiftImmW .sra r.rd r.rs1 r.rs2))
    else none
  | _ => none

/-- FENCE and FENCE.I words; the fields that the standard reserves for later use are ignored (R128, R159). -/
def decodeFence (r : RWord) : Option Instr :=
  match r.f3 with
  | 0#3 => some (.fence (r.imm12.extractLsb' 8 4) (r.imm12.extractLsb' 4 4) (r.imm12.extractLsb' 0 4) r.rs1 r.rd)
  | 1#3 => some (.fenceI r.imm12 r.rs1 r.rd)
  | _ => none

/-- The core word's fields as an instruction, before the limits that `wellFormed` states. -/
def decodeFields (w : BitVec 32) : Option Instr :=
  let r := splitR w
  match r.op with
  | 0x03#7 => match loadKind r.f3 with
    | some k => some (.scalarLoad k r.rd r.rs1 r.imm12)
    | none => none
  | 0x0B#7 => decodeCustom0 w
  | 0x0F#7 => decodeFence r
  | 0x13#7 => decodeOpImm r
  | 0x17#7 => some (.integerOp (.auipc r.rd (w.extractLsb' 12 20)))
  | 0x1B#7 => decodeOpImmW r
  | 0x23#7 => match storeKind r.f3 with
    | some k => some (.scalarStore k r.rs1 r.rs2 (r.f7 ++ r.rd))
    | none => none
  | 0x2B#7 => decodeCustom1 w
  | 0x2F#7 => decodeAmo r
  | 0x33#7 => match aluOp r.f7 r.f3 with
    | some o => some (.integerOp (.op o r.rd r.rs1 r.rs2))
    | none => none
  | 0x37#7 => some (.integerOp (.lui r.rd (w.extractLsb' 12 20)))
  | 0x3B#7 => match aluWOp r.f7 r.f3 with
    | some o => some (.integerOp (.opW o r.rd r.rs1 r.rs2))
    | none => none
  | 0x5B#7 => decodeCustom2 r
  | 0x63#7 => match branchCond r.f3 with
    | some c => some (.integerOp (.branch c r.rs1 r.rs2
        (w.extractLsb' 31 1 ++ w.extractLsb' 7 1 ++ w.extractLsb' 25 6 ++ w.extractLsb' 8 4)))
    | none => none
  | 0x67#7 => if r.f3 = 0 then some (.integerOp (.jalr r.rd r.rs1 r.imm12)) else none
  | 0x6F#7 => some (.integerOp (.jal r.rd
        (w.extractLsb' 31 1 ++ w.extractLsb' 12 8 ++ w.extractLsb' 20 1 ++ w.extractLsb' 21 10)))
  | 0x73#7 => decodeSystem r
  | 0x7B#7 => decodeCustom3 r
  | _ => none

/-- Keeps an instruction that meets the limits of its encoding (R11, R416). -/
def keepWellFormed (i : Option Instr) : Option Instr :=
  match i with
  | some j => if j.wellFormed then some j else none
  | none => none

/-- The core instruction of a 32-bit word, or none where the word is not an instruction (R416). -/
def decodeCore (w : BitVec 32) : Option Instr := keepWellFormed (decodeFields w)

/-- The fields of a stream word (R147). -/
def streamFields (w : BitVec 128) : SFields :=
  ⟨w.extractLsb' 64 64, w.extractLsb' 48 16, w.extractLsb' 40 8, w.extractLsb' 34 6, w.extractLsb' 28 6,
   w.extractLsb' 22 6, w.extractLsb' 16 6, w.extractLsb' 14 2, w.extractLsb' 12 2, w.extractLsb' 11 1,
   w.extractLsb' 10 1, w.extractLsb' 9 1, w.extractLsb' 8 1⟩

/-- Lays out a stream word (R147). -/
def streamWord (f : SFields) (op : BitVec 8) : BitVec 128 :=
  f.imm64 ++ f.aux ++ f.mode ++ f.s3 ++ f.s2 ++ f.s1 ++ f.dst ++ f.prio ++ f.scope ++ f.sync ++ f.ord ++ f.rel
    ++ f.acq ++ op

/-- The stream instruction of OP (R148). -/
def streamOp (op : BitVec 8) (f : SFields) : Option Instr :=
  match op with
  | 0x01#8 => some (.tdecl f)
  | 0x10#8 => some (.sload f)
  | 0x11#8 => some (.sstore f)
  | 0x12#8 => some (.sfill f)
  | 0x20#8 => some (.smm f)
  | 0x21#8 => some (.sew f)
  | 0x22#8 => some (.sred f)
  | 0x23#8 => some (.sxpose f)
  | 0x24#8 => some (.scvt f)
  | 0x30#8 => some (.sgather f)
  | 0x31#8 => some (.sscatter f)
  | 0x32#8 => some (.sreduce f)
  | 0x40#8 => some (.skern f)
  | 0x41#8 => some (.sgroup f)
  | 0x50#8 => some (.sput f)
  | 0x51#8 => some (.sget f)
  | 0x60#8 => some (.sbr f)
  | 0x61#8 => some (.sloop f)
  | 0x62#8 => some (.sendloop f)
  | 0x63#8 => some (.sswitch f)
  | 0x64#8 => some (.swait f)
  | 0x65#8 => some (.ssignal f)
  | 0x66#8 => some (.sfence f)
  | 0x67#8 => some (.shalt f)
  | 0x70#8 => some (.sown f)
  | _ => none

/-- The stream instruction of a 128-bit word, or none where R423 makes it none. -/
def decodeStream (w : BitVec 128) : Option Instr := keepWellFormed (streamOp (w.extractLsb' 0 8) (streamFields w))

/-- The fields of a copy command (R251). -/
def copyFields (w : BitVec 512) : CFields :=
  ⟨w.extractLsb' 8 2, w.extractLsb' 10 2, w.extractLsb' 12 2, w.extractLsb' 16 16, w.extractLsb' 64 64,
   w.extractLsb' 128 64, w.extractLsb' 192 64, w.extractLsb' 256 64, w.extractLsb' 320 64, w.extractLsb' 384 64,
   w.extractLsb' 448 64⟩

/-- Lays out a copy command (R251). -/
def copyWord (c : CFields) (kind : BitVec 8) : BitVec 512 :=
  c.idx ++ c.tagw ++ c.dstride ++ c.sstride ++ c.len ++ c.dst ++ c.src ++ 0#32 ++ c.rows ++ 0#2 ++ c.tag
    ++ c.scope ++ c.ord ++ kind

/-- The copy command of KIND (R252). -/
def copyOp (kind : BitVec 8) (c : CFields) : Option Instr :=
  match kind with
  | 0x00#8 => some (.ccEnd c)
  | 0x01#8 => some (.ccCopy c)
  | 0x02#8 => some (.ccCopy2d c)
  | 0x03#8 => some (.ccFill c)
  | 0x04#8 => some (.ccGather c)
  | 0x05#8 => some (.ccWait c)
  | 0x06#8 => some (.ccBump c)
  | 0x07#8 => some (.ccWrite c)
  | 0x08#8 => some (.ccLink c)
  | _ => none

/-- The copy command of 64 bytes, or none where the first row of R422 makes it none. -/
def decodeCopy (w : BitVec 512) : Option Instr :=
  if w.extractLsb' 14 2 = 0#2 ∧ w.extractLsb' 32 32 = 0#32 then
    keepWellFormed (copyOp (w.extractLsb' 0 8) (copyFields w))
  else none

/-- The instruction that the decoder of the word's length reads: 32 bits for a core word (R139), 128 for a
stream word (R147), 512 for a copy command (R251). -/
def decodeTableWord (nbits w : Nat) : Option Instr :=
  if nbits = 32 then decodeCore (BitVec.ofNat 32 w)
  else if nbits = 128 then decodeStream (BitVec.ofNat 128 w)
  else if nbits = 512 then decodeCopy (BitVec.ofNat 512 w)
  else none

/-! The encoder, from the same tables. -/

/-- The word of a computation, jump or branch (RV64I, M). -/
def encodeInt : IntOp → BitVec 32
  | .lui rd imm => imm ++ rd ++ 0x37#7
  | .auipc rd imm => imm ++ rd ++ 0x17#7
  | .jal rd imm =>
    imm.extractLsb' 19 1 ++ imm.extractLsb' 0 10 ++ imm.extractLsb' 10 1 ++ imm.extractLsb' 11 8 ++ rd ++ 0x6F#7
  | .jalr rd rs1 imm => iType imm rs1 0 rd 0x67
  | .branch c rs1 rs2 imm =>
    rType (imm.extractLsb' 11 1 ++ imm.extractLsb' 4 6) rs2 rs1 c.f3 (imm.extractLsb' 0 4 ++ imm.extractLsb' 10 1) 0x63
  | .opImm o rd rs1 imm => iType imm rs1 o.f3 rd 0x13
  | .shiftImm .sll rd rs1 sh => rType (0#6 ++ sh.extractLsb' 5 1) (sh.extractLsb' 0 5) rs1 1 rd 0x13
  | .shiftImm .srl rd rs1 sh => rType (0#6 ++ sh.extractLsb' 5 1) (sh.extractLsb' 0 5) rs1 5 rd 0x13
  | .shiftImm .sra rd rs1 sh => rType (0x10#6 ++ sh.extractLsb' 5 1) (sh.extractLsb' 0 5) rs1 5 rd 0x13
  | .addiw rd rs1 imm => iType imm rs1 0 rd 0x1B
  | .shiftImmW .sll rd rs1 sh => rType 0 sh rs1 1 rd 0x1B
  | .shiftImmW .srl rd rs1 sh => rType 0 sh rs1 5 rd 0x1B
  | .shiftImmW .sra rd rs1 sh => rType 0x20 sh rs1 5 rd 0x1B
  | .op o rd rs1 rs2 => rType o.code.1 rs2 rs1 o.code.2 rd 0x33
  | .opW o rd rs1 rs2 => rType o.code.1 rs2 rs1 o.code.2 rd 0x3B

/-- One bit from a Bool. -/
def boolBit (b : Bool) : BitVec 1 := if b then 1 else 0

/-- funct3 of an A-extension word: word or doubleword. -/
def amoF3 (dbl : Bool) : BitVec 3 := if dbl then 3 else 2

/-- funct3 of a Zicsr word. -/
def csrF3 (op : CsrOp) (imm : Bool) : BitVec 3 :=
  match op with
  | .rw => if imm then 5 else 1
  | .rs => if imm then 6 else 2
  | .rc => if imm then 7 else 3

/-- The word of a core instruction (R139 to R146, RV64I, M, A, Zicsr); none for every other row. -/
def encodeCore : Instr → Option (BitVec 32)
  | .scalarLoad k rd rs1 imm => some (iType imm rs1 k.f3 rd 0x03)
  | .scalarStore k rs1 rs2 imm => some (rType (imm.extractLsb' 5 7) rs2 rs1 k.f3 (imm.extractLsb' 0 5) 0x23)
  | .amo op dbl aq rl rd rs1 rs2 => some (rType (op.f5 ++ boolBit aq ++ boolBit rl) rs2 rs1 (amoF3 dbl) rd 0x2F)
  | .lr dbl aq rl rd rs1 => some (rType (0x02#5 ++ boolBit aq ++ boolBit rl) 0 rs1 (amoF3 dbl) rd 0x2F)
  | .sc dbl aq rl rd rs1 rs2 => some (rType (0x03#5 ++ boolBit aq ++ boolBit rl) rs2 rs1 (amoF3 dbl) rd 0x2F)
  | .integerOp op => some (encodeInt op)
  | .fence fm pred succ rs1 rd => some (iType (fm ++ pred ++ succ) rs1 0 rd 0x0F)
  | .fenceI imm rs1 rd => some (iType imm rs1 1 rd 0x0F)
  | .sfenceVma rs1 rs2 => some (rType 0x09 rs2 rs1 0 0 0x73)
  | .wfi => some (rType 0x08 5 0 0 0 0x73)
  | .mret => some (rType 0x18 2 0 0 0 0x73)
  | .sret => some (rType 0x08 2 0 0 0 0x73)
  | .ecall => some (rType 0 0 0 0 0 0x73)
  | .ebreak => some (rType 0 1 0 0 0 0x73)
  | .csrAccess op imm rd src csr => some (iType csr src (csrF3 op imm) rd 0x73)
  | .mov2 b c a d => some (xm2 b c a d)
  | .mov a d => some (xm2 0x2C 0x2C a d)
  | .mvpxD p l d => some (xs p (0#2 ++ l) 0 0 d)
  | .mvpxW p l d => some (xs p (0#1 ++ l) 0 1 d)
  | .mvxpD p l a => some (xs p (0#2 ++ l) a 2 0)
  | .mvxpW p l a => some (xs p (0#1 ++ l) a 3 0)
  | .mvbxD p a => some (xs p 0 a 4 0)
  | .mvbxW p a => some (xs p 0 a 5 0)
  | .mvip p i => some (xs p i 0 6 0)
  | .fwait b a => some (rType 0x00 b a 0 0 0x5B)
  | .fbump a => some (rType 0x01 0 a 0 0 0x5B)
  | .tdef b a => some (rType 0x02 b a 0 0 0x5B)
  | .tarm b a => some (rType 0x03 b a 0 0 0x5B)
  | .trel a => some (rType 0x04 0 a 0 0 0x5B)
  | .twait a => some (rType 0x05 0 a 0 0 0x5B)
  | .pstf c w b a => some (tsType c w b a 1 0)
  | .raddfInt c w b a => some (tsType c (0#1 ++ w) b a 2 0)
  | .raddfFloat c w b a => some (tsType c (1#1 ++ w) b a 2 0)
  | .rfadd w b a d => some (rType (0#6 ++ w) b a 3 d 0x5B)
  | .rfswap w b a d => some (rType (1#6 ++ w) b a 3 d 0x5B)
  | .rfand w b a d => some (rType (2#6 ++ w) b a 3 d 0x5B)
  | .rfor w b a d => some (rType (3#6 ++ w) b a 3 d 0x5B)
  | .rfxor w b a d => some (rType (4#6 ++ w) b a 3 d 0x5B)
  | .rfmin w b a d => some (rType (5#6 ++ w) b a 3 d 0x5B)
  | .rfmax w b a d => some (rType (6#6 ++ w) b a 3 d 0x5B)
  | .rfminu w b a d => some (rType (7#6 ++ w) b a 3 d 0x5B)
  | .rfmaxu w b a d => some (rType (8#6 ++ w) b a 3 d 0x5B)
  | .rfaddf w b a d => some (rType (9#6 ++ w) b a 3 d 0x5B)
  | .rcas c w b a d => some (tsType c (0#1 ++ w) b a 4 d)
  | .rfenceRel s d => some (rType 0 (0#3 ++ s) 0 5 d 0x5B)
  | .rfenceAcq s d => some (rType 0 (1#3 ++ s) 0 5 d 0x5B)
  | .msend b a q => some (rType 0x00 b a 6 (0#2 ++ q) 0x5B)
  | .qmov q d => some (rType 0x01 0 (0#2 ++ q) 6 d 0x5B)
  | .callat b a p q => some (rType 0x02 b a 6 (p ++ q) 0x5B)
  | .hop b a => some (rType 0x03 b a 6 0 0x5B)
  | .own b a d => some (rType 0x04 b a 6 d 0x5B)
  | .ocinv a => some (rType 0x05 0 a 6 0 0x5B)
  | .kget k d => some (rType 0x00 0 (0#2 ++ k) 7 d 0x5B)
  | .kset a k => some (rType 0x01 0 a 7 (0#2 ++ k) 0x5B)
  | .gbar a => some (rType 0x03 0 a 7 0 0x5B)
  | .gsum b a d => some (rType 0x04 b a 7 d 0x5B)
  | .gmax b a d => some (rType 0x05 b a 7 d 0x5B)
  | .gmin b a d => some (rType 0x06 b a 7 d 0x5B)
  | .hstart b a d => some (rType 0x00 b a 0 d 0x7B)
  | .hreap a d => some (rType 0x01 0 a 0 d 0x7B)
  | .hsave b a => some (rType 0x02 b a 0 0 0x7B)
  | .hload b a => some (rType 0x03 b a 0 0 0x7B)
  | .hstop => some (rType 0x04 0 0 0 0 0x7B)
  | .tqpush b a d => some (rType 0x05 b a 0 d 0x7B)
  | .tqpop b a d => some (rType 0x06 b a 0 d 0x7B)
  | .psave a => some (rType 0x00 0 a 1 0 0x7B)
  | .pload a => some (rType 0x01 0 a 1 0 0x7B)
  | .upret => some (rType 0x02 0 0 1 0 0x7B)
  | .cmig a d => some (rType 0x03 0 a 1 d 0x7B)
  | .ovmap b a => some (rType 0x00 b a 2 0 0x7B)
  | .ovunmap a => some (rType 0x01 0 a 2 0 0x7B)
  | .vaAdd g w => some (xg g (0x0#6 ++ w) 0)
  | .vaSub g w => some (xg g (0x1#6 ++ w) 0)
  | .vaMul g w => some (xg g (0x2#6 ++ w) 0)
  | .vaMin g w => some (xg g (0x3#6 ++ w) 0)
  | .vaMax g w => some (xg g (0x4#6 ++ w) 0)
  | .vaSll g w => some (xg g (0x5#6 ++ w) 0)
  | .vaSra g w => some (xg g (0x6#6 ++ w) 0)
  | .vaSrl g w => some (xg g (0x7#6 ++ w) 0)
  | .vaFadd g f => some (xg g (0x8#6 ++ f) 0)
  | .vaFsub g f => some (xg g (0x9#6 ++ f) 0)
  | .vaFmul g f => some (xg g (0xA#6 ++ f) 0)
  | .vaFma g f => some (xg g (0xB#6 ++ f) 0)
  | .vaFnma g f => some (xg g (0xC#6 ++ f) 0)
  | .vaFmin g f => some (xg g (0xD#6 ++ f) 0)
  | .vaFmax g f => some (xg g (0xE#6 ++ f) 0)
  | .vaSgnj g f => some (xg g (0xF#6 ++ f) 0)
  | .vaAnd g => some (xg g 0x40#8 0)
  | .vaOr g => some (xg g 0x41#8 0)
  | .vaXor g => some (xg g 0x42#8 0)
  | .vaSelW g => some (xg g 0x43#8 0)
  | .vaSelD g => some (xg g 0x44#8 0)
  | .vaCeqW g => some (xg g 0x45#8 0)
  | .vaCltW g => some (xg g 0x46#8 0)
  | .vaCltuW g => some (xg g 0x47#8 0)
  | .vaCeqD g => some (xg g 0x48#8 0)
  | .vaCltD g => some (xg g 0x49#8 0)
  | .vaFceqS g => some (xg g 0x4A#8 0)
  | .vaFcltS g => some (xg g 0x4B#8 0)
  | .vaFcleS g => some (xg g 0x4C#8 0)
  | .vaFceqD g => some (xg g 0x4D#8 0)
  | .vaFcltD g => some (xg g 0x4E#8 0)
  | .vaFcleD g => some (xg g 0x4F#8 0)
  | .vaExp2S g => some (xg g 0x50#8 0)
  | .vaLog2S g => some (xg g 0x51#8 0)
  | .vaRcpS g => some (xg g 0x52#8 0)
  | .vaRsqrtS g => some (xg g 0x53#8 0)
  | .vsPerm g w => some (xg g (0x0#6 ++ w) 1)
  | .vsBcast g w => some (xg g (0x1#6 ++ w) 1)
  | .vsZiplo g w => some (xg g (0x1#5 ++ w ++ 0x0#1) 1)
  | .vsZiphi g w => some (xg g (0x1#5 ++ w ++ 0x1#1) 1)
  | .vsRotb g => some (xg g 0x0E#8 1)
  | .vsCompress g w => some (xg g (0x4#6 ++ w) 1)
  | .vsExpand g w => some (xg g (0x5#6 ++ w) 1)
  | .vsRsumD g => some (xg g 0x18#8 1)
  | .vsRmaxD g => some (xg g 0x19#8 1)
  | .vsRminD g => some (xg g 0x1A#8 1)
  | .vsRsumS g => some (xg g 0x1B#8 1)
  | .vsRmaxS g => some (xg g 0x1C#8 1)
  | .vsRminS g => some (xg g 0x1D#8 1)
  | .vsRsumBf g => some (xg g 0x1E#8 1)
  | .vsRmaxBf g => some (xg g 0x1F#8 1)
  | .vsRminBf g => some (xg g 0x20#8 1)
  | .vsRsumHf g => some (xg g 0x21#8 1)
  | .vsRmaxHf g => some (xg g 0x22#8 1)
  | .vsRminHf g => some (xg g 0x23#8 1)
  | .vsIrsumW g => some (xg g 0x24#8 1)
  | .vsIrsumD g => some (xg g 0x25#8 1)
  | .vsIrmaxW g => some (xg g 0x26#8 1)
  | .vsIrminW g => some (xg g 0x27#8 1)
  | .vsIrmaxuW g => some (xg g 0x28#8 1)
  | .vsIrminuW g => some (xg g 0x29#8 1)
  | .vsIrmaxD g => some (xg g 0x2A#8 1)
  | .vsIrminD g => some (xg g 0x2B#8 1)
  | .vsIrmaxuD g => some (xg g 0x2C#8 1)
  | .vsIrminuD g => some (xg g 0x2D#8 1)
  | .cvBf16F32 g c => some (xg g (0x0#2 ++ c ++ 0x0#4) 2)
  | .cvF16F32 g c => some (xg g (0x0#2 ++ c ++ 0x1#4) 2)
  | .cvF32F64 g c => some (xg g (0x0#2 ++ c ++ 0x2#4) 2)
  | .cvI32F32 g c => some (xg g (0x0#2 ++ c ++ 0x3#4) 2)
  | .cvI64F64 g c => some (xg g (0x0#2 ++ c ++ 0x4#4) 2)
  | .cvF32I32 g c => some (xg g (0x0#2 ++ c ++ 0x5#4) 2)
  | .cvF64I64 g c => some (xg g (0x0#2 ++ c ++ 0x6#4) 2)
  | .cvE4m3F32 g c => some (xg g (0x0#2 ++ c ++ 0x7#4) 2)
  | .cvE5m2F32 g c => some (xg g (0x0#2 ++ c ++ 0x8#4) 2)
  | .cvI8I32 g => some (xg g 0x09#8 2)
  | .cvF32Bf16 g c => some (xg g (0x0#3 ++ c ++ 0xA#4) 2)
  | .cvF32F16 g c => some (xg g (0x0#3 ++ c ++ 0xB#4) 2)
  | .cvF64F32 g c => some (xg g (0x0#3 ++ c ++ 0xC#4) 2)
  | .cvF32E4m3 g c => some (xg g (0x0#2 ++ c ++ 0xD#4) 2)
  | .cvF32E5m2 g c => some (xg g (0x0#2 ++ c ++ 0xE#4) 2)
  | .cvI32I8 g c => some (xg g (0x0#2 ++ c ++ 0xF#4) 2)
  | .cvMxencE4m3 g => some (xg g 0x40#8 2)
  | .cvMxencE5m2 g => some (xg g 0x41#8 2)
  | .cvF4encLo g => some (xg g 0x42#8 2)
  | .cvF4encHi g => some (xg g 0x43#8 2)
  | .lsLd g => some (xg g 0x00#8 3)
  | .lsLdlo g => some (xg g 0x01#8 3)
  | .lsLdhi g => some (xg g 0x02#8 3)
  | .lsLdn g => some (xg g 0x03#8 3)
  | .lsSt g => some (xg g 0x08#8 3)
  | .lsStm g => some (xg g 0x09#8 3)
  | .mxMm g => some (xg g 0x00#8 4)
  | .mxMmw g => some (xg g 0x01#8 4)
  | .mxMmd g => some (xg g 0x02#8 4)
  | .mxMmn g => some (xg g 0x03#8 4)
  | .mxZero g => some (xg g 0x08#8 4)
  | .mxSt g => some (xg g 0x09#8 4)
  | .mxLd g => some (xg g 0x0A#8 4)
  | .wbLd g => some (xg g 0x00#8 5)
  | .wbLdc g => some (xg g 0x01#8 5)
  | .wbClr g => some (xg g 0x02#8 5)
  | .ceRun g => some (xg g 0x00#8 6)
  | .ceRunv g => some (xg g 0x01#8 6)
  | .niSt g t => some (xg g (0x0#6 ++ t) 7)
  | .niTst g t => some (xg g (0x1#6 ++ t) 7)
  | .niVaddI32 g t => some (xg g (0x2#6 ++ t) 7)
  | .niVaddI64 g t => some (xg g (0x3#6 ++ t) 7)
  | .niVaddF32 g t => some (xg g (0x4#6 ++ t) 7)
  | .niVaddF64 g t => some (xg g (0x5#6 ++ t) 7)
  | .niVaddBf16 g t => some (xg g (0x6#6 ++ t) 7)
  | .niTaddI32 g t => some (xg g (0x7#6 ++ t) 7)
  | .niTaddF32 g t => some (xg g (0x8#6 ++ t) 7)
  | .niTaddF64 g t => some (xg g (0x9#6 ++ t) 7)
  | .niGet g t => some (xg g (0xA#6 ++ t) 7)
  | .niMsg g => some (xg g 0x2C#8 7)
  | .niWin g => some (xg g 0x30#8 7)
  | .niCap g => some (xg g 0x34#8 7)
  | _ => none

/-- The word of a stream instruction (R147, R148); none for every other row. -/
def encodeStream : Instr → Option (BitVec 128)
  | .tdecl f => some (streamWord f 0x01)
  | .sload f => some (streamWord f 0x10)
  | .sstore f => some (streamWord f 0x11)
  | .sfill f => some (streamWord f 0x12)
  | .smm f => some (streamWord f 0x20)
  | .sew f => some (streamWord f 0x21)
  | .sred f => some (streamWord f 0x22)
  | .sxpose f => some (streamWord f 0x23)
  | .scvt f => some (streamWord f 0x24)
  | .sgather f => some (streamWord f 0x30)
  | .sscatter f => some (streamWord f 0x31)
  | .sreduce f => some (streamWord f 0x32)
  | .skern f => some (streamWord f 0x40)
  | .sgroup f => some (streamWord f 0x41)
  | .sput f => some (streamWord f 0x50)
  | .sget f => some (streamWord f 0x51)
  | .sbr f => some (streamWord f 0x60)
  | .sloop f => some (streamWord f 0x61)
  | .sendloop f => some (streamWord f 0x62)
  | .sswitch f => some (streamWord f 0x63)
  | .swait f => some (streamWord f 0x64)
  | .ssignal f => some (streamWord f 0x65)
  | .sfence f => some (streamWord f 0x66)
  | .shalt f => some (streamWord f 0x67)
  | .sown f => some (streamWord f 0x70)
  | _ => none

/-- The 64 bytes of a copy command (R251, R252); none for every other row. -/
def encodeCopy : Instr → Option (BitVec 512)
  | .ccEnd c => some (copyWord c 0x00)
  | .ccCopy c => some (copyWord c 0x01)
  | .ccCopy2d c => some (copyWord c 0x02)
  | .ccFill c => some (copyWord c 0x03)
  | .ccGather c => some (copyWord c 0x04)
  | .ccWait c => some (copyWord c 0x05)
  | .ccBump c => some (copyWord c 0x06)
  | .ccWrite c => some (copyWord c 0x07)
  | .ccLink c => some (copyWord c 0x08)
  | _ => none

/-- The words of an instruction, by the length of its encoding. -/
inductive Encoding
  | core (w : BitVec 32)
  | stream (w : BitVec 128)
  | copy (w : BitVec 512)
  | none
  deriving DecidableEq, Repr

/-- The words of a well-formed instruction; `none` for the steps that no word encodes. -/
def encode (i : Instr) : Encoding :=
  match encodeCore i with
  | some w => .core w
  | Option.none => match encodeStream i with
    | some w => .stream w
    | Option.none => match encodeCopy i with
      | some w => .copy w
      | Option.none => .none

/-- Decodes words of any of the three lengths. -/
def decode (e : Encoding) : Option Instr :=
  match e with
  | .core w => decodeCore w
  | .stream w => decodeStream w
  | .copy w => decodeCopy w
  | .none => Option.none

end Sys2Proof
end

