-- ==== Sys2Proof/Config.lean ====
section
/-! DEFINITION. What one part of the device holds for ever: the values that the spec leaves open. Each is an
opaque constant, so a statement about it holds whatever it is. -/

namespace Sys2Proof.Config

/-- DESIGN CHOICE (log 14): a byte that the spec leaves open, drawn by the counter `freeCtr` of the state. -/
opaque freeByte : Nat → BitVec 8

/-- DESIGN CHOICE (log 14): a word that the spec leaves open, drawn by the counter `freeCtr` of the state. -/
opaque freeWord : Nat → BitVec 64

/-- DESIGN CHOICE (log 14): a kilobyte of an accumulator or a weight slot that the spec leaves open, drawn by the counter
`freeCtr` of the state. -/
opaque freeBlock : Nat → BitVec 8192

/-- DESIGN CHOICE (log 17): a place in an order that the spec leaves open, drawn by the counter `freeCtr` of the state. -/
opaque freeIndex : Nat → Nat

/-- DESIGN CHOICE (log 11): whether a hart still uses a line it has prefetched (R63, R128, R199), drawn by
the counter `freeCtr` of the state. -/
opaque usesPrefetched : Nat → Bool

/-- DESIGN CHOICE (log 12): whether the Ed25519 signature of a firmware image verifies under a key whose
SHA-512 digest is the first argument (R322). -/
opaque ed25519Verifies : BitVec 512 → List (BitVec 8) → Bool

/-- DESIGN CHOICE (log 12): whether the ML-DSA-65 signature of a firmware image verifies under a key whose
SHA-512 digest is the first argument (R322). -/
opaque mldsaVerifies : BitVec 512 → List (BitVec 8) → Bool

/-- DESIGN CHOICE (log 12): the SHA-384 digest of the attestation report (R323). -/
opaque sha384 : List (BitVec 8) → Vector (BitVec 8) 48

/-- DESIGN CHOICE (log 12): the Ed25519 signature with the device identity key (R323). -/
opaque ed25519Sign : List (BitVec 8) → Vector (BitVec 8) 64

/-- DESIGN CHOICE (log 12): the ML-DSA-65 signature with the device identity key (R323). -/
opaque mldsaSign : List (BitVec 8) → Vector (BitVec 8) 3309

/-- DESIGN CHOICE (log 12): the device identity certificate (R323), as much of it as the response area holds. -/
opaque certificate : Vector (BitVec 8) 3840

/-- DESIGN CHOICE (log 15): a byte of memory that a warm reset leaves, by its key and the number of the reset
(R10). -/
opaque afterWarmReset : Nat → Nat → BitVec 8

/-- DESIGN CHOICE (log 14): whether a fused multiply-add of a zero and an infinity beside a quiet NaN signals invalid, which
IEEE 754 leaves to the implementation (R96, R212). -/
opaque fmaQuietNanSignals : Bool

/-- DESIGN CHOICE (log 113): the bytes of a flit that carries messages, of which R307 gives no layout. -/
opaque flitByte : Nat → Nat → BitVec 8

end Sys2Proof.Config
end

