-- ==== Sys2Proof/Machine/State.lean ====
section
/-! DEFINITION. The state of one device: every register, table, queue and transfer in progress that the spec
gives it, as plain data, and the state right after a cold reset. -/

namespace Sys2Proof.Machine

/-- Why the machine stops with a fault. No meaning of an instruction raises one: every condition of the spec
is a trap, a record or a mark inside a next state. -/
inductive Fault
  /-- Raised by the step when the schedule runs a window entry or a copy command that does not exist. Safe:
  the schedule, not the device, named it. -/
  | noSuchAgent
  deriving DecidableEq, Repr

/-- Why the model gives an instruction no meaning. -/
inductive Refusal
  /-- Raised by an arm of `exec` that has no meaning yet. Safe: nothing follows from it. -/
  | notModelled (mnemonic : String)
  deriving DecidableEq, Repr

/-- Privilege modes (R15). -/
inductive Mode | user | supervisor | machine
  deriving DecidableEq, Repr

/-- Hart states (R29). -/
inductive HartState | off | running | parked | saving | loading | held
  deriving DecidableEq, Repr

/-- States of a latch (R201). -/
inductive LatchState | empty | full | lost
  deriving DecidableEq, Repr

/-- A latch, or a bin, which is always full (R200, R201). -/
structure Latch where
  st : LatchState
  val : Wide
  deriving DecidableEq, Repr

/-- What a parked hart waits for (R30, R55, R203). -/
inductive Wait
  | none
  | xreg (r : Reg)
  | qreg (q : BitVec 3)
  | tile (n : BitVec 6)
  | flag
  | interrupt
  | barrier
  | latch (p : BitVec 6)
  | limit (u : EngineUnit)
  | pop (n : Nat)
  | push (n : Nat)
  | arrival
  | drain
  deriving DecidableEq, Repr

/-- The CSRs of a hart (R161 to R165, R71). The quantum count stands in `Hart`. -/
structure Csrs where
  vfcsr : Word
  bandsc : Word
  compat : Word
  taskret : Word
  quantumLimit : BitVec 32
  upvec : Word
  upepc : Word
  upcause : Word
  upval : Word
  upstat : Word
  spbase : Vector Word 8
  splim : Vector Word 8
  bpaddr : Vector Word 4
  bpctl : Vector Word 4
  satp : Word
  mstatus : Word
  mie : Word
  mip : Word
  mepc : Word
  mcause : Word
  mtval : Word
  mtvec : Word
  mscratch : Word
  medeleg : Word
  mideleg : Word
  stvec : Word
  sscratch : Word
  sepc : Word
  scause : Word
  stval : Word
  mcounteren : Word
  scounteren : Word
  instret : Word
  deriving DecidableEq, Repr

/-- The scratchpad access of an LS trigger, which performs before its result fills (R119, R223): a load of stored bytes
through a window with the band scale and xcompat of the trigger, or a store of bytes by their keys. -/
inductive LsAccess
  | none
  | load (fn : BitVec 8) (win off n : Nat) (bandsc compat : Word)
  | store (cells : List (Nat × Byte))
  deriving DecidableEq, Repr

/-- A trigger of VA, VS, CV or LS between its die cycle and its result (R208), or a trigger of MX, WB, CE or NI
that still counts against the in-flight limit (R206). `due` is the die cycle of the result. -/
structure Flight where
  unit : EngineUnit
  seq : BitVec 8
  fn : BitVec 8
  due : Nat
  result : Wide
  flags : BitVec 5
  access : LsAccess
  /-- Whether it is the hart's most recent trigger of the unit (R202). -/
  latest : Bool
  deriving DecidableEq, Repr

/-- An LR reservation (R160): the key of its 8-byte granule. -/
structure Reservation where
  key : Nat
  virt : Option Word
  deriving DecidableEq, Repr

/-- A barrier arrival of a hart that is outstanding (R55): the group and, for a combining instruction, its kind
(0 sum, 1 max, 2 min) and destination. -/
structure Arrived where
  gid : BitVec 8
  kind : Option (Fin 3)
  rd : Reg
  /-- The request that fills rd of a combining instruction, and holds later accesses until then (R124, R191). -/
  hold : Nat
  /-- The PC of the `gbar` that the hart is parked in, or was when a trap interrupted the park (R32, R55). -/
  gbar : Option Word
  deriving DecidableEq, Repr

/-- A deferred fault pending at a hart (R363): the trap cause, the record's index in the die's buffer and the
die cycle of its writing. -/
structure PendingFault where
  cause : Nat
  record : Nat
  written : Nat
  /-- The x-register that its settlement fills with 0 (R366, R420). -/
  reg : Option Reg
  deriving DecidableEq, Repr

/-- A translation fault waiting for upcall entry (R367). -/
structure Upcall where
  code : BitVec 8
  addr : Word
  /-- Its request, marked FAULTED. -/
  id : Nat
  deriving DecidableEq, Repr

/-- What a hart does besides issuing: the transfers and drains of R47, R50, R194 to R196, R198, R199. -/
inductive Job
  | none
  /-- Draining for `hsave`, then writing its image at a scratchpad offset. -/
  | save (off : Nat)
  /-- Draining for `cmig`. -/
  | migrate
  /-- Loading an image from a scratchpad offset. -/
  | loadImage (off : Nat)
  /-- Taking up a record of a priority, once the release of its `hstart`, a request, has performed, with the entry line of a
  dispatched task (R60). -/
  | loadRecord (record : List Byte) (prio : BitVec 2) (release : Nat) (line : Option (Nat × Wide))
  /-- Loading the template prefix at binding. -/
  | loadTemplate
  /-- Writing or reading a port image at a scratchpad offset. -/
  | portSave (off : Nat)
  | portLoad (off : Nat)
  /-- Completing `hstop`, once its release, a request, has performed. -/
  | stopping (release : Nat)
  /-- Completing `hop`: the home address and the live mask. -/
  | hopping (home : Word) (mask : BitVec 32) (release : Nat)
  /-- Waiting for the dies to update an overlay entry: code page, overlay page or removal. -/
  | overlay (page : Word) (target : Option Word)
  deriving DecidableEq, Repr

/-- A hart (R29, R137, R200, R209). -/
structure Hart where
  st : HartState
  heldFrom : HartState
  wait : Wait
  job : Job
  /-- The first die cycle in which it may issue (R31, R33). -/
  issueFrom : Nat
  /-- The die cycle in which the transfer of its job ends (R50, R192, R196), and the bytes that it has read (R34). -/
  jobDue : Nat
  loaded : List Byte
  x : Vector Word 32
  xFull : BitVec 32
  q : Vector Word 8
  qFull : BitVec 8
  pc : Word
  mode : Mode
  csr : Csrs
  quantumCount : Nat
  /-- Reference tick from which the count runs on, while the hart is RUNNING or PARKED (R52). -/
  quantumSince : Nat
  exitVal : Word
  ended : Bool
  resv : Option Reservation
  /-- The latest non-local LR since a trap, a save or an SC (R160): its request. -/
  lr : Option Nat
  ports : Vector Latch 64
  seq : BitVec 8
  ring : Vector (BitVec 16) 32
  flights : List Flight
  arrived : Option Arrived
  /-- Interrupted `gbar`s whose generation has completed, by group and PC: re-executed, they complete (R32, R55). -/
  gbars : List (BitVec 8 × Word)
  pending : List PendingFault
  upcalls : List Upcall
  upReserved : Bool
  /-- Requests that every later non-local access waits for (R124, R128), and those that only later writes
  wait for (R125). -/
  holdAll : List Nat
  holdWrites : List Nat
  /-- Prefetched lines: address and 64 bytes (R63). -/
  lines : List (Nat × Wide)
  /-- A fetch through the NI that has not returned, and the line that one has brought for the present instruction. -/
  fetching : Option Nat
  fetched : Option Nat
  /-- The earlier writes that `fence.i` makes the next fetch wait for (R128). -/
  fetchHold : Option Nat
  /-- Put windows used since the last domain-scope release (R262). -/
  windowsUsed : List Nat
  /-- Registers, CSRs, latches and bins with a soft error that cannot be corrected, by the numbers of R378 (R377). -/
  upsets : List (BitVec 4 × BitVec 12)
  /-- Those that the instruction at a PC writes whole, so that their errors are gone once it has issued. -/
  rewrites : Option (Word × List (BitVec 4 × BitVec 12))
  deriving DecidableEq, Repr

/-- A weight slot with its tag store (R244). -/
structure WeightSlot where
  data : BitVec 8192
  swin : BitVec 3
  sband : BitVec 16
  /-- 16 scale bytes for each of the 16 columns. -/
  scales : BitVec 2048
  /-- A soft error that cannot be corrected, until a load or `wb.clr` (R377). -/
  poisoned : Bool := false
  deriving DecidableEq, Repr

/-- An accumulator and its format tag (R239): 0 FP32, 1 INT32, 2 FP64. -/
structure Acc where
  data : BitVec 8192
  tag : BitVec 2
  poisoned : Bool
  deriving DecidableEq, Repr

/-- States of a tile (R72). -/
inductive TileState | empty | filling | ready | draining
  deriving DecidableEq, Repr

/-- A tile entry (R72). -/
structure Tile where
  base : BitVec 18
  win : BitVec 3
  lines : BitVec 13
  st : TileState
  expect : BitVec 16
  arrived : BitVec 16
  gen : BitVec 8
  deriving DecidableEq, Repr

/-- A flag-watch entry (R78). -/
structure Watch where
  off : BitVec 18
  valid : Bool
  target : BitVec 48
  deriving DecidableEq, Repr

/-- The partitions of the task queue (R46). -/
inductive Partition | stream | resume | remote
  deriving DecidableEq, Repr

/-- A task queue entry (R45). -/
structure Task where
  record : List Byte
  prio : BitVec 2
  part : Partition
  /-- The die cycle of its admission (R49). -/
  cycle : Nat
  /-- The entry line that a dispatched task carries (R60): its address and 64 bytes. -/
  line : Option (Nat × Wide)
  deriving DecidableEq, Repr

/-- A k-register write that is not yet visible (R36): the value before it, and its die cycle. -/
structure KSettle where
  k : Nat
  old : Word
  cycle : Nat
  deriving DecidableEq, Repr

/-- Arrivals a core has counted for the group generation it is in (R55, R191), by kind: the combination and
whether any hart contributed. -/
structure CoreArrivals where
  gid : BitVec 8
  count : Nat
  sum : Option Word
  max : Option Word
  min : Option Word
  /-- The releases of the arrivals, and whether the core has reported (R129). -/
  releases : List Nat
  reported : Bool
  deriving DecidableEq, Repr

/-- An owner cache entry (R85), most recently used first. -/
structure OwnerEntry where
  asid : BitVec 16
  region : BitVec 36
  device : Nat
  die : DieId
  deriving DecidableEq, Repr

/-- What a trigger of the macro-operation sequencer does in its unit (R240, R243, R291): MX zeroes, loads or stores an accumulator or
runs a step on staged rows, WB writes a weight slot, and CE moves what the tile step stages or writes. -/
inductive MacroOp
  | zero (acc : Nat) (tag : BitVec 2)
  /-- Rows of C, of which each has so many bytes of the accumulator's format, through a window. -/
  | load (acc : Nat) (tag : BitVec 2) (win : Nat) (rows : List (List Byte))
  | weights (slot : Nat) (value : WeightSlot)
  | step (acc slot : Nat) (mode : BitVec 8) (win band : Nat) (rows : List (List Byte))
  /-- Rows of D, each by its address, encoded through a window from so many columns. -/
  | store (acc win columns : Nat) (rows : List Word)
  | copy
  deriving DecidableEq, Repr

/-- A queued or running trigger of MX, WB, CE or NI with its snapshot (R206). -/
structure Trigger where
  h : HartRef
  seq : BitVec 8
  fn : BitVec 8
  a : BitVec 128
  b : BitVec 128
  c : BitVec 64
  d : Wide
  f : BitVec 64
  ord : BitVec 2
  scope : BitVec 2
  rm : BitVec 3
  compat : Word
  bandsc : BitVec 16
  mode : Mode
  /-- Requests its reads wait for, and those its writes wait for (R124, R125, R127). -/
  readsAfter : List Nat
  writesAfter : List Nat
  /-- Earlier triggers of the hart that its accesses wait for (R125, R127). -/
  after : List (BitVec 8)
  /-- The identifier of the state's next request at the trigger, and the earlier triggers of the hart then in flight: what
precedes the trigger in program order (R136). -/
  born : Nat
  earlier : List (BitVec 8)
  /-- Order of entry into the queues of the core (R249), and the die cycle of the trigger. -/
  entered : Nat
  cycle : Nat
  /-- For a trigger of the macro-operation sequencer's port file, what it does (R19, R37). -/
  macroOp : Option MacroOp
  deriving DecidableEq, Repr

/-- A trigger that a unit has started: for MX the time at which its last array cycle ends (R241), for WB the die cycle in
which its slot is written (R246). -/
structure Running where
  t : Trigger
  due : Nat
  deriving DecidableEq, Repr

/-- A copy command in progress (R254, R255). -/
structure CeCommand where
  n : Nat
  kind : BitVec 8
  f : CFields
  addr : Word
  /-- The row and the delivered byte of it from which the next transfer goes on, and the rows in all. -/
  row : Nat
  first : Nat
  rows : Nat
  /-- Requests of it that have not completed. -/
  open_ : List Nat
  arrivalSent : Bool
  /-- Bytes of its transfers that are still to be written in the own scratchpad, by their offsets (R118). -/
  left : List (Nat × List Byte)
  /-- The release, a request, that revision 1 puts before a flagged command (R136). -/
  release : Option Nat
  deriving DecidableEq, Repr

/-- An active copy list (R250, R255, R256). -/
structure CeList where
  t : Trigger
  pc : Word
  reached : Nat
  completed : Nat
  cmds : List CeCommand
  waiting : Bool
  ended : Bool
  stopped : Bool
  /-- A read of the next command through the NI that has not returned, and the bytes it returned. -/
  reading : Option Nat
  word : Option (BitVec 512)
  /-- The first die cycle in which it takes a transfer after a WAIT (R255). -/
  from_ : Nat
  deriving DecidableEq, Repr

/-- A `cmig` in progress (R198). -/
structure Migration where
  target : Nat
  rd : Reg
  deriving DecidableEq, Repr

/-- A tile step in progress on a core (R284): the entry of the window or of the store drain with its unit, whether the step still
reads, the triggers still to emit, how many have not completed, what the step writes when they have, and a fault of one. -/
structure TileStep where
  slot : SlotId
  entry : Nat
  unit : Nat
  reading : Bool
  emit : List MacroOp
  open_ : Nat
  writes : List (Word × List Byte)
  fault : Option (BitVec 8 × Word)
  deriving DecidableEq, Repr

/-- A core (R18). -/
structure Core where
  harts : Vector Hart 16
  weights : Vector WeightSlot 64
  accs : Vector Acc 16
  tiles : Vector Tile 64
  watch : Vector Watch 16
  fwLastOff : BitVec 18
  fwCount : BitVec 16
  fwPend : Bool
  tasks : List Task
  reservations : Nat
  k : Vector Word 8
  /-- k-registers with a soft error that cannot be corrected (R377). -/
  kUpset : BitVec 8
  kSettle : List KSettle
  autostart : Bool
  automask : BitVec 16
  autoprio : BitVec 2
  numevt : Word
  cgrp : Vector Word 4
  arrivals : List CoreArrivals
  owners : List OwnerEntry
  /-- Regions whose owner entry changed while older accesses were outstanding: those accesses (R91). -/
  rerouted : List (BitVec 16 × BitVec 36 × List Nat)
  /-- The first die cycles in which the core may apply another flag arrival and another tile arrival (R75). -/
  nextFlag : Nat
  nextTile : Nat
  entered : Nat
  mxq : List Trigger
  mx : List Running
  wbq : List Trigger
  wb : Option Running
  ceq : List Trigger
  /-- Active lists in order of activation, and lists that a fault has ended while transfers of them are on their way (R365). -/
  lists : List CeList
  ending : List CeList
  /-- The entry number of the list that took the last transfer, and the first die cycle of another one (R255). -/
  ceLast : Nat
  ceNext : Nat
  niq : List Trigger
  niSeq : BitVec 32
  qn : List (Wide × Nat)
  /-- The tile step that the macro-operation sequencer has in progress, and the first die cycle of another trigger of it (R284). -/
  tileStep : Option TileStep
  tileNext : Nat
  ctx : Option (BitVec 8)
  lcore : BitVec 13
  migration : Option Migration
  /-- The hart, priority and cycle of a task or a claim of this die cycle (R40, R49). -/
  lastClaim : Nat
  deriving DecidableEq, Repr

/-- An entry of a context root table with its domain set (R80, R319, R434). -/
structure Root where
  asid : BitVec 16
  valid : Bool
  tdie : BitVec 2
  taddr : BitVec 37
  dset : BitVec 4608
  deriving DecidableEq, Repr

/-- A translation held by a TLB (R84). -/
structure TlbEntry where
  asid : BitVec 16
  page : Nat
  large : Bool
  entry : BitVec 128
  deriving DecidableEq, Repr

/-- States of a stub (R86). -/
inductive StubState | free | copying | forwarding | quiet
  deriving DecidableEq, Repr

/-- A stub table entry (R86); `frame` and `request` serve the copy in progress (R87). -/
structure Stub where
  st : StubState
  ctx : Bool
  copied : BitVec 5
  region : BitVec 36
  asid : BitVec 16
  ndev : BitVec 13
  ndie : BitVec 2
  acks : BitVec 13
  lastFwd : BitVec 36
  /-- The reference tick of the latest forward, of which LASTFWD shows bits [45:10] (R86, R92). -/
  fwdAt : Nat
  request : Option Nat
  /-- Whether chunk COPIED is on its way to the new owner (R87). -/
  sending : Bool
  deriving DecidableEq, Repr

/-- A fault record not yet written, with the hart it will be pending at and its trap cause (R371, R373). -/
structure FaultRec where
  w0 : Word
  w1 : Word
  w2 : Word
  detail : BitVec 16
  hart : Option HartRef
  cause : Nat
  /-- The stream slot whose SFSTAT takes the record's index (R369). -/
  slot : Option SlotId
  /-- The request that is settled as the record is written (R366). -/
  settles : Option Nat
  deriving DecidableEq, Repr

/-- A deduplication table entry: source, LOW, the map of performed numbers and the reference time of the last request
(R403). -/
structure Dedup where
  device : Nat
  core : Nat
  low : BitVec 32
  map : BitVec 128
  last : Nat
  deriving DecidableEq, Repr

/-- A region on its way to this die from an old owner: the chunks that have come in full (R87). -/
structure Incoming where
  asid : BitVec 16
  region : BitVec 36
  device : Nat
  die : DieId
  /-- The leaf that the request names, and whether it is installed and accesses go to the old owner for missing chunks. -/
  leaf : BitVec 128
  started : Bool
  received : BitVec 32
  deriving DecidableEq, Repr

/-- A die (R21). -/
structure Die where
  cur : BitVec 5
  target : BitVec 5
  busy : Bool
  /-- The die cycle after which the clock halts, once a step is requested (R317). -/
  haltAfter : Option Nat
  halted : Bool
  /-- The model's time at which die cycle `anchorCycle` begins. -/
  anchorTime : Nat
  anchorCycle : Nat
  stepRef : Word
  stepCyc : Word
  haltRef : Word
  stepOld : BitVec 5
  stepNew : BitVec 5
  stepCount : BitVec 32
  harvest : BitVec 1280
  softCorr : BitVec 32
  softThresh : BitVec 16
  stubs : List (Nat × Stub)
  /-- The owner cache of the die's stream sequencer, the most recently used first (R85, R286). -/
  owners : List OwnerEntry
  incoming : List Incoming
  roots : List (Nat × Root)
  tlb : List TlbEntry
  /-- Fault buffer: records by index (R371). -/
  records : List (Nat × (Word × Word × Word × Word))
  fbHead : BitVec 9
  fbTail : BitVec 9
  /-- What the tail was before the last write of it, and the first die cycle that sees the write (R373). -/
  tailWas : BitVec 9
  tailUntil : Nat
  fbOvf : Bool
  fbNew : Bool
  fbOvfCnt : BitVec 16
  /-- Faults found and waiting in the record queue, and faults held (R373), oldest first. -/
  found : List FaultRec
  holding : List FaultRec
  lastWrite : Nat
  pwrNow : BitVec 16
  tempMax : BitVec 8
  /-- Whether the die is held at code 10 by a limit, and since when it has been below 95 degrees (R412). -/
  hot : Bool
  coolSince : Option Nat
  /-- Steps by which the controller has lowered the clock for power (R324). -/
  lowered : Nat
  stopped : Bool
  dedup : List Dedup
  /-- Expansion queue: slot and window entry (R282). -/
  expansion : List (SlotId × Nat)
  lastPlace : Nat
  deriving DecidableEq, Repr

/-- States of a buffer descriptor (R272). -/
inductive DescState | free | pending | committed | stale
  deriving DecidableEq, Repr

/-- A buffer descriptor (R272). -/
structure Desc where
  addr : Word
  ver : BitVec 3
  home : DieId
  name : BitVec 6
  slot : SlotId
  st : DescState
  /-- Core of the last task of the gang that writes the version, once it is placed (R297). -/
  gang : Option Nat
  deriving DecidableEq, Repr

/-- A declaration record as `TDECL` read it (R270). -/
structure Decl where
  vbase : Word
  vstride : Word
  rows : Nat
  cols : Nat
  rstride : Nat
  fmt : BitVec 8
  vers : Nat
  band : Word
  home : DieId
  deriving DecidableEq, Repr

/-- A tensor name (R273). -/
structure TName where
  front : BitVec 10
  commit : BitVec 10
  decl : Option Decl
  vbusy : BitVec 8
  deriving DecidableEq, Repr

/-- A loop level (R301). -/
structure Loop where
  start : Word
  count : BitVec 32
  deriving DecidableEq, Repr

/-- A raw region (R279): first byte address and length, in a space, for an address space. -/
structure Raw where
  addr : Word
  size : Nat
  asid : BitVec 16
  all : Bool
  write : Bool
  deriving DecidableEq, Repr

/-- States of a window entry (R277); a marked one with its code and, once written, its record's index (R369). -/
inductive EntryState | held | issued | done | marked (code : BitVec 8) (record : Option Nat)
  deriving DecidableEq, Repr

/-- A tensor that an instruction names, fixed at decode (R274): the name, its descriptor and declaration. -/
structure Operand where
  name : BitVec 6
  desc : BitVec 10
  addr : Word
  home : DieId
  decl : Decl
  inPlace : Bool
  deriving DecidableEq, Repr

/-- A unit of a built-in operation that has begun (R282, R284): its number, the core that it is on, how many of its tile steps are
finished, and for `SMM` the accumulator that it uses (R243). -/
structure UnitAt where
  unit : Nat
  core : Nat
  done : Nat
  acc : Nat
  deriving DecidableEq, Repr

/-- A window entry (R276, R277). -/
structure Entry where
  n : Nat
  pc : Word
  word : BitVec 128
  instr : Option Instr
  st : EntryState
  /-- Whether an issued entry's work has started, and whether the entry is discarded while it still has work (R269, R369). -/
  started : Bool
  discarded : Bool
  dst : Option Operand
  srcs : List Operand
  /-- A tensor field that names an undeclared tensor, as DETAIL numbers it (R415). -/
  undeclared : Option Nat
  raw : Option Raw
  /-- Where fetch goes when a stopping instruction retires (R276). -/
  goto : Option Word
  /-- The count that `SLOOP` read (R301). -/
  count : BitVec 32
  /-- Units finished and in all, and those begun (R282, R284); parts outstanding (R285, R286). -/
  step : Nat
  steps : Nat
  units : List UnitAt
  /-- Whether a drain entry has begun its writes (R131). -/
  wrote : Bool
  parts : List Nat
  /-- The stacks at whose engines an issued entry holds a place until its parts are queued (R280, R285). -/
  room : List (Fin 8)
  /-- When the entry entered the window (R284). -/
  age : Nat
  /-- Tasks placed and ended (R297), and the core of the last one. -/
  placed : Nat
  ended : Nat
  lastCore : Nat
  /-- The next poll of `SWAIT`, in die cycles of the lead (R303). -/
  poll : Nat
  deriving DecidableEq, Repr

/-- A store drain entry (R281): the retired instruction, whose steps count on. -/
structure Drain where
  e : Entry
  deriving DecidableEq, Repr

/-- A line of stream text as it arrived (R276, R397): its address, its bytes, the die cycle, SLIMIT as it was then, and the
code of a fault of its fetch. -/
structure TextLine where
  addr : Nat
  data : Wide
  cycle : Nat
  limit : Word
  fault : Option (BitVec 8)
  deriving DecidableEq, Repr

/-- State codes of a stream slot (R269). -/
inductive SlotState | free | opening | running | halted | closing | fenced
  deriving DecidableEq, Repr

/-- The registers that a slot's block on a die takes while the slot is FREE (R267, R268): SCTX, SBASE, SKTAB and
SSTAGE. -/
structure SlotBlock where
  ctx : BitVec 8
  sbase : Word
  ktab : Word
  nkern : BitVec 7
  stageOff : BitVec 18
  stageSize : BitVec 19
  deriving DecidableEq, Repr

/-- A stream slot (R268 to R281, R370). The registers of `SlotBlock` are those of the lead die's block since the slot was
opened. -/
structure Slot where
  blocks : Vector SlotBlock 4
  st : SlotState
  lead : DieId
  ctx : BitVec 8
  sbase : Word
  slimit : Word
  spc : Word
  sretpc : Word
  sretcnt : Word
  ktab : Word
  nkern : BitVec 7
  stageOff : BitVec 18
  stageSize : BitVec 19
  fCode : BitVec 8
  fValid : Bool
  fIdx : BitVec 8
  fOk : Bool
  fLater : BitVec 16
  names : Vector TName 64
  window : List Entry
  next : Nat
  drain : List Drain
  decodeLoops : List Loop
  retiredLoops : List Loop
  kernels : List Word
  /-- Entry lines held by each die's dispatch agent: 64 times the die plus the kernel, and the line (R60, R269). -/
  entryLines : List (Nat × Wide)
  /-- Lines of stream text fetched (R276). -/
  lines : List TextLine
  /-- The die cycles in which the slot was opened and was fenced, and whether it was OPENING then (R269). -/
  opened : Nat
  fencedAt : Nat
  fencedOpening : Bool
  stopped : Bool
  lastDecode : Nat
  lastRetire : Nat
  retired : Nat
  lastIssue : Nat
  issued : Nat
  deriving DecidableEq, Repr

/-- A group of a context (R53, R55). -/
structure Group where
  gid : BitVec 8
  part : Nat
  /-- Logical core numbers in member order. -/
  members : List Nat
  /-- Members whose report has been counted in this generation, and the combinations so far. -/
  reported : List Nat
  sum : Option Word
  max : Option Word
  min : Option Word
  deriving DecidableEq, Repr

/-- A put window (R262). -/
structure PutWindow where
  issued : BitVec 32
  acked : BitVec 32
  device : Option (BitVec 13)
  deriving DecidableEq, Repr

/-- A bound context (R53, R199, R262, R335 to R337). -/
structure Ctx where
  asid : BitVec 16
  /-- Physical core of each logical core number. -/
  window : List Nat
  template : List Byte
  revision : Nat
  groups : List Group
  overlays : List (Word × Word)
  windows : List (Nat × PutWindow)
  deriving DecidableEq, Repr

/-- How the value of a load reaches its register (R68, R105, R120). -/
structure LoadForm where
  kind : LoadKind
  win : BitVec 3
  deriving DecidableEq, Repr

/-- What the value of a request fills (R120, R169, R231). -/
inductive Dest
  | none
  /-- An x-register through a load form. -/
  | load (rd : Reg) (f : LoadForm)
  /-- An x-register with the old value of an atomic, or the outcome of SC, `own`, a release or an acquire. -/
  | xreg (rd : Reg) (dbl : Bool)
  | qreg (q : BitVec 3)
  /-- The result latch of a trigger of NI (R233). -/
  | trigger (seq : BitVec 8) (fn : BitVec 8)
  /-- A local line of an `ni.get`, the arrival at the issuing core that follows them, and the requests that these writes wait for
  (R127, R260). -/
  | lines (off : Nat) (arrival : Arrival) (after : List Nat)
  /-- A read of the next command of a list (R250), or of a transfer of a copy command by its row and first byte (R255). -/
  | command
  | copied (row first : Nat)
  | fetch (line : Nat)
  /-- Bytes that a stream or a Cellar engine reads from afar (R286, R289), for execution if they are an entry line (R269). -/
  | staged (addr : Word) (exec : Bool)
  deriving DecidableEq, Repr

/-- Who issued a request. -/
inductive Source
  | hart (h : HartRef)
  | engine (h : HartRef) (u : EngineUnit) (seq : BitVec 8) (fn : BitVec 8)
  | copyList (core : Nat) (seq : BitVec 8) (h : HartRef) (cmd : Nat)
  | stream (s : SlotId) (entry : Nat)
  /-- A Cellar engine at work on a part (R285, R286). -/
  | part (id : Nat)
  | host
  | foreign (device core : Nat) (hart : HartId) (tag : Nat)
  deriving DecidableEq, Repr

/-- How far a request has come (R120, R265, R366, R367). -/
inductive Stage
  /-- In the outbound queue (R264). -/
  | queued
  /-- On its way to its home. -/
  | sent
  /-- Its data has performed, and its counted arrival has not (R123). -/
  | performed
  /-- Its answer is on its way back. -/
  | answered (a : Answer)
  /-- In the retry buffer until a die cycle (R265). -/
  | retry (due : Nat)
  /-- In the retry buffer marked FAULTED (R367). -/
  | faulted (code : BitVec 8) (addr : Word)
  /-- Its fault record waits to be written (R366). -/
  | recorded (code : BitVec 8)
  deriving DecidableEq, Repr

/-- What a request is, beside an access: a release or an acquire of R125, R180. -/
inductive ReqKind
  | access
  /-- A release of a scope: performs when every request of `waits` has completed. -/
  | release (scope : BitVec 2)
  | acquire
  /-- What `fence`, or for text `fence.i`, waits for (R128). -/
  | gather (text : Bool)
  /-- The releases that revision 1 puts before the tagged commands of a copy list (R136). -/
  | implied
  deriving DecidableEq, Repr

/-- A request of an NI or another agent (R120, R264). -/
structure Req where
  id : Nat
  kind : ReqKind
  src : Source
  /-- The core or, for a sequencer or the host, the first core of the die it leaves from. -/
  core : Nat
  /-- Whether it leaves by the NI of that core (R85, R264, R299). -/
  ni : Bool
  user : Bool
  /-- satp MODE is 14 (R80). -/
  mapped : Bool
  asid : BitVec 16
  ctx : Option (BitVec 8)
  addr : Word
  op : ReqOp
  data : List Byte
  arrival : Arrival
  dest : Dest
  /-- The image to which its fill is tagged: core and scratchpad offset (R231). -/
  image : Option (Nat × Nat)
  stage : Stage
  /-- Its place in the program order of its hart: the identifier of the state's next request at its instruction or trigger. -/
  born : Nat
  /-- Requests that must have completed before it is sent. -/
  waits : List Nat
  /-- Earlier triggers of its hart whose accesses it follows (R124, R125, R135). -/
  after : List (BitVec 8)
  /-- What ISSUED of put windows was at a domain-scope release in counter mode (R262). -/
  snapshots : List (Nat × BitVec 32)
  retries : Nat
  hops : Nat
  route : Option (Nat × Nat)
  /-- The owner to which its NI has sent it (R91). -/
  via : Option (Nat × Nat)
  /-- Sequence number, once tracked (R403). -/
  seq : Option (BitVec 32)
  low : BitVec 32
  /-- Path to another device, and the time at which it was sent (R311, R404). -/
  path : Nat
  sentAt : Nat
  /-- Its place in the order in which requests have left (R312). -/
  sentNo : Nat
  /-- The put windows that count it (R262). -/
  windows : List Nat
  /-- The aligned words of its bytes that have performed before the others, with what a read took of them (R118). -/
  parts : List (Nat × List Byte)
  deriving DecidableEq, Repr

/-- A message inside the device (R55, R84, R87 to R92, R286, R297, R312). -/
inductive MsgBody
  | barrierReport (ctx : BitVec 8) (gid : BitVec 8) (core : Nat) (sum max min : Option Word) (waits : List Nat)
  | barrierDone (ctx : BitVec 8) (gid : BitVec 8) (core : Nat) (sum max min : Option Word)
  | taskEnd (slot : SlotId) (entry : Nat) (ctx : BitVec 8) (faulted : Bool) (code : BitVec 8) (addr who : Word)
  | redirect (core : Nat) (asid : BitVec 16) (region : BitVec 36) (device : Nat) (die : DieId)
  /-- A redirect of a core-context doorplate: the requester's core, and the vacated one (R92). -/
  | contextRedirect (core vacated device : Nat) (die : DieId)
  | mapUpdate (asid : BitVec 16) (region : BitVec 36) (device : Nat) (die : DieId) (fromDevice : Nat)
      (fromDie : DieId) (fromStub : Nat)
  | mapUpdateAck (die : DieId) (stub : Nat)
  | invalidate (h : HartRef) (page : Option Word) (asid : Option (BitVec 16)) (dies : List DieId)
  | flushMarker (device core release path live : Nat)
  | collective (device core release : Nat)
  | remotePart (lead tag : Nat) (work : CellarWork) (hops : Nat)
  | walk (req : Nat)
  deriving DecidableEq, Repr

/-- A message in flight, and the die at which it entered the mesh of this device (R305). -/
structure Msg where
  id : Nat
  src : DieId
  body : MsgBody
  deriving DecidableEq, Repr

/-- For whom a Cellar part works (R285, R286): a window entry of this device, or the lead of another device. -/
inductive PartOwner
  | entry (s : SlotId) (n : Nat)
  | foreign (lead tag : Nat)
  deriving DecidableEq, Repr

/-- A part queued at a Cellar engine (R285). -/
structure Part where
  id : Nat
  owner : PartOwner
  work : CellarWork
  /-- Whether its rows have been done, and only the completion of its writes is awaited. -/
  performed : Bool
  /-- The rows that it answers for at its end, and the hop count that it came with (R286, R392). -/
  rows : Nat
  hops : Nat := 0
  deriving DecidableEq, Repr

/-- The header of a flit that a port sends (R307): its sequence number and virtual channel, the highest sequence received in order, a
repeat request, and the credits returned. -/
structure FlitHead where
  seq : BitVec 12
  vc : BitVec 2
  acked : BitVec 12
  repeatOf : Option (BitVec 12)
  credits : BitVec 16
  deriving DecidableEq, Repr

/-- A message that has left for another device (R307, R310, R404): its path, the time, its number if it is VC 2 traffic, and the header
of its flit. -/
structure Departed where
  device : Nat
  path : Nat
  time : Nat
  number : Option Nat
  msg : FabricMsg
  head : FlitHead := ⟨0, 0, 0, none, 0⟩
  deriving DecidableEq, Repr

/-- States of a port (R309). -/
inductive PortState | down | training | active | degraded | quiesced | dead
  deriving DecidableEq, Repr

/-- A scale-up port (R307 to R309, R402). -/
structure Port where
  st : PortState
  lanes : BitVec 3
  /-- Good lanes (R402). -/
  good : BitVec 3
  repeats : BitVec 32
  /-- Times of the repeat requests of the last 1 ms, and of the last flit. -/
  recent : List Nat
  /-- The time at which the port entered its state, and of its last flit (R402, R404). -/
  since : Nat
  lastFlit : Nat
  rxNext : BitVec 12
  rxWaiting : List Flit
  /-- The sequence numbers whose repeat this end has asked for (R308), newest first. -/
  asked : List (BitVec 12)
  /-- Credits that the next flit returns, 4 bits for each virtual channel (R307). -/
  owed : BitVec 16
  txNext : BitVec 12
  /-- The sequence after the highest that the other end has received in order (R307, R309). -/
  txAcked : BitVec 12
  /-- The last 256 flits sent, newest first (R308). -/
  store : List (BitVec 12 × Departed)
  deriving DecidableEq, Repr

/-- Supply forms (R1). -/
inductive Form | olD | olP4 | olM4
  deriving DecidableEq, Repr

/-- The values that firmware loads (R10, R320, R321), and the form of the part (R1). -/
structure Flash where
  form : Form
  image : List Byte
  edKeyDigest : BitVec 512
  mlKeyDigest : BitVec 512
  device : BitVec 13
  stackMask : BitVec 8
  linkMode : BitVec 1
  paths : BitVec 4
  domSize : BitVec 13
  pwrLimit : BitVec 16
  softThresh : BitVec 16
  harvest : Vector (BitVec 1280) 4
  caps : List (Nat × Word)
  /-- Source port of each path to a device (R311; log 6), and to a device that has no entry. -/
  pathPorts : List (Nat × List PortId)
  otherPorts : List PortId
  deriving DecidableEq, Repr

/-- Bring-up phases (R321). -/
inductive Phase | rom | verify | memory | config | links | ready | recovery
  deriving DecidableEq, Repr

/-- The turns of the schedule: which agent moves next (log 2). -/
inductive Turn
  /-- A step of an agent, with what it acts on. -/
  | event (i : Instr) (a : EventArg)
  /-- The next slot of a RUNNING hart. -/
  | slot
  /-- An issued window entry starts its work. -/
  | stream (s : SlotId) (entry : Nat)
  /-- A copy engine reaches the next command of an active list. -/
  | copy (core list : Nat)
  /-- Time passes, in the model's units. -/
  | idle (units : Nat)
  deriving DecidableEq, Repr

/-- The state of the device. -/
structure State where
  /-- Model's own fields (logs 2, 7, 14): which agent moves, for whom, at what time, and the free values drawn. -/
  schedule : List Turn
  arg : EventArg
  cur : HartRef
  /-- The word that the issuing hart issues, as step fetched it. -/
  insn : BitVec 32
  strCur : SlotId × Nat
  ceCur : Nat × Nat × Nat
  time : Nat
  nextId : Nat
  freeCtr : Nat
  warmResets : Nat
  /-- Package registers (R320). -/
  phase : Phase
  edOk : Bool
  mlOk : Bool
  stackMask : BitVec 8
  device : BitVec 13
  linkMode : BitVec 1
  paths : BitVec 4
  domSize : BitVec 13
  pwrLimit : BitVec 16
  flash : Flash
  fuses : BitVec 512 × BitVec 512
  caps : List (Nat × Word)
  /-- Host attachment (R315, R320, R408). -/
  hflBusy : Bool
  hflAddr : BitVec 57
  hflLen : BitVec 57
  hflCtx : BitVec 8
  hflFlag : BitVec 19
  hapBase : BitVec 25
  hapCtx : BitVec 8
  /-- Aperture writes that the running flush waits for; none while no command runs. -/
  hflWaits : List Nat
  cxlUp : Bool
  hostLines : List Nat
  /-- Lines whose back-invalidation is outstanding, with the requests that wait (R314). -/
  backInv : List (Nat × Nat)
  /-- Mailbox (R323, R335): the running command and the area. -/
  mailStatus : Bool
  mailCommand : Option Word
  mailArea : List Host.Cell
  /-- The payload area as it was when the running command was written (R335, R344). -/
  mailPayload : List Host.Cell
  /-- What a host aperture read returned last (R315). -/
  hostRead : List Byte
  dies : Vector Die 4
  cores : List (Nat × Core)
  slots : Vector Slot 16
  descs : List (Nat × Desc)
  ctxs : List (Nat × Ctx)
  ports : Vector Port 18
  boundaries : Vector Bool 4
  /-- Deaths of the ports of paths: the port and the time (R404). -/
  deadPaths : List (Nat × Nat)
  /-- Paths dead beyond their source port: device, path and the time (R404). -/
  farDead : List (Nat × Nat × Nat)
  /-- Requests in flight across a boundary as it failed, and the time (R406). -/
  cuts : List (Nat × Nat)
  /-- Messages that wait for a die whose clock is halted (R317): in the receive buffers of ports, with the port and the source device,
  and on the way from a die to a port, with the destination device. -/
  rxHeld : List (Nat × Nat × FabricMsg)
  txHeld : List (DieId × Nat × FabricMsg)
  cellar : List (Fin 8 × CellarEngine × Part)
  reqs : List Req
  msgs : List Msg
  /-- What streams and parts have read from afar: reader, address, and the bytes or the code of a fault (R286, R289). -/
  staged : List (Source × Word × (List Byte ⊕ BitVec 8))
  /-- Messages in the fabric to other devices, newest first (R310). -/
  fabricOut : List Departed
  /-- VC 2 traffic (R404): the next number to each device, what is not acknowledged, and what was taken of each device. -/
  vc2Next : List (Nat × Nat)
  vc2Sent : List Departed
  vc2Taken : List (Nat × Nat)
  /-- The path of VC 2 traffic to a device, once a path that carried it has died (R404). -/
  vc2Path : List (Nat × Nat)
  /-- Reservations of harts of other devices (R160): device, core, hart and the key of the granule. -/
  foreignResv : List (Nat × Nat × HartId × Nat)
  /-- Flush markers gathered: source device, core, release and path (R312). -/
  markers : List (Nat × Nat × Nat × Nat)
  /-- Memory (R117): HBM of die d at key d * 2^40 + P, scratchpad at 2^44 + core * 2^18 + offset, coherent
  window at 2^45 + offset. -/
  mem : List Host.Cell
  /-- Poisoned 8-byte words, by the key of their first byte (R377). -/
  poison : List Nat
  /-- The die cycle of the last non-local access that performed at a core's scratchpad (R121), by core. -/
  homed : List (Nat × Nat)
  /-- Requests that have left so far (R312), and those that have left for another device, by the agent and the device (R311). -/
  sends : Nat
  sprayed : List (Nat × Nat)
  /-- The sums of the latest power readings, one a millisecond, newest first (R324). -/
  pwrLog : List Nat
  deriving DecidableEq, Repr

/-! The state right after a cold reset. -/

/-- An empty latch (R201). -/
def Latch.empty : Latch := ⟨.empty, 0⟩

/-- A bin holding 0 (R44). -/
def Latch.zero : Latch := ⟨.full, 0⟩

/-- The port file at reset and at take-up: bins 0, every other latch empty (R44; log 4). -/
def portsReset : Vector Latch 64 := Vector.replicate 16 Latch.zero ++ Vector.replicate 48 Latch.empty

/-- CSRs at reset: the custom ones as R96, R103, R115, R163 to R165 state, the standard ones 0 (log 5). -/
def Csrs.reset : Csrs :=
  { vfcsr := 0, bandsc := 0x3F80, compat := 0, taskret := 0, quantumLimit := 0, upvec := 0, upepc := 0, upcause := 0,
    upval := 0, upstat := 0, spbase := Vector.replicate 8 0, splim := Vector.replicate 8 0,
    bpaddr := Vector.replicate 4 0, bpctl := Vector.replicate 4 0, satp := 0, mstatus := 0, mie := 0, mip := 0,
    mepc := 0, mcause := 0, mtval := 0, mtvec := 0, mscratch := 0, medeleg := 0, mideleg := 0, stvec := 0,
    sscratch := 0, sepc := 0, scause := 0, stval := 0, mcounteren := 0, scounteren := 0, instret := 0 }

/-- A hart at reset: OFF, EXITVAL 0, ENDED 1 (R39, R42); the rest logs 4 and 5. -/
def Hart.reset : Hart :=
  { st := .off, heldFrom := .off, wait := .none, job := .none, issueFrom := 0, jobDue := 0, loaded := [],
    x := Vector.replicate 32 0, xFull := BitVec.allOnes 32, q := Vector.replicate 8 0, qFull := 0, pc := 0,
    mode := .machine, csr := Csrs.reset, quantumCount := 0, quantumSince := 0, exitVal := 0, ended := true,
    resv := none, lr := none, ports := portsReset, seq := 0, ring := Vector.replicate 32 0, flights := [], arrived := none, gbars := [],
    pending := [], upcalls := [], upReserved := false, holdAll := [], holdWrites := [], lines := [],
    fetching := none, fetched := none, fetchHold := none, windowsUsed := [], upsets := [], rewrites := none }

/-- A weight slot at reset: zero bytes with SWIN W0 (R244); SBAND 1.0 (log 4). -/
def WeightSlot.reset : WeightSlot := { data := 0, swin := 0, sband := 0x3F80, scales := 0 }

/-- An accumulator at reset: +0 with tag FP32 (R239). -/
def Acc.reset : Acc := { data := 0, tag := 0, poisoned := false }

/-- A tile entry at reset (R72). -/
def Tile.reset : Tile := { base := 0, win := 0, lines := 0, st := .empty, expect := 0, arrived := 0, gen := 0 }

/-- A flag-watch entry at reset (R78). -/
def Watch.reset : Watch := { off := 0, valid := false, target := 0 }

/-- A core at reset (R41, R48, R54, R72, R78, R79, R113, R239, R244). -/
def Core.reset : Core :=
  { harts := Vector.replicate 16 Hart.reset, weights := Vector.replicate 64 WeightSlot.reset,
    accs := Vector.replicate 16 Acc.reset, tiles := Vector.replicate 64 Tile.reset,
    watch := Vector.replicate 16 Watch.reset, fwLastOff := 0, fwCount := 0, fwPend := false, tasks := [],
    reservations := 0, k := Vector.replicate 8 0, kUpset := 0, kSettle := [], autostart := false, automask := 0xFFFE,
    autoprio := 3, numevt := 0, cgrp := Vector.replicate 4 0, arrivals := [], owners := [], rerouted := [], nextFlag := 0, nextTile := 0,
    entered := 0, mxq := [], mx := [], wbq := [], wb := none, ceq := [], lists := [], ending := [], ceLast := 0, ceNext := 0, niq := [], niSeq := 0,
    qn := [], tileStep := none, tileNext := 0, ctx := none, lcore := 0, migration := none, lastClaim := 0 }

/-- A stub table entry at reset (R86). -/
def Stub.reset : Stub :=
  { st := .free, ctx := false, copied := 0, region := 0, asid := 0, ndev := 0, ndie := 0, acks := 0, lastFwd := 0,
    fwdAt := 0, request := none, sending := false }

/-- A context root table entry before the runtime loads it (R80; log 4). -/
def Root.reset : Root := { asid := 0, valid := false, tdie := 0, taddr := 0, dset := 0 }

/-- A die at reset (R316, R320, R371, R372, R379). -/
def Die.reset : Die :=
  { cur := 15, target := 15, busy := false, haltAfter := none, halted := false, anchorTime := 0, anchorCycle := 0,
    stepRef := 0, stepCyc := 0, haltRef := 0, stepOld := 15, stepNew := 15, stepCount := 0, harvest := 0,
    softCorr := 0, softThresh := 0, stubs := [], owners := [], incoming := [], roots := [], tlb := [], records := [], fbHead := 0, fbTail := 0, tailWas := 0, tailUntil := 0,
    fbOvf := false, fbNew := false, fbOvfCnt := 0, found := [], holding := [], lastWrite := 0, pwrNow := 0,
    tempMax := 0, hot := false, coolSince := none, lowered := 0, stopped := false, dedup := [], expansion := [], lastPlace := 0 }

/-- A FREE buffer descriptor (R272). -/
def Desc.reset : Desc := { addr := 0, ver := 0, home := 0, name := 0, slot := 0, st := .free, gang := none }

/-- An undeclared tensor name (R273). -/
def TName.reset : TName := { front := 0, commit := 0, decl := none, vbusy := 0 }

/-- A FREE stream slot (R268, R370). -/
def Slot.reset : Slot :=
  { blocks := Vector.replicate 4 ⟨0, 0, 0, 0, 0, 0⟩, st := .free, lead := 0, ctx := 0, sbase := 0, slimit := 0, spc := 0, sretpc := 0, sretcnt := 0, ktab := 0,
    nkern := 0, stageOff := 0, stageSize := 0, fCode := 0, fValid := false, fIdx := 0, fOk := false, fLater := 0,
    names := Vector.replicate 64 TName.reset, window := [], next := 0, drain := [], decodeLoops := [],
    retiredLoops := [], kernels := [], entryLines := [], lines := [], opened := 0, fencedAt := 0, fencedOpening := false, stopped := false, lastDecode := 0,
    lastRetire := 0, retired := 0, lastIssue := 0, issued := 0 }

/-- A port at reset: DOWN (R309, R320). -/
def Port.reset : Port :=
  { st := .down, lanes := 0, good := 0, repeats := 0, recent := [], since := 0, lastFlit := 0, rxNext := 0, rxWaiting := [], asked := [], owed := 0, txNext := 0, txAcked := 0,
    store := [] }

/-- The module flash of the modelled part (log 6): an OL-P4 with every stack, no core harvested, device 0, alone in
its domain, in flush-marker mode; path p leaves by port p. -/
def Flash.shipped : Flash :=
  { form := .olP4, image := [], edKeyDigest := 0, mlKeyDigest := 0, device := 0, stackMask := 0xFF, linkMode := 0, paths := 1,
    domSize := 1, pwrLimit := 2200, softThresh := 0, harvest := Vector.replicate 4 0, caps := [], pathPorts := [], otherPorts := [0, 1, 2, 3, 4, 5, 6, 7] }

/-- Every field at its reset value over a module flash and fuses, after a number of warm resets (R10). -/
def State.resetWith (flash : Flash) (fuses : BitVec 512 × BitVec 512) (warm : Nat) (mem : List Host.Cell) : State :=
  { schedule := [], arg := .none, cur := ⟨0, 0⟩, insn := 0, strCur := (0, 0), ceCur := (0, 0, 0), time := 0, nextId := 1,
    freeCtr := 0, warmResets := warm, phase := .rom, edOk := false, mlOk := false, stackMask := 0, device := 0,
    linkMode := 0, paths := 0, domSize := 0, pwrLimit := 0, flash := flash, fuses := fuses, caps := [],
    hflBusy := false, hflAddr := 0, hflLen := 0, hflCtx := 0, hflFlag := 0, hapBase := 0, hapCtx := 0,
    hflWaits := [], cxlUp := false, hostLines := [], backInv := [], mailStatus := false, mailCommand := none,
    mailArea := [], mailPayload := [], hostRead := [], dies := Vector.replicate 4 Die.reset, cores := [],
    slots := Vector.replicate 16 Slot.reset, descs := [], ctxs := [], ports := Vector.replicate 18 Port.reset,
    boundaries := Vector.replicate 4 true, deadPaths := [], farDead := [], cuts := [], rxHeld := [], txHeld := [], cellar := [], reqs := [], msgs := [], staged := [], fabricOut := [], vc2Next := [], vc2Sent := [], vc2Taken := [], vc2Path := [],
    foreignResv := [], markers := [], mem := mem, poison := [], homed := [], sends := 0, sprayed := [], pwrLog := [] }

/-- The machine right after a cold reset (R10): every field at the value the spec states, memory with nothing
listed, every other value as the log names it. -/
def State.reset : State := State.resetWith Flash.shipped (0, 0) 0 []

end Sys2Proof.Machine
end

