-- ==== Sys2Proof/Machine/Ops.lean ====
section
/-! DEFINITION. The named operations over memory, registers, harts and time, and the taking of and return from a
trap, which every meaning shares. -/

namespace Sys2Proof.Machine

/-! ### Tables by key -/

/-- The value at a key of a table whose keys rise strictly. -/
def tableGet {α : Type} (l : List (Nat × α)) (k : Nat) : Option α :=
  match l with
  | [] => none
  | (a, v) :: r => if a = k then some v else tableGet r k

/-- Sets the value at a key, keeping keys strictly rising. -/
def tableSet {α : Type} (l : List (Nat × α)) (k : Nat) (v : α) : List (Nat × α) :=
  match l with
  | [] => [(k, v)]
  | (a, w) :: r =>
    if k < a then (k, v) :: (a, w) :: r
    else if k = a then (k, v) :: r
    else (a, w) :: tableSet r k v

/-- Removes a key. -/
def tableDel {α : Type} (l : List (Nat × α)) (k : Nat) : List (Nat × α) :=
  match l with
  | [] => []
  | (a, w) :: r => if a = k then r else (a, w) :: tableDel r k

/-! ### Memory -/

/-- What an unlisted byte of memory reads as: DESIGN CHOICE (log 3). -/
def Memory.unlisted : Byte := 0

/-- The byte at a key. -/
def Memory.read (m : List Host.Cell) (k : Nat) : Byte :=
  match m with
  | [] => Memory.unlisted
  | (a, b) :: r => if a = k then b else Memory.read r k

/-- Writes the byte at a key, keeping the canonical form. -/
def Memory.write (m : List Host.Cell) (k : Nat) (v : Byte) : List Host.Cell :=
  match m with
  | [] => if v = Memory.unlisted then [] else [(k, v)]
  | (a, b) :: r =>
    if k < a then if v = Memory.unlisted then (a, b) :: r else (k, v) :: (a, b) :: r
    else if k = a then if v = Memory.unlisted then r else (k, v) :: r
    else (a, b) :: Memory.write r k v

/-- Keys rise strictly from above a bound, and no entry holds what an unlisted byte reads as. -/
def Memory.wfFrom (lo : Nat) (m : List Host.Cell) : Bool :=
  match m with
  | [] => true
  | (a, b) :: r => decide (lo ≤ a) && (b != Memory.unlisted) && Memory.wfFrom (a + 1) r

/-- The canonical form of memory. -/
def Memory.wf (m : List Host.Cell) : Bool := Memory.wfFrom 0 m

/-- The n bytes from a key on. -/
def Memory.readBytes (m : List Host.Cell) (k : Nat) : Nat → List Byte
  | 0 => []
  | n + 1 => Memory.read m k :: Memory.readBytes m (k + 1) n

/-- Writes bytes from a key on. -/
def Memory.writeBytes (m : List Host.Cell) (k : Nat) : List Byte → List Host.Cell
  | [] => m
  | b :: r => Memory.writeBytes (Memory.write m k b) (k + 1) r

/-- Little-endian value of bytes (R7). -/
def leNat : List Byte → Nat
  | [] => 0
  | b :: r => b.toNat + 256 * leNat r

/-- The n little-endian bytes of a number (R7). -/
def leBytes (v : Nat) : Nat → List Byte
  | 0 => []
  | n + 1 => BitVec.ofNat 8 v :: leBytes (v / 256) n

/-- Key of a scratchpad byte of a physical core. -/
def spadKey (core off : Nat) : Nat := 2 ^ 44 + core * 2 ^ 18 + off

/-- Key of an HBM byte of a die. -/
def hbmKey (die : Nat) (p : Nat) : Nat := die * 2 ^ 40 + p

/-- Key of a byte of the coherent window. -/
def windowKey (off : Nat) : Nat := 2 ^ 45 + off

/-! ### Parts of the state -/

/-- A core; one that no step has changed is at reset. -/
def State.core (s : State) (c : Nat) : Core := (tableGet s.cores c).getD Core.reset

/-- Replaces a core. -/
def State.setCore (s : State) (c : Nat) (v : Core) : State := { s with cores := tableSet s.cores c v }

/-- A function on every hart of a core. -/
def Core.mapHarts (c : Core) (f : Hart → Hart) : Core :=
  { c with harts := (List.finRange 16).foldl (fun (v : Vector Hart 16) (i : HartId) => v.set i (f v[i])) c.harts }

/-- A hart. -/
def State.hart (s : State) (h : HartRef) : Hart := (s.core h.core).harts[h.hart]

/-- Replaces a hart. -/
def State.setHart (s : State) (h : HartRef) (v : Hart) : State :=
  s.setCore h.core { s.core h.core with harts := (s.core h.core).harts.set h.hart v }

/-- The issuing hart. -/
def State.me (s : State) : Hart := s.hart s.cur

/-- Replaces the issuing hart. -/
def State.setMe (s : State) (v : Hart) : State := s.setHart s.cur v

/-- The core of the issuing hart. -/
def State.myCore (s : State) : Core := s.core s.cur.core

/-- Replaces the core of the issuing hart. -/
def State.setMyCore (s : State) (v : Core) : State := s.setCore s.cur.core v

/-- Die, cluster and core within the cluster of a physical core (R17, R334). -/
def dieOf (core : Nat) : DieId := Fin.ofNat 4 (core / 1280)
def clusterOf (core : Nat) : Nat := core % 1280 / 16
def coreInCluster (core : Nat) : Nat := core % 16

/-- A die. -/
def State.die (s : State) (d : DieId) : Die := s.dies[d]

/-- Replaces a die. -/
def State.setDie (s : State) (d : DieId) (v : Die) : State := { s with dies := s.dies.set d v }

/-- A stream slot. -/
def State.slot (s : State) (i : SlotId) : Slot := s.slots[i]

/-- Replaces a stream slot. -/
def State.setSlot (s : State) (i : SlotId) (v : Slot) : State := { s with slots := s.slots.set i v }

/-- A buffer descriptor (R272). -/
def State.desc (s : State) (n : Nat) : Desc := (tableGet s.descs n).getD Desc.reset

/-- Replaces a buffer descriptor. -/
def State.setDesc (s : State) (n : Nat) (v : Desc) : State := { s with descs := tableSet s.descs n v }

/-- A bound context. -/
def State.ctx? (s : State) (c : BitVec 8) : Option Ctx := tableGet s.ctxs c.toNat

/-- Replaces a bound context. -/
def State.setCtx (s : State) (c : BitVec 8) (v : Ctx) : State := { s with ctxs := tableSet s.ctxs c.toNat v }

/-- The context a core is bound to. -/
def State.ctxOf (s : State) (core : Nat) : Option Ctx :=
  match (s.core core).ctx with
  | some c => s.ctx? c
  | none => none

/-- Number of dies of the form in use (R1, R2). -/
def State.dieCount (s : State) : Nat := if s.flash.form = .olD then 1 else 4

/-- Whether a physical core exists and is enabled (R26, R27). -/
def State.enabled (s : State) (core : Nat) : Bool :=
  decide (core < 1280 * s.dieCount) && !(s.die (dieOf core)).harvest.getLsbD (core % 1280)

/-- Whether a core is enabled on a die that goes on (R407). -/
def State.usable (s : State) (core : Nat) : Bool := s.enabled core && !(s.die (dieOf core)).stopped

/-! ### Time -/

/-- Model time units of a reference tick: 1 ns (log 7). -/
def ticksUnit : Nat := 1225224

/-- Model time units of a die cycle at a frequency code (R317; log 7). -/
def period (code : BitVec 5) : Nat := 12252240 / code.toNat

/-- REFTIME (R316). -/
def State.refTime (s : State) : Nat := s.time / ticksUnit

/-- The die cycle that a die is in (R33, R316): none begins after the last one before a halt (R317). -/
def State.cycle (s : State) (d : DieId) : Nat :=
  let v := s.die d
  let c := v.anchorCycle + (s.time - v.anchorTime) / period v.cur
  if v.halted then v.anchorCycle
  else match v.haltAfter with
    | some last => min c last
    | none => c

/-- The model time at which a die cycle of a die begins. -/
def State.cycleTime (s : State) (d : DieId) (c : Nat) : Nat :=
  let v := s.die d
  v.anchorTime + (c - v.anchorCycle) * period v.cur

/-- The reference ticks elapsed at the start of the present die cycle of a die (R354). -/
def State.cycleRef (s : State) (d : DieId) : Nat :=
  if (s.die d).halted then (s.die d).haltRef.toNat else s.cycleTime d (s.cycle d) / ticksUnit

/-- The die cycle of a core. -/
def State.coreCycle (s : State) (core : Nat) : Nat := s.cycle (dieOf core)

/-- The least and the most that a clock halts for, in model time units (R317). -/
def haltLeast : Nat := 1500 * ticksUnit
def haltMost : Nat := 1501 * ticksUnit

/-! ### Slots (R33, R34) -/

/-- The first die cycle of a hart's own slot from a die cycle on (R33). -/
def firstSlot (hart : HartId) (from_ : Nat) : Nat := from_ + (hart.val + 16 - from_ % 16) % 16

/-- Whether a hart issues in its slots: it is RUNNING and no transfer or drain of it is under way. -/
def Hart.issues (v : Hart) : Bool := v.st == .running && v.job == .none

/-- Whether a hart's slot in a die cycle carries 64 bytes of its image, its record or its port image (R34, R50, R196). -/
def Hart.transfers (v : Hart) (cycle : Nat) : Bool :=
  decide (cycle < v.jobDue) && (match v.st, v.job with
    | .saving, _ | .loading, _ => true
    | .running, .portSave _ | .running, .portLoad _ => true
    | _, _ => false)

/-- Whether a hart uses its slot in a die cycle. -/
def Hart.usesSlot (v : Hart) (cycle : Nat) : Bool := v.issues || v.transfers cycle

/-- Whether the hart of the present slot of a core has still to use it (R33): what else comes in the die cycle follows it (R75, R121). -/
def State.slotPending (s : State) (core : Nat) : Bool :=
  let c := s.coreCycle core
  let v := s.hart ⟨core, Fin.ofNat 16 c⟩
  v.usesSlot c && decide (v.issueFrom ≤ c) && !(s.die (dieOf core)).halted

/-! ### Registers of the issuing hart -/

/-- x0 reads as 0 (R137). -/
def Hart.readX (h : Hart) (r : Reg) : Word := if r = 0 then 0 else h.x[r.toNat]'(r.isLt)

/-- x0 always reads as full (R137). -/
def Hart.isFull (h : Hart) (r : Reg) : Bool := r == 0 || h.xFull.getLsbD r.toNat

/-- Fill of R168: x0 ignores it. -/
def Hart.fill (h : Hart) (r : Reg) (v : Word) : Hart :=
  if r = 0 then h
  else { h with x := h.x.set r.toNat v (r.isLt), xFull := h.xFull ||| (1#32 <<< r.toNat) }

/-- Empty of R168: x0 stays full. -/
def Hart.empty (h : Hart) (r : Reg) : Hart :=
  if r = 0 then h else { h with xFull := h.xFull &&& ~~~ (1#32 <<< r.toNat) }

/-- Fills a q-register (R181). -/
def Hart.fillQ (h : Hart) (q : BitVec 3) (v : Word) : Hart :=
  { h with q := h.q.set q.toNat v (q.isLt), qFull := h.qFull ||| (1#8 <<< q.toNat) }

/-- Empties a q-register (R182, R183). -/
def Hart.emptyQ (h : Hart) (q : BitVec 3) : Hart := { h with qFull := h.qFull &&& ~~~ (1#8 <<< q.toNat) }

/-- Whether a q-register is full. -/
def Hart.qIsFull (h : Hart) (q : BitVec 3) : Bool := h.qFull.getLsbD q.toNat

/-- The first empty register among those an instruction reads, in field order (R30). -/
def Hart.firstEmpty (h : Hart) : List Reg → Option Reg
  | [] => none
  | r :: rest => if h.isFull r then h.firstEmpty rest else some r

/-- Moves the PC past a core word. -/
def Hart.advance (h : Hart) : Hart := { h with pc := h.pc + 4, csr := { h.csr with instret := h.csr.instret + 1 } }

/-- The issuing hart completes its instruction with new registers (R35). -/
def State.complete (s : State) (h : Hart) : State := s.setMe h.advance

/-- Quantum ticks counted up to now (R52). -/
def Hart.ticksCounted (h : Hart) (now : Nat) : Nat :=
  match h.st with
  | .running | .parked => if h.csr.quantumLimit = 0 then h.quantumCount else h.quantumCount + (now - h.quantumSince)
  | _ => h.quantumCount

/-- Changes a hart's state, freezing or restarting its quantum count as R52 says. -/
def Hart.moveTo (h : Hart) (st : HartState) (now : Nat) : Hart :=
  { h with st := st, quantumCount := h.ticksCounted now, quantumSince := now }

/-- The issuing hart parks; its PC stays and the instruction has no effect (R31, R203). -/
def State.park (s : State) (w : Wait) : State :=
  s.setMe { (s.me.moveTo .parked s.refTime) with wait := w }

/-- Upsets are gone whose elements the last instruction has written whole, where it issued (R377). -/
def Hart.rewritten (v : Hart) : Hart :=
  match v.rewrites with
  | some (pc, l) => { v with upsets := if v.pc = pc then v.upsets else v.upsets.filter fun e => !l.contains e, rewrites := none }
  | none => v

/-! ### Traps -/

/-- The bits of mstatus that the model holds: SIE 1, MIE 3, SPIE 5, MPIE 7, SPP 8, MPP 12:11, TVM 20, TSR 22;
PRESUMED (log 5). -/
def mstatusMask : Word := 0x5019AA

/-- The two-bit code of a mode (R167). -/
def Mode.code : Mode → BitVec 2
  | .user => 0
  | .supervisor => 1
  | .machine => 3

/-- The mode of a two-bit code; the reserved code 2 is U (R194). -/
def Mode.ofCode (c : BitVec 2) : Mode :=
  match c with
  | 1#2 => .supervisor
  | 3#2 => .machine
  | _ => .user

/-- Bit n of a word. -/
def bitOf (w : Word) (n : Nat) : Bool := w.getLsbD n

/-- Word w with bit n set to b. -/
def setBit (w : Word) (n : Nat) (b : Bool) : Word :=
  if b then w ||| (1#64 <<< n) else w &&& ~~~ (1#64 <<< n)

/-- Whether a trap goes to S mode: it is delegated and the hart is below M mode (R161, R363). -/
def Hart.delegated (h : Hart) (isInterrupt : Bool) (cause : Nat) : Bool :=
  h.mode != .machine && bitOf (if isInterrupt then h.csr.mideleg else h.csr.medeleg) cause

/-- The handler address: the base, or for an interrupt in vectored mode base + 4 * cause; PRESUMED (log 5). -/
def trapVector (tvec : Word) (isInterrupt : Bool) (cause : Nat) : Word :=
  let base := tvec &&& ~~~ 3#64
  if isInterrupt && tvec.extractLsb' 0 2 == 1 then base + BitVec.ofNat 64 (4 * cause) else base

/-- mcause or scause: the interrupt bit and the code. -/
def causeWord (isInterrupt : Bool) (cause : Nat) : Word := setBit (BitVec.ofNat 64 cause) 63 isInterrupt

/-- mstatus on entry to M mode: MPIE ← MIE, MIE ← 0, MPP ← mode. -/
def mstatusOnM (st : Word) (m : Mode) : Word :=
  let st := setBit (setBit st 7 (bitOf st 3)) 3 false
  (st &&& ~~~ (0x1800#64)) ||| ((m.code.zeroExtend 64) <<< 11)

/-- mstatus on entry to S mode: SPIE ← SIE, SIE ← 0, SPP ← mode. -/
def mstatusOnS (st : Word) (m : Mode) : Word :=
  setBit (setBit (setBit st 5 (bitOf st 1)) 1 false) 8 (m != .user)

/-- Taking a trap (R361, R363): the PC, the cause and the value are saved, the status and the mode change, and the
PC goes to the handler. The hart leaves any park; its reservation and its prefetched lines go (R160, R199). Latches,
bins, SEQ and ring stay (R226). -/
def Hart.takeTrap (h : Hart) (isInterrupt : Bool) (cause : Nat) (tval epc : Word) (now : Nat) : Hart :=
  let h := h.moveTo .running now
  let h := { h with wait := .none, resv := none, lr := none, lines := [], fetching := none, fetched := none, rewrites := none }
  if h.delegated isInterrupt cause then
    { h with
      mode := .supervisor, pc := trapVector h.csr.stvec isInterrupt cause,
      csr := { h.csr with
        sepc := epc, scause := causeWord isInterrupt cause, stval := tval, mstatus := mstatusOnS h.csr.mstatus h.mode } }
  else
    { h with
      mode := .machine, pc := trapVector h.csr.mtvec isInterrupt cause,
      csr := { h.csr with
        mepc := epc, mcause := causeWord isInterrupt cause, mtval := tval, mstatus := mstatusOnM h.csr.mstatus h.mode } }

/-- The issuing hart takes a precise trap on its instruction, which performs nothing (R361). -/
def State.trap (s : State) (cause : Nat) (tval : Word) : State :=
  s.setMe (s.me.takeTrap false cause tval s.me.pc s.refTime)

/-- Return from M mode (R161): mode ← MPP, MIE ← MPIE, MPIE ← 1, MPP ← U, PC ← mepc. -/
def Hart.returnM (h : Hart) : Hart :=
  let st := h.csr.mstatus
  { h with
    mode := Mode.ofCode (st.extractLsb' 11 2), pc := h.csr.mepc,
    csr := { h.csr with
      mstatus := setBit (setBit st 3 (bitOf st 7)) 7 true &&& ~~~ (0x1800#64), instret := h.csr.instret + 1 } }

/-- Return from S mode (R161): mode ← SPP, SIE ← SPIE, SPIE ← 1, SPP ← U, PC ← sepc. -/
def Hart.returnS (h : Hart) : Hart :=
  let st := h.csr.mstatus
  { h with
    mode := if bitOf st 8 then .supervisor else .user, pc := h.csr.sepc,
    csr := { h.csr with
      mstatus := setBit (setBit (setBit st 1 (bitOf st 5)) 5 true) 8 false, instret := h.csr.instret + 1 } }

/-- mtval of cause 24 (R362): the code, its detail and the instruction word. -/
def faultWord (code : BitVec 8) (detail : BitVec 8) (insn : BitVec 32) : Word := 0#16 ++ insn ++ detail ++ code

/-- xhartid [29:0] of a hart (R163). -/
def State.hartWord (s : State) (h : HartRef) : Word :=
  BitVec.ofNat 64 (h.hart.val + 16 * coreInCluster h.core + 256 * clusterOf h.core + 2 ^ 15 * (dieOf h.core).val
    + 2 ^ 17 * s.device.toNat)

/-! ### Requests -/

/-- The request of an identifier. -/
def State.req? (s : State) (id : Nat) : Option Req := s.reqs.find? (fun r => r.id == id)

/-- Replaces a request. -/
def State.setReq (s : State) (r : Req) : State := { s with reqs := s.reqs.map (fun q => if q.id = r.id then r else q) }

/-- Removes a request, which has completed or been settled (R120, R366): nothing waits for it any longer. -/
def State.dropReq (s : State) (id : Nat) : State := { s with reqs := s.reqs.filter (fun q => q.id != id) }

/-- Requests and invalidations of a list that have not completed. -/
def State.outstanding (s : State) (ids : List Nat) : List Nat :=
  ids.filter (fun i => (s.req? i).isSome || s.msgs.any (fun m => m.id == i))

/-- Adds a request in the outbound queue, and gives its identifier. -/
def State.addReq (s : State) (r : Req) : State :=
  { s with reqs := s.reqs ++ [{ r with id := s.nextId }], nextId := s.nextId + 1 }

/-- Adds a message in flight from a die. -/
def State.send (s : State) (d : DieId) (b : MsgBody) : State :=
  { s with msgs := s.msgs ++ [⟨s.nextId, d, b⟩], nextId := s.nextId + 1 }

/-- The message of an identifier. -/
def State.msg? (s : State) (id : Nat) : Option MsgBody := (s.msgs.find? (fun m => m.id == id)).map (·.body)

/-- The die at which a message entered the mesh. -/
def State.msgDie (s : State) (id : Nat) : DieId := ((s.msgs.find? (fun m => m.id == id)).map (·.src)).getD 0

/-- Removes a message. -/
def State.dropMsg (s : State) (id : Nat) : State := { s with msgs := s.msgs.filter (fun m => m.id != id) }

/-- The hart a request is issued for, if it has one. -/
def Source.hart? : Source → Option HartRef
  | .hart h => some h
  | .engine h _ _ _ => some h
  | .copyList _ _ h _ => some h
  | _ => none

/-- A RUNNING or PARKED hart becomes HELD (R374). -/
def State.hold (s : State) (h : HartRef) : State :=
  let v := s.hart h
  match v.st with
  | .running | .parked => s.setHart h { v.moveTo .held s.refTime with heldFrom := v.st }
  | _ => s

/-- A 16-bit count that saturates. -/
def satInc16 (v : BitVec 16) : BitVec 16 := if v = 0xFFFF then v else v + 1

/-- The tail of a die's fault buffer as records see it: in the die cycle of a write of FBTAIL, the one before the write (R373). -/
def State.tailSeen (s : State) (d : DieId) : BitVec 9 :=
  if s.cycle d < (s.die d).tailUntil then (s.die d).tailWas else (s.die d).fbTail

/-- Whether a die's fault buffer is full (R372). -/
def State.bufferFull (s : State) (d : DieId) : Bool := (s.die d).fbHead - s.tailSeen d == 256

/-- A fault is found (R373): it joins the die's record queue or, when the buffer is full, is held, and a hart whose
fault it is becomes HELD. -/
def State.raise (s : State) (d : DieId) (f : FaultRec) : State :=
  let v := s.die d
  if s.bufferFull d then
    let s := s.setDie d { v with holding := v.holding ++ [f], fbOvf := true, fbOvfCnt := satInc16 v.fbOvfCnt }
    match f.hart with
    | some h => s.hold h
    | none => s
  else s.setDie d { v with found := v.found ++ [f] }

/-- A free word (log 14). -/
def State.freeWord (s : State) : Word × State := (Config.freeWord s.freeCtr, { s with freeCtr := s.freeCtr + 1 })

end Sys2Proof.Machine
end

