-- ==== Sys2Proof/Machine/Operands.lean ====
section
/-! DEFINITION. Where an address lies (R61 to R68), the checks that a hart makes on it at issue (R361, R413, R414),
and the protection unit (R71). -/

namespace Sys2Proof.Machine

/-- What an address names. -/
inductive Place
  /-- A scratchpad byte of this device, through a window. -/
  | spad (core off win : Nat)
  /-- A scratchpad byte of another device, by its package-space fields (R66). -/
  | farSpad (device core off win : Nat)
  /-- A place that R66 says names nothing: a cluster above 79, a device above 4,607, an absent die. -/
  | nothing
  | virt (va : Nat)
  | window (off : Nat)
  | register (die off : Nat)
  | tileTable (off : Nat)
  | coreReg (off : Nat)
  | watchTable (off : Nat)
  deriving DecidableEq, Repr

/-- Bits hi down to lo of an address, as a number. -/
def field (a : Word) (lo len : Nat) : Nat := a.toNat / 2 ^ lo % 2 ^ len

/-- Core and scratchpad offset of a cluster offset, striped at 128 bytes (R65). -/
def stripe (a : Nat) : Nat × Nat := (a / 128 % 16, a / 2048 % 2048 * 128 + a % 128)

/-- The place of an address for an agent of a physical core (R61, R64 to R67): none for a reserved selector, a
reserved region or a nonzero bit of a zero field. A 0xB address of another device is that device's whatever its die field, also on
an OL-D (R2). DESIGN CHOICE (log 88). -/
def State.place (s : State) (core : Nat) (a : Word) : Option Place :=
  let sel := field a 60 4
  if sel = 0 then if field a 57 3 = 0 then some (.virt (field a 0 57)) else none
  else if sel = 8 then
    if field a 24 36 ≠ 0 then none
    else match field a 21 3 with
      | 0 => some (.spad core (field a 0 18) (field a 18 3))
      | 1 => if field a 18 3 = 0 then some (.tileTable (field a 0 18)) else none
      | 2 => if field a 18 3 = 0 then some (.coreReg (field a 0 18)) else none
      | 3 => if field a 18 3 = 0 then some (.watchTable (field a 0 18)) else none
      | _ => none
  else if sel = 9 then
    if field a 25 35 ≠ 0 then none
    else let (c, o) := stripe (field a 0 22)
         some (.spad (core / 16 * 16 + c) o (field a 22 3))
  else if sel = 10 then
    if field a 34 26 ≠ 0 then none
    else if 80 ≤ field a 25 7 ∨ s.dieCount ≤ field a 32 2 then some .nothing
    else some (.spad (1280 * field a 32 2 + 16 * field a 25 7 + field a 21 4) (field a 0 18) (field a 18 3))
  else if sel = 11 then
    if field a 47 13 ≠ 0 then none
    else if 80 ≤ field a 25 7 ∨ 4608 ≤ field a 34 13 then some .nothing
    else
      let c := 1280 * field a 32 2 + 16 * field a 25 7 + field a 21 4
      if field a 34 13 = s.device.toNat then
        if s.dieCount ≤ field a 32 2 then some .nothing else some (.spad c (field a 0 18) (field a 18 3))
      else some (.farSpad (field a 34 13) c (field a 0 18) (field a 18 3))
  else if sel = 12 then
    if field a 30 30 ≠ 0 then none else some (.register (field a 28 2) (field a 0 28))
  else if sel = 13 then if field a 22 38 ≠ 0 then none else some (.window (field a 0 22))
  else none

/-- Stored bytes of a scalar access of `size` delivered bytes through a window, or none where the window does not
admit it (R68). -/
def scalarSpan (win size : Nat) : Option Nat :=
  match win with
  | 0 => some size
  | 1 | 2 | 7 => if size = 4 then some 2 else none
  | 6 => if size = 4 then some 1 else none
  | _ => none

/-- The window field of an address of a scratchpad space, and 0 for any other (R61, R62). -/
def windowField (a : Word) : Nat :=
  match field a 60 4 with
  | 8 => if field a 21 3 = 0 then field a 18 3 else 0
  | 9 => field a 22 3
  | 10 | 11 => field a 18 3
  | _ => 0

/-- The alignment test of R62 on the address as issued, whatever it names. DEDUCED (log 20). -/
def aligned (a : Word) (size : Nat) : Bool :=
  match windowField a with
  | 0 => a.toNat % size == 0
  | 1 | 2 | 7 => size != 4 || a.toNat % 2 == 0
  | _ => true

/-- Whether an address names a die that the device lacks (R2): by selector 0xA, or by 0xB with the own device. DESIGN CHOICE
(log 88). -/
def State.absentDie (s : State) (a : Word) : Bool :=
  s.dieCount == 1 && field a 32 2 != 0 && (field a 60 4 == 10 || (field a 60 4 == 11 && field a 34 13 == s.device.toNat))

/-- Registers of a stream slot block (R268). -/
def slotRegister (off : Nat) : Bool :=
  off % 8 == 0 && (decide (off ≤ 0x50) || (0x80 ≤ off && decide (off < 0xC0)) || (0x200 ≤ off && decide (off < 0x400)))

/-- Port p is on die ⌊p/5⌋ for p < 10, and on die 2 + ⌊(p − 10)/4⌋ above (R306). -/
def portDie (p : Nat) : Nat := if p < 10 then p / 5 else 2 + (p - 10) / 4

/-- Offsets of a die's register block that hold a register (R319, R371, R372, R379). -/
def State.registerExists (s : State) (die off : Nat) : Bool :=
  decide (die < s.dieCount) && !(s.die (Fin.ofNat 4 die)).stopped && off % 8 == 0 &&
  (off == 0 || off == 8
   || (0x1000 ≤ off && decide (off < 0x10A0))
   || (0x10000 ≤ off && decide (off ≤ 0x10030))
   || off == 0x20000
   || (0x20100 ≤ off && decide (off < 0x20190) && portDie ((off - 0x20100) / 8) == die)
   || (die == 0 && 0x30000 ≤ off && decide (off ≤ 0x30030))
   || (die == 0 && off == 0x40000) || off == 0x40008 || off == 0x40010 || off == 0x40018
   || (die == 0 && 0x50000 ≤ off && decide (off < 0x51000))
   || (0x100000 ≤ off && decide (off < 0x110000) && slotRegister (off % 0x1000))
   || (0x110000 ≤ off && decide (off < 0x114000))
   || (0x120000 ≤ off && decide (off < 0x122000))
   || (0x130000 ≤ off && decide (off < 0x130400))
   || (0x140000 ≤ off && decide (off < 0x140000 + 0x240 * 64))
   || (0x200000 ≤ off && decide (off < 0x240000))
   || (0x300000 ≤ off && decide (off < 0x302000)) || off == 0x302000 || off == 0x302008 || off == 0x302010
   || (0x310000 ≤ off && decide (off < 0x310000 + 8 * 4608)))

/-- Offsets of region 2 that hold a core register (R166). -/
def coreRegisterExists (off : Nat) : Bool :=
  off % 8 == 0 && (decide (off ≤ 0x40) || (0x80 ≤ off && decide (off < 0xC0)))

/-- Kinds of access for the protection unit (R71). -/
inductive Kind | read | write | readWrite
  deriving DecidableEq, Repr

/-- Whether a protection region is enabled, holds a stored span and permits a kind (R71). -/
def regionHolds (base lim : Word) (k : Kind) (off len : Nat) : Bool :=
  bitOf lim 63 && decide (field base 0 18 / 64 * 64 ≤ off) && decide (off + len ≤ field lim 0 19 / 64 * 64)
  && (match k with
      | .read => bitOf lim 60
      | .write => bitOf lim 61
      | .readWrite => bitOf lim 60 && bitOf lim 61)

/-- Whether protection region i of a hart permits an access of a kind to a stored span (R71). -/
def regionPermits (s : State) (base lim : Word) (issuer : Nat) (k : Kind) (device core off len : Nat) : Bool :=
  let own := device == s.device.toNat
  let named := clusterOf core == field base 22 7 && coreInCluster core == field base 18 4 && core / 1280 == field base 29 2
  (match field base 44 2 with
   | 0 => own && core == issuer
   | 1 => own && core / 16 == issuer / 16
   | 2 => own && named
   | _ => device == field base 31 13 && named)
  && regionHolds base lim k off len

/-- The protection unit (R71): M mode is not checked. -/
def State.protects (s : State) (h : HartRef) (m : Mode) (k : Kind) (device core off len : Nat) : Bool :=
  m == .machine || (List.finRange 8).any (fun i =>
    regionPermits s ((s.hart h).csr.spbase[i]) ((s.hart h).csr.splim[i]) h.core k device core off len)

/-- The protection unit on an address of space 0xA or 0xB that names no scratchpad: a region may name the place by its fields (R71). -/
def State.protectsFields (s : State) (h : HartRef) (m : Mode) (k : Kind) (a : Word) (len : Nat) : Bool :=
  let device := if field a 60 4 = 11 then field a 34 13 else s.device.toNat
  let permits (base lim : Word) : Bool :=
    field base 22 7 == field a 25 7 && field base 18 4 == field a 21 4 && field base 29 2 == field a 32 2
    && (match field base 44 2 with
        | 2 => device == s.device.toNat
        | 3 => device == field base 31 13
        | _ => false)
    && regionHolds base lim k (field a 0 18) len
  m == .machine || (List.finRange 8).any fun i => permits ((s.hart h).csr.spbase[i]) ((s.hart h).csr.splim[i])

/-- The outcome of the address checks of one access. -/
inductive Check
  | ok (p : Place)
  /-- A precise trap with this cause and mtval the address. -/
  | trap (cause : Nat)
  /-- P(COREREG). -/
  | coreReg
  deriving DecidableEq, Repr

/-- mcause of a misaligned access, and of a refused one, by kind (R361). -/
def Kind.alignCause : Kind → Nat
  | .read => 4
  | _ => 6
def Kind.accessCause : Kind → Nat
  | .read => 5
  | _ => 7

/-- The scratchpad part of Addr (R413): window shape, disabled core through 0x8 or 0x9, span, protection. -/
def State.checkSpad (s : State) (h : HartRef) (m : Mode) (k : Kind) (a : Word) (device core off win size : Nat) : Bool :=
  match scalarSpan win size with
  | none => false
  | some len =>
    let sel := field a 60 4
    ((sel != 8 && sel != 9) || s.enabled core) && decide (off + len ≤ 0x40000) && s.protects h m k device core off len

/-- Whether an access to region 1, 2 or 3 of space 0x8 reaches no entry and no register, whatever its zero fields (R64, R166). -/
def coreRegionBad (a : Word) (size : Nat) : Bool :=
  let off := field a 0 18
  field a 60 4 == 8 && (match field a 21 3 with
    | 1 => size != 8 || off % 8 != 0 || decide (0x400 ≤ off)
    | 2 => size != 8 || !coreRegisterExists off
    | 3 => size != 8 || off % 8 != 0 || decide (0x100 ≤ off)
    | _ => false)

/-- The checks on the address of a scalar access by a hart, in the order of R414: COREREG of regions 1 to 3 first,
then alignment, then the rest of Addr (R361, R413). `words` says whether the access kind may name spaces other than
virtual space and W0 of the own scratchpad, which is all that A-extension instructions may (R61, R417).
DEDUCED (log 49). -/
def State.checkScalar (s : State) (h : HartRef) (k : Kind) (a : Word) (size : Nat) (words : Bool) : Check :=
  let p := s.place h.core a
  let m := (s.hart h).mode
  let register (there : Bool) (p : Place) : Check :=
    if !there then .coreReg else if words then .ok p else .trap k.accessCause
  if p.isNone && coreRegionBad a size then .coreReg
  else match p with
  | some (.tileTable off) => register (size == 8 && off % 8 == 0 && decide (off < 0x400)) (.tileTable off)
  | some (.watchTable off) => register (size == 8 && off % 8 == 0 && decide (off < 0x100)) (.watchTable off)
  | some (.coreReg off) => register (size == 8 && coreRegisterExists off) (.coreReg off)
  | _ =>
    if !aligned a size then .trap k.alignCause
    else match p with
      | none => .trap k.accessCause
      | some (.virt va) => .ok (.virt va)
      | some .nothing =>
        match scalarSpan (field a 18 3) size with
        | some len =>
          if words && !s.absentDie a && decide (field a 0 18 + len ≤ 0x40000) && s.protectsFields h m k a len then .ok .nothing
          else .trap k.accessCause
        | none => .trap k.accessCause
      | some (.spad core off win) =>
        if (words || (field a 60 4 == 8 && win == 0)) && s.checkSpad h m k a s.device.toNat core off win size
        then .ok (.spad core off win) else .trap k.accessCause
      | some (.farSpad device core off win) =>
        if words && s.checkSpad h m k a device core off win size then .ok (.farSpad device core off win)
        else .trap k.accessCause
      | some (.window off) =>
        if words ∧ off + size ≤ 0x400000 then .ok (.window off) else .trap k.accessCause
      | some (.register die off) =>
        if words ∧ m ≠ .user ∧ size = 8 ∧ s.registerExists die off ∧ k ≠ .readWrite then .ok (.register die off)
        else .trap k.accessCause
      | _ => .trap k.accessCause

/-- A data breakpoint on an access (R165, R414): an enabled comparator of the kind that holds the address. -/
def Hart.breaks (h : Hart) (bit : Nat) (a : Word) : Bool :=
  (List.finRange 4).any (fun i => bitOf h.csr.bpctl[i] 0 && bitOf h.csr.bpctl[i] bit && h.csr.bpaddr[i] == a)

/-- The comparator bit of a data access (R165). -/
def Kind.breakBit : Kind → Nat
  | .read => 2
  | _ => 3

/-- An operand that must lie in the issuing core's own scratchpad through W0, over a span of bytes, aligned (R168): its
scratchpad offset. Every byte of the span lies on the core after striping. -/
def State.ownSpan (s : State) (core : Nat) (a : Word) (align len : Nat) : Option Nat :=
  match s.place core a with
  | some (.spad c off 0) =>
    if c = core ∧ a.toNat % align = 0 ∧ off + len ≤ 0x40000 ∧ (field a 60 4 = 9 → off % 128 + len ≤ 128) then some off
    else none
  | _ => none

end Sys2Proof.Machine
end

