-- ==== Sys2Proof/Machine/Ports.lean ====
section
/-! DEFINITION. The port file of a hart: latches, bins, the ring, and what a trigger does to them (R141, R200 to R209,
R224, R225, R229, R365). -/

namespace Sys2Proof.Machine

/-- Unit codes (R142). -/
def unitCode : EngineUnit → Nat
  | .va => 0 | .vs => 1 | .cv => 2 | .ls => 3 | .mx => 4 | .wb => 5 | .ce => 6 | .ni => 7

/-- Trigger operand and result ports (R141, R142). -/
def operandPort : EngineUnit → BitVec 6
  | .va => 0x10 | .vs => 0x15 | .cv => 0x18 | .ls => 0x1B | .mx => 0x1E | .wb => 0x22 | .ce => 0x24 | .ni => 0x26
def resultPort : EngineUnit → BitVec 6
  | .va => 0x14 | .vs => 0x17 | .cv => 0x19 | .ls => 0x1D | .mx => 0x21 | .wb => 0x23 | .ce => 0x25 | .ni => 0x29

/-- The unit whose result a port holds. -/
def unitOfResult (p : BitVec 6) : Option EngineUnit :=
  [EngineUnit.va, .vs, .cv, .ls, .mx, .wb, .ce, .ni].find? (fun u => resultPort u == p)

/-- In-flight limit of a hart (R206). -/
def inFlightLimit : EngineUnit → Nat
  | .va | .vs | .cv | .ls => 1
  | _ => 4

/-- Width of a port in bits (R200). -/
def portWidth (p : BitVec 6) : Nat :=
  match p with
  | 0x13#6 | 0x20#6 | 0x27#6 | 0x21#6 | 0x23#6 | 0x25#6 | 0x29#6 => 64
  | 0x1B#6 | 0x1E#6 | 0x1F#6 | 0x22#6 | 0x24#6 | 0x26#6 => 128
  | _ => 512

/-- Keeps the low n bits of a wide value (R200). -/
def lowBits (v : Wide) (n : Nat) : Wide := BitVec.ofNat 512 (v.toNat % 2 ^ n)

/-- The latch of a port. -/
def Hart.latch (h : Hart) (p : BitVec 6) : Latch := h.ports[p.toNat]'(p.isLt)

/-- Replaces the latch of a port. -/
def Hart.setLatch (h : Hart) (p : BitVec 6) (l : Latch) : Hart := { h with ports := h.ports.set p.toNat l (p.isLt) }

/-- What a port reads as: port 0x2C reads 0 (R200, R205). -/
def Hart.readPort (h : Hart) (p : BitVec 6) : Wide := if p = 0x2C then 0 else (h.latch p).val

/-- A whole write of a latch (R200, R201): port 0x2C drops it, and qn.dn is no latch. -/
def Hart.writePort (h : Hart) (p : BitVec 6) (v : Wide) : Hart :=
  if p = 0x2C ∨ p = 0x2B then h else h.setLatch p ⟨.full, lowBits v (portWidth p)⟩

/-- Lane l of a wide value, w bits wide. -/
def lane (w : Nat) (v : Wide) (l : Nat) : Nat := v.toNat / 2 ^ (w * l) % 2 ^ w

/-- The value with lane l replaced. -/
def setLane (w : Nat) (v : Wide) (l : Nat) (x : Nat) : Wide :=
  BitVec.ofNat 512 (v.toNat - lane w v l * 2 ^ (w * l) + x % 2 ^ w * 2 ^ (w * l))

/-- Lanes from lane 0 up as one wide value. -/
def ofLanes (w : Nat) (ls : List Nat) : Wide :=
  BitVec.ofNat 512 (ls.foldr (fun x acc => x % 2 ^ w + 2 ^ w * acc) 0)

/-- The n lanes of a wide value. -/
def lanes (w n : Nat) (v : Wide) : List Nat := (List.range n).map (lane w v)

/-- A write of one lane (R201, R205): a full latch keeps the others, an empty or lost one has them 0; a lane above the
width is dropped. -/
def Hart.writeLane (h : Hart) (p : BitVec 6) (w l : Nat) (x : Nat) : Hart :=
  if p = 0x2C then h
  else
    let old : Wide := match (h.latch p).st with | .full => (h.latch p).val | _ => 0
    h.setLatch p ⟨.full, if w * l < portWidth p then setLane w old l x else old⟩

/-! ### The ring and flights (R206, R209) -/

/-- A ring entry (R209). -/
def ringWord (unit : EngineUnit) (fn : BitVec 8) (done fault : Bool) : BitVec 16 :=
  BitVec.ofNat 16 (unitCode unit + 8 * fn.toNat + (if done then 2 ^ 11 else 0) + (if fault then 2 ^ 12 else 0))

/-- Writes the ring entry of a sequence number. -/
def Hart.setRing (h : Hart) (seq : BitVec 8) (v : BitVec 16) : Hart :=
  { h with ring := h.ring.set (seq.toNat % 32) v (Nat.mod_lt _ (by decide)) }

/-- Triggers of a unit in flight. -/
def Hart.inFlight (h : Hart) (u : EngineUnit) : Nat := (h.flights.filter (fun f => f.unit == u)).length

/-- A trigger starts (R206): the result latch empties, SEQ advances, its ring entry is written and it is in flight. -/
def Hart.startTrigger (h : Hart) (u : EngineUnit) (fn : BitVec 8) (due : Nat) (result : Wide) (flags : BitVec 5)
    (access : LsAccess) : Hart :=
  let s := h.seq
  let old := h.flights.map (fun (f : Flight) => if f.unit = u then { f with latest := false } else f)
  let h := { h with seq := s + 1, flights := old ++ [Flight.mk u s fn due result flags access true] }
  (h.setLatch (resultPort u) Latch.empty).setRing s (ringWord u fn false false)

/-- The flight of a sequence number of a unit. -/
def Hart.flight? (h : Hart) (u : EngineUnit) (seq : BitVec 8) : Option Flight :=
  h.flights.find? (fun f => f.unit == u && f.seq == seq)

/-- The ring entry of a trigger that ends tells so (R209), while it still holds it: fewer than 32 triggers have followed (R375). -/
def Hart.endRing (h : Hart) (seq : BitVec 8) (u : EngineUnit) (fn : BitVec 8) (fault : Bool) : Hart :=
  if (h.seq - 1 - seq).toNat < 32 then h.setRing seq (ringWord u fn true fault) else h

/-- A trigger leaves flight (R202, R206, R365): DONE, its flags are ORed in, and, when it is the hart's most recent of its
unit, its result latch takes a latch value. -/
def Hart.endTrigger (h : Hart) (u : EngineUnit) (seq : BitVec 8) (fault : Bool) (l : Latch) : Hart :=
  match h.flight? u seq with
  | none => h
  | some f =>
    let h := { h with
      flights := h.flights.filter (fun g => !(g.unit == u && g.seq == seq)),
      csr := { h.csr with vfcsr := h.csr.vfcsr ||| f.flags.zeroExtend 64 } }
    let h := h.endRing seq u f.fn fault
    if f.latest then h.setLatch (resultPort u) l else h

/-- A trigger completes with a value. -/
def Hart.fillResult (h : Hart) (u : EngineUnit) (seq : BitVec 8) (v : Wide) : Hart := h.endTrigger u seq false ⟨.full, v⟩

/-- The value that a faulted trigger leaves in mx.s, wb.s, ce.s or ni.r (R365). -/
def faultResult (code : BitVec 8) (seq : BitVec 8) : Wide :=
  BitVec.ofNat 512 (0xFFFFFFFFFFFF0000 + 256 * code.toNat + seq.toNat)

/-- A trigger faults (R365). -/
def Hart.faultTrigger (h : Hart) (u : EngineUnit) (seq : BitVec 8) (code : BitVec 8) : Hart :=
  h.endTrigger u seq true
    (match u with
     | .va | .vs | .cv | .ls => ⟨.lost, 0⟩
     | _ => ⟨.full, faultResult code seq⟩)

/-- The status word of a list (R256). -/
def CeList.status (l : CeList) : Wide :=
  BitVec.ofNat 512 (l.completed % 65536 + (if l.ended then 2 ^ 16 else 0) + (if l.stopped then 2 ^ 17 else 0))

/-! ### The queue ports (R224, R225) -/

/-- The enabled core that follows in the chain of the cluster. -/
def State.downstream (s : State) (core : Nat) : Option Nat :=
  (List.range 16).map (fun i => core / 16 * 16 + i) |>.find? (fun c => decide (core < c) && s.enabled c)

/-- Whether an enabled core precedes in the chain of the cluster. -/
def State.hasUpstream (s : State) (core : Nat) : Bool :=
  ((List.range 16).map (fun i => core / 16 * 16 + i)).any (fun c => decide (c < core) && s.enabled c)

/-- Entries of the core's inbound queue that can be popped: from the third die cycle after the push (R225). -/
def State.poppable (s : State) (core : Nat) : Nat :=
  ((s.core core).qn.takeWhile (fun e => decide (e.2 + 3 ≤ s.coreCycle core))).length

/-- Whether the hart may push n entries: room downstream, and every release of the hart before it has performed
(R225). DEDUCED (log 23). -/
def State.pushable (s : State) (h : HartRef) (n : Nat) : Bool :=
  match s.downstream h.core with
  | none => false
  | some d => decide ((s.core d).qn.length + n ≤ 16) && (n == 0 || (s.outstanding (s.hart h).holdWrites).isEmpty)

/-- Pops n entries. -/
def State.popQueue (s : State) (core n : Nat) : State := s.setCore core { s.core core with qn := (s.core core).qn.drop n }

/-- Pushes an entry downstream. -/
def State.pushQueue (s : State) (core : Nat) (v : Wide) : State :=
  match s.downstream core with
  | none => s
  | some d => s.setCore d { s.core d with qn := (s.core d).qn ++ [(v, s.coreCycle core)] }

/-! ### Decisions (R203, R414, R418) -/

/-- What the ports of an instruction decide. -/
inductive PortCheck
  | ok
  | park (w : Wait)
  /-- A precise trap of cause 24: code and DETAIL. -/
  | bad (code : BitVec 8) (detail : BitVec 8)
  deriving DecidableEq, Repr

/-- Whether a source is a result latch that is empty, with a trigger of its unit in flight or not. -/
def Hart.emptyResult (h : Hart) (inFlight : Bool) (p : BitVec 6) : Bool :=
  match unitOfResult p with
  | some u => (h.latch p).st == .empty && (decide (h.inFlight u ≠ 0) == inFlight)
  | none => false

/-- The lowest port code of a list that satisfies a test. -/
def lowestPort (ps : List (BitVec 6)) (f : BitVec 6 → Bool) : Option (BitVec 6) :=
  (ps.filter f).foldl (fun m p => match m with
    | none => some p
    | some q => some (if p.toNat < q.toNat then p else q)) none

/-- The decision on sources read and ports written by a move, and operand latches required, or used where full (R203, R414
items 5 and the parks): LOST, EMPTYSRC and NOQUEUE over all ports, then parking. -/
def State.checkPorts (s : State) (h : HartRef) (sources dests required optional : List (BitVec 6)) : PortCheck :=
  let v := s.hart h
  let pops := (sources.filter (· == 0x2A)).length
  let pushes := (dests.filter (· == 0x2B)).length
  match lowestPort (sources ++ required ++ optional) (fun p => (v.latch p).st == .lost) with
  | some p => .bad 0x07 (p.zeroExtend 8)
  | none =>
    match lowestPort (sources.filter (v.emptyResult false) ++ required) (fun p => (v.latch p).st == .empty) with
    | some p => .bad 0x08 (p.zeroExtend 8)
    | none =>
      if (pops ≠ 0 ∧ !s.hasUpstream h.core) ∨ (pushes ≠ 0 ∧ (s.downstream h.core).isNone) then .bad 0x09 0
      else match sources.find? (v.emptyResult true) with
        | some p => .park (.latch p)
        | none =>
          if s.poppable h.core < pops then .park (.pop pops)
          else if pushes ≠ 0 ∧ !s.pushable h pushes then .park (.push pushes)
          else .ok

/-- The issuing hart takes a cause-24 trap (R361, R362). -/
def State.trapCode (s : State) (code : BitVec 8) (detail : BitVec 8) : State := s.trap 24 (faultWord code detail s.insn)

/-- Carries out a port decision that is not to perform. -/
def State.decided (s : State) (c : PortCheck) (perform : State) : State :=
  match c with
  | .ok => perform
  | .park w => s.park w
  | .bad code detail => s.trapCode code detail

end Sys2Proof.Machine
end

