-- ==== Sys2Proof/Machine/Translate.lean ====
section
/-! DEFINITION. Virtual memory: the page walk, its faults, the placing of bytes, and the TLB of a translation agent
(R80 to R84, R390). -/

namespace Sys2Proof.Machine

/-- Bits from `lo` of a number. -/
def bits (v lo len : Nat) : Nat := v / 2 ^ lo % 2 ^ len

/-- Codes of R360 that memory reports. -/
def cNotMapped : BitVec 8 := 0x40
def cNoRead : BitVec 8 := 0x41
def cNoWrite : BitVec 8 := 0x42
def cNoExec : BitVec 8 := 0x43
def cNoUser : BitVec 8 := 0x44
def cBadPte : BitVec 8 := 0x45
def cUnbacked : BitVec 8 := 0x33
def cHomeSoft : BitVec 8 := 0x35
def cUnbound : BitVec 8 := 0x36

/-- Whether a byte lies in a poisoned word (R377). -/
def State.poisoned (s : State) (key : Nat) : Bool := s.poison.contains (key / 8 * 8)

/-- Whether any byte of a list of keys is poisoned. -/
def State.anyPoisoned (s : State) (keys : List Nat) : Bool := keys.any s.poisoned

/-- The unit of protection of a key, as its 8-byte words: 8 bytes in scratchpad and window, 32 bytes in HBM (R377). -/
def protectedWords (key : Nat) : List Nat :=
  if key < 2 ^ 44 then (List.range 4).map (fun i => key / 32 * 32 + 8 * i) else [key / 8 * 8]

/-- The protection unit of a key becomes poisoned (R377). -/
def State.addPoison (s : State) (key : Nat) : State :=
  { s with poison := s.poison ++ (protectedWords key).filter fun k => !s.poison.contains k }

/-- Reads bytes by their keys. -/
def State.readKeys (s : State) (keys : List Nat) : List Byte := keys.map (Memory.read s.mem)

/-- Writes bytes at keys. -/
def Memory.writeKeys (m : List Host.Cell) : List (Nat × Byte) → List Host.Cell
  | [] => m
  | (k, b) :: r => Memory.writeKeys (Memory.write m k b) r

/-- Reservations on a granule that a write reaches are lost (R160). -/
def State.breakReservations (s : State) (keys : List Nat) : State :=
  { s with
    cores := s.cores.map fun (c, v) =>
      (c, v.mapHarts fun h =>
        match h.resv with
        | some r => if keys.any (fun k => k / 8 * 8 == r.key) then { h with resv := none } else h
        | none => h)
    foreignResv := s.foreignResv.filter fun f => !keys.any (fun k => k / 8 * 8 == f.2.2.2) }

/-- Writes bytes at keys: poison of a wholly written protected unit goes, and reservations on the bytes are lost. -/
def State.writeKeys (s : State) (cells : List (Nat × Byte)) : State :=
  let keys := cells.map (·.1)
  let poison := s.poison.filter fun w =>
    !(protectedWords w).all (fun u => (List.range 8).all (fun i => keys.contains (u + i)))
  let s := { s with mem := Memory.writeKeys s.mem cells, poison := poison }
  if s.foreignResv.isEmpty.not || s.cores.any (fun c => c.2.harts.toList.any (fun h => h.resv.isSome)) then s.breakReservations keys else s

/-- Writes consecutive bytes from a key. -/
def State.writeAt (s : State) (key : Nat) (b : List Byte) : State :=
  s.writeKeys (b.zipIdx.map fun (x, i) => (key + i, x))

/-! ### The walk -/

/-- The valid context root table entry of an ASID, lowest first (R80). -/
def rootFor (roots : List (Nat × Root)) (asid : BitVec 16) : Option Root :=
  match roots with
  | [] => none
  | (_, r) :: rest => if r.valid && r.asid == asid then some r else rootFor rest asid

/-- What a walk finds (R81, R82, R390). -/
inductive Walk
  | fault (code : BitVec 8)
  /-- An uncorrectable error in a table (R390). -/
  | soft
  | leaf (entry : Nat) (key : Nat) (large : Bool)
  /-- A level-1 entry of KIND 0 or 1 whose HOME is another die, or that was only to be found: its HOME. -/
  | home (die : DieId)
  | remote (device : Nat) (die : DieId)
  deriving DecidableEq, Repr

/-- Index of a virtual address at a level, and the key of the entry in a table (R81). -/
def tableIndex (level va : Nat) : Nat :=
  match level with
  | 0 => bits va 16 5
  | 1 => bits va 21 12
  | 2 => bits va 33 12
  | _ => bits va 45 12

/-- Whether an entry is used at a level (R82, R390, R2): its KIND is one that the level permits, IL and CP are not
reserved, a 2 MiB frame is aligned, and on a device of one die no field names another. -/
def entryOk (dies level e : Nat) : Bool :=
  let kind := bits e 8 2
  let isLeaf := kind == 1
  (match level with
   | 0 => kind == 1
   | 1 => kind != 3
   | _ => kind == 0)
  && bits e 10 2 != 3 && bits e 12 2 != 3
  && (level != 1 || !isLeaf || bits e 64 5 == 0)
  && (dies != 1 || (bits e 19 2 == 0 && (kind != 0 || bits e (64 + 37) 2 == 0) && (!isLeaf || bits e 10 2 == 0)))

/-- The entry at a level of the table at an offset of a die's HBM, or why the walk ends there (R390). -/
def walkEntry (s : State) (va tdie taddr level : Nat) : Walk ⊕ (Nat × Nat) :=
  let key := hbmKey tdie (taddr + 16 * tableIndex level va)
  let e := leNat (Memory.readBytes s.mem key 16)
  if (s.die (Fin.ofNat 4 tdie)).stopped then .inl (.fault cUnbacked)
  else if s.poisoned key || s.poisoned (key + 8) then .inl .soft
  else if e % 2 = 0 then .inl (.fault cNotMapped)
  else if !entryOk s.dieCount level e then .inl (.fault cBadPte)
  else .inr (e, key)

/-- The walk from a table at a level on (R81, R390). `at_` is the die whose agent walks and, when `stop`, the walk ends at
level 1 with the owner (R85). `home1` is the HOME of the level-1 entry. -/
def walkFrom (s : State) (at_ : DieId) (stop : Bool) (va : Nat) (tdie taddr home1 : Nat) : Nat → Walk
  | 0 =>
    match walkEntry s va tdie taddr 0 with
    | .inl w => w
    | .inr (e, key) => if bits e 19 2 ≠ home1 then .fault cBadPte else .leaf e key false
  | n + 1 =>
    match walkEntry s va tdie taddr (n + 1) with
    | .inl w => w
    | .inr (e, key) =>
      let home := bits e 19 2
      if n ≠ 0 then walkFrom s at_ stop va (bits e (64 + 37) 2) (bits e 64 37) home n
      else if bits e 8 2 = 2 then .remote (bits e 64 13) (Fin.ofNat 4 (bits e 77 2))
      else if stop ∨ home ≠ at_.val then .home (Fin.ofNat 4 home)
      else if bits e 8 2 = 1 then .leaf e key true
      else walkFrom s at_ stop va (bits e (64 + 37) 2) (bits e 64 37) home n

/-- The walk of a die's agent for an address space (R81, R84, R85). -/
def State.walk (s : State) (at_ : DieId) (stop : Bool) (asid : BitVec 16) (va : Nat) : Walk :=
  match rootFor (s.die at_).roots asid with
  | none => .fault cNotMapped
  | some r => walkFrom s at_ stop va r.tdie.toNat r.taddr.toNat 0 3

/-- What an access needs of a leaf. -/
structure Need where
  user : Bool
  rd : Bool
  wr : Bool
  ex : Bool
  deriving DecidableEq, Repr

/-- The permission checks at a leaf, in the order of R390. -/
def leafFault (e : Nat) (n : Need) : Option (BitVec 8) :=
  if n.user && bits e 4 1 == 0 then some cNoUser
  else if n.rd && bits e 1 1 == 0 then some cNoRead
  else if n.wr && bits e 2 1 == 0 then some cNoWrite
  else if n.ex && bits e 3 1 == 0 then some cNoExec
  else none

/-- The leaf with A, and D for a write, and at a first touch CHAN and CP (R82, R83). `row` is the die-local cluster row of
the requester. DEDUCED (log 31). -/
def touchLeaf (e : Nat) (write : Bool) (row : Nat) : Nat :=
  let e := if bits e 5 1 = 1 then e else e + 2 ^ 5
  let e := if !write || bits e 6 1 = 1 then e else e + 2 ^ 6
  if bits e 12 2 = 2 then
    let chan := 16 * (if row < 4 then 0 else 1) + bits e 64 21 % 16
    e - 2 * 2 ^ 12 + 2 ^ 12 - bits e 14 5 * 2 ^ 14 + chan * 2 ^ 14
  else e

/-- Offset within the page of a leaf. -/
def pageOffset (large : Bool) (va : Nat) : Nat := if large then va % 2 ^ 21 else va % 2 ^ 16

/-- Die and die-local byte offset of a byte of a leaf (R83). -/
def leafPlace (e : Nat) (large : Bool) (va : Nat) : Nat × Nat :=
  let off := pageOffset large va
  let p := bits e 64 21 * 65536 + off
  let home := bits e 19 2
  let b := off / 4096
  let die := match bits e 10 2 with
    | 0 => home
    | 1 => if b % 2 = 0 then home else home ^^^ 1
    | _ => (home + b) % 4
  (die, p)

/-- Pseudo-channel of a byte (R83). -/
def channelOf (e p : Nat) : Nat :=
  if bits e 12 2 = 1 then bits e 14 5
  else bits p 8 5 ^^^ bits p 13 5 ^^^ bits p 18 5 ^^^ bits p 23 5 ^^^ bits p 28 5

/-- Whether the stack of a byte is attached (R2, R83, R320) and its die goes on (R407): stack 2 · die is the northern one. -/
def State.stackAttached (s : State) (die chan : Nat) : Bool :=
  s.stackMask.getLsbD (2 * die + chan / 16) && !(s.die (Fin.ofNat 4 die)).stopped

/-- Keys of n bytes of a leaf, or none where one lies on a stack that is not attached. -/
def State.leafKeys (s : State) (e : Nat) (large : Bool) (va n : Nat) : Option (List Nat) :=
  let places := (List.range n).map fun i => leafPlace e large (va + i)
  if places.all (fun (d, p) => s.stackAttached d (channelOf e p)) then some (places.map fun (d, p) => hbmKey d p)
  else none

/-! ### The TLB (R84) -/

/-- Entries of a die's TLB. -/
def tlbSize : Nat := 4096

/-- The TLB entry that translates an address, as a leaf entry and its page size. A global entry serves every ASID. -/
def tlbLookup (tlb : List TlbEntry) (asid : BitVec 16) (va : Nat) : Option (Nat × Bool) :=
  match tlb with
  | [] => none
  | t :: r =>
    if (t.asid == asid || bits t.entry.toNat 7 1 == 1) && t.page == (if t.large then va / 2 ^ 21 else va / 2 ^ 16)
    then some (t.entry.toNat, t.large) else tlbLookup r asid va

/-- Puts a translation into a TLB, the oldest leaving a full one (log 18). -/
def tlbInsert (tlb : List TlbEntry) (asid : BitVec 16) (va e : Nat) (large : Bool) : List TlbEntry :=
  let page := if large then va / 2 ^ 21 else va / 2 ^ 16
  (⟨asid, page, large, BitVec.ofNat 128 e⟩ :: tlb.filter (fun t => !(t.asid == asid && t.page == page && t.large == large))).take
    tlbSize

/-- Drops the translations of a region from a TLB: its owner has changed (R88, R90). -/
def tlbDropRegion (tlb : List TlbEntry) (asid : BitVec 16) (region : Nat) : List TlbEntry :=
  tlb.filter fun t => !(t.asid == asid && (if t.large then t.page else t.page / 32) == region)

/-- Region number VA[56:21] of an address (R85). -/
def regionOf (va : Nat) : BitVec 36 := BitVec.ofNat 36 (va / 2 ^ 21)

/-- The stub that a die holds for a region, with its index (R86). -/
def stubFor (stubs : List (Nat × Stub)) (asid : BitVec 16) (region : BitVec 36) : Option (Nat × Stub) :=
  match stubs with
  | [] => none
  | (i, t) :: r => if t.st != .free && !t.ctx && t.asid == asid && t.region == region then some (i, t) else stubFor r asid region

/-- Die-local cluster row of a core (R84: cluster 45 is column 5, row 4). -/
def clusterRow (core : Nat) : Nat := clusterOf core / 10

/-- What an agent answers for an access. -/
inductive Xlate
  | fault (code : BitVec 8)
  /-- The keys of the bytes. -/
  | keys (k : List Nat)
  /-- The owner is elsewhere: another device, or another die of this one. -/
  | away (device : Nat) (die : DieId)
  deriving DecidableEq, Repr

/-- The leaf of an address at a die's agent: from the TLB where it serves the access, else by a walk that marks the leaf
and enters the TLB (R84, R390). -/
def State.agentLeaf (s : State) (at_ : DieId) (asid : BitVec 16) (va : Nat) (n : Need) (row : Nat) :
    State × (Xlate ⊕ (Nat × Bool)) :=
  let walked : State × (Xlate ⊕ (Nat × Bool)) :=
    match s.walk at_ false asid va with
    | .fault c => (s, .inl (.fault c))
    | .soft => (s, .inl (.fault cHomeSoft))
    | .home d => (s, .inl (.away s.device.toNat d))
    | .remote dev d => (s, .inl (.away dev d))
    | .leaf e key large =>
      match leafFault e n with
      | some c => (s, .inl (.fault c))
      | none =>
        let e' := touchLeaf e n.wr row
        let s := if e' = e then s else s.writeAt key (leBytes e' 16)
        let d := s.die at_
        (s.setDie at_ { d with tlb := tlbInsert d.tlb asid va e' large }, .inr (e', large))
  match (if (rootFor (s.die at_).roots asid).isNone then none else tlbLookup (s.die at_).tlb asid va) with
  | some (e, large) =>
    match leafFault e n with
    | some c => (s, .inl (.fault c))
    | none => if n.wr && bits e 6 1 == 0 then walked else (s, .inr (e, large))
  | none => walked

/-- Translation of n bytes at a die's agent. -/
def State.agentTranslate (s : State) (at_ : DieId) (asid : BitVec 16) (va n : Nat) (need : Need) (row : Nat) :
    State × Xlate :=
  match s.agentLeaf at_ asid va need row with
  | (s, .inl x) => (s, x)
  | (s, .inr (e, large)) =>
    match s.leafKeys e large va n with
    | some k => (s, .keys k)
    | none => (s, .fault cUnbacked)

/-- Translation of n bytes of one page by whichever agent of the device is the home, one redirect followed (R392).
Another device that owns the region is named. -/
def State.translateAt (s : State) (die : DieId) (asid : BitVec 16) (va n : Nat) (need : Need) (row : Nat) : State × Xlate :=
  match s.agentTranslate die asid va n need row with
  | (s, .away dev d) => if dev = s.device.toNat then s.agentTranslate d asid va n need row else (s, .away dev d)
  | r => r

/-- Translation of n bytes of one page, starting from a die's own agent, which finds the owner (R85). -/
def State.translate (s : State) (at_ : DieId) (asid : BitVec 16) (va n : Nat) (need : Need) (row : Nat) : State × Xlate :=
  match s.walk at_ true asid va with
  | .fault c => (s, .fault c)
  | .soft => (s, .fault cHomeSoft)
  | .remote dev d => if dev = s.device.toNat then s.translateAt d asid va n need row else (s, .away dev d)
  | .home d => s.translateAt d asid va n need row
  | .leaf _ _ _ => s.translateAt at_ asid va n need row

end Sys2Proof.Machine
end

