-- ==== Sys2Proof/Machine/Formats.lean ====
section
/-! DEFINITION. The floating-point formats (R94, R95): what bits denote, and the NaN of a result. -/

namespace Sys2Proof.Machine

/-- A floating-point format with a sign: exponent and mantissa widths, the largest finite magnitude code, and
whether the codes above it are infinities and NaNs of IEEE 754, one NaN (E4M3), or absent (E2M1) (R94). -/
structure Fmt where
  ebits : Nat
  mbits : Nat
  maxCode : Nat
  hasInf : Bool
  hasNan : Bool
  deriving DecidableEq, Repr

def fp64 : Fmt := ⟨11, 52, 0x7FEFFFFFFFFFFFFF, true, true⟩
def fp32 : Fmt := ⟨8, 23, 0x7F7FFFFF, true, true⟩
def fp16 : Fmt := ⟨5, 10, 0x7BFF, true, true⟩
def bf16 : Fmt := ⟨8, 7, 0x7F7F, true, true⟩
def e4m3 : Fmt := ⟨4, 3, 0x7E, false, true⟩
def e5m2 : Fmt := ⟨5, 2, 0x7B, true, true⟩
def e2m1 : Fmt := ⟨2, 1, 0x7, false, false⟩

/-- Exponent bias (R94). -/
def Fmt.bias (f : Fmt) : Nat := 2 ^ (f.ebits - 1) - 1

/-- Exponent of the last place of subnormals: 1 − bias − mantissa width (R94). -/
def Fmt.qmin (f : Fmt) : Int := 1 - (f.bias : Int) - f.mbits

/-- Width of the magnitude. -/
def Fmt.mag (f : Fmt) : Nat := f.ebits + f.mbits

/-- What a code denotes. A finite value is (−1)^neg · m · 2^e. The payload of a NaN is its mantissa at the high end of
52 bits, so that the quiet bit is bit 51. -/
inductive Val
  | nan (neg : Bool) (payload : Nat)
  | inf (neg : Bool)
  | fin (neg : Bool) (m : Nat) (e : Int)
  deriving DecidableEq, Repr

/-- The value of a code (R94). An E4M3 NaN is quiet and has no payload. -/
def unpack (f : Fmt) (b : Nat) : Val :=
  let neg := b / 2 ^ f.mag % 2 == 1
  let c := b % 2 ^ f.mag
  let m := c % 2 ^ f.mbits
  let x := c / 2 ^ f.mbits
  if f.maxCode < c then
    if f.hasInf then if m = 0 then .inf neg else .nan neg (m * 2 ^ (52 - f.mbits))
    else .nan neg (2 ^ 51)
  else if x = 0 then .fin neg m f.qmin
  else .fin neg (2 ^ f.mbits + m) (f.qmin + (x - 1 : Nat))

/-- The code of a sign and a magnitude code. -/
def signed (f : Fmt) (neg : Bool) (c : Nat) : Nat := (if neg then 2 ^ f.mag else 0) + c

/-- Infinity of a format that has one. -/
def infCode (f : Fmt) (neg : Bool) : Nat := signed f neg (f.maxCode + 1)

/-- The canonical NaN (R95). -/
def canonicalNan (f : Fmt) : Nat :=
  if f.hasInf then f.maxCode + 1 + 2 ^ (f.mbits - 1) else 2 ^ f.mag - 1

/-- Whether a value is a NaN, a signalling NaN, an infinity, a zero. -/
def Val.isNan : Val → Bool
  | .nan _ _ => true
  | _ => false
def Val.isSignalling : Val → Bool
  | .nan _ p => p / 2 ^ 51 % 2 == 0
  | _ => false
def Val.isInf : Val → Bool
  | .inf _ => true
  | _ => false
def Val.isZero : Val → Bool
  | .fin _ m _ => m == 0
  | _ => false
def Val.neg : Val → Bool
  | .nan n _ => n
  | .inf n => n
  | .fin n _ _ => n

/-- The same value with the opposite sign. -/
def Val.negate : Val → Val
  | .nan n p => .nan (!n) p
  | .inf n => .inf (!n)
  | .fin n m e => .fin (!n) m e

/-- The NaN that a result takes (R95): canonical, or under NANPAY the sign and payload of the first NaN input with the
quiet bit set, where the format holds a payload. DEDUCED (log 32). -/
def nanCode (f : Fmt) (nanpay : Bool) (inputs : List Val) : Nat :=
  match nanpay && f.hasInf, inputs.find? Val.isNan with
  | true, some (.nan n p) =>
    signed f n (f.maxCode + 1 + 2 ^ (f.mbits - 1) + p % 2 ^ 51 / 2 ^ (52 - f.mbits))
  | _, _ => canonicalNan f

/-- Value of an E8M0 scale byte: none for the NaN code (R94). -/
def e8m0 (b : Nat) : Option Int := if b = 255 then none else some ((b : Int) - 127)

/-- Value of an E3M5 scale byte as m · 2^e: none for the NaN code (R94). -/
def e3m5 (b : Nat) : Option (Nat × Int) :=
  if b = 255 then none
  else if b / 32 = 0 then some (b % 32, -7)
  else some (32 + b % 32, (b / 32 : Nat) - 8)

/-! ### Exact arithmetic on finite values -/

/-- m · 2^e as an integer multiple of 2^q, for q ≤ e. -/
def scaleTo (neg : Bool) (m : Nat) (e q : Int) : Int :=
  let v : Int := m * 2 ^ (e - q).toNat
  if neg then -v else v

/-- Exact sum of two finite values, as a signed integer and an exponent. -/
def exactAdd (n₁ : Bool) (m₁ : Nat) (e₁ : Int) (n₂ : Bool) (m₂ : Nat) (e₂ : Int) : Int × Int :=
  let q := min e₁ e₂
  (scaleTo n₁ m₁ e₁ q + scaleTo n₂ m₂ e₂ q, q)

/-- Comparison of two values neither of which is a NaN, as −1, 0 or 1; zeros are equal. -/
def compareVal (a b : Val) : Int :=
  match a, b with
  | .inf n, .inf n' => if n = n' then 0 else if n then -1 else 1
  | .inf n, _ => if n then -1 else 1
  | _, .inf n => if n then 1 else -1
  | .fin n m e, .fin n' m' e' => (exactAdd n m e (!n') m' e').1.sign
  | _, _ => 0

end Sys2Proof.Machine
end

