-- ==== Sys2Proof/Machine/Flags.lean ====
section
/-! DEFINITION. Rounding and the flags of xvfcsr (R96 to R98), the floating-point operations that every unit uses, and
the transcendental functions (R112). -/

namespace Sys2Proof.Machine

/-- Rounding modes (R96). -/
inductive Rm | rne | rtz | rdn | rup | rmm
  deriving DecidableEq, Repr

/-- The rounding mode of xvfcsr.RM. -/
def Rm.ofCode (c : BitVec 3) : Rm :=
  match c with
  | 1#3 => .rtz
  | 2#3 => .rdn
  | 3#3 => .rup
  | 4#3 => .rmm
  | _ => .rne

/-- Flag bits of xvfcsr: NX 0, UF 1, OF 2, DZ 3, NV 4 (R96). -/
abbrev FFlags := BitVec 5
def flNX : FFlags := 1
def flUF : FFlags := 2
def flOF : FFlags := 4
def flDZ : FFlags := 8
def flNV : FFlags := 16

/-- A magnitude n / 2^k rounded to an integer in a mode, and whether that is inexact. -/
def roundShift (rm : Rm) (neg : Bool) (n k : Nat) : Nat × Bool :=
  let q := n / 2 ^ k
  let r := n % 2 ^ k
  let up := match rm with
    | .rne => 2 ^ k < 2 * r || (2 ^ k == 2 * r && r != 0 && q % 2 == 1)
    | .rmm => r != 0 && 2 ^ k ≤ 2 * r
    | .rtz => false
    | .rdn => neg && r != 0
    | .rup => !neg && r != 0
  (if up then q + 1 else q, r != 0)

/-- The magnitude code of m · 2^e rounded to a format whose last place is no finer than 2^qmin, before overflow is
looked at, and whether it is inexact. -/
def roundMag (f : Fmt) (qmin : Int) (rm : Rm) (neg : Bool) (m : Nat) (e : Int) : Nat × Bool :=
  let q := max ((Nat.log2 m : Int) + e - f.mbits) qmin
  let (r, x) := if q ≤ e then (m * 2 ^ (e - q).toNat, false) else roundShift rm neg m (q - e).toNat
  ((q - qmin).toNat * 2 ^ f.mbits + r, x)

/-- Whether an overflow rounds to an infinity (R96). -/
def overflowsToInf (rm : Rm) (neg : Bool) : Bool :=
  match rm with
  | .rne | .rmm => true
  | .rtz => false
  | .rdn => neg
  | .rup => !neg

/-- m · 2^e with a sign, rounded to a format that has infinities, with its flags (R96): tininess is detected after
rounding, and raises UF only when the result is inexact. -/
def roundFin (f : Fmt) (rm : Rm) (neg : Bool) (m : Nat) (e : Int) : Nat × FFlags :=
  if m = 0 then (signed f neg 0, 0)
  else
    let (c, x) := roundMag f f.qmin rm neg m e
    if f.maxCode < c then
      (if overflowsToInf rm neg then infCode f neg else signed f neg f.maxCode, flOF ||| flNX)
    else
      -- Rounded as if the exponent had no lower bound.
      let deep := f.qmin - 4096
      let tiny := (roundMag f deep rm neg m e).1 < 4097 * 2 ^ f.mbits
      (signed f neg c, if x then (if tiny then flNX ||| flUF else flNX) else 0)

/-- Sign of an exact zero sum (IEEE 754): minus only in RDN. -/
def zeroSign (rm : Rm) : Bool := rm == .rdn

/-- A signed integer multiple of 2^e, rounded. -/
def roundInt (f : Fmt) (rm : Rm) (v : Int) (e : Int) : Nat × FFlags :=
  if v = 0 then (signed f (zeroSign rm) 0, 0) else roundFin f rm (decide (v < 0)) v.natAbs e

/-- NV where an input is a signalling NaN (R96). -/
def snanFlag (inputs : List Val) : FFlags := if inputs.any Val.isSignalling then flNV else 0

/-- A NaN result whose inputs include a NaN. -/
def nanResult (f : Fmt) (pay : Bool) (inputs : List Val) : Nat × FFlags := (nanCode f pay inputs, snanFlag inputs)

/-- A NaN result none of whose inputs is a NaN: canonical, and NV. -/
def invalid (f : Fmt) : Nat × FFlags := (canonicalNan f, flNV)

/-- Any value rounded to a format: conversions between formats. -/
def convert (f : Fmt) (rm : Rm) (pay : Bool) (v : Val) : Nat × FFlags :=
  match v with
  | .nan _ _ => nanResult f pay [v]
  | .inf n => (infCode f n, 0)
  | .fin n m e => roundFin f rm n m e

/-- Product of two values, exact. The product of a zero and an infinity is none. -/
def exactMul (a b : Val) : Option Val :=
  match a, b with
  | .inf n, .inf n' => some (.inf (n != n'))
  | .inf n, .fin n' m _ => if m = 0 then none else some (.inf (n != n'))
  | .fin n m _, .inf n' => if m = 0 then none else some (.inf (n != n'))
  | .fin n m e, .fin n' m' e' => some (.fin (n != n') (m * m') (e + e'))
  | a, _ => some a

/-- Sum of two values neither of which is a NaN. -/
def addRounded (f : Fmt) (rm : Rm) (a b : Val) : Nat × FFlags :=
  match a, b with
  | .inf n, .inf n' => if n = n' then (infCode f n, 0) else invalid f
  | .inf n, _ => (infCode f n, 0)
  | _, .inf n => (infCode f n, 0)
  | .fin n m e, .fin n' m' e' =>
    let (v, q) := exactAdd n m e n' m' e'
    if v = 0 ∧ n = n' then (signed f n 0, 0) else roundInt f rm v q
  | _, _ => invalid f

/-- Addition (R96, R212). -/
def fAdd (f : Fmt) (rm : Rm) (pay : Bool) (a b : Val) : Nat × FFlags :=
  if a.isNan || b.isNan then nanResult f pay [a, b] else addRounded f rm a b

/-- Subtraction (R96, R212): a NaN keeps its own sign. -/
def fSub (f : Fmt) (rm : Rm) (pay : Bool) (a b : Val) : Nat × FFlags :=
  if a.isNan || b.isNan then nanResult f pay [a, b] else addRounded f rm a b.negate

/-- Multiplication (R96, R212). -/
def fMul (f : Fmt) (rm : Rm) (pay : Bool) (a b : Val) : Nat × FFlags :=
  if a.isNan || b.isNan then nanResult f pay [a, b]
  else match exactMul a b with
    | none => invalid f
    | some (.fin n m e) => roundFin f rm n m e
    | some v => convert f rm pay v

/-- x · y + z with one rounding (R110, R212). -/
def fFma (f : Fmt) (rm : Rm) (pay : Bool) (x y z : Val) : Nat × FFlags :=
  if x.isNan || y.isNan || z.isNan then
    -- Whether 0 × ∞ is invalid beside a quiet NaN is open (log 14).
    let (c, fl) := nanResult f pay [x, y, z]
    (c, if !x.isNan && !y.isNan && (exactMul x y).isNone && Config.fmaQuietNanSignals then fl ||| flNV else fl)
  else match exactMul x y with
    | none => invalid f
    | some p => addRounded f rm p z

/-- −(x · y) + z with one rounding (R212): a NaN keeps its own sign. -/
def fFnma (f : Fmt) (rm : Rm) (pay : Bool) (x y z : Val) : Nat × FFlags :=
  if x.isNan || y.isNan || z.isNan then fFma f rm pay x y z else fFma f rm pay x.negate y z

/-- The magnitude of x with the sign of y, exact; a NaN x gives the canonical NaN (R212). DEDUCED (log 33). -/
def fSgnj (f : Fmt) (cx cy : Nat) : Nat × FFlags :=
  if (unpack f cx).isNan then (canonicalNan f, 0) else (signed f (cy / 2 ^ f.mag % 2 == 1) (cx % 2 ^ f.mag), 0)

/-- Floating compares (R213): a NaN gives 0, −0 equals +0, and the ordered relations signal any NaN. -/
inductive FCmp | eq | lt | le
  deriving DecidableEq, Repr
def fCompare (c : FCmp) (a b : Val) : Bool × FFlags :=
  if a.isNan || b.isNan then (false, if c = .eq then snanFlag [a, b] else flNV)
  else (match c with
    | .eq => compareVal a b == 0
    | .lt => decide (compareVal a b < 0)
    | .le => decide (compareVal a b ≤ 0), 0)

/-- Whether the first of two values, neither a NaN, orders below the second, with −0 below +0 (R111). -/
def below (a b : Val) : Bool :=
  let c := compareVal a b
  decide (c < 0) || (c == 0 && a.isZero && b.isZero && a.neg && !b.neg)

/-- Maximum and minimum that return NaN for a NaN input and order −0 below +0 (R111). -/
def fMinMax (f : Fmt) (pay : Bool) (isMax : Bool) (ca cb : Nat) : Nat × FFlags :=
  let a := unpack f ca
  let b := unpack f cb
  if a.isNan || b.isNan then nanResult f pay [a, b]
  else if isMax then (if below a b then cb else ca, 0)
  else (if below b a then cb else ca, 0)

/-! ### Conversions between floating point and integers (R98) -/

/-- A value rounded to an integer of n bits, signed: NaN gives 0, out of range gives the limit, both with NV. -/
def toInteger (n : Nat) (rm : Rm) (v : Val) : Nat × FFlags :=
  let lo : Int := -(2 ^ (n - 1))
  let hi : Int := 2 ^ (n - 1) - 1
  let code (i : Int) : Nat := (i % 2 ^ n).toNat
  match v with
  | .nan _ _ => (0, flNV)
  | .inf neg => (code (if neg then lo else hi), flNV)
  | .fin neg m e =>
    let (r, x) := if 0 ≤ e then (m * 2 ^ e.toNat, false) else roundShift rm neg m (-e).toNat
    let i : Int := if neg then -(r : Int) else r
    if i < lo then (code lo, flNV) else if hi < i then (code hi, flNV) else (code i, if x then flNX else 0)

/-- A signed integer rounded to a format. -/
def ofInteger (f : Fmt) (rm : Rm) (i : Int) : Nat × FFlags :=
  if i = 0 then (0, 0) else roundInt f rm i 0

/-! ### Transcendental functions (R112) -/

/-- Fraction bits of the working precision. DEDUCED (log 13). -/
def workBits : Nat := 320

/-- Σ 1 / (k · 2^k) from k on, in units of 2^−workBits: ln 2. -/
def ln2From (fuel k : Nat) : Nat :=
  match fuel with
  | 0 => 0
  | n + 1 => 2 ^ workBits / (k * 2 ^ k) + ln2From n (k + 1)

/-- ln 2 in units of 2^−workBits. -/
def ln2Fixed : Nat := ln2From workBits 1

/-- Σ y^k / k! from the term on, in units of 2^−workBits. -/
def expFrom (fuel k term y : Nat) : Nat :=
  match fuel with
  | 0 => 0
  | n + 1 => term + expFrom n (k + 1) (term * y / 2 ^ workBits / (k + 1)) y

/-- 2^x for a fraction x of fixed point with 0 ≤ x < 1, in units of 2^−workBits. -/
def exp2Fixed (x : Nat) : Nat := expFrom 80 0 (2 ^ workBits) (x * ln2Fixed / 2 ^ workBits)

/-- Σ z^(2k+1) / (2k+1) from the term on, in units of 2^−workBits. -/
def atanhFrom (fuel k term z2 : Nat) : Nat :=
  match fuel with
  | 0 => 0
  | n + 1 => term / (2 * k + 1) + atanhFrom n (k + 1) (term * z2 / 2 ^ workBits) z2

/-- log2 of m / 2^p with 1 ≤ m / 2^p < 2, in units of 2^−workBits. -/
def log2Fixed (m p : Nat) : Nat :=
  let z := (m - 2 ^ p) * 2 ^ workBits / (m + 2 ^ p)
  2 * atanhFrom 110 0 z (z * z / 2 ^ workBits) * 2 ^ workBits / ln2Fixed

/-- Integer square root by bits, from bit b down. -/
def isqrtFrom (b : Nat) (n r : Nat) : Nat :=
  match b with
  | 0 => r
  | k + 1 => let t := r + 2 ^ k
             isqrtFrom k n (if t * t ≤ n then t else r)

/-- exp2 of an FP32 value, correctly rounded (R112). The irrational result is the working value with one further bit
set, so no rounding sees a tie. -/
def fExp2 (rm : Rm) (pay : Bool) (v : Val) : Nat × FFlags :=
  match v with
  | .nan _ _ => nanResult fp32 pay [v]
  | .inf neg => (if neg then 0 else infCode fp32 false, 0)
  | .fin neg m e =>
    if m = 0 then (0x3F800000, 0)
    else
      let x := scaleTo neg m e (-149)
      if 128 * 2 ^ 149 ≤ x then
        (if overflowsToInf rm false then infCode fp32 false else fp32.maxCode, flOF ||| flNX)
      else if x < -151 * 2 ^ 149 then
        (if rm = .rup then 1 else 0, flUF ||| flNX)
      else
        let n := x / 2 ^ 149
        let fr := (x % 2 ^ 149).toNat
        if fr = 0 then roundFin fp32 rm false 1 n
        else roundFin fp32 rm false (2 * exp2Fixed (fr * 2 ^ (workBits - 149)) + 1) (n - workBits - 1)

/-- log2 of an FP32 value, correctly rounded (R112). -/
def fLog2 (rm : Rm) (pay : Bool) (v : Val) : Nat × FFlags :=
  match v with
  | .nan _ _ => nanResult fp32 pay [v]
  | .inf neg => if neg then invalid fp32 else (infCode fp32 false, 0)
  | .fin neg m e =>
    if m = 0 then (infCode fp32 true, flDZ)
    else if neg then invalid fp32
    else
      let p := Nat.log2 m
      let n := e + p
      if m = 2 ^ p then ofInteger fp32 rm n
      else
        let w := n * 2 ^ workBits + log2Fixed m p
        roundInt fp32 rm (2 * w + 1) (-(workBits : Int) - 1)

/-- Reciprocal of an FP32 value, correctly rounded (R112). -/
def fRcp (rm : Rm) (pay : Bool) (v : Val) : Nat × FFlags :=
  match v with
  | .nan _ _ => nanResult fp32 pay [v]
  | .inf neg => (signed fp32 neg 0, 0)
  | .fin neg m e =>
    if m = 0 then (infCode fp32 neg, flDZ)
    else
      let q := 2 ^ 64 / m
      roundFin fp32 rm neg (2 * q + (if 2 ^ 64 % m = 0 then 0 else 1)) (-e - 65)

/-- Reciprocal square root of an FP32 value, correctly rounded (R112). -/
def fRsqrt (rm : Rm) (pay : Bool) (v : Val) : Nat × FFlags :=
  match v with
  | .nan _ _ => nanResult fp32 pay [v]
  | .inf neg => if neg then invalid fp32 else (0, 0)
  | .fin neg m e =>
    if m = 0 then (infCode fp32 neg, flDZ)
    else if neg then invalid fp32
    else
      let m' := if e % 2 = 0 then m else 2 * m
      let h := e / 2
      let q := isqrtFrom 65 (2 ^ 128 / m') 0
      roundFin fp32 rm false (2 * q + (if q * q * m' = 2 ^ 128 then 0 else 1)) (-h - 65)

end Sys2Proof.Machine
end

