-- ==== Sys2Proof/Machine/Windows.lean ====
section
/-! DEFINITION. Windows: what stored bytes deliver and how delivered values are stored (R68, R99 to R106), and the
events they count (R113). -/

namespace Sys2Proof.Machine

/-- Increments of the fields of NUMEVT (R113). -/
structure Events where
  nangen : Nat
  ovf : Nat
  flush : Nat
  clamp : Nat
  deriving DecidableEq, Repr

def Events.none : Events := ⟨0, 0, 0, 0⟩
def Events.plus (a b : Events) : Events :=
  ⟨a.nangen + b.nangen, a.ovf + b.ovf, a.flush + b.flush, a.clamp + b.clamp⟩
def Events.sum : List Events → Events
  | [] => Events.none
  | e :: r => e.plus (Events.sum r)

/-- A 16-bit counter that saturates (R113). -/
def satAdd16 (v : BitVec 16) (n : Nat) : BitVec 16 := BitVec.ofNat 16 (min 0xFFFF (v.toNat + n))

/-- NUMEVT with increments (R113, R114). -/
def countEvents (w : Word) (e : Events) : Word :=
  satAdd16 (w.extractLsb' 48 16) e.clamp ++ satAdd16 (w.extractLsb' 32 16) e.flush
    ++ satAdd16 (w.extractLsb' 16 16) e.ovf ++ satAdd16 (w.extractLsb' 0 16) e.nangen

/-- Adds events to a core's NUMEVT. DEDUCED (log 29). -/
def Core.countEvents (c : Core) (e : Events) : Core := { c with numevt := Machine.countEvents c.numevt e }

/-- What a window needs of its context: the band scale B as a BF16 code, CVTRND and NANPAY (R103, R116). -/
structure WinCtx where
  band : Nat
  cvtrnd : Bool
  nanpay : Bool
  deriving DecidableEq, Repr

/-- The window-encode mode of W1 to W6 (R97). -/
def WinCtx.rm (c : WinCtx) : Rm := if c.cvtrnd then .rmm else .rne

/-- The context of a hart's access: xbandsc and xcompat (R103, R116). -/
def WinCtx.of (band compat : Word) : WinCtx := ⟨band.toNat % 2 ^ 16, bitOf compat 0, bitOf compat 2⟩

/-- Delivered bytes of an access unit and stored bytes of it (R68). -/
def unitDelivered (win : Nat) : Nat :=
  match win with
  | 3 | 4 => 64
  | 5 => 128
  | 0 => 1
  | _ => 4
def unitStored (win : Nat) : Nat :=
  match win with
  | 3 | 4 => 33
  | 5 => 40
  | 6 => 1
  | 0 => 1
  | _ => 2

/-- Splits a list into parts of n, dropping a short rest. -/
def chunks {α : Type} (n : Nat) (fuel : Nat) (l : List α) : List (List α) :=
  match fuel with
  | 0 => []
  | k + 1 => if l.length < n ∨ n = 0 then [] else l.take n :: chunks n k (l.drop n)

/-- A list cut into groups of n. -/
def groups {α : Type} (n : Nat) (l : List α) : List (List α) := chunks n (l.length / n) l

/-! ### Decoding -/

/-- A value that a decode delivers as BF16, rounded once by RNE, and its events given whether an input is a NaN or an
infinity (R99, R102, R113). -/
def deliver (c : WinCtx) (inputs : List Val) (v : Option Val) : Nat × Events :=
  match v with
  | none => (canonicalNan bf16, ⟨if inputs.any Val.isNan then 0 else 1, 0, 0, 0⟩)
  | some v =>
    let r := (convert bf16 .rne c.nanpay v).1
    (r, ⟨0, if (unpack bf16 r).isInf && !inputs.any Val.isInf then 1 else 0, 0, 0⟩)

/-- A block of 33 bytes (R99). -/
def decodeBlock (f : Fmt) (c : WinCtx) (b : List Byte) : List (Nat × Events) :=
  let s := ((b.drop 32).headD 0).toNat
  (b.take 32).map fun x =>
    let v := unpack f x.toNat
    match e8m0 s with
    | none => (canonicalNan bf16, Events.none)
    | some k => match v with
      | .fin n m e => deliver c [v] (some (.fin n m (e + k)))
      | _ => (if v.isNan then nanCode bf16 c.nanpay [v] else infCode bf16 v.neg, Events.none)

/-- The E2M1 codes of a unit in element order (R101). -/
def unitCodes (b : List Byte) : List Nat := (b.take 32).flatMap fun x => [x.toNat % 16, x.toNat / 16]

/-- Element i of a unit of 40 bytes (R102). -/
def decodeElement (c : WinCtx) (code scale : Nat) : Nat × Events :=
  let band := unpack bf16 c.band
  match e3m5 scale with
  | none => (canonicalNan bf16, Events.none)
  | some (sm, se) =>
    match unpack e2m1 code with
    | .fin n m e =>
      let x := Val.fin n (m * sm) (e + se)
      if band.isNan then (nanCode bf16 c.nanpay [band], Events.none) else deliver c [band] (exactMul x band)
    | _ => (canonicalNan bf16, Events.none)

/-- A unit of 40 bytes (R101, R102). -/
def decodeUnit (c : WinCtx) (b : List Byte) : List (Nat × Events) :=
  (unitCodes b).zipIdx.map fun (code, i) => decodeElement c code ((b.drop (32 + i / 8)).headD 0).toNat

/-- An element of W1, W2, W6 or W7 read: its four delivered bytes as a number (R105). -/
def decodeWide (c : WinCtx) (win : Nat) (v : Nat) : Nat :=
  match win with
  | 2 => (convert fp32 .rne c.nanpay (unpack fp16 v)).1
  | 6 => ((BitVec.ofNat 8 v).signExtend 32).toNat
  | _ => v * 2 ^ 16

/-- The bytes that stored bytes of whole access units deliver through a window, and the events (R99 to R105). -/
def windowRead (c : WinCtx) (win : Nat) (b : List Byte) : List Byte × Events :=
  match win with
  | 0 => (b, Events.none)
  | 3 | 4 =>
    let r := (groups 33 b).flatMap (decodeBlock (if win = 3 then e4m3 else e5m2) c)
    (r.flatMap (fun x => leBytes x.1 2), Events.sum (r.map (·.2)))
  | 5 =>
    let r := (groups 40 b).flatMap (decodeUnit c)
    (r.flatMap (fun x => leBytes x.1 2), Events.sum (r.map (·.2)))
  | _ => ((groups (unitStored win) b).flatMap (fun x => leBytes (decodeWide c win (leNat x)) 4), Events.none)

/-! ### Encoding -/

/-- Compares magnitudes n₁ · 2^e₁ and n₂ · 2^e₂: whether the first is below the second. -/
def magLt (n₁ : Nat) (e₁ : Int) (n₂ : Nat) (e₂ : Int) : Bool :=
  let q := min e₁ e₂
  decide (n₁ * 2 ^ (e₁ - q).toNat < n₂ * 2 ^ (e₂ - q).toNat)

/-- ⌊log2⌋ of m · 2^e. -/
def floorLog2 (m : Nat) (e : Int) : Int := (Nat.log2 m : Int) + e

/-- The largest finite magnitude of a list of values, as m · 2^e. -/
def maxMag : List Val → Nat × Int
  | [] => (0, 0)
  | .fin _ m e :: r => let (m', e') := maxMag r
                       if magLt m' e' m e then (m, e) else (m', e')
  | _ :: r => maxMag r

/-- Value of a magnitude code, as m · 2^e. -/
def magOf (f : Fmt) (c : Nat) : Nat × Int :=
  match unpack f c with
  | .fin _ m e => (m, e)
  | _ => (0, 0)

/-- An element rounded to a block format: a magnitude above the largest finite value becomes that value, and counts
CLAMP (R100, R113). DEDUCED (log 30). -/
def encodeElement (f : Fmt) (rm : Rm) (x : Int) (v : Val) : Byte × Nat :=
  match v with
  | .inf n => (BitVec.ofNat 8 (infCode f n), 0)
  | .nan _ _ => (0, 0)
  | .fin n m e =>
    let (mm, me) := magOf f f.maxCode
    if magLt mm me m (e - x) then (BitVec.ofNat 8 (signed f n f.maxCode), 1)
    else (BitVec.ofNat 8 (roundFin f rm n m (e - x)).1, 0)

/-- Events of an encode: results are what the stored elements decode to (R113). DEDUCED (log 86). -/
def encodeEvents (inputNan inputInf : Bool) (results : List Nat) (clamp : Nat) : Events :=
  ⟨if inputNan then 0 else (results.filter (fun r => (unpack bf16 r).isNan)).length,
   if inputInf then 0 else (results.filter (fun r => (unpack bf16 r).isInf)).length, 0, clamp⟩

/-- A block of 32 values (R100). -/
def encodeBlock (f : Fmt) (c : WinCtx) (vs : List Val) : List Byte × Events :=
  let bad := vs.any Val.isNan || (vs.any Val.isInf && !f.hasInf)
  let (b, clamp) :=
    if bad then (List.replicate 32 0#8 ++ [255#8], 0)
    else
      let (m, e) := maxMag vs
      let emax : Int := if f.hasInf then 15 else 8
      let x : Int := if m = 0 then -127 else max (-127) (min 127 (floorLog2 m e - emax))
      let r := vs.map (encodeElement f c.rm x)
      (r.map (·.1) ++ [BitVec.ofInt 8 (x + 127)], (r.map (·.2)).sum)
  let nans := vs.any Val.isNan
  (b, encodeEvents nans (vs.any Val.isInf) ((decodeBlock f c b).map (·.1)) clamp)

/-- Scales a quotient of magnitudes: n₁ · 2^e₁ / (n₂ · 2^e₂) as a fraction of naturals. -/
def fraction (n₁ : Nat) (e₁ : Int) (n₂ : Nat) (e₂ : Int) : Nat × Nat :=
  if e₂ ≤ e₁ then (n₁ * 2 ^ (e₁ - e₂).toNat, n₂) else (n₁, n₂ * 2 ^ (e₂ - e₁).toNat)

/-- The smallest E3M5 code from c on whose value is at least p / q, limited to 0xFE (R104). -/
def scaleAbove (fuel c p q : Nat) : Nat :=
  match fuel with
  | 0 => 0xFE
  | k + 1 =>
    if 0xFE ≤ c then 0xFE
    else match e3m5 c with
      | none => 0xFE
      | some (m, e) => if p * 2 ^ 7 ≤ m * 2 ^ (e + 7).toNat * q then c else scaleAbove k (c + 1) p q

/-- The E2M1 magnitude code nearest to p / q, from the code on; ties to the even code, or away from zero (R104). -/
def nearestE2m1 (away : Bool) (fuel c p q : Nat) : Nat :=
  match fuel with
  | 0 => 7
  | k + 1 =>
    if 7 ≤ c then 7
    else
      -- Twice the midpoint of codes c and c + 1, in units of 1/2.
      let mid := match c with | 0 => 1 | 1 => 3 | 2 => 5 | 3 => 7 | 4 => 10 | 5 => 14 | _ => 20
      if 4 * p < mid * q then c
      else if 4 * p = mid * q then (if away || c % 2 == 1 then c + 1 else c)
      else nearestE2m1 away k (c + 1) p q

/-- Eight values of a unit over a finite nonzero band scale bm · 2^be of a sign: their codes, their scale and how many
were limited to 6 (R104). -/
def encodeEight (rm : Rm) (bneg : Bool) (bm : Nat) (be : Int) (vs : List Val) : List Nat × Nat × Nat :=
  if vs.any Val.isNan || vs.any Val.isInf then (List.replicate vs.length 0, 255, 0)
  else
    let (m, e) := maxMag vs
    let (p, q) := fraction m e bm be
    let s := if m = 0 then 0 else scaleAbove 256 0 p (6 * q)
    match e3m5 s with
    | none => (List.replicate vs.length 0, 255, 0)
    | some (sm, se) =>
      let r := vs.map fun v => match v with
        | .fin n m e =>
          let sign := if n != bneg then 8 else 0
          if sm = 0 then (sign, 0)
          else
            let (p, q) := fraction m e (bm * sm) (be + se)
            (sign + nearestE2m1 (decide (rm = Rm.rmm)) 8 0 p q, if 6 * q < p then 1 else 0)
        | _ => (0, 0)
      (r.map (·.1), s, (r.map (·.2)).sum)

/-- Pairs of codes as bytes (R101). -/
def packCodes : List Nat → List Byte
  | a :: b :: r => BitVec.ofNat 8 (a + 16 * b) :: packCodes r
  | _ => []

/-- The codes as bytes and the scales of values in blocks of eight: a unit of 64, or half of one (R104, R221). -/
def encodeUnit (c : WinCtx) (vs : List Val) : List Byte × Events :=
  let n := vs.length
  let lost : List Byte := List.replicate (n / 2) 0#8 ++ List.replicate (n / 8) 255#8
  let nans := vs.any Val.isNan
  let infs := vs.any Val.isInf
  match unpack bf16 c.band with
  | .fin bneg bm be =>
    if bm = 0 then (lost, ⟨if nans then 0 else n, 0, 0, 0⟩)
    else
      let blocks := groups 8 vs
      let r := blocks.map (encodeEight c.rm bneg bm be)
      let b := packCodes (r.flatMap (·.1)) ++ r.map (fun x => BitVec.ofNat 8 x.2.1)
      (b, Events.sum (r.map fun x =>
        encodeEvents nans infs (x.1.map fun code => (decodeElement c code x.2.1).1) x.2.2))
  | band => (lost, ⟨if band.isNan || nans then 0 else n, 0, 0, 0⟩)

/-- An element of W1, W2, W6 or W7 written, from its four delivered bytes: stored value and events (R105, R113). -/
def encodeWide (c : WinCtx) (win : Nat) (v : Nat) : Nat × Events :=
  match win with
  | 6 =>
    let i := (BitVec.ofNat 32 v).toInt
    let j := max (-128) (min 127 i)
    ((j % 256).toNat, ⟨0, 0, 0, if i = j then 0 else 1⟩)
  | _ =>
    let x := unpack fp32 v
    let f := if win = 2 then fp16 else bf16
    let r := (convert f (if win = 7 then .rne else c.rm) c.nanpay x).1
    let beyond := (unpack f r).isInf && !x.isInf
    if win = 7 then if beyond then (signed bf16 x.neg 0x7F7F, ⟨0, 0, 0, 1⟩) else (r, Events.none)
    else (r, ⟨0, if beyond then 1 else 0, 0, 0⟩)

/-- The bytes that delivered bytes of whole access units store through a window, and the events. A write through W3 to
W5 takes values of a format: BF16 from a 64-byte write, FP32 from an accumulator (R100, R104, R105, R106). -/
def windowWrite (c : WinCtx) (win : Nat) (f : Fmt) (b : List Byte) : List Byte × Events :=
  let vals := (groups ((f.mag + 1) / 8) b).map (fun x => unpack f (leNat x))
  match win with
  | 0 => (b, Events.none)
  | 3 | 4 =>
    let r := (groups 32 vals).map (encodeBlock (if win = 3 then e4m3 else e5m2) c)
    (r.flatMap (·.1), Events.sum (r.map (·.2)))
  | 5 =>
    let r := (groups 64 vals).map (encodeUnit c)
    (r.flatMap (·.1), Events.sum (r.map (·.2)))
  | _ =>
    let r := (groups 4 b).map (fun x => encodeWide c win (leNat x))
    (r.flatMap (fun x => leBytes x.1 (unitStored win)), Events.sum (r.map (·.2)))

end Sys2Proof.Machine
end

