-- ==== Sys2Proof/Machine/Transport.lean ====
section
/-! DEFINITION. Requests: what orders them at issue (R120 to R128, R135, R136), where they go (R85, R311), how they
perform at their home (R117, R118, R177), and how they complete or are settled (R120, R231, R366). -/

namespace Sys2Proof.Machine

/-! ### Fault records -/

/-- Word 0 of a record but VALID and TAKEN (R371). -/
def recordWord0 (code : BitVec 8) (source : Nat) (seq : BitVec 8) (unit : Nat) (func : BitVec 8) (ctx : BitVec 8)
    (asid : BitVec 16) : Word :=
  asid ++ ctx ++ func ++ BitVec.ofNat 8 unit ++ seq ++ BitVec.ofNat 8 (source % 16) ++ code

/-- The trap cause of a deferred fault (R363). -/
def deferredCause (code : BitVec 8) : Nat := if code.toNat < 0x30 then 25 else 26

/-- WHO of an agent of a die that is no hart (R371). -/
def State.agentWord (s : State) (d : DieId) : Word := BitVec.ofNat 64 (2 ^ 15 * d.val + 2 ^ 17 * s.device.toNat)

/-- The ASID of a hart: satp [59:44] (R80). -/
def Hart.asid (h : Hart) : BitVec 16 := h.csr.satp.extractLsb' 44 16

/-- Whether satp holds MODE 14 (R80). DEDUCED (log 27). -/
def Hart.mapped (h : Hart) : Bool := h.csr.satp.extractLsb' 60 4 == 14

/-- A record of a hart's fault. -/
def State.hartRecord (s : State) (h : HartRef) (code : BitVec 8) (source : Nat) (u : Option (EngineUnit × BitVec 8 × BitVec 8))
    (addr : Word) (detail : BitVec 16) (settles : Option Nat) : FaultRec :=
  let (unit, seq, fn) := match u with | some (u, q, f) => (unitCode u, q, f) | none => (0, 0, 0)
  { w0 := recordWord0 code source seq unit fn ((s.core h.core).ctx.getD 0) (s.hart h).asid, w1 := addr,
    w2 := s.hartWord h, detail := detail, hart := some h, cause := deferredCause code, slot := none, settles := settles }

/-- A record of an agent of a die. -/
def State.agentRecord (s : State) (d : DieId) (code : BitVec 8) (source : Nat) (fn ctx : BitVec 8) (asid : BitVec 16)
    (addr : Word) (detail : BitVec 16) : FaultRec :=
  { w0 := recordWord0 code source 0 0 fn ctx asid, w1 := addr, w2 := s.agentWord d, detail := detail, hart := none,
    cause := deferredCause code, slot := none, settles := none }

/-- Whether a die's buffer holds back a source of a core: its NI, or a unit (R373). DEDUCED (log 28). -/
def State.sourceHolds (s : State) (core source : Nat) (unit : Option EngineUnit) : Bool :=
  (s.die (dieOf core)).holding.any fun f =>
    bits f.w0.toNat 8 4 == source && unit.all (fun u => bits f.w0.toNat 24 3 == unitCode u) && bits f.w2.toNat 4 11 == coreInCluster core + 16 * clusterOf core

/-! ### Requests at issue -/

/-- A request with nothing set but its issuer. -/
def State.blankReq (s : State) (src : Source) (core : Nat) : Req :=
  { id := 0, kind := .access, src := src, core := core, ni := src.hart?.isSome, user := false, mapped := true, asid := 0, ctx := (s.core core).ctx,
    addr := 0, op := .read 0, data := [], arrival := .none, dest := .none, image := none, stage := .queued,
    born := s.nextId, waits := [], after := [], snapshots := [], retries := 0, hops := 0, route := none, via := none, seq := none, low := 0,
    path := 0, sentAt := s.time, sentNo := 0, windows := [], parts := [] }

/-- A request of a hart. -/
def State.hartReq (s : State) (h : HartRef) : Req :=
  let v := s.hart h
  { s.blankReq (.hart h) h.core with user := v.mode == .user, mapped := v.mapped, asid := v.asid }

/-- Whether an address names virtual space. -/
def isVirtual (a : Word) : Bool := field a 60 4 == 0

/-- A scratchpad address as selector 0xB names it, so that it means the same on every device. -/
def State.absolute (s : State) (core : Nat) (a : Word) : Word :=
  match s.place core a with
  | some (.spad c off win) =>
    BitVec.ofNat 64 (0xB * 2 ^ 60 + s.device.toNat * 2 ^ 34 + (dieOf c).val * 2 ^ 32 + clusterOf c * 2 ^ 25
      + coreInCluster c * 2 ^ 21 + win * 2 ^ 18 + off)
  | _ => a

/-- Whether a request writes: its completion is an acknowledgement (R120). -/
def Req.isWrite (r : Req) : Bool :=
  match r.op with
  | .read _ | .lr _ => false
  | _ => true

/-- Whether a request's address names bytes that it reads, writes or counts at; a message names a hart, a record the home of a
task, and a request for ownership a region. -/
def Req.namesMemory (r : Req) : Bool :=
  match r.op with
  | .message _ _ | .record _ _ | .own _ => false
  | _ => true

/-- Whether a request is tracked: a write, atomic, arrival, message or record (R403). -/
def Req.tracked (r : Req) : Bool := r.isWrite && r.kind == .access

/-- Whether a request reads or is an AMO, in the sense of `rfence.acq` (R124). -/
def Req.isRead (r : Req) : Bool :=
  match r.op with
  | .read _ | .lr _ | .atomic _ _ _ _ | .sc _ _ => true
  | _ => false

/-- Accesses of a hart and of its triggers that have not completed (R117, R120, R125). -/
def State.accessesOf (s : State) (h : HartRef) : List Req :=
  s.reqs.filter fun r => r.kind == .access && r.src.hart? == some h

/-- Keys of n stored bytes of a scratchpad, cluster or window address, byte by byte (R65). -/
def State.spanKeys (s : State) (core : Nat) (a : Word) (n : Nat) : Option (List Nat) :=
  match s.place core a with
  | some (.spad c off _) =>
    if field a 60 4 = 9 then
      some ((List.range n).map fun i =>
        let (c, o) := stripe ((field a 0 22 + i) % 2 ^ 22)
        spadKey (core / 16 * 16 + c) o)
    else if off + n ≤ 0x40000 then some ((List.range n).map fun i => spadKey c (off + i)) else none
  | some (.window off) => if off + n ≤ 0x400000 then some ((List.range n).map fun i => windowKey (off + i)) else none
  | _ => none

/-- Cores that a span names. -/
def State.spanCores (s : State) (core : Nat) (a : Word) (n : Nat) : List Nat :=
  match s.place core a with
  | some (.spad c _ _) =>
    if field a 60 4 = 9 then
      ((List.range n).map fun i => core / 16 * 16 + (stripe ((field a 0 22 + i) % 2 ^ 22)).1).dedup
    else [c]
  | _ => []

/-- Whether a byte of a span lies within a scope of an agent of a core (R122). -/
def State.touches (s : State) (core : Nat) (scope : BitVec 2) (asid : BitVec 16) (a : Word) (n : Nat) : Bool :=
  match scope with
  | 3#2 => true
  | 2#2 => match s.place core a with
    | some (.virt va) => (match s.walk (dieOf core) true asid va with
      | .remote dev _ => dev == s.device.toNat
      | _ => true)
    | some (.farSpad _ _ _ _) => false
    | _ => true
  | 1#2 => (s.spanCores core a (max n 1)).contains core
  | _ => false

/-- Whether a location that an arrival writes lies within a scope. -/
def State.touchesArrival (s : State) (core : Nat) (scope : BitVec 2) (asid : BitVec 16) (x : Arrival) : Bool :=
  match x with
  | .none => false
  | .flag a => s.touches core scope asid a 8
  | .tile a _ => s.touches core scope asid a 1

/-- Bytes that an access reads or writes at its home. -/
def Req.size (r : Req) : Nat :=
  match r.op with
  | .read n => n
  | .write | .writeMasked _ | .addEach _ | .reduceEach _ _ => r.data.length
  | .atomic _ dbl _ _ | .lr dbl | .sc dbl _ => if dbl then 8 else 4
  | _ => 0

/-- Whether a location of a request lies within a scope of an agent (R122): of its data, of its arrival, or of the lines that an
`ni.get` writes. -/
def State.inScope (s : State) (core : Nat) (scope : BitVec 2) (r : Req) : Bool :=
  (match r.op with
   | .message t _ => scope == 3 || (scope == 2 && field t 20 13 == s.device.toNat)
   | .record _ _ => scope == 3 || (scope == 2 && s.touches core scope r.asid r.addr 1)
   | _ => s.touches core scope r.asid r.addr r.size)
  || s.touchesArrival core scope r.asid r.arrival
  || (match r.dest with | .lines _ _ _ => scope != 0 | _ => false)

/-- Triggers of a hart in flight, whose accesses precede in program order. -/
def Hart.triggers (h : Hart) : List (BitVec 8) := h.flights.map (·.seq)

/-- Requests of one trigger. -/
def State.ofTrigger (s : State) (h : HartRef) (u : EngineUnit) (seq : BitVec 8) : List Req :=
  s.reqs.filter fun r => match r.src with
    | .engine h' u' seq' _ => h' == h && u' == u && seq' == seq
    | _ => false

/-- Requests of one copy list. -/
def State.ofList (s : State) (core : Nat) (h : HartRef) (seq : BitVec 8) : List Req :=
  s.reqs.filter fun r => match r.src with
    | .copyList core' seq' h' _ => core' == core && seq' == seq && h' == h
    | _ => false

/-- Whether a trigger of NI that waits in its queue will access a location within a scope (R257 to R261). -/
def State.triggerInScope (s : State) (t : Trigger) (scope : BitVec 2) : Bool :=
  let op := t.fn.toNat / 4
  let a := t.a.extractLsb' 0 64
  let asid := (s.hart t.h).asid
  let lines := op == 1 || op == 7 || op == 8 || op == 9 || op == 10
  if op = 11 then scope == 3 || (scope == 2 && field a 20 13 == s.device.toNat)
  else if 11 < op then false
  else (lines && scope != 0) || s.touches t.h.core scope asid a (if lines then 64 * bits t.a.toNat 82 13 else 64)
    || (t.fn.toNat % 4 == 1 && s.touches t.h.core scope asid t.f 8)

/-! ### What a copy list still accesses (R124, R125, R128, R254) -/

/-- Fields of ce.a. -/
def ceList (a : BitVec 128) : Word := a.extractLsb' 0 64
def ceMax (a : BitVec 128) : Nat := if bits a.toNat 64 16 = 0 then 65536 else bits a.toNat 64 16

/-- Whether a list reaches no further command: it has ended or reached its last one, or is held in WAIT. -/
def CeList.closed (l : CeList) : Bool := l.ended || decide (ceMax l.t.a ≤ l.reached)

/-- Windows of an address: virtual space and the coherent window act as W0 (R253). -/
def State.copyWindow (s : State) (core : Nat) (a : Word) : Nat :=
  match s.place core a with
  | some (.spad _ _ w) | some (.farSpad _ _ _ w) => w
  | some .nothing => field a 18 3
  | _ => 0

/-- Stored bytes that a number of delivered bytes, a multiple of the delivered unit, takes (R253). -/
def storedSize (win n : Nat) : Nat := n / unitDelivered win * unitStored win

/-- The delivered bytes of a row in all: LEN, or the 8 of WRITE. -/
def CeCommand.length (c : CeCommand) : Nat :=
  match c.kind with
  | 6#8 => 1
  | 7#8 => 8
  | _ => c.f.len.toNat

/-- Whether a command reads what it writes. -/
def CeCommand.copies (c : CeCommand) : Bool := c.kind == 1 || c.kind == 2 || c.kind == 4

/-- Whether an address is local to the core's engines: selector 0x8 (R119, R234). -/
def engineLocal (a : Word) : Bool := field a 60 4 == 8

/-- Whether a write or an arrival of a command lies within a scope (R122, R254). -/
def State.commandWrites (s : State) (core : Nat) (scope : BitVec 2) (l : CeList) (c : CeCommand) : Bool :=
  let asid := (s.hart l.t.h).asid
  let data := [1, 2, 3, 4, 6, 7].contains c.kind.toNat && (List.range c.rows).any fun r =>
    s.touches core scope asid (c.f.dst + BitVec.ofNat 64 r * c.f.dstride) (storedSize (s.copyWindow core c.f.dst) c.length)
  data || (c.f.tag == 1 && s.touches core scope asid c.f.tagw 8) || (c.f.tag == 2 && s.touches core scope asid c.f.dst 1)

/-- Whether a read of a command lies within a scope. A row of a GATHER lies where its index says. -/
def State.commandReadsIn (s : State) (core : Nat) (scope : BitVec 2) (l : CeList) (c : CeCommand) : Bool :=
  let asid := (s.hart l.t.h).asid
  let n := storedSize (s.copyWindow core c.f.src) c.length
  let row (r : Nat) : Nat := if c.kind = 4 then leNat (Memory.readBytes s.mem (spadKey core (field c.f.idx 0 18 + 4 * r)) 4) else r
  c.copies && (List.range c.rows).any fun r => s.touches core scope asid (c.f.src + BitVec.ofNat 64 (row r) * c.f.sstride) n

/-- The words of a list in the own scratchpad from an address on, as they stand, up to its END or its limit (R250, R254). -/
def State.listText (s : State) (core : Nat) (pc : Word) : Nat → List (BitVec 512)
  | 0 => []
  | n + 1 =>
    let w : BitVec 512 := BitVec.ofNat 512 (leNat (Memory.readBytes s.mem (spadKey core (field pc 0 18)) 64))
    let k := w.extractLsb' 0 8
    if k = 0 then [w]
    else w :: s.listText core (if k = 8 then w.extractLsb' 64 64 else pc + 64) n

/-- Whether a list may still reach a command that revision 1 puts a release before (R136): of one in virtual space nothing is known
before it is read. -/
def State.textReleases (s : State) (t : Trigger) (pc : Word) (n : Nat) : Bool :=
  t.fn != 0 || (s.listText t.h.core pc n).any fun w => w.extractLsb' 12 2 != 0 || w.extractLsb' 0 8 == 6

/-- What an operation asks of the accesses of a copy list. -/
structure ListAsk where
  /-- Of what a list may still reach, and of the commands that it has reached. -/
  unread : Trigger → Word → Nat → Bool
  command : CeList → CeCommand → Bool
  sent : Req → Bool

/-- Whether a copy list in flight still owes what an operation asks for: it is queued, or reaches further commands, or has such a command
or request outstanding. What a list will access is not known before it has been read. DEDUCED (log 37). -/
def State.listOwes (s : State) (h : HartRef) (q : BitVec 8) (ask : ListAsk) : Bool :=
  let c := s.core h.core
  let mine (t : Trigger) : Bool := t.h == h && t.seq == q && t.macroOp.isNone
  (c.ceq.any fun t => mine t && ask.unread t (ceList t.a) (ceMax t.a))
    || (c.lists.any fun l => mine l.t && ((!l.closed && ask.unread l.t l.pc (ceMax l.t.a - l.reached)) || l.cmds.any (ask.command l)))
    || (c.ending.any fun l => mine l.t && l.cmds.any (ask.command l))
    || (s.ofList h.core h q).any ask.sent

/-- Whether a trigger of NI that waits in its queue will write virtual space. -/
def Trigger.writesVirtual (t : Trigger) : Bool := decide (t.fn.toNat / 4 < 10) && isVirtual (t.a.extractLsb' 0 64)

/-- Whether a trigger in flight still owes accesses that an operation follows (R124, R125, R128): for a release those within its scope,
for an acquire non-local reads, for a fence every non-local access, for `fence.i` the writes to virtual space, and for any
other all. -/
def State.triggerOwes (s : State) (h : HartRef) (k : ReqKind) (q : BitVec 8) : Bool :=
  match (s.hart h).flights.find? (fun f => f.seq == q) with
  | none => false
  | some f =>
    let queued := (s.core h.core).niq.find? fun t => t.h == h && t.seq == q
    let far (l : CeList) (c : CeCommand) : Bool := c.row < c.rows && c.copies && !engineLocal c.f.src
    let writesFar (c : CeCommand) : Bool :=
      [1, 2, 3, 4, 6, 7].contains c.kind.toNat && !engineLocal c.f.dst || c.f.tag != 0
    match k, f.unit with
    | .access, _ => true
    | _, .va | _, .vs | _, .cv => false
    | .implied, .ce => s.listOwes h q
        { unread := s.textReleases
          command := fun _ c => (c.f.tag != 0 || c.kind == 6) && !(match c.release with
            | some id => (s.outstanding [id]).isEmpty
            | none => false)
          sent := fun _ => false }
    | .implied, _ => false
    | .release scope, .ni => (match queued with
      | some t => s.triggerInScope t scope
      | none => (s.ofTrigger h .ni q).any (s.inScope h.core scope))
    | .release scope, .ce => s.listOwes h q
        { unread := fun _ _ _ => scope != 0
          command := fun l c => s.commandWrites h.core scope l c || s.commandReadsIn h.core scope l c
          sent := s.inScope h.core scope }
    | .release scope, _ => scope != 0
    | .acquire, .ni => (match queued with
      | some t => t.fn.toNat / 4 == 10
      | none => (s.ofTrigger h .ni q).any Req.isRead)
    | .acquire, .ce => s.listOwes h q { unread := fun _ _ _ => true, command := far, sent := Req.isRead }
    | .gather text, .ni => (match queued with
      | some t => if text then t.writesVirtual else decide (t.fn.toNat / 4 < 12)
      | none => (s.ofTrigger h .ni q).any fun r => !text || (r.isWrite && isVirtual r.addr))
    | .gather text, .ce => s.listOwes h q
        { unread := fun _ _ _ => true
          command := fun l c => if text then isVirtual c.f.dst && [1, 2, 3, 4, 7].contains c.kind.toNat else far l c || writesFar c
          sent := fun r => !text || (r.isWrite && isVirtual r.addr) }
    | .acquire, _ | .gather _, _ => false

/-- Whether ACKED of a put window of a context has reached what ISSUED was (R262). -/
def State.windowReached (s : State) (ctx : Option (BitVec 8)) (x : Nat × BitVec 32) : Bool :=
  match (ctx.bind s.ctx?).bind fun c => tableGet c.windows x.1 with
  | some w => decide (0 ≤ (w.acked - x.2).toInt)
  | none => true

/-- Whether a request may go on: everything it waits for has completed (R124, R125, R262). -/
def State.ready (s : State) (r : Req) : Bool :=
  (s.outstanding r.waits).isEmpty && r.snapshots.all (s.windowReached r.ctx) && (match r.src.hart? with
    | some h => r.after.all fun q => !s.triggerOwes h r.kind q
    | none => true)

/-- Changes what later accesses of a hart wait for. -/
def State.holdLater (s : State) (h : HartRef) (all writes : List Nat) : State :=
  let v := s.hart h
  s.setHart h { v with holdAll := s.outstanding v.holdAll ++ all, holdWrites := s.outstanding v.holdWrites ++ writes }

/-- ISSUED of every put window that a hart has used since its last domain-scope release, in counter mode (R262). -/
def State.windowSnapshots (s : State) (h : HartRef) (scope : BitVec 2) : List (Nat × BitVec 32) :=
  if scope = 3 ∧ s.linkMode = 1 then
    match s.ctxOf h.core with
    | some c => (s.hart h).windowsUsed.filterMap fun w => (tableGet c.windows w).map fun p => (w, p.issued)
    | none => []
  else []

/-- A release of a hart at a place of its program (R125): the release set within the scope, held in a request of its own that
later writes wait for. The destination fills when it performs. -/
def State.releaseAt (s : State) (h : HartRef) (scope : BitVec 2) (dest : Dest) (born : Nat) (after : List (BitVec 8)) : State × Nat :=
  let set := (s.accessesOf h).filter fun r => decide (r.born ≤ born) && s.inScope h.core scope r
  let r := { s.hartReq h with
    kind := .release scope, waits := set.map (·.id), after := after, snapshots := s.windowSnapshots h scope, dest := dest }
  let id := s.nextId
  ((s.addReq r).holdLater h [] [id], id)

/-- A release of a hart after all that it has issued and triggered (R125). -/
def State.release (s : State) (h : HartRef) (scope : BitVec 2) (dest : Dest) : State × Nat :=
  s.releaseAt h scope dest s.nextId (s.hart h).triggers

/-- An acquire of a hart (R124): every later non-local access waits for its earlier reads and AMOs, those of its triggers with
them. DEDUCED (log 37). -/
def State.acquire (s : State) (h : HartRef) (dest : Dest) : State × Nat :=
  let waits := ((s.accessesOf h).filter Req.isRead).map (·.id)
  let r := { s.hartReq h with kind := .acquire, waits := waits, after := (s.hart h).triggers, dest := dest }
  let id := s.nextId
  ((s.addReq r).holdLater h [id] [], id)

/-- The memory-model revision of a core's context (R135). -/
def State.revision (s : State) (core : Nat) : Nat :=
  match s.ctxOf core with
  | some c => c.revision
  | none => 2

/-- Scope of the implicit release of revision 1 (R136): domain where data or flag is named on another device or lies in
virtual space. -/
def State.implicitScope (s : State) (core : Nat) (addrs : List Word) : BitVec 2 :=
  if addrs.any (fun a => isVirtual a || (match s.place core a with | some (.farSpad _ _ _ _) => true | _ => false))
  then 3 else 2

/-- The core whose scratchpad a posted store targets: device and core (R135). -/
def State.targetCore (s : State) (r : Req) : Option (Nat × Nat) :=
  match s.place r.core r.addr with
  | some (.spad c _ _) => some (s.device.toNat, c)
  | some (.farSpad dev c _ _) => some (dev, c)
  | _ => none

/-- The addresses that the arrival of an access names. -/
def arrivalAddrs : Arrival → List Word
  | .flag a => [a]
  | _ => []

/-- Whether a request is a posted store: a scalar store, or one of a posted-store trigger of NI (R135, R136). -/
def Req.isPosted (r : Req) : Bool :=
  match r.op, r.src with
  | .write, .hart _ | .writeMasked _, .hart _ | .write, .engine _ .ni _ _ | .writeMasked _, .engine _ .ni _ _ => true
  | _, _ => false

/-- Posted-store triggers of a hart that wait in the queue of NI and have the same target core as a request (R135, R266). -/
def State.postedQueued (s : State) (h : HartRef) (target : Option (Nat × Nat)) : List (BitVec 8) :=
  let posts (t : Trigger) : Bool :=
    t.h == h && decide (t.fn.toNat / 4 ≤ 1) && s.targetCore { s.hartReq h with addr := t.a.extractLsb' 0 64 } == target
  ((s.core h.core).niq.filter posts).map (·.seq)

/-- Whether a request is of an instruction, and not of a trigger, of a hart. -/
def Req.isScalar (r : Req) : Bool :=
  match r.src with
  | .hart _ => true
  | _ => false

/-- Puts a hart's or a trigger's request into the outbound queue, after what it must follow (R124, R125, R128, R135,
R136): its identifier is the state's next. What a trigger's request follows stood at its trigger. -/
def State.issueReq (s : State) (h : HartRef) (r : Req) : State :=
  let rev1 := s.revision h.core == 1
  let tagged := (r.arrival != .none || r.op == .arrivalOnly) && r.isScalar
  let s := if rev1 && tagged then (s.release h (s.implicitScope h.core (r.addr :: arrivalAddrs r.arrival)) .none).1 else s
  let v := s.hart h
  let r := if r.isScalar then
      { r with born := s.nextId, waits := r.waits ++ v.holdAll ++ (if r.isWrite then v.holdWrites else []) } else r
  let target := s.targetCore r
  let ordered := rev1 && r.isPosted && target.isSome
  let posted := if ordered then
      ((s.accessesOf h).filter (fun q => q.isPosted && decide (q.born ≤ r.born) && s.targetCore q == target)).map (·.id)
    else []
  let queued := if ordered && r.isScalar then s.postedQueued h target else []
  s.addReq { r with waits := s.outstanding r.waits ++ posted, after := r.after ++ queued }

/-- Requests that a core's NI holds in its outbound queue (R264). -/
def State.queuedOf (s : State) (core : Nat) : Nat :=
  (s.reqs.filter fun r => r.kind == .access && r.core == core && r.stage == .queued && r.ni).length

/-- Whether the outbound queue is full (R264). -/
def State.niFull (s : State) (core : Nat) : Bool := decide (64 ≤ s.queuedOf core)

/-- Requests in a core's retry buffer (R265). -/
def State.retriesOf (s : State) (core : Nat) : Nat :=
  (s.reqs.filter fun r => r.core == core && r.ni
    && (match r.stage with | .retry _ | .faulted _ _ => true | _ => false)).length

/-! ### Owner caches (R85) -/

/-- Entries of an owner cache. -/
def ownerSize : Nat := 128

/-- Looks an owner up. -/
def ownerLookup (l : List OwnerEntry) (asid : BitVec 16) (region : BitVec 36) : Option OwnerEntry :=
  l.find? fun e => e.asid == asid && e.region == region

/-- Drops the entry for a region. -/
def ownerDrop (l : List OwnerEntry) (asid : BitVec 16) (region : BitVec 36) : List OwnerEntry :=
  l.filter fun e => !(e.asid == asid && e.region == region)

/-- Installs or refreshes an entry, the least recently used leaving a full cache. -/
def ownerInstall (l : List OwnerEntry) (e : OwnerEntry) : List OwnerEntry := (e :: ownerDrop l e.asid e.region).take ownerSize

/-- Installs an owner at a core; accesses sent by the old route hold back new ones (R90, R91). -/
def State.learnOwner (s : State) (core : Nat) (e : OwnerEntry) : State :=
  let c := s.core core
  let old := (s.reqs.filter fun r => r.ni && r.core == core && r.asid == e.asid && isVirtual r.addr
    && regionOf r.addr.toNat == e.region && r.stage != .queued && r.via.isSome && r.via != some (e.device, e.die.val)).map (·.id)
  s.setCore core { c with
    owners := ownerInstall c.owners e
    rerouted := if old.isEmpty then c.rerouted else (e.asid, e.region, old) :: c.rerouted }

/-- An access that its NI sends uses the owner that the cache names: the entry is then the most recently used (R85). -/
def State.useOwner (s : State) (r : Req) : State :=
  let c := s.core r.core
  match (if r.ni && isVirtual r.addr then ownerLookup c.owners r.asid (regionOf r.addr.toNat) else none) with
  | some e => s.setCore r.core { c with owners := ownerInstall c.owners e }
  | none => s

/-- The owner of a region as a die's agent finds it by its tables (R85), or the code of its walk. -/
def State.agentOwner (s : State) (die : DieId) (asid : BitVec 16) (va : Nat) : BitVec 8 ⊕ (Nat × DieId) :=
  match s.walk die true asid va with
  | .fault code => .inl code
  | .soft => .inl cHomeSoft
  | .remote device d => .inr (device, d)
  | .home d => .inr (s.device.toNat, d)
  | .leaf _ _ _ => .inr (s.device.toNat, die)

/-- The owner of a region for an NI: as its owner cache names it, or else as the die's agent finds it, for the cache (R85). -/
def State.ownerFor (s : State) (core : Nat) (asid : BitVec 16) (va : Nat) : State × (BitVec 8 ⊕ (Nat × DieId)) :=
  let c := s.core core
  let install (device : Nat) (die : DieId) : State × (BitVec 8 ⊕ (Nat × DieId)) :=
    (s.setCore core { c with owners := ownerInstall c.owners ⟨asid, regionOf va, device, die⟩ }, .inr (device, die))
  match ownerLookup c.owners asid (regionOf va) with
  | some e => install e.device e.die
  | none => match s.agentOwner (dieOf core) asid va with
    | .inl code => (s, .inl code)
    | .inr (device, die) => install device die

/-- The owner of a region for the stream sequencer of a die: as its owner cache names it, or else as the agent finds it, for the
cache (R85, R286). -/
def State.sequencerOwner (s : State) (die : DieId) (asid : BitVec 16) (va : Nat) : State × (BitVec 8 ⊕ (Nat × DieId)) :=
  let d := s.die die
  let install (device : Nat) (x : DieId) : State × (BitVec 8 ⊕ (Nat × DieId)) :=
    (s.setDie die { d with owners := ownerInstall d.owners ⟨asid, regionOf va, device, x⟩ }, .inr (device, x))
  match ownerLookup d.owners asid (regionOf va) with
  | some e => install e.device e.die
  | none => match s.agentOwner die asid va with
    | .inl code => (s, .inl code)
    | .inr (device, x) => install device x

/-- Whether accesses sent by an old route hold a request back, or an earlier access for the region that they have held and that
may leave now (R91). -/
def State.routeHeld (s : State) (r : Req) : Bool :=
  let earlier (q : Req) : Bool :=
    q.ni && q.core == r.core && q.stage == .queued && q.kind == .access && decide (q.id < r.id) && q.asid == r.asid
      && isVirtual q.addr && regionOf q.addr.toNat == regionOf r.addr.toNat && s.ready q
  r.ni && (match r.op with | .message _ _ => false | _ => isVirtual r.addr)
    && (s.core r.core).rerouted.any fun (asid, region, ids) =>
      asid == r.asid && region == regionOf r.addr.toNat && !ids.contains r.id && (!(s.outstanding ids).isEmpty || s.reqs.any earlier)

/-! ### Routes -/

/-- The die at which a request has arrived. -/
def Req.die (r : Req) : DieId := Fin.ofNat 4 ((r.route.getD (0, 0)).2)

/-- The device and die a request goes to, or none while the owner of its region is not known. A message goes to the die that its hart word
names, where one that the device lacks ends UNBACKED. DESIGN CHOICE (log 102). -/
def State.routeOf (s : State) (r : Req) : Option (Nat × DieId) :=
  let own := s.device.toNat
  match r.op with
  | .message t _ => some (field t 20 13, Fin.ofNat 4 (field t 18 2))
  | _ => match s.place r.core r.addr with
    | some (.virt va) => match ownerLookup (s.core r.core).owners r.asid (regionOf va) with
      | some e => some (e.device, e.die)
      | none => none
    | some (.farSpad dev c _ _) => some (dev, dieOf c)
    | some (.spad c _ _) => some (own, dieOf c)
    | some (.register d _) => some (own, Fin.ofNat 4 d)
    | some .nothing => some (if field r.addr 60 4 = 11 then field r.addr 34 13 else own, 0)
    | _ => some (own, 0)

/-- The source port of a path to a device (R311). -/
def State.portOf (s : State) (device path : Nat) : PortId :=
  ((tableGet s.flash.pathPorts device).getD s.flash.otherPorts).getD path 0

/-- Whether a path to a device has died beyond its source port (R404). -/
def State.pathDead (s : State) (device path : Nat) : Bool := s.farDead.any fun x => x.1 == device && x.2.1 == path

/-- The live paths to a device, in order (R311, R402, R404): those whose port carries all flits. -/
def State.livePaths (s : State) (device : Nat) : List Nat :=
  (List.range s.paths.toNat).filter fun p => !s.pathDead device p && match s.ports[s.portOf device p].st with
    | .active | .degraded => true
    | _ => false

/-- The paths that VC 1 takes to a device (R309): a QUIESCED port carries it too. -/
def State.replyPaths (s : State) (device : Nat) : List Nat :=
  (List.range s.paths.toNat).filter fun p => !s.pathDead device p && match s.ports[s.portOf device p].st with
    | .active | .degraded | .quiesced => true
    | _ => false

/-- The path that VC 2 traffic takes to a device (R311, R404): the lowest-numbered live one, or the one that it took when a path died. -/
def State.controlPath (s : State) (device : Nat) : Option Nat :=
  match (tableGet s.vc2Path device).filter (s.livePaths device).contains with
  | some p => some p
  | none => (s.livePaths device).head?

/-- The path that is next in the round of an agent towards a device over paths (R311). -/
def State.nextPath (s : State) (agent device : Nat) (paths : List Nat) : Nat :=
  paths.getD ((tableGet s.sprayed (8192 * agent + device)).getD 0 % paths.length) 0

/-- The round of an agent towards a device goes on. -/
def State.spray (s : State) (agent device : Nat) : State :=
  let k := 8192 * agent + device
  { s with sprayed := tableSet s.sprayed k ((tableGet s.sprayed k).getD 0 + 1) }

/-! ### The mesh (R305, R306, R317, R406) -/

/-- The dies beside a boundary (R406). -/
def boundaryDies (b : Fin 4) : DieId × DieId :=
  match b with
  | 0 => (0, 1)
  | 1 => (2, 3)
  | 2 => (0, 2)
  | 3 => (1, 3)

/-- Whether the boundary between two neighbouring dies works (R406). -/
def State.joined (s : State) (x y : DieId) : Bool :=
  (List.finRange 4).any fun (b : Fin 4) => s.boundaries[b] && (boundaryDies b == (x, y) || boundaryDies b == (y, x))

/-- Whether a route over dies crosses only boundaries that work. -/
def State.crossable (s : State) : List DieId → Bool
  | x :: y :: l => (x == y || s.joined x y) && s.crossable (y :: l)
  | _ => true

/-- The dies of a route (R305, R306, R406): along X and then along Y; where a boundary on the way has failed, through the other two
dies. -/
def State.routeDies (s : State) (x y : DieId) : List DieId :=
  let corner (a b : DieId) : DieId := Fin.ofNat 4 (a.val / 2 * 2 + b.val % 2)
  let other (d : DieId) : DieId := if x.val / 2 = y.val / 2 then Fin.ofNat 4 (d.val ^^^ 2) else Fin.ofNat 4 (d.val ^^^ 1)
  let direct := [x, corner x y, y]
  if s.crossable direct then direct
  else if x.val / 2 ≠ y.val / 2 ∧ x.val % 2 ≠ y.val % 2 then [x, corner y x, y]
  else [x, other x, other y, y]

/-- Whether traffic from a die reaches another now: it waits where it enters or crosses a die whose clock is halted (R25, R305,
R317). DEDUCED (log 89). -/
def State.routeOpen (s : State) (x y : DieId) : Bool :=
  !(s.die y).halted && ((s.routeDies x y).drop 1).all fun d => d == x || !(s.die d).halted

/-- The die of a scale-up port (R306). -/
def portHome (p : Nat) : DieId := Fin.ofNat 4 (portDie p)

/-- The die at which a request enters the mesh of this device: that of its core or of its agent, or of the port at which it came. -/
def Req.entryDie (r : Req) : DieId :=
  match r.src with
  | .foreign _ _ _ _ => portHome r.path
  | _ => dieOf r.core

/-- The die from which the answer of a request comes: that of its home; the answer of another device has crossed the mesh as its flit
was taken. -/
def State.answerDie (s : State) (r : Req) : DieId :=
  match r.route with
  | some (device, die) => if device = s.device.toNat then Fin.ofNat 4 die else dieOf r.core
  | none => dieOf r.core

/-- Whether a request was in flight across a boundary that has failed (R406). -/
def State.isCut (s : State) (r : Req) : Bool := s.cuts.any fun x => x.1 == r.id

/-- Whether the answer of a request has come to its NI (R305, R317). -/
def State.answerHere (s : State) (r : Req) : Bool := s.routeOpen (s.answerDie r) (dieOf r.core)

/-- Whether a way to another device is open from a die, over the path that an agent takes next (R311, R317); one on which no path lives
ends at once. -/
def State.portOpen (s : State) (x : DieId) (agent device : Nat) : Bool :=
  device == s.device.toNat || match s.livePaths device with
    | [] => true
    | ps => s.routeOpen x (portHome (s.portOf device (s.nextPath agent device ps)).val)

/-! ### Order within a die cycle (R75, R121) -/

/-- Whether a non-local access has performed at a core in the present die cycle. -/
def State.homedNow (s : State) (core : Nat) : Bool := tableGet s.homed core == some (s.coreCycle core)

/-- Records a non-local access that performs at cores. -/
def State.recordHome (s : State) (cores : List Nat) : State :=
  { s with homed := cores.foldl (fun (l : List (Nat × Nat)) (c : Nat) => tableSet l c (s.coreCycle c)) s.homed }

/-- Whether an engine or an arrival may act at a core in the present die cycle: after the slot of its hart, and before non-local
accesses. -/
def State.coreTurn (s : State) (core : Nat) : Bool := !s.slotPending core && !s.homedNow core && !(s.die (dieOf core)).halted

/-- Fields of a hart word (R43). -/
def wordHart (w : Word) : HartId := Fin.ofNat 16 (field w 3 4)
def wordCore (w : Word) : Nat := 1280 * field w 18 2 + 16 * field w 11 7 + field w 7 4

/-- The cores of this device at which a request acts. -/
def State.homesOf (s : State) (r : Req) : List Nat :=
  match r.op with
  | .message t _ => [wordCore t]
  | _ => s.spanCores r.core r.addr (max r.size 1)

/-- Whether a request lies at this device, and has come to its home after what its die cycle orders before it (R121). -/
def State.arrivedHere (s : State) (r : Req) : Bool :=
  r.stage == .sent && !s.isCut r && (match r.route with
    | some (device, die) => device == s.device.toNat && s.routeOpen r.entryDie (Fin.ofNat 4 die)
    | none => false)
  && !(s.homesOf r).any s.slotPending

/-- The put window that counts an access to a device: the one bound to it, or the default (R262), the lowest-numbered of several. DESIGN
CHOICE (log 109). -/
def windowFor (ws : List (Nat × PutWindow)) (device : Nat) : Option Nat :=
  match ws.find? (fun w => w.2.device == some (BitVec.ofNat 13 device)) with
  | some w => some w.1
  | none => (ws.find? (fun w => w.2.device == some 8191)).map (·.1)

/-- Changes the counters of a put window of a context. -/
def State.countWindow (s : State) (ctx : Option (BitVec 8)) (w : Option Nat) (f : PutWindow → PutWindow) : State :=
  match ctx, w with
  | some c, some n => match s.ctx? c with
    | some v => match tableGet v.windows n with
      | some p => s.setCtx c { v with windows := tableSet v.windows n (f p) }
      | none => s
    | none => s
  | _, _ => s

/-- Whether an arrival performs at this device whichever device its data is on: a flag in the coherent window (R76). -/
def State.homeArrival (s : State) (r : Req) : Bool :=
  match r.arrival with
  | .flag a => (match s.place r.core a with | some (.window _) => true | _ => false)
  | _ => false

/-- The arrival of a request as another device reads it. -/
def State.absoluteArrival (s : State) (r : Req) : Arrival :=
  if s.homeArrival r then .none
  else match r.arrival with
    | .flag a => .flag (s.absolute r.core a)
    | .tile a i => .tile (s.absolute r.core a) i
    | .none => .none

/-- What the leaf of a virtual access must permit: reads need RD, writes WR, an AMO or atomic both, an add without a
fetch WR (R390). -/
def Req.need (r : Req) : Need :=
  match r.op with
  | .read _ | .lr _ =>
    (match r.dest with
     | .fetch _ | .staged _ true => ⟨r.user, false, false, true⟩
     | _ => ⟨r.user, true, false, false⟩)
  | .atomic _ _ _ _ => ⟨r.user, (match r.dest with | .none => false | _ => true), true, false⟩
  | .reduceEach _ _ => ⟨r.user, true, true, false⟩
  | _ => ⟨r.user, false, true, false⟩

/-- The flit message of a request to another device (R308); one that only passes through keeps its issuer. -/
def State.foreignOf (s : State) (r : Req) : Foreign :=
  let (device, hart, tag) := match r.src with
    | .foreign d _ h t => (d, h, t)
    | src => (s.device.toNat, ((src.hart?).getD ⟨0, 0⟩).hart, r.id)
  { device := device, core := r.core, hart := hart, die := (r.route.getD (0, 0)).2, seq := r.seq.getD 0, low := r.low, tag := tag, user := r.user, asid := r.asid,
    ctx := r.ctx.getD 0, addr := r.addr, op := r.op, data := r.data, arrival := s.absoluteArrival r, hops := r.hops
    exec := r.need.ex, old := r.dest != .none, parts := r.parts }

/-- The virtual channel of a message (R308). -/
def fabricChannel : FabricMsg → BitVec 2
  | .request _ | .regionStart _ _ _ _ | .chunk _ _ _ _ _ | .cellarPart _ _ _ _ => 0
  | .mapUpdate _ _ _ _ _ _ _ | .mapUpdateAck _ _ | .flushMarker _ _ _ _ _ => 2
  | _ => 1

/-- A message leaves in a flit by the port of its path, whose repeat store keeps the last 256 flits (R307, R308, R311): the header tells
what the port has received in order, a repeat that it asks for, and the credits that it returns. -/
def State.depart1 (s : State) (m : Departed) : State :=
  let p := s.portOf m.device m.path
  let v := s.ports[p]
  let m := { m with head := ⟨v.txNext, fabricChannel m.msg, v.rxNext - 1, v.asked.head?, v.owed⟩ }
  { s with
    fabricOut := m :: s.fabricOut
    ports := s.ports.set p { v with
      txNext := v.txNext + 1, store := ((v.txNext, m) :: v.store).take 256, asked := v.asked.drop 1 ++ v.asked.take 1, owed := 0 } }

/-- A VC 2 message that is no marker: it takes the next number to its device, is kept until it is acknowledged, and leaves by the path
of VC 2 traffic (R311, R404). -/
def State.sendNumbered (s : State) (device : Nat) (m : FabricMsg) : State :=
  let n := (tableGet s.vc2Next device).getD 0
  let out : Departed := { device := device, path := (s.controlPath device).getD 0, time := s.time, number := some n, msg := m }
  let s := { s with vc2Next := tableSet s.vc2Next device (n + 1), vc2Sent := s.vc2Sent ++ [out] }
  if (s.controlPath device).isNone then s else s.depart1 out

/-- The path that a message to a device takes next (R308, R309, R311), if one carries its virtual channel: VC 0 and VC 1 go round over
the paths. -/
def State.pathFor (s : State) (device : Nat) (m : FabricMsg) : Option Nat :=
  let round (ps : List Nat) : Option Nat := if ps.isEmpty then none else some (s.nextPath 5120 device ps)
  match m with
  | .flushMarker _ _ _ p _ => some p
  | _ => match fabricChannel m with
    | 0 => round (s.livePaths device)
    | 1 => round (s.replyPaths device)
    | _ => s.controlPath device

/-- Sends a message from a die into the fabric (R308, R311); it waits for a die on the way to the port of its path whose clock is
halted (R317). -/
def State.toFabric (s : State) (x : DieId) (device : Nat) (m : FabricMsg) : State :=
  match s.pathFor device m with
  | none => if fabricChannel m = 2 then s.sendNumbered device m else s
  | some p =>
    if !s.routeOpen x (portHome (s.portOf device p).val) then { s with txHeld := s.txHeld ++ [(x, device, m)] }
    else match m with
      | .mapUpdate _ _ _ _ _ _ _ | .mapUpdateAck _ _ => s.sendNumbered device m
      | .flushMarker _ _ _ _ _ => s.depart1 { device := device, path := p, time := s.time, number := none, msg := m }
      | _ => (s.spray 5120 device).depart1 { device := device, path := p, time := s.time, number := none, msg := m }

/-- A request's answer is on its way back: to another device through the fabric, else to the issuing NI. -/
def State.answer (s : State) (r : Req) (a : Answer) : State :=
  match r.src with
  | .foreign device _ _ tag =>
    if device = s.device.toNat then
      let s := s.dropReq r.id
      match s.req? tag with
      | some q => s.setReq { q with stage := .answered a }
      | none => s
    else (s.dropReq r.id).toFabric (Fin.ofNat 4 ((r.route.getD (0, 0)).2)) device (.reply tag a)
  | _ => s.setReq { r with stage := .answered a }

/-- Sends a request by its route: to its home on this device, or into the fabric on a live path (R311, R404). New requests
to a device without a live path are settled UNKNOWN without being sent, and a device outside the domain is UNBACKED. -/
def State.launch (s : State) (r : Req) (device : Nat) (die : DieId) : State :=
  let r := { r with route := some (device, die.val), sentAt := s.time, sentNo := s.sends }
  let s := { s with sends := s.sends + 1 }
  if device = s.device.toNat then s.setReq { r with stage := .sent }
  else if s.domSize.toNat ≤ device then s.answer r (.faulted cUnbacked r.addr 0)
  else match s.livePaths device with
    | [] => s.answer r (.faulted 0x32 r.addr 0)
    | paths =>
      let p := s.nextPath r.core device paths
      let s := s.spray r.core device
      let r := { r with path := p, stage := .sent }
      let passing := match r.src with | .foreign _ _ _ _ => true | _ => false
      (if passing then s.dropReq r.id else s.setReq r).depart1
        { device := device, path := p, time := s.time, number := none, msg := .request (s.foreignOf r) }

/-! ### Reading and writing at a home -/

/-- Why a scratchpad of this device refuses an access: a disabled core or an absent place is UNBACKED, and a core bound to
no context of the requester is UNBOUND (R27, R361, R401). The requester's own core is reached whatever it is bound to.
DEDUCED (log 21). -/
def State.coreRefuses (s : State) (r : Req) (core : Nat) : Option (BitVec 8) :=
  if !s.enabled core || (s.die (dieOf core)).stopped then some cUnbacked
  else
    let own := match r.src with | .hart _ | .engine _ _ _ _ | .copyList _ _ _ _ => core == r.core | _ => false
    if own || (r.ctx.isSome && (s.core core).ctx == r.ctx) then none else some cUnbound

/-- Whether a core is being vacated by `cmig`: accesses to it are refused (R198, R388). -/
def State.vacating (s : State) (core : Nat) : Bool := (s.core core).migration.isSome

/-- The doorplate of a vacated core that a request of its context still names (R92, R198). -/
def State.coreStub (s : State) (r : Req) (core : Nat) : Option (Nat × Stub) :=
  if (s.core core).ctx.isSome && (s.core core).ctx == r.ctx then none
  else (s.die (dieOf core)).stubs.find? fun x =>
    x.2.st != .free && x.2.ctx && x.2.region == BitVec.ofNat 36 core && x.2.asid == r.asid

/-- Where a request finds its bytes. -/
inductive Located
  | keys (k : List Nat)
  | fault (code : BitVec 8)
  | refused
  /-- The owner is elsewhere: a redirect names it (R392). -/
  | away (device : Nat) (die : DieId)
  /-- A doorplate forwards it, with a redirect or, while COPYING, without (R87, R89). -/
  | forward (device : Nat) (die : DieId) (teach : Bool)
  /-- The agent must walk first (R84). -/
  | walk
  deriving DecidableEq, Repr

/-- How the state of a region at a die decides an access, or none where the die's tables decide (R87, R89, R392). -/
def State.regionState (s : State) (die : DieId) (asid : BitVec 16) (va : Nat) : Option Located :=
  let d := s.die die
  let chunk := bits va 16 5
  match stubFor d.stubs asid (regionOf va) with
  | some (_, t) =>
    match t.st with
    | .copying =>
      if chunk < t.copied.toNat then some (.forward t.ndev.toNat (Fin.ofNat 4 t.ndie.toNat) false)
      else if chunk = t.copied.toNat then some .refused
      else none
    | _ => some (.forward t.ndev.toNat (Fin.ofNat 4 t.ndie.toNat) true)
  | none =>
    match d.incoming.find? (fun i => i.started && i.asid == asid && i.region == regionOf va) with
    | some i => if i.received.getLsbD chunk then none else some (.forward i.device i.die false)
    | none => none

/-- The TLB's answer for a request's bytes: an address space that no valid root entry holds is not mapped (R80, R84, R390). -/
def State.tlbKeys (s : State) (die : DieId) (r : Req) (va n : Nat) : Located :=
  match (if (rootFor (s.die die).roots r.asid).isNone then none else some (tlbLookup (s.die die).tlb r.asid va)) with
  | none => .fault cNotMapped
  | some none => .walk
  | some (some (e, large)) =>
    match leafFault e r.need with
    | some c => .fault c
    | none =>
      if r.need.wr && bits e 6 1 == 0 then .walk
      else match s.leafKeys e large va n with
        | some k => .keys k
        | none => .fault cUnbacked

/-- Where a request that has reached this device finds its bytes. -/
def State.locate (s : State) (r : Req) : Located :=
  match s.place r.core r.addr with
  | some (.virt va) =>
    if !r.mapped then .fault cNotMapped
    else
      let die : DieId := Fin.ofNat 4 ((r.route.getD (0, 0)).2)
      match s.regionState die r.asid va with
      | some l => l
      | none => s.tlbKeys die r va r.size
  | some (.spad _ _ _) =>
    let cores := s.spanCores r.core r.addr r.size
    match (match cores with | [c] => s.coreStub r c | _ => none), cores.findSome? (s.coreRefuses r) with
    | some (_, t), _ => .forward s.device.toNat (dieOf (t.request.getD 0)) true
    | none, some c => .fault c
    | none, none =>
      if cores.any s.vacating then .refused
      else match s.spanKeys r.core r.addr r.size with
        | some k => .keys k
        | none => .fault cUnbacked
  | some (.window _) => match s.spanKeys r.core r.addr r.size with
    | some k => .keys k
    | none => .fault cUnbacked
  | _ => .fault cUnbacked

/-! ### Deduplication (R403) -/

/-- How a target's table takes a tracked request. -/
inductive Dedupe
  | perform (t : List Dedup)
  | stale
  | again
  | refused
  deriving DecidableEq, Repr

/-- Entries of a table. -/
def dedupSize : Nat := 8192

/-- Whether a 32-bit number lies below another, modulo 2^32. -/
def seqBelow (a b : BitVec 32) : Bool := (a - b).toInt < 0

/-- The entry of a source as a request of it advances it: the LOW that the request carries, and the time. -/
def Dedup.met (e : Dedup) (low : BitVec 32) (now : Nat) : Dedup :=
  if seqBelow e.low low then { e with map := e.map >>> (low - e.low).toNat, low := low, last := now } else { e with last := now }

/-- The table's answer to a request and the table after it performs. -/
def dedupCheck (t : List Dedup) (device core : Nat) (seq low : BitVec 32) (now : Nat) : Dedupe :=
  match t.find? (fun e => e.device == device && e.core == core) with
  | some e =>
    let e := e.met low now
    if seqBelow seq e.low then .stale
    else
      let i := (seq - e.low).toNat
      if e.map.getLsbD i then .again
      else .perform (t.map fun x => if x.device = device ∧ x.core = core
        then { e with map := e.map ||| (1#128 <<< i) } else x)
  | none =>
    let e : Dedup := ⟨device, core, low, 1#128 <<< (seq - low).toNat, now⟩
    if t.length < dedupSize then .perform (t ++ [e])
    else match t.find? (fun x => decide (x.last + 100000 ≤ now)) with
      | some old => .perform (t.map fun x => if x = old then e else x)
      | none => .refused

/-- Source device of a request. -/
def State.sourceDevice (s : State) (r : Req) : Nat :=
  match r.src with
  | .foreign d _ _ _ => d
  | _ => s.device.toNat

/-- A request that does not perform under the table of a die, a read with them, still advances its source's entry there. -/
def State.meets (s : State) (r : Req) (die : DieId) : State :=
  let v := s.die die
  let table := v.dedup.map fun e =>
    if e.device = s.sourceDevice r ∧ e.core = r.core then e.met r.low s.refTime else e
  s.setDie die { v with dedup := table }

/-- Performs a tracked request at a die under its deduplication table. The continuation is the performing. -/
def State.deduped (s : State) (r : Req) (die : DieId) (perform : State → State) : State :=
  match r.seq with
  | none => perform s
  | some q =>
    match dedupCheck (s.die die).dedup (s.sourceDevice r) r.core q r.low s.refTime with
    | .perform t => perform (s.setDie die { s.die die with dedup := t })
    | .stale => (s.meets r die).dropReq r.id
    | .again => (s.meets r die).answer r (.done [])
    | .refused => s.answer r .refused

/-- A request that its home turns away with an answer (R403): one that has performed before is acknowledged again, a stale one is
dropped, and an attempt that is turned away sets no bit (R118). -/
def State.turnAway (s : State) (r : Req) (a : Answer) : State :=
  let die : DieId := Fin.ofNat 4 ((r.route.getD (0, 0)).2)
  let old := r.seq.map fun q => dedupCheck (s.die die).dedup (s.sourceDevice r) r.core q r.low s.refTime
  match old with
  | some .stale => (s.meets r die).dropReq r.id
  | some .again => (s.meets r die).answer r (.done [])
  | _ => (s.meets r die).answer r a

/-- A request that faults at its home (R389, R403). -/
def State.faultAt (s : State) (r : Req) (code : BitVec 8) (addr : Word) (detail : BitVec 16) : State :=
  s.turnAway r (.faulted code addr detail)

/-- A refused attempt: a negative acknowledgement (R118, R265). One with words that have performed is accepted, and waits. DEDUCED
(log 90). -/
def State.refuse (s : State) (r : Req) : State := if r.parts.isEmpty then s.turnAway r .refused else s

/-- The code of a fault and what its record holds, of an answer that is one (R390). -/
def answerFault : Answer → Option (BitVec 8 × Word × BitVec 16 × Nat)
  | .faulted code addr detail => some (code, addr, detail, if code.toNat / 16 = 4 then 3 else 2)
  | .tableSoft addr => some (cHomeSoft, addr, 0, 3)
  | _ => none

/-- The answer to a request whose walk ends in a fault (R390). -/
def walkAnswer (code : BitVec 8) (addr : Word) : Answer := if code = cHomeSoft then .tableSoft addr else .faulted code addr 0

/-! ### Read-modify-write at a home (R177 to R179) -/

/-- FP32 or FP64 addition at a home: RNE, subnormals kept, canonical NaN (R177, R259). DEDUCED (log 74). -/
def homeAdd (f : Fmt) (a b : Nat) : Nat := (fAdd f .rne false (unpack f a) (unpack f b)).1

/-- The new memory value of an atomic of a width in bits (R159, R177 to R179). -/
def atomicValue (op : AtomOp) (w : Nat) (m v e : Nat) : Nat :=
  let sm := (BitVec.ofNat w m).toInt
  let sv := (BitVec.ofNat w v).toInt
  match op with
  | .add => (m + v) % 2 ^ w
  | .swap => v
  | .and => m &&& v
  | .or => m ||| v
  | .xor => m ^^^ v
  | .min => if sm ≤ sv then m else v
  | .max => if sm ≤ sv then v else m
  | .minu => min m v
  | .maxu => max m v
  | .addf => homeAdd (if w = 64 then fp64 else fp32) m v
  | .cas => if m = e then v else m

/-- Element width in bytes of an add function (R259). -/
def addWidth : AddFormat → Nat
  | .i32 | .f32 => 4
  | .i64 | .f64 => 8
  | .bf16 => 2

/-- One element add (R259). -/
def addElement (f : AddFormat) (m v : Nat) : Nat :=
  match f with
  | .i32 => (m + v) % 2 ^ 32
  | .i64 => (m + v) % 2 ^ 64
  | .f32 => homeAdd fp32 m v
  | .f64 => homeAdd fp64 m v
  | .bf16 => homeAdd bf16 m v

/-- One element update of `SREDUCE` (R259, R296). -/
def reduceElement (f : AddFormat) (op : BitVec 2) (m v : Nat) : Nat :=
  let most := op == 1
  let int (w : Nat) : Nat := if decide ((BitVec.ofNat w m).toInt ≤ (BitVec.ofNat w v).toInt) == most then v else m
  if op = 0 then addElement f m v
  else match f with
    | .i32 => int 32
    | .i64 => int 64
    | .f32 => (fMinMax fp32 false most m v).1
    | .f64 => (fMinMax fp64 false most m v).1
    | .bf16 => (fMinMax bf16 false most m v).1

/-- Element updates over bytes. -/
def reduceBytes (f : AddFormat) (op : BitVec 2) (old new : List Byte) : List Byte :=
  let w := addWidth f
  ((groups w old).zip (groups w new)).flatMap fun (m, v) => leBytes (reduceElement f op (leNat m) (leNat v)) w

/-- Element adds over bytes. -/
def addBytes (f : AddFormat) (old new : List Byte) : List Byte :=
  let w := addWidth f
  ((groups w old).zip (groups w new)).flatMap fun (m, v) => leBytes (addElement f (leNat m) (leNat v)) w

/-- The capability bit that a request needs at its target (R263, R405). -/
def Req.capability (r : Req) : List Nat :=
  (match r.op with
   | .addEach .i32 | .addEach .i64 => [0]
   | .addEach .f32 | .addEach .f64 => [1]
   | .addEach .bf16 => [2]
   | .atomic .addf _ _ _ => if r.dest = .none then [1] else [5]
   | .atomic _ _ _ _ => if r.dest = .none then [0] else [5]
   | _ => [])
  ++ (match r.arrival with | .tile _ _ => [4] | _ => [])

/-- This device's own capability word: all ones in [7:0] and NIREV 2 (R263). -/
def ownCapability : Word := 0x2FF

/-! ### Completion -/

/-- The register value of loaded stored bytes (R68, R105, R159). -/
def loadValue (nanpay : Bool) (f : LoadForm) (data : List Byte) : Word :=
  let c : WinCtx := ⟨0x3F80, false, nanpay⟩
  let v := if f.win = 0 then leNat data else decodeWide c f.win.toNat (leNat data)
  match f.kind with
  | .lb => (BitVec.ofNat 8 v).signExtend 64
  | .lh => (BitVec.ofNat 16 v).signExtend 64
  | .lw => (BitVec.ofNat 32 v).signExtend 64
  | .ld => BitVec.ofNat 64 v
  | .lbu => (BitVec.ofNat 8 v).zeroExtend 64
  | .lhu => (BitVec.ofNat 16 v).zeroExtend 64
  | .lwu => (BitVec.ofNat 32 v).zeroExtend 64

/-- The old value of an atomic as a register takes it. -/
def atomWord (dbl : Bool) (data : List Byte) : Word :=
  if dbl then BitVec.ofNat 64 (leNat data) else (BitVec.ofNat 32 (leNat data)).signExtend 64

/-- One fill of a saved image (R231): the value, its full bit, and, for a fill that the image counts, PENDING one less. It is
not decreased below 0. DESIGN CHOICE (log 108). -/
def State.fillImage (s : State) (core off slotOff bit : Nat) (v : Word) (counted : Bool) : State :=
  let key := spadKey core off
  let full := leNat (Memory.readBytes s.mem (key + 320) 8)
  let pend := (Memory.read s.mem (key + 640 + 1024 + 5)).toNat
  let s := s.writeAt (key + slotOff) (leBytes v.toNat 8)
  let s := s.writeAt (key + 320) (leBytes (if full / 2 ^ bit % 2 = 1 then full else full + 2 ^ bit) 8)
  if counted then s.writeAt (key + 640 + 1024 + 5) [BitVec.ofNat 8 (pend - 1)] else s

/-- Whether fills of a hart's registers are held in the NI: the hart drains or saves its image (R231). -/
def Hart.holdsFills (v : Hart) : Bool :=
  v.st == .saving || (match v.job with | .save _ | .migrate => v.st == .running || v.st == .parked | _ => false)

/-- A value held in the NI until the image of its hart is complete (R231): the answer to a read. -/
def State.heldFill (s : State) (h : HartRef) (dest : Dest) (v : Word) : State :=
  s.addReq { s.hartReq h with op := .read 8, dest := dest, stage := .answered (.done (leBytes v.toNat 8)) }

/-- Fills a register of a hart, or of the image the request is tagged with. -/
def State.fillRegister (s : State) (r : Req) (h : HartRef) (x : Reg) (v : Word) : State :=
  match r.image with
  | some (core, off) => if x = 0 then s else s.fillImage core off (8 * x.toNat) x.toNat v true
  | none => if (s.hart h).holdsFills then s.heldFill h (.xreg x true) v else s.setHart h ((s.hart h).fill x v)

/-- The value of a request fills its destination (R120, R231); a NaN read through W2 is decoded with the NANPAY of now (R105).
DESIGN CHOICE (log 96). -/
def State.fillDest (s : State) (r : Req) (data : List Byte) : State :=
  match r.dest, r.src with
  | .load rd f, .hart h => s.fillRegister r h rd (loadValue (bitOf (s.hart h).csr.compat 2) f data)
  | .xreg rd dbl, .hart h => s.fillRegister r h rd (atomWord dbl data)
  | .qreg q, .hart h =>
    (match r.image with
     | some (core, off) => s.fillImage core off (256 + 8 * q.toNat) (32 + q.toNat) (BitVec.ofNat 64 (leNat data)) false
     | none =>
       if (s.hart h).holdsFills then s.heldFill h (.qreg q) (BitVec.ofNat 64 (leNat data))
       else s.setHart h ((s.hart h).fillQ q (BitVec.ofNat 64 (leNat data))))
  | .fetch line, .hart h =>
    let v := s.hart h
    if v.fetching ≠ some r.id then s
    else s.setHart h { v with
      fetching := none, fetched := some line
      lines := (line, BitVec.ofNat 512 (leNat data)) :: v.lines.filter fun l => l.1 != line }
  | .staged a _, src => { s with staged := s.staged ++ [(src, a, .inl data)] }
  | _, .host => { s with hostRead := data }
  | _, _ => s

/-- A request leaves: nothing waits for it any longer, its put window counts it, and a trigger of NI whose last request it
was completes with 0 (R261, R262). -/
def State.finishReq (s : State) (r : Req) : State :=
  let count (s : State) (w : Nat) : State := s.countWindow r.ctx (some w) fun w => { w with acked := w.acked + 1 }
  let s := r.windows.foldl count (s.dropReq r.id)
  match r.src with
  | .engine h .ni seq _ =>
    if (s.ofTrigger h .ni seq).isEmpty then s.setHart h ((s.hart h).fillResult .ni seq 0) else s
  | .copyList core seq h _ =>
    if (s.ofList core h seq).isEmpty then
      let c := s.core core
      s.setCore core { c with ending := c.ending.filter fun l => !(l.t.h == h && l.t.seq == seq) }
    else s
  | _ => s

/-- A trigger of a hart faults (R365): its record is found, its ring entry and latch tell, and what is left of it in the
NI is dropped. DEDUCED (log 52). -/
def State.faultTrigger (s : State) (h : HartRef) (u : EngineUnit) (seq fn code : BitVec 8) (source : Nat) (addr : Word)
    (detail : BitVec 16) : State :=
  let s := s.setHart h ((s.hart h).faultTrigger u seq code)
  s.raise (dieOf h.core) (s.hartRecord h code source (some (u, seq, fn)) addr detail none)

/-- The window entry of a slot, by its number. -/
def Slot.entry? (v : Slot) (n : Nat) : Option Entry := v.window.find? (fun e => e.n == n)

/-- Replaces a window entry. -/
def Slot.setEntry (v : Slot) (e : Entry) : Slot := { v with window := v.window.map fun x => if x.n = e.n then e else x }

/-- A fault of a request of a hart that goes to a record, which becomes pending and settles the request as it is written (R366, R367,
R389). -/
def State.recordFault (s : State) (r : Req) (code : BitVec 8) (addr : Word) (detail : BitVec 16) (source : Nat) : State :=
  let h := r.src.hart?.getD ⟨r.core, 0⟩
  let trigger := match r.src with
    | .engine _ u seq fn => some (u, seq, fn)
    | .copyList core seq h n =>
      some (.ce, seq, (((s.core core).lists.find? fun l => l.t.h == h && l.t.seq == seq).bind fun l => (l.cmds.find? fun c => c.n == n).map (·.kind)).getD 0)
    | _ => none
  let f := s.hartRecord h code source trigger addr detail (some r.id)
  let (unit, seq, fn) := match trigger with | some (u, q, f) => (unitCode u, q, f) | none => (0, 0, 0)
  let f := { f with w0 := recordWord0 code source seq unit fn (r.ctx.getD 0) r.asid }
  (s.setReq { r with stage := .recorded code }).raise (dieOf r.core) { f with hart := if (s.hart h).st = .off then none else some h }

end Sys2Proof.Machine
end

