-- ==== Sys2Proof/Machine/CoreRegs.lean ====
section
/-! DEFINITION. The scratchpad of a core as its agents write it, the flag watch, and the tables and registers of local
core space (R36, R41, R42, R48, R64, R72, R77 to R79, R113, R166). -/

namespace Sys2Proof.Machine

/-- Whether a count is reached (R77). -/
def flagReached (word target : Nat) : Bool := decide ((word + 2 ^ 48 - target % 2 ^ 48) % 2 ^ 48 < 2 ^ 47)

/-- The 8-byte word at a scratchpad offset. -/
def State.spadWord (s : State) (core off : Nat) : Nat := leNat (Memory.readBytes s.mem (spadKey core off) 8)

/-- A list held in WAIT goes on from the next die cycle once its word, which may be named through selector 0x9, is reached
(R65, R255). -/
def State.evalWait (s : State) (core : Nat) (l : CeList) : CeList :=
  match l.waiting, l.cmds.getLast? with
  | true, some c =>
    let off := match s.place core c.f.src with | some (.spad _ off _) => off | _ => 0
    if flagReached (s.spadWord core off) (c.f.dst.toNat % 2 ^ 48) then { l with waiting := false, from_ := s.coreCycle core + 1 }
    else l
  | _, _ => l

/-- Every valid watch entry of a core and every list held in WAIT is tested on its word, and cleared where the test holds
(R78, R171, R255); a cleared entry keeps its OFF and TARGET. DESIGN CHOICE (log 94). -/
def State.evalWatch (s : State) (core : Nat) : State :=
  let c := s.core core
  if c.watch.toList.any (·.valid) || c.lists.any (·.waiting) then
    let clear (w : Vector Watch 16) (i : HartId) : Vector Watch 16 :=
      if w[i].valid && flagReached (s.spadWord core w[i].off.toNat) w[i].target.toNat
      then w.set i { w[i] with valid := false } else w
    s.setCore core { c with watch := (List.finRange 16).foldl clear c.watch, lists := c.lists.map (s.evalWait core) }
  else s

/-- A write of scratchpad bytes by any agent, after which the core tests its watch entries (R78, R171). -/
def State.writeSpad (s : State) (core off : Nat) (b : List Byte) : State := (s.writeAt (spadKey core off) b).evalWatch core

/-- A write at keys that may lie in scratchpads. -/
def State.writeCells (s : State) (cores : List Nat) (cells : List (Nat × Byte)) : State :=
  cores.foldl (fun s c => s.evalWatch c) (s.writeKeys cells)

/-! ### Reading the tables and registers -/

/-- Code of a tile state (R72). -/
def tileCode : TileState → Nat
  | .empty => 0 | .filling => 1 | .ready => 2 | .draining => 3

/-- A word of a tile entry (R72). -/
def tileWord (t : Tile) (high : Bool) : Word :=
  if high then BitVec.ofNat 64 (t.expect.toNat + 2 ^ 16 * t.arrived.toNat + 2 ^ 32 * t.gen.toNat)
  else BitVec.ofNat 64 (t.base.toNat + 2 ^ 18 * t.win.toNat + 2 ^ 32 * t.lines.toNat + 2 ^ 48 * tileCode t.st)

/-- A word of a flag-watch entry (R78). -/
def watchWord (w : Watch) (high : Bool) : Word :=
  if high then w.target.zeroExtend 64 else BitVec.ofNat 64 (w.off.toNat + (if w.valid then 2 ^ 63 else 0))

/-- Code of a hart state (R29). -/
def hartCode : HartState → Nat
  | .off => 0 | .running => 1 | .parked => 2 | .saving => 3 | .loading => 4 | .held => 5

/-- HSTATE (R42). -/
def hstateWord (c : Core) : Word :=
  BitVec.ofNat 64 (c.harts.toList.foldr (fun h acc => hartCode h.st + 8 * acc) 0)

/-- CORECTL (R41). -/
def corectlWord (c : Core) : Word :=
  BitVec.ofNat 64 ((if c.autostart then 1 else 0) + (c.automask.toNat / 2 * 2) + 2 ^ 16 * c.autoprio.toNat)

/-- TQSTAT (R48). -/
def tqstatWord (c : Core) : Word :=
  let n (f : Task → Bool) : Nat := (c.tasks.filter f).length
  BitVec.ofNat 64 (c.tasks.length + 2 ^ 8 * n (·.prio == 0) + 2 ^ 16 * n (·.prio == 1) + 2 ^ 24 * n (·.prio == 2)
    + 2 ^ 32 * n (·.prio == 3) + 2 ^ 40 * n (·.part == .stream) + 2 ^ 48 * n (·.part == .resume))

/-- FWSTAT (R79). -/
def fwstatWord (c : Core) : Word :=
  BitVec.ofNat 64 (c.fwLastOff.toNat + 2 ^ 32 * c.fwCount.toNat + (if c.fwPend then 2 ^ 63 else 0))

/-- A k-register as a read in a die cycle sees it: a write of the cycle before is not seen yet (R36). -/
def Core.readK (c : Core) (k : Fin 8) (cycle : Nat) : Word :=
  match c.kSettle.find? (fun w => w.k == k.val && decide (cycle ≤ w.cycle + 1)) with
  | some w => w.old
  | none => c.k[k]

/-- A write of a k-register in a die cycle (R36). -/
def Core.writeK (c : Core) (k : Fin 8) (v : Word) (cycle : Nat) : Core :=
  { c with
    k := c.k.set k v
    kSettle := ⟨k.val, c.k[k], cycle⟩ :: c.kSettle.filter (fun w => w.k != k.val && decide (cycle ≤ w.cycle + 1)) }

/-- The core register at an offset of region 2 (R166). -/
def Core.readRegister (c : Core) (off cycle : Nat) : Word :=
  if 0x80 ≤ off then c.readK (Fin.ofNat 8 ((off - 0x80) / 8)) cycle
  else match off / 8 with
    | 0 => corectlWord c
    | 1 => hstateWord c
    | 2 => tqstatWord c
    | 3 => fwstatWord c
    | 4 => c.numevt
    | n => c.cgrp[(n - 5) % 4]'(Nat.mod_lt _ (by decide))

/-- A store to CORECTL (R41). -/
def Core.writeCorectl (c : Core) (v : Word) : Core :=
  { c with autostart := bitOf v 0, automask := v.extractLsb' 0 16 &&& 0xFFFE, autoprio := v.extractLsb' 16 2 }

/-- A store to FWSTAT (R79): PEND is cleared by 1, and COUNT with it. -/
def Core.writeFwstat (c : Core) (v : Word) : Core := if bitOf v 63 then { c with fwPend := false, fwCount := 0 } else c

/-- A store to a core register other than CORECTL (R166): read-only registers ignore it. -/
def Core.writeRegister (c : Core) (off : Nat) (v : Word) (cycle : Nat) : Core :=
  if 0x80 ≤ off then c.writeK (Fin.ofNat 8 ((off - 0x80) / 8)) v cycle
  else match off / 8 with
    | 0 => c.writeCorectl v
    | 3 => c.writeFwstat v
    | 4 => { c with numevt := v }
    | _ => c

/-- A store to a core register by a hart: CORECTL takes it from hart 0 only, and any other hart traps with COREREG
(R41, R166). -/
def State.storeCorectl (s : State) (v : Word) : State :=
  if s.cur.hart = 0 then (s.setMyCore (s.myCore.writeCorectl v)) else s.trapCode 0x0D 0

end Sys2Proof.Machine
end

