-- ==== Sys2Proof/Machine/Completion.lean ====
section
/-! DEFINITION. The completion of triggers of VA, VS, CV and LS after their fixed latencies (R35, R119, R202, R208, R223,
R365, R377). -/

namespace Sys2Proof.Machine

/-- The 64 bytes that a load function delivers from its stored bytes (R223), and its events: a half of a W5 unit counts those of all of
it. DESIGN CHOICE (log 107). -/
def lsDelivered (fn : BitVec 8) (win : Nat) (c : WinCtx) (b : List Byte) : List Byte × Events :=
  let (d, ev) := windowRead c win b
  if fn = 1 then (d.take 64, ev) else if fn = 2 then (d.drop 64, ev) else (d, ev)

/-- The result of a unit with a fixed latency fills, an LS access performing first. A poisoned byte faults the trigger
(R365, R377). -/
def State.fillFlight (s : State) (h : HartRef) (f : Flight) : State :=
  match f.access with
  | .none => s.setHart h ((s.hart h).fillResult f.unit f.seq f.result)
  | .store cells =>
    let s := s.writeCells [h.core] cells
    s.setHart h ((s.hart h).fillResult f.unit f.seq 0)
  | .load fn win off n bandsc compat =>
    let keys := (List.range n).map fun i => spadKey h.core (off + i)
    if s.anyPoisoned keys then
      s.faultTrigger h .ls f.seq f.fn cHomeSoft 1 (BitVec.ofNat 64 (2 ^ 63 + win * 2 ^ 18 + off)) 0
    else
      let (d, ev) := lsDelivered fn win (WinCtx.of bandsc compat) (s.readKeys keys)
      let s := s.setCore h.core ((s.core h.core).countEvents ev)
      s.setHart h ((s.hart h).fillResult f.unit f.seq (BitVec.ofNat 512 (leNat d)))

/-- Whether a unit completes after a fixed latency (R208). -/
def fixedLatency : EngineUnit → Bool
  | .va | .vs | .cv | .ls => true
  | _ => false

/-- The triggers of a core whose latency has passed, each with the time of its result: one of the present die cycle follows the
slot of that cycle (R121). -/
def State.dueOf (s : State) (core : Nat) (c : Core) : List (Nat × HartRef × Flight) :=
  let now := s.coreCycle core
  let last := if s.slotPending core then now else now + 1
  (List.finRange 16).flatMap fun (i : HartId) =>
    (c.harts[i].flights.filter fun f => fixedLatency f.unit && decide (f.due < last)).map fun f =>
      (s.cycleTime (dieOf core) f.due, ⟨core, i⟩, f)

/-- Puts a result into a list in order of time. -/
def insertDue (x : Nat × HartRef × Flight) : List (Nat × HartRef × Flight) → List (Nat × HartRef × Flight)
  | [] => [x]
  | y :: l => if x.1 < y.1 then x :: y :: l else y :: insertDue x l

/-- Every trigger whose latency has passed completes, in order of time (R208). -/
def State.settle (s : State) : State :=
  let all := s.cores.flatMap fun (c, v) => s.dueOf c v
  (all.foldl (fun (l : List (Nat × HartRef × Flight)) (x : Nat × HartRef × Flight) => insertDue x l) []).foldl
    (fun (s : State) (x : Nat × HartRef × Flight) => s.fillFlight x.2.1 x.2.2) s

end Sys2Proof.Machine
end

