-- ==== Sys2Proof/Machine/Slot.lean ====
section
/-! DEFINITION. What a hart does in its own slot: deferred faults, interrupts, upcalls, the fetch and the decode of its
instruction (R30 to R34, R63, R361, R363, R364, R367, R410). -/

namespace Sys2Proof.Machine

/-! ### Interrupts and deferred faults -/

/-- mip as the hart reads it: bit 17 is the flag-wake interrupt, which arises only at hart 0 (R79, R161). -/
def State.mipOf (s : State) (h : HartRef) : Word :=
  setBit (s.hart h).csr.mip 17 (h.hart == 0 && (s.core h.core).fwPend)

/-- Whether a trap that may be delegated is enabled: the hart runs below the target mode, or in it with its global
interrupt enable set (R161, R363). -/
def Hart.trapEnabled (h : Hart) (delegated : Bool) : Bool :=
  if delegated then h.mode == .user || (h.mode == .supervisor && bitOf h.csr.mstatus 1)
  else h.mode != .machine || bitOf h.csr.mstatus 3

/-- The interrupt that is due: pending, enabled in mie and globally, 17 before 16 (R161, R364). -/
def State.interruptDue (s : State) (h : HartRef) : Option Nat :=
  let v := s.hart h
  [17, 16].find? fun c =>
    bitOf (s.mipOf h) c && bitOf v.csr.mie c && v.trapEnabled (bitOf v.csr.mideleg c)

/-- Whether an interrupt is pending and enabled in mie, whatever the global enables (R161). -/
def State.interruptPending (s : State) (h : HartRef) : Bool :=
  (s.mipOf h &&& (s.hart h).csr.mie) &&& 0x30000#64 != 0

/-- The oldest pending fault, where its trap is enabled (R363). -/
def State.faultPending (s : State) (h : HartRef) : Option PendingFault :=
  let v := s.hart h
  v.pending.head?.filter fun f => v.trapEnabled (bitOf v.csr.medeleg f.cause)

/-- The deferred fault that is due: the oldest, two die cycles after its record was written, its trap enabled (R363). -/
def State.faultDue (s : State) (h : HartRef) : Option PendingFault :=
  (s.faultPending h).filter fun f => decide (f.written + 2 ≤ s.coreCycle h.core)

/-- The upcall that is due: none is running, xupvec.BASE is not 0, and the core has a free reservation (R367). -/
def State.upcallDue (s : State) (h : HartRef) : Option Upcall :=
  let v := s.hart h
  match v.upcalls with
  | [] => none
  | u :: _ =>
    if !bitOf v.csr.upstat 0 && v.csr.upvec != 0 && (v.upReserved || decide ((s.core h.core).reservations < 8)) && v.mode == .user
    then some u else none

/-- Whether the hart must be HELD for want of a reservation (R367, R374). -/
def State.upcallHeld (s : State) (h : HartRef) : Bool :=
  let v := s.hart h
  !v.upcalls.isEmpty && !bitOf v.csr.upstat 0 && v.csr.upvec != 0 && !v.upReserved && v.mode == .user
    && decide (8 ≤ (s.core h.core).reservations)

/-- The fault that waits for an upcall and finds xupvec.BASE 0 as its turn comes (R367). -/
def State.upcallLost (s : State) (h : HartRef) : Option Upcall :=
  let v := s.hart h
  if !bitOf v.csr.upstat 0 && v.csr.upvec == 0 then v.upcalls.head? else none

/-- A hart in `wfi` completes it as it wakes (R31, R161). -/
def Hart.leavePark (h : Hart) : Hart :=
  match h.wait with
  | .interrupt => { h.advance with wait := .none }
  | _ => { h with wait := .none }

/-- Device-register address of a record (R363, R371). -/
def recordAddress (d : DieId) (index : Nat) : Word :=
  BitVec.ofNat 64 (0xC * 2 ^ 60 + d.val * 2 ^ 28 + 0x300000 + 32 * index)

/-- Sets TAKEN in a record (R363). -/
def Die.markTaken (v : Die) (index : Nat) : Die :=
  match tableGet v.records index with
  | some (a, b) => { v with records := tableSet v.records index (setBit a 13 true, b) }
  | none => v

/-- The watch entry of a hart that leaves the park of `fwait` is no longer valid (R78). -/
def State.unwatch (s : State) (h : HartRef) : State :=
  let c := s.core h.core
  if (c.watch[h.hart]).valid then
    let w := c.watch.set h.hart { c.watch[h.hart] with valid := false }
    s.setCore h.core { c with watch := w }
  else s

/-- Takes the oldest pending fault as a trap (R363). -/
def State.takeDeferred (s : State) (h : HartRef) (f : PendingFault) : State :=
  let s := s.unwatch h
  let d := dieOf h.core
  let v := (s.hart h).leavePark
  let v := { v with pending := v.pending.drop 1 }
  (s.setDie d ((s.die d).markTaken f.record)).setHart h
    (v.takeTrap false f.cause (recordAddress d f.record) v.pc s.refTime)

/-- Takes an interrupt (R32, R161); mip bit 16 stays until software clears it (R425). -/
def State.takeInterrupt (s : State) (h : HartRef) (c : Nat) : State :=
  let s := s.unwatch h
  let v := (s.hart h).leavePark
  s.setHart h (v.takeTrap true c 0 v.pc s.refTime)

/-- Enters the upcall handler, with a reservation of the resumption partition (R367). -/
def State.enterUpcall (s : State) (h : HartRef) (u : Upcall) : State :=
  let s := s.unwatch h
  let v := (s.hart h).leavePark
  let v := (v.moveTo .running s.refTime)
  let reserved := v.upReserved
  let v := { v with
    upcalls := v.upcalls.drop 1, upReserved := true, resv := none, lr := none, fetching := none, fetched := none, rewrites := none, pc := v.csr.upvec &&& ~~~ 3#64,
    csr := { v.csr with upepc := v.pc, upcause := u.code.zeroExtend 64, upval := u.addr, upstat := setBit v.csr.upstat 0 true } }
  let s := s.setHart h v
  if reserved then s
  else s.setCore h.core { s.core h.core with reservations := (s.core h.core).reservations + 1 }

/-! ### Waking (R30, R31) -/

/-- Whether the condition that a parked hart awaits holds. -/
def State.waitHolds (s : State) (h : HartRef) : Bool :=
  let v := s.hart h
  match v.wait with
  | .none => true
  | .xreg r => v.isFull r
  | .qreg q => v.qIsFull q
  | .tile n => ((s.core h.core).tiles[n.toNat]'(n.isLt)).st == .ready
  | .flag => !((s.core h.core).watch[h.hart]).valid
  | .interrupt => s.interruptPending h
  | .barrier => v.arrived.isNone
  | .latch p => !v.emptyResult true p
  | .limit u => decide (v.inFlight u < inFlightLimit u)
  | .pop n => decide (n ≤ s.poppable h.core)
  | .push n => s.pushable h n
  | .arrival => v.arrived.isNone
  | .drain => v.flights.isEmpty

/-- Whether a parked hart wakes: its condition holds, or a fault is pending whose trap is enabled, or an interrupt or an upcall is due
(R30, R363, R364). -/
def State.wakes (s : State) (h : HartRef) : Bool :=
  s.waitHolds h || (s.interruptDue h).isSome || (s.faultPending h).isSome || (s.upcallDue h).isSome

/-- Wakes a parked hart (R31): it issues in the first of its slots at least 2 die cycles later. `wfi` completes, in that
slot unless a trap is taken there (R32, R161, R429); every other parking instruction re-executes. -/
def State.wake (s : State) (h : HartRef) : State :=
  let v := s.hart h
  let from_ := s.coreCycle h.core + 2
  let trap := (s.interruptDue h).isSome || (s.faultPending h).isSome || (s.upcallDue h).isSome
  let w := (v.moveTo .running s.refTime).leavePark
  let w := { w with issueFrom := if v.wait = .interrupt ∧ !trap then firstSlot h.hart from_ + 1 else from_ }
  (s.unwatch h).setHart h w

/-! ### Fetch (R63, R199, R361, R410) -/

/-- What a fetch gives. -/
inductive Fetched
  | word (w : BitVec 32)
  | trap (cause : Nat)
  /-- The line is on its way from another device. -/
  | waiting
  deriving DecidableEq, Repr

/-- The address that a hart fetches for a PC through its context's overlay table (R199). -/
def State.overlaid (s : State) (core : Nat) (pc : Word) : Word :=
  match s.ctxOf core with
  | some c => match c.overlays.find? (fun o => o.1 == pc &&& ~~~ 0xFFFF#64) with
    | some o => o.2 ||| (pc &&& 0xFFFF#64)
    | none => pc
  | none => pc

/-- The word at an address within a line. -/
def lineWord (line : Wide) (a : Nat) : BitVec 32 := BitVec.ofNat 32 (lane 32 line (a % 64 / 4))

/-- The cause of a fetch fault: 12 for a translation code, 1 for every other (R361). -/
def fetchCause (code : BitVec 8) : Nat := if code.toNat / 16 = 4 then 12 else 1

/-- A fetch that the NI sends for, by the PC of its line; it waits for room in the outbound queue (R264). -/
def State.sendFetch (s : State) (h : HartRef) (pc va : Nat) : State :=
  let v := s.hart h
  if s.niFull h.core then s
  else
    let r := { s.hartReq h with
      addr := BitVec.ofNat 64 (va / 64 * 64), op := .read 64, dest := .fetch (pc / 64 * 64), waits := s.outstanding v.holdAll }
    (s.addReq r).setHart h { v with fetching := some s.nextId }

/-- A fetch from memory: the line's bytes where this device owns the region and none of its chunks is on the move, or a request to
the owner (R63, R85, R87, R361). DEDUCED (log 22). -/
def State.fetchLine (s : State) (h : HartRef) (pc va : Nat) : State × Fetched :=
  let v := s.hart h
  let line := pc / 64 * 64
  if !v.mapped then (s, .trap 12)
  else
    match s.ownerFor h.core v.asid va with
    | (s, .inl c) => (s, .trap (fetchCause c))
    | (s, .inr (device, die)) =>
      let held := s.routeHeld { s.hartReq h with addr := BitVec.ofNat 64 (va / 64 * 64), op := .read 64 }
      if device ≠ s.device.toNat ∨ (s.regionState die v.asid va).isSome ∨ held ∨ !s.routeOpen (dieOf h.core) die then
        (s.sendFetch h pc va, .waiting)
      else match s.agentTranslate die v.asid va 4 ⟨v.mode == .user, false, false, true⟩ (clusterRow h.core) with
        | (s, .fault c) => (s, .trap (fetchCause c))
        | (s, .away _ _) => (s.sendFetch h pc va, .waiting)
        | (s, .keys k) =>
          let base := k.headD 0 - va % 64
          if s.anyPoisoned ((List.range 64).map (base + ·)) then (s, .trap 1)
          else
            let v := s.hart h
            let w := BitVec.ofNat 512 (leNat (Memory.readBytes s.mem base 64))
            (s.setHart h { v with lines := ((line, w) :: v.lines.filter (fun l => l.1 != line)).take 4 },
             .word (lineWord w va))

/-- The fetch of a hart at its PC. A line it has prefetched, by the PC, may serve it until `fence.i` (R63, R128, R199; log 11); one
that has come for this instruction serves it. -/
def State.fetch (s : State) (h : HartRef) : State × Fetched :=
  let v := s.hart h
  let pc := v.pc.toNat
  if field v.pc 57 7 ≠ 0 then (s, .trap 1)
  else
    let va := (s.overlaid h.core v.pc).toNat
    match v.lines.find? (fun l => l.1 == pc / 64 * 64) with
    | some l =>
      if v.fetched = some (pc / 64 * 64) then (s.setHart h { v with fetched := none }, .word (lineWord l.2 pc))
      else
        let s' := { s with freeCtr := s.freeCtr + 1 }
        if Config.usesPrefetched s.freeCtr then (s', .word (lineWord l.2 pc)) else s'.fetchLine h pc va
    | none => s.fetchLine h pc va

/-- A fetch that waits for another device: still on its way, or faulted at the home (R361). -/
def State.fetchWaits (s : State) (h : HartRef) (id : Nat) : State :=
  let v := s.hart h
  match s.req? id with
  | some r => match r.stage with
    | .answered a => (match answerFault a with
      | some (code, _) =>
        (s.dropReq id).setHart h ({ v with fetching := none }.takeTrap false (fetchCause code) v.pc v.pc s.refTime)
      | none => s)
    | _ => s
  | none => s.setHart h { v with fetching := none }

/-- Whether `fence.i` still holds a hart's fetches: earlier writes have not completed (R128). -/
def State.fetchHeld (s : State) (v : Hart) : Bool := (v.fetchHold.bind s.req?).any fun r => !s.ready r

/-! ### The slot -/

/-- What a slot comes to: a state, or an instruction to execute in one. -/
inductive SlotResult
  | done (s : State)
  | run (s : State) (i : Instr)

/-- The slot of the issuing hart (R364): a pending deferred fault, an enabled interrupt, a pending upcall, or its
instruction, for which the fetch, a fetch breakpoint and the encoding are checked first (R414). -/
def State.slotOf (s : State) : SlotResult :=
  let h := s.cur
  let s := s.setMe { s.me.rewritten with issueFrom := s.coreCycle h.core + 1 }
  match s.faultDue h with
  | some f => .done (s.takeDeferred h f)
  | none =>
    match s.interruptDue h with
    | some c => .done (s.takeInterrupt h c)
    | none =>
      match s.upcallDue h with
      | some u => .done (s.enterUpcall h u)
      | none =>
        if s.upcallHeld h then .done (s.hold h)
        else if s.fetchHeld s.me then .done s
        else match s.me.fetching with
        | some id => .done (s.fetchWaits h id)
        | none =>
          match s.fetch h with
          | (s, .trap c) => .done (s.trap c s.me.pc)
          | (s, .waiting) => .done s
          | (s, .word w) =>
            if s.me.breaks 1 s.me.pc then .done (s.trap 3 s.me.pc)
            else match decodeCore w with
              | some i => .run { s with insn := w } i
              | none => .done ({ s with insn := w }.trap 2 (w.zeroExtend 64))

/-- The model time of a hart's next slot, if it issues or transfers in it and its die's clock runs. -/
def State.nextSlot (s : State) (h : HartRef) : Option Nat :=
  let v := s.hart h
  let d := dieOf h.core
  let c := firstSlot h.hart (max v.issueFrom (s.cycle d))
  if v.usesSlot c && !(s.die d).halted then
    match (s.die d).haltAfter with
    | some last => if last < c then none else some (max s.time (s.cycleTime d c))
    | none => some (max s.time (s.cycleTime d c))
  else none

/-- The earliest next slot of the harts of a core: time and hart. -/
def State.earliestOf (s : State) (core : Nat) : List HartId → Option (Nat × HartRef)
  | [] => none
  | i :: rest =>
    match s.nextSlot ⟨core, i⟩, s.earliestOf core rest with
    | some t, some (u, h) => if t ≤ u then some (t, ⟨core, i⟩) else some (u, h)
    | some t, none => some (t, ⟨core, i⟩)
    | none, r => r

/-- The earliest next slot of all. -/
def State.earliest (s : State) : List (Nat × Core) → Option (Nat × HartRef)
  | [] => none
  | (c, _) :: rest =>
    match s.earliestOf c (List.finRange 16), s.earliest rest with
    | some (t, h), some (u, g) => if t ≤ u then some (t, h) else some (u, g)
    | some r, none => some r
    | none, r => r

/-- The time of the next slot of a RUNNING hart, which becomes the issuing hart; nothing where no hart issues. -/
def State.nextIssue (s : State) : Option State :=
  (s.earliest s.cores).map fun (t, h) => { s with time := t, cur := h }

end Sys2Proof.Machine
end

