-- ==== Sys2Proof/Machine/CsrFile.lean ====
section
/-! DEFINITION. The CSR file of a hart: which numbers exist, who may access them, and what a read and a write do
(R71, R80, R96, R103, R115, R161 to R165, R425). -/

namespace Sys2Proof.Machine

/-- A CSR held as it is written, under the mask of the bits that hold a value. -/
structure CsrCell where
  num : Nat
  mask : Word
  get : Csrs → Word
  put : Csrs → Word → Csrs

/-- Every bit of a CSR. -/
def allBits : Word := 0xFFFFFFFFFFFFFFFF

/-- The custom CSRs of one register each that the hart image holds, but xquantum, in image order (R162, R167). -/
def taskCells : List CsrCell :=
  [⟨0x800, 0xFF, (·.vfcsr), fun c v => { c with vfcsr := v }⟩,
   ⟨0x801, 0xFFFF, (·.bandsc), fun c v => { c with bandsc := v }⟩,
   ⟨0x802, 7, (·.compat), fun c v => { c with compat := v }⟩,
   ⟨0x803, 0x8000FFFFFFFFFFFF, (·.taskret), fun c v => { c with taskret := v }⟩]

/-- The upcall CSRs, in image order (R164, R167). -/
def upcallCells : List CsrCell :=
  [⟨0x5C1, 0xFFFFFFFFFFFFFFFC, (·.upvec), fun c v => { c with upvec := v }⟩,
   ⟨0x810, 0xFFFFFFFFFFFFFFFC, (·.upepc), fun c v => { c with upepc := v }⟩,
   ⟨0x811, 0xFF, (·.upcause), fun c v => { c with upcause := v }⟩,
   ⟨0x812, allBits, (·.upval), fun c v => { c with upval := v }⟩,
   ⟨0x813, 1, (·.upstat), fun c v => { c with upstat := v }⟩]

/-- SPBASEn and SPLIMn, in image order (R71, R167). END holds what is written. DESIGN CHOICE (log 93). -/
def regionCells : List CsrCell :=
  (List.finRange 8).flatMap fun (i : Fin 8) =>
    [⟨0x5D0 + i.val, 0x3FFFFFFFFFC0, fun c => c.spbase[i], fun c v => { c with spbase := c.spbase.set i v }⟩,
     ⟨0x5D8 + i.val, 0xB00000000007FFFF, fun c => c.splim[i], fun c v => { c with splim := c.splim.set i v }⟩]

/-- The standard CSRs of the image, in image order (R80, R161, R167); masks PRESUMED (log 5). -/
def standardCells : List CsrCell :=
  [⟨0x180, 0xFFFFF07FFFFFFFFF, (·.satp), fun c v => { c with satp := v }⟩,
   ⟨0x300, mstatusMask, (·.mstatus), fun c v => { c with mstatus := v }⟩,
   ⟨0x304, 0x30000, (·.mie), fun c v => { c with mie := v }⟩,
   ⟨0x344, 0x10000, (·.mip), fun c v => { c with mip := v }⟩,
   ⟨0x341, 0xFFFFFFFFFFFFFFFC, (·.mepc), fun c v => { c with mepc := v }⟩,
   ⟨0x342, allBits, (·.mcause), fun c v => { c with mcause := v }⟩,
   ⟨0x343, allBits, (·.mtval), fun c v => { c with mtval := v }⟩,
   ⟨0x105, 0xFFFFFFFFFFFFFFFD, (·.stvec), fun c v => { c with stvec := v }⟩,
   ⟨0x140, allBits, (·.sscratch), fun c v => { c with sscratch := v }⟩,
   ⟨0x141, 0xFFFFFFFFFFFFFFFC, (·.sepc), fun c v => { c with sepc := v }⟩,
   ⟨0x142, allBits, (·.scause), fun c v => { c with scause := v }⟩,
   ⟨0x143, allBits, (·.stval), fun c v => { c with stval := v }⟩]

/-- The CSRs that only the context template gives, in template order (R167, R336); masks PRESUMED (log 5). -/
def templateCells : List CsrCell :=
  [⟨0x305, 0xFFFFFFFFFFFFFFFD, (·.mtvec), fun c v => { c with mtvec := v }⟩,
   ⟨0x340, allBits, (·.mscratch), fun c v => { c with mscratch := v }⟩,
   ⟨0x302, 0x700B3FF, (·.medeleg), fun c v => { c with medeleg := v }⟩,
   ⟨0x303, 0x30000, (·.mideleg), fun c v => { c with mideleg := v }⟩,
   ⟨0x306, 7, (·.mcounteren), fun c v => { c with mcounteren := v }⟩,
   ⟨0x106, 7, (·.scounteren), fun c v => { c with scounteren := v }⟩]

/-- The breakpoint CSRs (R165). -/
def breakCells : List CsrCell :=
  (List.finRange 4).flatMap fun (i : Fin 4) =>
    [⟨0x7C0 + i.val, allBits, fun c => c.bpaddr[i], fun c v => { c with bpaddr := c.bpaddr.set i v }⟩,
     ⟨0x7C4 + i.val, 0xF, fun c => c.bpctl[i], fun c v => { c with bpctl := c.bpctl.set i v }⟩]

/-- Every CSR held as written. -/
def csrCells : List CsrCell :=
  taskCells ++ upcallCells ++ regionCells ++ standardCells ++ templateCells ++ breakCells

/-- The cell of a CSR number. -/
def csrCell (n : Nat) : Option CsrCell := csrCells.find? (fun c => c.num == n)

/-- A value put into a CSR under its mask. -/
def CsrCell.store (f : CsrCell) (c : Csrs) (v : Word) : Csrs := f.put c (v &&& f.mask)

/-- misa (R161). -/
def misaValue : Word := 0x8000000000941101

/-- The bits of mstatus that sstatus shows: SIE, SPIE, SPP; PRESUMED (log 5). -/
def sstatusMask : Word := 0x122

/-- xquantum (R163). -/
def Hart.quantumWord (h : Hart) (now : Nat) : Word := BitVec.ofNat 32 (h.ticksCounted now) ++ h.csr.quantumLimit

/-- xhartid and mhartid (R161, R163): the hart's identity and the logical number of its core. -/
def State.hartId (s : State) (h : HartRef) : Word :=
  s.hartWord h ||| ((s.core h.core).lcore.zeroExtend 64 <<< 32)

/-- What a CSR reads as, or none for a number that does not exist (R161, R162; the standard machine information
registers read 0, PRESUMED, log 5). -/
def State.csrRead (s : State) (h : HartRef) (n : Nat) : Option Word :=
  let v := s.hart h
  if n = 0x804 ∨ n = 0xF14 then some (s.hartId h)
  else if n = 0x5C0 then some (v.quantumWord s.refTime)
  else if n = 0x301 then some misaValue
  else if n = 0x100 then some (v.csr.mstatus &&& sstatusMask)
  else if n = 0x104 then some (v.csr.mie &&& v.csr.mideleg)
  else if n = 0x144 then some (s.mipOf h &&& v.csr.mideleg)
  else if n = 0x344 then some (s.mipOf h)
  else if n = 0xC00 then some (BitVec.ofNat 64 (s.coreCycle h.core))
  else if n = 0xC01 then some (BitVec.ofNat 64 (s.cycleRef (dieOf h.core)))
  else if n = 0xC02 then some v.csr.instret
  else if n = 0xF11 ∨ n = 0xF12 ∨ n = 0xF13 then some 0
  else (csrCell n).map fun f => f.get v.csr

/-- Whether a hart's mode reaches a counter (R161). -/
def Hart.counterOpen (h : Hart) (bit : Nat) : Bool :=
  match h.mode with
  | .machine => true
  | .supervisor => bitOf h.csr.mcounteren bit
  | .user => bitOf h.csr.mcounteren bit && bitOf h.csr.scounteren bit

/-- Whether an access is permitted by R162 and the standard tables: the mode that the number's bits [9:8] ask for, no
write of a read-only number, none in U mode of the CSRs that U mode only reads, the counter enables, and TVM. -/
def State.csrPermitted (s : State) (h : HartRef) (n : Nat) (write : Bool) : Bool :=
  let v := s.hart h
  (s.csrRead h n).isSome && decide (bits n 8 2 ≤ v.mode.code.toNat)
  && !(write && (bits n 10 2 == 3 || n == 0x804 || (v.mode == .user && [0x802, 0x803, 0x811, 0x812, 0x813].contains n)))
  && (decide (n < 0xC00) || decide (0xC02 < n) || v.counterOpen (n - 0xC00))
  && !(n == 0x180 && v.mode == .supervisor && bitOf v.csr.mstatus 20)

/-- Bits of a word outside a mask kept from the old value. -/
def merge (mask old new : Word) : Word := (old &&& ~~~ mask) ||| (new &&& mask)

/-- The CSR fields that name a die other than die 0 hold 0: TDIE of satp and DIE of SPBASEn (R1, R71, R80). -/
def Csrs.oneDie (c : Csrs) : Csrs :=
  { c with satp := c.satp &&& ~~~ 0x6000000000, spbase := c.spbase.map (· &&& ~~~ 0x60000000) }

/-- The CSRs as a hart of this device holds them (R1). -/
def State.ownDies (s : State) (h : Hart) : Hart := if s.dieCount = 1 then { h with csr := h.csr.oneDie } else h

/-- A value written to a CSR, whose field that names a die other than die 0 holds 0 on a device of one die (R1). -/
def State.ownDie (s : State) (n : Nat) (v : Word) : Word :=
  if s.dieCount ≠ 1 then v
  else if n = 0x180 then v &&& ~~~ 0x6000000000
  else if 0x5D0 ≤ n ∧ n < 0x5D8 then v &&& ~~~ 0x60000000
  else v

/-- What a CSR write does (R80, R96, R161 to R165, R425). DEDUCED (log 38). -/
def Hart.csrWrite (h : Hart) (n : Nat) (v : Word) (now : Nat) : Hart :=
  let c := h.csr
  if n = 0x800 then
    let v := if 4 < field v 5 3 then merge 0xE0 v c.vfcsr else v
    { h with csr := { c with vfcsr := v &&& 0xFF } }
  else if n = 0x5C0 then
    { h with quantumCount := 0, quantumSince := now, csr := { c with quantumLimit := v.extractLsb' 0 32 } }
  else if n = 0x344 ∨ (n = 0x144 ∧ bitOf c.mideleg 16) then
    { h with csr := { c with mip := c.mip &&& v } }
  else if n = 0x180 then
    if field v 60 4 = 0 ∨ field v 60 4 = 14 then
      { h with csr := match csrCell 0x180 with | some f => f.store c v | none => c }
    else h
  else if n = 0x100 then { h with csr := { c with mstatus := merge sstatusMask c.mstatus v } }
  else if n = 0x104 then { h with csr := { c with mie := merge c.mideleg c.mie v &&& 0x30000 } }
  else if n = 0x300 then
    let v := if field v 11 2 = 2 then merge 0x1800 v c.mstatus else v
    { h with csr := { c with mstatus := v &&& mstatusMask } }
  else match csrCell n with
    | some f => { h with csr := f.store c v }
    | none => h

end Sys2Proof.Machine
end

