-- ==== Sys2Proof/Machine/Moves.lean ====
section
/-! DEFINITION. Moves between ports and registers (R204, R205, R418). -/

namespace Sys2Proof.Machine

/-- The value that the n-th pop of an instruction takes from the core's inbound queue. -/
def State.queueHead (s : State) (core n : Nat) : Wide := ((s.core core).qn.getD n (0, 0)).1

/-- The value of a source port; qn.up gives the queue entry that the instruction's n-th pop takes (R204, R224). -/
def State.readSource (s : State) (p : BitVec 6) (n : Nat) : Wide :=
  if p = 0x2A then s.queueHead s.cur.core n else s.me.readPort p

/-- A whole write of a destination port by the issuing hart; qn.dn pushes downstream (R200, R224). -/
def State.writeDest (s : State) (p : BitVec 6) (v : Wide) : State :=
  if p = 0x2B then s.pushQueue s.cur.core v else s.setMe (s.me.writePort p v)

/-- Two moves in one instruction: both sources are read first (R204). -/
def State.move2 (s : State) (sa da sb db : BitVec 6) : State :=
  let pops := ([sa, sb].filter (· == 0x2A)).length
  let va := s.readSource sa 0
  let vb := s.readSource sb (if sa = 0x2A then 1 else 0)
  let t := ((s.popQueue s.cur.core pops).writeDest da va).writeDest db vb
  s.decided (s.checkPorts s.cur [sa, sb] [da, db] [] []) (t.complete t.me)

/-- MOV2 (R204). -/
def execMov2 (b c a d : BitVec 6) (s : State) : Host.Outcome State Fault Refusal := .next (s.move2 a d b c)

/-- MOV (R204): `mov2` with dB = sB = 0x2C. -/
def execMov (a d : BitVec 6) (s : State) : Host.Outcome State Fault Refusal := .next (s.move2 a d 0x2C 0x2C)

/-- A lane of a port into an x-register, sign-extended (R205). -/
def State.moveOut (s : State) (p : BitVec 6) (w l : Nat) (rd : Reg) : State :=
  let x := (BitVec.ofNat w (lane w (s.me.readPort p) l)).signExtend 64
  s.decided (s.checkPorts s.cur [p] [] [] []) (s.complete (s.me.fill rd x))

/-- MVPX_D (R205). -/
def execMvpxD (p : BitVec 6) (l : BitVec 3) (d : BitVec 5) (s : State) : Host.Outcome State Fault Refusal :=
  .next (s.moveOut p 64 l.toNat d)

/-- MVPX_W (R205). -/
def execMvpxW (p : BitVec 6) (l : BitVec 4) (d : BitVec 5) (s : State) : Host.Outcome State Fault Refusal :=
  .next (s.moveOut p 32 l.toNat d)

/-- A register move into a port, once x[rs1] is full (R30, R205). -/
def State.moveIn (s : State) (a : Reg) (write : Hart → Word → Hart) : State :=
  match s.me.firstEmpty [a] with
  | some r => s.park (.xreg r)
  | none => s.complete (write s.me (s.me.readX a))

/-- MVXP_D (R201, R205). -/
def execMvxpD (p : BitVec 6) (l : BitVec 3) (a : BitVec 5) (s : State) : Host.Outcome State Fault Refusal :=
  .next (s.moveIn a fun h v => h.writeLane p 64 l.toNat v.toNat)

/-- MVXP_W (R201, R205). -/
def execMvxpW (p : BitVec 6) (l : BitVec 4) (a : BitVec 5) (s : State) : Host.Outcome State Fault Refusal :=
  .next (s.moveIn a fun h v => h.writeLane p 32 l.toNat v.toNat)

/-- MVBX_D (R205). -/
def execMvbxD (p : BitVec 6) (a : BitVec 5) (s : State) : Host.Outcome State Fault Refusal :=
  .next (s.moveIn a fun h v => h.writePort p (ofLanes 64 (List.replicate 8 v.toNat)))

/-- MVBX_W (R205). -/
def execMvbxW (p : BitVec 6) (a : BitVec 5) (s : State) : Host.Outcome State Fault Refusal :=
  .next (s.moveIn a fun h v => h.writePort p (ofLanes 32 (List.replicate 16 v.toNat)))

/-- MVIP (R205). -/
def execMvip (p : BitVec 6) (i : BitVec 5) (s : State) : Host.Outcome State Fault Refusal :=
  .next (s.complete (s.me.writePort p (ofLanes 32 (List.replicate 16 (i.signExtend 32).toNat))))

end Sys2Proof.Machine
end

