-- ==== Sys2Proof/Machine/Triggers.lean ====
section
/-! DEFINITION. What every trigger word does in its slot (R203, R206, R207, R414, R419). -/

namespace Sys2Proof.Machine

/-- The operand that a trigger's source brings to its unit, or none while it cannot be read: the operand latch itself, or
the value that the source moves into it (R206). -/
def State.triggerOperand (s : State) (u : EngineUnit) (p : BitVec 6) : Option Wide :=
  let w := portWidth (operandPort u)
  let v := s.me
  if p = 0x2A then if s.poppable s.cur.core = 0 then none else some (lowBits (s.queueHead s.cur.core 0) w)
  else if p = 0x2C ∨ (v.latch p).st = .full then some (lowBits (v.readPort p) w) else none

/-- A latch's value where it is full. -/
def Hart.fullLatch (h : Hart) (p : BitVec 6) : Option Wide :=
  match (h.latch p).st with
  | .full => some (h.latch p).val
  | _ => none

/-- The source move of a trigger (R206). -/
def State.sourceMove (s : State) (u : EngineUnit) (p : BitVec 6) : State :=
  if p = operandPort u then s
  else
    let v := s.readSource p 0
    (s.popQueue s.cur.core (if p = 0x2A then 1 else 0)).setMe (s.me.writePort (operandPort u) v)

/-- What a trigger's checks need: the latches its function requires, those it uses where they are full, and its operand
check of R419, which gives code and DETAIL, on the operand where it is readable. -/
structure TriggerNeeds where
  required : List (BitVec 6)
  optional : List (BitVec 6)
  operand : Option Wide → Option (BitVec 8 × BitVec 8)

/-- The decision on a trigger (R203, R414): a source result latch still to fill, a tile not READY, the operand checks, the
latch and queue states, and the in-flight limit, in this order; then the trigger, after its source move. -/
def State.trigger (s : State) (g : Trig) (u : EngineUnit) (n : TriggerNeeds) (tile : Option Wide → Option (BitVec 6))
    (perform : State → State) : State :=
  let own := g.port == operandPort u
  let v := s.me
  if !own && v.emptyResult true g.port then s.park (.latch g.port)
  else
    let a := s.triggerOperand u g.port
    match tile a with
    | some t => s.park (.tile t)
    | none =>
      match n.operand a with
      | some (code, detail) => s.trapCode code detail
      | none =>
        let required := if own then n.required else n.required.filter (· != operandPort u)
        let c := s.checkPorts s.cur (if own then [] else [g.port]) [] required n.optional
        let c := match c with
          | .ok => if inFlightLimit u ≤ v.inFlight u then PortCheck.park (.limit u) else .ok
          | c => c
        s.decided c (perform (s.sourceMove u g.port))

/-- TRIGORD on VA, VS, CV and LS (R207). -/
def unorderedOnly (g : Trig) : Option (BitVec 8 × BitVec 8) := if g.ord = 0 ∧ g.scope = 0 then none else some (0x0A, 0)

/-- A trigger of VA, VS or CV: its result and flags come from the operand latches after the source move, and its events
count at the core (R113, R114, R206, R208). DEDUCED (log 8). -/
def State.compute (s : State) (g : Trig) (u : EngineUnit) (fn : BitVec 8) (required optional : List (BitVec 6)) (latency : Nat)
    (f : Hart → Wide × FFlags × Events) : State :=
  s.trigger g u ⟨required, optional, fun _ => unorderedOnly g⟩ (fun _ => none) fun s =>
    let (r, fl, ev) := f s.me
    let s := s.setMyCore (s.myCore.countEvents ev)
    s.complete (s.me.startTrigger u fn (s.coreCycle s.cur.core + latency) r fl .none)

/-- xcompat.NANPAY and xvfcsr.RM of a hart at trigger time (R116). -/
def Hart.nanpay (h : Hart) : Bool := bitOf h.csr.compat 2
def Hart.rm (h : Hart) : Rm := Rm.ofCode (h.csr.vfcsr.extractLsb' 5 3)

/-- Function codes that a two-bit field completes. -/
def fnCode (base : Nat) (w : BitVec 2) : BitVec 8 := BitVec.ofNat 8 (base + w.toNat)

end Sys2Proof.Machine
end

