-- ==== Sys2Proof/Machine/VectorArith.lean ====
section
/-! DEFINITION. The unit VA: vector arithmetic (R210 to R214). -/

namespace Sys2Proof.Machine

/-- The lanes that va.m enables: all where it is empty (R210). -/
def Hart.vaMask (h : Hart) : Nat :=
  match h.fullLatch 0x13 with
  | some v => v.toNat
  | none => 2 ^ 64 - 1

/-- A lane operation on lanes of w bits of va.x, va.y and va.z: a disabled lane gives 0 and raises nothing (R210). -/
def Hart.vaLanes (h : Hart) (w : Nat) (op : Nat → Nat → Nat → Nat × FFlags) : Wide × FFlags × Events :=
  let m := h.vaMask
  let r := (List.range (512 / w)).map fun i =>
    if m.testBit i then op (lane w (h.readPort 0x10) i) (lane w (h.readPort 0x11) i) (lane w (h.readPort 0x12) i)
    else (0, 0)
  (ofLanes w (r.map (·.1)), r.foldl (fun f x => f ||| x.2) 0, Events.none)

/-- A compare of lanes: its result bits stand from bit 0 up (R213). -/
def Hart.vaCompare (h : Hart) (w : Nat) (op : Nat → Nat → Bool × FFlags) : Wide × FFlags × Events :=
  let m := h.vaMask
  let r := (List.range (512 / w)).map fun i =>
    if m.testBit i then op (lane w (h.readPort 0x10) i) (lane w (h.readPort 0x11) i) else (false, 0)
  (BitVec.ofNat 512 (r.foldr (fun x acc => (if x.1 then 1 else 0) + 2 * acc) 0), r.foldl (fun f x => f ||| x.2) 0,
    Events.none)

/-- Lane width of an integer width code (R211). -/
def laneWidth (c : BitVec 2) : Nat := 8 * 2 ^ c.toNat

/-- The format of a format code (R212). -/
def vaFormat (f : BitVec 2) : Fmt :=
  match f with
  | 0#2 => fp64
  | 1#2 => fp32
  | 2#2 => bf16
  | _ => fp16

/-- A signed lane as an integer. -/
def laneInt (w x : Nat) : Int := (BitVec.ofNat w x).toInt

/-- An integer trigger (R211). -/
def State.vaInteger (s : State) (g : Trig) (c : BitVec 2) (op : Nat) (f : Nat → Nat → Nat → Nat) : State :=
  s.compute g .va (fnCode (4 * op) c) [0x10, 0x11] [] 2 fun h =>
    h.vaLanes (laneWidth c) fun x y _ => (f (laneWidth c) x y % 2 ^ laneWidth c, 0)

/-- A floating trigger (R212). -/
def State.vaFloat (s : State) (g : Trig) (c : BitVec 2) (op latency : Nat) (z : Bool)
    (f : Hart → Fmt → Nat → Nat → Nat → Nat × FFlags) : State :=
  s.compute g .va (fnCode (0x20 + 4 * op) c) (if z then [0x10, 0x11, 0x12] else [0x10, 0x11]) [] latency fun h =>
    let t := vaFormat c
    h.vaLanes (t.mag + 1) (f h t)

/-- A logic or select trigger (R213). -/
def State.vaLogic (s : State) (g : Trig) (fn : BitVec 8) (f : Hart → Wide → Wide → Wide) : State :=
  s.compute g .va fn [0x10, 0x11] [] 2 fun h => (f h (h.readPort 0x10) (h.readPort 0x11), 0, Events.none)

/-- A compare trigger on integers (R213). -/
def State.vaIntCompare (s : State) (g : Trig) (fn : BitVec 8) (w : Nat) (f : Nat → Nat → Bool) : State :=
  s.compute g .va fn [0x10, 0x11] [] 2 fun h => h.vaCompare w fun x y => (f x y, 0)

/-- A compare trigger on floating lanes (R213). -/
def State.vaFloatCompare (s : State) (g : Trig) (fn : BitVec 8) (t : Fmt) (c : FCmp) : State :=
  s.compute g .va fn [0x10, 0x11] [] 2 fun h => h.vaCompare (t.mag + 1) fun x y => fCompare c (unpack t x) (unpack t y)

/-- A transcendental trigger (R214). -/
def State.vaTranscendental (s : State) (g : Trig) (fn : BitVec 8) (f : Rm → Bool → Val → Nat × FFlags) : State :=
  s.compute g .va fn [0x10] [] 10 fun h => h.vaLanes 32 fun x _ _ => f h.rm h.nanpay (unpack fp32 x)

/-- Lane i of x where va.m enables it, else of y (R213). -/
def selectLanes (w m : Nat) (x y : Wide) : Wide :=
  ofLanes w ((List.range (512 / w)).map fun i => if m.testBit i then lane w x i else lane w y i)

/-- VA_ADD (R211). -/
def execVaAdd (g : Trig) (w : BitVec 2) (s : State) : Host.Outcome State Fault Refusal :=
  .next (s.vaInteger g w 0 (fun _ x y => x + y))

/-- VA_SUB (R211). -/
def execVaSub (g : Trig) (w : BitVec 2) (s : State) : Host.Outcome State Fault Refusal :=
  .next (s.vaInteger g w 1 (fun w x y => x + 2 ^ w - y))

/-- VA_MUL (R211). -/
def execVaMul (g : Trig) (w : BitVec 2) (s : State) : Host.Outcome State Fault Refusal :=
  .next (s.vaInteger g w 2 (fun _ x y => x * y))

/-- VA_MIN (R211). -/
def execVaMin (g : Trig) (w : BitVec 2) (s : State) : Host.Outcome State Fault Refusal :=
  .next (s.vaInteger g w 3 (fun w x y => if laneInt w x ≤ laneInt w y then x else y))

/-- VA_MAX (R211). -/
def execVaMax (g : Trig) (w : BitVec 2) (s : State) : Host.Outcome State Fault Refusal :=
  .next (s.vaInteger g w 4 (fun w x y => if laneInt w x ≤ laneInt w y then y else x))

/-- VA_SLL (R211). -/
def execVaSll (g : Trig) (w : BitVec 2) (s : State) : Host.Outcome State Fault Refusal :=
  .next (s.vaInteger g w 5 (fun w x y => x * 2 ^ (y % w)))

/-- VA_SRA (R211). -/
def execVaSra (g : Trig) (w : BitVec 2) (s : State) : Host.Outcome State Fault Refusal :=
  .next (s.vaInteger g w 6 (fun w x y => ((BitVec.ofNat w x).sshiftRight (y % w)).toNat))

/-- VA_SRL (R211). -/
def execVaSrl (g : Trig) (w : BitVec 2) (s : State) : Host.Outcome State Fault Refusal :=
  .next (s.vaInteger g w 7 (fun w x y => x / 2 ^ (y % w)))

/-- VA_FADD (R212). -/
def execVaFadd (g : Trig) (f : BitVec 2) (s : State) : Host.Outcome State Fault Refusal :=
  .next (s.vaFloat g f 0 4 false (fun h t x y _ => fAdd t h.rm h.nanpay (unpack t x) (unpack t y)))

/-- VA_FSUB (R212). -/
def execVaFsub (g : Trig) (f : BitVec 2) (s : State) : Host.Outcome State Fault Refusal :=
  .next (s.vaFloat g f 1 4 false (fun h t x y _ => fSub t h.rm h.nanpay (unpack t x) (unpack t y)))

/-- VA_FMUL (R212). -/
def execVaFmul (g : Trig) (f : BitVec 2) (s : State) : Host.Outcome State Fault Refusal :=
  .next (s.vaFloat g f 2 4 false (fun h t x y _ => fMul t h.rm h.nanpay (unpack t x) (unpack t y)))

/-- VA_FMA (R212). -/
def execVaFma (g : Trig) (f : BitVec 2) (s : State) : Host.Outcome State Fault Refusal :=
  .next (s.vaFloat g f 3 5 true (fun h t x y z => fFma t h.rm h.nanpay (unpack t x) (unpack t y) (unpack t z)))

/-- VA_FNMA (R212). -/
def execVaFnma (g : Trig) (f : BitVec 2) (s : State) : Host.Outcome State Fault Refusal :=
  .next (s.vaFloat g f 4 5 true (fun h t x y z => fFnma t h.rm h.nanpay (unpack t x) (unpack t y) (unpack t z)))

/-- VA_FMIN (R212). -/
def execVaFmin (g : Trig) (f : BitVec 2) (s : State) : Host.Outcome State Fault Refusal :=
  .next (s.vaFloat g f 5 4 false (fun h t x y _ => fMinMax t h.nanpay false x y))

/-- VA_FMAX (R212). -/
def execVaFmax (g : Trig) (f : BitVec 2) (s : State) : Host.Outcome State Fault Refusal :=
  .next (s.vaFloat g f 6 4 false (fun h t x y _ => fMinMax t h.nanpay true x y))

/-- VA_SGNJ (R212). -/
def execVaSgnj (g : Trig) (f : BitVec 2) (s : State) : Host.Outcome State Fault Refusal :=
  .next (s.vaFloat g f 7 4 false (fun _ t x y _ => fSgnj t x y))

/-- VA_AND (R213). -/
def execVaAnd (g : Trig) (s : State) : Host.Outcome State Fault Refusal :=
  .next (s.vaLogic g 0x40 (fun _ x y => x &&& y))

/-- VA_OR (R213). -/
def execVaOr (g : Trig) (s : State) : Host.Outcome State Fault Refusal :=
  .next (s.vaLogic g 0x41 (fun _ x y => x ||| y))

/-- VA_XOR (R213). -/
def execVaXor (g : Trig) (s : State) : Host.Outcome State Fault Refusal :=
  .next (s.vaLogic g 0x42 (fun _ x y => x ^^^ y))

/-- VA_SEL_W (R213). -/
def execVaSelW (g : Trig) (s : State) : Host.Outcome State Fault Refusal :=
  .next (s.vaLogic g 0x43 (fun h x y => selectLanes 32 h.vaMask x y))

/-- VA_SEL_D (R213). -/
def execVaSelD (g : Trig) (s : State) : Host.Outcome State Fault Refusal :=
  .next (s.vaLogic g 0x44 (fun h x y => selectLanes 64 h.vaMask x y))

/-- VA_CEQ_W (R213). -/
def execVaCeqW (g : Trig) (s : State) : Host.Outcome State Fault Refusal :=
  .next (s.vaIntCompare g 0x45 32 (fun x y => x == y))

/-- VA_CLT_W (R213). -/
def execVaCltW (g : Trig) (s : State) : Host.Outcome State Fault Refusal :=
  .next (s.vaIntCompare g 0x46 32 (fun x y => decide (laneInt 32 x < laneInt 32 y)))

/-- VA_CLTU_W (R213). -/
def execVaCltuW (g : Trig) (s : State) : Host.Outcome State Fault Refusal :=
  .next (s.vaIntCompare g 0x47 32 (fun x y => decide (x < y)))

/-- VA_CEQ_D (R213). -/
def execVaCeqD (g : Trig) (s : State) : Host.Outcome State Fault Refusal :=
  .next (s.vaIntCompare g 0x48 64 (fun x y => x == y))

/-- VA_CLT_D (R213). -/
def execVaCltD (g : Trig) (s : State) : Host.Outcome State Fault Refusal :=
  .next (s.vaIntCompare g 0x49 64 (fun x y => decide (laneInt 64 x < laneInt 64 y)))

/-- VA_FCEQ_S (R213). -/
def execVaFceqS (g : Trig) (s : State) : Host.Outcome State Fault Refusal :=
  .next (s.vaFloatCompare g 0x4A fp32 .eq)

/-- VA_FCLT_S (R213). -/
def execVaFcltS (g : Trig) (s : State) : Host.Outcome State Fault Refusal :=
  .next (s.vaFloatCompare g 0x4B fp32 .lt)

/-- VA_FCLE_S (R213). -/
def execVaFcleS (g : Trig) (s : State) : Host.Outcome State Fault Refusal :=
  .next (s.vaFloatCompare g 0x4C fp32 .le)

/-- VA_FCEQ_D (R213). -/
def execVaFceqD (g : Trig) (s : State) : Host.Outcome State Fault Refusal :=
  .next (s.vaFloatCompare g 0x4D fp64 .eq)

/-- VA_FCLT_D (R213). -/
def execVaFcltD (g : Trig) (s : State) : Host.Outcome State Fault Refusal :=
  .next (s.vaFloatCompare g 0x4E fp64 .lt)

/-- VA_FCLE_D (R213). -/
def execVaFcleD (g : Trig) (s : State) : Host.Outcome State Fault Refusal :=
  .next (s.vaFloatCompare g 0x4F fp64 .le)

/-- VA_EXP2_S (R112, R214). -/
def execVaExp2S (g : Trig) (s : State) : Host.Outcome State Fault Refusal :=
  .next (s.vaTranscendental g 0x50 fExp2)

/-- VA_LOG2_S (R112, R214). -/
def execVaLog2S (g : Trig) (s : State) : Host.Outcome State Fault Refusal :=
  .next (s.vaTranscendental g 0x51 fLog2)

/-- VA_RCP_S (R112, R214). -/
def execVaRcpS (g : Trig) (s : State) : Host.Outcome State Fault Refusal :=
  .next (s.vaTranscendental g 0x52 fRcp)

/-- VA_RSQRT_S (R112, R214). -/
def execVaRsqrtS (g : Trig) (s : State) : Host.Outcome State Fault Refusal :=
  .next (s.vaTranscendental g 0x53 fRsqrt)

end Sys2Proof.Machine
end

