-- ==== Sys2Proof/Machine/Shuffle.lean ====
section
/-! DEFINITION. The unit VS: shuffles and in-vector reductions (R111, R215 to R217). -/

namespace Sys2Proof.Machine

/-- Lanes of a wide value of w bits. -/
def allLanes (w : Nat) (v : Wide) : List Nat := lanes w (512 / w) v

/-- A shuffle trigger of vs.x and vs.y (R215, R216). -/
def State.vsShuffle (s : State) (g : Trig) (fn : BitVec 8) (latency : Nat) (f : Wide → Wide → Wide) : State :=
  s.compute g .vs fn [0x15, 0x16] [] latency fun h => (f (h.readPort 0x15) (h.readPort 0x16), 0, Events.none)

/-- r[i] ← x[y[i] mod n] (R215). -/
def permLanes (w : Nat) (x y : Wide) : Wide := ofLanes w ((allLanes w y).map fun i => lane w x (i % (512 / w)))

/-- r[i] ← x[y[5:0] mod n] (R215). -/
def bcastLanes (w : Nat) (x y : Wide) : Wide := ofLanes w (List.replicate (512 / w) (lane w x (y.toNat % 64 % (512 / w))))

/-- r[2i] ← x[i + o], r[2i + 1] ← y[i + o] (R215). -/
def zipLanes (w : Nat) (high : Bool) (x y : Wide) : Wide :=
  let n := 512 / w
  let o := if high then n / 2 else 0
  ofLanes w ((List.range (n / 2)).flatMap fun i => [lane w x (i + o), lane w y (i + o)])

/-- Byte i of r ← byte (i + y[5:0]) mod 64 of x (R215). -/
def rotBytes (x y : Wide) : Wide := ofLanes 8 ((List.range 64).map fun i => lane 8 x ((i + y.toNat % 64) % 64))

/-- The set bits of a mask of n, ascending. -/
def setBits (n m : Nat) : List Nat := (List.range n).filter m.testBit

/-- r[j] ← x[i_j] for the j-th set bit (R216). -/
def compressLanes (w : Nat) (x y : Wide) : Wide := ofLanes w ((setBits (512 / w) y.toNat).map (lane w x))

/-- r[i_j] ← x[j] for each set bit (R216). -/
def expandLanes (w : Nat) (x y : Wide) : Wide :=
  ofLanes w ((List.range (512 / w)).map fun i =>
    if y.toNat.testBit i then lane w x ((setBits i y.toNat).length) else 0)

/-! ### Reductions (R111, R217) -/

/-- One level of the tree: pairs combine, an absent one giving way to the other. -/
def combinePairs (op : Nat → Nat → Nat × FFlags) : List (Option Nat) → List (Option Nat) × FFlags
  | a :: b :: r =>
    let (l, fl) := combinePairs op r
    match a, b with
    | some x, some y => let (v, f) := op x y
                        (some v :: l, fl ||| f)
    | some x, none => (some x :: l, fl)
    | none, y => (y :: l, fl)
  | l => (l, 0)

/-- The tree of R111, level by level. -/
def reduceTree (op : Nat → Nat → Nat × FFlags) : Nat → List (Option Nat) → Option Nat × FFlags
  | 0, l => ((l.headD none), 0)
  | n + 1, l =>
    let (l, f) := combinePairs op l
    let (v, f') := reduceTree op n l
    (v, f ||| f')

/-- The lanes that vs.y leaves present (R217): it is a mask as va.m is (R210), and a clear bit disables (log 24). -/
def Hart.vsPresent (h : Hart) (ls : List Nat) : List (Option Nat) :=
  match h.fullLatch 0x16 with
  | some m => ls.zipIdx.map fun (x, i) => if m.toNat.testBit i then some x else none
  | none => ls.map some

/-- A code of a narrower format as the FP32 code of the same value, a NaN's payload padded at the low end (R111). -/
def widenCode (f : Fmt) (x : Nat) : Nat :=
  match unpack f x with
  | .nan n p => signed fp32 n (fp32.maxCode + 1 + p / 2 ^ 29)
  | v => (convert fp32 .rne false v).1

/-- The kinds of reduction. -/
inductive Red | sum | max | min
  deriving DecidableEq, Repr

/-- Identity of a floating reduction (R111). -/
def floatIdentity (t : Fmt) : Red → Nat
  | .sum => 0
  | .max => infCode t true
  | .min => infCode t false

/-- A floating combine (R111). -/
def floatCombine (t : Fmt) (rm : Rm) (pay : Bool) (k : Red) (x y : Nat) : Nat × FFlags :=
  match k with
  | .sum => fAdd t rm pay (unpack t x) (unpack t y)
  | .max => fMinMax t pay true x y
  | .min => fMinMax t pay false x y

/-- A reduction of lanes of one format, run in another (R111, R217). DEDUCED (log 34). -/
def State.vsFloatReduce (s : State) (g : Trig) (fn : BitVec 8) (src t : Fmt) (k : Red) : State :=
  s.compute g .vs fn [0x15] [0x16] 6 fun h =>
    let ls := allLanes (src.mag + 1) (h.readPort 0x15)
    let ls := if src = t then ls else ls.map (widenCode src)
    let present := h.vsPresent ls
    let (v, fl) := reduceTree (floatCombine t h.rm h.nanpay k) 5 present
    let fl := fl ||| snanFlag (present.filterMap fun x => x.map (unpack t))
    let r := match v with
      | none => floatIdentity t k
      | some x => if (unpack t x).isNan then nanCode t h.nanpay [unpack t x] else x
    (BitVec.ofNat 512 r, fl, Events.none)

/-- Identity of an integer reduction (R111). -/
def intIdentity (w : Nat) (isSigned : Bool) : Red → Nat
  | .sum => 0
  | .max => if isSigned then 2 ^ (w - 1) else 0
  | .min => if isSigned then 2 ^ (w - 1) - 1 else 2 ^ w - 1

/-- An integer combine (R111). -/
def intCombine (w : Nat) (isSigned : Bool) (k : Red) (x y : Nat) : Nat :=
  let le := if isSigned then decide (laneInt w x ≤ laneInt w y) else decide (x ≤ y)
  match k with
  | .sum => (x + y) % 2 ^ w
  | .max => if le then y else x
  | .min => if le then x else y

/-- An integer reduction (R217). -/
def State.vsIntReduce (s : State) (g : Trig) (fn : BitVec 8) (w : Nat) (isSigned : Bool) (k : Red) : State :=
  s.compute g .vs fn [0x15] [0x16] 4 fun h =>
    let v := (reduceTree (fun x y => (intCombine w isSigned k x y, 0)) 5 (h.vsPresent (allLanes w (h.readPort 0x15)))).1
    (BitVec.ofNat 512 (v.getD (intIdentity w isSigned k)), 0, Events.none)

/-- VS_PERM (R215). -/
def execVsPerm (g : Trig) (w : BitVec 2) (s : State) : Host.Outcome State Fault Refusal :=
  .next (s.vsShuffle g (fnCode 0 w) 2 (permLanes (laneWidth w)))

/-- VS_BCAST (R215). -/
def execVsBcast (g : Trig) (w : BitVec 2) (s : State) : Host.Outcome State Fault Refusal :=
  .next (s.vsShuffle g (fnCode 4 w) 2 (bcastLanes (laneWidth w)))

/-- VS_ZIPLO (R215): halfwords, words and doublewords. -/
def execVsZiplo (g : Trig) (w : BitVec 2) (s : State) : Host.Outcome State Fault Refusal :=
  .next (s.vsShuffle g (BitVec.ofNat 8 (8 + 2 * w.toNat)) 2 (zipLanes (2 * laneWidth w) false))

/-- VS_ZIPHI (R215). -/
def execVsZiphi (g : Trig) (w : BitVec 2) (s : State) : Host.Outcome State Fault Refusal :=
  .next (s.vsShuffle g (BitVec.ofNat 8 (9 + 2 * w.toNat)) 2 (zipLanes (2 * laneWidth w) true))

/-- VS_ROTB (R215). -/
def execVsRotb (g : Trig) (s : State) : Host.Outcome State Fault Refusal :=
  .next (s.vsShuffle g 0x0E 2 rotBytes)

/-- VS_COMPRESS (R216). -/
def execVsCompress (g : Trig) (w : BitVec 2) (s : State) : Host.Outcome State Fault Refusal :=
  .next (s.vsShuffle g (fnCode 0x10 w) 3 (compressLanes (laneWidth w)))

/-- VS_EXPAND (R216). -/
def execVsExpand (g : Trig) (w : BitVec 2) (s : State) : Host.Outcome State Fault Refusal :=
  .next (s.vsShuffle g (fnCode 0x14 w) 3 (expandLanes (laneWidth w)))

/-- VS_RSUM_D (R217). -/
def execVsRsumD (g : Trig) (s : State) : Host.Outcome State Fault Refusal :=
  .next (s.vsFloatReduce g 0x18 fp64 fp64 .sum)

/-- VS_RMAX_D (R217). -/
def execVsRmaxD (g : Trig) (s : State) : Host.Outcome State Fault Refusal :=
  .next (s.vsFloatReduce g 0x19 fp64 fp64 .max)

/-- VS_RMIN_D (R217). -/
def execVsRminD (g : Trig) (s : State) : Host.Outcome State Fault Refusal :=
  .next (s.vsFloatReduce g 0x1A fp64 fp64 .min)

/-- VS_RSUM_S (R217). -/
def execVsRsumS (g : Trig) (s : State) : Host.Outcome State Fault Refusal :=
  .next (s.vsFloatReduce g 0x1B fp32 fp32 .sum)

/-- VS_RMAX_S (R217). -/
def execVsRmaxS (g : Trig) (s : State) : Host.Outcome State Fault Refusal :=
  .next (s.vsFloatReduce g 0x1C fp32 fp32 .max)

/-- VS_RMIN_S (R217). -/
def execVsRminS (g : Trig) (s : State) : Host.Outcome State Fault Refusal :=
  .next (s.vsFloatReduce g 0x1D fp32 fp32 .min)

/-- VS_RSUM_BF (R217). -/
def execVsRsumBf (g : Trig) (s : State) : Host.Outcome State Fault Refusal :=
  .next (s.vsFloatReduce g 0x1E bf16 fp32 .sum)

/-- VS_RMAX_BF (R217). -/
def execVsRmaxBf (g : Trig) (s : State) : Host.Outcome State Fault Refusal :=
  .next (s.vsFloatReduce g 0x1F bf16 fp32 .max)

/-- VS_RMIN_BF (R217). -/
def execVsRminBf (g : Trig) (s : State) : Host.Outcome State Fault Refusal :=
  .next (s.vsFloatReduce g 0x20 bf16 fp32 .min)

/-- VS_RSUM_HF (R217). -/
def execVsRsumHf (g : Trig) (s : State) : Host.Outcome State Fault Refusal :=
  .next (s.vsFloatReduce g 0x21 fp16 fp32 .sum)

/-- VS_RMAX_HF (R217). -/
def execVsRmaxHf (g : Trig) (s : State) : Host.Outcome State Fault Refusal :=
  .next (s.vsFloatReduce g 0x22 fp16 fp32 .max)

/-- VS_RMIN_HF (R217). -/
def execVsRminHf (g : Trig) (s : State) : Host.Outcome State Fault Refusal :=
  .next (s.vsFloatReduce g 0x23 fp16 fp32 .min)

/-- VS_IRSUM_W (R217). -/
def execVsIrsumW (g : Trig) (s : State) : Host.Outcome State Fault Refusal :=
  .next (s.vsIntReduce g 0x24 32 true .sum)

/-- VS_IRSUM_D (R217). -/
def execVsIrsumD (g : Trig) (s : State) : Host.Outcome State Fault Refusal :=
  .next (s.vsIntReduce g 0x25 64 true .sum)

/-- VS_IRMAX_W (R217). -/
def execVsIrmaxW (g : Trig) (s : State) : Host.Outcome State Fault Refusal :=
  .next (s.vsIntReduce g 0x26 32 true .max)

/-- VS_IRMIN_W (R217). -/
def execVsIrminW (g : Trig) (s : State) : Host.Outcome State Fault Refusal :=
  .next (s.vsIntReduce g 0x27 32 true .min)

/-- VS_IRMAXU_W (R217). -/
def execVsIrmaxuW (g : Trig) (s : State) : Host.Outcome State Fault Refusal :=
  .next (s.vsIntReduce g 0x28 32 false .max)

/-- VS_IRMINU_W (R217). -/
def execVsIrminuW (g : Trig) (s : State) : Host.Outcome State Fault Refusal :=
  .next (s.vsIntReduce g 0x29 32 false .min)

/-- VS_IRMAX_D (R217). -/
def execVsIrmaxD (g : Trig) (s : State) : Host.Outcome State Fault Refusal :=
  .next (s.vsIntReduce g 0x2A 64 true .max)

/-- VS_IRMIN_D (R217). -/
def execVsIrminD (g : Trig) (s : State) : Host.Outcome State Fault Refusal :=
  .next (s.vsIntReduce g 0x2B 64 true .min)

/-- VS_IRMAXU_D (R217). -/
def execVsIrmaxuD (g : Trig) (s : State) : Host.Outcome State Fault Refusal :=
  .next (s.vsIntReduce g 0x2C 64 false .max)

/-- VS_IRMINU_D (R217). -/
def execVsIrminuD (g : Trig) (s : State) : Host.Outcome State Fault Refusal :=
  .next (s.vsIntReduce g 0x2D 64 false .min)

end Sys2Proof.Machine
end

