-- ==== Sys2Proof/Machine/Images.lean ====
section
/-! DEFINITION. Continuation records (R43), the take-up of a record (R44), and the hart and port images (R167, R194,
R228 to R230). -/

namespace Sys2Proof.Machine

/-- The 8-byte word at an offset of a list of bytes. -/
def wordAt (b : List Byte) (off : Nat) : Nat := leNat ((b.drop off).take 8)

/-! ### Records (R43) -/

/-- Size of a record with a header. -/
def recordSize (header : Nat) : Nat := 16 + 8 * (bits header 40 5 + bits header 32 1)

/-- Whether a record keeps R43: bit 0 of LIVE 0, NLIVE the number of live registers, at most 16 words after the header, and
its zero fields 0. -/
def recordOk (b : List Byte) : Bool :=
  let h := wordAt b 8
  let ret := bits h 32 1 == 1
  h % 2 == 0 && bits h 40 5 == (setBits 32 h).length && decide (bits h 40 5 + bits h 32 1 ≤ 16)
  && bits h 33 7 == 0 && bits h 60 4 == 0 && decide (recordSize h ≤ b.length)
  && (!ret || bits (wordAt b 16) 33 31 == 0)

/-- The return word of a record, 0 without one. -/
def recordReturn (b : List Byte) : Nat := if bits (wordAt b 8) 32 1 = 1 then wordAt b 16 else 0

/-- The value that a record gives an x-register: a live one its own, every other 0 (R44). -/
def recordValue (b : List Byte) (r : Nat) : Word :=
  let h := wordAt b 8
  if h.testBit r ∧ r < 32 then
    BitVec.ofNat 64 (wordAt b (16 + 8 * bits h 32 1 + 8 * (setBits r h).length))
  else 0

/-- xtaskret at the take-up of a record with a priority (R44, R163). -/
def taskretOf (b : List Byte) (prio : BitVec 2) : Word :=
  let h := wordAt b 8
  BitVec.ofNat 64 (recordReturn b % 2 ^ 33 + 2 ^ 33 * prio.toNat + 2 ^ 35 * bits h 47 1 + 2 ^ 36 * bits h 48 4
    + 2 ^ 40 * bits h 52 8 + 2 ^ 63 * bits h 32 1)

/-- Fields of xtaskret (R163). -/
def taskPrio (w : Word) : BitVec 2 := w.extractLsb' 33 2
def taskSt (w : Word) : Bool := bitOf w 35
def taskSlot (w : Word) : SlotId := Fin.ofNat 16 (field w 36 4)
def taskEntry (w : Word) : Nat := field w 40 8
def taskValid (w : Word) : Bool := bitOf w 63

/-- xtaskret of the task that a hart has: of the record that it is taking up, if it is LOADING (R30, R44, R56). -/
def Hart.taskWord (v : Hart) : Word :=
  match v.job with
  | .loadRecord r p _ _ => taskretOf r p
  | .loadImage _ | .loadTemplate => 0
  | _ => v.csr.taskret

/-- The bytes of a record (R43): PC, LIVE, the return word, ST, SLOT and WENTRY as xtaskret holds them, and the values. -/
def makeRecord (pc : Word) (live : Nat) (ret : Option Word) (identity : Word) (values : List Word) : List Byte :=
  let n := values.length
  let h := live % 2 ^ 32 + (if ret.isSome then 2 ^ 32 else 0) + 2 ^ 40 * n + 2 ^ 47 * field identity 35 1
    + 2 ^ 48 * field identity 36 4 + 2 ^ 52 * field identity 40 8
  leBytes pc.toNat 8 ++ leBytes h 8 ++ (match ret with | some w => leBytes w.toNat 8 | none => [])
    ++ values.flatMap fun v => leBytes v.toNat 8

/-- A record with a priority in its PRIO field (R186). -/
def withPrio (b : List Byte) (prio : BitVec 2) : List Byte :=
  let h := wordAt b 8
  b.take 8 ++ leBytes (h - bits h 45 2 * 2 ^ 45 + prio.toNat * 2 ^ 45) 8 ++ b.drop 16

/-! ### Context template (R336) -/

/-- Template of a core's context; 768 zero bytes where the core is unbound. -/
def State.templateOf (s : State) (core : Nat) : List Byte :=
  match s.ctxOf core with
  | some c => c.template
  | none => List.replicate 768 0

/-- Stores 8-byte words of a list of bytes into CSRs, one after another from an offset. -/
def loadCells (cells : List CsrCell) (b : List Byte) (off : Nat) (c : Csrs) : Csrs :=
  match cells with
  | [] => c
  | f :: r => loadCells r b (off + 8) (f.store c (BitVec.ofNat 64 (wordAt b off)))

/-- The CSRs of bytes 328 to 631 of an image or a template (R167). -/
def loadCsrs (b : List Byte) (c : Csrs) : Csrs :=
  let c := loadCells taskCells b 328 c
  let c := { c with quantumLimit := BitVec.ofNat 32 (wordAt b 360) }
  let c := loadCells upcallCells b 368 c
  loadCells standardCells b 536 (loadCells regionCells b 408 c)

/-- COUNT of xquantum in an image or a template (R163, R167). -/
def imageQuantum (b : List Byte) : Nat := bits (wordAt b 360) 32 32

/-- The mode of bytes 320 to 327 (R167, R194). -/
def imageMode (b : List Byte) : Mode := Mode.ofCode (BitVec.ofNat 2 (bits (wordAt b 320) 40 2))

/-- What a hart that starts or ends work no longer holds: parks, jobs and holds of what it did before. An arrival stays outstanding
until its generation completes (R55), and a translation fault waits for its upcall (R367). -/
def Hart.fresh (h : Hart) : Hart :=
  { h with
    wait := .none, job := .none, loaded := [], resv := none, lr := none, upReserved := false,
    holdAll := [], holdWrites := [], lines := [], fetching := none, fetched := none, fetchHold := none, flights := [], windowsUsed := [],
    upsets := [], rewrites := none }

/-- A hart whose task has ended: no `gbar` of it is re-executed, and no fault is pending (R55, R366). -/
def Hart.withoutTask (h : Hart) : Hart :=
  { h.fresh with arrived := h.arrived.map fun a => { a with gbar := none }, gbars := [], pending := [] }

/-- A hart whose privilege and CSRs are those that the template gives for its tasks (R44, R336). -/
def Hart.fromTemplate (h : Hart) (t : List Byte) (now : Nat) : Hart :=
  { h with mode := imageMode t, csr := loadCsrs t h.csr, quantumCount := imageQuantum t, quantumSince := now }

/-- The take-up of a record (R39, R44, R163). -/
def Hart.takeUp (h : Hart) (t record : List Byte) (prio : BitVec 2) (now : Nat) : Hart :=
  let h : Hart := { h.fresh with arrived := h.arrived.map fun a => { a with gbar := none }, gbars := [] }
  let h := h.fromTemplate t now
  let x (v : Vector Word 32) (i : Fin 32) : Vector Word 32 := v.set i (recordValue record i.val)
  { h with
    pc := BitVec.ofNat 64 (wordAt record 0)
    x := (List.finRange 32).foldl x h.x
    xFull := BitVec.allOnes 32
    q := Vector.replicate 8 0
    qFull := 0
    ports := portsReset
    seq := 0
    exitVal := h.exitVal
    ended := false
    csr := { h.csr with taskret := taskretOf record prio } }

/-! ### Images (R167, R228) -/

/-- Narrow latches of the port image: port, offset and bytes, in the order of FULL from bit 8 (R228). -/
def narrowLayout : List (BitVec 6 × Nat × Nat) :=
  [(0x13, 1032, 8), (0x1B, 1040, 16), (0x1E, 1056, 16), (0x1F, 1072, 16), (0x20, 1088, 8), (0x21, 1096, 8),
   (0x22, 1104, 16), (0x23, 1120, 8), (0x24, 1128, 16), (0x25, 1144, 8), (0x26, 1152, 16), (0x27, 1168, 8),
   (0x29, 1176, 8)]

/-- Wide latches in the order of LOST from bit 24 (R228): va.x, va.y, va.z, va.r, vs.x, vs.y, vs.r, cv.x, cv.r, ls.d,
ls.r, ni.d. -/
def wideLayout : List (BitVec 6) := [0x10, 0x11, 0x12, 0x14, 0x15, 0x16, 0x17, 0x18, 0x19, 0x1C, 0x1D, 0x28]

/-- Bits from a position up, one for each member of a list. -/
def packBits {α : Type} (f : α → Bool) (l : List α) : Nat :=
  l.foldr (fun x acc => (if f x then 1 else 0) + 2 * acc) 0

/-- The port image (R228, R229), with a PENDING count. -/
def Hart.portImage (h : Hart) (pending : Nat) : List Byte :=
  let bins := (List.range 16).flatMap fun i => leBytes (h.latch (BitVec.ofNat 6 i)).val.toNat 64
  let full := packBits (fun (n : BitVec 6 × Nat × Nat) => (h.latch n.1).st == .full) narrowLayout
  let lost := packBits (fun (p : BitVec 6) => (h.latch p).st != .empty) wideLayout
  let control := h.seq.toNat + 2 ^ 8 * full + 2 ^ 24 * lost + 2 ^ 40 * (pending % 256)
  let narrow := narrowLayout.flatMap fun (p, _, n) =>
    leBytes (if (h.latch p).st = .full then (h.latch p).val.toNat else 0) n
  bins ++ leBytes control 8 ++ narrow ++ leBytes 0 32 ++ h.ring.toList.flatMap fun w => leBytes w.toNat 2

/-- A hart whose port file is that of a port image: bins, narrow latches by FULL, wide latches by LOST, SEQ and the ring
(R229, R230). -/
def Hart.loadPorts (h : Hart) (b : List Byte) : Hart :=
  let control := wordAt b 1024
  let bins (h : Hart) (i : Nat) : Hart :=
    h.setLatch (BitVec.ofNat 6 i) ⟨.full, BitVec.ofNat 512 (leNat ((b.drop (64 * i)).take 64))⟩
  let narrow (h : Hart) (x : (BitVec 6 × Nat × Nat) × Nat) : Hart :=
    h.setLatch x.1.1 (if control.testBit (8 + x.2) then ⟨.full, BitVec.ofNat 512 (leNat ((b.drop x.1.2.1).take x.1.2.2))⟩
      else Latch.empty)
  let wide (h : Hart) (x : BitVec 6 × Nat) : Hart :=
    h.setLatch x.1 (if control.testBit (24 + x.2) then ⟨.lost, 0⟩ else Latch.empty)
  let h := (List.range 16).foldl bins h
  let h := narrowLayout.zipIdx.foldl narrow h
  let h := wideLayout.zipIdx.foldl wide h
  let entry (v : Vector (BitVec 16) 32) (i : Fin 32) : Vector (BitVec 16) 32 :=
    v.set i (BitVec.ofNat 16 (leNat ((b.drop (1216 + 2 * i.val)).take 2) % 2 ^ 13))
  { h with seq := BitVec.ofNat 8 control, ring := (List.finRange 32).foldl entry h.ring }

/-- An element whose error a read has found (R377, R378): a register becomes 0 and full, a CSR and a bin 0, a narrow latch empty
and a wide one lost. -/
def Hart.repair (h : Hart) (e : BitVec 4 × BitVec 12) : Hart :=
  let p : BitVec 6 := BitVec.ofNat 6 e.2.toNat
  match e.1.toNat with
  | 0 => h.fill (BitVec.ofNat 5 e.2.toNat) 0
  | 1 => h.fillQ (BitVec.ofNat 3 e.2.toNat) 0
  | 3 => match csrCell e.2.toNat with
    | some f => { h with csr := f.put h.csr 0 }
    | none => h
  | 4 => h.setLatch p (if p.toNat < 16 then ⟨.full, 0⟩ else if wideLayout.contains p then ⟨.lost, 0⟩ else Latch.empty)
  | _ => h

/-- A hart none of whose elements has an error that a read would find. -/
def Hart.repaired (h : Hart) : Hart :=
  let h := h.rewritten
  { h.upsets.foldl Hart.repair h with upsets := [] }

/-- Bytes 320 to 327 of an image (R167). -/
def Hart.fullWord (h : Hart) : Nat :=
  h.xFull.toNat / 2 * 2 + 2 ^ 32 * h.qFull.toNat + 2 ^ 40 * h.mode.code.toNat

/-- CSR bytes of a list of cells. -/
def cellBytes (cells : List CsrCell) (c : Csrs) : List Byte := cells.flatMap fun f => leBytes (f.get c).toNat 8

/-- Bytes 0 to 639 of a hart's image (R167): an empty register is saved as 0. -/
def Hart.prefixImage (h : Hart) (now : Nat) : List Byte :=
  let x := (List.range 31).flatMap fun i =>
    let r : Reg := BitVec.ofNat 5 (i + 1)
    leBytes (if h.isFull r then (h.readX r).toNat else 0) 8
  let q := (List.range 8).flatMap fun i =>
    let r : BitVec 3 := BitVec.ofNat 3 i
    leBytes (if h.qIsFull r then (h.q[r.toNat]'(r.isLt)).toNat else 0) 8
  leBytes h.pc.toNat 8 ++ x ++ q ++ leBytes h.fullWord 8 ++ cellBytes taskCells h.csr
    ++ leBytes (h.quantumWord now).toNat 8 ++ cellBytes upcallCells h.csr ++ cellBytes regionCells h.csr
    ++ cellBytes standardCells h.csr ++ leBytes 0 8

/-- A hart whose registers, PC, mode and CSRs are those of an image or a template prefix (R167, R194, R336). An
outstanding arrival, a waiting upcall and the reservation of a running one go on (R55, R367). -/
def Hart.loadPrefix (h : Hart) (b : List Byte) (now : Nat) : Hart :=
  let f := wordAt b 320
  let x (v : Vector Word 32) (i : Fin 32) : Vector Word 32 :=
    if i = 0 then v else v.set i (BitVec.ofNat 64 (wordAt b (8 * i.val)))
  let q (v : Vector Word 8) (i : Fin 8) : Vector Word 8 := v.set i (BitVec.ofNat 64 (wordAt b (256 + 8 * i.val)))
  let h := h.fresh.fromTemplate b now
  { h with
    upReserved := bitOf h.csr.upstat 0
    pc := BitVec.ofNat 64 (wordAt b 0)
    x := (List.finRange 32).foldl x h.x
    xFull := BitVec.ofNat 32 f ||| 1
    q := (List.finRange 8).foldl q h.q
    qFull := BitVec.ofNat 8 (f / 2 ^ 32) }

/-- Whether an image keeps the limits that `hload` checks: the zero bytes of R167 and R228, the reserved mode 2, the ring's
upper bits, and no fill outstanding (R194, R230, R382). -/
def portImageOk (b : List Byte) : Bool :=
  let c := wordAt b 1024
  bits c 21 3 == 0 && bits c 36 4 == 0 && bits c 48 16 == 0
  && ((b.drop 1184).take 32).all (· == 0)
  && (List.range 32).all fun i => bits (leNat ((b.drop (1216 + 2 * i)).take 2)) 13 3 == 0
def imageOk (b : List Byte) : Bool :=
  let f := wordAt b 320
  f % 2 == 0 && bits f 40 2 != 2 && bits f 42 22 == 0 && wordAt b 632 == 0
  && portImageOk (b.drop 640) && bits (wordAt b (640 + 1024)) 40 8 == 0

end Sys2Proof.Machine
end

