-- ==== Sys2Proof/Machine/Scalar.lean ====
section
/-! DEFINITION. Scalar loads and stores, AMOs, LR and SC (R62, R64, R119, R120, R159 to R161, R166, R417). -/

namespace Sys2Proof.Machine

/-- Delivered bytes of a load and of a store. -/
def loadBytes : LoadKind → Nat
  | .lb | .lbu => 1
  | .lh | .lhu => 2
  | .lw | .lwu => 4
  | .ld => 8
def storeBytes : StoreKind → Nat
  | .sb => 1
  | .sh => 2
  | .sw => 4
  | .sd => 8

/-- The address of a load or store. -/
def Hart.address (h : Hart) (rs1 : Reg) (imm : BitVec 12) : Word := h.readX rs1 + imm.signExtend 64

/-- The checks of an access at issue, in the order of R414: COREREG, Addr, then a data breakpoint; then the access. -/
def State.guarded (s : State) (k : Kind) (a : Word) (size : Nat) (words : Bool) (perform : Place → State) : State :=
  match s.checkScalar s.cur k a size words with
  | .coreReg => s.trapCode 0x0D 0
  | .trap c => s.trap c a
  | .ok p => if s.me.breaks k.breakBit a then s.trap 3 a else perform p

/-- Whether an access is local: selector 0x8 region 0 (R119). -/
def isLocal (a : Word) : Bool := field a 60 4 == 8

/-- The window of a place. -/
def Place.win : Place → Nat
  | .spad _ _ w | .farSpad _ _ _ w => w
  | _ => 0

/-- The device-register accesses of a hart perform in program order: every later non-local access waits (R120). -/
def State.orderRegister (s : State) (p : Place) : State :=
  match p with
  | .register _ _ => s.holdLater s.cur [s.nextId - 1] []
  | _ => s

/-- A non-local access of the issuing hart (R120, R264): with the outbound queue full the instruction issues again, else
the request enters it, a register that it fills empties, and the hart goes on. -/
def State.sendOff (s : State) (r : Req) (p : Place) (clear : Hart → Hart) : State :=
  if s.niFull s.cur.core then s
  else
    let s := (s.issueReq s.cur r).orderRegister p
    s.complete (clear s.me)

/-- A read of a poisoned local byte: rd fills with 0 and HOMESOFT becomes pending (R377). -/
def State.localSoft (s : State) (rd : Reg) (a : Word) : State :=
  let s := s.complete (s.me.fill rd 0)
  s.raise (dieOf s.cur.core) (s.hartRecord s.cur cHomeSoft 0 none a 0 none)

/-- A load at issue from the core's own space. -/
def State.loadLocal (s : State) (rd : Reg) (f : LoadForm) (core off n : Nat) (a : Word) : State :=
  let keys := (List.range n).map fun i => spadKey core (off + i)
  if s.anyPoisoned keys then s.localSoft rd a
  else s.complete (s.me.fill rd (loadValue (bitOf s.me.csr.compat 2) f (s.readKeys keys)))

/-- The load of a place. -/
def State.loadPlace (s : State) (k : LoadKind) (rd : Reg) (a : Word) (p : Place) : State :=
  let c := s.myCore
  match p with
  | .tileTable off =>
    s.complete (s.me.fill rd (tileWord (c.tiles[off / 16 % 64]'(Nat.mod_lt _ (by decide))) (off / 8 % 2 == 1)))
  | .watchTable off =>
    s.complete (s.me.fill rd (watchWord (c.watch[off / 16 % 16]'(Nat.mod_lt _ (by decide))) (off / 8 % 2 == 1)))
  | .coreReg off => s.complete (s.me.fill rd (c.readRegister off (s.coreCycle s.cur.core)))
  | _ =>
    let n := (scalarSpan p.win (loadBytes k)).getD 0
    let form : LoadForm := ⟨k, BitVec.ofNat 3 p.win⟩
    match p with
    | .spad core off _ =>
      if isLocal a then s.loadLocal rd form core off n a
      else s.sendOff { s.hartReq s.cur with addr := a, op := .read n, dest := .load rd form } p (·.empty rd)
    | _ => s.sendOff { s.hartReq s.cur with addr := a, op := .read n, dest := .load rd form } p (·.empty rd)

/-- SCALAR_LOAD (R120, R159). -/
def execScalarLoad (k : LoadKind) (rd rs1 : Reg) (imm : BitVec 12) (s : State) : Host.Outcome State Fault Refusal :=
  match s.me.firstEmpty [rs1] with
  | some r => .next (s.park (.xreg r))
  | none =>
    let a := s.me.address rs1 imm
    .next (s.guarded .read a (loadBytes k) true (s.loadPlace k rd a))

/-- The stored bytes of a scalar store through a window, and their events (R68, R105). -/
def State.storedBytes (s : State) (win size : Nat) (v : Word) : List Byte × Events :=
  windowWrite (WinCtx.of s.me.csr.bandsc s.me.csr.compat) win fp32 (leBytes v.toNat size)

/-- The store of a place. -/
def State.storePlace (s : State) (size : Nat) (v : Word) (a : Word) (p : Place) : State :=
  match p with
  | .tileTable _ | .watchTable _ => s.complete s.me
  | .coreReg off =>
    let s := s.setMyCore (s.myCore.writeRegister off v (s.coreCycle s.cur.core))
    s.complete s.me
  | _ =>
    let (b, ev) := s.storedBytes p.win size v
    let s' := s.setMyCore (s.myCore.countEvents ev)
    match p with
    | .spad core off _ =>
      if isLocal a then
        let s := s'.writeSpad core off b
        s.complete s.me
      else if s.niFull s.cur.core then s
      else s'.sendOff { s.hartReq s.cur with addr := a, op := .write, data := b } p id
    | _ =>
      if s.niFull s.cur.core then s
      else s'.sendOff { s.hartReq s.cur with addr := a, op := .write, data := b } p id

/-- Whether an access names CORECTL of the issuing core. -/
def State.namesCorectl (s : State) (a : Word) (size : Nat) : Bool :=
  s.place s.cur.core a == some (.coreReg 0) && size == 8

/-- SCALAR_STORE (R41, R120, R159). -/
def execScalarStore (k : StoreKind) (rs1 rs2 : Reg) (imm : BitVec 12) (s : State) : Host.Outcome State Fault Refusal :=
  match s.me.firstEmpty [rs1, rs2] with
  | some r => .next (s.park (.xreg r))
  | none =>
    let a := s.me.address rs1 imm
    if s.namesCorectl a (storeBytes k) ∧ s.cur.hart ≠ 0 then .next (s.storeCorectl (s.me.readX rs2))
    else .next (s.guarded .write a (storeBytes k) true (s.storePlace (storeBytes k) (s.me.readX rs2) a))

/-! ### A extension -/

/-- Bytes of a word or doubleword form. -/
def atomBytes (dbl : Bool) : Nat := if dbl then 8 else 4

/-- The operation of an AMO as a home performs it. -/
def amoAtom : AmoOp → AtomOp
  | .add => .add | .swap => .swap | .xor => .xor | .or => .or | .and => .and
  | .min => .min | .max => .max | .minu => .minu | .maxu => .maxu

/-- The low bits of an operand at the width of a form. -/
def atWidth (dbl : Bool) (v : Word) : Nat := if dbl then v.toNat else v.toNat % 2 ^ 32

/-- A release at device scope before an access with rl = 1, and nothing otherwise (R125). -/
def State.releaseIf (s : State) (rl : Bool) : State := if rl then (s.release s.cur 2 .none).1 else s

/-- The acquire of an access with aq = 1 that has entered the queue: later accesses wait for it (R124). -/
def State.acquireIf (s : State) (aq : Bool) : State := if aq then s.holdLater s.cur [s.nextId - 1] [] else s

/-- A non-local A-extension access: aq and rl order it, its destination empties (R124, R125, R128), and the hart marks or drops the
latest LR (R160). -/
def State.sendAtomic (s : State) (r : Req) (aq rl : Bool) (rd : Reg) (mark : Option Nat → Nat → Option Nat) : State :=
  if s.niFull s.cur.core then s
  else
    let s := ((s.releaseIf rl).issueReq s.cur r).acquireIf aq
    s.complete { s.me.empty rd with lr := mark s.me.lr (s.nextId - 1) }

/-- AMO (R119, R159). -/
def execAmo (op : AmoOp) (dbl aq rl : Bool) (rd rs1 rs2 : Reg) (s : State) : Host.Outcome State Fault Refusal :=
  match s.me.firstEmpty [rs1, rs2] with
  | some r => .next (s.park (.xreg r))
  | none =>
    let a := s.me.readX rs1
    let v := s.me.readX rs2
    .next (s.guarded .readWrite a (atomBytes dbl) false fun p =>
      match p with
      | .spad core off _ =>
        let keys := (List.range (atomBytes dbl)).map fun i => spadKey core (off + i)
        if s.anyPoisoned keys then s.localSoft rd a
        else
          let old := leNat (s.readKeys keys)
          let new := atomicValue (amoAtom op) (8 * atomBytes dbl) old (atWidth dbl v) 0
          let s := (s.releaseIf rl).writeSpad core off (leBytes new (atomBytes dbl))
          s.complete (s.me.fill rd (atomWord dbl (leBytes old (atomBytes dbl))))
      | _ =>
        s.sendAtomic { s.hartReq s.cur with addr := a, op := .atomic (amoAtom op) dbl v 0, dest := .xreg rd dbl } aq rl rd
          fun lr _ => lr)

/-- LR (R160). -/
def execLr (dbl aq _rl : Bool) (rd rs1 : Reg) (s : State) : Host.Outcome State Fault Refusal :=
  match s.me.firstEmpty [rs1] with
  | some r => .next (s.park (.xreg r))
  | none =>
    let a := s.me.readX rs1
    .next (s.guarded .read a (atomBytes dbl) false fun p =>
      match p with
      | .spad core off _ =>
        let keys := (List.range (atomBytes dbl)).map fun i => spadKey core (off + i)
        if s.anyPoisoned keys then s.localSoft rd a
        else
          s.complete { s.me.fill rd (atomWord dbl (s.readKeys keys)) with resv := some ⟨spadKey core (off / 8 * 8), none⟩, lr := none }
      | _ => s.sendAtomic { s.hartReq s.cur with addr := a, op := .lr dbl, dest := .xreg rd dbl } aq false rd fun _ id => some id)

/-- SC (R160): one that follows no LR, since a trap, a save or an SC, fails at once. -/
def execSc (dbl aq rl : Bool) (rd rs1 rs2 : Reg) (s : State) : Host.Outcome State Fault Refusal :=
  match s.me.firstEmpty [rs1, rs2] with
  | some r => .next (s.park (.xreg r))
  | none =>
    let a := s.me.readX rs1
    let v := s.me.readX rs2
    .next (s.guarded .write a (atomBytes dbl) false fun p =>
      match p with
      | .spad core off _ =>
        let s := s.releaseIf rl
        if s.me.resv = some ⟨spadKey core (off / 8 * 8), none⟩ then
          let s := s.writeSpad core off (leBytes (atWidth dbl v) (atomBytes dbl))
          s.complete { s.me.fill rd 0 with resv := none, lr := none }
        else s.complete { s.me.fill rd 1 with resv := none, lr := none }
      | _ =>
        if s.me.lr.isNone then
          let s := s.releaseIf rl
          s.complete { s.me.fill rd 1 with resv := none }
        else s.sendAtomic { s.hartReq s.cur with addr := a, op := .sc dbl v, dest := .xreg rd true } aq rl rd fun _ _ => none)

/-! ### The steps of the two core registers with rows of their own -/

/-- CORECTL_WRITE (R41): the store that the turn names. -/
def execCorectlWrite (s : State) : Host.Outcome State Fault Refusal :=
  match s.arg with
  | .store h v => .next ({ s with cur := h }.storeCorectl v)
  | _ => .next s

/-- FWSTAT_WRITE (R79): the store that the turn names. -/
def execFwstatWrite (s : State) : Host.Outcome State Fault Refusal :=
  match s.arg with
  | .store h v => .next (s.setCore h.core ((s.core h.core).writeFwstat v))
  | _ => .next s

end Sys2Proof.Machine
end

