-- ==== Sys2Proof/Machine/FlagsTiles.lean ====
section
/-! DEFINITION. Flag waits and bumps, and the tile instructions (R72 to R79, R171 to R175, R385, R386, R420). -/

namespace Sys2Proof.Machine

/-- OPERAND on a register operand (R362). -/
def State.operand (s : State) (r : Reg) : State := s.trapCode 0x01 (r.zeroExtend 8)

/-- An instruction that reads x-registers: it parks on the first that is empty (R30). -/
def State.reading (s : State) (rs : List Reg) (perform : State) : State :=
  match s.me.firstEmpty rs with
  | some r => s.park (.xreg r)
  | none => perform

/-! ### Addresses of accesses that travel through the NI (R168, R169, R361, R413) -/

/-- Whether an address may be the target of an instruction of R169, and the place it names: W0 or, where the instruction
encodes, a scalar window; virtual space and the coherent window as the instruction admits them. -/
def State.targetPlace (s : State) (h : HartRef) (k : Kind) (a : Word) (size : Nat) (virt window narrow : Bool) : Option Place :=
  let m := (s.hart h).mode
  match s.place h.core a with
  | some (.virt va) => if virt then some (.virt va) else none
  | some (.window off) => if window && decide (off + size ≤ 0x400000) then some (.window off) else none
  | some .nothing => if s.dieCount = 1 ∧ field a 32 2 ≠ 0 then none else some .nothing
  | some (.spad core off win) =>
    if (win == 0 || narrow) && s.checkSpad h m k a s.device.toNat core off win size then some (.spad core off win) else none
  | some (.farSpad device core off win) =>
    if (win == 0 || narrow) && s.checkSpad h m k a device core off win size then some (.farSpad device core off win)
    else none
  | _ => none

/-- A flag address: scratchpad through W0 or the coherent window, aligned to 8, with WR alone asked of the protection unit
(R71, R76, R172, R386). -/
def State.flagPlace (s : State) (h : HartRef) (a : Word) : Option Place := s.targetPlace h .write a 8 false true false

/-- The alignment causes come before the others of Addr, over every address of the instruction, and a data breakpoint after them
(R165, R413, R414). -/
def State.targets (s : State) (k : Kind) (ts : List (Word × Nat × Option Place)) (perform : State) : State :=
  match ts.find? (fun t => !aligned t.1 t.2.1) with
  | some t => s.trap k.alignCause t.1
  | none =>
    match ts.find? (fun t => t.2.2.isNone) with
    | some t => s.trap k.accessCause t.1
    | none => match ts.find? (fun t => s.me.breaks k.breakBit t.1) with
      | some t => s.trap 3 t.1
      | none => perform

/-- A posted request of the issuing hart: with the outbound queue full the instruction issues again (R120, R264). -/
def State.post (s : State) (r : Req) (clear : Hart → Hart) : State :=
  if s.niFull s.cur.core then s
  else
    let s := s.issueReq s.cur r
    s.complete (clear s.me)

/-! ### Flags -/

/-- FWAIT (R78, R171, R420). DEDUCED (log 41). -/
def execFwait (b a : BitVec 5) (s : State) : Host.Outcome State Fault Refusal :=
  .next <| s.reading [a, b] <|
    let adr := s.me.readX a
    match s.place s.cur.core adr with
    | some (.spad core off 0) =>
      if core ≠ s.cur.core then s.operand a
      else s.targets .read [(adr, 8, s.targetPlace s.cur .read adr 8 false false false)] <|
        let keys := (List.range 8).map fun i => spadKey core (off + i)
        if s.anyPoisoned keys then s.localSoft 0 adr
        else if flagReached (s.spadWord core off) (s.me.readX b).toNat then s.complete s.me
        else
          let c := s.myCore
          let w := c.watch.set s.cur.hart ⟨BitVec.ofNat 18 off, true, (s.me.readX b).extractLsb' 0 48⟩
          (s.setMyCore { c with watch := w }).park .flag
    | _ => s.operand a

/-- FBUMP (R172). -/
def execFbump (a : BitVec 5) (s : State) : Host.Outcome State Fault Refusal :=
  .next <| s.reading [a] <|
    let adr := s.me.readX a
    s.targets .write [(adr, 8, s.flagPlace s.cur adr)] <|
      s.post { s.hartReq s.cur with addr := adr, op := .arrivalOnly, arrival := .flag adr } id

/-! ### Tiles -/

/-- A tile entry of a core. -/
def Core.tile (c : Core) (n : Nat) : Tile := c.tiles[n % 64]'(Nat.mod_lt _ (by decide))

/-- Replaces a tile entry. -/
def Core.setTile (c : Core) (n : Nat) (t : Tile) : Core := { c with tiles := c.tiles.set (n % 64) t (Nat.mod_lt _ (by decide)) }

/-- Whether a trigger that named a tile is in flight on the core (R73, R74). -/
def Core.tileInUse (c : Core) (n : Nat) : Bool :=
  let names (t : Trigger) : Bool := t.macroOp.isNone && bits t.a.toNat 0 6 == n
  c.mxq.any names || c.mx.any fun r => names r.t

/-- DRAINING tiles that no trigger uses become EMPTY (R73). -/
def Core.drainTiles (c : Core) : Core :=
  let one (v : Vector Tile 64) (i : Fin 64) : Vector Tile 64 :=
    if v[i].st == .draining && !c.tileInUse i.val then v.set i { v[i] with st := .empty } else v
  { c with tiles := (List.finRange 64).foldl one c.tiles }

/-- The arming transition (R73). -/
def Tile.arm (t : Tile) (n : BitVec 16) : Tile :=
  if n = 0 then { t with st := .ready, arrived := 0, gen := t.gen + 1 }
  else { t with st := .filling, expect := n, arrived := 0 }

/-- Whether a tile descriptor keeps the limits of R173. -/
def tileDescriptorOk (d : Word) : Bool :=
  field d 0 6 == 0 && field d 21 11 == 0 && field d 45 19 == 0
  && decide (1 ≤ field d 32 13) && decide (field d 32 13 ≤ 4096) && decide (field d 0 18 + 64 * field d 32 13 ≤ 0x40000)

/-- An instruction on the tile that x[rs1] names. -/
def State.onTile (s : State) (a : Reg) (rs : List Reg) (perform : Nat → Tile → State) : State :=
  s.reading (a :: rs) <|
    let n := (s.me.readX a).toNat
    if 63 < n then s.operand a else perform n (s.myCore.tile n)

/-- TDEF (R173, R385). -/
def execTdef (b a : BitVec 5) (s : State) : Host.Outcome State Fault Refusal :=
  .next <| s.onTile a [b] fun n t =>
    let d := s.me.readX b
    if !tileDescriptorOk d then s.operand b
    else if t.st ≠ .empty then s.trapCode 0x04 (BitVec.ofNat 8 n)
    else
      let t := { t with base := d.extractLsb' 0 18, win := d.extractLsb' 18 3, lines := d.extractLsb' 32 13 }
      let s := s.setMyCore (s.myCore.setTile n t)
      s.complete s.me

/-- TARM (R73, R174, R385). -/
def execTarm (b a : BitVec 5) (s : State) : Host.Outcome State Fault Refusal :=
  .next <| s.onTile a [b] fun n t =>
    let v := s.me.readX b
    if field v 16 48 ≠ 0 then s.operand b
    else if t.st ≠ .empty then s.trapCode 0x05 (BitVec.ofNat 8 n)
    else
      let s := s.setMyCore (s.myCore.setTile n (t.arm (v.extractLsb' 0 16)))
      s.complete s.me

/-- TREL (R73, R174, R385). -/
def execTrel (a : BitVec 5) (s : State) : Host.Outcome State Fault Refusal :=
  .next <| s.onTile a [] fun n t =>
    match t.st with
    | .filling => s.operand a
    | .ready =>
      let s := s.setMyCore ((s.myCore.setTile n { t with st := .draining }).drainTiles)
      s.complete s.me
    | _ => s.complete s.me

/-- TWAIT (R175). -/
def execTwait (a : BitVec 5) (s : State) : Host.Outcome State Fault Refusal :=
  .next <| s.onTile a [] fun n t =>
    if t.st = .ready then s.complete s.me else s.park (.tile (BitVec.ofNat 6 n))

end Sys2Proof.Machine
end

