-- ==== Sys2Proof/Machine/RemoteOps.lean ====
section
/-! DEFINITION. Posted stores, remote atomics, releases and acquires (R123 to R125, R176 to R180, R420). -/

namespace Sys2Proof.Machine

/-- Width in bytes of a two-bit width code (R176). -/
def postBytes (w : BitVec 2) : Nat := 2 ^ w.toNat

/-- The arrival of an instruction whose flag register is x0 for none (R176). -/
def State.flagOf (s : State) (c : Reg) : Arrival := if c = 0 then .none else .flag (s.me.readX c)

/-- The flag address of an instruction, as a target to check. -/
def State.flagTarget (s : State) (c : Reg) : List (Word × Nat × Option Place) :=
  if c = 0 then [] else [(s.me.readX c, 8, s.flagPlace s.cur (s.me.readX c))]

/-- PSTF (R176). -/
def execPstf (c : BitVec 5) (w : BitVec 2) (b a : BitVec 5) (s : State) : Host.Outcome State Fault Refusal :=
  .next <| s.reading [a, b, c] <|
    let adr := s.me.readX a
    let n := postBytes w
    let p := s.targetPlace s.cur .write adr n true true true
    s.targets .write ((adr, n, p) :: s.flagTarget c) <|
      if s.niFull s.cur.core then s
      else
        let (d, ev) := s.storedBytes (p.getD .nothing).win n (s.me.readX b)
        let s := s.setMyCore (s.myCore.countEvents ev)
        s.post { s.hartReq s.cur with addr := adr, op := .write, data := d, arrival := s.flagOf c } id

/-- An atomic through the NI, naturally aligned, through W0 (R177, R178). -/
def State.remoteAtomic (s : State) (a : Reg) (reads : List Reg) (flag : Reg) (op : AtomOp) (dbl : Bool) (v e : Reg) (dest : Dest)
    (clear : Hart → Hart) : State :=
  s.reading (a :: reads) <|
    let adr := s.me.readX a
    let n := atomBytes dbl
    s.targets .readWrite ((adr, n, s.targetPlace s.cur .readWrite adr n true false false) :: s.flagTarget flag) <|
      s.post { s.hartReq s.cur with
        addr := adr, op := .atomic op dbl (s.me.readX v) (s.me.readX e), arrival := s.flagOf flag, dest := dest } clear

/-- RADDF on integers (R177). -/
def execRaddfInt (c : BitVec 5) (w : BitVec 1) (b a : BitVec 5) (s : State) : Host.Outcome State Fault Refusal :=
  .next (s.remoteAtomic a [b, c] c .add (w == 1) b 0 .none id)

/-- RADDF on floating point (R177). -/
def execRaddfFloat (c : BitVec 5) (w : BitVec 1) (b a : BitVec 5) (s : State) : Host.Outcome State Fault Refusal :=
  .next (s.remoteAtomic a [b, c] c .addf (w == 1) b 0 .none id)

/-- A fetching atomic (R178). -/
def State.fetchAtomic (s : State) (op : AtomOp) (w : BitVec 1) (b a d : Reg) : State :=
  s.remoteAtomic a [b] 0 op (w == 1) b 0 (.xreg d (w == 1)) (fun (h : Hart) => h.empty d)

/-- RFADD (R178). -/
def execRfadd (w : BitVec 1) (b a d : BitVec 5) (s : State) : Host.Outcome State Fault Refusal :=
  .next (s.fetchAtomic .add w b a d)

/-- RFSWAP (R178). -/
def execRfswap (w : BitVec 1) (b a d : BitVec 5) (s : State) : Host.Outcome State Fault Refusal :=
  .next (s.fetchAtomic .swap w b a d)

/-- RFAND (R178). -/
def execRfand (w : BitVec 1) (b a d : BitVec 5) (s : State) : Host.Outcome State Fault Refusal :=
  .next (s.fetchAtomic .and w b a d)

/-- RFOR (R178). -/
def execRfor (w : BitVec 1) (b a d : BitVec 5) (s : State) : Host.Outcome State Fault Refusal :=
  .next (s.fetchAtomic .or w b a d)

/-- RFXOR (R178). -/
def execRfxor (w : BitVec 1) (b a d : BitVec 5) (s : State) : Host.Outcome State Fault Refusal :=
  .next (s.fetchAtomic .xor w b a d)

/-- RFMIN (R178). -/
def execRfmin (w : BitVec 1) (b a d : BitVec 5) (s : State) : Host.Outcome State Fault Refusal :=
  .next (s.fetchAtomic .min w b a d)

/-- RFMAX (R178). -/
def execRfmax (w : BitVec 1) (b a d : BitVec 5) (s : State) : Host.Outcome State Fault Refusal :=
  .next (s.fetchAtomic .max w b a d)

/-- RFMINU (R178). -/
def execRfminu (w : BitVec 1) (b a d : BitVec 5) (s : State) : Host.Outcome State Fault Refusal :=
  .next (s.fetchAtomic .minu w b a d)

/-- RFMAXU (R178). -/
def execRfmaxu (w : BitVec 1) (b a d : BitVec 5) (s : State) : Host.Outcome State Fault Refusal :=
  .next (s.fetchAtomic .maxu w b a d)

/-- RFADDF (R178). -/
def execRfaddf (w : BitVec 1) (b a d : BitVec 5) (s : State) : Host.Outcome State Fault Refusal :=
  .next (s.fetchAtomic .addf w b a d)

/-- RCAS (R179). -/
def execRcas (c : BitVec 5) (w : BitVec 1) (b a d : BitVec 5) (s : State) : Host.Outcome State Fault Refusal :=
  .next (s.remoteAtomic a [b, c] 0 .cas (w == 1) b c (.xreg d (w == 1)) (fun (h : Hart) => h.empty d))

/-- RFENCE_REL (R125, R180): rd empties, and fills with 0 when the release performs. -/
def execRfenceRel (c : BitVec 2) (d : BitVec 5) (s : State) : Host.Outcome State Fault Refusal :=
  let (s, _) := s.release s.cur c (.xreg d true)
  .next (s.complete (s.me.empty d))

/-- RFENCE_ACQ (R124, R180): rd empties, and fills with 0 when the earlier reads and AMOs have completed. -/
def execRfenceAcq (_c : BitVec 2) (d : BitVec 5) (s : State) : Host.Outcome State Fault Refusal :=
  let (s, _) := s.acquire s.cur (.xreg d true)
  .next (s.complete (s.me.empty d))

end Sys2Proof.Machine
end

