-- ==== Sys2Proof/Machine/Tasks.lean ====
section
/-! DEFINITION. Messages, remote tasks, ownership and shared registers (R36, R47, R181 to R184, R187 to R189, R368,
R420). -/

namespace Sys2Proof.Machine

/-- A message to a hart word (R43, R181): one request, whose q-register its bits [2:0] name. -/
def State.messageReq (s : State) (h : HartRef) (target value : Word) : Req :=
  { s.hartReq h with addr := target, op := .message target value }

/-- MSEND (R181). -/
def execMsend (b a : BitVec 5) (q : BitVec 3) (s : State) : Host.Outcome State Fault Refusal :=
  .next <| s.reading [a, b] <|
    let t := s.me.readX a
    if field t 0 3 ≠ 0 ∨ field t 33 31 ≠ 0 then s.operand a
    else s.post { s.messageReq s.cur (t ||| q.zeroExtend 64) (s.me.readX b) with addr := t } id

/-- QMOV (R182). -/
def execQmov (q : BitVec 3) (d : BitVec 5) (s : State) : Host.Outcome State Fault Refusal :=
  .next <|
    if s.me.qIsFull q then
      let v := s.me.q[q.toNat]'(q.isLt)
      s.complete ((s.me.emptyQ q).fill d v)
    else s.park (.qreg q)

/-- How the home address of a record is taken (R170, R361, R382, R420). -/
inductive HomeCheck | operand | trap | ok
  deriving DecidableEq, Repr

/-- The check of a home address: a space without home cores is OPERAND, and one that fails an address check cause 7.
DEDUCED (log 42). -/
def State.checkHome (s : State) (core : Nat) (a : Word) : HomeCheck :=
  let sel := field a 60 4
  if !([0, 8, 9, 10, 11].contains sel) then .operand
  else match s.place core a with
    | some (.virt _) | some (.farSpad _ _ _ _) => .ok
    | some (.spad c _ _) => if (sel = 8 ∨ sel = 9) ∧ !s.enabled c then .trap else .ok
    | some .nothing => if s.absentDie a then .trap else .ok
    | _ => .trap

/-- The return word that names a hart and a q-register (R43). -/
def State.returnWord (s : State) (h : HartRef) (q : BitVec 3) : Word := (s.hartWord h <<< 3) ||| q.zeroExtend 64

/-- CALLAT (R47, R183): the q-register empties, and after a release at domain scope the record goes to the home core. -/
def execCallat (b a : BitVec 5) (p : BitVec 2) (q : BitVec 3) (s : State) : Host.Outcome State Fault Refusal :=
  .next <| s.reading [a, b, 10, 11, 12, 13] <|
    let home := s.me.readX a
    let pc := s.me.readX b
    match s.checkHome s.cur.core home with
    | .operand => s.operand a
    | c =>
      if field pc 0 2 ≠ 0 then s.operand b
      else if c = .trap then s.trap 7 home
      else if s.niFull s.cur.core then s
      else
        let v := s.me
        let record := makeRecord pc 0x3C00 (some (s.returnWord s.cur q)) 0 [v.readX 10, v.readX 11, v.readX 12, v.readX 13]
        let s := (s.release s.cur 3 .none).1
        s.post { s.hartReq s.cur with addr := home, op := .record p false, data := record, dest := .qreg q }
          (fun (h : Hart) => h.emptyQ q)

/-- Whether a live mask keeps the limits of R184. -/
def liveMaskOk (mask taskret : Word) : Bool :=
  field mask 32 32 == 0 && !bitOf mask 0 && decide ((setBits 32 mask.toNat).length + field taskret 63 1 ≤ 16)

/-- HOP (R47, R184, R368): waits for its live registers and its triggers, then sends its record. DEDUCED (log 44). -/
def execHop (b a : BitVec 5) (s : State) : Host.Outcome State Fault Refusal :=
  .next <|
    if s.cur.hart = 0 then s.trapCode 0x02 0
    else s.reading [a, b] <|
      let v := s.me
      let home := v.readX a
      let mask := v.readX b
      let resume := bitOf v.csr.upstat 0
      let c := if resume then HomeCheck.ok else s.checkHome s.cur.core home
      if c = .operand then s.operand a
      else if !liveMaskOk mask v.csr.taskret then s.operand b
      else if c = .trap then s.trap 7 home
      else s.reading ((setBits 32 mask.toNat).map (BitVec.ofNat 5)) <|
        if v.flights.isEmpty then s.setMe { v with job := .hopping home (mask.extractLsb' 0 32) 0 }
        else s.park .drain

/-- Whether a migration descriptor keeps the limits of R187. -/
def State.migrationOk (s : State) (d : Word) : Bool :=
  field d 0 5 == 0 && decide (field d 23 2 ≤ 2) && decide (field d 25 2 ≤ 2) && field d 32 32 == 0
  && decide (field d 21 2 < s.dieCount)

/-- Whether an address names virtual space, its zero field included. -/
def State.isVirtualAddress (s : State) (core : Nat) (a : Word) : Bool :=
  match s.place core a with
  | some (.virt _) => true
  | _ => false

/-- OWN (R87, R187). -/
def execOwn (b a d : BitVec 5) (s : State) : Host.Outcome State Fault Refusal :=
  .next <| s.reading [a, b] <|
    let adr := s.me.readX a
    let m := s.me.readX b
    if !s.isVirtualAddress s.cur.core adr then s.operand a
    else if !s.migrationOk m then s.operand b
    else s.post { s.hartReq s.cur with addr := adr, op := .own m, dest := .xreg d true } (fun (h : Hart) => h.empty d)

/-- OCINV (R188, R368): the owner entry goes, and FAULTED requests of the core in the region are sent again. -/
def execOcinv (a : BitVec 5) (s : State) : Host.Outcome State Fault Refusal :=
  .next <| s.reading [a] <|
    let adr := s.me.readX a
    if !s.isVirtualAddress s.cur.core adr then s.operand a
    else
      let region := regionOf adr.toNat
      let asid := s.me.asid
      let c := s.myCore
      let s := s.setMyCore { c with owners := ownerDrop c.owners asid region }
      let again (r : Req) : Req :=
        match r.stage with
        | .faulted _ _ =>
          if r.core = s.cur.core ∧ r.asid = asid ∧ regionOf r.addr.toNat = region
          then { r with stage := .queued, retries := 0, route := none } else r
        | _ => r
      let s := { s with reqs := s.reqs.map again }
      s.complete s.me

/-- KGET (R36, R189). -/
def execKget (k : BitVec 3) (d : BitVec 5) (s : State) : Host.Outcome State Fault Refusal :=
  .next (s.complete (s.me.fill d (s.myCore.readK ⟨k.toNat, k.isLt⟩ (s.coreCycle s.cur.core))))

/-- KSET (R36, R189). -/
def execKset (a : BitVec 5) (k : BitVec 3) (s : State) : Host.Outcome State Fault Refusal :=
  .next <| s.reading [a] <|
    let s := s.setMyCore (s.myCore.writeK ⟨k.toNat, k.isLt⟩ (s.me.readX a) (s.coreCycle s.cur.core))
    s.complete s.me

end Sys2Proof.Machine
end

