-- ==== Sys2Proof/Machine/Barriers.lean ====
section
/-! DEFINITION. Barriers and counter-combining reductions (R53 to R55, R129, R190, R191, R384). -/

namespace Sys2Proof.Machine

/-- The membership register of a core that names a group (R54). -/
def Core.membership (c : Core) (gid : BitVec 8) : Option Word :=
  c.cgrp.toList.find? fun w => bitOf w 63 && w.extractLsb' 0 8 == gid

/-- PART of a membership register (R54). -/
def groupPart (w : Word) : Nat := field w 34 5

/-- Combines contributions of one kind (R191): 0 sum, 1 maximum, 2 minimum, signed. -/
def combineWord (k : Fin 3) (a b : Word) : Word :=
  match k with
  | 0 => a + b
  | 1 => if a.toInt ≤ b.toInt then b else a
  | 2 => if a.toInt ≤ b.toInt then a else b

/-- Combines contributions of which either may be absent. -/
def combineOpt (k : Fin 3) : Option Word → Option Word → Option Word
  | some a, some b => some (combineWord k a b)
  | some a, none => some a
  | none, b => b

/-- The arrivals of a core for a group's generation. -/
def Core.arrivalsOf (c : Core) (gid : BitVec 8) : CoreArrivals :=
  (c.arrivals.find? (fun a => a.gid == gid)).getD ⟨gid, 0, none, none, none, [], false⟩

/-- Replaces the arrivals of a core for a group. -/
def Core.setArrivals (c : Core) (a : CoreArrivals) : Core :=
  { c with arrivals := a :: c.arrivals.filter (fun x => x.gid != a.gid) }

/-- One more arrival with its contribution and its release (R55, R191). -/
def CoreArrivals.plus (a : CoreArrivals) (kind : Option (Fin 3)) (v : Word) (release : Nat) : CoreArrivals :=
  let a := { a with count := a.count + 1, releases := release :: a.releases }
  match kind with
  | some 0 => { a with sum := combineOpt 0 a.sum (some v) }
  | some 1 => { a with max := combineOpt 1 a.max (some v) }
  | some 2 => { a with min := combineOpt 2 a.min (some v) }
  | none => a

/-- A core whose PART harts have arrived reports to the combining tree, once their releases have performed (R55, R129). -/
def State.reportArrivals (s : State) (core : Nat) (gid : BitVec 8) (part : Nat) : State :=
  let c := s.core core
  let a := c.arrivalsOf gid
  if part ≤ a.count ∧ !a.reported then
    (s.setCore core (c.setArrivals { a with reported := true })).send (dieOf core)
      (.barrierReport (c.ctx.getD 0) gid core a.sum a.max a.min (s.outstanding a.releases))
  else s

/-- The arrival of the issuing hart for a group (R55, R129): a release at device scope, the count and the contribution.
DESIGN CHOICE (log 40). -/
def State.arrive (s : State) (gid : BitVec 8) (part : Nat) (kind : Option (Fin 3)) (v : Word) (rd : Reg) : State :=
  let (s, id) := s.release s.cur 2 .none
  let hold := s.nextId
  let s := match kind with
    | none => s
    | some _ =>
      (s.addReq { s.hartReq s.cur with
        kind := .acquire, op := .arrivalOnly, waits := [hold], dest := .xreg rd true }).holdLater s.cur [hold] []
  let s := s.setMyCore (s.myCore.setArrivals ((s.myCore.arrivalsOf gid).plus kind v id))
  let s := s.setMe { s.me with
    arrived := some ⟨gid, kind, rd, if kind.isNone then 0 else hold, if kind.isNone then some s.me.pc else none⟩ }
  s.reportArrivals s.cur.core gid part

/-- The checks of a barrier or combining instruction: the group number, and the core's membership (R190, R420). -/
def State.onGroup (s : State) (a : Reg) (rs : List Reg) (perform : BitVec 8 → Nat → State) : State :=
  s.reading (a :: rs) <|
    let g := s.me.readX a
    if field g 8 56 ≠ 0 then s.operand a
    else
      let gid := g.extractLsb' 0 8
      match s.myCore.membership gid with
      | none => s.trapCode 0x06 gid
      | some w => perform gid (groupPart w)

/-- GBAR (R55, R190): re-executed after a trap it makes no new arrival, and completes with its generation; while another arrival
is outstanding the hart parks before arriving. DESIGN CHOICE (log 40). -/
def execGbar (a : BitVec 5) (s : State) : Host.Outcome State Fault Refusal :=
  .next <| s.onGroup a [] fun gid part =>
    let v := s.me
    if v.gbars.contains (gid, v.pc) then s.complete { v with gbars := v.gbars.erase (gid, v.pc) }
    else match v.arrived with
      | some r => if r.gid = gid ∧ r.gbar = some v.pc then s.park .barrier else s.park .arrival
      | none => (s.arrive gid part none 0 0).park .barrier

/-- A counter-combining reduction (R191): rd empties, and fills at completion. -/
def State.combining (s : State) (kind : Fin 3) (b a d : Reg) : State :=
  s.onGroup a [b] fun gid part =>
    if s.me.arrived.isSome then s.park .arrival
    else
      let s := s.arrive gid part (some kind) (s.me.readX b) d
      s.complete (s.me.empty d)

/-- GSUM (R191). -/
def execGsum (b a d : BitVec 5) (s : State) : Host.Outcome State Fault Refusal := .next (s.combining 0 b a d)

/-- GMAX (R191). -/
def execGmax (b a d : BitVec 5) (s : State) : Host.Outcome State Fault Refusal := .next (s.combining 1 b a d)

/-- GMIN (R191). -/
def execGmin (b a d : BitVec 5) (s : State) : Host.Outcome State Fault Refusal := .next (s.combining 2 b a d)

end Sys2Proof.Machine
end

