-- ==== Sys2Proof/Machine/Convert.lean ====
section
/-! DEFINITION. The unit CV: format conversions and encodes (R98, R218 to R221). -/

namespace Sys2Proof.Machine

/-- The rounding mode that a conversion's code names (R97, R218). -/
def Hart.cvMode (h : Hart) (c : BitVec 2) : Rm :=
  match c with
  | 0#2 => if bitOf h.csr.compat 0 then .rmm else .rne
  | 1#2 => .rtz
  | _ => h.rm

/-- A conversion trigger: m results of a width from the source lanes from one on (R218). -/
def State.cvLanes (s : State) (g : Trig) (fn : BitVec 8) (src dst m part : Nat) (f : Hart → Nat → Nat × FFlags) : State :=
  s.compute g .cv fn [0x18] [] 3 fun h =>
    let r := (List.range m).map fun i => f h (lane src (h.readPort 0x18) (part * m + i))
    (ofLanes dst (r.map (·.1)), r.foldl (fun f x => f ||| x.2) 0, Events.none)

/-- Code of a conversion: 16 × c + pair (R218). -/
def cvCode (c pair : Nat) : BitVec 8 := BitVec.ofNat 8 (16 * c + pair)

/-- A rounded conversion of a value (R219). -/
def State.cvRounded (s : State) (g : Trig) (c : BitVec 2) (pair src dst m : Nat) (f : Rm → Bool → Nat → Nat × FFlags) : State :=
  s.cvLanes g (cvCode c.toNat pair) src dst m 0 fun h x => f (h.cvMode c) h.nanpay x

/-- An exact widening of a part (R218, R220). -/
def State.cvWiden (s : State) (g : Trig) (part pair m : Nat) (a b : Fmt) : State :=
  s.cvLanes g (cvCode part pair) (a.mag + 1) (b.mag + 1) m part fun h x => convert b .rne h.nanpay (unpack a x)

/-- Narrowing to E4M3, which has no infinity (R220). -/
def narrowE4m3 (rm : Rm) (v : Val) : Nat × FFlags :=
  match v with
  | .nan _ _ => (canonicalNan e4m3, snanFlag [v])
  | .inf n => (signed e4m3 n e4m3.maxCode, flNV)
  | .fin n m e =>
    if m ≠ 0 ∧ e4m3.maxCode < (roundMag e4m3 e4m3.qmin rm n m e).1 then (signed e4m3 n e4m3.maxCode, flOF ||| flNX)
    else roundFin e4m3 rm n m e

/-- The values of cv.x as 32 BF16 elements (R221). -/
def Hart.cvBf16 (h : Hart) : List Val := (allLanes 16 (h.readPort 0x18)).map (unpack bf16)

/-- The window context of a hart (R97, R103, R116). -/
def Hart.win (h : Hart) : WinCtx := WinCtx.of h.csr.bandsc h.csr.compat

/-- An encode trigger (R221). DEDUCED (log 36). -/
def State.cvEncode (s : State) (g : Trig) (fn : BitVec 8) (f : Hart → List Byte × Events) : State :=
  s.compute g .cv fn [0x18] [] 6 fun h =>
    let (b, ev) := f h
    (BitVec.ofNat 512 (leNat b), 0, ev)

/-- Half of a unit of 40 bytes at its places in the unit (R221). -/
def halfUnit (high : Bool) (b : List Byte) : List Byte :=
  let z (n : Nat) : List Byte := List.replicate n 0#8
  if high then z 16 ++ b.take 16 ++ z 4 ++ b.drop 16 else b.take 16 ++ z 16 ++ b.drop 16

/-- CV_BF16_F32 (R219). -/
def execCvBf16F32 (g : Trig) (c : BitVec 2) (s : State) : Host.Outcome State Fault Refusal :=
  .next (s.cvRounded g c 0 32 16 16 fun rm pay x => convert bf16 rm pay (unpack fp32 x))

/-- CV_F16_F32 (R219). -/
def execCvF16F32 (g : Trig) (c : BitVec 2) (s : State) : Host.Outcome State Fault Refusal :=
  .next (s.cvRounded g c 1 32 16 16 fun rm pay x => convert fp16 rm pay (unpack fp32 x))

/-- CV_F32_F64 (R219). -/
def execCvF32F64 (g : Trig) (c : BitVec 2) (s : State) : Host.Outcome State Fault Refusal :=
  .next (s.cvRounded g c 2 64 32 8 fun rm pay x => convert fp32 rm pay (unpack fp64 x))

/-- CV_I32_F32 (R98, R219). -/
def execCvI32F32 (g : Trig) (c : BitVec 2) (s : State) : Host.Outcome State Fault Refusal :=
  .next (s.cvRounded g c 3 32 32 16 fun rm _ x => toInteger 32 rm (unpack fp32 x))

/-- CV_I64_F64 (R98, R219). -/
def execCvI64F64 (g : Trig) (c : BitVec 2) (s : State) : Host.Outcome State Fault Refusal :=
  .next (s.cvRounded g c 4 64 64 8 fun rm _ x => toInteger 64 rm (unpack fp64 x))

/-- CV_F32_I32 (R219). -/
def execCvF32I32 (g : Trig) (c : BitVec 2) (s : State) : Host.Outcome State Fault Refusal :=
  .next (s.cvRounded g c 5 32 32 16 fun rm _ x => ofInteger fp32 rm (laneInt 32 x))

/-- CV_F64_I64 (R219). -/
def execCvF64I64 (g : Trig) (c : BitVec 2) (s : State) : Host.Outcome State Fault Refusal :=
  .next (s.cvRounded g c 6 64 64 8 fun rm _ x => ofInteger fp64 rm (laneInt 64 x))

/-- CV_E4M3_F32 (R219, R220). -/
def execCvE4m3F32 (g : Trig) (c : BitVec 2) (s : State) : Host.Outcome State Fault Refusal :=
  .next (s.cvRounded g c 7 32 8 16 fun rm _ x => narrowE4m3 rm (unpack fp32 x))

/-- CV_E5M2_F32 (R219, R220). -/
def execCvE5m2F32 (g : Trig) (c : BitVec 2) (s : State) : Host.Outcome State Fault Refusal :=
  .next (s.cvRounded g c 8 32 8 16 fun rm pay x => convert e5m2 rm pay (unpack fp32 x))

/-- CV_I8_I32 (R219): saturating, without flags. -/
def execCvI8I32 (g : Trig) (s : State) : Host.Outcome State Fault Refusal :=
  .next (s.cvLanes g (cvCode 0 9) 32 8 16 0 fun _ x => ((max (-128) (min 127 (laneInt 32 x)) % 256).toNat, 0))

/-- CV_F32_BF16 (R219). -/
def execCvF32Bf16 (g : Trig) (c : BitVec 1) (s : State) : Host.Outcome State Fault Refusal :=
  .next (s.cvWiden g c.toNat 10 16 bf16 fp32)

/-- CV_F32_F16 (R219). -/
def execCvF32F16 (g : Trig) (c : BitVec 1) (s : State) : Host.Outcome State Fault Refusal :=
  .next (s.cvWiden g c.toNat 11 16 fp16 fp32)

/-- CV_F64_F32 (R219). -/
def execCvF64F32 (g : Trig) (c : BitVec 1) (s : State) : Host.Outcome State Fault Refusal :=
  .next (s.cvWiden g c.toNat 12 8 fp32 fp64)

/-- CV_F32_E4M3 (R219). -/
def execCvF32E4m3 (g : Trig) (c : BitVec 2) (s : State) : Host.Outcome State Fault Refusal :=
  .next (s.cvWiden g c.toNat 13 16 e4m3 fp32)

/-- CV_F32_E5M2 (R219). -/
def execCvF32E5m2 (g : Trig) (c : BitVec 2) (s : State) : Host.Outcome State Fault Refusal :=
  .next (s.cvWiden g c.toNat 14 16 e5m2 fp32)

/-- CV_I32_I8 (R219): sign-extended. -/
def execCvI32I8 (g : Trig) (c : BitVec 2) (s : State) : Host.Outcome State Fault Refusal :=
  .next (s.cvLanes g (cvCode c.toNat 15) 8 32 16 c.toNat fun _ x => ((laneInt 8 x % 2 ^ 32).toNat, 0))

/-- CV_MXENC_E4M3 (R100, R221). -/
def execCvMxencE4m3 (g : Trig) (s : State) : Host.Outcome State Fault Refusal :=
  .next (s.cvEncode g 0x40 fun h => encodeBlock e4m3 h.win h.cvBf16)

/-- CV_MXENC_E5M2 (R100, R221). -/
def execCvMxencE5m2 (g : Trig) (s : State) : Host.Outcome State Fault Refusal :=
  .next (s.cvEncode g 0x41 fun h => encodeBlock e5m2 h.win h.cvBf16)

/-- CV_F4ENC_LO (R104, R221). -/
def execCvF4encLo (g : Trig) (s : State) : Host.Outcome State Fault Refusal :=
  .next (s.cvEncode g 0x42 fun h =>
    let (b, ev) := encodeUnit h.win h.cvBf16
    (halfUnit false b, ev))

/-- CV_F4ENC_HI (R104, R221). -/
def execCvF4encHi (g : Trig) (s : State) : Host.Outcome State Fault Refusal :=
  .next (s.cvEncode g 0x43 fun h =>
    let (b, ev) := encodeUnit h.win h.cvBf16
    (halfUnit true b, ev))

end Sys2Proof.Machine
end

