-- ==== Sys2Proof/Machine/LoadStoreUnit.lean ====
section
/-! DEFINITION. The unit LS: wide loads and stores of the core's scratchpad through the windows (R119, R222, R223). -/

namespace Sys2Proof.Machine

/-- Address and AUX of the LS operand (R222). -/
def lsAddress (v : Wide) : Word := v.extractLsb' 0 64
def lsAux (v : Wide) : Word := v.extractLsb' 64 64

/-- Stored bytes of 64 delivered bytes through a window; of a unit for W5 (R223). -/
def lsSpan (win : Nat) : Nat :=
  match win with
  | 0 => 64
  | 6 => 16
  | 3 | 4 => 33
  | 5 => 40
  | _ => 32

/-- Windows that an LS function admits (R223): `ld` and `st` all but W5, `ldlo` and `ldhi` W5, `ldn` and `stm` W0. -/
def lsAdmits (fn : BitVec 8) (win : Nat) : Bool :=
  match fn with
  | 0x01#8 | 0x02#8 => win == 5
  | 0x03#8 | 0x09#8 => win == 0
  | _ => win != 5

/-- The runs of stored bytes, as offset within the access and length, that an LS function touches (R222, R223). -/
def lsRuns (fn : BitVec 8) (win : Nat) (aux : Word) : List (Nat × Nat) :=
  match fn with
  | 0x03#8 => [(0, field aux 0 7)]
  | 0x09#8 => (setBits 64 aux.toNat).map fun i => (i, 1)
  | _ => [(0, lsSpan win)]

/-- AUX as the function wants it (R222). -/
def lsAuxOk (fn : BitVec 8) (aux : Word) : Bool :=
  match fn with
  | 0x03#8 => field aux 7 57 == 0 && decide (1 ≤ field aux 0 7) && decide (field aux 0 7 ≤ 64)
  | 0x09#8 => true
  | _ => aux == 0

/-- Scratchpad offset and window of an LS operand that meets every limit of R222. -/
def State.lsPlace (s : State) (fn : BitVec 8) (v : Wide) : Option (Nat × Nat) :=
  let a := lsAddress v
  let kind := if fn = 8 ∨ fn = 9 then Kind.write else Kind.read
  match s.place s.cur.core a with
  | some (.spad core off win) =>
    if field a 60 4 == 8 && lsAdmits fn win && lsAuxOk fn (lsAux v) && (win == 0 || !([1, 2, 7].contains win) || off % 2 == 0)
      && (lsRuns fn win (lsAux v)).all (fun (o, n) =>
        decide (off + o + n ≤ 0x40000) && s.protects s.cur s.me.mode kind s.device.toNat core (off + o) n)
    then some (off, win) else none
  | _ => none

/-- The operand check of LS: OPERAND on port 0x1B, then TRIGORD (R414, R419). -/
def State.lsCheck (s : State) (g : Trig) (fn : BitVec 8) (a : Option Wide) : Option (BitVec 8 × BitVec 8) :=
  match a with
  | some v => if (s.lsPlace fn v).isNone then some (0x01, 0x1B) else unorderedOnly g
  | none => unorderedOnly g

/-- Die cycles of an LS trigger by window (R208). -/
def lsLatency (win : Nat) : Nat := if 3 ≤ win ∧ win ≤ 5 then 6 else 4

/-- A load trigger of LS. -/
def State.lsLoad (s : State) (g : Trig) (fn : BitVec 8) : State :=
  s.trigger g .ls ⟨[0x1B], [], s.lsCheck g fn⟩ (fun _ => none) fun s =>
    let v := s.me.readPort 0x1B
    let (off, win) := (s.lsPlace fn v).getD (0, 0)
    let n := if fn = 3 then field (lsAux v) 0 7 else lsSpan win
    s.complete (s.me.startTrigger .ls fn (s.coreCycle s.cur.core + lsLatency win) 0 0
      (.load fn win off n s.me.csr.bandsc s.me.csr.compat))

/-- The cells that a store trigger writes, and its events (R223). -/
def State.lsCells (s : State) (fn : BitVec 8) (off win : Nat) : List (Nat × Byte) × Events :=
  let d := leBytes (s.me.readPort 0x1C).toNat 64
  let (b, ev) := windowWrite s.me.win win (if win = 3 ∨ win = 4 then bf16 else fp32) d
  let cells := b.zipIdx.map fun (x, i) => (spadKey s.cur.core (off + i), x)
  (if fn = 9 then (setBits 64 (lsAux (s.me.readPort 0x1B)).toNat).filterMap fun i => cells[i]? else cells, ev)

/-- A store trigger of LS. DEDUCED (log 35). -/
def State.lsStore (s : State) (g : Trig) (fn : BitVec 8) : State :=
  s.trigger g .ls ⟨[0x1B, 0x1C], [], s.lsCheck g fn⟩ (fun _ => none) fun s =>
    let (off, win) := (s.lsPlace fn (s.me.readPort 0x1B)).getD (0, 0)
    let (cells, ev) := s.lsCells fn off win
    let s := s.setMyCore (s.myCore.countEvents ev)
    s.complete (s.me.startTrigger .ls fn (s.coreCycle s.cur.core + lsLatency win) 0 0 (.store cells))

/-- LS_LD (R223). -/
def execLsLd (g : Trig) (s : State) : Host.Outcome State Fault Refusal := .next (s.lsLoad g 0)

/-- LS_LDLO (R223). -/
def execLsLdlo (g : Trig) (s : State) : Host.Outcome State Fault Refusal := .next (s.lsLoad g 1)

/-- LS_LDHI (R223). -/
def execLsLdhi (g : Trig) (s : State) : Host.Outcome State Fault Refusal := .next (s.lsLoad g 2)

/-- LS_LDN (R223). -/
def execLsLdn (g : Trig) (s : State) : Host.Outcome State Fault Refusal := .next (s.lsLoad g 3)

/-- LS_ST (R223). -/
def execLsSt (g : Trig) (s : State) : Host.Outcome State Fault Refusal := .next (s.lsStore g 8)

/-- LS_STM (R223). -/
def execLsStm (g : Trig) (s : State) : Host.Outcome State Fault Refusal := .next (s.lsStore g 9)

/-- UNIT_RESULT_FILL (R208): the trigger of the hart's unit completes once its latency has passed. -/
def execUnitResultFill (s : State) : Host.Outcome State Fault Refusal :=
  match s.arg with
  | .unit h u =>
    match (s.dueOf h.core (s.core h.core)).find? (fun x => x.2.1 == h && x.2.2.unit == u) with
    | some (_, _, f) => .next (s.fillFlight h f)
    | none => .next s
  | _ => .next s

end Sys2Proof.Machine
end

