-- ==== Sys2Proof/Machine/EngineQueue.lean ====
section
/-! DEFINITION. How a trigger enters the queue of MX, WB, CE or NI, and what its accesses wait for (R124, R125, R127, R136,
R206, R232 to R234). -/

namespace Sys2Proof.Machine

/-- The low bits of a latch, 0 where it is not full. -/
def Hart.latchBits (h : Hart) (p : BitVec 6) (n : Nat) : BitVec n := BitVec.ofNat n (((h.fullLatch p).getD 0).toNat)

/-- Operand latches of a unit beside its trigger operand: b, c, d and f. -/
def operandPorts : EngineUnit → Option (BitVec 6) × Option (BitVec 6) × Option (BitVec 6) × Option (BitVec 6)
  | .mx => (some 0x1F, some 0x20, none, none)
  | .ni => (none, none, some 0x28, some 0x27)
  | _ => (none, none, none, none)

/-- The snapshot of a trigger of the issuing hart (R116, R206), after its own acquire and release. -/
def State.snapshot (s : State) (g : Trig) (u : EngineUnit) (fn : BitVec 8) (after : List (BitVec 8)) : Trigger :=
  let v := s.me
  let (b, c, d, f) := operandPorts u
  let get (p : Option (BitVec 6)) (n : Nat) : BitVec n := match p with | some p => v.latchBits p n | none => 0
  { h := s.cur, seq := v.seq, fn := fn, a := v.latchBits (operandPort u) 128, b := get b 128, c := get c 64, d := get d 512,
    f := get f 64, ord := g.ord, scope := g.scope, rm := v.csr.vfcsr.extractLsb' 5 3, compat := v.csr.compat,
    bandsc := v.csr.bandsc.extractLsb' 0 16, mode := v.mode, readsAfter := v.holdAll,
    writesAfter := v.holdAll ++ v.holdWrites, after := after, born := s.nextId, earlier := v.triggers,
    entered := s.myCore.entered, cycle := s.coreCycle s.cur.core, macroOp := none }

/-- A trigger of the issuing hart enters its unit's queue (R206, R232): an acquire and a release of its ordering first, and
under revision 1 the implicit release of a tagged one, whose scope is given (R127, R136). -/
def State.queueTrigger (s : State) (g : Trig) (u : EngineUnit) (fn : BitVec 8) (implicit : Option (BitVec 2))
    (put : Core → Trigger → Core) : State :=
  let before := s.me.triggers
  let s := match implicit with | some sc => (s.release s.cur sc .none).1 | none => s
  let s := if bitOf (g.ord.zeroExtend 64) 1 then (s.release s.cur g.scope .none).1 else s
  let s := if bitOf (g.ord.zeroExtend 64) 0 then (s.acquire s.cur .none).1 else s
  let t := s.snapshot g u fn (if bitOf (g.ord.zeroExtend 64) 0 then before else [])
  let c := s.myCore
  let s := State.setMyCore { s with nextId := s.nextId + 1 } (put { c with entered := c.entered + 1 } t)
  s.complete (s.me.startTrigger u fn 0 0 0 .none)

/-- Whether a trigger may read, and whether it may write (R124, R125, R127). -/
def State.mayRead (s : State) (t : Trigger) : Bool :=
  (s.outstanding t.readsAfter).isEmpty && t.after.all fun q => !s.triggerOwes t.h .acquire q
def State.mayWrite (s : State) (t : Trigger) : Bool := s.mayRead t && (s.outstanding t.writesAfter).isEmpty

/-- The value of mx.s and wb.s (R233). -/
def statusValue (t : Trigger) : Wide := BitVec.ofNat 512 (t.seq.toNat + 256 * t.fn.toNat)

/-- A trigger of the macro-operation sequencer ends at a core, with its fault (R284, R365). -/
def State.macroEnd (s : State) (core : Nat) (fault : Option (BitVec 8 × Word)) : State :=
  let c := s.core core
  match c.tileStep with
  | some t => s.setCore core { c with tileStep := some { t with open_ := t.open_ - 1, fault := t.fault <|> fault } }
  | none => s

/-- A trigger of MX or WB completes. -/
def State.finishTrigger (s : State) (u : EngineUnit) (t : Trigger) : State :=
  if t.macroOp.isSome then s.macroEnd t.h.core none else s.setHart t.h ((s.hart t.h).fillResult u t.seq (statusValue t))

/-- Whether the protection unit permits an engine access of a trigger to a span of the issuing core (R71, R234). -/
def State.engineProtects (s : State) (t : Trigger) (k : Kind) (off len : Nat) : Bool :=
  s.protects t.h t.mode k s.device.toNat t.h.core off len

/-- The window context of a trigger's snapshot (R116). -/
def Trigger.winCtx (t : Trigger) : WinCtx := ⟨t.bandsc.toNat, bitOf t.compat 0, bitOf t.compat 2⟩

/-- Adds events to the core of a trigger. -/
def State.triggerEvents (s : State) (t : Trigger) (e : Events) : State := s.setCore t.h.core ((s.core t.h.core).countEvents e)

/-- Keys of a span of a core's scratchpad. -/
def spadKeys (core off n : Nat) : List Nat := (List.range n).map fun i => spadKey core (off + i)

/-- The first die-clock edge of a die at or after a model time, as a die cycle (R241). -/
def State.edgeFrom (s : State) (d : DieId) (t : Nat) : Nat :=
  let v := s.die d
  v.anchorCycle + (t - v.anchorTime + period v.cur - 1) / period v.cur

end Sys2Proof.Machine
end

