-- ==== Sys2Proof/Machine/Matrix.lean ====
section
/-! DEFINITION. The matrix array MX: its accumulation, its checks, its steps and accumulator moves, and its timing (R107 to
R109, R235 to R243, R249, R419). -/

namespace Sys2Proof.Machine

/-! ### Accumulation (R107 to R109) -/

/-- Whether a value is a subnormal of a format. -/
def isSubnormal (f : Fmt) (v : Val) : Bool :=
  match v with
  | .fin _ m e => m != 0 && decide (m < 2 ^ f.mbits) && e == f.qmin
  | _ => false

/-- An operand under ARRAYFTZ, and whether it is flushed (R107, R113). -/
def flushOperand (ftz : Bool) (f : Fmt) (v : Val) : Val × Nat :=
  if ftz && isSubnormal f v then (.fin v.neg 0 0, 1) else (v, 0)

/-- Adds a finite value to an exact sum, a multiple of 2^q. -/
def addExact (acc : Int × Int) (n : Bool) (m : Nat) (e : Int) : Int × Int :=
  if m = 0 then acc
  else
    let q := min acc.2 e
    (acc.1 * 2 ^ (acc.2 - q).toNat + scaleTo n m e q, q)

/-- The exact sum of finite values, as a signed multiple of 2^q. -/
def sumExact (vs : List Val) : Int × Int :=
  vs.foldl (fun (a : Int × Int) (v : Val) => match v with
    | .fin n m e => if a.1 = 0 then (scaleTo n m e e, e) else addExact a n m e
    | _ => a) (0, 0)

/-- One group of an accumulation (R107, R108): the accumulator's new code, and whether it is flushed. -/
def accumulateGroup (f : Fmt) (pay ftz : Bool) (acc : Nat) (a b : List Val) : Nat × Bool :=
  let old := unpack f acc
  if old.isNan || a.any Val.isNan || b.any Val.isNan then (nanCode f pay (a ++ b ++ [old]), false)
  else
    let products := List.zipWith exactMul a b
    let terms := old :: products.filterMap id
    let plus := terms.any fun v => v.isInf && !v.neg
    let minus := terms.any fun v => v.isInf && v.neg
    if products.any Option.isNone || (plus && minus) then (canonicalNan f, false)
    else if plus || minus then (infCode f minus, false)
    else
      let (v, q) := sumExact terms
      if v = 0 then (signed f (terms.all fun t => t.isZero && t.neg) 0, false)
      else
        let r := (roundInt f .rne v q).1
        if ftz && isSubnormal f (unpack f r) then (signed f (decide (v < 0)) 0, true)
        else (r, false)

/-- An element over the groups of its row and column (R107), and the events of its one result (R113). -/
def accumulateElement (f : Fmt) (pay ftz : Bool) (g acc : Nat) (a b : List Val) : Nat × Events :=
  let (r, flushed) := ((groupsUp g a).zip (groupsUp g b)).foldl (fun (r : Nat × Bool) (x : List Val × List Val) =>
    let (c, e) := accumulateGroup f pay ftz r.1 x.1 x.2
    (c, r.2 || e)) (acc, false)
  let inputs := unpack f acc :: (a ++ b)
  let made (p : Val → Bool) : Nat := if p (unpack f r) && !inputs.any p then 1 else 0
  (r, ⟨made Val.isNan, made Val.isInf, if flushed then 1 else 0, 0⟩)
where
  /-- A list cut into groups of g, the last one shorter. -/
  groupsUp (g : Nat) (l : List Val) : List (List Val) := groups g l ++ (if l.length % g = 0 then [] else [l.drop (l.length / g * g)])

/-- The integer of a value of the format INT8. -/
def valInt : Val → Int
  | .fin n m _ => if n then -(m : Int) else m
  | _ => 0

/-- An INT32 element (R109). -/
def accumulateInt (acc : Nat) (a b : List Val) : Nat :=
  let sum := (List.zipWith (fun x y => valInt x * valInt y) a b).foldl (· + ·) 0
  (((acc : Int) + sum) % 2 ^ 32).toNat

/-! ### Accumulators (R239) -/

/-- Width and count of the elements of a tag. -/
def accWidth (tag : BitVec 2) : Nat := if tag = 2 then 64 else 32
def accSide (tag : BitVec 2) : Nat := if tag = 2 then 8 else 16

/-- Element of a row and column of an accumulator under a tag. -/
def accElement (d : BitVec 8192) (tag : BitVec 2) (i j : Nat) : Nat :=
  d.toNat / 2 ^ (accWidth tag * (accSide tag * i + j)) % 2 ^ accWidth tag

/-- Accumulator data of elements in row-major order. -/
def accData (w : Nat) (l : List Nat) : BitVec 8192 :=
  BitVec.ofNat 8192 (l.foldr (fun x acc => x % 2 ^ w + 2 ^ w * acc) 0)

/-- The row of an accumulator as bytes. -/
def accRow (d : BitVec 8192) (tag : BitVec 2) (i : Nat) : List Byte :=
  (List.range (accSide tag)).flatMap fun j => leBytes (accElement d tag i j) (accWidth tag / 8)

/-- The accumulator of a number. -/
def Core.acc (c : Core) (n : Nat) : Acc := c.accs[n % 16]'(Nat.mod_lt _ (by decide))

/-- Replaces an accumulator. -/
def Core.setAcc (c : Core) (n : Nat) (a : Acc) : Core := { c with accs := c.accs.set (n % 16) a (Nat.mod_lt _ (by decide)) }

/-- The weight slot of a number. -/
def Core.weight (c : Core) (n : Nat) : WeightSlot := c.weights[n % 64]'(Nat.mod_lt _ (by decide))

/-! ### Operands (R235 to R237) -/

/-- Fields of an MX trigger. -/
def mxTile (a : BitVec 128) : Nat := bits a.toNat 0 6
def mxOff (a : BitVec 128) : Nat := bits a.toNat 8 18
def mxStride (a : BitVec 128) : Nat := bits a.toNat 32 16
def mxSlot (a : BitVec 128) : Nat := bits a.toNat 64 6
def mxAcc (b : BitVec 128) : Nat := bits b.toNat 0 4
def mxAfmt (b : BitVec 128) : BitVec 2 := b.extractLsb' 4 2
def mxHalf (b : BitVec 128) : Nat := bits b.toNat 6 1
def mxZa (c : BitVec 64) : Bool := bitOf c 0

/-- The rows of the table of R237, as the class that both windows must lie in. -/
inductive MxClass | bf | hf | fp8 | f4 | int8 | raw
  deriving DecidableEq, Repr

/-- Class of a window. -/
def mxClass (win : Nat) : MxClass :=
  match win with
  | 1 | 7 => .bf
  | 2 => .hf
  | 3 | 4 => .fp8
  | 5 => .f4
  | 6 => .int8
  | _ => .raw

/-- Stored bytes of 64 element bytes through a window (R237). -/
def mxRowSpan (win : Nat) : Nat :=
  match win with
  | 3 | 4 => 66
  | 5 => 80
  | _ => 64

/-- Rows and span of the A operand of a step (R236, R237). -/
def stepShape (fn : BitVec 8) (win : Nat) : Nat × Nat :=
  (if fn = 2 then 8 else 16, if fn = 1 then 2 * mxRowSpan win else mxRowSpan win)

/-- Rows and span of an accumulator move, of a tag through a window, or none where R240 does not list it. -/
def moveShape (store : Bool) (tag : BitVec 2) (win : Nat) : Option (Nat × Nat) :=
  match tag, win with
  | 0#2, 0 => some (16, 64)
  | 0#2, 1 | 0#2, 2 | 0#2, 7 => some (16, 32)
  | 0#2, 3 | 0#2, 4 => if store then some (8, 33) else none
  | 0#2, 5 => if store then some (4, 40) else none
  | 1#2, 0 => some (16, 64)
  | 1#2, 6 => some (16, 16)
  | 2#2, 0 => some (8, 64)
  | _, _ => none

/-- Whether every row span lies inside a tile region (R238). -/
def rowsInside (t : Tile) (a : BitVec 128) (shape : Nat × Nat) : Bool :=
  (List.range shape.1).all fun i => decide (mxOff a + i * mxStride a + shape.2 ≤ 64 * t.lines.toNat)

/-- The operand check of an MX function (R235, R238, R419), over the latches that are readable. -/
def State.mxCheck (s : State) (fn : BitVec 8) (a : Option Wide) : Option (BitVec 8 × BitVec 8) :=
  let v := s.me
  let b : Option (BitVec 128) := (v.fullLatch 0x1F).map (·.extractLsb' 0 128)
  let bad : Option (BitVec 8) :=
    match a with
    | none => none
    | some w =>
      let a : BitVec 128 := w.extractLsb' 0 128
      let t := s.myCore.tile (mxTile a)
      let shape : Option (Nat × Nat) :=
        if fn.toNat < 4 then some (stepShape fn t.win.toNat)
        else match fn, b with
          | 0x09#8, some b => moveShape true (s.myCore.acc (mxAcc b)).tag t.win.toNat
          | 0x0A#8, some b => moveShape false (mxAfmt b) t.win.toNat
          | _, _ => none
      let outside : Bool := match shape with | some sh => !rowsInside t a sh | none => false
      if bits a.toNat 6 2 ≠ 0 ∨ bits a.toNat 26 6 ≠ 0 ∨ bits a.toNat 48 16 ≠ 0 ∨ bits a.toNat 70 58 ≠ 0
        ∨ (fn = 1 ∧ mxSlot a = 63) ∨ outside then some 0x1E else none
  let bad := bad <|> (match b with
    | none => none
    | some b =>
      if bits b.toNat 7 121 ≠ 0 ∨ (fn.toNat < 2 ∧ mxHalf b = 1) ∨ ((fn = 0x08 ∨ fn = 0x0A) ∧ mxAfmt b = 3)
      then some 0x1F else none)
  let bad := bad <|> (match v.fullLatch 0x20 with
    | none => none
    | some c => if bits c.toNat 1 63 ≠ 0 then some 0x20 else none)
  bad.map fun p => (0x01, p)

/-- A trigger of MX by the issuing hart: it parks while its tile is not READY (R74, R414). -/
def State.mxTrigger (s : State) (g : Trig) (fn : BitVec 8) : State :=
  s.trigger g .mx ⟨[0x1E, 0x1F], [0x20], s.mxCheck fn⟩
    (fun a => match a with
      | some w =>
        let n := mxTile (w.extractLsb' 0 128)
        if (s.myCore.tile n).st = .ready then none else some (BitVec.ofNat 6 n)
      | none => none)
    fun s => s.queueTrigger g .mx fn none fun c t => { c with mxq := c.mxq ++ [t] }

/-- MX_MM (R236). -/
def execMxMm (g : Trig) (s : State) : Host.Outcome State Fault Refusal := .next (s.mxTrigger g 0x00)

/-- MX_MMW (R236). -/
def execMxMmw (g : Trig) (s : State) : Host.Outcome State Fault Refusal := .next (s.mxTrigger g 0x01)

/-- MX_MMD (R236). -/
def execMxMmd (g : Trig) (s : State) : Host.Outcome State Fault Refusal := .next (s.mxTrigger g 0x02)

/-- MX_MMN (R236). -/
def execMxMmn (g : Trig) (s : State) : Host.Outcome State Fault Refusal := .next (s.mxTrigger g 0x03)

/-- MX_ZERO (R240). -/
def execMxZero (g : Trig) (s : State) : Host.Outcome State Fault Refusal := .next (s.mxTrigger g 0x08)

/-- MX_ST (R240). -/
def execMxSt (g : Trig) (s : State) : Host.Outcome State Fault Refusal := .next (s.mxTrigger g 0x09)

/-- MX_LD (R240). -/
def execMxLd (g : Trig) (s : State) : Host.Outcome State Fault Refusal := .next (s.mxTrigger g 0x0A)

/-! ### Steps (R237, R238) -/

/-- Format of the elements of a class, and of the delivered elements of the block classes (R237); under ARRAYFTZ it says which
operands are subnormal (R107). DESIGN CHOICE (log 97). -/
def classFormat (k : MxClass) (wide : Bool) : Fmt :=
  match k with
  | .hf => fp16
  | .raw => if wide then fp64 else fp32
  | _ => bf16

/-- The elements of a row or a column of stored bytes, as values, and the events of their decoding. -/
def mxElements (c : WinCtx) (win : Nat) (wide : Bool) (b : List Byte) : List Val × Events :=
  match mxClass win with
  | .fp8 | .f4 =>
    let (d, ev) := windowRead c win b
    ((groups 2 d).map fun x => unpack bf16 (leNat x), ev)
  | .int8 => (b.map fun x => .fin x.msb x.toInt.natAbs 0, Events.none)
  | k =>
    let f := classFormat k wide
    ((groups ((f.mag + 1) / 8) b).map fun x => unpack f (leNat x), Events.none)

/-- The stored bytes of a column of a slot, its scales in place (R244). -/
def slotColumn (w : WeightSlot) (j : Nat) : List Byte :=
  let d := leBytes (w.data.toNat / 2 ^ (512 * j)) 64
  let sc := leBytes (w.scales.toNat / 2 ^ (128 * j)) 16
  match w.swin.toNat with
  | 3 | 4 => d.take 32 ++ sc.take 1 ++ d.drop 32 ++ (sc.drop 1).take 1
  | 5 => d.take 32 ++ sc.take 8 ++ d.drop 32 ++ sc.drop 8
  | _ => d

/-- What an MX trigger comes to when it runs: a fault with its code, address and DETAIL, or the core and memory after it, and
the array cycles that it takes. -/
inductive MxRun
  | fault (code : BitVec 8) (addr : Word) (detail : BitVec 16)
  | done (s : State) (cycles : Nat)

/-- Address of a row of a trigger's tile region. -/
def mxAddress (t : Tile) (a : BitVec 128) (i : Nat) : Word :=
  BitVec.ofNat 64 (2 ^ 63 + t.win.toNat * 2 ^ 18 + t.base.toNat + mxOff a + i * mxStride a)

/-- The offsets of the rows of a shape. -/
def mxRows (t : Tile) (a : BitVec 128) (shape : Nat × Nat) : List Nat :=
  (List.range shape.1).map fun i => t.base.toNat + mxOff a + i * mxStride a

/-- The slot of a step that fails the pair check, as its number and which of the two it is (R237). -/
def mxBadSlot (c : Core) (k : MxClass) (fn : BitVec 8) (slot : Nat) : Option (Nat × Nat) :=
  (if fn = 1 then [(slot, 0), (slot + 1, 1)] else [(slot, 0)]).find? fun (n, _) =>
    mxClass (c.weight n).swin.toNat != k || (fn == 2 && k != .raw)

/-- Elements of an accumulator after the accumulation of rows and columns (R107, R238): the columns computed are those from
`first` on, and each other one stays. -/
def mxAccumulate (tag : BitVec 2) (old : BitVec 8192) (pay ftz : Bool) (rows cols : List (List Val)) (first : Nat) :
    BitVec 8192 × Events :=
  let f := if tag = 2 then fp64 else fp32
  let g := if tag = 2 then 8 else 32
  let r : List (Nat × Events) := (List.range (accSide tag)).flatMap fun i => (List.range (accSide tag)).map fun j =>
    let e := accElement old tag i j
    match rows[i]?, (if first ≤ j then cols[j - first]? else none) with
    | some a, some b =>
      if tag = 1 then (accumulateInt e a b, Events.none) else accumulateElement f pay ftz g e a b
    | _, _ => (e, Events.none)
  (accData (accWidth tag) (r.map (·.1)), Events.sum (r.map (·.2)))

/-- Values of a step's rows or columns after ARRAYFTZ, with the events (R107, R113). -/
def flushAll (ftz : Bool) (f : Fmt) (l : List (List Val × Events)) : List (List Val) × Events :=
  let r : List (List Val × Events) := l.map fun (x : List Val × Events) =>
    let fl : List (Val × Nat) := x.1.map (flushOperand ftz f)
    (fl.map (·.1), x.2.plus ⟨0, 0, (fl.map (·.2)).sum, 0⟩)
  (r.map (·.1), Events.sum (r.map (·.2)))

/-- Accumulator format of a step (R237, R239). -/
def stepTag (k : MxClass) (fn : BitVec 8) : BitVec 2 := if fn = 2 then 2 else if k = .int8 then 1 else 0

/-- Array cycles of a step (R237, R241). -/
def stepCycles (k : MxClass) (fn : BitVec 8) : Nat :=
  let c := if k = .raw ∧ fn ≠ 2 then 32 else 16
  if fn = 3 then c / 2 else if fn = 1 then 2 * c else c

/-- Which slot and accumulator a step works on: its function, the window of its rows, the slot, the accumulator, the half of it, and
whether the accumulator counts as zero. -/
structure ArrayStep where
  fn : BitVec 8
  win : Nat
  slot : Nat
  acc : Nat
  half : Nat
  za : Bool
  deriving DecidableEq, Repr

/-- The checks of a step on its slot and its accumulator, as it runs (R237, R238): a code with its DETAIL. -/
def Core.stepFault (c : Core) (x : ArrayStep) : Option (BitVec 8 × BitVec 16) :=
  let k := mxClass x.win
  match mxBadSlot c k x.fn x.slot with
  | some (n, i) => some (0x20, BitVec.ofNat 16 (x.win + 16 * (c.weight n).swin.toNat + 256 * i))
  | none =>
    if !x.za ∧ (c.acc x.acc).tag ≠ stepTag k x.fn then some (0x21, 0)
    else if !x.za ∧ (c.acc x.acc).poisoned then some (0x27, BitVec.ofNat 16 (5 * 2 ^ 12 + x.acc))
    else ((if x.fn = 1 then [x.slot, x.slot + 1] else [x.slot]).find? fun n => (c.weight n).poisoned).map fun n =>
      (0x27, BitVec.ofNat 16 (6 * 2 ^ 12 + n % 64))

/-- The accumulator after a step on the stored bytes of its rows, and the events (R107, R237, R238). -/
def Core.arrayStep (c : Core) (x : ArrayStep) (ctx : WinCtx) (flush : Bool) (rows : List (List Byte)) : Acc × Events :=
  let k := mxClass x.win
  let wide := x.fn == 2
  let ftz := flush && k != .int8
  let f := classFormat k wide
  let (a, ea) := flushAll ftz f (rows.map (mxElements ctx x.win wide))
  let cols := if wide || x.fn == 3 then (List.range 8).map (· + 8 * x.half) else List.range 16
  let part (n j : Nat) : List Val × Events :=
    let w := c.weight n
    mxElements ⟨w.sband.toNat, false, ctx.nanpay⟩ w.swin.toNat wide (slotColumn w j)
  let column (j : Nat) : List Val × Events :=
    if x.fn = 1 then ((part x.slot j).1 ++ (part (x.slot + 1) j).1, (part x.slot j).2.plus (part (x.slot + 1) j).2) else part x.slot j
  let (b, eb) := flushAll ftz f (cols.map column)
  let tag := stepTag k x.fn
  let (d, er) := mxAccumulate tag (if x.za then 0 else (c.acc x.acc).data) ctx.nanpay ftz a b (if x.fn = 3 then 8 * x.half else 0)
  (⟨d, tag, false⟩, (ea.plus eb).plus er)

/-- A matrix step as it runs (R237, R238). -/
def State.mxStep (s : State) (t : Trigger) : MxRun :=
  let c := s.core t.h.core
  let tile := c.tile (mxTile t.a)
  let win := tile.win.toNat
  let x : ArrayStep := ⟨t.fn, win, mxSlot t.a, mxAcc t.b, mxHalf t.b, mxZa t.c⟩
  let shape := stepShape t.fn win
  let rows := mxRows tile t.a shape
  match c.stepFault x with
  | some (code, detail) => .fault code (if code = 0x27 then 0 else mxAddress tile t.a 0) detail
  | none =>
    match rows.find? (fun o => !s.engineProtects t .read o shape.2) with
      | some o => .fault 0x25 (BitVec.ofNat 64 (2 ^ 63 + win * 2 ^ 18 + o)) 0
      | none => match rows.find? (fun o => s.anyPoisoned (spadKeys t.h.core o shape.2)) with
        | some o => .fault cHomeSoft (BitVec.ofNat 64 (2 ^ 63 + win * 2 ^ 18 + o)) 0
        | none =>
          let (d, ev) := c.arrayStep x t.winCtx (bitOf t.compat 1)
            (rows.map fun o => Memory.readBytes s.mem (spadKey t.h.core o) shape.2)
          .done ((s.setCore t.h.core (c.setAcc x.acc d)).triggerEvents t ev) (stepCycles (mxClass win) t.fn)

/-! ### Accumulator moves (R240) -/

/-- Row r of an `mx.st`: the stored bytes and the events of their encoding (R97, R106, R240). -/
def storeRow (c : WinCtx) (acc : Acc) (win r : Nat) : List Byte × Events :=
  match win with
  | 0 => (accRow acc.data acc.tag r, Events.none)
  | 3 | 4 => windowWrite c win fp32 (accRow acc.data acc.tag (2 * r) ++ accRow acc.data acc.tag (2 * r + 1))
  | 5 => windowWrite c win fp32 ((List.range 4).flatMap fun i => accRow acc.data acc.tag (4 * r + i))
  | _ => windowWrite c win fp32 (accRow acc.data acc.tag r)

/-- `mx.st` as it runs. -/
def State.mxStoreRows (s : State) (t : Trigger) : MxRun :=
  let c := s.core t.h.core
  let tile := c.tile (mxTile t.a)
  let win := tile.win.toNat
  let acc := c.acc (mxAcc t.b)
  match moveShape true acc.tag win with
  | none => .fault 0x22 (mxAddress tile t.a 0) 0
  | some shape =>
    let rows := mxRows tile t.a shape
    if !rowsInside tile t.a shape then .fault 0x22 (mxAddress tile t.a 0) 0
    else if acc.poisoned then .fault 0x27 0 (BitVec.ofNat 16 (5 * 2 ^ 12 + mxAcc t.b))
    else match rows.find? (fun o => !s.engineProtects t .write o shape.2) with
      | some o => .fault 0x25 (BitVec.ofNat 64 (2 ^ 63 + win * 2 ^ 18 + o)) 0
      | none =>
        let data := (List.range shape.1).map (storeRow t.winCtx acc win)
        let cells := (rows.zip data).flatMap fun (o, d) => d.1.zipIdx.map fun (x, i) => (spadKey t.h.core (o + i), x)
        .done ((s.writeCells [t.h.core] cells).triggerEvents t (Events.sum (data.map (·.2)))) (accSide acc.tag)

/-- `mx.ld` as it runs. -/
def State.mxLoadRows (s : State) (t : Trigger) : MxRun :=
  let c := s.core t.h.core
  let tile := c.tile (mxTile t.a)
  let win := tile.win.toNat
  let tag := mxAfmt t.b
  match moveShape false tag win with
  | none => .fault 0x22 (mxAddress tile t.a 0) 0
  | some shape =>
    let rows := mxRows tile t.a shape
    if !rowsInside tile t.a shape then .fault 0x22 (mxAddress tile t.a 0) 0
    else match rows.find? (fun o => !s.engineProtects t .read o shape.2) with
      | some o => .fault 0x25 (BitVec.ofNat 64 (2 ^ 63 + win * 2 ^ 18 + o)) 0
      | none => match rows.find? (fun o => s.anyPoisoned (spadKeys t.h.core o shape.2)) with
        | some o => .fault cHomeSoft (BitVec.ofNat 64 (2 ^ 63 + win * 2 ^ 18 + o)) 0
        | none =>
          let data := rows.map fun o => windowRead t.winCtx win (Memory.readBytes s.mem (spadKey t.h.core o) shape.2)
          let w := accWidth tag
          let elements := data.flatMap fun d => (groups (w / 8) d.1).map leNat
          let s := s.setCore t.h.core (c.setAcc (mxAcc t.b) ⟨accData w elements, tag, false⟩)
          .done (s.triggerEvents t (Events.sum (data.map (·.2)))) (accSide tag)

/-- Codes of an accumulator's format of a row, filled up with zeros. -/
def accRowBytes (tag : BitVec 2) (b : List Byte) : List Byte :=
  b ++ List.replicate (accSide tag * accWidth tag / 8 - b.length) 0

/-- An MX trigger of the macro-operation sequencer as it runs, on the values that it finds (R240, R243, R291). -/
def State.macroRun (s : State) (t : Trigger) (op : MacroOp) : MxRun :=
  let n := t.h.core
  let c := s.core n
  let put (k : Nat) (a : Acc) (ev : Events) (cycles : Nat) : MxRun := .done ((s.setCore n (c.setAcc k a)).triggerEvents t ev) cycles
  match op with
  | .zero k tag => put k ⟨0, tag, false⟩ Events.none 2
  | .load k tag win rows =>
    let data := rows.map (windowRead t.winCtx win)
    let b := data.flatMap fun d => accRowBytes tag d.1
    put k ⟨accData (accWidth tag) ((groups (accWidth tag / 8) b).map leNat), tag, false⟩ (Events.sum (data.map (·.2))) (accSide tag)
  | .step k slot fn win band rows =>
    let x : ArrayStep := ⟨fn, win, slot, k, 0, false⟩
    (match c.stepFault x with
     | some (code, detail) => .fault code 0 detail
     | none =>
       let (d, ev) := c.arrayStep x { t.winCtx with band := band } (bitOf t.compat 1) rows
       put k d ev (stepCycles (mxClass win) fn))
  | .store k win columns rows =>
    let a := c.acc k
    if (moveShape true a.tag win).isNone then .fault 0x22 0 0
    else if a.poisoned then .fault 0x27 0 (BitVec.ofNat 16 (5 * 2 ^ 12 + k))
    else
      let out : List (List Byte × Events) := (List.range rows.length).map fun r =>
        windowWrite t.winCtx win fp32 ((accRow a.data a.tag r).take (columns * accWidth a.tag / 8))
      let s := match c.tileStep with
        | some y => s.setCore n { c with tileStep := some { y with writes := y.writes ++ rows.zip (out.map Prod.fst) } }
        | none => s
      .done (s.triggerEvents t (Events.sum (out.map Prod.snd))) (accSide a.tag)
  | .weights _ _ | .copy => .done s 0

/-- An MX trigger as it runs. -/
def State.mxRun (s : State) (t : Trigger) : MxRun :=
  match t.macroOp with
  | some op => s.macroRun t op
  | none =>
  match t.fn with
  | 0x08#8 =>
    .done (s.setCore t.h.core ((s.core t.h.core).setAcc (mxAcc t.b) ⟨0, mxAfmt t.b, false⟩)) 2
  | 0x09#8 => s.mxStoreRows t
  | 0x0A#8 => s.mxLoadRows t
  | _ => s.mxStep t

/-! ### Timing (R24, R241, R249) -/

/-- Model time units of a cycle of the array clock of 1.1 GHz (R24). -/
def arrayPeriod : Nat := 1113840

/-- Slots that an MX trigger reads. -/
def mxSlots (t : Trigger) : List Nat :=
  match t.macroOp with
  | some (.step _ slot fn _ _ _) => if fn = 1 then [slot, slot + 1] else [slot]
  | some _ => []
  | none => if t.fn = 1 then [mxSlot t.a, mxSlot t.a + 1] else if t.fn.toNat < 4 then [mxSlot t.a] else []

/-- Slot of a WB trigger. -/
def wbSlot (t : Trigger) : Nat :=
  match t.macroOp with
  | some (.weights slot _) => slot
  | _ => bits t.a.toNat 64 6

/-- The earliest time at which the array may begin the trigger at the head of its queue (R241): its fourth die cycle, after
the last array cycle of its predecessors, at an edge of the array clock. -/
def State.mxBegin (s : State) (core : Nat) (t : Trigger) : Nat :=
  let free := ((s.core core).mx.map (·.due)).foldl max (s.cycleTime (dieOf core) (t.cycle + 4))
  (free + arrayPeriod - 1) / arrayPeriod * arrayPeriod

/-- Whether the head of the MX queue may begin (R114, R121, R124, R125, R127, R241, R249): the core's slot has passed, and no earlier WB trigger of a slot that it reads is
left. -/
def State.mxMayStart (s : State) (core : Nat) (t : Trigger) : Bool :=
  let c := s.core core
  let loads := c.wbq ++ (match c.wb with | some r => [r.t] | none => [])
  decide (s.mxBegin core t ≤ s.time) && s.coreTurn core && !s.sourceHolds core 1 (some .mx)
  && !loads.any (fun w => decide (w.entered < t.entered) && (mxSlots t).contains (wbSlot w))
  && (if t.fn = 9 then s.mayWrite t else s.mayRead t)

/-- An MX or WB trigger's fault (R365): the trigger ends, and DRAINING tiles that it was the last to use become EMPTY; one of the
macro-operation sequencer faults its tile step. -/
def State.engineFault (s : State) (u : EngineUnit) (t : Trigger) (code : BitVec 8) (addr : Word) (detail : BitVec 16) : State :=
  if t.macroOp.isSome then s.macroEnd t.h.core (some (code, addr)) else
  let s := s.faultTrigger t.h u t.seq t.fn code 1 addr detail
  s.setCore t.h.core (s.core t.h.core).drainTiles

/-- MX_TRIGGER_START (R237 to R242, R249): the step or move is performed, and its array cycles run from the present edge. It makes all its
row accesses now. DESIGN CHOICE (log 110). -/
def execMxTriggerStart (s : State) : Host.Outcome State Fault Refusal :=
  match s.arg with
  | .core n =>
    match (s.core n).mxq with
    | t :: rest =>
      if s.mxMayStart n t then
        let s := s.setCore n { s.core n with mxq := rest }
        .next (match s.mxRun t with
          | .fault code addr detail => s.engineFault .mx t code addr detail
          | .done s cycles =>
            let from_ := s.time / arrayPeriod * arrayPeriod
            let c := s.core n
            s.setCore n { c with mx := c.mx ++ [⟨t, from_ + cycles * arrayPeriod⟩] })
      else .next s
    | [] => .next s
  | _ => .next s

/-- MX_RESULT_FILL (R73, R233, R241): three die cycles after the last array cycle, mx.s fills. -/
def execMxResultFill (s : State) : Host.Outcome State Fault Refusal :=
  match s.arg with
  | .core n =>
    let c := s.core n
    match c.mx with
    | r :: rest =>
      if r.due ≤ s.time ∧ s.edgeFrom (dieOf n) r.due + 3 ≤ s.coreCycle n then
        .next ((s.setCore n ({ c with mx := rest }.drainTiles)).finishTrigger .mx r.t)
      else .next s
    | [] => .next s
  | _ => .next s

end Sys2Proof.Machine
end

