-- ==== Sys2Proof/Machine/WeightBuffer.lean ====
section
/-! DEFINITION. The weight buffer WB: dense and 2:4 compressed loads, the clear, and their timing (R244 to R249, R419). -/

namespace Sys2Proof.Machine

/-- Fields of a WB trigger (R245). -/
def wbSource (a : BitVec 128) : Word := a.extractLsb' 0 64
def wbWindow (a : BitVec 128) : Nat := bits a.toNat 18 3
def wbOff (a : BitVec 128) : Nat := bits a.toNat 0 18
def wbStride (a : BitVec 128) : Nat := bits a.toNat 80 16

/-- Stored bytes of a column (R246). -/
def columnSpan (compressed : Bool) (win : Nat) : Nat :=
  if compressed then
    match win with
    | 1 | 2 | 7 => 36
    | 6 => 40
    | 3 | 4 => 42
    | _ => 64
  else mxRowSpan win

/-- Whether a source is one that a load reads: selector 0x8, region 0, a window that the function admits (R246, R419).
DEDUCED (log 55). -/
def wbSourceOk (fn : BitVec 8) (a : BitVec 128) : Bool :=
  field (wbSource a) 60 4 == 8 && field (wbSource a) 21 39 == 0 && !(fn == 1 && wbWindow a == 0)

/-- The operand check of WB (R245, R246, R419), whatever the selector of SRC; a window without a column span is no matter of it. -/
def wbCheck (fn : BitVec 8) (a : Option Wide) : Option (BitVec 8 × BitVec 8) :=
  match a with
  | none => none
  | some w =>
    let a : BitVec 128 := w.extractLsb' 0 128
    let span := columnSpan (fn == 1) (wbWindow a)
    let spans := (List.range 16).all fun j => decide (wbOff a + j * wbStride a + span ≤ 0x40000)
    let even := !([1, 2, 7].contains (wbWindow a)) || (wbOff a % 2 == 0 && wbStride a % 2 == 0)
    if bits a.toNat 70 10 ≠ 0 ∨ bits a.toNat 96 32 ≠ 0 ∨ (fn ≠ 2 ∧ !(fn = 1 ∧ wbWindow a = 0) ∧ !(spans && even))
    then some (0x01, 0x22) else none

/-- A trigger of WB by the issuing hart. -/
def State.wbTrigger (s : State) (g : Trig) (fn : BitVec 8) : State :=
  s.trigger g .wb ⟨[0x22], [], wbCheck fn⟩ (fun _ => none) fun s =>
    s.queueTrigger g .wb fn none fun c t => { c with wbq := c.wbq ++ [t] }

/-- WB_LD (R246). -/
def execWbLd (g : Trig) (s : State) : Host.Outcome State Fault Refusal := .next (s.wbTrigger g 0x00)

/-- WB_LDC (R246 to R248). -/
def execWbLdc (g : Trig) (s : State) : Host.Outcome State Fault Refusal := .next (s.wbTrigger g 0x01)

/-- WB_CLR (R246). -/
def execWbClr (g : Trig) (s : State) : Host.Outcome State Fault Refusal := .next (s.wbTrigger g 0x02)

/-! ### Columns (R244, R247, R248) -/

/-- A dense column: its element bytes and its scales. -/
def denseColumn (win : Nat) (b : List Byte) : List Byte × List Byte :=
  match win with
  | 3 | 4 => (b.take 32 ++ (b.drop 33).take 32, (b.drop 32).take 1 ++ (b.drop 65).take 1)
  | 5 => (b.take 32 ++ (b.drop 40).take 32, (b.drop 32).take 8 ++ (b.drop 72).take 8)
  | _ => (b.take 64, [])

/-- Element bits of a window's dense columns. -/
def elementBits (win : Nat) : Nat :=
  match win with
  | 1 | 2 | 7 => 16
  | 5 => 4
  | 0 => 32
  | _ => 8

/-- The dense positions of a group from its mask and its two kept elements (R248). -/
def expandGroup (mask : Nat) (kept : List Nat) : Nat → List Nat
  | 0 => []
  | n + 1 =>
    let p := 4 - (n + 1)
    if mask.testBit p then kept.headD 0 :: expandGroup mask (kept.drop 1) n else 0 :: expandGroup mask kept n

/-- A 2:4 compressed column expanded, or none where a mask has not exactly two bits set (R247, R248). -/
def expandColumn (win : Nat) (b : List Byte) : Option (List Byte × List Byte) :=
  let e := elementBits win
  let g := 128 / e
  let kept := leNat (b.take 32)
  let masks := leNat ((b.drop 32).take (g / 2))
  let mask (i : Nat) : Nat := masks / 16 ^ i % 16
  if (List.range g).all (fun i => (setBits 4 (mask i)).length == 2) then
    let dense := (List.range g).flatMap fun i =>
      expandGroup (mask i) [kept / 2 ^ (e * (2 * i)) % 2 ^ e, kept / 2 ^ (e * (2 * i + 1)) % 2 ^ e] 4
    some (leBytes (dense.foldr (fun x acc => x + 2 ^ e * acc) 0) 64, b.drop (32 + g / 2))
  else none

/-- What a WB trigger comes to when it starts. -/
inductive WbRun
  | fault (code : BitVec 8) (addr : Word)
  | ready (cycles : Nat)

/-- The columns of a load, as stored bytes. -/
def State.wbColumns (s : State) (t : Trigger) : List (List Byte) :=
  (List.range 16).map fun j =>
    Memory.readBytes s.mem (spadKey t.h.core (wbOff t.a + j * wbStride t.a)) (columnSpan (t.fn == 1) (wbWindow t.a))

/-- The slot that a trigger writes, from its columns (R244, R246, R248), or none for a bad mask. -/
def slotOfColumns (t : Trigger) (columns : List (List Byte)) : Option WeightSlot :=
  let win := wbWindow t.a
  let parts := columns.map fun b => if t.fn = 1 then expandColumn win b else some (denseColumn win b)
  if parts.any Option.isNone then none
  else
    let parts := parts.filterMap id
    let pack (n : Nat) (l : List (List Byte)) : Nat := l.foldr (fun b acc => leNat b + 2 ^ (8 * n) * acc) 0
    some { data := BitVec.ofNat 8192 (pack 64 (parts.map (·.1))), swin := BitVec.ofNat 3 win, sband := t.bandsc,
           scales := BitVec.ofNat 2048 (pack 16 (parts.map (·.2))) }

/-- The checks of a WB trigger as it starts (R234, R246, R248, R395). -/
def State.wbRun (s : State) (t : Trigger) : WbRun :=
  if t.macroOp.isSome then .ready 20
  else if t.fn = 2 then .ready 2
  else if !wbSourceOk t.fn t.a then .fault 0x26 (wbSource t.a)
  else
    let span := columnSpan (t.fn == 1) (wbWindow t.a)
    let offs := (List.range 16).map fun j => wbOff t.a + j * wbStride t.a
    let at_ (o : Nat) : Word := BitVec.ofNat 64 (2 ^ 63 + wbWindow t.a * 2 ^ 18 + o)
    match offs.find? (fun o => !s.engineProtects t .read o span) with
    | some o => .fault 0x25 (at_ o)
    | none => match offs.find? (fun o => s.anyPoisoned (spadKeys t.h.core o span)) with
      | some o => .fault cHomeSoft (at_ o)
      | none => if (slotOfColumns t (s.wbColumns t)).isNone then .fault 0x23 (wbSource t.a) else .ready (if t.fn = 1 then 16 else 20)

/-- The slot as the trigger leaves it. -/
def State.wbSlotAfter (s : State) (t : Trigger) : WeightSlot :=
  match t.macroOp with
  | some (.weights _ w) => w
  | _ =>
  if t.fn = 2 then { data := 0, swin := BitVec.ofNat 3 (wbWindow t.a), sband := t.bandsc, scales := 0 }
  else (slotOfColumns t (s.wbColumns t)).getD WeightSlot.reset

/-- Replaces a weight slot. -/
def Core.setWeight (c : Core) (n : Nat) (w : WeightSlot) : Core :=
  { c with weights := c.weights.set (n % 64) w (Nat.mod_lt _ (by decide)) }

/-- WB_TRIGGER_START (R121, R246, R249): WB is idle, the core's slot of the die cycle has passed, and no earlier MX trigger has its slot still to read. The slot's new contents
are read and written as it starts, and every MX step that would see them waits until it completes. -/
def execWbTriggerStart (s : State) : Host.Outcome State Fault Refusal :=
  match s.arg with
  | .core n =>
    let c := s.core n
    match c.wbq, c.wb with
    | t :: rest, none =>
      let reader := c.mxq.any fun m => decide (m.entered < t.entered) && (mxSlots m).contains (wbSlot t)
      if s.coreTurn n ∧ !reader ∧ s.mayRead t ∧ !s.sourceHolds n 1 (some .wb) then
        let s := s.setCore n { c with wbq := rest }
        .next (match s.wbRun t with
          | .fault code addr => s.engineFault .wb t code addr 0
          | .ready cycles =>
            let c := (s.core n).setWeight (wbSlot t) (s.wbSlotAfter t)
            s.setCore n { c with wb := some ⟨t, s.coreCycle n + cycles⟩ })
      else .next s
    | _, _ => .next s
  | _ => .next s

/-- WB_RESULT_FILL (R233, R246). -/
def execWbResultFill (s : State) : Host.Outcome State Fault Refusal :=
  match s.arg with
  | .core n =>
    let c := s.core n
    match c.wb with
    | some r =>
      if r.due ≤ s.coreCycle n then .next ((s.setCore n { c with wb := none }).finishTrigger .wb r.t)
      else .next s
    | none => .next s
  | _ => .next s

end Sys2Proof.Machine
end

