-- ==== Sys2Proof/Machine/NetworkUnit.lean ====
section
/-! DEFINITION. The network unit NI as harts trigger it: operand checks, the requests that a trigger makes, put windows and
capabilities (R234, R257 to R264, R386, R405, R419). -/

namespace Sys2Proof.Machine

/-- Operation and TAG of an NI function (R257). -/
def niOp (fn : BitVec 8) : Nat := fn.toNat / 4
def niTag (fn : BitVec 8) : Nat := fn.toNat % 4

/-- The add format of an NI operation (R257, R259). -/
def niAdd (op : Nat) : Option AddFormat :=
  match op with
  | 2 | 7 => some .i32
  | 3 => some .i64
  | 4 | 8 => some .f32
  | 5 | 9 => some .f64
  | 6 => some .bf16
  | _ => none

/-- Whether an operation moves lines of the issuing core's scratchpad, and whether it takes ni.d. -/
def niLines (op : Nat) : Bool := op == 1 || op == 7 || op == 8 || op == 9 || op == 10
def niData (op : Nat) : Bool := op == 0 || (2 ≤ op && decide (op ≤ 6)) || op == 11

/-- Fields of ni.a. -/
def niTarget (a : BitVec 128) : Word := a.extractLsb' 0 64
def niAux (a : BitVec 128) : Word := a.extractLsb' 64 64
def niSoff (a : BitVec 128) : Nat := bits a.toNat 64 18
def niCount (a : BitVec 128) : Nat := bits a.toNat 82 13

/-- Stored bytes at the target of a trigger. -/
def niSpan (op : Nat) (a : BitVec 128) (win : Nat) : Nat :=
  if niLines op then 64 * niCount a
  else if op = 0 then (match win with | 1 | 2 | 7 => 32 | 3 | 4 => 33 | 6 => 16 | _ => 64) else 64

/-- Whether a target lies in a space and a window that the operation and its TAG admit, aligned (R257, R258). -/
def State.niTargetOk (s : State) (core op tag : Nat) (a : Word) : Bool :=
  let sel := field a 60 4
  let oneCore := sel == 8 || sel == 10 || sel == 11
  let narrow (win off : Nat) : Bool :=
    if op = 0 then
      (match win with
       | 0 => a.toNat % 64 == 0
       | 1 | 2 | 7 => off % 2 == 0
       | 3 | 4 | 6 => true
       | _ => false)
    else win == 0 && a.toNat % 64 == 0
  let single := (op == 1 || 7 ≤ op && decide (op ≤ 9)) || (tag == 2 && op != 10)
  match s.place core a with
  | some (.spad _ off win) | some (.farSpad _ _ off win) => narrow win off && (!single || oneCore)
  | some .nothing => narrow (field a 18 3) (field a 0 18)
  | some (.virt _) => !single && a.toNat % 64 == 0
  | some (.window _) => op == 0 && !single && a.toNat % 64 == 0
  | _ => false

/-- Whether ni.a keeps the limits of an operation (R257, R258, R262, R263, R419). -/
def State.niAddressOk (s : State) (core op tag : Nat) (a : BitVec 128) : Bool :=
  let t := niTarget a
  if op = 11 then field t 0 3 == 0 && field t 33 31 == 0 && niAux a == 0
  else if op = 12 then
    field t 19 45 == 0 && niAux a == 0 && (decide (field t 6 13 < 4608) || field t 6 13 == 8191)
  else if op = 13 then field t 13 51 == 0 && niAux a == 0
  else
    s.niTargetOk core op tag t
    && (if niLines op then
          field (niAux a) 31 33 == 0 && decide (1 ≤ niCount a) && decide (niCount a ≤ 64) && niSoff a % 64 == 0
            && decide (niSoff a + 64 * niCount a ≤ 0x40000)
        else if op = 0 then
          (match s.place core t with
           | some (.spad _ _ win) | some (.farSpad _ _ _ win) => win == 0 || niAux a == 0
           | some .nothing => field t 18 3 == 0 || niAux a == 0
           | _ => true)
        else niAux a == 0)

/-- Whether ni.f keeps the limits of a TAG: a tile below 64, and for `ni.get` a flag of the issuing core (R257, R419).
DEDUCED (log 26). -/
def State.niFlagOk (s : State) (core op tag : Nat) (f : Word) : Bool :=
  if tag = 2 then field f 6 58 == 0
  else if tag = 1 ∧ op = 10 then (match s.place core f with | some (.spad c _ 0) => c == core | _ => false)
  else true

/-- The operand check of NI (R419). -/
def State.niCheck (s : State) (fn : BitVec 8) (a : Option Wide) : Option (BitVec 8 × BitVec 8) :=
  let core := s.cur.core
  let bad : Option (BitVec 8) :=
    match a with
    | some w => if s.niAddressOk core (niOp fn) (niTag fn) (w.extractLsb' 0 128) then none else some 0x26
    | none => none
  let bad := bad <|> (match s.me.fullLatch 0x27 with
    | some f => if niTag fn = 0 ∨ s.niFlagOk core (niOp fn) (niTag fn) (f.extractLsb' 0 64) then none else some 0x27
    | none => none)
  bad.map fun p => (0x01, p)

/-- A trigger of NI by the issuing hart. Under revision 1 a tagged one has its implicit release (R136). -/
def State.niTrigger (s : State) (g : Trig) (fn : BitVec 8) : State :=
  let op := niOp fn
  let required := [0x26] ++ (if niData op then [0x28] else []) ++ (if niTag fn = 0 then [] else [0x27])
  s.trigger g .ni ⟨required, [], s.niCheck fn⟩ (fun _ => none) fun s =>
    let a := niTarget (s.me.latchBits 0x26 128)
    let flags := if niTag fn = 1 then [s.me.latchBits 0x27 64] else []
    let implicit := if niTag fn ≠ 0 ∧ s.revision s.cur.core = 1 then some (s.implicitScope s.cur.core (a :: flags)) else none
    s.queueTrigger g .ni fn implicit fun c t => { c with niq := c.niq ++ [t] }

/-- Function code of an operation and a TAG. -/
def niFn (op : Nat) (t : BitVec 2) : BitVec 8 := BitVec.ofNat 8 (4 * op + t.toNat)

/-- NI_ST (R258). -/
def execNiSt (g : Trig) (t : BitVec 2) (s : State) : Host.Outcome State Fault Refusal := .next (s.niTrigger g (niFn 0 t))

/-- NI_TST (R257). -/
def execNiTst (g : Trig) (t : BitVec 2) (s : State) : Host.Outcome State Fault Refusal := .next (s.niTrigger g (niFn 1 t))

/-- NI_VADD_I32 (R259). -/
def execNiVaddI32 (g : Trig) (t : BitVec 2) (s : State) : Host.Outcome State Fault Refusal := .next (s.niTrigger g (niFn 2 t))

/-- NI_VADD_I64 (R259). -/
def execNiVaddI64 (g : Trig) (t : BitVec 2) (s : State) : Host.Outcome State Fault Refusal := .next (s.niTrigger g (niFn 3 t))

/-- NI_VADD_F32 (R259). -/
def execNiVaddF32 (g : Trig) (t : BitVec 2) (s : State) : Host.Outcome State Fault Refusal := .next (s.niTrigger g (niFn 4 t))

/-- NI_VADD_F64 (R259). -/
def execNiVaddF64 (g : Trig) (t : BitVec 2) (s : State) : Host.Outcome State Fault Refusal := .next (s.niTrigger g (niFn 5 t))

/-- NI_VADD_BF16 (R259). -/
def execNiVaddBf16 (g : Trig) (t : BitVec 2) (s : State) : Host.Outcome State Fault Refusal := .next (s.niTrigger g (niFn 6 t))

/-- NI_TADD_I32 (R259). -/
def execNiTaddI32 (g : Trig) (t : BitVec 2) (s : State) : Host.Outcome State Fault Refusal := .next (s.niTrigger g (niFn 7 t))

/-- NI_TADD_F32 (R259). -/
def execNiTaddF32 (g : Trig) (t : BitVec 2) (s : State) : Host.Outcome State Fault Refusal := .next (s.niTrigger g (niFn 8 t))

/-- NI_TADD_F64 (R259). -/
def execNiTaddF64 (g : Trig) (t : BitVec 2) (s : State) : Host.Outcome State Fault Refusal := .next (s.niTrigger g (niFn 9 t))

/-- NI_GET (R260). -/
def execNiGet (g : Trig) (t : BitVec 2) (s : State) : Host.Outcome State Fault Refusal := .next (s.niTrigger g (niFn 10 t))

/-- NI_MSG (R261). -/
def execNiMsg (g : Trig) (s : State) : Host.Outcome State Fault Refusal := .next (s.niTrigger g 0x2C)

/-- NI_WIN (R262): MODE in U mode. -/
def execNiWin (g : Trig) (s : State) : Host.Outcome State Fault Refusal :=
  .next (if s.me.mode = .user then s.trapCode 0x03 0 else s.niTrigger g 0x30)

/-- NI_CAP (R263). -/
def execNiCap (g : Trig) (s : State) : Host.Outcome State Fault Refusal := .next (s.niTrigger g 0x34)

/-! ### From the trigger queue into the outbound queue (R234, R258 to R264, R386) -/

/-- The arrival of a trigger. -/
def niArrival (t : Trigger) : Arrival :=
  match niTag t.fn with
  | 1 => .flag t.f
  | 2 => .tile (niTarget t.a) (t.f.extractLsb' 0 6)
  | _ => .none

/-- Whether a scratchpad span at an address lies within its scratchpad; through selector 0x9, within the cluster's, and with
no part on a disabled core (R65); and on no die that the device lacks (R2). -/
def State.spanFits (s : State) (core : Nat) (a : Word) (n : Nat) : Bool :=
  !s.absentDie a && match s.place core a with
  | some (.spad _ off _) | some (.farSpad _ _ off _) =>
    if field a 60 4 = 9 then decide (field a 0 22 + n ≤ 0x400000) && (s.spanCores core a n).all s.enabled
    else decide (off + n ≤ 0x40000)
  | some (.window off) => decide (off + n ≤ 0x400000)
  | _ => true

/-- Whether the protection unit permits a trigger's access to the stored bytes at an address (R71, R234). -/
def State.targetProtects (s : State) (t : Trigger) (k : Kind) (a : Word) (n : Nat) : Bool :=
  match s.place t.h.core a with
  | some (.spad c off _) =>
    if field a 60 4 = 9 then
      (List.range n).all fun i =>
        let (c, o) := stripe ((field a 0 22 + i) % 2 ^ 22)
        s.protects t.h t.mode k s.device.toNat (t.h.core / 16 * 16 + c) o 1
    else s.protects t.h t.mode k s.device.toNat c off n
  | some (.farSpad d c off _) => s.protects t.h t.mode k d c off n
  | _ => true

/-- Whether an address is that of a flag word (R76): aligned to 8, in scratchpad through W0 or in the coherent window. -/
def State.flagWord (s : State) (core : Nat) (a : Word) : Bool :=
  a.toNat % 8 == 0 && (match s.place core a with
    | some (.spad _ _ 0) | some (.farSpad _ _ _ 0) | some (.window _) => true
    | some .nothing => field a 18 3 == 0
    | _ => false)

/-- Kinds of access of an operation to its target (R71). -/
def niKind (op : Nat) : Kind := if op = 10 then .read else if (niAdd op).isSome then .readWrite else .write

/-- The first fault that NI finds as it takes a trigger: code and address (R234, R386, R395, R419). DEDUCED (log 51). -/
def State.niFault (s : State) (t : Trigger) : Option (BitVec 8 × Word) :=
  let op := niOp t.fn
  let core := t.h.core
  let a := niTarget t.a
  let n := niSpan op t.a (match s.place core a with | some p => p.win | none => 0)
  let line : Word := BitVec.ofNat 64 (2 ^ 63 + niSoff t.a)
  if op = 11 then
    if s.dieCount = 1 ∧ field a 20 13 = s.device.toNat ∧ field a 18 2 ≠ 0 then some (0x26, a) else none
  else if 11 < op then none
  else if niLines op ∧ !s.engineProtects t (if op = 10 then .write else .read) (niSoff t.a) (64 * niCount t.a) then some (0x25, line)
  else if !s.spanFits core a n then some (0x26, a)
  else if !s.targetProtects t (niKind op) a n then some (0x25, a)
  else if niTag t.fn = 1 ∧ (!s.flagWord core t.f ∨ s.absentDie t.f) then some (0x26, t.f)
  else if niTag t.fn = 1 ∧ !s.targetProtects t .write t.f 8 then some (0x25, t.f)
  else if niLines op ∧ op ≠ 10 ∧ s.anyPoisoned (spadKeys core (niSoff t.a) (64 * niCount t.a)) then some (cHomeSoft, line)
  else none

/-- A request of a trigger of NI. -/
def State.niRequest (s : State) (t : Trigger) : Req :=
  { s.hartReq t.h with
    src := .engine t.h .ni t.seq t.fn, user := t.mode == .user, born := t.born, addr := niTarget t.a,
    waits := t.readsAfter ++ t.writesAfter }

/-- The bytes that `ni.st` writes, encoded at the source with the snapshot, and its events (R258). -/
def State.niStored (s : State) (t : Trigger) : ReqOp × List Byte × Events :=
  let d := leBytes t.d.toNat 64
  match (match s.place t.h.core (niTarget t.a) with
    | some (.spad _ _ win) | some (.farSpad _ _ _ win) => win
    | _ => 0) with
  | 0 => (if niAux t.a = BitVec.allOnes 64 then ReqOp.write else .writeMasked (niAux t.a), d, Events.none)
  | win =>
    let (b, ev) := windowWrite t.winCtx win (if win = 3 ∨ win = 4 then bf16 else fp32) d
    (.write, b, ev)

/-- The requests of a trigger (R258 to R261), and the events of its encoding. DEDUCED (log 10). -/
def State.niRequests (s : State) (t : Trigger) : List Req × Events :=
  let op := niOp t.fn
  let r := s.niRequest t
  let arrival := niArrival t
  let local_ := Memory.readBytes s.mem (spadKey t.h.core (niSoff t.a)) (64 * niCount t.a)
  if op = 0 then
    let (o, d, ev) := s.niStored t
    ([{ r with op := o, data := d, arrival := arrival }], ev)
  else if op = 10 then
    ((List.range (niCount t.a)).map fun i =>
      { r with
        addr := r.addr + BitVec.ofNat 64 (64 * i), op := .read 64,
        dest := .lines (niSoff t.a + 64 * i) arrival t.writesAfter, waits := t.readsAfter }, Events.none)
  else if op = 11 then
    ([{ r with op := .message (niTarget t.a) (t.d.extractLsb' 0 64) }], Events.none)
  else
    let o := match niAdd op with | some f => ReqOp.addEach f | none => .write
    ([{ r with op := o, data := if op = 1 ∨ 7 ≤ op then local_ else leBytes t.d.toNat 64, arrival := arrival }], Events.none)

/-- The NI takes the trigger at the head of its queue, where it has room and the trigger may read (R127, R232, R264, R373), after the
slot of the die cycle in which it does (R114). -/
def State.takeTrigger (s : State) (core : Nat) : State :=
  let c := s.core core
  match c.niq with
  | t :: rest =>
    let n := if niOp t.fn = 10 then niCount t.a else 1
    let used := s.queuedOf core
    let cycle := if s.slotPending core then s.coreCycle core - 1 else s.coreCycle core
    if 12 ≤ niOp t.fn ∨ cycle ≤ t.cycle ∨ !s.mayRead t ∨ s.sourceHolds core 2 none ∨ s.sourceHolds core 1 (some .ni) ∨ (used ≠ 0 ∧ 64 < used + n) then s
    else
      let s := s.setCore core { c with niq := rest }
      match s.niFault t with
      | some (code, a) => s.faultTrigger t.h .ni t.seq t.fn code 2 a 0
      | none =>
        let (rs, ev) := s.niRequests t
        rs.foldl (fun (s : State) (r : Req) => s.issueReq t.h r) (s.triggerEvents t ev)
  | [] => s

/-- Takes triggers at a core while it can, at most as many as its queue can hold. -/
def State.takeTriggers (s : State) (core : Nat) : State :=
  (s.core core).niq.foldl (fun (s : State) (_ : Trigger) => s.takeTrigger core) s

/-- Every NI of the device takes what it can. -/
def State.takeAll (s : State) : State :=
  s.cores.foldl (fun (s : State) (c : Nat × Core) => if c.2.niq.isEmpty then s else s.takeTriggers c.1) s

/-! ### Local functions (R261 to R263) -/

/-- The capability word of a peer (R263, R405). DEDUCED (log 85). -/
def State.capability (s : State) (device : Nat) : Word :=
  if s.domSize.toNat ≤ device then 0 else (tableGet s.caps device).getD 0

/-- The binding of a put window of a context: one with accesses uncompleted waits (R262). -/
def State.bindWindow (s : State) (ctx : Option (BitVec 8)) (w : Nat) (device : BitVec 13) : Option State :=
  match ctx with
  | some n => match s.ctx? n with
    | some c =>
      let old := (tableGet c.windows w).getD ⟨0, 0, none⟩
      if old.issued = old.acked then
        some (s.setCtx n { c with windows := tableSet c.windows w { old with device := some device } })
      else none
    | none => some s
  | none => some s

/-- NI_LOCAL_TRIGGER_COMPLETE (R261 to R263): the `ni.win` or `ni.cap` at the head of a core's queue. -/
def execNiLocalTriggerComplete (s : State) : Host.Outcome State Fault Refusal :=
  match s.arg with
  | .core n =>
    let c := s.core n
    match c.niq with
    | t :: rest =>
      let t' := niTarget t.a
      let done (s : State) (v : Wide) : State :=
        (s.setCore n { s.core n with niq := rest }).setHart t.h (((s.setCore n { s.core n with niq := rest }).hart t.h).fillResult .ni t.seq v)
      if s.coreCycle n ≤ t.cycle ∨ !s.mayWrite t then .next s
      else if niOp t.fn = 12 then
        .next (match s.bindWindow c.ctx (field t' 0 6) (t'.extractLsb' 6 13) with
          | some s => done s 0
          | none => s)
      else if niOp t.fn = 13 then .next (done s (BitVec.ofNat 512 (s.capability (field t' 0 13)).toNat))
      else .next s
    | [] => .next s
  | _ => .next s

end Sys2Proof.Machine
end

