-- ==== Sys2Proof/Machine/CopyEngine.lean ====
section
/-! DEFINITION. The copy engine CE: its triggers, the commands of a list as the engine reaches them, their transfers and
their completion (R250 to R256, R365, R419, R422). -/

namespace Sys2Proof.Machine

/-! ### Triggers (R250, R255) -/

/-- The operand check of CE (R250, R419). -/
def ceCheck (fn : BitVec 8) (a : Option Wide) : Option (BitVec 8 × BitVec 8) :=
  match a with
  | none => none
  | some w =>
    let a : BitVec 128 := w.extractLsb' 0 128
    let l := ceList a
    if bits a.toNat 80 48 ≠ 0 ∨ field l 0 6 ≠ 0 ∨ (fn = 0 ∧ !(field l 60 4 == 8 && field l 18 42 == 0))
    then some (0x01, 0x24) else none

/-- The releases that revision 1 puts before the tagged commands of a list hold the later writes of its hart from its trigger on
(R136). -/
def State.impliedHold (s : State) (h : HartRef) (t : Trigger) : State :=
  if s.revision h.core == 1 && s.textReleases t (ceList t.a) (ceMax t.a) then
    let id := s.nextId
    (s.addReq { s.hartReq h with kind := .implied, after := [t.seq] }).holdLater h [] [id]
  else s

/-- A trigger of CE by the issuing hart. -/
def State.ceTrigger (s : State) (g : Trig) (fn : BitVec 8) : State :=
  s.trigger g .ce ⟨[0x24], [], ceCheck fn⟩ (fun _ => none) fun s =>
    let t := s.snapshot g .ce fn []
    (s.queueTrigger g .ce fn none fun c t => { c with ceq := c.ceq ++ [t] }).impliedHold t.h t

/-- CE_RUN (R250). -/
def execCeRun (g : Trig) (s : State) : Host.Outcome State Fault Refusal := .next (s.ceTrigger g 0x00)

/-- CE_RUNV (R250). -/
def execCeRunv (g : Trig) (s : State) : Host.Outcome State Fault Refusal := .next (s.ceTrigger g 0x01)

/-- CE_LIST_ACTIVATE (R255); a trigger of the macro-operation sequencer has staged or written its bytes (R283). -/
def execCeListActivate (s : State) : Host.Outcome State Fault Refusal :=
  match s.arg with
  | .core n =>
    let c := s.core n
    match c.ceq with
    | t :: rest =>
      if t.macroOp.isSome then .next (if t.cycle < s.coreCycle n then (s.setCore n { c with ceq := rest }).macroEnd n none else s)
      else if c.lists.length < 8 ∧ t.cycle < s.coreCycle n ∧ !s.sourceHolds n 1 (some .ce) then
        let l : CeList := { t := t, pc := ceList t.a, reached := 0, completed := 0, cmds := [], waiting := false, ended := false,
                            stopped := false, reading := none, word := none, from_ := 0 }
        .next (s.setCore n { c with ceq := rest, lists := c.lists ++ [l] })
      else .next s
    | [] => .next s
  | _ => .next s

/-! ### Lists -/

/-- Replaces a list of a core, which its trigger names. -/
def State.setList (s : State) (core : Nat) (l : CeList) : State :=
  let c := s.core core
  let one (x : CeList) : CeList := if x.t.h = l.t.h ∧ x.t.seq = l.t.seq then l else x
  s.setCore core { c with lists := c.lists.map one, ending := c.ending.map one }

/-- The list of a trigger: active, or ended by a fault with transfers on their way (R365). -/
def State.listOf (s : State) (core : Nat) (h : HartRef) (seq : BitVec 8) : Option CeList :=
  ((s.core core).lists ++ (s.core core).ending).find? fun l => l.t.h == h && l.t.seq == seq

/-- Replaces a command of a list. -/
def CeList.setCommand (l : CeList) (c : CeCommand) : CeList := { l with cmds := l.cmds.map fun x => if x.n = c.n then c else x }

/-- A copy list's fault (R365, R422): the list ends at its first command in progress, whose issued transfers go on, and later commands
perform nothing. -/
def State.faultList (s : State) (core : Nat) (seq : BitVec 8) (h : HartRef) (code : BitVec 8) (source : Nat) (kind : BitVec 8)
    (addr : Word) (detail : BitVec 16) : State :=
  let c := s.core core
  let mine (l : CeList) : Bool := l.t.h == h && l.t.seq == seq
  let stopped := (c.lists.filter mine).map fun (l : CeList) => { l with cmds := l.cmds.take 1, reading := none }
  let first (n : Nat) : Bool := stopped.any fun l => l.cmds.any fun k => k.n == n
  let left := stopped.flatMap fun l => l.cmds.flatMap (·.left)
  let s := s.writeCells [core] (left.flatMap fun (off, b) => b.zipIdx.map fun (x, i) => (spadKey core (off + i), x))
  let stopped := stopped.map fun (l : CeList) => { l with cmds := l.cmds.map fun k => { k with left := [] } }
  let c := s.core core
  let s := s.setCore core { c with
    lists := c.lists.filter fun l => !mine l, ending := if (s.ofList core h seq).isEmpty then c.ending else c.ending ++ stopped }
  let unsent (r : Req) : Bool := r.stage == .queued && (match r.src with
    | .copyList core' seq' h' n => core' == core && seq' == seq && h' == h && !first n
    | _ => false)
  let s := { s with reqs := s.reqs.filter fun r => !unsent r }
  s.faultTrigger h .ce seq kind code source addr detail

/-- A fault that ends a list, with the KIND and address of its command (R365, R422). -/
def State.endList (s : State) (core : Nat) (l : CeList) (code : BitVec 8) (kind : BitVec 8) (addr : Word) : State :=
  s.faultList core l.t.seq l.t.h code 1 kind addr 0

/-- What a list finds as it reaches its next command: nothing to do yet, or the command's bytes. -/
inductive Reached
  | wait (s : State)
  | command (s : State) (w : BitVec 512)

/-- A list reaches its next command (R250, R254, R422): WAIT holds later ones, and a list of virtual space is read through the
NI. -/
def State.reachCommand (s : State) (core : Nat) (l : CeList) : Reached :=
  if l.closed || l.waiting || !s.mayRead l.t || s.sourceHolds core 1 (some .ce) then .wait s
  else if l.t.fn = 0 then
    match s.place core l.pc with
    | some (.spad c off 0) =>
      if c ≠ core ∨ field l.pc 60 4 ≠ 8 ∨ 0x40000 < off + 64 then
        .wait (if l.cmds.isEmpty then s.endList core l 0x26 0 l.pc else s)
      else if !s.engineProtects l.t .read off 64 then .wait (if l.cmds.isEmpty then s.endList core l 0x25 0 l.pc else s)
      else if s.anyPoisoned (spadKeys core off 64) then
        .wait (if l.cmds.isEmpty then s.endList core l cHomeSoft 0 l.pc else s)
      else .command s (BitVec.ofNat 512 (leNat (Memory.readBytes s.mem (spadKey core off) 64)))
    | _ => .wait (if l.cmds.isEmpty then s.endList core l 0x26 0 l.pc else s)
  else if !isVirtual l.pc || field l.pc 57 3 != 0 then .wait (if l.cmds.isEmpty then s.endList core l 0x26 0 l.pc else s)
  else match l.word with
    | some w => .command (s.setList core { l with word := none }) w
    | none =>
      if l.reading.isSome || s.niFull core then .wait s
      else
        let r := { s.hartReq l.t.h with
          src := .copyList core l.t.seq l.t.h l.reached, user := l.t.mode == .user, born := l.t.born, addr := l.pc, op := .read 64,
          dest := .command, waits := l.t.readsAfter }
        .wait ((s.issueReq l.t.h r).setList core { l with reading := some s.nextId })

/-- The turn of a copy engine on an active list (R254): its next command, which becomes the current one, or a state without
one. A command that is none ends the list once every earlier command has completed (R365, R422). -/
def State.copyTurn (s : State) (core i : Nat) : State × Option Instr :=
  match (s.core core).lists[i]? with
  | none => (s, none)
  | some l => match s.reachCommand core l with
    | .wait s => (s, none)
    | .command s w => match decodeCopy w with
      | some c => ({ s with ceCur := (core, i, l.reached) }, some c)
      | none => (if l.cmds.isEmpty then s.endList core l 0x24 (w.extractLsb' 0 8) l.pc else s, none)

/-! ### Checks (R252, R253, R422) -/

/-- Classes of delivered values (R253). -/
inductive CopyClass | raw | fp32 | int32 | block
  deriving DecidableEq, Repr
def copyClass (win : Nat) : CopyClass :=
  match win with
  | 0 => .raw
  | 6 => .int32
  | 3 | 4 | 5 => .block
  | _ => .fp32

/-- Whether a space may stand in SRC or DST: 0x0, 0x8 region 0, 0x9, 0xA, 0xB or 0xD (R252). -/
def State.copySpace (s : State) (core : Nat) (a : Word) : Bool :=
  match s.place core a with
  | some (.spad c _ _) =>
    (field a 60 4 != 8 && field a 60 4 != 9) || ((s.enabled c) && (field a 60 4 == 8 || field a 60 4 == 9))
  | some (.farSpad _ _ _ _) | some .nothing | some (.virt _) | some (.window _) => true
  | _ => false

/-- Stored bytes that a command reads or writes: some rows from an address on, a stride apart. -/
structure CopySpan where
  kind : Kind
  addr : Word
  stride : Word
  rows : Nat
  n : Nat
  deriving DecidableEq, Repr

/-- The first address of each row of a span. -/
def CopySpan.starts (x : CopySpan) : List Word := (List.range x.rows).map fun r => x.addr + BitVec.ofNat 64 r * x.stride

/-- The checks of spans (R422): whether each keeps ENGADDR, and then whether each keeps ENGPROT. -/
def State.copySpans (s : State) (t : Trigger) (l : List CopySpan) : Option (BitVec 8) :=
  if !l.all (fun x => x.starts.all fun a => s.copySpace t.h.core a && s.spanFits t.h.core a x.n) then some 0x26
  else if !l.all (fun x => x.starts.all fun a => s.targetProtects t x.kind a x.n) then some 0x25
  else none

/-- The core whose scratchpad an address names through 0x8, 0xA or 0xB, as its device and its number; one that does not exist by
the fields of its address (R252). -/
def State.oneCoreOf (s : State) (core : Nat) (a : Word) : Option (Nat × Nat) :=
  if field a 60 4 = 9 then none
  else match s.place core a with
    | some (.spad c _ _) => some (s.device.toNat, c)
    | some (.farSpad d c _ _) => some (d, c)
    | some .nothing => some (5120 + field a 34 13, field a 21 13)
    | _ => none

/-- Whether TAG 2 may name the destination of a command: all its rows lie on one core (R252). -/
def State.oneCore (s : State) (core : Nat) (f : CFields) (rows : Nat) : Bool :=
  (s.oneCoreOf core f.dst).isSome
  && (List.range rows).all fun r => s.oneCoreOf core (f.dst + BitVec.ofNat 64 r * f.dstride) == s.oneCoreOf core f.dst

/-- What a TAG asks of a command of some rows: a flag word of R76, or a destination on one core. -/
def State.tagOk (s : State) (core : Nat) (f : CFields) (rows : Nat) : Bool :=
  match f.tag with
  | 1#2 => s.flagWord core f.tagw
  | 2#2 => s.oneCore core f rows && decide (f.tagw.toNat < 64)
  | _ => true

/-- The check of the flag of a command with TAG 1: ENGADDR, then ENGPROT (R2, R71, R234). -/
def State.tagSpan (s : State) (t : Trigger) (f : CFields) : Option (BitVec 8) :=
  if f.tag ≠ 1 then none
  else if s.absentDie f.tagw then some 0x26
  else if !s.targetProtects t .write f.tagw 8 then some 0x25
  else none

/-- The checks of COPY, COPY2D and GATHER (R253, R422), with their rows. -/
def State.copyCheck (s : State) (t : Trigger) (f : CFields) (rows : Nat) (gather : Bool) : Option (BitVec 8) :=
  let core := t.h.core
  let sw := s.copyWindow core f.src
  let dw := s.copyWindow core f.dst
  let n := f.len.toNat
  let idx := match s.place core f.idx with
    | some (.spad c off 0) => c == core && f.idx.toNat % 4 == 0 && field f.idx 60 4 == 8 && decide (off < 0x40000)
    | _ => false
  let dst : CopySpan := ⟨.write, f.dst, f.dstride, rows, storedSize dw n⟩
  if !s.tagOk core f rows ∨ n = 0 ∨ n % unitDelivered sw ≠ 0 ∨ n % unitDelivered dw ≠ 0 ∨ copyClass sw ≠ copyClass dw ∨ rows = 0
  then some 0x24
  else if gather then
    (if s.copySpace core f.src then none else some 0x26) <|> s.copySpans t [dst]
    <|> (if idx then s.copySpans t [⟨.read, f.idx, 0, 1, 4 * rows⟩] else some 0x24) <|> s.tagSpan t f
  else s.copySpans t [⟨.read, f.src, f.sstride, rows, storedSize sw n⟩, dst] <|> s.tagSpan t f

/-- The checks of FILL and WRITE. -/
def State.fillCheck (s : State) (t : Trigger) (f : CFields) (n align : Nat) : Option (BitVec 8) :=
  if !s.tagOk t.h.core f 1 ∨ s.copyWindow t.h.core f.dst ≠ 0 ∨ f.dst.toNat % align ≠ 0 then some 0x24
  else s.copySpans t [⟨.write, f.dst, 0, 1, n⟩] <|> s.tagSpan t f

/-- The checks of WAIT. -/
def State.waitCheck (s : State) (t : Trigger) (f : CFields) : Option (BitVec 8) :=
  match s.place t.h.core f.src with
  | some (.spad c off 0) =>
    if c ≠ t.h.core ∨ f.src.toNat % 8 ≠ 0 ∨ field f.dst 48 16 ≠ 0 then some 0x24
    else if !s.engineProtects t .read off 8 then some 0x25
    else if s.anyPoisoned (spadKeys c off 8) then some cHomeSoft
    else none
  | _ => some 0x24

/-! ### The releases of revision 1 (R135, R136) -/

/-- Whether revision 1 puts a release before a command: it is flagged or tile-tagged. DEDUCED (log 83). -/
def State.impliesRelease (s : State) (core : Nat) (c : CeCommand) : Bool :=
  s.revision core == 1 && (c.f.tag != 0 || c.kind == 6)

/-- The data and flag addresses of a command. -/
def CeCommand.places (c : CeCommand) : List Word := (if c.kind = 0 then [] else [c.f.dst]) ++ (if c.f.tag = 1 then [c.f.tagw] else [])

/-- The release that revision 1 puts before a command, at the place of its trigger in the program (R136): the hart's later writes
wait for it. -/
def State.impliedRelease (s : State) (core : Nat) (l : CeList) (c : CeCommand) : State × CeCommand :=
  let (s, id) := s.releaseAt l.t.h (s.implicitScope core c.places) .none l.t.born l.t.earlier
  (s, { c with release := some id })

/-- Whether the implicit release of a command has performed, and the accesses within its scope of every earlier command of its list have
completed (R136). -/
def State.released (s : State) (core : Nat) (l : CeList) (c : CeCommand) : Bool :=
  !s.impliesRelease core c || ((match c.release with | some id => (s.outstanding [id]).isEmpty | none => false)
    && (l.cmds.takeWhile fun e => e.n != c.n).all fun e =>
      let scope := s.implicitScope core c.places
      !s.commandWrites core scope l e && !s.commandReadsIn core scope l e)

/-! ### Commands as the engine reaches them (R252, R254) -/

/-- The current list reaches a command: one that fails its check ends the list once every earlier command has completed, and
every other one joins those in progress with its number of rows. -/
def State.reach (s : State) (kind : BitVec 8) (f : CFields) (check : Trigger → Option (BitVec 8)) (rows : Nat)
    (change : CeList → CeList) : State :=
  let (core, i, _) := s.ceCur
  match (s.core core).lists[i]? with
  | none => s
  | some l =>
    match check l.t with
    | some code => if l.cmds.isEmpty then s.endList core l code kind l.pc else s
    | none =>
      let c : CeCommand := { n := l.reached, kind := kind, f := f, addr := l.pc, row := 0, first := 0, rows := rows, open_ := [],
                             arrivalSent := false, left := [], release := none }
      let (s, c) := if s.impliesRelease core c then s.impliedRelease core l c else (s, c)
      s.setList core (change { l with cmds := l.cmds ++ [c], reached := l.reached + 1, pc := l.pc + 64 })

/-- Delivered bytes of one transfer between two windows (R255). -/
def transferUnit (sw dw : Nat) : Nat := if sw = 5 ∨ dw = 5 then 128 else 64

/-- CC_END (R252, R254). DEDUCED (log 19). -/
def execCcEnd (c : CFields) (s : State) : Host.Outcome State Fault Refusal :=
  .next (s.reach 0x00 c (fun t => if s.tagOk t.h.core c 1 then s.tagSpan t c else some 0x24) 0 fun l =>
    { l with ended := true })

/-- CC_COPY (R252, R253). -/
def execCcCopy (c : CFields) (s : State) : Host.Outcome State Fault Refusal :=
  .next (s.reach 0x01 c (fun t => s.copyCheck t c 1 false) 1 id)

/-- CC_COPY2D (R252, R253). -/
def execCcCopy2d (c : CFields) (s : State) : Host.Outcome State Fault Refusal :=
  .next (s.reach 0x02 c (fun t => s.copyCheck t c c.rows.toNat false) c.rows.toNat id)

/-- CC_FILL (R252). -/
def execCcFill (c : CFields) (s : State) : Host.Outcome State Fault Refusal :=
  .next (s.reach 0x03 c (fun t => s.fillCheck t c c.len.toNat 1) (if c.len = 0 then 0 else 1) id)

/-- CC_GATHER (R252, R253). -/
def execCcGather (c : CFields) (s : State) : Host.Outcome State Fault Refusal :=
  .next (s.reach 0x04 c (fun t => s.copyCheck t c c.rows.toNat true) c.rows.toNat id)

/-- CC_WAIT (R252, R255): a list whose word is not reached is held in WAIT. -/
def execCcWait (c : CFields) (s : State) : Host.Outcome State Fault Refusal :=
  let core := s.ceCur.1
  .next (s.reach 0x05 c (fun t => s.waitCheck t c) 0 fun l => s.evalWait core { l with waiting := true })

/-- CC_BUMP (R252). -/
def execCcBump (c : CFields) (s : State) : Host.Outcome State Fault Refusal :=
  .next (s.reach 0x06 c (fun t =>
    if !s.flagWord t.h.core c.dst then some 0x24 else if s.absentDie c.dst then some 0x26 else none) 1 id)

/-- CC_WRITE (R252). -/
def execCcWrite (c : CFields) (s : State) : Host.Outcome State Fault Refusal :=
  .next (s.reach 0x07 c (fun t => s.fillCheck t c 8 8) 1 id)

/-- CC_LINK (R252): the list goes on at SRC. -/
def execCcLink (c : CFields) (s : State) : Host.Outcome State Fault Refusal :=
  .next (s.reach 0x08 c (fun _ => if field c.src 0 6 = 0 then none else some 0x24) 0 fun l => { l with pc := c.src })

/-! ### Transfers (R253 to R255) -/

/-- A transfer of a command: the stored bytes that it reads, where it writes what they become, and the delivered bytes that it
moves. -/
structure Transfer where
  src : Word
  srcLen : Nat
  srcWin : Nat
  dst : Word
  dstWin : Nat
  n : Nat
  deriving DecidableEq, Repr

/-- Row of a GATHER (R252): the unsigned word at its place in the index list. -/
def State.gatherRow (s : State) (core : Nat) (f : CFields) (r : Nat) : Nat :=
  leNat (Memory.readBytes s.mem (spadKey core (field f.idx 0 18 + 4 * r)) 4)

/-- Bytes from an address to the end of its page, where it names virtual space (R81). -/
def pageRest (a : Word) (n : Nat) : Nat := if isVirtual a then min n (65536 - a.toNat % 65536) else n

/-- The transfer of a command from a delivered byte of a row on (R255): one unit at most, and within one page of virtual space. -/
def State.transferAt (s : State) (core : Nat) (c : CeCommand) (r first : Nat) : Transfer :=
  let f := c.f
  let sw := s.copyWindow core f.src
  let dw := s.copyWindow core f.dst
  let row := if c.kind = 4 then s.gatherRow core f r else r
  let src := f.src + BitVec.ofNat 64 row * f.sstride + BitVec.ofNat 64 (storedSize sw first)
  let dst := f.dst + BitVec.ofNat 64 r * f.dstride + BitVec.ofNat 64 (storedSize dw first)
  let n := min (if c.copies then transferUnit sw dw else 64) (c.length - first)
  let n := pageRest dst (if c.copies then pageRest src n else n)
  { src := src, srcLen := storedSize sw n, srcWin := sw, dst := dst, dstWin := dw, n := n }

/-- The place of a command's next transfer after one of n delivered bytes. -/
def CeCommand.after (c : CeCommand) (n : Nat) : CeCommand :=
  if c.length ≤ c.first + n then { c with row := c.row + 1, first := 0 } else { c with first := c.first + n }

/-- The bytes that a transfer stores from those that it read (R253), and the events. -/
def copyEncode (c : WinCtx) (t : Transfer) (b : List Byte) : List Byte × Events :=
  if t.srcWin = 0 ∧ t.dstWin = 0 then (b, Events.none)
  else if t.srcWin = 6 then (b, Events.none)
  else
    let (d, e) := windowRead c t.srcWin b
    let (w, e') := windowWrite c t.dstWin (if copyClass t.dstWin = .block then bf16 else fp32) d
    (w, e.plus e')

/-- A request of a command of a list. -/
def State.listReq (s : State) (core : Nat) (l : CeList) (c : CeCommand) : Req :=
  { s.hartReq l.t.h with
    src := .copyList core l.t.seq l.t.h c.n, user := l.t.mode == .user, born := l.t.born, waits := l.t.readsAfter }

/-- Whether every earlier command of its list has completed. -/
def CeList.leads (l : CeList) (c : CeCommand) : Bool := match l.cmds.head? with | some h => h.n == c.n | none => false

/-- Whether a command may read (R127, R254): an acquire follows every earlier command of its list. -/
def State.commandReads (s : State) (l : CeList) (c : CeCommand) : Bool :=
  s.mayRead l.t && (!bitOf (c.f.ord.zeroExtend 64) 0 || l.leads c)

/-- Whether a command may write and count its arrival (R127, R136, R254): a release follows the writes within its scope of every
earlier command of its list. -/
def State.commandWritesOk (s : State) (core : Nat) (l : CeList) (c : CeCommand) : Bool :=
  s.mayWrite l.t && s.released core l c
  && (!bitOf (c.f.ord.zeroExtend 64) 1 || (l.cmds.takeWhile fun e => e.n != c.n).all fun e => !s.commandWrites core c.f.scope l e)

/-- Bytes of a command are written in the own scratchpad: those up to the end of an aligned word, or all (R118). DEDUCED (log 90). -/
def State.writeLocal (s : State) (core : Nat) (c : CeCommand) (off : Nat) (words : Option Nat) (b : List Byte) : State × CeCommand :=
  let n := match words with | some k => min b.length (8 * (k + 1) - off % 8) | none => b.length
  (s.writeCells [core] ((b.take n).zipIdx.map fun (x, i) => (spadKey core (off + i), x)),
    if n = b.length then c else { c with left := c.left ++ [(off + n, b.drop n)] })

/-- The write of a transfer's bytes: in the own scratchpad, at once or words of them first, else as a request that the command waits
for. -/
def State.writeTransfer (s : State) (core : Nat) (l : CeList) (c : CeCommand) (dst : Word) (words : Option Nat) (b : List Byte) :
    State × CeCommand :=
  if engineLocal dst then s.writeLocal core c (field dst 0 18) words b
  else
    let r := { s.listReq core l c with addr := dst, op := .write, data := b, waits := l.t.readsAfter ++ l.t.writesAfter }
    (s.issueReq l.t.h r, { c with open_ := s.outstanding c.open_ ++ [s.nextId] })

/-- The n bytes of FILL or WRITE from a byte on (R252). -/
def patternBytes (c : CeCommand) (first n : Nat) : List Byte :=
  let p := leBytes c.f.src.toNat 8
  (List.range n).map fun k => p.getD ((first + k) % 8) 0

/-- Whether the next transfer of a command travels through the NI. -/
def State.needsNi (s : State) (core : Nat) (c : CeCommand) : Bool :=
  let t := s.transferAt core c c.row c.first
  c.left.isEmpty && (c.kind == 6 || !engineLocal t.dst || (c.copies && !engineLocal t.src))

/-- Whether a command may issue its next transfer, or write what one has left: what the transfer reads and, unless it reads through the
NI first, what it writes may perform (R127, R254). -/
def State.mayTransfer (s : State) (core : Nat) (l : CeList) (c : CeCommand) : Bool :=
  let far := c.copies && !engineLocal (s.transferAt core c c.row c.first).src
  !c.left.isEmpty || (decide (c.row < c.rows) && (!c.copies || s.commandReads l c) && (far || s.commandWritesOk core l c))

/-- What a transfer comes to: a fault of the list, or the state after it is issued; or bytes that one has left are written. -/
def State.issueTransfer (s : State) (core : Nat) (l : CeList) (c : CeCommand) (words : Option Nat) : State :=
  let t := s.transferAt core c c.row c.first
  let stop (code : BitVec 8) (a : Word) : State := if l.leads c then s.endList core l code c.kind a else s
  let put (s : State) (c : CeCommand) : State := s.setList core (l.setCommand c)
  let sent (s : State) (r : Req) : State := put (s.issueReq l.t.h r) { c.after t.n with open_ := s.outstanding c.open_ ++ [s.nextId] }
  let written (s : State) (b : List Byte) : State :=
    let (s, c) := s.writeTransfer core l (c.after t.n) t.dst words b
    put s c
  if let (off, b) :: rest := c.left then
    let (s, c) := s.writeLocal core { c with left := rest } off words b
    put s c
  else if c.kind = 6 then
    sent s { s.listReq core l c with
      addr := c.f.dst, op := .arrivalOnly, arrival := .flag c.f.dst, waits := l.t.readsAfter ++ l.t.writesAfter }
  else if !c.copies then written s (patternBytes c c.first t.n)
  else
    match (if c.kind = 4 then s.copySpans l.t [⟨.read, t.src, 0, 1, t.srcLen⟩] else none) with
    | some code => stop code c.addr
    | none =>
      if c.kind = 4 ∧ s.anyPoisoned (spadKeys core (field c.f.idx 0 18 + 4 * c.row) 4) then stop cHomeSoft c.addr
      else if engineLocal t.src then
        let keys := spadKeys core (field t.src 0 18) t.srcLen
        if s.anyPoisoned keys then stop cHomeSoft c.addr
        else
          let (b, ev) := copyEncode l.t.winCtx t (s.readKeys keys)
          written (s.triggerEvents l.t ev) b
      else
        sent s { s.listReq core l c with addr := t.src, op := .read t.srcLen, dest := .copied c.row c.first }

/-- The first list that can issue a transfer, with its command. DEDUCED (log 56). -/
def State.nextTransfer (s : State) (core : Nat) : List CeList → Option (CeList × CeCommand)
  | [] => none
  | l :: rest =>
    match (if l.from_ ≤ s.coreCycle core then
        l.cmds.find? (fun c => s.mayTransfer core l c && !(s.needsNi core c && s.niFull core)) else none) with
    | some c => some (l, c)
    | none => s.nextTransfer core rest

/-- Active lists in round-robin order of activation: those after the one that took the last transfer come first (R255). -/
def Core.rotation (c : Core) : List CeList :=
  c.lists.filter (fun l => decide (c.ceLast < l.t.entered)) ++ c.lists.filter (fun l => decide (l.t.entered ≤ c.ceLast))

/-- The turn of the copy engine of a core, in which it writes words of a transfer or all of it (R118, R254, R255, R264). -/
def State.copyGoes (s : State) (n : Nat) (words : Option Nat) : State :=
  let c := s.core n
  if s.sourceHolds n 1 (some .ce) ∨ s.coreCycle n < c.ceNext ∨ !s.coreTurn n then s
  else match s.nextTransfer n c.rotation with
    | some (l, cmd) =>
      let s := s.issueTransfer n l cmd words
      s.setCore n { s.core n with ceLast := l.t.entered, ceNext := s.coreCycle n + 1 }
    | none => s

/-- CE_TRANSFER (R254, R255, R264): in each die cycle one transfer, for the next active list in round-robin order. -/
def execCeTransfer (s : State) : Host.Outcome State Fault Refusal :=
  match s.arg with
  | .core n => .next (s.copyGoes n none)
  | .coreWords n k => .next (s.copyGoes n (some k))
  | _ => .next s

/-! ### Completion (R123, R254, R256) -/

/-- The arrival of a tagged command whose data has all performed (R123, R252). -/
def State.commandArrival (s : State) (core : Nat) (l : CeList) (c : CeCommand) : State :=
  let arrival : Arrival := if c.f.tag = 1 then .flag c.f.tagw else .tile c.f.dst (c.f.tagw.extractLsb' 0 6)
  let addr := if c.f.tag = 1 then c.f.tagw else c.f.dst
  let r := { s.listReq core l c with
    addr := addr, op := .arrivalOnly, arrival := arrival,
    waits := l.t.readsAfter ++ l.t.writesAfter }
  (s.issueReq l.t.h r).setList core (l.setCommand { c with arrivalSent := true, open_ := [s.nextId] })

/-- A command leaves its list; with the last one the list's trigger completes (R254, R256). -/
def State.finishCommand (s : State) (core : Nat) (l : CeList) (c : CeCommand) : State :=
  let l := { l with cmds := l.cmds.filter (fun x => x.n != c.n), completed := l.completed + 1 }
  if l.closed && l.cmds.isEmpty then
    let k := s.core core
    let s := s.setCore core { k with lists := k.lists.filter fun x => !(x.t.h == l.t.h && x.t.seq == l.t.seq) }
    s.setHart l.t.h ((s.hart l.t.h).fillResult .ce l.t.seq l.status)
  else s.setList core l

/-- CE_COMMAND_COMPLETE (R123, R254, R256). -/
def execCeCommandComplete (s : State) : Host.Outcome State Fault Refusal :=
  match s.arg with
  | .command core i n =>
    match (s.core core).lists[i]? with
    | some l => match l.cmds.find? (fun c => c.n == n) with
      | some c =>
        let held := c.kind == 5 && l.waiting
        if c.row < c.rows ∨ !c.left.isEmpty ∨ !(s.outstanding c.open_).isEmpty ∨ held then .next s
        else if c.f.tag ≠ 0 ∧ !c.arrivalSent then
          .next (if !s.commandWritesOk core l c || s.niFull core then s else s.commandArrival core l c)
        else .next (s.finishCommand core l c)
      | none => .next s
    | none => .next s
  | _ => .next s

end Sys2Proof.Machine
end

