-- ==== Sys2Proof/Machine/HartControl.lean ====
section
/-! DEFINITION. Hart control, the task queue instructions, port images, core migration and the debug overlay, as a hart
issues them, and what the ends of tasks share (R38 to R50, R185, R186, R192 to R199, R366 to R368, R382, R421). -/

namespace Sys2Proof.Machine

/-! ### Transfers of 64 bytes per own slot -/

/-- The first die cycle after n own slots of a hart, the first after a die cycle (R34, R50, R426). -/
def transferEnd (hart : HartId) (cycle n : Nat) : Nat := firstSlot hart (cycle + 1) + 16 * (n - 1) + 1

/-- A hart whose transfer of n slots begins now, in a state and with a job. DESIGN CHOICE (log 9). -/
def State.transfer (s : State) (h : HartRef) (st : HartState) (job : Job) (n : Nat) : State :=
  let v := (s.hart h).moveTo st s.refTime
  let now := s.coreCycle h.core
  s.setHart h { v with wait := .none, job := job, jobDue := transferEnd h.hart now n, loaded := [], issueFrom := now + 1 }

/-- Slots that a record of a size takes (R192). -/
def recordSlots (size : Nat) : Nat := (size + 63) / 64

/-- A hart takes up a record of a priority as by `hstart` (R39, R40, R44): it is LOADING, and its task has begun. -/
def State.startRecord (s : State) (h : HartRef) (record : List Byte) (prio : BitVec 2) (release : Nat)
    (line : Option (Nat × Wide)) : State :=
  let s := s.transfer h .loading (.loadRecord record prio release line) (recordSlots record.length)
  s.setHart h { s.hart h with ended := false }

/-! ### Drains -/

/-- The drain of a hart begins (R50, R79, R194): a hart parked in `fwait` marks its word SWAPPED and clears its watch
entry; a transfer of its port image or an overlay update that it waits for is abandoned, to be issued again. The drain ends from
the next die cycle on, as in R429: DEDUCED (log 101). -/
def State.beginDrain (s : State) (h : HartRef) (job : Job) : State :=
  let v := s.hart h
  let w := (s.core h.core).watch[h.hart]
  let s := match v.wait with
    | .flag =>
      let key := spadKey h.core w.off.toNat
      let b := Memory.readBytes s.mem key 8
      (s.writeAt key (leBytes (leNat b % 2 ^ 63 + 2 ^ 63) 8)).unwatch h
    | _ => s
  s.setHart h { s.hart h with job := job, jobDue := s.coreCycle h.core + 1 }

/-! ### Reservations and the HELD state (R46, R367, R374) -/

/-- A hart leaves HELD where nothing holds it: no held fault of its own, and a reservation for its waiting upcall. -/
def State.releaseHeld (s : State) (h : HartRef) : State :=
  let v := s.hart h
  if v.st ≠ .held ∨ (s.die (dieOf h.core)).holding.any (fun f => f.hart == some h) then s
  else
    let back (s : State) : State :=
      let s := s.setHart h ((s.hart h).moveTo v.heldFrom s.refTime)
      match v.job with
      | .save _ | .migrate => s.beginDrain h v.job
      | _ => s
    if v.upcalls.isEmpty ∨ bitOf v.csr.upstat 0 ∨ v.upReserved then back s
    else
      let c := s.core h.core
      if c.reservations < 8 then
        let s := s.setCore h.core { c with reservations := c.reservations + 1 }
        back (s.setHart h { s.hart h with upReserved := true })
      else s

/-- A reservation of the resumption partition frees, and a hart that was HELD for want of one goes on. -/
def State.freeReservation (s : State) (core : Nat) : State :=
  let c := s.core core
  let s := s.setCore core { c with reservations := c.reservations - 1 }
  (List.finRange 16).foldl (fun (s : State) (i : HartId) => s.releaseHeld ⟨core, i⟩) s

/-! ### Ends of tasks -/

/-- Requests of a hart whose fills go nowhere any longer (R195, R401): an image keeps its own. -/
def Req.orphaned (h : HartRef) (r : Req) : Req :=
  match r.src, r.image with
  | .hart g, none => if g = h then { r with dest := .none } else r
  | _, _ => r

/-- The fill of an `hreap` that waits for the end of a task on a hart: it completes with the exit value (R193). -/
def State.fillReaps (s : State) (h : HartRef) (exit : Word) : State :=
  let waiting := s.reqs.filter fun r =>
    r.kind == .acquire && r.op == .read h.hart.val && r.src.hart? == some ⟨h.core, 0⟩ && r.waits == [r.id]
  waiting.foldl (fun (s : State) (r : Req) =>
    match r.dest, r.src with
    | .xreg rd _, .hart g => (s.fillRegister r g rd exit).dropReq r.id
    | _, _ => s.dropReq r.id) s

/-- Faults that wait for an upcall of a hart whose task has ended are recorded, and pending nowhere (R366, R367). -/
def State.recordUpcalls (s : State) (h : HartRef) (l : List Upcall) : State :=
  l.foldl (fun (s : State) (u : Upcall) => match s.req? u.id with
    | some r => s.recordFault r u.code u.addr 0 3
    | none => s) (s.setHart h { s.hart h with upcalls := [] })

/-- The hart's task ends (R39, R44, R195): EXITVAL and ENDED, and the hart is OFF with nothing of the task left. -/
def State.endTask (s : State) (h : HartRef) (exit : Word) : State :=
  let v := (s.hart h).moveTo .off s.refTime
  let s := s.setHart h { v.withoutTask with exitVal := exit, ended := true }
  let s := s.recordUpcalls h v.upcalls
  let s := if v.upReserved then s.freeReservation h.core else s
  let held (r : Req) : Bool := r.src.hart? == some h && r.image.isNone && r.waits == [r.id]
  ({ s with reqs := (s.reqs.filter fun r => !held r).map (Req.orphaned h) }).fillReaps h exit

/-- The end of a task of a stream, reported to its window entry (R297, R383): whether by a fault, with which code under
STASK, and the PC and the hart of the record. -/
def State.reportEnd (s : State) (h : HartRef) (ctx : BitVec 8) (taskret : Word) (faulted : Bool) (code : BitVec 8) (addr : Word) :
    State :=
  if taskSt taskret then s.send (dieOf h.core) (.taskEnd (taskSlot taskret) (taskEntry taskret) ctx faulted code addr (s.hartWord h)) else s

/-- A hart enters OFF with no image; its task ends by a fault (R383, R401, R407). -/
def State.turnOff (s : State) (h : HartRef) (code : BitVec 8) : State :=
  let v := s.hart h
  if v.st = .off then s
  else
    (s.reportEnd h ((s.core h.core).ctx.getD 0) v.taskWord true code v.csr.mepc).endTask h 0

/-- A HELD hart enters OFF with no image (R374): its held faults, when they are recorded, find no hart. -/
def State.turnOffHeld (s : State) (h : HartRef) (code : BitVec 8) : State :=
  let lose (f : FaultRec) : FaultRec := { f with hart := if f.hart = some h then none else f.hart }
  let d := s.die (dieOf h.core)
  (s.setDie (dieOf h.core) { d with found := d.found.map lose, holding := d.holding.map lose }).turnOff h code

/-! ### Operands -/

/-- An instruction that only hart 0 issues (R38): HARTCTL, then the hart number, 1 to 15 (R421). -/
def State.onHart (s : State) (a : Reg) (rs : List Reg) (perform : HartRef → State) : State :=
  if s.cur.hart ≠ 0 then s.trapCode 0x02 0
  else s.reading (a :: rs) <|
    let n := (s.me.readX a).toNat
    if n = 0 ∨ 15 < n then s.operand a else perform ⟨s.cur.core, Fin.ofNat 16 n⟩

/-- What an operand that must lie in the own scratchpad comes to where it does not: OPERAND (R168), or the trap of an access to a die
that the device lacks (R2). -/
def State.notOwn (s : State) (r : Reg) (k : Kind) : State :=
  if s.absentDie (s.me.readX r) then s.trap k.accessCause (s.me.readX r) else s.operand r

/-- A span of the own scratchpad that an instruction reads or writes (R168, R421): what another address comes to, then what the bytes
must keep, with its code, then the protection unit (R71, R414). A poisoned byte that is read leaves HOMESOFT pending and nothing else
done (R377). DEDUCED (log 45). -/
def State.ownBytes (s : State) (r : Reg) (align len : Nat) (k : Kind) (outside : State) (bad : Nat → Option (BitVec 8))
    (perform : Nat → State) : State :=
  match s.ownSpan s.cur.core (s.me.readX r) align len with
  | none => outside
  | some off => match bad off with
    | some code => s.trapCode code 0
    | none =>
      if !s.protects s.cur s.me.mode k s.device.toNat s.cur.core off len then s.trap k.accessCause (s.me.readX r)
      else if k = .read ∧ s.anyPoisoned ((List.range len).map fun i => spadKey s.cur.core (off + i)) then
        s.localSoft 0 (s.me.readX r)
      else perform off

/-- Bytes of the own scratchpad. -/
def State.spadBytes (s : State) (core off n : Nat) : List Byte := Memory.readBytes s.mem (spadKey core off) n

/-- A record of the own scratchpad that an instruction names (R43, R192, R185): its bytes. Its limits, and the end of the scratchpad,
come before a stripe crossing. DESIGN CHOICE (log 98). -/
def State.ownRecord (s : State) (r : Reg) (perform : List Byte → State) : State :=
  match s.ownSpan s.cur.core (s.me.readX r) 8 16 with
  | none => s.notOwn r .read
  | some off =>
    let b := s.spadBytes s.cur.core off (min 144 (0x40000 - off))
    if !recordOk b then s.trapCode 0x0B 0
    else
      let n := recordSize (wordAt b 8)
      s.ownBytes r 8 n .read (s.notOwn r .read) (fun _ => none) fun _ => perform (b.take n)

/-! ### Starting, reaping, saving and loading -/

/-- HSTART (R39, R192). -/
def execHstart (b a d : BitVec 5) (s : State) : Host.Outcome State Fault Refusal :=
  .next <| s.onHart a [b] fun h => s.ownRecord b fun record =>
    if (s.hart h).st ≠ .off then s.complete (s.me.fill d 1)
    else
      let (s, id) := s.release s.cur 1 .none
      let s := s.startRecord h record (BitVec.ofNat 2 (bits (wordAt record 8) 45 2)) id none
      s.complete (s.me.fill d 0)

/-- HREAP (R39, R193): rd fills at once where the task has ended, and otherwise as one next ends. -/
def execHreap (a d : BitVec 5) (s : State) : Host.Outcome State Fault Refusal :=
  .next <| s.onHart a [] fun h =>
    if d = 0 then s.complete s.me
    else if (s.hart h).ended then s.complete (s.me.fill d (s.hart h).exitVal)
    else
      let id := s.nextId
      let r := { s.hartReq s.cur with kind := .acquire, op := .read h.hart.val, waits := [id], dest := .xreg d true }
      let s := (s.addReq r).holdLater s.cur [id] []
      s.complete (s.me.empty d)

/-- Whether a hart may begin to drain: it is not completing `hstop`, and no drain of it has begun (R194). -/
def Hart.drainable (v : Hart) : Bool :=
  match v.job with
  | .stopping _ | .save _ | .migrate => false
  | _ => true

/-- HSAVE (R50, R194): of a HELD hart it waits (R374). -/
def execHsave (b a : BitVec 5) (s : State) : Host.Outcome State Fault Refusal :=
  .next <| s.onHart a [b] fun h => s.ownBytes b 64 1920 .write (s.notOwn b .write) (fun _ => none) fun off =>
    let v := s.hart h
    let s := match v.st with
      | .running | .parked => if v.drainable then s.beginDrain h (.save off) else s
      | .held => if v.drainable then s.setHart h { v with job := .save off, jobDue := 0 } else s
      | _ => s
    s.complete s.me

/-- HLOAD (R50, R194, R382). -/
def execHload (b a : BitVec 5) (s : State) : Host.Outcome State Fault Refusal :=
  let bad (off : Nat) : Option (BitVec 8) := if imageOk (s.spadBytes s.cur.core off 1920) then none else some 0x0C
  .next <| s.onHart a [b] fun h => s.ownBytes b 64 1920 .read (s.notOwn b .read) bad fun off =>
    if (s.hart h).st ≠ .off then s.complete s.me
    else
      let s := s.transfer h .loading (.loadImage off) 30
      let s := s.setHart h { s.hart h with ended := false }
      s.complete s.me

/-! ### The task queue -/

/-- Entries of a partition in the queue. -/
def Core.queued (c : Core) (p : Partition) : Nat := (c.tasks.filter fun t => t.part == p).length

/-- Whether a partition has room (R46). -/
def Core.roomFor (c : Core) (p : Partition) : Bool :=
  match p with
  | .stream => decide (c.queued .stream < 16)
  | .resume => true
  | .remote => decide (c.queued .remote < 40)

/-- Enqueues a record (R45, R49). -/
def State.enqueue (s : State) (core : Nat) (record : List Byte) (prio : BitVec 2) (p : Partition) : State :=
  let c := s.core core
  s.setCore core { c with tasks := c.tasks ++ [⟨record, prio, p, s.coreCycle core, none⟩] }

/-- The position of the entry that a taker takes: the oldest of the lowest admitted priority, among those present before
the die cycle (R45, R49). -/
def takeIndex (tasks : List Task) (admits : BitVec 2 → Bool) (cycle : Nat) : Option Nat :=
  ([0, 1, 2, 3].map (BitVec.ofNat 2)).findSome? fun p =>
    if admits p then tasks.findIdx? fun t => t.prio == p && decide (t.cycle < cycle) else none

/-- A taken entry leaves the queue; one of the resumption partition frees its reservation (R46). -/
def State.takeTask (s : State) (core i : Nat) : State :=
  let c := s.core core
  let part : Option Partition := (c.tasks[i]?).map (·.part)
  let s := s.setCore core { c with tasks := c.tasks.eraseIdx i }
  if part = some .resume then s.freeReservation core else s

/-- TQPUSH (R46, R185): its record performs after the releases before it, and the hart issues it again until then (R125).
DEDUCED (log 37). -/
def execTqpush (b a d : BitVec 5) (s : State) : Host.Outcome State Fault Refusal :=
  .next <| s.reading [a, b] <|
    let p := s.me.readX b
    if (s.ownSpan s.cur.core (s.me.readX a) 8 16).isNone ∧ !s.absentDie (s.me.readX a) then s.operand a
    else if field p 2 62 ≠ 0 then s.operand b
    else s.ownRecord a fun record =>
      if !(s.outstanding s.me.holdWrites).isEmpty then s
      else if s.myCore.roomFor .remote then
        let s := s.enqueue s.cur.core record (p.extractLsb' 0 2) .remote
        s.complete (s.me.fill d 0)
      else s.complete (s.me.fill d 1)

/-- TQPOP (R45, R186). -/
def execTqpop (b a d : BitVec 5) (s : State) : Host.Outcome State Fault Refusal :=
  .next <| s.reading [a, b] <|
    let m := s.me.readX a
    if field m 4 60 ≠ 0 then s.operand a
    else s.ownBytes b 8 144 .write (s.operand b) (fun _ => none) fun off =>
      let tasks := s.myCore.tasks
      match takeIndex tasks (fun p => bitOf m p.toNat) (s.coreCycle s.cur.core) with
      | none => s.complete (s.me.fill d 0)
      | some i => match tasks[i]? with
        | none => s.complete (s.me.fill d 0)
        | some t =>
          let s := (s.takeTask s.cur.core i).writeSpad s.cur.core off (withPrio t.record t.prio)
          s.complete (s.me.fill d (BitVec.ofNat 64 (256 * t.prio.toNat + t.record.length)))

/-! ### Port images -/

/-- PSAVE (R196, R228, R230): the hart waits for its triggers, then transfers over 20 slots. -/
def execPsave (a : BitVec 5) (s : State) : Host.Outcome State Fault Refusal :=
  .next <| s.reading [a] <| s.ownBytes a 64 1280 .write (s.operand a) (fun _ => none) fun off =>
    s.setMe { s.me with job := .portSave off, jobDue := 0 }

/-- PLOAD (R196, R230). -/
def execPload (a : BitVec 5) (s : State) : Host.Outcome State Fault Refusal :=
  let bad (off : Nat) : Option (BitVec 8) := if portImageOk (s.spadBytes s.cur.core off 1280) then none else some 0x0C
  .next <| s.reading [a] <| s.ownBytes a 64 1280 .read (s.operand a) bad fun off =>
    s.setMe { s.me with job := .portLoad off, jobDue := 0 }

/-! ### Ends, returns and moves -/

/-- HSTOP (R38, R195): the hart issues nothing further, and its release begins. DEDUCED (logs 43, 101). -/
def execHstop (s : State) : Host.Outcome State Fault Refusal :=
  .next <|
    if s.cur.hart = 0 then s.trapCode 0x02 0
    else s.reading [10] <|
      let (s, id) := s.release s.cur (if taskValid s.me.csr.taskret then 3 else 2) .none
      s.setMe { s.me with job := .stopping id, jobDue := s.coreCycle s.cur.core + 1 }

/-- UPRET (R197, R368). -/
def execUpret (s : State) : Host.Outcome State Fault Refusal :=
  .next <|
    let v := s.me
    if v.mode ≠ .user ∨ !bitOf v.csr.upstat 0 then s.trapCode 0x03 0
    else
      let c := v.csr
      let s := s.setMe { v with
        pc := c.upepc, upReserved := false, csr := { c with upstat := setBit c.upstat 0 false, instret := c.instret + 1 } }
      s.freeReservation s.cur.core

/-- Whether a core may be the target of `cmig` from a core (R198, R225, R393): enabled and bound to no context, with no QN
entry behind and a free stub entry on the vacated core's die. DEDUCED (log 39). -/
def State.migrationTarget (s : State) (core target : Nat) : Bool :=
  s.enabled target && (s.core target).ctx.isNone && target != core
  && (s.core core).qn.isEmpty
  && (match s.downstream core with | some d => (s.core d).qn.isEmpty | none => true)
  && (List.range 512).any fun i => (((tableGet (s.die (dieOf core)).stubs i).getD Stub.reset).st == .free)

/-- Harts 1 to 15 of a core begin to drain as for `hsave` (R198); a HELD one does as it leaves HELD (R374). -/
def State.drainCore (s : State) (core : Nat) : State :=
  (List.finRange 16).foldl (fun (s : State) (i : HartId) =>
    let h : HartRef := ⟨core, i⟩
    let v := s.hart h
    if i = 0 ∨ !v.drainable then s
    else match v.st with
      | .running | .parked => s.beginDrain h .migrate
      | .held => s.setHart h { v with job := .migrate, jobDue := 0 }
      | _ => s) s

/-- CMIG (R198, R393, R421): a nonzero zero field of the address is OPERAND, and a die that the device lacks
is the trap of R2, as of a write. DEDUCED (log 39), DESIGN CHOICE (log 102). -/
def execCmig (a d : BitVec 5) (s : State) : Host.Outcome State Fault Refusal :=
  .next <|
    if s.me.mode = .user then s.trapCode 0x03 0
    else if s.cur.hart ≠ 0 then s.trapCode 0x02 0
    else s.reading [a] <|
      let adr := s.me.readX a
      let sel := field adr 60 4
      if sel ≠ 10 ∧ sel ≠ 11 then s.operand a
      else if s.absentDie adr then s.trap 7 adr
      else match s.place s.cur.core adr with
        | none => s.operand a
        | some (.spad t _ _) =>
          if s.migrationTarget s.cur.core t then
            let s := s.setMe { s.me with job := .migrate, jobDue := 0 }
            let s := s.setMyCore { s.myCore with migration := some ⟨t, d⟩ }
            s.drainCore s.cur.core
          else s.complete (s.me.fill d 1)
        | _ => s.complete (s.me.fill d 1)

/-! ### The debug overlay (R199, R409) -/

/-- The overlay table of the issuing hart's context. -/
def State.overlays (s : State) : List (Word × Word) :=
  match s.ctxOf s.cur.core with
  | some c => c.overlays
  | none => []

/-- Whether an address is that of a 64 KiB page of virtual space. -/
def pageOk (a : Word) : Bool := field a 57 7 == 0 && field a 0 16 == 0

/-- An M-mode instruction. -/
def State.machineOnly (s : State) (rs : List Reg) (perform : State) : State :=
  if s.me.mode ≠ .machine then s.trapCode 0x03 0 else s.reading rs perform

/-- OVMAP (R199, R409). -/
def execOvmap (b a : BitVec 5) (s : State) : Host.Outcome State Fault Refusal :=
  .next <| s.machineOnly [a, b] <|
    let page := s.me.readX a
    if !pageOk page ∨ (16 ≤ s.overlays.length ∧ !s.overlays.any (fun o => o.1 == page)) then s.operand a
    else if !pageOk (s.me.readX b) then s.operand b
    else s.setMe { s.me with job := .overlay page (some (s.me.readX b)), jobDue := 0 }

/-- OVUNMAP (R199, R409). -/
def execOvunmap (a : BitVec 5) (s : State) : Host.Outcome State Fault Refusal :=
  .next <| s.machineOnly [a] <|
    let page := s.me.readX a
    if !pageOk page then s.operand a
    else if s.overlays.any (fun o => o.1 == page) then s.setMe { s.me with job := .overlay page none, jobDue := 0 }
    else s.complete s.me

end Sys2Proof.Machine
end

