-- ==== Sys2Proof/Machine/Settle.lean ====
section
/-! DEFINITION. Fault records as they are written, and what settles a request or marks a window entry (R365, R366, R369,
R371 to R374, R382, R383, R397). -/

namespace Sys2Proof.Machine

/-! ### Streams -/

/-- Address space of a slot's context. -/
def State.slotAsid (s : State) (v : Slot) : BitVec 16 :=
  match s.ctx? v.ctx with
  | some c => c.asid
  | none => 0

/-- A record of a stream's fault at its lead die (R369, R371, R415): the code, the agent's SOURCE, the entry and the DETAIL. -/
def State.streamRecord (s : State) (i : SlotId) (e : Entry) (code : BitVec 8) (source : Nat) (addr : Word) (detail : BitVec 16)
    (who : Word) : FaultRec :=
  let v := s.slot i
  { w0 := recordWord0 code source 0 0 (e.word.extractLsb' 0 8) v.ctx (s.slotAsid v), w1 := addr,
    w2 := who ||| BitVec.ofNat 64 (2 ^ 34 * i.val + 2 ^ 38 * (e.n % 256)), detail := detail, hart := none,
    cause := deferredCause code, slot := some i, settles := none }

/-- A fault of an entry (R269, R369, R370, R397): a record, and a mark where the slot still runs; a fenced slot counts those of
discarded entries. -/
def State.markEntry (s : State) (i : SlotId) (e : Entry) (code : BitVec 8) (source : Nat) (addr : Word) (detail : BitVec 16)
    (who : Word) : State :=
  let v := s.slot i
  let s := s.raise v.lead (s.streamRecord i e code source addr detail who)
  match v.st with
  | .running | .halted =>
    (match e.st with
     | .marked _ _ => s
     | _ => s.setSlot i (v.setEntry { e with st := .marked code none, room := [] }))
  | .fenced => if e.discarded then s.setSlot i { v with fLater := satInc16 v.fLater } else s
  | _ => s

/-- A record of a drain entry, which marks nothing (R397). DEDUCED (log 65). -/
def State.drainRecord (s : State) (i : SlotId) (e : Entry) (code : BitVec 8) (addr : Word) : State :=
  let v := s.slot i
  s.raise v.lead { s.streamRecord i e code 4 addr 0 (s.agentWord v.lead) with slot := none }

/-! ### Settlement of a request (R366) -/

/-- The end of a task whose record is lost, where it was a stream's (R382, R383). -/
def State.lostRecord (s : State) (r : Req) (code : BitVec 8) : State :=
  match r.op, r.dest with
  | .record _ _, .none =>
    let t := taskretOf r.data 0
    if taskSt t then
      s.send (dieOf r.core) (.taskEnd (taskSlot t) (taskEntry t) (r.ctx.getD 0) true code (BitVec.ofNat 64 (wordAt r.data 0))
        (match r.src.hart? with | some h => s.hartWord h | none => 0))
    else s
  | _, _ => s

/-- A request is settled after its record (R365, R366): a destination fills with 0, a trigger of NI or a copy list faults,
and everything else counts as completed. -/
def State.settleReq (s : State) (r : Req) (code : BitVec 8) : State :=
  match r.src with
  | .engine h u seq _ => (s.setHart h ((s.hart h).faultTrigger u seq code)).finishReq r
  | .copyList core seq h _ =>
    let c := s.core core
    let s := s.setCore core { c with lists := c.lists.filter fun l => !(l.t.h == h && l.t.seq == seq) }
    (s.setHart h ((s.hart h).faultTrigger .ce seq code)).finishReq r
  | _ => ((s.lostRecord r code).fillDest r []).finishReq r

/-! ### The fault buffer (R371 to R374) -/

/-- Faults that wait in the record queue when the buffer is full are held, each hart whose fault one is becomes HELD. -/
def State.holdFound (s : State) (d : DieId) : State :=
  let v := s.die d
  if s.bufferFull d && !v.found.isEmpty then
    let n := v.found.length
    let count := min 0xFFFF (v.fbOvfCnt.toNat + n)
    let s := s.setDie d { v with
      holding := v.holding ++ v.found, found := [], fbOvf := true, fbOvfCnt := BitVec.ofNat 16 count }
    (v.found.filterMap (·.hart)).foldl (fun (s : State) (h : HartRef) => s.hold h) s
  else s

/-- The x-register that the settlement of a record's request fills with 0 (R366). -/
def State.filledBy (s : State) (f : FaultRec) : Option Reg :=
  f.settles.bind fun id => (s.req? id).bind fun r => match r.dest with
    | .load rd _ | .xreg rd _ => if r.image.isSome then none else some rd
    | _ => none

/-- A written record becomes pending at its hart, unless the hart is OFF or SAVING (R363, R366, R375). DEDUCED (log 48). -/
def State.makePending (s : State) (f : FaultRec) (index : Nat) : State :=
  match f.hart with
  | none => s
  | some h =>
    let v := s.hart h
    match v.st with
    | .off | .saving => s
    | _ => s.setHart h { v with pending := v.pending ++ [⟨f.cause, index, s.coreCycle h.core, s.filledBy f⟩] }

/-- The record's index reaches the window entry that it marked (R369). -/
def State.indexEntry (s : State) (f : FaultRec) (index : Nat) : State :=
  match f.slot with
  | none => s
  | some i =>
    let v := s.slot i
    let one (e : Entry) : Entry :=
      match e.st with
      | .marked code none => if e.n % 256 = bits f.w2.toNat 38 8 then { e with st := .marked code (some index) } else e
      | _ => e
    s.setSlot i { v with window := v.window.map one }

/-- Writes one record (R371, R372): NEXT, NEW, VALID and TIME, the pending fault and the settlement of its request.
DEDUCED (log 50). -/
def State.writeRecord (s : State) (d : DieId) (f : FaultRec) : State :=
  let v := s.die d
  let index := v.fbHead.toNat % 256
  let w3 := f.detail ++ BitVec.ofNat 48 s.refTime
  let s := s.setDie d { v with
    records := tableSet v.records index (setBit f.w0 12 true, f.w1, f.w2, w3), fbHead := v.fbHead + 1, fbNew := true,
    lastWrite := s.cycle d + 1 }
  let s := (s.makePending f index).indexEntry f index
  let s := match f.settles with
    | some id => (match s.req? id with
      | some r => s.settleReq r (f.w0.extractLsb' 0 8)
      | none => s)
    | none => s
  s.holdFound d

/-- FAULT_RECORD_WRITE (R371 to R374): one record a die cycle, held faults first, in the order of finding.
DEDUCED (log 100). -/
def execFaultRecordWrite (s : State) : Host.Outcome State Fault Refusal :=
  match s.arg with
  | .die d =>
    let v := s.die d
    if v.lastWrite ≤ s.cycle d ∧ !s.bufferFull d then
      match v.holding, v.found with
      | f :: rest, _ =>
        let s := (s.setDie d { v with holding := rest }).writeRecord d f
        .next (match f.hart with
          | some h => s.releaseHeld h
          | none => s)
      | [], f :: rest => .next ((s.setDie d { v with found := rest }).writeRecord d f)
      | [], [] => .next s
    else .next s
  | _ => .next s

end Sys2Proof.Machine
end

