-- ==== Sys2Proof/Machine/HartEvents.lean ====
section
/-! DEFINITION. The steps by which harts change state beside issuing: claims, loads, saves, ends, wakes, traps, and the
arrivals of records, messages and barrier reports (R30 to R32, R39 to R55, R129, R170, R181, R190 to R199, R363 to R368). -/

namespace Sys2Proof.Machine

/-- A step on the hart that the turn names. -/
def State.atHart (s : State) (f : HartRef → State) : Host.Outcome State Fault Refusal :=
  match s.arg with
  | .hart h => .next (f h)
  | _ => .next s

/-- A step on the request or message that the turn names. DESIGN CHOICE (log 16). -/
def State.atRequest (s : State) (f : Nat → State) : Host.Outcome State Fault Refusal :=
  match s.arg with
  | .request n => .next (f n)
  | _ => .next s

/-! ### Claims, loads and saves -/

/-- The hart that autostart would claim (R40): the lowest OFF one that AUTOMASK admits. -/
def Core.eligible (c : Core) : Option HartId :=
  (List.finRange 16).find? fun (i : HartId) => i != 0 && c.automask.getLsbD i.val && c.harts[i].st == .off

/-- AUTOSTART_CLAIM (R40, R45, R49): one claim a die cycle; a core that `cmig` vacates claims none. -/
def execAutostartClaim (s : State) : Host.Outcome State Fault Refusal :=
  match s.arg with
  | .core n =>
    let c := s.core n
    let now := s.coreCycle n
    if c.autostart ∧ c.migration.isNone ∧ c.lastClaim ≤ now ∧ !s.slotPending n then
      match c.eligible, takeIndex c.tasks (fun p => decide (p ≤ c.autoprio)) now with
      | some i, some k => match c.tasks[k]? with
        | some t =>
          let s := s.takeTask n k
          let s := s.setCore n { s.core n with lastClaim := now + 1 }
          .next (s.startRecord ⟨n, i⟩ t.record t.prio 0 t.line)
        | none => .next s
      | _, _ => .next s
    else .next s
  | _ => .next s

/-- A hart enters RUNNING with the context that its transfer has brought (R1, R30, R44, R426). -/
def State.enterRunning (s : State) (h : HartRef) (v : Hart) : State :=
  let v := (s.ownDies v).moveTo .running s.refTime
  let job : Job := if h.hart ≠ 0 ∧ (s.core h.core).migration.isSome then .migrate else .none
  s.setHart h { v with
    job := job, jobDue := 0, loaded := [], issueFrom := max v.issueFrom (s.coreCycle h.core), quantumSince := s.refTime }

/-- HART_LOAD_COMPLETE (R34, R44, R50, R192, R194, R198, R337, R426). -/
def execHartLoadComplete (s : State) : Host.Outcome State Fault Refusal :=
  s.atHart fun h =>
    let v := s.hart h
    if v.st = .loading ∧ v.jobDue ≤ s.coreCycle h.core then
      match v.job with
      | .loadRecord record prio release line =>
        if (s.outstanding [release]).isEmpty then
          let w := v.takeUp (s.templateOf h.core) record prio s.refTime
          s.enterRunning h { w with lines := line.toList }
        else s
      | .loadImage _ => s.enterRunning h ((v.loadPrefix v.loaded s.refTime).loadPorts (v.loaded.drop 640))
      | .loadTemplate =>
        let w := v.loadPrefix (s.templateOf h.core) s.refTime
        s.enterRunning h { w with ports := portsReset, seq := 0 }
      | .migrate => (s.unwatch h).enterRunning h { v with wait := .none }
      | _ => s
    else s

/-- Whether a list of the hart is held in WAIT with every earlier command complete (R256). -/
def CeList.stoppable (l : CeList) (h : HartRef) : Bool := l.t.h == h && l.waiting && l.cmds.length == 1

/-- A drain stops the lists of a hart that are held in WAIT (R227, R256). -/
def State.stopLists (s : State) (h : HartRef) : State :=
  let c := s.core h.core
  let (stop, rest) := c.lists.partition fun l => l.stoppable h
  let s := s.setCore h.core { c with lists := rest }
  stop.foldl (fun (s : State) (l : CeList) =>
    s.setHart h ((s.hart h).fillResult .ce l.t.seq { l with stopped := true }.status)) s

/-- A drained hart enters SAVING (R50, R375): its pending faults stay in the buffer, and no bits with a soft error enter its image
(R377). DESIGN CHOICE (log 91). -/
def State.enterSaving (s : State) (h : HartRef) (job : Job) : State :=
  let s := s.stopLists h
  if (s.hart h).flights.isEmpty then
    let s := s.transfer h .saving job 30
    s.setHart h { (s.hart h).repaired with pending := [] }
  else s

/-- HSAVE_DRAIN_COMPLETE (R30, R50, R198, R227, R375): with nothing in flight a hart that `hsave` or `cmig` drains enters
SAVING. DEDUCED (log 101). -/
def execHsaveDrainComplete (s : State) : Host.Outcome State Fault Refusal :=
  s.atHart fun h =>
    if s.coreCycle h.core < (s.hart h).jobDue then s
    else match (s.hart h).job, (s.hart h).st with
      | .save off, .running | .save off, .parked => s.enterSaving h (.save off)
      | .migrate, .running | .migrate, .parked => s.enterSaving h .migrate
      | _, _ => s

/-- Whether a request of a hart still owes a register a fill, and the fill counts in PENDING (R228, R231). A
q-register that waits for a message is owed none. DESIGN CHOICE (log 99). -/
def Req.owes (h : HartRef) (r : Req) : Bool × Bool :=
  match r.src, r.image, r.dest with
  | .hart g, none, .load rd _ => (g == h, g == h && rd != 0)
  | .hart g, none, .xreg rd _ => (g == h, g == h && rd != 0)
  | .hart g, none, .qreg _ => (g == h, false)
  | _, _, _ => (false, false)

/-- Fills that count in PENDING of the image of a hart (R228, R231). -/
def State.owedBy (s : State) (h : HartRef) : Nat := (s.reqs.filter fun r => (r.owes h).2).length

/-- A slot that carries 64 bytes of the issuing hart's own image, record or port image (R34, R50, R196): a save writes them to the
scratchpad, and a load of an image reads them. -/
def State.transferSlot (s : State) : State :=
  let h := s.cur
  let v := s.me
  let now := s.coreCycle h.core
  let piece (n : Nat) : Nat := 64 * (n - 1 - (v.jobDue - 1 - now) / 16)
  let s := s.setMe { v with issueFrom := now + 1 }
  let written (off n : Nat) (image : List Byte) : State :=
    s.writeSpad h.core (off + piece n) ((image.drop (piece n)).take 64)
  let read (off n : Nat) : State := s.setMe { s.me with loaded := v.loaded ++ s.spadBytes h.core (off + piece n) 64 }
  match v.job with
  | .save off => written off 30 (v.prefixImage s.refTime ++ v.portImage (s.owedBy h))
  | .portSave off => written off 20 (v.portImage 0)
  | .loadImage off => read off 30
  | .portLoad off => read off 20
  | _ => s

/-- HART_SAVE_COMPLETE (R50, R167, R227 to R231): the image is complete, the fills due to the hart are tagged with it, and
the hart is OFF. -/
def execHartSaveComplete (s : State) : Host.Outcome State Fault Refusal :=
  s.atHart fun h =>
    let v := s.hart h
    match v.job with
    | .save off =>
      if v.st = .saving ∧ v.jobDue ≤ s.coreCycle h.core then
        let tag (r : Req) : Req := if (r.owes h).1 then { r with image := some (h.core, off) } else r
        let s := { s with reqs := s.reqs.map tag }
        let w := (s.hart h).moveTo .off s.refTime
        s.setHart h w.fresh
      else s
    | _ => s

/-- PORT_IMAGE_TRANSFER_COMPLETE (R196, R228 to R230): first the hart's triggers end, then its 20 slots pass. -/
def execPortImageTransferComplete (s : State) : Host.Outcome State Fault Refusal :=
  s.atHart fun h =>
    let v := s.hart h
    let now := s.coreCycle h.core
    let step (done : Hart) : State :=
      if v.st ≠ .running ∨ !v.flights.isEmpty then s
      else if v.jobDue = 0 then s.setHart h { v with jobDue := transferEnd h.hart now 20, loaded := [], issueFrom := now + 1 }
      else if now < v.jobDue then s
      else s.setHart h { done.advance with job := .none, jobDue := 0, loaded := [] }
    match v.job with
    | .portSave _ => step v
    | .portLoad _ => step (v.loadPorts v.loaded)
    | _ => s

/-! ### Ends of tasks -/

/-- The fault that a trap handler of a hart handles, by its code (R362, R363, R371, R415): of the trap that its mode has taken last, or 0
where the trap's cause has no code. DESIGN CHOICE (log 106). -/
def State.underlying (s : State) (h : HartRef) : BitVec 8 :=
  let c := (s.hart h).csr
  let (cause, tval) := if (s.hart h).mode = .supervisor then (c.scause, c.stval) else (c.mcause, c.mtval)
  if cause = 24 then tval.extractLsb' 0 8
  else if cause = 25 ∨ cause = 26 then
    ((tableGet (s.die (Fin.ofNat 4 (field tval 28 2))).records ((field tval 0 28 - 0x300000) / 32)).map fun x => x.1.extractLsb' 0 8).getD 0
  else 0

/-- HSTOP_COMPLETE (R39, R195, R297, R383): with nothing in flight and the release performed, the exit value, the return
message, the report to the stream and OFF come in one step. DEDUCED (log 101). -/
def execHstopComplete (s : State) : Host.Outcome State Fault Refusal :=
  s.atHart fun h =>
    let v := s.hart h
    match v.job with
    | .stopping release =>
      if v.st = .running ∧ v.jobDue ≤ s.coreCycle h.core ∧ v.flights.isEmpty ∧ (s.outstanding [release]).isEmpty then
        let a0 := v.readX 10
        let t := v.csr.taskret
        let word := t &&& 0x1FFFFFFFF#64
        let s := if taskValid t then
            s.addReq { s.hartReq h with addr := word &&& ~~~ 7#64, op := .message word a0 } else s
        let above := decide ((imageMode (s.templateOf h.core)).code < v.mode.code)
        let s := s.reportEnd h ((s.core h.core).ctx.getD 0) t above (s.underlying h) v.csr.mepc
        s.endTask h a0
      else s
    | _ => s

/-- HOP_SEND (R47, R184, R367, R368): the record leaves after a release at domain scope, and the hart is OFF with IN 0. In an
upcall it goes to the resumption partition of the own core with the handler's reservation. A fault that waits goes on waiting. -/
def execHopSend (s : State) : Host.Outcome State Fault Refusal :=
  s.atHart fun h =>
    let v := s.hart h
    match v.job with
    | .hopping home mask _ =>
      if v.st = .running ∧ v.flights.isEmpty ∧ !s.niFull h.core then
        let resume := bitOf v.csr.upstat 0
        let t := v.csr.taskret
        let pc := if resume then v.csr.upepc else v.pc + 4
        let live := (setBits 32 mask.toNat).map fun r => v.readX (BitVec.ofNat 5 r)
        let record := makeRecord pc mask.toNat (if taskValid t then some (t &&& 0x1FFFFFFFF#64) else none) t live
        let own := s.absolute h.core 0x8000000000000000
        let s := (s.release h 3 .none).1
        let s := s.issueReq h { s.hartReq h with
          addr := if resume then own else home, op := .record (taskPrio t) resume, data := record }
        let s := s.setHart h { s.hart h with upReserved := v.upReserved && !resume, upcalls := [] }
        let s := s.endTask h 0
        s.setHart h { s.hart h with
          upcalls := v.upcalls, csr := { (s.hart h).csr with upstat := setBit (s.hart h).csr.upstat 0 false } }
      else s
    | _ => s

/-! ### Wakes and traps -/

/-- HART_WAKE (R30 to R32). -/
def execHartWake (s : State) : Host.Outcome State Fault Refusal :=
  s.atHart fun h =>
    let v := s.hart h
    if v.st = .parked ∧ v.job = .none ∧ s.wakes h then s.wake h else s

/-- QUANTUM_EXPIRY (R52, R425): mip bit 16 is set and the count goes on from 0. -/
def execQuantumExpiry (s : State) : Host.Outcome State Fault Refusal :=
  s.atHart fun h =>
    let v := s.hart h
    let limit := v.csr.quantumLimit.toNat
    let n := v.ticksCounted s.refTime
    if (v.st = .running ∨ v.st = .parked) ∧ limit ≠ 0 ∧ limit ≤ n then
      s.setHart h { v with
        quantumCount := n % limit, quantumSince := s.refTime, csr := { v.csr with mip := setBit v.csr.mip 16 true } }
    else s

/-- Whether a hart may take a trap now: it issues, and this is a slot of its own that it has not used (R33, R364). -/
def State.inOwnSlot (s : State) (h : HartRef) : Bool :=
  let v := s.hart h
  let c := s.coreCycle h.core
  v.issues && decide (v.issueFrom ≤ c) && c % 16 == h.hart.val && !(s.die (dieOf h.core)).halted

/-- The slot of a hart is used by a trap. -/
def State.useSlot (s : State) (h : HartRef) : State :=
  s.setHart h { s.hart h with issueFrom := s.coreCycle h.core + 1 }

/-- DEFERRED_FAULT_TRAP (R363, R364). -/
def execDeferredFaultTrap (s : State) : Host.Outcome State Fault Refusal :=
  s.atHart fun h =>
    match s.inOwnSlot h, s.faultDue h with
    | true, some f => (s.useSlot h).takeDeferred h f
    | _, _ => s

/-- INTERRUPT_TRAP (R32, R161, R364). -/
def execInterruptTrap (s : State) : Host.Outcome State Fault Refusal :=
  s.atHart fun h =>
    match s.inOwnSlot h, s.faultDue h, s.interruptDue h with
    | true, none, some c => (s.useSlot h).takeInterrupt h c
    | _, _, _ => s

/-- UPCALL_ENTRY (R364, R367); a parked hart whose upcall finds no reservation becomes HELD (R374). -/
def execUpcallEntry (s : State) : Host.Outcome State Fault Refusal :=
  s.atHart fun h =>
    match s.inOwnSlot h, s.faultDue h, s.interruptDue h, s.upcallDue h with
    | true, none, none, some u => (s.useSlot h).enterUpcall h u
    | _, _, _, _ => if (s.hart h).st = .parked ∧ s.upcallHeld h then s.hold h else s

/-! ### Records and messages -/

/-- Load of a core as `callat` and `hop` measure it (R170): task-queue entries and running harts. DEDUCED (log 61). -/
def State.taskLoad (s : State) (core : Nat) : Nat :=
  let c := s.core core
  c.tasks.length + (c.harts.toList.filter fun h => h.st == .running).length

/-- The first of least measure. -/
def leastBy (f : Nat → Nat) : List Nat → Option Nat
  | [] => none
  | a :: r => match leastBy f r with
    | some b => some (if f a ≤ f b then a else b)
    | none => some a

/-- The core of least load of a window on a die, by cluster and then by core (R56). -/
def State.placeOn (window : List Nat) (die : Nat) (load : Nat → Nat) : Option Nat :=
  let cores := window.filter fun c => (dieOf c).val == die
  let cluster (k : Nat) : List Nat := cores.filter fun c => clusterOf c == k
  let sum (l : List Nat) : Nat := l.foldl (fun n c => n + load c) 0
  let clusters := (List.range 80).filter fun k => !(cluster k).isEmpty
  match leastBy (fun k => sum (cluster k)) clusters with
  | some k => leastBy load (cluster k)
  | none => none

/-- The home core of a record on this device (R170): the code that refuses it, or the core. -/
def State.homeCore (s : State) (r : Req) : BitVec 8 ⊕ Nat :=
  match s.place r.core r.addr with
  | some (.spad c _ _) => match s.coreStub r c, s.coreRefuses r c with
    | none, some code => .inl code
    | _, _ => .inr c
  | some (.virt _) => match r.ctx.bind s.ctx? with
    | none => .inl cUnbound
    | some ctx =>
      let home := (r.route.getD (0, 0)).2
      let dies := home :: (List.range 4)
      match dies.findSome? (fun d => State.placeOn ctx.window d s.taskLoad) with
      | some c => .inr c
      | none => .inl cUnbound
  | _ => .inl cUnbacked

/-- The doorplate that forwards a record for a vacated core (R198). -/
def State.recordStub (s : State) (r : Req) : Option (Nat × Stub) :=
  match s.place r.core r.addr with
  | some (.spad c _ _) => s.coreStub r c
  | _ => none

/-- Where a record that a virtual address sends to the owner of its region stands (R87, R89, R390, R392): here, with no bytes of its own, or
wherever the doorplates and the tables of its die lead. -/
def State.recordAway (s : State) (r : Req) : Located :=
  match s.place r.core r.addr with
  | some (.virt va) => (match s.regionState r.die r.asid va with
    | some l => l
    | none => match s.walk r.die true r.asid va with
      | .fault code => .fault code
      | .soft => .fault cHomeSoft
      | .remote device die => .away device die
      | .home die => if die = r.die then .keys [] else .away s.device.toNat die
      | .leaf _ _ _ => .keys [])
  | _ => .keys []

/-- TASK_RECORD_ARRIVAL (R45, R46, R49, R170, R382): admitted by its partition, or refused. -/
def execTaskRecordArrival (s : State) : Host.Outcome State Fault Refusal :=
  s.atRequest fun n =>
    match s.req? n with
    | some r => match r.op, s.arrivedHere r with
      | .record prio resume, true =>
        (match s.recordAway r with
         | .fault code => s.turnAway r (walkAnswer code r.addr)
         | .refused => s.refuse r
         | .away device die => s.answer r (.bounced device die.val [])
         | .forward _ _ _ | .walk => s
         | .keys _ => match s.homeCore r with
           | .inl code => s.faultAt r code r.addr 0
           | .inr c =>
             let part : Partition := if resume then .resume else .remote
             if (s.recordStub r).isSome then s
             else if s.vacating c ∨ !(s.core c).roomFor part then s.refuse r
             else s.deduped r (dieOf c) fun s => (s.enqueue c r.data prio part).answer r (.done []))
      | _, _ => s
    | none => s

/-- Whether a hart takes messages (R51, R181, R374). DEDUCED (log 82). -/
def Hart.takesMessages (v : Hart) : Bool :=
  v.st == .held || ((v.st == .running || v.st == .parked)
    && (match v.job with | .save _ | .migrate => false | _ => true))

/-- MESSAGE_ARRIVAL (R51, R181, R426): the q-register fills, or the message is refused; a doorplate forwards it in a step of its
own. -/
def execMessageArrival (s : State) : Host.Outcome State Fault Refusal :=
  s.atRequest fun n =>
    match s.req? n with
    | some r => match r.op, s.arrivedHere r with
      | .message target value, true =>
        let c := wordCore target
        let h : HartRef := ⟨c, wordHart target⟩
        let q := target.extractLsb' 0 3
        if 80 ≤ field target 11 7 then s.faultAt r cUnbacked target 0
        else if (s.coreStub r c).isSome then s
        else match s.coreRefuses r c with
          | some code => s.faultAt r code target 0
          | none =>
            if s.vacating c ∨ !(s.hart h).takesMessages ∨ (s.hart h).qIsFull q then s.refuse r
            else s.deduped r (dieOf c) fun s => (s.setHart h ((s.hart h).fillQ q value)).answer r (.done [])
      | _, _ => s
    | none => s

/-! ### Barriers (R55, R129, R190, R191) -/

/-- The logical number of a core in a context. -/
def Ctx.logical (c : Ctx) (core : Nat) : Option Nat := c.window.idxOf? core

/-- A member's report counted in a group (R55, R191). -/
def Group.count (g : Group) (member : Nat) (sum max min : Option Word) : Group :=
  { g with
    reported := member :: g.reported
    sum := combineOpt 0 g.sum sum
    max := combineOpt 1 g.max max
    min := combineOpt 2 g.min min }

/-- Replaces a group of a context. -/
def Ctx.setGroup (c : Ctx) (g : Group) : Ctx :=
  { c with groups := c.groups.map fun x => if x.gid = g.gid then g else x }

/-- The root has counted every member: the generation completes, and its completion goes to every member (R55). -/
def State.completeGroup (s : State) (ctx : BitVec 8) (c : Ctx) (g : Group) : State :=
  let s := s.setCtx ctx (c.setGroup { g with reported := [], sum := none, max := none, min := none })
  g.members.foldl (fun (s : State) (m : Nat) =>
    s.send (dieOf (c.window.getD (g.members.headD 0) 0)) (.barrierDone ctx g.gid (c.window.getD m 0) g.sum g.max g.min)) s

/-- The die of the core at which the combining tree of a group is rooted, that of member index 0 (R355). -/
def State.rootDie (s : State) (ctx gid : BitVec 8) (core : Nat) : DieId :=
  match s.ctx? ctx with
  | some c => match c.groups.find? (fun g => g.gid == gid) with
    | some g => dieOf (c.window.getD (g.members.headD 0) core)
    | none => dieOf core
  | none => dieOf core

/-- BARRIER_ARRIVAL_REPORT (R55, R129, R355): a member's report, whose releases have performed, reaches the root. -/
def execBarrierArrivalReport (s : State) : Host.Outcome State Fault Refusal :=
  s.atRequest fun n =>
    match s.msg? n with
    | some (.barrierReport ctx gid core sum max min waits) =>
      if !(s.outstanding waits).isEmpty ∨ !s.routeOpen (dieOf core) (s.rootDie ctx gid core) then s
      else
        let s := s.dropMsg n
        match s.ctx? ctx with
        | none => s
        | some c =>
          match c.groups.find? (fun g => g.gid == gid), c.logical core with
          | some g, some m =>
            if g.reported.contains m ∨ !g.members.contains m then s
            else
              let g := g.count m sum max min
              if g.members.all g.reported.contains then s.completeGroup ctx c g
              else s.setCtx ctx (c.setGroup g)
          | _, _ => s
    | _ => s

/-- The value that a combining arrival fills with (R191). -/
def arrivedValue (k : Fin 3) (sum max min : Option Word) : Word :=
  match k with
  | 0 => sum.getD 0
  | 1 => max.getD 0
  | 2 => min.getD 0

/-- A combining destination fills, whether its hart runs, is saved or has ended (R191, R231). -/
def State.fillArrived (s : State) (h : HartRef) (a : Arrived) (v : Word) : State :=
  match s.req? a.hold with
  | some r => match r.dest with
    | .xreg rd _ => (s.fillRegister r h rd v).dropReq a.hold
    | _ => s.dropReq a.hold
  | none => s

/-- A hart's arrival completes with its generation (R55, R190): a parked `gbar` completes without executing again; one that a
trap or a drain interrupted completes as it re-executes (R32). -/
def State.completeArrival (s : State) (h : HartRef) (gid : BitVec 8) (sum max min : Option Word) : State :=
  let v := s.hart h
  match v.arrived with
  | none => s
  | some a =>
    if a.gid ≠ gid then s
    else match a.kind with
      | some k =>
        let s := s.fillArrived h a (arrivedValue k sum max min)
        s.setHart h { s.hart h with arrived := none }
      | none =>
        if v.st = .parked ∧ v.wait = .barrier ∧ v.job = .none then
          let w := (v.advance).moveTo .running s.refTime
          s.setHart h { w with wait := .none, arrived := none, issueFrom := s.coreCycle h.core + 2 }
        else s.setHart h { v with
          arrived := none, gbars := match a.gbar with | some pc => (gid, pc) :: v.gbars | none => v.gbars }

/-- BARRIER_COMPLETION_ARRIVAL (R55, R129, R191, R355): the completion has come from the root, and waits for a die on its way whose
clock is halted. -/
def execBarrierCompletionArrival (s : State) : Host.Outcome State Fault Refusal :=
  s.atRequest fun n =>
    match s.msg? n with
    | some (.barrierDone ctx gid core sum max min) =>
      if !s.routeOpen (s.rootDie ctx gid core) (dieOf core) then s
      else
        let s := s.dropMsg n
        let c := s.core core
        let s := s.setCore core { c with arrivals := c.arrivals.filter fun a => a.gid != gid }
        (List.finRange 16).foldl (fun (s : State) (i : HartId) => s.completeArrival ⟨core, i⟩ gid sum max min) s
    | _ => s

/-! ### The debug overlay (R199, R409) -/

/-- An overlay table of 16 entries after an update (R199): one that is full takes no further page. DESIGN CHOICE (log 92). -/
def overlayUpdate (table : List (Word × Word)) (page : Word) (target : Option Word) : List (Word × Word) :=
  let rest := table.filter fun o => o.1 != page
  match target with
  | some t => if rest.length < 16 then rest ++ [(page, t)] else table
  | none => rest

/-- OVERLAY_UPDATE_COMPLETE (R33, R199): every die has updated its table, and the instruction completes. The tables of all dies are
one in the model and change in this step. DESIGN CHOICE (log 92). -/
def execOverlayUpdateComplete (s : State) : Host.Outcome State Fault Refusal :=
  s.atHart fun h =>
    let v := s.hart h
    match v.job, v.st, (s.core h.core).ctx with
    | .overlay page target, .running, some n => match s.ctx? n with
      | some c =>
        let s := s.setCtx n { c with overlays := overlayUpdate c.overlays page target }
        s.setHart h { v.advance with job := .none, issueFrom := max v.issueFrom (s.coreCycle h.core) }
      | none => s
    | .overlay _ _, .running, none =>
      s.setHart h { v.advance with job := .none, issueFrom := max v.issueFrom (s.coreCycle h.core) }
    | _, _, _ => s

end Sys2Proof.Machine
end

