-- ==== Sys2Proof/Machine/CoreMigration.lean ====
section
/-! DEFINITION. The completion of `cmig`: a core context moves to another core and leaves a doorplate behind (R86, R92,
R198, R225, R227, R229). -/

namespace Sys2Proof.Machine

/-- Whether every hart of a vacated core is OFF or has saved its image for the target core, and the macro-operation sequencer has
no tile step there (R198). -/
def State.coreDrained (s : State) (core : Nat) : Bool :=
  (s.core core).tileStep.isNone && (List.finRange 16).all fun (i : HartId) =>
    let v := s.hart ⟨core, i⟩
    match v.st with
    | .off => true
    | .saving => v.job == .migrate && decide (v.jobDue ≤ s.coreCycle core)
    | _ => false

/-- A hart as its image restores it on the target core (R198, R229, R375): the breakpoints stay behind, and a hart that
holds a context loads for 30 slots. -/
def State.movedHart (s : State) (v : Hart) (h : HartRef) : Hart :=
  let into := s.hart h
  let w := v.loadPorts (v.portImage 0)
  let w := { w with
    csr := { w.csr with bpaddr := into.csr.bpaddr, bpctl := into.csr.bpctl }, pending := [], resv := none, lr := none, lines := [],
    fetching := none, fetched := none, rewrites := none, wait := .none, windowsUsed := v.windowsUsed }
  match v.st with
  | .off => w
  | _ =>
    let now := s.coreCycle h.core
    { w.moveTo .loading s.refTime with job := .migrate, jobDue := transferEnd h.hart now 30, loaded := [], issueFrom := now + 1 }

/-- A source on the vacated core is one on the target core. -/
def Source.moved (core target : Nat) : Source → Source
  | .hart h => if h.core = core then .hart ⟨target, h.hart⟩ else .hart h
  | x => x

/-- A barrier message for the vacated core is one for the target core. -/
def MsgBody.moved (core target : Nat) : MsgBody → MsgBody
  | .barrierReport ctx g c a b d w => .barrierReport ctx g (if c = core then target else c) a b d w
  | .barrierDone ctx g c a b d => .barrierDone ctx g (if c = core then target else c) a b d
  | x => x

/-- The scratchpad of a core, its poison included, replaces that of another. -/
def State.moveScratchpad (s : State) (core target : Nat) : State :=
  let within (c k : Nat) : Bool := decide (spadKey c 0 ≤ k) && decide (k < spadKey c 0 + 2 ^ 18)
  let moved (k : Nat) : Nat := k - spadKey core 0 + spadKey target 0
  let cells := (s.mem.filter fun c => within core c.1).map fun c => (moved c.1, c.2)
  let poison := (s.poison.filter (within core)).map moved
  { s with
    mem := Memory.writeKeys (s.mem.filter fun c => !within target c.1) cells
    poison := s.poison.filter (fun k => !within target k) ++ poison }

/-- The core that a vacated one becomes. DEDUCED (log 47). -/
def Core.vacated (c : Core) : Core :=
  let c := c.mapHarts fun v => { v.fresh with st := .off, arrived := none, gbars := [], pending := [], upcalls := [] }
  { c with
    tiles := Vector.replicate 64 Tile.reset, watch := Vector.replicate 16 Watch.reset, tasks := [], reservations := 0,
    autostart := false, automask := 0xFFFE, autoprio := 3, cgrp := Vector.replicate 4 0, arrivals := [], kUpset := 0, kSettle := [],
    ctx := none, lcore := 0, migration := none }

/-- The core that the target becomes (R198). -/
def State.movedCore (s : State) (core target : Nat) : Core :=
  let a := s.core core
  let b := s.core target
  let one (v : Vector Hart 16) (i : HartId) : Vector Hart 16 := v.set i (s.movedHart a.harts[i] ⟨target, i⟩)
  let tasks := a.tasks.map fun (t : Task) => { t with cycle := 0 }
  { b with
    harts := (List.finRange 16).foldl one b.harts
    weights := a.weights, accs := a.accs, tiles := a.tiles, watch := a.watch, tasks := tasks
    reservations := a.reservations, k := a.k, kUpset := a.kUpset, kSettle := [], autostart := a.autostart, automask := a.automask
    autoprio := a.autoprio, cgrp := a.cgrp, arrivals := a.arrivals, ctx := a.ctx, lcore := a.lcore }

/-- The lowest FREE stub of a die. -/
def State.freeStub (s : State) (d : DieId) : Option Nat :=
  (List.range 512).find? fun i => ((tableGet (s.die d).stubs i).getD Stub.reset).st == .free

/-- Replaces a stub of a die. -/
def State.setStub (s : State) (d : DieId) (i : Nat) (t : Stub) : State :=
  s.setDie d { s.die d with stubs := tableSet (s.die d).stubs i t }

/-- The doorplate of a vacated core (R86, R92): its target core stands in `request`. DEDUCED (log 57). -/
def State.contextStub (s : State) (core target : Nat) : Stub :=
  { st := .quiet, ctx := true, copied := 0, region := BitVec.ofNat 36 core,
    asid := match s.ctxOf core with | some c => c.asid | none => 0, ndev := s.device,
    ndie := BitVec.ofNat 2 (dieOf target).val, acks := 0, lastFwd := BitVec.ofNat 36 (s.refTime / 1024), fwdAt := s.refTime,
    request := some target, sending := false }

/-- The core context moves (R198). -/
def State.moveCore (s : State) (core target : Nat) (rd : Reg) (stub : Nat) : State :=
  let h0 : HartRef := ⟨core, 0⟩
  let s := s.setHart h0 ((s.hart h0).fill rd 0).advance
  let a := s.movedCore core target
  let old := (s.core core).vacated
  let plate := s.contextStub core target
  let s := (s.setCore target a).moveScratchpad core target
  let s := match a.ctx with
    | some n => (match s.ctx? n with
      | some c => s.setCtx n { c with window := c.window.map fun x => if x = core then target else x }
      | none => s)
    | none => s
  let s := (s.setCore core old).setStub (dieOf core) stub plate
  { s with
    reqs := s.reqs.map fun (r : Req) => { r with
      src := r.src.moved core target, image := r.image.map fun i => if i.1 = core then (target, i.2) else i }
    msgs := s.msgs.map fun (m : Msg) => { m with body := m.body.moved core target } }

/-- CMIG_COMPLETE (R30, R198): once every hart of the core has drained. -/
def execCmigComplete (s : State) : Host.Outcome State Fault Refusal :=
  match s.arg with
  | .core n =>
    match (s.core n).migration with
    | some m =>
      let s := s.drainCore n
      (match s.coreDrained n, s.freeStub (dieOf n) with
       | true, some stub => .next (s.moveCore n m.target m.rd stub)
       | _, _ => .next s)
    | none => .next s
  | _ => .next s

end Sys2Proof.Machine
end

