-- ==== Sys2Proof/Machine/DeviceRegs.lean ====
section
/-! DEFINITION. The device registers (R86, R262, R263, R267 to R273, R316 to R323, R371, R372, R379, R434): what a read
returns, and the writes that change one register and nothing else. -/

namespace Sys2Proof.Machine

/-! ### Reading -/

/-- PHASE of a bring-up phase (R321). -/
def phaseCode : Phase → Nat
  | .rom => 0 | .verify => 1 | .memory => 2 | .config => 3 | .links => 4 | .ready => 5 | .recovery => 6

/-- STATE of a port (R309). -/
def portCode : PortState → Nat
  | .down => 0 | .training => 1 | .active => 2 | .degraded => 3 | .quiesced => 4 | .dead => 5

/-- STATE of a stub (R86). -/
def stubCode : StubState → Nat
  | .free => 0 | .copying => 1 | .forwarding => 2 | .quiet => 3

/-- STATE of a descriptor (R272). -/
def descCode : DescState → Nat
  | .free => 0 | .pending => 1 | .committed => 2 | .stale => 3

/-- STATE of a slot (R269). -/
def slotCode : SlotState → Nat
  | .free => 0 | .opening => 1 | .running => 2 | .halted => 3 | .closing => 4 | .fenced => 5

/-- 1 for true. -/
def bit (b : Bool) : Nat := if b then 1 else 0

/-- A word of a stub (R86). -/
def stubWord (t : Stub) (high : Bool) : Word :=
  if high then BitVec.ofNat 64 (t.ndev.toNat + 2 ^ 13 * t.ndie.toNat + 2 ^ 15 * t.acks.toNat + 2 ^ 28 * t.lastFwd.toNat)
  else BitVec.ofNat 64 (stubCode t.st + 2 ^ 2 * bit t.ctx + 2 ^ 3 * t.copied.toNat + 2 ^ 8 * t.region.toNat
    + 2 ^ 44 * t.asid.toNat)

/-- A word of a descriptor (R272). -/
def descWord (d : Desc) (high : Bool) : Word :=
  if high then BitVec.ofNat 64 (d.name.toNat + 2 ^ 6 * d.slot.val + 2 ^ 10 * descCode d.st)
  else BitVec.ofNat 64 (d.addr.toNat % 2 ^ 57 + 2 ^ 57 * d.ver.toNat + 2 ^ 60 * d.home.val)

/-- A word of a context root table entry (R319). -/
def rootWord (r : Root) (high : Bool) : Word :=
  if high then BitVec.ofNat 64 (r.taddr.toNat + 2 ^ 37 * r.tdie.toNat)
  else BitVec.ofNat 64 (r.asid.toNat + 2 ^ 16 * bit r.valid)

/-- SNAMEn (R273). -/
def nameWord (t : TName) : Word :=
  BitVec.ofNat 64 (t.front.toNat + 2 ^ 16 * t.commit.toNat + 2 ^ 31 * bit t.decl.isSome + 2 ^ 32 * t.vbusy.toNat
    + 2 ^ 40 * (match t.decl with | some d => d.vers | none => 0))

/-- SOCC (R268). -/
def State.soccWord (s : State) (i : SlotId) : Word :=
  let v := s.slot i
  let held := (s.descs.filter fun d => d.2.st != .free && d.2.slot == i).length
  BitVec.ofNat 64 (v.window.length + 2 ^ 16 * held + 2 ^ 32 * v.drain.length)

/-- SFSTAT (R370). -/
def sfstatWord (v : Slot) : Word :=
  BitVec.ofNat 64 (v.fCode.toNat + 2 ^ 8 * bit v.fValid + 2 ^ 16 * v.fIdx.toNat + 2 ^ 24 * bit v.fOk + 2 ^ 32 * v.fLater.toNat)

/-- A register of a slot block that the slot's opening fixes or its run changes (R268). -/
def State.slotRunWord (s : State) (i : SlotId) (off : Nat) : Word :=
  let v := s.slot i
  if off = 0x18 then v.slimit
  else if off = 0x20 then v.spc
  else if off = 0x28 then v.sretpc
  else if off = 0x30 then v.sretcnt
  else if off = 0x38 then s.soccWord i
  else if off = 0x50 then sfstatWord v
  else if 0x80 ≤ off ∧ off < 0xC0 then
    match v.retiredLoops[(off - 0x80) / 16]? with
    | some l => if off % 16 = 0 then l.start else BitVec.ofNat 64 (l.count.toNat + 2 ^ 63)
    | none => 0
  else if 0x200 ≤ off then nameWord (v.names[(off - 0x200) / 8 % 64]'(Nat.mod_lt _ (by decide)))
  else 0

/-- A register of a slot's block on a die (R267, R268): while the slot is not FREE, another die than the lead shows its
state alone. -/
def State.slotWord (s : State) (d : DieId) (i : SlotId) (off : Nat) : Word :=
  let v := s.slot i
  let b := v.blocks[d]
  if off = 0 then BitVec.ofNat 64 (slotCode v.st)
  else if v.st ≠ .free ∧ v.lead ≠ d then 0
  else if off = 0x08 then b.ctx.zeroExtend 64
  else if off = 0x10 then b.sbase
  else if off = 0x40 then b.ktab + BitVec.ofNat 64 (2 ^ 57 * b.nkern.toNat)
  else if off = 0x48 then BitVec.ofNat 64 (b.stageOff.toNat + 2 ^ 18 * b.stageSize.toNat)
  else if v.lead = d then s.slotRunWord i off
  else 0

/-- HARVESTi (R319). -/
def harvestWord (v : Die) (i : Nat) : Word := v.harvest.extractLsb' (64 * i) 64

/-- PORTSTATp (R320). -/
def portWord (p : Port) : Word := BitVec.ofNat 64 (portCode p.st + 2 ^ 3 * p.lanes.toNat + 2 ^ 8 * p.repeats.toNat)

/-- The clock registers of a die (R316, R317, R320). -/
def State.clockWord (s : State) (d : DieId) (n : Nat) : Word :=
  let v := s.die d
  match n with
  | 0 => BitVec.ofNat 64 (s.cycleRef d)
  | 1 => BitVec.ofNat 64 (v.cur.toNat + 2 ^ 8 * v.target.toNat + 2 ^ 16 * bit v.busy)
  | 2 => v.stepRef
  | 3 => v.stepCyc
  | 4 => v.haltRef
  | 5 => BitVec.ofNat 64 (v.stepOld.toNat + 2 ^ 8 * v.stepNew.toNat + 2 ^ 16 * v.stepCount.toNat)
  | _ => BitVec.ofNat 64 (s.cycle d)

/-- The host attachment registers (R320). -/
def State.hostWord (s : State) (n : Nat) : Word :=
  match n with
  | 0 => BitVec.ofNat 64 (2 ^ 8 * bit s.hflBusy)
  | 1 => s.hflAddr.zeroExtend 64
  | 2 => s.hflLen.zeroExtend 64
  | 3 => s.hflCtx.zeroExtend 64
  | 4 => BitVec.ofNat 64 (2 ^ 3 * s.hflFlag.toNat)
  | 5 => BitVec.ofNat 64 (2 ^ 32 * s.hapBase.toNat)
  | _ => s.hapCtx.zeroExtend 64

/-- A word of the mailbox (R323): the status word reads 1 whenever it is ready. -/
def State.mailWord (s : State) (off : Nat) : Word :=
  if off = 8 then (if s.mailStatus then 1 else 0)
  else if off = 0 then 0
  else BitVec.ofNat 64 (leNat (Memory.readBytes s.mailArea off 8))

/-- A word of a record (R371). -/
def State.recordWord (s : State) (d : DieId) (i n : Nat) : Word :=
  match tableGet (s.die d).records i with
  | some (a, b, c, e) => (match n with | 0 => a | 1 => b | 2 => c | _ => e)
  | none => 0

/-- The control registers of the fault buffer (R372). -/
def faultControl (v : Die) (n : Nat) : Word :=
  match n with
  | 0 => v.fbHead.zeroExtend 64
  | 1 => v.fbTail.zeroExtend 64
  | _ => BitVec.ofNat 64 (bit v.fbOvf + 2 * bit v.fbNew + 2 ^ 16 * v.fbOvfCnt.toNat + 2 ^ 32 * min 256 v.holding.length)

/-- A put window (R319). -/
def State.windowWord (s : State) (ctx : BitVec 8) (w : Nat) (high : Bool) : Word :=
  match (s.ctx? ctx).bind fun c => tableGet c.windows w with
  | some p => if high then (match p.device with | some d => d.zeroExtend 64 | none => 0) else p.acked ++ p.issued
  | none => 0

/-- A domain-set word (R319, R434). -/
def dsetWord (r : Root) (i : Nat) : Word := r.dset.extractLsb' (64 * i) 64

/-- What a register of a die reads as (R319); an offset without a register reads 0 and is refused before. -/
def State.readRegister (s : State) (d : DieId) (off : Nat) : Word :=
  let v := s.die d
  let high := off / 8 % 2 == 1
  if off = 0 then BitVec.ofNat 64 (s.device.toNat + 2 ^ 13 * d.val)
  else if off = 8 then
    BitVec.ofNat 64 (phaseCode s.phase + 2 ^ 3 * bit s.edOk + 2 ^ 4 * bit s.mlOk + 2 ^ 5 * s.stackMask.toNat)
  else if off < 0x10000 then harvestWord v ((off - 0x1000) / 8)
  else if off < 0x20000 then s.clockWord d ((off - 0x10000) / 8)
  else if off = 0x20000 then BitVec.ofNat 64 (s.linkMode.toNat + 2 * s.paths.toNat + 2 ^ 5 * s.domSize.toNat)
  else if off < 0x30000 then portWord (s.ports[(off - 0x20100) / 8 % 18]'(Nat.mod_lt _ (by decide)))
  else if off < 0x40000 then s.hostWord ((off - 0x30000) / 8)
  else if off = 0x40000 then s.pwrLimit.zeroExtend 64
  else if off = 0x40008 then v.pwrNow.zeroExtend 64
  else if off = 0x40010 then v.tempMax.zeroExtend 64
  else if off = 0x40018 then BitVec.ofNat 64 (v.softCorr.toNat + 2 ^ 32 * v.softThresh.toNat)
  else if off < 0x100000 then s.mailWord (off - 0x50000)
  else if off < 0x110000 then s.slotWord d (Fin.ofNat 16 ((off - 0x100000) / 0x1000)) (off % 0x1000)
  else if off < 0x120000 then descWord (s.desc ((off - 0x110000) / 16)) high
  else if off < 0x130000 then stubWord ((tableGet v.stubs ((off - 0x120000) / 16)).getD Stub.reset) high
  else if off < 0x140000 then rootWord ((tableGet v.roots ((off - 0x130000) / 16)).getD Root.reset) high
  else if off < 0x200000 then
    dsetWord ((tableGet v.roots ((off - 0x140000) / 0x240)).getD Root.reset) ((off - 0x140000) % 0x240 / 8)
  else if off < 0x300000 then
    s.windowWord (BitVec.ofNat 8 ((off - 0x200000) / 1024)) ((off - 0x200000) % 1024 / 16) high
  else if off < 0x302000 then s.recordWord d ((off - 0x300000) / 32) (off / 8 % 4)
  else if off < 0x310000 then faultControl v ((off - 0x302000) / 8)
  else (tableGet s.caps ((off - 0x310000) / 8)).getD 0

/-! ### Writes of one register -/

/-- A write of a slot block (R267, R268): SCTX, SBASE, SKTAB and SSTAGE take writes while the slot is FREE.
DEDUCED (log 46). Values out of range are held as written. DESIGN CHOICE (log 112). -/
def State.writeSlotBlock (s : State) (d : DieId) (i : SlotId) (off : Nat) (w : Word) : State :=
  let v := s.slot i
  let b := v.blocks[d]
  if v.st ≠ .free then s
  else
    let b :=
      if off = 0x08 then { b with ctx := w.extractLsb' 0 8 }
      else if off = 0x10 then { b with sbase := w &&& 0x1FFFFFFFFFFFFF0#64 }
      else if off = 0x40 then { b with ktab := w &&& 0x1FFFFFFFFFFFFFF#64, nkern := w.extractLsb' 57 7 }
      else if off = 0x48 then { b with stageOff := w.extractLsb' 0 18 &&& 0x3FFC0#18, stageSize := w.extractLsb' 18 19 }
      else b
    s.setSlot i { v with blocks := v.blocks.set d b }

/-- A write of a context root table entry (R80, R319); on a device of one die TDIE holds 0 (R1). -/
def Root.write (r : Root) (high : Bool) (w : Word) (dies : Nat) : Root :=
  if high then { r with taddr := w.extractLsb' 0 37, tdie := if dies = 1 then 0 else w.extractLsb' 37 2 }
  else { r with asid := w.extractLsb' 0 16, valid := bitOf w 16 }

/-- A write of a domain-set word (R434). -/
def Root.writeSet (r : Root) (i : Nat) (w : Word) : Root :=
  let old := r.dset.extractLsb' (64 * i) 64
  { r with dset := r.dset ^^^ ((old ^^^ w).zeroExtend 4608 <<< (64 * i)) }

/-- Changes a context root table entry of a die. -/
def State.changeRoot (s : State) (d : DieId) (n : Nat) (f : Root → Root) : State :=
  let v := s.die d
  s.setDie d { v with roots := tableSet v.roots n (f ((tableGet v.roots n).getD Root.reset)) }

/-- A write of the mailbox (R323, R335): a command starts where none runs, and the status word and the response area take
no writes. The running command keeps the payload as it was (R344). -/
def State.writeMail (s : State) (off : Nat) (w : Word) : State :=
  if phaseCode s.phase < 5 then s
  else if off = 0 then
    (if s.mailStatus then { s with mailStatus := false, mailCommand := some w, mailPayload := s.mailArea } else s)
  else if off = 8 ∨ 0x100 ≤ off then s
  else { s with mailArea := Memory.writeBytes s.mailArea off (leBytes w.toNat 8) }

/-- A write of FBSTAT: OVF, with OVFCNT, and NEW are cleared by 1 (R372). -/
def Die.writeFbstat (v : Die) (w : Word) : Die :=
  let v := if bitOf w 0 then { v with fbOvf := false, fbOvfCnt := 0 } else v
  if bitOf w 1 then { v with fbNew := false } else v

/-- A write of a register that changes its own fields and nothing else: read-only fields and those that firmware alone
writes ignore it (R319, R320). -/
def State.plainWrite (s : State) (d : DieId) (off : Nat) (w : Word) : State :=
  let high := off / 8 % 2 == 1
  if off = 0x30008 then { s with hflAddr := w.extractLsb' 0 57 }
  else if off = 0x30010 then { s with hflLen := w.extractLsb' 0 57 }
  else if off = 0x30018 then { s with hflCtx := w.extractLsb' 0 8 }
  else if off = 0x30020 then { s with hflFlag := w.extractLsb' 3 19 }
  else if off = 0x30028 then { s with hapBase := w.extractLsb' 32 25 }
  else if off = 0x30030 then { s with hapCtx := w.extractLsb' 0 8 }
  else if 0x50000 ≤ off ∧ off < 0x51000 then s.writeMail (off - 0x50000) w
  else if 0x100000 ≤ off ∧ off < 0x110000 then
    s.writeSlotBlock d (Fin.ofNat 16 ((off - 0x100000) / 0x1000)) (off % 0x1000) w
  else if 0x130000 ≤ off ∧ off < 0x130400 then s.changeRoot d ((off - 0x130000) / 16) (·.write high w s.dieCount)
  else if 0x140000 ≤ off ∧ off < 0x140000 + 0x240 * 64 then
    s.changeRoot d ((off - 0x140000) / 0x240) (·.writeSet ((off - 0x140000) % 0x240 / 8) w)
  else if off = 0x302010 then s.setDie d ((s.die d).writeFbstat w)
  else if off = 0x40018 then s.setDie d { s.die d with softThresh := w.extractLsb' 32 16 }
  else s

/-! ### Where writes come from -/

/-- The register at an offset of BAR0, or of BAR2, whose first 4 KiB are the mailbox; in RECOVERY BAR2 alone responds (R313, R319,
R321). -/
def State.barRegister? (s : State) (mailbox : Bool) (b : Nat) : Option (DieId × Nat) :=
  let die := if mailbox then 0 else b / 2 ^ 28
  let off := if mailbox then 0x50000 + b else b % 2 ^ 28
  if s.registerExists die off && (if mailbox then decide (b < 0x1000) else s.phase != .recovery) then some (Fin.ofNat 4 die, off)
  else none

/-- What a host read through BAR0 or BAR2 returns: all ones where it is no aligned 8-byte access, or names a reserved offset
(R313). -/
def State.barRead (s : State) (mailbox : Bool) (b n : Nat) : List Byte :=
  match (if n = 8 then s.barRegister? mailbox b else none) with
  | some (d, off) => leBytes (s.readRegister d off).toNat 8
  | none => List.replicate n 0xFF

/-- A write of a register as its source brings it: the die, the offset and the value (R67, R313, R319). A write of the host waits for a
die on its way whose clock is halted (R317, R358). -/
def State.registerWrite? (s : State) (src : WriteSource) : Option (DieId × Nat × Word) :=
  match src with
  | .request n => match s.req? n with
    | some r => match s.place r.core r.addr, s.arrivedHere r, r.op with
      | some (.register die off), true, .write => some (Fin.ofNat 4 die, off, BitVec.ofNat 64 (leNat r.data))
      | _, _, _ => none
    | none => none
  | .host b v => ((s.barRegister? false b.toNat).filter fun x => s.routeOpen 0 x.1).map fun x => (x.1, x.2, v)
  | .mailbox b v => ((s.barRegister? true b.toNat).filter fun x => s.routeOpen 0 x.1).map fun x => (x.1, x.2, v)

/-- The acknowledgement of a register write (R120). -/
def State.ackWrite (s : State) (src : WriteSource) : State :=
  match src with
  | .request n => match s.req? n with
    | some r => s.answer r (.done [])
    | none => s
  | .host _ _ | .mailbox _ _ => s

/-- A step that performs a register write, once whatever copies of it arrive (R403), where its offset and value are the
step's. -/
def State.onWrite (s : State) (accept : DieId → Nat → Word → Bool) (perform : State → DieId → Nat → Word → State) :
    Host.Outcome State Fault Refusal :=
  match s.arg with
  | .write src => match s.registerWrite? src with
    | some (d, off, w) =>
      if !accept d off w then .next s
      else match src with
        | .request n => match s.req? n with
          | some r => .next (s.deduped r d fun s => (perform s d off w).ackWrite src)
          | none => .next s
        | .host _ _ | .mailbox _ _ => .next (perform s d off w)
    | none => .next s
  | _ => .next s

/-- Whether a write is one of the registers whose writes are steps of their own. -/
def State.ownStep (s : State) (_d : DieId) (off : Nat) (w : Word) : Bool :=
  let st := (s.slot (Fin.ofNat 16 ((off - 0x100000) / 0x1000))).st
  off == 0x302008 || (off == 0x40018 && bitOf w 63) || off == 0x10008
  || (off == 0x30000 && (field w 0 2 == 1 || field w 0 2 == 2))
  || (0x100000 ≤ off && decide (off < 0x110000)
      && ((off % 0x1000 == 0 && (if st = .free then bitOf w 4 else bitOf w 5)) || off % 0x1000 == 0x18))

/-- REGISTER_WRITE (R313, R319, R320), and the host's read of a register, which performs once every die on its way runs (R358). -/
def execRegisterWrite (s : State) : Host.Outcome State Fault Refusal :=
  match s.arg with
  | .barRead mailbox b n =>
    if ((if n = 8 then s.barRegister? mailbox b else none).any fun x => !s.routeOpen 0 x.1) then .next s
    else .next { s with hostRead := s.barRead mailbox b n }
  | _ => s.onWrite (fun d off w => !s.ownStep d off w) State.plainWrite

/-- The records that an advance of the tail passes are no longer live (R372). -/
def Die.passRecords (v : Die) (n : Nat) : Die :=
  let one (rs : List (Nat × (Word × Word × Word × Word))) (i : Nat) : List (Nat × (Word × Word × Word × Word)) :=
    let k := (v.fbTail.toNat + i) % 256
    match tableGet rs k with
    | some (a, b) => tableSet rs k (setBit a 12 false, b)
    | none => rs
  { v with records := (List.range n).foldl one v.records }

/-- FBTAIL_WRITE (R372, R373): a value past the head is ignored. -/
def execFbtailWrite (s : State) : Host.Outcome State Fault Refusal :=
  s.onWrite (fun _ off _ => off == 0x302008) fun s d _ w =>
    let v := s.die d
    let step := w.extractLsb' 0 9 - v.fbTail
    if (v.fbHead - v.fbTail).toNat < step.toNat then s
    else s.setDie d { v.passRecords step.toNat with
      fbTail := w.extractLsb' 0 9, tailWas := s.tailSeen d, tailUntil := s.cycle d + 1 }

/-- SOFTERR_CLR (R379): the write stores THRESH as well. -/
def execSofterrClr (s : State) : Host.Outcome State Fault Refusal :=
  s.onWrite (fun _ off w => off == 0x40018 && bitOf w 63) fun s d _ w =>
    s.setDie d { s.die d with softCorr := 0, softThresh := w.extractLsb' 32 16 }

/-- The first slot-15 die cycle after a die cycle (R317). -/
def lastBeforeHalt (c : Nat) : Nat := c + 1 + (15 - (c + 1) % 16)

/-- A request for a step of a die's clock (R317): ignored for a code outside 10 to 18, the current code, or while a step is
in progress. -/
def State.requestStep (s : State) (d : DieId) (code : BitVec 5) : State :=
  let v := s.die d
  if v.busy ∨ code.toNat < 10 ∨ 18 < code.toNat ∨ code = v.cur then s
  else s.setDie d { v with target := code, busy := true, haltAfter := some (lastBeforeHalt (s.cycle d)) }

/-- Whether a write may step the clock of a die (R317): one of the host, or of a context that has a core bound there. -/
def State.mayStepClock (s : State) (d : DieId) : Bool :=
  match s.arg with
  | .write (.request n) => (s.req? n).any fun r => s.cores.any fun (c, v) => dieOf c == d && v.ctx.isSome && v.ctx == r.ctx
  | _ => true

/-- DCLKCTL_TARGET_WRITE (R317): a die that its limit holds at code 10 takes none (R412). -/
def execDclkctlTargetWrite (s : State) : Host.Outcome State Fault Refusal :=
  s.onWrite (fun _ off _ => off == 0x10008) fun s d _ w =>
    if (s.die d).hot ∨ !s.mayStepClock d then s else s.requestStep d (w.extractLsb' 8 5)

end Sys2Proof.Machine
end

