-- ==== Sys2Proof/Machine/RequestEvents.lean ====
section
/-! DEFINITION. The steps of a request: it leaves its NI, performs at its home, and is answered, retried, settled or
completed; and the performing of releases (R73 to R76, R117 to R125, R160, R177, R231, R260 to R266, R312, R361, R366, R367,
R389, R397, R403 to R405). -/

namespace Sys2Proof.Machine

/-! ### Leaving (R85, R91, R120, R262, R264, R265, R311, R403) -/

/-- Where a request that leaves goes. -/
inductive Way
  | unknown
  | fault (code : BitVec 8)
  | go (device : Nat) (die : DieId)
  deriving DecidableEq, Repr

/-- The way of a request: a core's NI asks its owner cache, and every other agent the tables of its own die (R85). A stream's access to
a die that the device lacks is ENGADDR (R2). -/
def State.wayOf (s : State) (r : Req) : Way :=
  let known : Way := match s.routeOf r with | some (d, die) => .go d die | none => .unknown
  let stream : Bool := match r.src with | .stream _ _ => true | _ => false
  if stream && s.absentDie r.addr then .fault 0x26
  else if r.ni then known
  else match s.place r.core r.addr with
    | some (.virt va) =>
      (match s.walk (dieOf r.core) true r.asid va with
       | .fault c => .fault c
       | .soft => .fault cHomeSoft
       | .remote d die => .go d die
       | .home die => .go s.device.toNat die
       | .leaf _ _ _ => .go s.device.toNat (dieOf r.core))
    | _ => known

/-- Outstanding tracked numbers of a core (R403). -/
def State.numbersOf (s : State) (core : Nat) : List (BitVec 32) :=
  (s.reqs.filter fun r => r.core == core && (match r.src with | .foreign _ _ _ _ => false | _ => true)).filterMap (·.seq)

/-- The oldest of numbers, or a number where there is none (R403). -/
def lowest (n : BitVec 32) (l : List (BitVec 32)) : BitVec 32 := l.foldl (fun m x => if seqBelow x m then x else m) n

/-- LOW of the source of a request (R403): of a read, the oldest outstanding number or the next one. -/
def State.lowOf (s : State) (r : Req) : BitVec 32 := lowest (r.seq.getD (s.core r.core).niSeq) (s.numbersOf r.core)

/-- A request with its number and the present LOW (R403), its core counting on, or none while the window of 128 is full. -/
def State.number (s : State) (r : Req) : Option (State × Req) :=
  if !r.tracked then some (s, { r with low := s.lowOf r })
  else
    let c := s.core r.core
    let n := r.seq.getD c.niSeq
    let low := s.lowOf r
    if 128 ≤ (n - low).toNat then none
    else
      let s := if r.seq.isSome then s else s.setCore r.core { c with niSeq := c.niSeq + 1 }
      some (s, { r with seq := some n, low := low })

/-- The device at which the arrival of a request counts (R123). -/
def State.arrivalDevice (s : State) (r : Req) : Option Nat :=
  match r.arrival with
  | .flag a => (match s.place r.core a with
    | some (.farSpad dev _ _ _) => some dev
    | _ => some s.device.toNat)
  | _ => none

/-- Counts a request in the put window of its context for a device, where that is another one (R262). -/
def State.countIn (s : State) (r : Req) (device : Nat) : State × Req :=
  match (if device = s.device.toNat then none else (r.ctx.bind s.ctx?).bind fun c => windowFor c.windows device) with
  | none => (s, r)
  | some w =>
    let s := s.countWindow r.ctx (some w) fun p => { p with issued := p.issued + 1 }
    let s := match r.src.hart? with
      | some h =>
        let v := s.hart h
        s.setHart h { v with windowsUsed := if v.windowsUsed.contains w then v.windowsUsed else w :: v.windowsUsed }
      | none => s
    (s, { r with windows := w :: r.windows })

/-- In counter mode a tracked request counts in the put windows of its context for the devices of its data and of its arrival (R262),
once. -/
def State.putWindow (s : State) (r : Req) (device : Nat) : State × Req :=
  if s.linkMode = 0 ∨ !r.tracked ∨ !r.windows.isEmpty then (s, r)
  else
    let (s, r) := s.countIn r device
    match s.arrivalDevice r with
    | some d => if d = device then (s, r) else s.countIn r d
    | none => (s, r)

/-- What a core knows of old routes for a region goes once the accesses by them have completed and none is held (R91). -/
def State.settleRoute (s : State) (r : Req) : State :=
  let c := s.core r.core
  let gone (x : BitVec 16 × BitVec 36 × List Nat) : Bool :=
    x.1 == r.asid && x.2.1 == regionOf r.addr.toNat && (s.outstanding x.2.2).isEmpty
      && !s.reqs.any fun q => q.ni && q.core == r.core && q.stage == .queued && q.asid == x.1 && isVirtual q.addr
        && regionOf q.addr.toNat == x.2.1
  if r.ni && c.rerouted.any gone then s.setCore r.core { c with rerouted := c.rerouted.filter fun x => !gone x } else s

/-- Whether an NI may send now: its retry buffer has room, and it holds back no fault (R265, R373). -/
def State.maySend (s : State) (r : Req) : Bool :=
  !r.ni || (decide (s.retriesOf r.core < 32) && !s.sourceHolds r.core 2 none)

/-- A request leaves by its way; one for another device crosses the mesh to a port, and not a die whose clock is halted (R311, R317). -/
def State.depart (s : State) (r : Req) : State :=
  match s.wayOf r with
  | .unknown => s
  | .fault code => s.answer r (walkAnswer code r.addr)
  | .go device die =>
    if s.routeHeld r ∨ !s.portOpen (dieOf r.core) r.core device then s
    else match s.number r with
      | none => s
      | some (s, r) =>
        let (s, r) := s.putWindow r device
        ((s.useOwner r).launch { r with via := some (device, die.val) } device die).settleRoute r

/-- The arrival alone of a request whose data has performed, on its way to the device of its flag (R123). -/
def State.departArrival (s : State) (r : Req) : State :=
  match s.routeOf r with
  | some (device, die) =>
    if device = s.device.toNat ∨ !s.portOpen (Fin.ofNat 4 ((r.route.getD (0, 0)).2)) r.core device then s
    else
      let (s, r) := s.putWindow { r with stage := .sent } device
      s.launch r device die
  | none => s

/-- NI_REQUEST_SEND (R85, R91, R264, R311, R403). -/
def execNiRequestSend (s : State) : Host.Outcome State Fault Refusal :=
  s.atRequest fun n =>
    match s.req? n with
    | some r =>
      if r.stage = .queued ∧ r.kind = .access ∧ s.ready r ∧ s.maySend r then s.depart r
      else if r.stage = .performed ∧ r.op = .arrivalOnly then s.departArrival r
      else s
    | none => s

/-! ### Performing at the home (R117, R118, R123, R177) -/

/-- The lines of the coherent window among keys. -/
def windowLines (keys : List Nat) : List Nat := ((keys.filter fun k => decide (2 ^ 45 ≤ k)).map fun k => (k - 2 ^ 45) / 64).dedup

/-- Where a device write waits for back-invalidations of lines that the host caches, they are requested (R314); otherwise it
performs. -/
def State.backInvalidated (s : State) (r : Req) (keys : List Nat) (perform : State) : State :=
  let lines := (windowLines keys).filter s.hostLines.contains
  if lines.isEmpty then perform
  else
    let new := (lines.map fun l => (l, r.id)).filter fun x => !s.backInv.contains x
    { s with backInv := s.backInv ++ new }

/-- A request that has arrived at its home finds its bytes, or is answered for want of them; what a doorplate or a walk takes on
is left to their steps. -/
def State.atHome (s : State) (r : Req) (perform : List Nat → State) : State :=
  match s.locate r with
  | .keys k => perform k
  | .fault c => s.faultAt r c r.addr 0
  | .refused => s.refuse r
  | _ => s

/-- The capability that a request needs and this device lacks (R405). -/
def Req.lacks (r : Req) : Option Nat := r.capability.find? fun b => !bitOf ownCapability b

/-- The data of a request has performed: its counted flag arrival is next, or its answer (R123). -/
def State.dataPerformed (s : State) (r : Req) (answer : List Byte) : State :=
  match r.arrival with
  | .flag a => s.setReq { r with op := .arrivalOnly, addr := a, data := [], arrival := .none, stage := .performed }
  | _ => s.answer r (.done answer)

/-- The bytes of a request that perform together (R118, R259): an element of an add, or an aligned 8-byte word. -/
def Req.grain (r : Req) : Nat :=
  match r.op with
  | .addEach f | .reduceEach f _ => addWidth f
  | _ => 8

/-- The places, among the bytes of a request, of one word or element of them (R118, R259). -/
def Req.wordOf (r : Req) (k : Nat) : List Nat :=
  (List.range r.size).filter fun i => (r.addr.toNat + i) / r.grain == r.addr.toNat / r.grain + k

/-- Whether a place among the bytes of a request lies in a word that has performed before the others. -/
def Req.early (r : Req) (i : Nat) : Bool := r.parts.any fun p => (r.wordOf p.1).contains i

/-- The bytes that a write stores at some of its places, by their keys. -/
def Req.cellsAt (r : Req) (keys : List Nat) (at_ : Nat → Bool) : List (Nat × Byte) :=
  let mask (i : Nat) : Bool := match r.op with
    | .writeMasked m => m.getLsbD i
    | _ => true
  ((keys.zip r.data).zipIdx.filter fun x => mask x.2 && at_ x.2).map (·.1)

/-- The bytes that a write stores, by their keys, but for the words that have performed. -/
def Req.cells (r : Req) (keys : List Nat) : List (Nat × Byte) := r.cellsAt keys fun i => !r.early i

/-- A write of a request's bytes at its home. -/
def State.storeReq (s : State) (r : Req) (keys : List Nat) : State :=
  let cores := s.spanCores r.core r.addr r.size
  (s.writeCells cores (r.cells keys)).recordHome cores

/-- Whether a request names a device register (R67). -/
def State.namesRegister (s : State) (r : Req) : Bool :=
  match s.place r.core r.addr with
  | some (.register _ _) => true
  | _ => false

/-- Whether a word or element of a request may perform by itself (R118, R259): the request has more bytes than a scalar access, so that it
is an engine's, and the word has not performed. DEDUCED (log 90). -/
def Req.splits (r : Req) (k : Nat) : Bool :=
  decide (8 < r.size) && !(r.wordOf k).isEmpty && !r.parts.any fun p => p.1 == k

/-- One word of a request performs at its home: a write stores it, a read takes it (R118). DEDUCED (log 90). -/
def State.performWord (s : State) (r : Req) (data : List Byte) (keys : List Nat) (k : Nat) : State :=
  let at_ := r.wordOf k
  let cores := s.spanCores r.core r.addr r.size
  let s := s.recordHome cores
  if r.isWrite then
    State.setReq (s.writeCells cores ({ r with data := data }.cellsAt keys at_.contains)) { r with parts := (k, []) :: r.parts }
  else s.setReq { r with parts := (k, s.readKeys (at_.map fun i => keys.getD i 0)) :: r.parts }

/-- The bytes that a read takes, those of its early words as they were then. -/
def State.readReq (s : State) (r : Req) (keys : List Nat) : List Byte :=
  (s.readKeys keys).zipIdx.map fun (x, i) =>
    match r.parts.find? fun p => (r.wordOf p.1).contains i with
    | some (k, b) => b.getD ((r.wordOf k).idxOf i) x
    | none => x

/-- Whether a tracked request has not performed at a die (R403). -/
def State.unperformed (s : State) (r : Req) (die : DieId) : Bool :=
  match r.seq with
  | none => true
  | some q => match dedupCheck (s.die die).dedup (s.sourceDevice r) r.core q r.low s.refTime with
    | .perform _ => true
    | _ => false

/-- Whether a request is a read-modify-write at its home. -/
def Req.modifies (r : Req) : Bool :=
  match r.op with
  | .atomic _ _ _ _ | .sc _ _ | .addEach _ | .reduceEach _ _ => true
  | _ => false

/-- The step of one word of a request at its home (R118). -/
def State.wordStep (s : State) (r : Req) (k : Nat) (data : List Nat → List Byte) : State :=
  if !s.arrivedHere r ∨ !r.splits k ∨ s.namesRegister r ∨ !s.unperformed r r.die then s
  else s.atHome r fun keys =>
    if (!r.isWrite ∨ r.modifies) ∧ s.anyPoisoned keys then s else s.backInvalidated r keys (s.performWord r (data keys) keys k)

/-- What a step acts on: a request, and a word of it or the whole. -/
def State.actsOn (s : State) : Option (Req × Option Nat) :=
  match s.arg with
  | .request n => (s.req? n).map fun r => (r, none)
  | .requestWord n k => (s.req? n).map fun r => (r, some k)
  | _ => none

/-- REMOTE_STORE_PERFORM (R118, R123, R403): a write that carries no tile arrival, or a word of an engine's. -/
def execRemoteStorePerform (s : State) : Host.Outcome State Fault Refusal :=
  .next <| match s.actsOn with
    | none => s
    | some (r, k) =>
      let tile : Bool := match r.arrival with | .tile _ _ => true | _ => false
      let stores : Bool := match r.op with | .write | .writeMasked _ => true | _ => false
      if !stores ∨ tile then s
      else match k with
        | some k => s.wordStep r k fun _ => r.data
        | none =>
          if s.arrivedHere r ∧ !s.namesRegister r then
            s.atHome r fun keys => s.backInvalidated r keys <|
              s.deduped r r.die fun s => (s.storeReq r keys).dataPerformed r []
          else s

/-- An LR sets its hart's reservation at the home (R160), unless the hart has taken a trap or been saved since. -/
def State.reserve (s : State) (r : Req) (key : Nat) : State :=
  match r.src with
  | .hart h =>
    if (s.hart h).lr = some r.id then s.setHart h { s.hart h with resv := some ⟨key / 8 * 8, some r.addr⟩ } else s
  | .foreign d c h _ =>
    { s with foreignResv := (d, c, h, key / 8 * 8) :: s.foreignResv.filter fun f => !(f.1 == d && f.2.1 == c && f.2.2.1 == h) }
  | _ => s

/-- REMOTE_LOAD_PERFORM (R118, R160, R319, R377). -/
def execRemoteLoadPerform (s : State) : Host.Outcome State Fault Refusal :=
  .next <| match s.actsOn with
    | none => s
    | some (r, some k) => if r.isWrite ∨ r.kind ≠ .access then s else s.wordStep r k fun _ => []
    | some (r, none) =>
      if r.isWrite ∨ r.kind ≠ .access ∨ !s.arrivedHere r then s
      else match s.place r.core r.addr with
        | some (.register die off) =>
          (s.meets r r.die).answer r (.done (leBytes (s.readRegister (Fin.ofNat 4 die) off).toNat r.size))
        | _ => s.atHome r fun keys =>
          if s.anyPoisoned keys then s.faultAt r cHomeSoft r.addr 0
          else
            let data := s.readReq r keys
            let s := (s.meets r r.die).recordHome (s.spanCores r.core r.addr r.size)
            match r.op with
            | .lr _ => (s.reserve r (keys.headD 0)).answer r (.done data)
            | _ => s.answer r (.done data)

/-- Whether the hart of an SC holds a reservation on its granule (R160). -/
def State.holdsReservation (s : State) (r : Req) (key : Nat) : Bool :=
  match r.src with
  | .hart h => (match (s.hart h).resv with | some v => v.key == key / 8 * 8 && v.virt.isSome | none => false)
  | .foreign d c h _ => s.foreignResv.contains (d, c, h, key / 8 * 8)
  | _ => false

/-- An SC leaves no reservation of its hart. -/
def State.dropReservation (s : State) (r : Req) : State :=
  match r.src with
  | .hart h => s.setHart h { s.hart h with resv := none }
  | .foreign d c h _ => { s with foreignResv := s.foreignResv.filter fun f => !(f.1 == d && f.2.1 == c && f.2.2.1 == h) }
  | _ => s

/-- The read-modify-write of a request on its bytes (R118, R160, R177 to R179, R259). -/
def State.modify (s : State) (r : Req) (keys : List Nat) : State :=
  let old := s.readKeys keys
  let s := s.recordHome (s.spanCores r.core r.addr r.size)
  match r.op with
  | .atomic op dbl v e =>
    let w := if dbl then 8 else 4
    let new := atomicValue op (8 * w) (leNat old) (v.toNat % 2 ^ (8 * w)) (e.toNat % 2 ^ (8 * w))
    let s := if op = .cas ∧ leNat old ≠ e.toNat % 2 ^ (8 * w) then s
      else s.storeReq { r with data := leBytes new w } keys
    s.dataPerformed r old
  | .sc dbl v =>
    let w := if dbl then 8 else 4
    if s.holdsReservation r (keys.headD 0) then
      ((s.storeReq { r with data := leBytes v.toNat w } keys).dropReservation r).answer r (.done (leBytes 0 8))
    else (s.dropReservation r).answer r (.done (leBytes 1 8))
  | .addEach f => (s.storeReq { r with data := addBytes f old r.data } keys).dataPerformed r []
  | .reduceEach f op => (s.storeReq { r with data := reduceBytes f op old r.data } keys).dataPerformed r []
  | _ => s

/-- REMOTE_ATOMIC_PERFORM (R118, R160, R177 to R179, R259, R377, R403, R405): of a request, or of one word of an element add. -/
def execRemoteAtomicPerform (s : State) : Host.Outcome State Fault Refusal :=
  .next <| match s.actsOn with
    | none => s
    | some (r, k) =>
      let tile : Bool := match r.arrival with | .tile _ _ => true | _ => false
      if !r.modifies ∨ !s.arrivedHere r ∨ tile then s
      else match r.lacks, k, r.op with
        | some b, _, _ => s.faultAt r 0x30 r.addr (BitVec.ofNat 16 b)
        | none, some k, .addEach f =>
          s.wordStep r k fun keys => addBytes f (s.readKeys keys) r.data
        | none, some k, .reduceEach f op =>
          s.wordStep r k fun keys => reduceBytes f op (s.readKeys keys) r.data
        | none, some _, _ => s
        | none, none, _ => s.atHome r fun keys =>
          if s.anyPoisoned keys then s.faultAt r cHomeSoft r.addr 0
          else s.backInvalidated r keys <| s.deduped r r.die fun s => s.modify r keys

/-! ### Arrivals (R73 to R79, R123) -/

/-- A counted flag arrival at a word, by its key (R76), and where the word is SWAPPED at a core the flag-wake of R79. -/
def State.countFlag (s : State) (key : Nat) (core : Option (Nat × Nat)) : State :=
  let w := leNat (Memory.readBytes s.mem key 8)
  let w' := w / 2 ^ 48 * 2 ^ 48 + (w % 2 ^ 48 + 1) % 2 ^ 48
  let s := s.writeAt key (leBytes w' 8)
  match core with
  | some (c, off) =>
    let v := s.core c
    let s := if w.testBit 63 then
        s.setCore c { v with fwLastOff := BitVec.ofNat 18 off, fwCount := satInc16 v.fwCount, fwPend := true }
      else s
    s.evalWatch c
  | none => s

/-- The flag word of an arrival at this device: its key and, in a scratchpad, its core and offset. -/
def State.flagHome (s : State) (r : Req) : Located ⊕ (Nat × Option (Nat × Nat)) :=
  match s.place r.core r.addr with
  | some (.spad c off 0) =>
    (match s.coreStub r c, s.coreRefuses r c with
     | some (_, t), _ => .inl (.forward s.device.toNat (dieOf (t.request.getD 0)) true)
     | none, some code => .inl (.fault code)
     | none, none => if s.vacating c then .inl .refused else .inr (spadKey c off, some (c, off)))
  | some (.window off) => .inr (windowKey off, none)
  | _ => .inl (.fault cUnbacked)

/-- FLAG_ARRIVAL (R75, R76, R79, R121, R123): of a request whose data has performed, or of one that has none; a core applies one
a die cycle, after the slot of its hart and before non-local accesses. -/
def execFlagArrival (s : State) : Host.Outcome State Fault Refusal :=
  s.atRequest fun n =>
    match s.req? n with
    | some r =>
      let tile : Bool := match r.arrival with | .tile _ _ => true | _ => false
      let here : Bool := match s.routeOf r with | some (d, _) => d == s.device.toNat | none => false
      let fresh := s.arrivedHere r
      if r.op ≠ .arrivalOnly ∨ r.kind ≠ .access ∨ tile ∨ !(fresh || (r.stage == .performed && here)) then s
      else match s.flagHome r with
        | .inl (.fault code) => if fresh then s.faultAt r code r.addr 0 else s.answer r (.faulted code r.addr 0)
        | .inl .refused => if fresh then s.refuse r else s
        | .inl _ => s
        | .inr (key, core) =>
          let now := match core with | some (c, _) => s.coreCycle c | none => 0
          let busy := match core with | some (c, _) => decide (now < (s.core c).nextFlag) || !s.coreTurn c | none => false
          if busy then s
          else if s.anyPoisoned [key] then
            if fresh then s.faultAt r cHomeSoft r.addr 0 else s.answer r (.faulted cHomeSoft r.addr 0)
          else s.backInvalidated r [key] <|
            let count (s : State) : State :=
              let s := match core with
                | some (c, _) => s.setCore c { s.core c with nextFlag := now + 1 }
                | none => s
              (s.countFlag key core).answer r (.done [])
            if fresh then s.deduped r r.die count else count s
    | none => s

/-- The arrival of a tile (R73): the entry after it, or none where it is refused, and TILEREADY at a READY one. -/
def Tile.arrive (t : Tile) : Option Tile ⊕ Unit :=
  match t.st with
  | .filling =>
    if t.arrived.toNat + 1 < t.expect.toNat then .inl (some { t with arrived := t.arrived + 1 })
    else .inl (some { t with arrived := t.expect, st := .ready, gen := t.gen + 1 })
  | .ready => .inr ()
  | _ => .inl none

/-- Other requests for a tile, words of whose data have performed: an arrival of each is still to come. -/
def State.startedAt (s : State) (r : Req) (core : Nat) (i : BitVec 6) : Nat :=
  (s.reqs.filter fun q => q.id != r.id && !q.parts.isEmpty && (match q.arrival, s.place q.core q.addr with
    | .tile _ j, some (.spad c _ _) => c == core && j == i
    | _, _ => false)).length

/-- Whether a tile has an arrival left for a request beside those for which data has begun to perform. DEDUCED (log 90). -/
def State.tileRoom (s : State) (r : Req) (core : Nat) (i : BitVec 6) : Bool :=
  let t := (s.core core).tile i.toNat
  !r.parts.isEmpty || t.st != .filling || decide (t.arrived.toNat + s.startedAt r core i < t.expect.toNat)

/-- The data that a tile-tagged request stores. -/
def State.tileData (s : State) (r : Req) (keys : List Nat) : List Byte :=
  match r.op with
  | .addEach f => addBytes f (s.readKeys keys) r.data
  | _ => r.data

/-- TILE_ARRIVAL (R73 to R75, R118, R123, R405): the state of the tile decides, then the data performs, a word of it at a time or the
whole, and the arrival counts. -/
def execTileArrival (s : State) : Host.Outcome State Fault Refusal :=
  .next <| match s.actsOn with
    | none => s
    | some (r, k) => match r.arrival, s.arrivedHere r, s.place r.core r.addr with
      | .tile _ i, true, some (.spad c _ _) =>
        (match r.lacks with
         | some b => s.faultAt r 0x30 r.addr (BitVec.ofNat 16 b)
         | none => s.atHome r fun keys =>
           match ((s.core c).tile i.toNat).arrive with
           | .inr _ => s.faultAt r 0x34 r.addr 0
           | .inl none => s.refuse r
           | .inl (some t) =>
             if !s.coreTurn c ∨ !s.tileRoom r c i then s
             else if r.modifies ∧ s.anyPoisoned keys then s.faultAt r cHomeSoft r.addr 0
             else match k with
               | some k => s.wordStep r k fun keys => s.tileData r keys
               | none =>
                 if s.coreCycle c < (s.core c).nextTile then s
                 else s.deduped r r.die fun s =>
                   let s := s.writeCells (s.spanCores r.core r.addr r.size) ({ r with data := s.tileData r keys }.cells keys)
                   (s.setCore c { (s.core c).setTile i.toNat t with nextTile := s.coreCycle c + 1 }).answer r (.done []))
      | .tile _ _, true, _ => s.faultAt r cUnbacked r.addr 0
      | _, _, _ => s

/-! ### Answers (R120, R231, R260, R265, R366, R367) -/

/-- A write completes, or its arrival at this device is what is left of it (R120, R123). -/
def State.completeWrite (s : State) (r : Req) : State :=
  if s.homeArrival r && r.op != .arrivalOnly then s.dataPerformed r [] else s.finishReq r

/-- Whether a request's value fills nothing as it returns: an acknowledgement alone completes it. -/
def Req.acknowledged (r : Req) : Bool :=
  r.isWrite && (match r.dest with | .none | .qreg _ => true | _ => false)

/-- A step on a request whose answer has come to its NI, of another source than another device. -/
def State.atAnswer (s : State) (f : Req → State) : Host.Outcome State Fault Refusal :=
  s.atRequest fun n =>
    match s.req? n with
    | some r => match r.src with
      | .foreign _ _ _ _ => s
      | _ => if s.answerHere r then f r else s
    | none => s

/-- ACKNOWLEDGEMENT_ARRIVAL (R120, R123). -/
def execAcknowledgementArrival (s : State) : Host.Outcome State Fault Refusal :=
  s.atAnswer fun r => match r.stage with
    | .answered (.done _) => if r.acknowledged then s.completeWrite r else s
    | _ => s

/-- Requests of an `ni.get` trigger that read lines. -/
def State.linesOf (s : State) (h : HartRef) (seq : BitVec 8) : List Req :=
  (s.ofTrigger h .ni seq).filter fun r => match r.dest with | .lines _ _ _ => true | _ => false

/-- The bytes of a line that has returned. -/
def Req.line (r : Req) : List Byte :=
  match r.stage with
  | .answered (.done d) => d
  | _ => []

/-- The bytes that a returned line stores in the scratchpad of its core, by their keys, but for some places. -/
def Req.lineCells (r : Req) (but : Nat → Bool) : List (Nat × Byte) :=
  match r.dest with
  | .lines off _ _ => (r.line.zipIdx.filter fun x => !but x.2).map fun x => (spadKey r.core (off + x.2), x.1)
  | _ => []

/-- Whether the lines of an `ni.get` have all returned, and what its writes follow has completed (R127), at the turn of its core. -/
def State.linesReturned (s : State) (rs : List Req) (after : List Nat) (core : Nat) : Bool :=
  rs.all (fun q => match q.stage with | .answered (.done _) => true | _ => false) && (s.outstanding after).isEmpty && s.coreTurn core

/-- The lines of an `ni.get` go to the local scratchpad (R260): by engine accesses of the core, a flag arrival after them, or with a
tile arrival in one local request that the state of the tile decides. -/
def State.getLines (s : State) (h : HartRef) (seq fn : BitVec 8) (arrival : Arrival) (after : List Nat) : State :=
  let rs := s.linesOf h seq
  if !s.linesReturned rs after h.core then s
  else
    let data := rs.flatMap Req.line
    let first := rs.foldl (fun m q => match q.dest with | .lines o _ _ => min m o | _ => m) 0x40000
    let s := { s with reqs := s.reqs.filter fun q => !rs.any (fun x => x.id == q.id) }
    let r := { s.hartReq h with src := .engine h .ni seq fn, addr := s.absolute h.core (BitVec.ofNat 64 (2 ^ 63 + first)) }
    match arrival with
    | .tile _ i => s.addReq { r with op := .write, data := data, arrival := .tile (BitVec.ofNat 64 (2 ^ 63 + first)) i }
    | a =>
      let s := rs.foldl (fun (s : State) (q : Req) => s.writeCells [h.core] (q.lineCells (q.early ·))) s
      match a with
      | .flag f => s.addReq { r with addr := f, op := .arrivalOnly }
      | _ => s.setHart h ((s.hart h).fillResult .ni seq 0)

/-- One word of a line of an `ni.get` without a tile arrival is written to the local scratchpad before the others (R118, R260). DEDUCED
(log 90). -/
def State.getWord (s : State) (r : Req) (k : Nat) : State :=
  match r.dest, r.src with
  | .lines _ (.tile _ _) _, _ => s
  | .lines _ _ after, .engine h _ seq _ =>
    if !s.linesReturned (s.linesOf h seq) after h.core ∨ !r.splits k then s
    else (s.writeCells [h.core] (r.lineCells fun i => !(r.wordOf k).contains i)).setReq { r with parts := (k, []) :: r.parts }
  | _, _ => s

/-- The bytes of a copy transfer have returned: it writes them, or words of them first, once the command may write (R118, R253, R254).
Those of a command after one that has faulted are dropped (R365). -/
def State.fillCopied (s : State) (r : Req) (row first : Nat) (words : Option Nat) (data : List Byte) : State :=
  match r.src with
  | .copyList core seq h n => match (s.listOf core h seq).bind fun l => (l.cmds.find? fun c => c.n == n).map fun c => (l, c) with
    | none => s.finishReq r
    | some (l, c) =>
      let t := s.transferAt core c row first
      if !s.commandWritesOk core l c ∨ (if engineLocal t.dst then !s.coreTurn core else s.niFull core || s.slotPending core) then s
      else
        let (b, ev) := copyEncode l.t.winCtx t data
        let (s, c) := (s.triggerEvents l.t ev).writeTransfer core l { c with open_ := c.open_.filter (· != r.id) } t.dst words b
        (s.setList core (l.setCommand c)).finishReq r
  | _ => s

/-- The bytes of a list's next command have returned (R250). -/
def State.fillCommand (s : State) (r : Req) (data : List Byte) : State :=
  match r.src with
  | .copyList core seq h _ => match s.listOf core h seq with
    | some l => State.finishReq (s.setList core { l with reading := none, word := some (BitVec.ofNat 512 (leNat data)) }) r
    | none => s.finishReq r
  | _ => s

/-- A gathered acquire or fence completes: its destination fills with 0 and nothing waits for it any longer (R124, R128). -/
def State.completeAcquire (s : State) (r : Req) : State := (s.fillDest r []).dropReq r.id

/-- Whether a fill of a request waits until the image of its hart is complete (R231). -/
def State.fillWaits (s : State) (r : Req) : Bool :=
  match r.src, r.image with
  | .hart h, none => (s.hart h).holdsFills
  | _, _ => false

/-- SPLIT_PHASE_FILL (R118, R120, R124, R231, R260): of a request, or of a word of what it writes locally. -/
def execSplitPhaseFill (s : State) : Host.Outcome State Fault Refusal :=
  match s.arg with
  | .requestWord n k => .next (match s.req? n with
    | some r => match r.stage, r.dest with
      | .answered (.done data), .copied row first => if s.answerHere r then s.fillCopied r row first (some k) data else s
      | _, _ => if s.answerHere r then s.getWord r k else s
    | none => s)
  | _ => s.atAnswer fun r =>
    if s.fillWaits r then s
    else match r.kind, r.stage, r.dest, r.src with
      | .acquire, _, _, _ | .gather _, _, _, _ | .implied, _, _, _ => if !r.waits.contains r.id ∧ s.ready r then s.completeAcquire r else s
      | .access, .answered (.done _), .lines _ arrival after, .engine h _ seq fn => s.getLines h seq fn arrival after
      | .access, .answered (.done data), .copied row first, _ => s.fillCopied r row first none data
      | .access, .answered (.done data), .command, _ => s.fillCommand r data
      | .access, .answered (.done data), _, _ => if r.acknowledged then s else (s.fillDest r data).finishReq r
      | _, _, _, _ => s

/-- Back-off before retry n, in die cycles (R265). -/
def backOff (n : Nat) : Nat := min (64 * 2 ^ (n - 1)) 8192

/-- Stream code of a fault of an access for an instruction, with the SOURCE of its record (R369, R371, R397): built-in steps
are SEXPAND, Cellar parts SCELLAR, and the sequencer's own reads SMEMORY. -/
def streamCode (i : Option Instr) : BitVec 8 × Nat :=
  match i with
  | some (.smm _) | some (.sew _) | some (.sred _) | some (.sxpose _) | some (.sload _) | some (.sfill _) | some (.sget _)
    => (0x53, 5)
  | some (.scvt _) | some (.sgather _) | some (.sscatter _) | some (.sreduce _) => (0x54, 6)
  | _ => (0x55, 4)

/-- A fault of an access for a stream: a window entry is marked, and a drain entry's record marks nothing (R369, R397). -/
def State.streamAccessFault (s : State) (i : SlotId) (n : Nat) (code : BitVec 8) (addr : Word) : State :=
  let v := s.slot i
  match v.entry? n with
  | some e =>
    let (c, source) := streamCode e.instr
    s.markEntry i e c source addr (code.zeroExtend 16) (s.agentWord v.lead)
  | none => match v.drain.find? (fun d => d.e.n == n) with
    | some d => s.drainRecord i d.e code addr
    | none => s

/-- A fault of a request of a trigger of NI ends the trigger as it is found (R365, R366): what is left of an `ni.get` goes with it. -/
def State.faultNi (s : State) (r : Req) (h : HartRef) (seq fn : BitVec 8) (code : BitVec 8) (addr : Word) (detail : BitVec 16)
    (source : Nat) : State :=
  if ((s.hart h).flight? .ni seq).isNone then s.finishReq r
  else
  let lines := (s.linesOf h seq).map (·.id)
  let s := s.faultTrigger h .ni seq fn code source addr detail
  State.finishReq { s with reqs := s.reqs.filter fun q => q.id == r.id || !lines.contains q.id } r

/-- A fault of a request of a copy list ends the list as it is found (R365). -/
def State.faultCopy (s : State) (r : Req) (core : Nat) (seq : BitVec 8) (h : HartRef) (n : Nat) (code : BitVec 8) (addr : Word)
    (detail : BitVec 16) (source : Nat) : State :=
  match (s.core core).lists.find? fun l => l.t.h == h && l.t.seq == seq with
  | none => s.finishReq r
  | some l =>
    let kind := match l.cmds.find? fun c => c.n == n with | some c => c.kind | none => 0
    (s.faultList core seq h code source kind addr detail).finishReq r

/-- A request ends by a fault (R365, R366, R389): a trigger ends as it is found, and every other request is settled as its record is
written. No fetch fault becomes pending: its hart takes it in its slot (R361, R362). -/
def State.faultReq (s : State) (r : Req) (code : BitVec 8) (addr : Word) (detail : BitVec 16) (source : Nat) : State :=
  match r.dest, r.src with
  | .fetch _, .hart h =>
    if (s.hart h).fetching = some r.id then s.setReq { r with stage := .answered (.faulted code addr detail) } else s.finishReq r
  | .staged a _, _ => State.finishReq { s with staged := s.staged ++ [(r.src, a, .inr code)] } r
  | _, .stream i n => (s.streamAccessFault i n code addr).finishReq r
  | _, .part _ => State.finishReq { s with staged := s.staged ++ [(r.src, addr, .inr code)] } r
  | _, .host =>
    let s := { s with hostRead := if r.isWrite then s.hostRead else List.replicate r.size 0xFF }
    (s.raise 0 (s.agentRecord 0 code 8 0 (r.ctx.getD 0) r.asid addr detail)).finishReq r
  | _, .engine h .ni seq fn => s.faultNi r h seq fn code addr detail source
  | _, .copyList core seq h n => s.faultCopy r core seq h n code addr detail source
  | _, _ => s.recordFault r code addr detail source

/-- Whether every earlier command of a list has completed, so that a fault of one of its requests is reported (R365). -/
def State.earlierDone (s : State) (r : Req) : Bool :=
  match r.src with
  | .copyList core seq h n =>
    (match s.listOf core h seq with | some l => !l.cmds.any (fun c => decide (c.n < n)) | none => true)
  | _ => true

/-- NEGATIVE_ACKNOWLEDGEMENT (R260, R265, R389): its back-off starts as the retry buffer has an entry free. DESIGN CHOICE (log 111). -/
def execNegativeAcknowledgement (s : State) : Host.Outcome State Fault Refusal :=
  s.atAnswer fun r => match r.stage with
    | .answered .refused =>
      if 16 ≤ r.retries then
        (if s.earlierDone r then s.faultReq r 0x31 (match r.op with | .message t _ => t | _ => r.addr) 16 2 else s)
      else if r.ni ∧ 32 ≤ s.retriesOf r.core then s
      else s.setReq { r with stage := .retry (s.coreCycle r.core + backOff (r.retries + 1)), retries := r.retries + 1 }
    | _ => s

/-- RETRY_SEND (R265). -/
def execRetrySend (s : State) : Host.Outcome State Fault Refusal :=
  s.atRequest fun n =>
    match s.req? n with
    | some r => match r.stage with
      | .retry due =>
        if due ≤ s.coreCycle r.core ∧ !(s.die (dieOf r.core)).halted then
          match s.wayOf r, r.route with
          | .go device die, _ =>
            if !s.portOpen (dieOf r.core) r.core device then s
            else (s.useOwner r).launch { r with low := s.lowOf r, via := some (device, die.val) } device die
          | .fault code, _ => s.answer r (walkAnswer code r.addr)
          | .unknown, some (device, die) =>
            if !s.portOpen (dieOf r.core) r.core device then s else s.launch r device (Fin.ofNat 4 die)
          | .unknown, none => s
        else s
      | _ => s
    | none => s

/-- Whether a code is that of a translation fault (R360). -/
def isTranslation (code : BitVec 8) : Bool := code.toNat / 16 == 4

/-- A translation fault that an upcall will deliver: its request stays FAULTED in the retry buffer, and a hart that finds every
reservation held becomes HELD (R367, R374). -/
def State.waitUpcall (s : State) (r : Req) (h : HartRef) (code : BitVec 8) (addr : Word) : State :=
  let v := s.hart h
  let s := (s.setReq { r with stage := .faulted code addr }).setHart h { v with upcalls := v.upcalls ++ [⟨code, addr, r.id⟩] }
  if s.upcallHeld h then s.hold h else s

/-- A waiting fault that finds xupvec.BASE 0 as its upcall is due becomes pending with a record (R367). -/
def State.loseUpcall (s : State) (r : Req) (h : HartRef) (code : BitVec 8) (addr : Word) : State :=
  match s.upcallLost h with
  | some u =>
    if u.id ≠ r.id then s
    else
      let v := s.hart h
      (s.setHart h { v with upcalls := v.upcalls.drop 1 }).recordFault r code addr 0 3
  | none => s

/-- REMOTE_FAULT_ARRIVAL (R365 to R367, R382, R389, R397). -/
def execRemoteFaultArrival (s : State) : Host.Outcome State Fault Refusal :=
  s.atAnswer fun r => match r.stage, r.src.hart? with
    | .answered a, h => (match answerFault a, r.dest, h with
      | some _, .fetch _, some h => if (s.hart h).fetching = some r.id then s else s.finishReq r
      | some (code, addr, detail, source), _, some h =>
        let v := s.hart h
        if !s.earlierDone r then s
        else if isTranslation code ∧ r.user ∧ v.csr.upvec ≠ 0 ∧ v.st ≠ .off then s.waitUpcall r h code addr
        else s.faultReq r code addr detail source
      | some (code, addr, detail, _), _, none => s.faultReq r code addr detail 2
      | none, _, _ => s)
    | .faulted code addr, some h => s.loseUpcall r h code addr
    | _, _ => s

/-! ### Releases (R125, R262, R312) -/

/-- The other devices to which a release still waits for writes that have been sent (R312). -/
def State.markerDevices (s : State) (r : Req) : List Nat :=
  ((s.reqs.filter fun q => r.waits.contains q.id).filterMap fun q =>
    match q.route with
    | some (d, _) => if d ≠ s.device.toNat ∧ q.tracked then some d else none
    | none => none).dedup

/-- A release sends its flush markers, one down each live path to each device (R312, R404). -/
def State.sendMarkers (s : State) (r : Req) : State :=
  let s := s.setReq { r with hops := 1, sentAt := s.time, sentNo := s.sends }
  (s.markerDevices r).foldl (fun (s : State) (d : Nat) =>
    let ps := s.livePaths d
    ps.foldl (fun (s : State) (p : Nat) => s.toFabric (dieOf r.core) d (.flushMarker s.device.toNat r.core r.id p ps.length)) s) s

/-- Whether the triggers that a release follows owe nothing more within its scope. -/
def State.triggersOf (s : State) (r : Req) : Bool :=
  match r.src.hart? with
  | some h => r.after.all fun q => !s.triggerOwes h r.kind q
  | none => true

/-- OP and fields of an entry. -/
def Entry.op (e : Entry) : BitVec 8 := e.word.extractLsb' 0 8
def Entry.fields (e : Entry) : SFields := streamFields e.word

/-- The writes of older instructions that a domain-scope release of a stream waits for (R131): of `REL` or `SFENCE`. -/
def State.streamSet (s : State) (i : SlotId) (n : Nat) : List Req :=
  let v := s.slot i
  let fence (e : Entry) : Bool := match e.instr with | some (.sfence _) => true | _ => false
  let domain (e : Entry) : Bool := e.n == n && e.fields.scope == 3 && (e.fields.rel != 0 || fence e)
  if !(v.window.any domain || v.drain.any fun d => domain d.e) then []
  else s.reqs.filter fun r => r.kind == .access && r.isWrite && (match r.src with
    | .stream j m => j == i && decide (m < n)
    | _ => false)

/-- A domain-scope release of a stream in flush-marker mode sends its markers once every access of its set has been sent (R312): for each
source of them one request waits for them. -/
def State.streamMarkers (s : State) (i : SlotId) (n : Nat) : State :=
  let set := s.streamSet i n
  let sent : Bool := s.reqs.any fun r => r.kind == .release 3 && r.src == .stream i n
  if s.linkMode ≠ 0 ∨ sent ∨ set.any (fun r => r.stage == .queued) then s
  else (set.map (·.core)).dedup.foldl (fun (s : State) (c : Nat) =>
    let r := { s.blankReq (.stream i n) c with
      id := s.nextId, kind := .release 3, waits := (set.filter fun q => q.core == c).map (·.id) }
    (s.addReq r).sendMarkers r) s

/-- RELEASE_PERFORM (R125, R262, R312): with its set complete a release performs; before that, a domain-scope one in
flush-marker mode, of a hart or of a stream, sends its markers once every access of its set has been sent. -/
def execReleasePerform (s : State) : Host.Outcome State Fault Refusal :=
  match s.arg with
  | .entry i n => .next (s.streamMarkers i n)
  | _ => s.atRequest fun n =>
    match s.req? n with
    | some r => match r.kind with
      | .release scope =>
        if s.ready r then
          let s := match scope, r.src with
            | 3#2, .hart h => s.setHart h { s.hart h with windowsUsed := [] }
            | _, _ => s
          s.completeAcquire r
        else if scope = 3 ∧ s.linkMode = 0 ∧ r.hops = 0 ∧ s.triggersOf r
          ∧ !s.reqs.any (fun q => r.waits.contains q.id && q.stage == .queued) then s.sendMarkers r
        else s
      | _ => s
    | none => s

end Sys2Proof.Machine
end

