-- ==== Sys2Proof/Machine/Ownership.lean ====
section
/-! DEFINITION. The steps of translation agents, owner caches and migration, and of the flush markers of other devices (R81 to
R92, R161, R187, R312, R377, R390 to R393, R434). -/

namespace Sys2Proof.Machine

/-! ### Owner caches and walks (R84, R85) -/

/-- OWNER_LOOKUP (R85): a request that waits for the owner of its region. -/
def execOwnerLookup (s : State) : Host.Outcome State Fault Refusal :=
  s.atRequest fun n =>
    match s.req? n with
    | some r =>
      if r.stage ≠ .queued ∨ r.kind ≠ .access ∨ !r.ni ∨ (s.routeOf r).isSome then s
      else match s.place r.core r.addr with
        | some (.virt va) =>
          if !r.mapped then s.answer r (.faulted cNotMapped r.addr 0)
          else match s.ownerFor r.core r.asid va with
            | (s, .inl c) => s.answer r (walkAnswer c r.addr)
            | (s, .inr _) => s
        | _ => s
    | none => s

/-- PAGE_WALK (R84, R390, R392): the home agent walks for a request whose translation misses; one that it does not own is sent
back with a redirect. -/
def execPageWalk (s : State) : Host.Outcome State Fault Refusal :=
  s.atRequest fun n =>
    match s.req? n with
    | some r => match s.arrivedHere r && r.namesMemory, s.place r.core r.addr, s.locate r with
      | true, some (.virt va), .walk =>
        (match s.agentLeaf r.die r.asid va r.need (clusterRow r.core) with
         | (s, .inl (.fault c)) => s.turnAway r (walkAnswer c r.addr)
         | (s, .inl (.away device die)) => s.answer r (.bounced device die.val r.parts)
         | (s, _) => s)
      | _, _, _ => s
    | none => s

/-- Whether an invalidation covers a translation (R84, R161). -/
def TlbEntry.covered (t : TlbEntry) (page : Option Word) (asid : Option (BitVec 16)) : Bool :=
  (match asid with
   | some a => t.asid == a && bits t.entry.toNat 7 1 == 0
   | none => true)
  && (match page with
      | some a => t.page == (if t.large then a.toNat % 2 ^ 57 / 2 ^ 21 else a.toNat % 2 ^ 57 / 2 ^ 16)
      | none => true)

/-- TLB_INVALIDATION (R84, R161). -/
def execTlbInvalidation (s : State) : Host.Outcome State Fault Refusal :=
  match s.arg with
  | .requestAt n d => match s.msg? n with
    | some (.invalidate h page asid dies) =>
      if dies.contains d ∧ s.routeOpen (s.msgDie n) d then
        let v := s.die d
        let s := s.setDie d { v with tlb := v.tlb.filter fun t => !t.covered page asid }
        let left := MsgBody.invalidate h page asid (dies.filter (· != d))
        .next { s with msgs := s.msgs.map fun (m : Msg) => if m.id = n then { m with body := left } else m }
      else .next s
    | _ => .next s
  | _ => .next s

/-- SFENCE_VMA_COMPLETE (R161): every agent has acknowledged, and what the hart's later accesses waited for is gone. -/
def execSfenceVmaComplete (s : State) : Host.Outcome State Fault Refusal :=
  s.atRequest fun n =>
    match s.msg? n with
    | some (.invalidate _ _ _ []) => s.dropMsg n
    | _ => s

/-! ### Migration (R86 to R92, R187) -/

/-- The key and value of the level-1 entry that a die's root entry reaches for a region, whatever its kind (R90). -/
def State.levelOne (s : State) (d : DieId) (asid : BitVec 16) (va : Nat) : Option (Nat × Nat) :=
  match rootFor (s.die d).roots asid with
  | none => none
  | some r => match walkEntry s va r.tdie.toNat r.taddr.toNat 3 with
    | .inl _ => none
    | .inr (e3, _) => match walkEntry s va (bits e3 (64 + 37) 2) (bits e3 64 37) 2 with
      | .inl _ => none
      | .inr (e2, _) =>
        let key := hbmKey (bits e2 (64 + 37) 2) (bits e2 64 37 + 16 * tableIndex 1 va)
        some (key, leNat (Memory.readBytes s.mem key 16))

/-- The leaf that a die's own tables give a chunk of a region, or none where it is not mapped. -/
def State.chunkLeaf (s : State) (d : DieId) (asid : BitVec 16) (va : Nat) : Option (Nat × Bool) :=
  match s.walk d false asid va with
  | .leaf e _ large => some (e, large)
  | _ => none

/-- The leaves of the chunks of a region. -/
def State.chunkLeaves (s : State) (d : DieId) (asid : BitVec 16) (region : BitVec 36) : List (Option (Nat × Bool)) :=
  (List.range 32).map fun i => s.chunkLeaf d asid (region.toNat * 2 ^ 21 + i * 65536)

/-- RD, WR, X, U and G of the lowest mapped chunk, and D where any chunk has it (R87). -/
def newPermissions (leaves : List (Option (Nat × Bool))) : BitVec 8 :=
  match leaves.findSome? id with
  | some (e, _) =>
    let dirty := leaves.any fun l => match l with | some (e, _) => bits e 6 1 == 1 | none => false
    BitVec.ofNat 8 (1 + bits e 1 4 * 2 + 32 + (if dirty then 64 else 0) + bits e 7 1 * 128)
  | none => 0

/-- The device that asks to own a region. -/
def State.newOwner (s : State) (r : Req) : Nat :=
  match r.src with
  | .foreign d _ _ _ => d
  | _ => s.device.toNat

/-- The old owner takes a request: it allocates a COPYING stub and tells the new owner to install its leaf (R87). -/
def State.startCopy (s : State) (r : Req) (desc : Word) (va stub : Nat) (leaves : List (Option (Nat × Bool))) : State :=
  let t : Stub := ⟨.copying, false, 0, regionOf va, r.asid, BitVec.ofNat 13 (s.newOwner r), desc.extractLsb' 21 2, 0, 0, 0, some r.id,
    false⟩
  let s := (s.setStub r.die stub t).setReq { r with stage := .performed }
  match r.src with
  | .foreign d _ _ tag => s.toFabric r.die d (.regionStart tag s.device.toNat r.die.val (newPermissions leaves))
  | _ => s

/-- OWN_REQUEST_ARRIVAL (R87, R88, R187, R390, R392, R393). -/
def execOwnRequestArrival (s : State) : Host.Outcome State Fault Refusal :=
  s.atRequest fun n =>
    match s.req? n with
    | some r => match r.op, s.arrivedHere r, s.place r.core r.addr with
      | .own desc, true, some (.virt va) =>
        (match stubFor (s.die r.die).stubs r.asid (regionOf va) with
         | some (_, t) => if t.st = .copying then s.refuse r else s
         | none =>
           if !r.mapped then s.faultAt r cNotMapped r.addr 0
           else match s.walk r.die true r.asid va with
             | .fault c => s.turnAway r (walkAnswer c r.addr)
             | .soft => s.turnAway r (walkAnswer cHomeSoft r.addr)
             | .remote device die => s.answer r (.bounced device die.val [])
             | .leaf _ _ _ => s
             | .home die =>
               if s.newOwner r = s.device.toNat then s.answer r (.done (leBytes 1 8))
               else if die ≠ r.die then s.answer r (.bounced s.device.toNat die.val [])
               else
                 let leaves := s.chunkLeaves r.die r.asid (regionOf va)
                 if leaves.all Option.isNone then s.faultAt r cNotMapped r.addr 0
                 else match s.freeStub r.die with
                   | none => s.refuse r
                   | some i => s.deduped r r.die fun s => s.startCopy r desc va i leaves)
      | _, _, _ => s
    | none => s

/-- A chunk of a region as the old owner copies it (R87, R377): its bytes, 0 where they are not mapped or their stack is not
attached, the offsets of its poisoned words, and whether a stack was not attached. -/
def State.copyChunk (s : State) (d : DieId) (asid : BitVec 16) (region : BitVec 36) (n : Nat) : List Byte × List Nat × Bool :=
  let va := region.toNat * 2 ^ 21 + n * 65536
  match s.chunkLeaf d asid va with
  | none => (List.replicate 65536 0, [], false)
  | some (e, large) =>
    let place (i : Nat) : Option Nat :=
      let (die, p) := leafPlace e large (va + i)
      if s.stackAttached die (channelOf e p) then some (hbmKey die p) else none
    let keys := (List.range 65536).map place
    let data := keys.map fun k => match k with | some k => Memory.read s.mem k | none => 0
    let bad := (List.range 8192).filter fun w => match place (8 * w) with | some k => s.poison.contains k | none => false
    (data, bad.map (8 * ·), keys.any Option.isNone)

/-- A level-1 entry of KIND 2 that names an owner (R82). -/
def remoteEntry (device : Nat) (die : Nat) : Nat := 1 + 2 * 2 ^ 8 + 2 ^ 64 * (device + 2 ^ 13 * die)

/-- Devices of the domain set of an address space on a die (R434). -/
def State.domainSet (s : State) (d : DieId) (asid : BitVec 16) : List Nat :=
  match rootFor (s.die d).roots asid with
  | some r => (List.range 4608).filter fun i => r.dset.getLsbD i
  | none => []

/-- Whether a byte of HBM, by its key, lies in the page of a leaf. -/
def leafHolds (leaf : Option (Nat × Bool)) (key : Nat) : Bool :=
  match leaf with
  | some (e, large) =>
    let base := bits e 64 21 * 65536
    let size := if large then 2 ^ 21 else 65536
    decide (base ≤ key % 2 ^ 40) && decide (key % 2 ^ 40 < base + size) && (leafPlace e large (key % 2 ^ 40 - base)).1 == key / 2 ^ 40
  | none => false

/-- Reservations within a region are lost: it has changed owner (R160). -/
def State.dropRegionReservations (s : State) (asid : BitVec 16) (region : BitVec 36) (leaves : List (Option (Nat × Bool))) : State :=
  { s with
    cores := s.cores.map fun (c, v) => (c, v.mapHarts fun h =>
      match h.resv with
      | some ⟨_, some a⟩ => if h.asid = asid ∧ regionOf a.toNat = region then { h with resv := none } else h
      | _ => h)
    foreignResv := s.foreignResv.filter fun f => !leaves.any fun (l : Option (Nat × Bool)) => leafHolds l f.2.2.2 }

/-- The last chunk is copied (R88): the old owner's level-1 entry names the new owner, the stub forwards, and the map update
goes to the domain set, to the new owner and to the old one. -/
def State.finishCopy (s : State) (d : DieId) (i : Nat) (t : Stub) : State :=
  let va := t.region.toNat * 2 ^ 21
  let own := s.device.toNat
  let leaves := s.chunkLeaves d t.asid t.region
  let s := match s.levelOne d t.asid va with
    | some (key, _) => s.writeAt key (leBytes (remoteEntry t.ndev.toNat t.ndie.toNat) 16)
    | none => s
  let v := s.die d
  let s := (s.setDie d { v with tlb := tlbDropRegion v.tlb t.asid t.region.toNat }).dropRegionReservations t.asid t.region leaves
  let targets := (t.ndev.toNat :: own :: s.domainSet d t.asid).dedup
  let s := s.setStub d i { t with
    st := .forwarding, copied := 0, acks := BitVec.ofNat 13 targets.length, lastFwd := BitVec.ofNat 36 (s.refTime / 1024),
    fwdAt := s.refTime, sending := false }
  let s := targets.foldl (fun (s : State) (x : Nat) =>
    if x = own then s.send d (.mapUpdate t.asid t.region t.ndev.toNat (Fin.ofNat 4 t.ndie.toNat) own d i)
    else s.toFabric d x (.mapUpdate t.asid t.region t.ndev.toNat t.ndie.toNat own d.val i)) s
  match t.request.bind s.req? with
  | some r => match r.src with
    | .foreign x _ _ tag => (s.dropReq r.id).toFabric d x (.regionGranted tag false)
    | _ => s.answer r (.done (leBytes 0 8))
  | none => s

/-- The new owner holds a chunk in full: it is copied (R87), and with the last one the region changes owner (R88). -/
def State.chunkCopied (s : State) (asid : BitVec 16) (region : BitVec 36) (n : Nat) : State :=
  let at_ := (List.finRange 4).findSome? fun (d : DieId) => (stubFor (s.die d).stubs asid region).map fun x => (d, x)
  match at_ with
  | some (d, i, t) =>
    if t.st ≠ .copying ∨ !t.sending ∨ t.copied.toNat ≠ n then s
    else if n = 31 then s.finishCopy d i t
    else s.setStub d i { t with copied := t.copied + 1, sending := false }
  | none => s

/-- CHUNK_COPY (R87, R377): the next chunk goes to the new owner. -/
def execChunkCopy (s : State) : Host.Outcome State Fault Refusal :=
  match s.arg with
  | .stub d i => match tableGet (s.die d).stubs i with
    | some t =>
      if t.st ≠ .copying ∨ t.sending ∨ (s.livePaths t.ndev.toNat).isEmpty ∨ (s.die d).halted then .next s
      else
        let n := t.copied.toNat
        let (data, bad, absent) := s.copyChunk d t.asid t.region n
        let va : Word := BitVec.ofNat 64 (t.region.toNat * 2 ^ 21 + n * 65536)
        let s := s.toFabric d t.ndev.toNat (.chunk t.asid t.region n data bad)
        let s := if absent then s.raise d (s.agentRecord d cUnbacked 3 0 0 t.asid va 0) else s
        let s := if bad.isEmpty then s else s.raise d (s.agentRecord d 0x63 10 0 0 t.asid va 0)
        .next (s.setStub d i { t with sending := true })
    | none => .next s
  | _ => .next s

/-- A redirect on its way to the NI that issued a request (R89). -/
def State.teach (s : State) (r : Req) (asid : BitVec 16) (region : BitVec 36) (device : Nat) (die : DieId) : State :=
  match r.src with
  | .foreign d _ _ _ => s.toFabric r.die d (.redirect asid region device die.val r.core)
  | _ => if r.ni then s.send r.die (.redirect r.core asid region device die) else s

/-- The doorplate of a region counts a forward. -/
def State.countForward (s : State) (d : DieId) (asid : BitVec 16) (region : BitVec 36) : State :=
  match stubFor (s.die d).stubs asid region with
  | some (i, t) => s.setStub d i { t with lastFwd := BitVec.ofNat 36 (s.refTime / 1024), fwdAt := s.refTime }
  | none => s

/-- The doorplate of a vacated core counts a forward to the core that its context moved to, and returns a redirect to the requester
(R92). -/
def State.countContext (s : State) (r : Req) (core i : Nat) (t : Stub) : State :=
  let s := s.setStub (dieOf core) i { t with lastFwd := BitVec.ofNat 36 (s.refTime / 1024), fwdAt := s.refTime }
  let die := dieOf (t.request.getD 0)
  match r.src with
  | .foreign d _ _ _ => s.toFabric (dieOf core) d (.contextRedirect r.core core s.device.toNat die.val)
  | _ => if r.ni then s.send (dieOf core) (.contextRedirect r.core core s.device.toNat die) else s

/-- A message for a vacated core goes on to the core that its context moved to (R92, R198). -/
def State.forwardMessage (s : State) (r : Req) (target value : Word) (core i : Nat) (t : Stub) : State :=
  let to_ := t.request.getD 0
  let word := BitVec.ofNat 64 (target.toNat % 128 + 2 ^ 7 * coreInCluster to_ + 2 ^ 11 * clusterOf to_ + 2 ^ 18 * (dieOf to_).val
    + field target 20 44 * 2 ^ 20)
  (s.countContext r core i t).setReq
    { r with op := .message word value, hops := r.hops + 1, route := some (s.device.toNat, (dieOf to_).val) }

/-- The scratchpad address of another core at the same offset and window. -/
def State.addressAt (s : State) (core off win : Nat) : Word :=
  BitVec.ofNat 64 (0xB * 2 ^ 60 + s.device.toNat * 2 ^ 34 + (dieOf core).val * 2 ^ 32 + clusterOf core * 2 ^ 25
    + coreInCluster core * 2 ^ 21 + win * 2 ^ 18 + off)

/-- An access, an arrival or a record for a vacated core goes on to the core that its context moved to (R198; log 57). -/
def State.forwardAccess (s : State) (r : Req) (core off win i : Nat) (t : Stub) : State :=
  let to_ := t.request.getD 0
  let addr := s.addressAt to_ off win
  let arrival := match r.arrival with
    | .tile a n => .tile (match s.place r.core a with
      | some (.spad c o w) => if c = core then s.addressAt to_ o w else a
      | _ => a) n
    | x => x
  (s.countContext r core i t).setReq
    { r with addr := addr, arrival := arrival, hops := r.hops + 1, route := some (s.device.toNat, (dieOf to_).val) }

/-- DOORPLATE_FORWARD (R87, R89, R92, R198, R392): a COPYING stub forwards no request for ownership, which it refuses (R88). -/
def execDoorplateForward (s : State) : Host.Outcome State Fault Refusal :=
  s.atRequest fun n =>
    match s.req? n with
    | some r =>
      if !s.arrivedHere r ∧ !(r.stage == .performed && r.op == .arrivalOnly) then s
      else match r.op, s.place r.core r.addr with
        | .message target value, _ =>
          (match s.coreStub r (wordCore target) with
           | some (i, t) => s.forwardMessage r target value (wordCore target) i t
           | none => s)
        | _, some (.spad c off win) =>
          (match s.coreStub r c, s.spanCores r.core r.addr r.size with
           | some (i, t), [_] => s.forwardAccess r c off win i t
           | _, _ => s)
        | _, some (.virt va) =>
          (match s.regionState r.die r.asid va with
           | some (.forward device die teach) =>
             let copying : Bool := match stubFor (s.die r.die).stubs r.asid (regionOf va) with
               | some (_, t) => t.st == .copying
               | none => false
             let own : Bool := match r.op with | .own _ => true | _ => false
             if copying ∧ own then s
             else if 3 ≤ r.hops then s.answer r (.bounced device die.val r.parts)
             else if !s.portOpen r.die r.core device then s
             else
               let s := if teach then
                   (s.countForward r.die r.asid (regionOf va)).teach r r.asid (regionOf va) device die
                 else s
               s.launch { r with hops := r.hops + 1 } device die
           | _ => s)
        | _, _ => s
    | none => s

/-- REDIRECT_ARRIVAL (R90, R91): that of a core-context doorplate names no region, and changes no owner cache. DEDUCED
(log 57). -/
def execRedirectArrival (s : State) : Host.Outcome State Fault Refusal :=
  s.atRequest fun n =>
    match s.msg? n with
    | some (.redirect core asid region device die) =>
      if s.routeOpen (s.msgDie n) (dieOf core) then (s.dropMsg n).learnOwner core ⟨asid, region, device, die⟩ else s
    | some (.contextRedirect core _ _ _) => if s.routeOpen (s.msgDie n) (dieOf core) then s.dropMsg n else s
    | _ => s

/-- BOUNCE_ARRIVAL (R89, R392): the NI learns the owner and sends the access again, which is no retry. -/
def execBounceArrival (s : State) : Host.Outcome State Fault Refusal :=
  s.atRequest fun n =>
    match s.req? n with
    | some r => match r.stage, r.src with
      | .answered (.bounced _ _ _), .foreign _ _ _ _ => s
      | .answered (.bounced device die parts), _ =>
        if r.ni then
          let s := s.setReq { r with stage := .queued, hops := 0, route := none, parts := parts }
          s.learnOwner r.core ⟨r.asid, regionOf r.addr.toNat, device, Fin.ofNat 4 die⟩
        else if s.portOpen (dieOf r.core) r.core device then s.launch { r with hops := 0, parts := parts } device (Fin.ofNat 4 die)
        else s
      | _, _ => s
    | none => s

/-- A core forgets the owner of a region (R90); accesses sent by the old route hold back new ones (R91). -/
def State.forgetOwner (s : State) (core : Nat) (asid : BitVec 16) (region : BitVec 36) (device : Nat) (die : DieId) : State :=
  let s := s.learnOwner core ⟨asid, region, device, die⟩
  let c := s.core core
  s.setCore core { c with owners := ownerDrop c.owners asid region }

/-- A die's agent acts on a map update (R90). -/
def State.updateMap (s : State) (d : DieId) (asid : BitVec 16) (region : BitVec 36) (device : Nat) (die : DieId) : State :=
  let s := match s.levelOne d asid (region.toNat * 2 ^ 21) with
    | some (key, e) =>
      let installed := e % 2 == 1 && device == s.device.toNat && bits e 8 2 == 1 && bits e 19 2 == die.val
      if installed then s else s.writeAt key (leBytes (remoteEntry device die.val) 16)
    | none => s
  let v := s.die d
  s.setDie d { v with tlb := tlbDropRegion v.tlb asid region.toNat, owners := ownerDrop v.owners asid region }

/-- MAP_UPDATE (R90). -/
def execMapUpdate (s : State) : Host.Outcome State Fault Refusal :=
  s.atRequest fun n =>
    match s.msg? n with
    | some (.mapUpdate asid region device die fromDevice fromDie fromStub) =>
      let dies := (List.finRange 4).filter fun d => decide (d.val < s.dieCount)
      let entry := s.msgDie n
      if !dies.all (s.routeOpen entry) then s
      else
      let s := s.dropMsg n
      let s := dies.foldl (fun (s : State) (d : DieId) => s.updateMap d asid region device die) s
      let caching := (s.cores.filter fun c => (ownerLookup c.2.owners asid region).isSome).map (·.1)
      let sending := (s.reqs.filter fun r => r.ni && r.via.isSome && r.asid == asid && isVirtual r.addr
        && regionOf r.addr.toNat == region).map (·.core)
      let holders := (caching ++ sending).dedup
      let s := holders.foldl (fun (s : State) (c : Nat) => s.forgetOwner c asid region device die) s
      if fromDevice = s.device.toNat then s.send entry (.mapUpdateAck fromDie fromStub)
      else s.toFabric entry fromDevice (.mapUpdateAck fromDie.val fromStub)
    | _ => s

/-- MAP_UPDATE_ACK (R92). -/
def execMapUpdateAck (s : State) : Host.Outcome State Fault Refusal :=
  s.atRequest fun n =>
    match s.msg? n with
    | some (.mapUpdateAck die stub) =>
      if !s.routeOpen (s.msgDie n) die then s
      else
      let s := s.dropMsg n
      (match tableGet (s.die die).stubs stub with
       | some t =>
         let acks := t.acks - 1
         if t.acks = 0 then s
         else s.setStub die stub { t with acks := acks, st := if acks = 0 ∧ t.st = .forwarding then .quiet else t.st }
       | none => s)
    | _ => s

/-- STUB_RECLAIM (R92): 100 µs from the tick of the latest forward. DESIGN CHOICE (log 95). -/
def execStubReclaim (s : State) : Host.Outcome State Fault Refusal :=
  match s.arg with
  | .stub d i => match tableGet (s.die d).stubs i with
    | some t =>
      if t.st = .quiet ∧ t.fwdAt + 100000 ≤ s.refTime then .next (s.setStub d i Stub.reset) else .next s
    | none => .next s
  | _ => .next s

/-! ### The new owner (R87) -/

/-- The leaf that the new owner installs (R82, R87): the descriptor's frame, home die and placement. -/
def newLeaf (desc : Word) (permissions : BitVec 8) : Nat :=
  permissions.toNat + 2 ^ 8 + field desc 23 2 * 2 ^ 10 + field desc 25 2 * 2 ^ 12 + field desc 27 5 * 2 ^ 14 + field desc 21 2 * 2 ^ 19
    + 2 ^ 64 * field desc 0 21

/-- A region of an address space on its way to this device, and the die it goes to. -/
def State.incomingOf (s : State) (asid : BitVec 16) (region : BitVec 36) : Option (DieId × Incoming) :=
  (List.finRange 4).findSome? fun (d : DieId) =>
    ((s.die d).incoming.find? fun i => i.asid == asid && i.region == region).map fun i => (d, i)

/-- Replaces what a die knows of an incoming region; one that has come in full and is installed leaves. -/
def State.setIncoming (s : State) (d : DieId) (i : Incoming) : State :=
  let v := s.die d
  let others := v.incoming.filter fun x => !(x.asid == i.asid && x.region == i.region)
  s.setDie d { v with incoming := if i.started && i.received == BitVec.allOnes 32 then others else i :: others }

/-- What is known of an incoming region as the first message of its copy arrives. -/
def State.newIncoming (s : State) (r : Req) (desc : Word) : DieId × Incoming :=
  let d : DieId := Fin.ofNat 4 (field desc 21 2)
  match s.incomingOf r.asid (regionOf r.addr.toNat) with
  | some x => x
  | none => (d, ⟨r.asid, regionOf r.addr.toNat, 0, 0, BitVec.ofNat 128 (newLeaf desc 0), false, 0⟩)

/-- The old owner has begun to copy: this device installs its leaf and takes chunks (R87). DEDUCED (log 53). -/
def State.receiveStart (s : State) (tag device : Nat) (die : DieId) (permissions : BitVec 8) : State :=
  match s.req? tag with
  | some r => match r.op with
    | .own desc =>
      let (d, i) := s.newIncoming r desc
      if i.started then s
      else
        let s := match s.levelOne d r.asid (i.region.toNat * 2 ^ 21) with
          | some (key, _) => s.writeAt key (leBytes (newLeaf desc permissions) 16)
          | none => s
        let v := s.die d
        let s := s.setDie d { v with tlb := tlbDropRegion v.tlb r.asid i.region.toNat }
        s.setIncoming d { i with device := device, die := die, started := true }
    | _ => s
  | none => s

/-- The request of this device to own a region. -/
def State.ownRequest (s : State) (asid : BitVec 16) (region : BitVec 36) : Option (Req × Word) :=
  s.reqs.findSome? fun r => match r.op, r.src with
    | _, .foreign _ _ _ _ => none
    | .own desc, _ => if r.asid = asid ∧ regionOf r.addr.toNat = region then some (r, desc) else none
    | _, _ => none

/-- A chunk of a region arrives at the new owner, which tells the old one that it holds it (R87, R377); it may come before the start of its copy. DEDUCED (log 79). -/
def State.receiveChunk (s : State) (source : Nat) (asid : BitVec 16) (region : BitVec 36) (n : Nat) (data : List Byte) (bad : List Nat) : State :=
  let known := match s.incomingOf asid region with
    | some x => some x
    | none => (s.ownRequest asid region).map fun (x : Req × Word) => s.newIncoming x.1 x.2
  match known with
  | none => s
  | some (d, i) =>
    let s := s.toFabric d source (.chunkHeld asid region n)
    if i.received.getLsbD n then s
    else
      let key (b : Nat) : Nat := let (x, p) := leafPlace i.leaf.toNat true (region.toNat * 2 ^ 21 + n * 65536 + b)
                                 hbmKey x p
      let s := s.writeKeys (data.zipIdx.map fun (b, k) => (key k, b))
      State.setIncoming { s with poison := s.poison ++ bad.map key } d { i with received := i.received ||| (1#32 <<< n) }

/-! ### Flush markers (R312, R404) -/

/-- FLUSH_MARKER (R312): a marker counts once every earlier write of its source has performed here, and the last one of a
release is answered with one collective completion. -/
def execFlushMarker (s : State) : Host.Outcome State Fault Refusal :=
  s.atRequest fun n =>
    match s.msg? n with
    | some (.flushMarker device core release path live) =>
      let pending := s.reqs.any fun r => match r.src with | .foreign d c _ _ => d == device && c == core && r.tracked | _ => false
      if pending ∨ (s.die (s.msgDie n)).halted then s
      else
        let entry := s.msgDie n
        let s := s.dropMsg n
        let m := (device, core, release, path)
        let s := { s with markers := if s.markers.contains m then s.markers else m :: s.markers }
        let got : List (Nat × Nat × Nat × Nat) := s.markers.filter fun x => x.1 == device && x.2.1 == core && x.2.2.1 == release
        if live ≤ got.length then
          State.toFabric { s with markers := s.markers.filter fun x => !got.contains x } entry device
            (.collectiveCompletion s.device.toNat core release)
        else s
    | _ => s

/-- COLLECTIVE_COMPLETION (R312): it completes every write of the source that was sent before the markers. -/
def execCollectiveCompletion (s : State) : Host.Outcome State Fault Refusal :=
  s.atRequest fun n =>
    match s.msg? n with
    | some (.collective device core release) =>
      if !s.routeOpen (s.msgDie n) (dieOf core) then s
      else
      let s := s.dropMsg n
      (match s.req? release with
       | some rel =>
         let covered := s.reqs.filter fun q =>
           q.core == core && q.tracked && q.acknowledged && q.stage == .sent && decide (q.sentNo < rel.sentNo)
             && (q.route.map (·.1) == some device)
         covered.foldl (fun (s : State) (q : Req) => s.completeWrite q) s
       | none => s)
    | _ => s

end Sys2Proof.Machine
end

