-- ==== Sys2Proof/Machine/StreamMemory.lean ====
section
/-! DEFINITION. The memory accesses of stream sequencers, macro-operation sequencers and Cellar engines (R117, R120, R276, R282,
R286, R289, R299, R397): bytes that this device holds are read and written where they lie, and every other access is a request. -/

namespace Sys2Proof.Machine

/-- Who accesses memory for a stream or for a part: the source of its requests, the core whose die they leave from, its
address space and its context, and whether its accesses travel through the NI of the core (R283, R299). -/
structure Reader where
  src : Source
  core : Nat
  asid : BitVec 16
  ctx : BitVec 8
  ni : Bool
  deriving DecidableEq, Repr

/-- A request of a reader. -/
def State.readerReq (s : State) (a : Reader) (addr : Word) (op : ReqOp) (data : List Byte) (dest : Dest) : Req :=
  { s.blankReq a.src a.core with
    ni := a.ni, asid := a.asid, ctx := some a.ctx, addr := addr, op := op, data := data, dest := dest
    route := some (s.device.toNat, (dieOf a.core).val) }

/-- Where an access of a reader finds its bytes. -/
inductive Near
  | keys (k : List Nat)
  /-- It goes out as a request: to another device, to a region that moves, to a core that is vacated, or to the window. -/
  | far
  | fault (code : BitVec 8)
  deriving DecidableEq, Repr

/-- Finds the bytes of an access that lies within one 64-byte line (R85, R91, R390): the owner cache of an NI, or the tables of the
die, name the owner of a region. DEDUCED (log 58). -/
def State.near (s : State) (a : Reader) (addr : Word) (n : Nat) (need : Need) : State × Near :=
  if s.absentDie addr then (s, .fault 0x26)
  else match s.place a.core addr with
  | some (.virt va) =>
    (match (if a.ni then s.ownerFor a.core a.asid va else (s, s.agentOwner (dieOf a.core) a.asid va)) with
     | (s, .inl c) => (s, .fault c)
     | (s, .inr (device, die)) =>
       if device ≠ s.device.toNat ∨ (s.regionState die a.asid va).isSome
         ∨ s.routeHeld (s.readerReq a addr (.read n) [] .none) ∨ !s.routeOpen (dieOf a.core) die then (s, .far)
       else match s.translateAt die a.asid va n need (clusterRow a.core) with
         | (s, .keys k) => (s, .keys k)
         | (s, .fault c) => (s, .fault c)
         | (s, .away _ _) => (s, .far))
  | some (.spad c _ _) =>
    if !s.routeOpen (dieOf a.core) (dieOf c) then (s, .far)
    else (match s.locate (s.readerReq a addr (if need.wr then .write else .read n) (List.replicate n 0) .none) with
     | .keys k => (s, .keys k)
     | .fault c => (s, .fault c)
     | _ => (s, .far))
  | some (.farSpad _ _ _ _) | some (.window _) => (s, .far)
  | _ => (s, .fault cUnbacked)

/-- A span cut at the ends of 64-byte lines. -/
def linePieces (a n : Nat) : Nat → List (Nat × Nat)
  | 0 => []
  | fuel + 1 =>
    if n = 0 then []
    else
      let k := min n (64 - a % 64)
      (a, k) :: linePieces (a + k) (n - k) fuel

/-- The pieces of a span. -/
def spanPieces (a : Word) (n : Nat) : List (Word × Nat) :=
  (linePieces a.toNat n (n / 64 + 2)).map fun (x, k) => (BitVec.ofNat 64 x, k)

/-! ### Reading -/

/-- What a read comes to. -/
inductive Pulled
  | ready (b : List Byte)
  /-- Requests are on their way. -/
  | waiting
  | fault (code : BitVec 8) (addr : Word)
  deriving DecidableEq, Repr

/-- One piece of a read; it waits for room in the outbound queue of its NI (R264). -/
def State.pullPiece (s : State) (a : Reader) (exec : Bool) (addr : Word) (n : Nat) : State × Pulled :=
  match s.staged.find? (fun x => x.1 == a.src && x.2.1 == addr
      && (match x.2.2 with | .inl b => b.length == n | .inr _ => true)) with
  | some (_, _, .inl b) => (s, .ready b)
  | some (_, _, .inr c) => (s, .fault c addr)
  | none => match s.near a addr n ⟨false, !exec, false, exec⟩ with
    | (s, .fault c) => (s, .fault c addr)
    | (s, .keys k) => if s.anyPoisoned k then (s, .fault cHomeSoft addr) else (s, .ready (s.readKeys k))
    | (s, .far) =>
      if s.reqs.any (fun r => r.src == a.src && r.dest == .staged addr exec && r.op == .read n)
        || (a.ni && s.niFull a.core) then (s, .waiting)
      else (s.addReq (s.readerReq a addr (.read n) [] (.staged addr exec)), .waiting)

/-- Reads pieces in order: every piece that must be asked for is, and the first fault ends the read. -/
def State.pullPieces (s : State) (a : Reader) (exec : Bool) : List (Word × Nat) → State × Pulled
  | [] => (s, .ready [])
  | (addr, n) :: rest =>
    match s.pullPiece a exec addr n with
    | (s, .fault c x) => (s, .fault c x)
    | (s, .waiting) => (match s.pullPieces a exec rest with
      | (s, .fault c x) => (s, .fault c x)
      | (s, _) => (s, .waiting))
    | (s, .ready b) => (match s.pullPieces a exec rest with
      | (s, .ready r) => (s, .ready (b ++ r))
      | x => x)

/-- What a read of several spans comes to. -/
inductive PulledAll
  | ready (b : List (List Byte))
  | waiting
  | fault (code : BitVec 8) (addr : Word)
  deriving DecidableEq, Repr

/-- What keeps an engine from a span of memory (R2, R65, R69): one that lies in no scratchpad as a whole is ENGADDR. -/
def State.spanFault (s : State) (a : Reader) (addr : Word) (n : Nat) : Option (BitVec 8 × Word) :=
  if n = 0 ∨ s.spanFits a.core addr n then none else some (0x26, addr)

/-- Reads spans. -/
def State.pullSpans (s : State) (a : Reader) : List (Word × Nat) → State × PulledAll
  | [] => (s, .ready [])
  | (addr, n) :: rest =>
    match s.spanFault a addr n with
    | some (c, x) => (s, .fault c x)
    | none => match s.pullPieces a false (spanPieces addr n) with
    | (s, .fault c x) => (s, .fault c x)
    | (s, .waiting) => (match s.pullSpans a rest with
      | (s, .fault c x) => (s, .fault c x)
      | (s, _) => (s, .waiting))
    | (s, .ready b) => (match s.pullSpans a rest with
      | (s, .ready r) => (s, .ready (b :: r))
      | x => x)

/-- What a reader has taken of other devices for spans is used up. -/
def State.dropSpans (s : State) (src : Source) (spans : List (Word × Nat)) : State :=
  let used : List Word := spans.flatMap fun x => (spanPieces x.1 x.2).map (·.1)
  { s with staged := s.staged.filter fun x => !(x.1 == src && used.contains x.2.1) }

/-- What a reader has taken of other devices is used up. -/
def State.dropStaged (s : State) (src : Source) : State := { s with staged := s.staged.filter fun x => x.1 != src }

/-- Reads a line for execution (R269). -/
def State.pullLine (s : State) (a : Reader) (addr : Word) : State × Pulled := s.pullPieces a true (spanPieces addr 64)

/-- Reads one span. -/
def State.pull (s : State) (a : Reader) (addr : Word) (n : Nat) : State × Pulled := s.pullPieces a false (spanPieces addr n)

/-! ### Writing -/

/-- Writes one piece: here, or by a request. The code of a fault is answered. -/
def State.pushPiece (s : State) (a : Reader) (addr : Word) (b : List Byte) : State × Option (BitVec 8 × Word) :=
  match s.near a addr b.length ⟨false, false, true, false⟩ with
  | (s, .fault c) => (s, some (c, addr))
  | (s, .keys k) => (s.writeCells (s.spanCores a.core addr b.length) (k.zip b), none)
  | (s, .far) => (s.addReq (s.readerReq a addr .write b .none), none)

/-- Writes pieces in order up to the first fault, or until the outbound queue of its NI is full (R264): what is left is answered. -/
def State.pushPieces (s : State) (a : Reader) :
    List (Word × List Byte) → State × List (Word × List Byte) × Option (BitVec 8 × Word)
  | [] => (s, [], none)
  | (addr, b) :: rest =>
    if a.ni && s.niFull a.core then (s, (addr, b) :: rest, none)
    else match s.pushPiece a addr b with
      | (s, some f) => (s, rest, some f)
      | (s, none) => s.pushPieces a rest

/-- The pieces of bytes that are written from an address. -/
def bytePieces (a : Nat) (b : List Byte) : Nat → List (Word × List Byte)
  | 0 => []
  | fuel + 1 =>
    if b.isEmpty then []
    else
      let k := 64 - a % 64
      (BitVec.ofNat 64 a, b.take k) :: bytePieces (a + (b.take k).length) (b.drop k) fuel

/-- The pieces of spans that are written. -/
def writePieces (spans : List (Word × List Byte)) : List (Word × List Byte) :=
  spans.flatMap fun (x, b) => bytePieces x.toNat b (b.length / 64 + 2)

/-- Writes spans in order up to the first fault, for an agent that no NI holds back. -/
def State.push (s : State) (a : Reader) (spans : List (Word × List Byte)) : State × Option (BitVec 8 × Word) :=
  let (s, _, f) := s.pushPieces a (writePieces spans)
  (s, f)

/-- Whether requests of a source are still on their way. -/
def State.busy (s : State) (src : Source) : Bool := s.reqs.any fun r => r.src == src

end Sys2Proof.Machine
end

