-- ==== Sys2Proof/Machine/StreamWindow.lean ====
section
/-! DEFINITION. Stream slots and their windows: opening and closing, fetch, renaming and overlap detection, retirement, the store
drain, and fencing (R267 to R281, R369, R370, R396, R397, R423). -/

namespace Sys2Proof.Machine

/-! ### Tensors and names (R270 to R275) -/

/-- Row bytes of a format (R271). -/
def rowBytes (fmt : BitVec 8) (cols : Nat) : Nat :=
  match fmt.toNat with
  | 0 => 8 * cols
  | 1 | 2 => 4 * cols
  | 3 | 4 => 2 * cols
  | 5 | 6 => 33 * (cols / 32)
  | 7 => 40 * (cols / 64)
  | _ => cols

/-- A tensor version as an operand names it. -/
def Operand.form (o : Operand) : TensorForm := ⟨o.addr, o.decl.rows, o.decl.cols, o.decl.rstride, o.decl.fmt, o.decl.band⟩

/-- Row bytes of a tensor. -/
def rowSize (t : TensorForm) : Nat := rowBytes t.fmt t.cols

/-- Address of a row of a version (R270). -/
def rowAt (t : TensorForm) (r : Nat) : Word := t.addr + BitVec.ofNat 64 (r * t.rstride)

/-- Pitch of a packed remote region (R299). -/
def packedPitch (t : TensorForm) : Nat := 64 * ((rowSize t + 63) / 64)

/-- The entry of a name. -/
def Slot.name (v : Slot) (n : BitVec 6) : TName := v.names[n.toNat]'(n.isLt)

/-- Replaces the entry of a name. -/
def Slot.setName (v : Slot) (n : BitVec 6) (t : TName) : Slot := { v with names := v.names.set n.toNat t (n.isLt) }

/-- The lowest-numbered FREE descriptor of the package (R274). -/
def State.freeDescriptor (s : State) : Option Nat := (List.range 1024).find? fun n => (s.desc n).st == .free

/-- A descriptor becomes FREE, and its version's VBUSY bit clears (R275). -/
def State.freeDesc (s : State) (n : Nat) : State :=
  let d := s.desc n
  let v := s.slot d.slot
  let t := v.name d.name
  let s := s.setSlot d.slot (v.setName d.name { t with vbusy := t.vbusy &&& ~~~ (1#8 <<< d.ver.toNat) })
  { s with descs := tableDel s.descs n }

/-- Whether a store-drain entry reads a descriptor. -/
def Slot.drainReads (v : Slot) (n : Nat) : Bool := v.drain.any fun d => d.e.srcs.any fun o => o.desc.toNat == n

/-- Whether a window entry writes a descriptor that is not retired. -/
def Slot.writes (v : Slot) (n : Nat) : Bool := v.window.any fun e => match e.dst with | some o => o.desc.toNat == n | none => false

/-- Descriptors of a slot become FREE as soon as nothing holds them (R269, R275, R369). -/
def State.sweep (s : State) (i : SlotId) : State :=
  let v := s.slot i
  let gone (d : Nat × Desc) : Bool :=
    d.2.slot == i && (match d.2.st with
      | .stale => !v.drainReads d.1
      | .committed => v.st == .closing && !v.drainReads d.1 && !v.writes d.1
      | .pending => (v.st == .closing || v.st == .fenced) && !v.writes d.1
      | .free => false)
  ((s.descs.filter gone).map (·.1)).foldl (fun (s : State) (n : Nat) => s.freeDesc n) s

/-- An operand that names a tensor by its newest version (R274). -/
def State.operandOf (s : State) (v : Slot) (n : BitVec 6) : Option Operand :=
  let t := v.name n
  t.decl.map fun d =>
    let e := s.desc t.front.toNat
    { name := n, desc := t.front, addr := e.addr, home := e.home, decl := d, inPlace := d.vers == 1 }

/-! ### Where a stream works (R56, R282) -/

/-- Window cores of a context on a die, in ascending logical order. DEDUCED (log 78). -/
def State.windowCores (s : State) (ctx : BitVec 8) (d : DieId) : List Nat :=
  match s.ctx? ctx with
  | some c => c.window.filter fun core => dieOf core == d && s.usable core
  | none => []

/-- A home die, or what it falls back to: the lead die, else the lowest die that has window cores (R56). -/
def State.dieWithCores (s : State) (v : Slot) (home : DieId) : DieId :=
  match (home :: v.lead :: List.finRange 4).find? (fun (d : DieId) => !(s.windowCores v.ctx d).isEmpty) with
  | some d => d
  | none => v.lead

/-- The execution die of an instruction (R282). -/
def State.executionDie (s : State) (v : Slot) (e : Entry) : DieId :=
  let home : DieId := match e.instr with
    | some (.sfill _) | some (.sload _) | some (.sget _) => (match e.dst with | some o => o.home | none => v.lead)
    | _ => (match e.srcs with | o :: _ => o.home | [] => v.lead)
  s.dieWithCores v home

/-- The lead sequencer as it reads for an entry. -/
def State.leadReader (s : State) (i : SlotId) (n : Nat) : Reader :=
  let v := s.slot i
  ⟨.stream i n, 1280 * v.lead.val, s.slotAsid v, v.ctx, false⟩

/-- The number under which the lead reads stream text, which no entry has; the dispatch agents of the dies read kernel lines under
the numbers after it. -/
def textReader : Nat := 2 ^ 32

/-- The dispatch agent of a die as it reads for a slot (R60, R269). -/
def State.dispatchReader (s : State) (i : SlotId) (d : DieId) : Reader :=
  let v := s.slot i
  ⟨.stream i (textReader + 1 + d.val), 1280 * d.val, s.slotAsid v, v.ctx, false⟩

/-- The rows of an entry's tensor outside the window: where they lie and their pitch (R289, R299). An address of selector 0x8 names
the lowest-numbered logical window core of the execution die. -/
def State.rawSide (s : State) (i : SlotId) (e : Entry) (t : TensorForm) : Word × Nat :=
  let v := s.slot i
  let f := streamFields e.word
  let op : BitVec 8 := e.word.extractLsb' 0 8
  let a := f.imm64
  let near := (s.windowCores v.ctx (s.executionDie v e)).headD 0
  (if field a 60 4 = 8 then s.absolute near a else a, if op = 0x50 ∨ op = 0x51 then packedPitch t else t.rstride)

/-- The tensors of an entry: its destination, or its source where it has none, and its sources. -/
def Entry.tensors (e : Entry) : TensorForm × List TensorForm :=
  let src := e.srcs.map Operand.form
  match e.dst, src with
  | some o, _ => (o.form, src)
  | none, t :: _ => (t, src)
  | none, [] => (⟨0, 0, 0, 0, 0, 0⟩, [])

/-- Whether the fault buffer of the lead die holds a fault of a slot: of its sequencer, a macro-operation sequencer or a Cellar
engine (R371, R373). -/
def State.slotHeld (s : State) (i : SlotId) : Bool :=
  (s.die (s.slot i).lead).holding.any fun f => [4, 5, 6].contains (bits f.w0.toNat 8 4) && bits f.w2.toNat 34 4 == i.val

/-! ### Discarding and fencing (R269, R369, R396) -/

/-- Whether a started entry still has work that completes first (R277, R284, R369). -/
def State.workLeft (s : State) (i : SlotId) (e : Entry) : Bool :=
  let stepping := s.cores.any fun c => match c.2.tileStep with | some t => t.slot == i && t.entry == e.n | none => false
  s.busy (.stream i e.n) || (e.started && (stepping || !e.parts.isEmpty || decide (e.ended < e.placed)))

/-- Entries leave the expansion queues (R282). -/
def State.leaveExpansion (s : State) (i : SlotId) (gone : Nat → Bool) : State :=
  (List.finRange 4).foldl (fun (s : State) (d : DieId) =>
    s.setDie d { s.die d with expansion := (s.die d).expansion.filter fun y => !(y.1 == i && gone y.2) }) s

/-- Discards entries: those without work leave, the others when their work ends. -/
def State.discard (s : State) (i : SlotId) (which : Entry → Bool) : State :=
  let v := s.slot i
  let one (e : Entry) : Option Entry :=
    if !which e then some e else if s.workLeft i e then some { e with discarded := true } else none
  let gone (n : Nat) : Bool := v.window.any fun e => e.n == n && which e
  ((s.setSlot i { v with window := v.window.filterMap one }).leaveExpansion i gone).sweep i

/-- FRONT becomes COMMIT for every name (R369). -/
def Slot.rewind (v : Slot) : Slot :=
  (List.range 64).foldl (fun (v : Slot) (n : Nat) =>
    let k := BitVec.ofNat 6 n
    v.setName k { v.name k with front := (v.name k).commit }) { v with decodeLoops := v.retiredLoops, lines := [], stopped := true }

/-- The HELD harts of a device that run tasks of a slot enter OFF (R374, R383). -/
def State.releaseTasks (s : State) (i : SlotId) (code : BitVec 8) : State :=
  let ctx := (s.slot i).ctx
  let mine (v : Hart) : Bool := v.st == .held && taskSt v.taskWord && taskSlot v.taskWord == i
  s.cores.foldl (fun (s : State) (c : Nat × Core) =>
    if c.2.ctx ≠ some ctx then s
    else (List.finRange 16).foldl (fun (s : State) (h : HartId) =>
      if mine (s.hart ⟨c.1, h⟩) then s.turnOffHeld ⟨c.1, h⟩ code else s) s) s

/-- A slot enters FENCED (R369, R370, R374, R396): with its code and, where there is one, its record's index. -/
def State.fence (s : State) (i : SlotId) (code : BitVec 8) (index : Option Nat) (which : Entry → Bool) : State :=
  let v := (s.slot i).rewind
  let s := s.setSlot i { v with
    st := .fenced, fencedAt := s.cycle v.lead, fencedOpening := v.st == .opening, fCode := code, fValid := true, fIdx := BitVec.ofNat 8 (index.getD 0),
    fOk := index.isSome }
  (s.discard i which).releaseTasks i code

/-- An event from outside the window fences a slot that is OPENING, RUNNING or HALTED (R396). -/
def State.fenceOutside (s : State) (i : SlotId) (code : BitVec 8) : State :=
  match (s.slot i).st with
  | .opening | .running | .halted => s.fence i code none fun _ => true
  | _ => s

/-- A step of a slot. -/
def State.atSlot (s : State) (f : SlotId → State) : Host.Outcome State Fault Refusal :=
  match s.arg with
  | .slot i => .next (f i)
  | _ => .next s

/-- A step of an entry of a slot. -/
def State.atEntry (s : State) (f : SlotId → Nat → State) : Host.Outcome State Fault Refusal :=
  match s.arg with
  | .entry i n => .next (f i n)
  | _ => .next s

/-- STREAM_FAULT_RAISE (R369, R370, R396). -/
def execStreamFaultRaise (s : State) : Host.Outcome State Fault Refusal :=
  s.atSlot fun i =>
    let v := s.slot i
    match v.st, v.window with
    | .running, e :: _ | .halted, e :: _ =>
      (match e.st with
       | .marked code (some index) => s.fence i code (some index) fun x => x.n != e.n
       | _ => s)
    | _, _ => s

/-! ### Opening and closing (R269) -/

/-- The slot and the offset of a write of a slot block. -/
def slotOffset (off : Nat) : Option (SlotId × Nat) :=
  if 0x100000 ≤ off ∧ off < 0x110000 then some (Fin.ofNat 16 ((off - 0x100000) / 0x1000), off % 0x1000) else none

/-- Opens a slot with a die as its lead; a context that is not bound opens nothing. -/
def State.openSlot (s : State) (d : DieId) (i : SlotId) : State :=
  let v := s.slot i
  let b := v.blocks[d]
  if v.st ≠ .free ∨ (s.ctx? b.ctx).isNone then s
  else s.setSlot i { Slot.reset with
    blocks := v.blocks, st := .opening, lead := d, ctx := b.ctx, sbase := b.sbase, slimit := b.sbase, ktab := b.ktab
    nkern := b.nkern, stageOff := b.stageOff, stageSize := b.stageSize, opened := s.cycle d, stopped := true }

/-- SCTL_OPEN (R269). -/
def execSctlOpen (s : State) : Host.Outcome State Fault Refusal :=
  s.onWrite (fun _ off w => match slotOffset off with
    | some (i, 0) => bitOf w 4 && (s.slot i).st == .free
    | _ => false) fun s d off _ =>
    match slotOffset off with
    | some (i, _) => s.openSlot d i
    | none => s

/-- Whether a dispatch agent may go on with a line: it has asked for it, or fewer than eight of its fetches are outstanding (R269). -/
def State.lineRoom (s : State) (a : Reader) (line : Word) : Bool :=
  let agent : Source → Nat := fun x => match x with | .stream _ n => n | _ => 0
  let out := s.reqs.filter fun r => agent r.src == agent a.src
  s.staged.any (fun x => x.1 == a.src && x.2.1 == line) || out.any (fun r => r.src == a.src && r.addr == line)
    || decide (out.length < 8)

/-- The entry lines of kernels at a dispatch agent, at most eight on their way (R60, R269). -/
def State.loadLines (s : State) (a : Reader) : List Word → State × PulledAll
  | [] => (s, .ready [])
  | pc :: rest =>
    let line := pc &&& ~~~ 63#64
    match (if s.lineRoom a line then s.pullLine a line else (s, .waiting)) with
    | (s, .fault c x) => (s, .fault c x)
    | (s, .waiting) => (match s.loadLines a rest with
      | (s, .fault c x) => (s, .fault c x)
      | (s, _) => (s, .waiting))
    | (s, .ready b) => (match s.loadLines a rest with
      | (s, .ready r) => (s, .ready (b :: r))
      | x => x)

/-- The dies whose dispatch agents load entry lines (R269). -/
def State.agentDies (s : State) : List DieId := (List.finRange 4).filter fun d => decide (d.val < s.dieCount) && !(s.die d).stopped

/-- The entry lines of kernels at every die of a list, by 64 times the die plus the kernel (R269). -/
def State.loadAll (s : State) (i : SlotId) (pcs : List Word) : List DieId → State × PulledAll
  | [] => (s, .ready [])
  | d :: rest =>
    match s.loadLines (s.dispatchReader i d) pcs with
    | (s, .fault c x) => (s, .fault c x)
    | (s, .waiting) => (match s.loadAll i pcs rest with
      | (s, .fault c x) => (s, .fault c x)
      | (s, _) => (s, .waiting))
    | (s, .ready b) => (match s.loadAll i pcs rest with
      | (s, .ready r) => (s, .ready (b ++ r))
      | x => x)

/-- What an opening slot has taken of other devices is used up. -/
def State.dropOpening (s : State) (i : SlotId) : State :=
  (List.range 5).foldl (fun (s : State) (k : Nat) => s.dropStaged (.stream i (textReader + k))) s

/-- A read of an opening slot faults: it is fenced with SMEMORY (R269, R396). DEDUCED (log 62). -/
def State.openFault (s : State) (i : SlotId) (code : BitVec 8) (addr : Word) : State :=
  let v := s.slot i
  let r := s.agentRecord v.lead 0x55 4 0 v.ctx (s.slotAsid v) addr (code.zeroExtend 16)
  let r := { r with w2 := r.w2 ||| BitVec.ofNat 64 (2 ^ 34 * i.val) }
  ((s.dropOpening i).raise v.lead r).fence i 0x55 none fun _ => true

/-- The slot enters RUNNING with SPC at SBASE. -/
def State.runSlot (s : State) (i : SlotId) (pcs : List Word) (lines : List (List Byte)) : State :=
  let v := s.slot i
  let keys : List Nat := s.agentDies.flatMap fun d => (List.range pcs.length).map fun k => 64 * d.val + k
  let entry : List (Nat × Wide) := (keys.zip lines).map fun (k, b) => (k, BitVec.ofNat 512 (leNat b))
  (s.dropOpening i).setSlot i { v with
    st := .running, spc := v.sbase, sretpc := v.sbase, kernels := pcs, entryLines := entry, stopped := false }

/-- SLOT_OPEN_COMPLETE (R60, R269, R396): the kernel PC list and the entry lines are loaded. -/
def execSlotOpenComplete (s : State) : Host.Outcome State Fault Refusal :=
  s.atSlot fun i =>
    let v := s.slot i
    if v.st ≠ .opening ∨ s.cycle v.lead ≤ v.opened then s
    else if v.nkern = 0 then s.runSlot i [] []
    else
      let a := s.leadReader i textReader
      match s.pull a v.ktab (8 * v.nkern.toNat) with
      | (s, .fault c x) => s.openFault i c x
      | (s, .waiting) => s
      | (s, .ready b) =>
        let pcs : List Word := (groups 8 b).map fun w => BitVec.ofNat 64 (leNat w)
        match s.loadAll i pcs s.agentDies with
        | (s, .fault c x) => s.openFault i c x
        | (s, .waiting) => s
        | (s, .ready lines) => s.runSlot i pcs lines

/-- Closes a slot: fetch stops, and what has not been issued is discarded. CLOSE comes before a fence of the same die cycle, which
then leaves nothing in SFSTAT, and is ignored where that slot was OPENING (R269). -/
def State.closeSlot (s : State) (i : SlotId) : State :=
  let v := s.slot i
  let now : Bool := v.st == .fenced && v.fencedAt == s.cycle v.lead
  let v := if now then { v with fCode := 0, fValid := false, fIdx := 0, fOk := false, fLater := 0 } else v
  if now && v.fencedOpening then s
  else match v.st with
  | .running | .halted | .fenced => (s.setSlot i { v with st := .closing, lines := [], stopped := true }).discard i fun _ => true
  | _ => s

/-- SCTL_CLOSE (R269): the block of the lead die takes it. -/
def execSctlClose (s : State) : Host.Outcome State Fault Refusal :=
  s.onWrite (fun _ off w => match slotOffset off with
    | some (i, 0) => bitOf w 5 && (s.slot i).st != .free
    | _ => false) fun s d off _ =>
    match slotOffset off with
    | some (i, _) => if (s.slot i).lead = d then s.closeSlot i else s
    | none => s

/-- SLOT_CLOSE_COMPLETE (R269). -/
def execSlotCloseComplete (s : State) : Host.Outcome State Fault Refusal :=
  s.atSlot fun i =>
    let s := s.sweep i
    let v := s.slot i
    if v.st = .closing ∧ v.window.isEmpty ∧ v.drain.isEmpty ∧ !s.descs.any (fun d => d.2.slot == i && d.2.st != .free) then
      s.setSlot i { v with st := .free, names := Slot.reset.names, decodeLoops := [], retiredLoops := [] }
    else s

/-- SLIMIT_WRITE (R268, R269): taken while the slot is RUNNING or HALTED, by the block of the lead die. -/
def execSlimitWrite (s : State) : Host.Outcome State Fault Refusal :=
  s.onWrite (fun _ off _ => match slotOffset off with
    | some (_, 0x18) => true
    | _ => false) fun s d off w =>
    match slotOffset off with
    | some (i, _) =>
      let v := s.slot i
      let limit := w &&& 0x1FFFFFFFFFFFFF0#64
      if v.lead ≠ d then s
      else match v.st with
        | .running => s.setSlot i { v with slimit := limit }
        | .halted =>
          if v.spc < limit then s.setSlot i { v with slimit := limit, st := .running, stopped := false }
          else s.setSlot i { v with slimit := limit }
        | _ => s
    | none => s

/-! ### Fetch (R276, R397) -/

/-- The line of an address. -/
def lineOf (a : Word) : Nat := a.toNat / 64 * 64

/-- Window entries of the sequencer of a die: those of the slots that it leads (R21). -/
def State.windowEntries (s : State) (d : DieId) : Nat :=
  ((List.finRange 16).map fun (i : SlotId) =>
    let v := s.slot i
    if v.st ≠ .free ∧ v.lead = d then v.window.length else 0).sum

/-- Whether a slot fetches and decodes now (R21, R276). -/
def State.fetches (s : State) (i : SlotId) : Bool :=
  let v := s.slot i
  v.st == .running && !v.stopped && decide (v.spc < v.slimit) && decide (s.windowEntries v.lead < 256) && !s.slotHeld i

/-- The lines that a slot wants, in order: that of SPC and up to three after it. DESIGN CHOICE (log 104). -/
def Slot.wanted (v : Slot) : List Nat :=
  ((List.range 4).map fun k => lineOf v.spc + 64 * k).filter fun a => decide (a < v.slimit.toNat)

/-- Whether a line held serves what a slot decodes from it: text past the limit of its fetch is fetched again. -/
def Slot.serves (v : Slot) (l : TextLine) : Bool := v.wanted.contains l.addr && decide (max l.addr v.spc.toNat < l.limit.toNat)

/-! ### Decode (R274, R276, R279, R423) -/

/-- Sources of a function of `SEW` (R292). -/
def sewSources (mode : BitVec 8) : Nat :=
  match mode.toNat with
  | 0 | 1 | 2 | 4 | 5 => 2
  | 3 => 3
  | 6 | 7 | 8 | 9 | 10 | 11 | 12 => 1
  | _ => 0

/-- The tensor fields that an instruction names: whether it writes DST, and how many of S1 to S3 it reads (R287). -/
def tensorUses (op : BitVec 8) (f : SFields) : Bool × Nat :=
  match op.toNat with
  | 0x10 | 0x12 | 0x51 => (true, 0)
  | 0x11 | 0x50 => (false, 1)
  | 0x20 => (true, if f.aux.getLsbD 0 then 3 else 2)
  | 0x21 => (true, sewSources f.mode)
  | 0x22 | 0x23 | 0x24 | 0x30 => (true, 1)
  | 0x31 | 0x32 => (false, 2)
  | 0x40 => (!f.aux.getLsbD 8, (f.aux.extractLsb' 6 2).toNat)
  | _ => (false, 0)

/-- The source names of an instruction with the DETAIL of their fields. -/
def sourceNames (op : BitVec 8) (f : SFields) : List (Nat × BitVec 6) := [(2, f.s1), (3, f.s2), (4, f.s3)].take (tensorUses op f).2

/-- Whether an instruction stops fetch until it retires (R276). -/
def stops (op : BitVec 8) (f : SFields) : Bool :=
  match op.toNat with
  | 0x01 | 0x67 | 0x63 => true
  | 0x60 => f.mode != 0
  | 0x61 => !f.mode.getLsbD 0
  | _ => false

/-- Whether an instruction is resolved at decode (R276). -/
def resolves (op : BitVec 8) (f : SFields) : Bool :=
  match op.toNat with
  | 0x60 | 0x61 => !stops op f
  | 0x62 => true
  | _ => false

/-- The raw region of an instruction (R279). -/
def rawRegion (op : BitVec 8) (f : SFields) (asid : BitVec 16) (dst : Option Operand) (srcs : List Operand) : Option Raw :=
  let at_ (a : Word) (n : Nat) (w : Bool) : Option Raw := some ⟨a, n, asid, false, w⟩
  let copy (o : Option Operand) (pitch : Bool) (w : Bool) : Option Raw :=
    o.bind fun o => at_ f.imm64 (o.decl.rows * (if pitch then packedPitch o.form else o.decl.rstride)) w
  match op.toNat with
  | 0x10 => copy dst false false
  | 0x11 => copy srcs.head? false true
  | 0x51 => copy dst true false
  | 0x50 => copy srcs.head? true true
  | 0x30 => at_ f.imm64 (2 ^ (f.mode.toNat % 64)) false
  | 0x31 | 0x32 => at_ f.imm64 (2 ^ (f.mode.toNat % 64)) true
  | 0x70 => at_ (f.imm64 &&& ~~~ 0x1FFFFF#64) (2 ^ 21) true
  | 0x65 => at_ f.imm64 8 true
  | 0x67 => if f.imm64 = 0 then none else at_ f.imm64 8 true
  | 0x63 | 0x64 => at_ f.imm64 8 false
  | 0x60 | 0x61 => if stops op f then at_ f.imm64 8 false else none
  | 0x01 => at_ f.imm64 64 false
  | 0x40 => if f.ord = 1 then some ⟨0, 0, asid, true, true⟩ else none
  | _ => none

/-- Whether two raw regions share a 64-byte line (R279). -/
def Raw.overlaps (a b : Raw) : Bool :=
  a.all || b.all
    || (a.asid == b.asid && decide (a.addr.toNat / 64 ≤ (b.addr.toNat + b.size - 1) / 64)
      && decide (b.addr.toNat / 64 ≤ (a.addr.toNat + a.size - 1) / 64))

/-- An entry with nothing in it but its word. -/
def blankEntry (n : Nat) (pc : Word) (w : BitVec 128) (i : Option Instr) : Entry :=
  { n := n, pc := pc, word := w, instr := i, st := .held, started := false, discarded := false, dst := none, srcs := [],
    undeclared := none, raw := none, goto := none, count := 0, step := 0, steps := 0, units := [], wrote := false, parts := [], room := [], age := 0,
    placed := 0, ended := 0, lastCore := 0, poll := 0 }

/-- The lowest version of a name that no descriptor holds (R274). -/
def freeVersion (vbusy : BitVec 8) (vers : Nat) : Option Nat := (List.range (min vers 8)).find? fun k => !vbusy.getLsbD k

/-- The written name of an instruction is renamed: its operand and the state, or none while no version or descriptor is free. -/
def State.rename (s : State) (i : SlotId) (n : BitVec 6) (o : Operand) : Option (State × Operand) :=
  if o.decl.vers = 1 then some (s, o)
  else
    let v := s.slot i
    let t := v.name n
    match freeVersion t.vbusy o.decl.vers, s.freeDescriptor with
    | some k, some d =>
      let addr := o.decl.vbase + BitVec.ofNat 64 (k * o.decl.vstride.toNat)
      let s := s.setDesc d ⟨addr, BitVec.ofNat 3 k, o.decl.home, n, i, .pending, none⟩
      let s := s.setSlot i (v.setName n { t with front := BitVec.ofNat 10 d, vbusy := t.vbusy ||| (1#8 <<< k) })
      some (s, { o with desc := BitVec.ofNat 10 d, addr := addr, home := o.decl.home })
    | _, _ => none

/-- The tensors of an instruction, sources before the written name (R274), or none while decode waits. -/
def State.bindTensors (s : State) (i : SlotId) (op : BitVec 8) (f : SFields) (e : Entry) : Option (State × Entry) :=
  let v := s.slot i
  let writes := (tensorUses op f).1
  let fields := (if writes then [(1, f.dst)] else []) ++ sourceNames op f
  match fields.find? (fun x => (v.name x.2).decl.isNone) with
  | some (k, _) => some (s, { e with undeclared := some k })
  | none =>
    let srcs := (sourceNames op f).filterMap fun x => s.operandOf v x.2
    let place (s : State) (dst : Option Operand) : State × Entry :=
      (s, { e with dst := dst, srcs := srcs, raw := rawRegion op f (s.slotAsid v) dst srcs })
    if !writes then some (place s none)
    else (s.operandOf v f.dst).bind fun o => (s.rename i f.dst o).map fun (s, o) => place s (some o)

/-- Whether the instruction that a slot decodes next waits for a version or a descriptor, so that its fetch stops (R276). -/
def State.renameWaits (s : State) (i : SlotId) : Bool :=
  let v := s.slot i
  match v.lines.find? (fun l => l.addr == lineOf v.spc) with
  | some l =>
    let w : BitVec 128 := l.data.extractLsb' (8 * (v.spc.toNat % 64)) 128
    v.serves l && decide (l.cycle + 12 ≤ s.cycle v.lead) && l.fault.isNone && (decodeStream w).isSome
      && (s.bindTensors i (w.extractLsb' 0 8) (streamFields w) (blankEntry v.next v.spc w none)).isNone
  | none => false

/-- STREAM_LINE_FETCH (R276): the first line that is not held and has come, or that two line fetches on their way leave room for. -/
def execStreamLineFetch (s : State) : Host.Outcome State Fault Refusal :=
  s.atSlot fun i =>
    let v := s.slot i
    if !s.fetches i ∨ s.renameWaits i then s
    else
      let a := s.leadReader i textReader
      let kept := v.lines.filter v.serves
      let flying := s.reqs.filter fun r => r.src == a.src
      let come (x : Nat) : Bool := s.staged.any fun y => y.1 == a.src && y.2.1.toNat == x
      let may (x : Nat) : Bool :=
        !kept.any (fun l => l.addr == x) && (come x || (flying.length < 2 && !flying.any fun r => r.addr.toNat == x))
      match v.wanted.find? may with
      | none => s
      | some x =>
        let line (data : Wide) (f : Option (BitVec 8)) : TextLine := ⟨x, data, s.cycle v.lead, v.slimit, f⟩
        let keep (s : State) (l : TextLine) : State :=
          let staged := s.staged.filter fun y => !(y.1 == a.src && (y.2.1.toNat == x || !v.wanted.contains y.2.1.toNat))
          State.setSlot { s with staged := staged } i { s.slot i with lines := kept ++ [l] }
        match s.pull a (BitVec.ofNat 64 x) 64 with
        | (s, .waiting) => s
        | (s, .fault c _) => keep s (line 0 (some c))
        | (s, .ready b) => keep s (line (BitVec.ofNat 512 (leNat b)) none)

/-- Puts a decoded entry into the window; SPC moves on, and a stopping or unresolved one stops decode. Its age, by which R58 and R284 tell
older from younger across the slots of a die, is that of this step: DESIGN CHOICE (log 73). -/
def State.enter (s : State) (i : SlotId) (e : Entry) (halt : Bool) : State :=
  let v := s.slot i
  s.setSlot i { v with
    window := v.window ++ [{ e with age := s.time }], next := v.next + 1, spc := e.pc + 16, stopped := halt, lastDecode := s.cycle v.lead + 1
    lines := if halt && !(match e.instr with | some (.sbr _) | some (.sloop _) | some (.sendloop _) => true | _ => false)
      then [] else v.lines }

/-- A word that enters the window MARKED (R397, R423): it stops fetch as a stopping instruction does. -/
def State.enterMarked (s : State) (i : SlotId) (e : Entry) (code : BitVec 8) (addr : Word) (detail : BitVec 16) : State :=
  (s.enter i e true).markEntry i e code 4 addr detail (s.agentWord (s.slot i).lead)

/-! ### Issue (R278, R280) -/

/-- Whether an instruction's writes come from the store drain (R281). -/
def drains (op : BitVec 8) (f : SFields) : Bool :=
  match op.toNat with
  | 0x11 | 0x50 | 0x65 => true
  | 0x67 => f.imm64 != 0
  | _ => false

/-- Whether all tasks of an `SKERN` are placed (R297). -/
def Entry.allPlaced (e : Entry) : Bool := e.started && decide (e.fields.mode.toNat + 1 ≤ e.placed)

/-- Whether an entry writes, or reads, a descriptor. -/
def Entry.producer (e : Entry) (d : BitVec 10) : Bool := match e.dst with | some o => o.desc == d | none => false
def Entry.names (e : Entry) (n : BitVec 6) : Bool :=
  (match e.dst with | some o => o.name == n | none => false) || e.srcs.any fun o => o.name == n

/-- Condition 1 of R280: the producers are DONE, or under JOIN placed. -/
def sourcesReady (older : List Entry) (e : Entry) : Bool :=
  e.srcs.zipIdx.all fun (o, k) => older.all fun p =>
    !p.producer o.desc || p.st == .done
      || (k == 0 && e.op == 0x40 && e.fields.aux.getLsbD 10 && p.op == 0x40 && p.allPlaced)

/-- Condition 2 of R280, for a write in place (R274): one that writes from the drain reads until it has left it (R352). -/
def inPlaceReady (v : Slot) (older : List Entry) (e : Entry) : Bool :=
  match e.dst with
  | some o =>
    !o.inPlace || (older.all (fun p => !p.names o.name || (p.st == .done && !drains p.op p.fields)) && !v.drainReads o.desc.toNat)
  | none => true

/-- Condition 3 of R280: of the drain, a raw read waits for every write, and a raw write for those of SSTORE and SPUT. -/
def rawReady (v : Slot) (older : List Entry) (e : Entry) : Bool :=
  let clash (p : Entry) : Bool := match e.raw, p.raw with
    | some a, some b => (a.write || b.write) && a.overlaps b
    | _, _ => false
  let writes : Bool := match e.raw with | some a => a.write | none => false
  older.all (fun p => !clash p || p.st == .done)
    && v.drain.all fun d => !clash d.e || (writes && !(d.e.op == 0x11 || d.e.op == 0x50))

/-- Whether an entry issues only as the oldest (R131, R276, R278, R298, R303). -/
def Entry.onlyOldest (e : Entry) : Bool :=
  let f := e.fields
  stops e.op f || f.acq == 1 || f.rel == 1 || f.ord == 1 || f.sync == 1 || e.op == 0x41 || e.op == 0x66

/-- The holds that an older entry places (R278, R303). -/
def Entry.holds (p e : Entry) : Bool :=
  p.fields.sync == 1 || p.op == 0x41 || p.op == 0x66 || (p.op == 0x64 && p.st != .done)
    || (p.fields.ord == 1 && e.raw.isSome && p.st != .done)

/-- Whether an instruction expands into units (R282). -/
def expands (op : BitVec 8) : Bool :=
  match op.toNat with
  | 0x10 | 0x11 | 0x12 | 0x20 | 0x21 | 0x22 | 0x23 | 0x50 | 0x51 => true
  | _ => false

/-- Whether writes of a drain entry lie within a scope (R122): its rows, or its flag word; core scope means device scope. -/
def State.drainInScope (s : State) (i : SlotId) (scope : BitVec 2) (d : Drain) : Bool :=
  let v := s.slot i
  let t := d.e.tensors.1
  let (a, pitch) := s.rawSide i d.e t
  let touches (x : Word) (n : Nat) : Bool := s.touches (1280 * v.lead.val) 2 (s.slotAsid v) x n
  scope == 3 || (if expands d.e.op then
      (List.range t.rows).any fun r => touches (a + BitVec.ofNat 64 (r * pitch)) (rowSize t)
    else touches d.e.fields.imm64 8)

/-- Whether an instruction of flag REL may go on: every older one has retired, and their writes within its scope have completed
(R131, R278). -/
def State.releaseReady (s : State) (i : SlotId) (e : Entry) : Bool :=
  e.fields.rel == 0 || !(s.slot i).drain.any fun d => decide (d.e.n < e.n) && s.drainInScope i e.fields.scope d

/-- An entry of a slot's window or store drain, and whether it is in the drain. -/
def Slot.working? (v : Slot) (n : Nat) : Option (Entry × Bool) :=
  match v.entry? n with
  | some e => some (e, false)
  | none => (v.drain.find? fun d => d.e.n == n).map fun d => (d.e, true)

/-- Whether an issued instruction has units left: one that writes from the drain keeps its place from its issue on (R281, R282). -/
def Entry.unitsLeft (e : Entry) (drained : Bool) : Bool :=
  (drained || e.st == .issued || (e.st == .done && drains e.op e.fields)) && (!e.started || decide (e.step < e.steps))

/-- The issued instructions that a die's expansion queue holds (R282). -/
def State.expanding (s : State) (d : DieId) : List (SlotId × Nat) :=
  (s.die d).expansion.filter fun (i, n) => match (s.slot i).working? n with
    | some (e, drained) => e.unitsLeft drained
    | none => false

/-! ### Retirement and the store drain (R275, R281) -/

/-- The loop stack after a loop instruction (R301). -/
def loopStep (op : BitVec 8) (pc : Word) (count : BitVec 32) (l : List Loop) : List Loop :=
  match op.toNat with
  | 0x61 => if count = 0 then l else l ++ [⟨pc + 16, count⟩]
  | 0x62 => match l.getLast? with
    | some t => if t.count - 1 = 0 then l.dropLast else l.dropLast ++ [{ t with count := t.count - 1 }]
    | none => l
  | _ => l

/-- A writer's version becomes the committed one of its name (R275). -/
def State.commitDesc (s : State) (i : SlotId) (e : Entry) : State :=
  match e.dst with
  | none => s
  | some o =>
    let v := s.slot i
    let t := v.name o.name
    let s := s.setSlot i (v.setName o.name { t with commit := o.desc })
    let s := s.setDesc o.desc.toNat { s.desc o.desc.toNat with st := .committed }
    if t.commit = o.desc then s else s.setDesc t.commit.toNat { s.desc t.commit.toNat with st := .stale }

/-- Retires the oldest entry. -/
def State.retire (s : State) (i : SlotId) (e : Entry) : State :=
  let s := s.commitDesc i e
  let v := s.slot i
  let now := s.cycle v.lead
  let stop := stops e.op e.fields
  let goto := e.goto.getD (e.pc + 16)
  let s := s.setSlot i { v with
    window := v.window.filter (fun p => p.n != e.n), sretpc := goto, sretcnt := v.sretcnt + 1
    retiredLoops := loopStep e.op e.pc e.count v.retiredLoops
    drain := if drains e.op e.fields then v.drain ++ [⟨{ e with step := 0 }⟩] else v.drain
    st := if e.op = 0x67 then .halted else v.st
    spc := if stop then goto else v.spc
    stopped := if e.op = 0x67 then true else if stop then false else v.stopped
    lastRetire := now, retired := (if v.lastRetire = now then v.retired else 0) + 1 }
  (if drains e.op e.fields then s else s.leaveExpansion i fun n => n == e.n).sweep i

/-- STREAM_RETIRE (R275, R281): one entry, four at most in a die cycle. -/
def execStreamRetire (s : State) : Host.Outcome State Fault Refusal :=
  s.atSlot fun i =>
    let v := s.slot i
    match v.st, v.window with
    | .running, e :: _ =>
      if e.st = .done ∧ !s.slotHeld i ∧ (v.lastRetire ≠ s.cycle v.lead ∨ v.retired < 4)
        ∧ (!drains e.op e.fields ∨ v.drain.length < 32) then s.retire i e
      else s
    | _, _ => s

/-- STORE_DRAIN_LEAVE (R275, R281, R299): the writes of a drain entry have completed. -/
def execStoreDrainLeave (s : State) : Host.Outcome State Fault Refusal :=
  s.atEntry fun i n =>
    let v := s.slot i
    match v.drain.find? (fun d => d.e.n == n) with
    | some d =>
      if d.e.step = d.e.steps ∧ !s.busy (.stream i n) then
        ((s.setSlot i { v with drain := v.drain.filter fun x => x.e.n != n }).leaveExpansion i fun k => k == n).sweep i
      else s
    | none => s

end Sys2Proof.Machine
end

