-- ==== Sys2Proof/Machine/StreamBuiltins.lean ====
section
/-! DEFINITION. The tensor instructions that macro-operation sequencers run, unit by unit: copies, fill, matrix product,
elementwise functions, reductions and transposition, on this device and to remote regions (R271, R282 to R284, R289 to R294,
R299). -/

namespace Sys2Proof.Machine

/-! ### Elements of a row (R271) -/

/-- Window of a format. -/
def fmtWindow (fmt : BitVec 8) : Nat :=
  match fmt.toNat with
  | 3 => 1
  | 4 => 2
  | 5 => 3
  | 6 => 4
  | 7 => 5
  | 8 => 6
  | _ => 0

/-- Columns of a scale block or unit, or 1. -/
def fmtBlock (fmt : BitVec 8) : Nat :=
  match fmt.toNat with
  | 5 | 6 => 32
  | 7 => 64
  | _ => 1

/-- Where the band scale of a row lies (R270): nowhere where every band scale is 1.0. -/
def bandSpan (t : TensorForm) (r : Nat) : Word × Nat :=
  if t.fmt = 7 ∧ t.band ≠ 0 then (t.band + BitVec.ofNat 64 (2 * (r / 64)), 2) else (0, 0)

/-- A band scale as read. -/
def bandOf (b : List Byte) : Nat := if b.isEmpty then 0x3F80 else leNat b

/-- The arithmetic classes of R292. -/
inductive ElemClass | f64 | int | f32
  deriving DecidableEq, Repr

/-- Class by the format of D, and the formats that its sources may have (R292). -/
def elemClass (d : BitVec 8) : ElemClass :=
  match d.toNat with
  | 0 => .f64
  | 2 | 8 => .int
  | _ => .f32
def classTakes (k : ElemClass) (fmt : BitVec 8) : Bool :=
  match k with
  | .f64 => fmt == 0
  | .int => fmt == 2 || fmt == 8
  | .f32 => decide (1 ≤ fmt.toNat ∧ fmt.toNat ≤ 8)

/-- Elements of stored bytes as codes of a class: FP64, INT32 or FP32; an integer in the FP32 class is converted by RNE. -/
def classCodes (k : ElemClass) (c : WinCtx) (fmt : BitVec 8) (b : List Byte) : List Nat × Events :=
  let int32 (i : Int) : Nat := (ofInteger fp32 .rne i).1
  match k, fmt.toNat with
  | .f64, _ => ((groups 8 b).map leNat, Events.none)
  | .int, 8 => (b.map fun x => (x.signExtend 32).toNat, Events.none)
  | .int, _ | .f32, 1 => ((groups 4 b).map leNat, Events.none)
  | .f32, 2 => ((groups 4 b).map fun x => int32 (BitVec.ofNat 32 (leNat x)).toInt, Events.none)
  | .f32, 8 => (b.map fun x => int32 x.toInt, Events.none)
  | .f32, 3 | .f32, 4 => let (d, ev) := windowRead c (fmtWindow fmt) b
                         ((groups 4 d).map leNat, ev)
  | .f32, _ => let (d, ev) := windowRead c (fmtWindow fmt) b
               ((groups 2 d).map fun x => leNat x * 2 ^ 16, ev)

/-- Codes of a class encoded once through D's window. -/
def classEncode (k : ElemClass) (c : WinCtx) (fmt : BitVec 8) (codes : List Nat) : List Byte × Events :=
  match k with
  | .f64 => (codes.flatMap fun x => leBytes x 8, Events.none)
  | _ => windowWrite c (fmtWindow fmt) fp32 (codes.flatMap fun x => leBytes x 4)

/-- xcompat of the template of a stream's context (R283). -/
def State.streamCompat (s : State) (ctx : BitVec 8) : Word :=
  match s.ctx? ctx with
  | some c => (loadCsrs c.template Csrs.reset).compat
  | none => 0

/-! ### Functions of elements (R290, R292, R293) -/

/-- A function of `SEW` on floating codes. DEDUCED (log 70). -/
def sewFloat (t : Fmt) (pay : Bool) (mode cst : Nat) (x : List Nat) : Nat :=
  let a := x.getD 0 0
  let b := x.getD 1 0
  let v := unpack t
  match mode with
  | 0 => (fAdd t .rne pay (v a) (v b)).1
  | 1 => (fSub t .rne pay (v a) (v b)).1
  | 2 => (fMul t .rne pay (v a) (v b)).1
  | 3 => (fFma t .rne pay (v a) (v b) (v (x.getD 2 0))).1
  | 4 => (fMinMax t pay true a b).1
  | 5 => (fMinMax t pay false a b).1
  | 6 => (fMul t .rne pay (v a) (v cst)).1
  | 7 => (fAdd t .rne pay (v a) (v cst)).1
  | 8 => (fMinMax t pay true a 0).1
  | 9 => (fExp2 .rne pay (v a)).1
  | 10 => (fRcp .rne pay (v a)).1
  | 11 => (fRsqrt .rne pay (v a)).1
  | _ => a

/-- A function of `SEW` on INT32 values. -/
def sewInt (mode cst : Nat) (x : List Nat) : Nat :=
  let a := x.getD 0 0
  let b := x.getD 1 0
  match mode with
  | 0 => (a + b) % 2 ^ 32
  | 1 => (a + 2 ^ 32 - b) % 2 ^ 32
  | 2 => a * b % 2 ^ 32
  | 3 => (a * b + x.getD 2 0) % 2 ^ 32
  | 4 => intCombine 32 true .max a b
  | 5 => intCombine 32 true .min a b
  | 6 => a * cst % 2 ^ 32
  | 7 => (a + cst) % 2 ^ 32
  | 8 => intCombine 32 true .max a 0
  | _ => a

/-- The constant of a class (R292). -/
def sewConst (k : ElemClass) (c : Word) : Nat := if k = .f64 then c.toNat else c.toNat % 2 ^ 32

/-- A row of `SEW` from the codes of its sources. -/
def sewRow (k : ElemClass) (pay : Bool) (mode : Nat) (c : Word) (n : Nat) (src : List (List Nat)) : List Nat :=
  let one (x : List Nat) : Nat := match k with
    | .int => sewInt mode (sewConst k c) x
    | .f64 => sewFloat fp64 pay mode (sewConst k c) x
    | .f32 => sewFloat fp32 pay mode (sewConst k c) x
  (List.range n).map fun j => one (src.map fun l => l.getD j 0)

/-- A row of `SFILL` (R290), with the events of its encoding. -/
def fillRow (c : WinCtx) (fmt : BitVec 8) (v : Word) (cols : Nat) : List Byte × Events :=
  let x := unpack fp64 v.toNat
  let many (n : Nat) (r : List Byte × Events) : List Byte × Events :=
    ((List.replicate n r.1).flatten, Events.sum (List.replicate n r.2))
  let round (f : Fmt) (counts : Bool) : List Byte × Events :=
    let code := (convert f c.rm c.nanpay x).1
    let beyond := counts && (unpack f code).isInf && !x.isInf
    many cols (leBytes code ((f.mag + 1) / 8), ⟨0, if beyond then 1 else 0, 0, 0⟩)
  let saturated (n : Nat) : Int := max (-(2 ^ (n - 1))) (min (2 ^ (n - 1) - 1) v.toInt)
  match fmt.toNat with
  | 0 => many cols (leBytes v.toNat 8, Events.none)
  | 1 => round fp32 false
  | 2 => many cols (leBytes (BitVec.ofInt 32 (saturated 32)).toNat 4, Events.none)
  | 3 => round bf16 true
  | 4 => round fp16 true
  | 5 => many (cols / 32) (encodeBlock e4m3 c (List.replicate 32 x))
  | 6 => many (cols / 32) (encodeBlock e5m2 c (List.replicate 32 x))
  | 7 => many (cols / 64) (encodeUnit c (List.replicate 64 x))
  | 8 => many cols ([BitVec.ofInt 8 (saturated 8)], ⟨0, 0, 0, if saturated 8 = v.toInt then 0 else 1⟩)
  | _ => ((List.range cols).map fun j => v.extractLsb' (8 * (j % 8)) 8, Events.none)

/-- The kinds of `SRED` (R293). -/
def redKind (mode : Nat) : Red :=
  match mode % 16 with
  | 0 => .sum
  | 1 => .max
  | _ => .min

/-- A combine of a class. -/
def classCombine (k : ElemClass) (pay : Bool) (r : Red) (x y : Nat) : Nat :=
  match k with
  | .int => intCombine 32 true r x y
  | .f64 => (floatCombine fp64 .rne pay r x y).1
  | .f32 => (floatCombine fp32 .rne pay r x y).1

/-- A list cut into groups of n, the last one padded with absent lanes. -/
def laneGroups (n : Nat) (l : List Nat) : List (List (Option Nat)) :=
  (List.range ((l.length + n - 1) / n)).map fun g => (List.range n).map fun j => l[g * n + j]?

/-- A row reduced (R293, axis 0): a tree over each group of lanes, and the groups in order. -/
def reduceRow (k : ElemClass) (pay : Bool) (r : Red) (l : List Nat) : Nat :=
  let op (x y : Nat) : Nat × FFlags := (classCombine k pay r x y, 0)
  let (lanes, levels) := if k = .f64 then (8, 3) else (16, 4)
  match (laneGroups lanes l).filterMap fun g => (reduceTree op levels g).1 with
  | [] => 0
  | p :: rest => rest.foldl (classCombine k pay r) p

/-- A column reduced (R293, axis 1). -/
def reduceColumn (k : ElemClass) (pay : Bool) (r : Red) (l : List Nat) : Nat :=
  match l with
  | [] => 0
  | p :: rest => rest.foldl (classCombine k pay r) p

/-! ### Matrix products (R236, R237, R291) -/

/-- Class of a format as an operand of a shape, or none where R237 has no row for it. -/
def smmClass (mode : BitVec 8) (fmt : BitVec 8) : Option MxClass :=
  match fmt.toNat with
  | 0 => if mode = 2 then some .raw else none
  | 1 => if mode = 2 then none else some .raw
  | 3 | 4 | 5 | 6 | 7 | 8 => if mode = 2 then none else some (mxClass (fmtWindow fmt))
  | _ => none

/-- Rows and columns of a tile of a shape (R236). -/
def smmTile (mode : BitVec 8) : Nat × Nat :=
  match mode.toNat with
  | 2 => (8, 8)
  | 3 => (16, 8)
  | _ => (16, 16)

/-- Stored bytes and elements of one K-step of a row. -/
def smmSpan (mode : BitVec 8) (fmt : BitVec 8) : Nat := (if mode = 1 then 2 else 1) * mxRowSpan (fmtWindow fmt)
def smmDepth (mode : BitVec 8) (fmt : BitVec 8) : Nat :=
  (if mode = 1 then 2 else 1) * (match fmt.toNat with
    | 0 => 8
    | 1 => 16
    | 3 | 4 => 32
    | 7 => 128
    | _ => 64)

/-- Formats to which, and from which, an accumulator of a tag moves (R240, R291). -/
def accMoves (tag : BitVec 2) (fmt : BitVec 8) : Bool :=
  match tag.toNat with
  | 0 => fmt == 1 || fmt == 3 || fmt == 4
  | 1 => fmt == 2 || fmt == 8
  | _ => fmt == 0

/-- Where a step of an `SMM` stands: the tile's rows and columns, its K-step, and whether that is the last. -/
structure SmmStep where
  row : Nat
  col : Nat
  m : Nat
  n : Nat
  k : Nat
  last : Bool
  deriving DecidableEq, Repr

/-- K-steps of an `SMM`. -/
def smmSteps (f : SFields) (a : TensorForm) : Nat := a.cols / smmDepth f.mode a.fmt

/-- The place of a step: tiles in row-major order, and within one its K-steps in order (R291). -/
def smmPlace (f : SFields) (a b : TensorForm) (step : Nat) : SmmStep :=
  let ks := smmSteps f a
  let (m, n) := smmTile f.mode
  let tile := step / ks
  let across := b.rows / n
  ⟨tile / across * m, tile % across * n, m, n, step % ks, step % ks + 1 == ks⟩

/-! ### Units (R282, R284) -/

/-- Rows of a unit of a block of 16. -/
def unitRows (rows u : Nat) : List Nat := (List.range 16).filterMap fun k => if 16 * u + k < rows then some (16 * u + k) else none

/-- Units of a block of 16. -/
def unitCount (n : Nat) : Nat := (n + 15) / 16

/-- A row of a tensor with its band scale, as spans to read. -/
def rowSpans (t : TensorForm) (r : Nat) : List (Word × Nat) := [(rowAt t r, rowSize t), bandSpan t r]

/-- Columns that a unit of `SRED` with axis 1 does together: the units of a scale block are done with its last one. -/
def axisColumns (d a : TensorForm) (u : Nat) : Nat × Nat :=
  let g := max 16 (max (fmtBlock d.fmt) (fmtBlock a.fmt))
  let last := min a.cols (16 * u + 16)
  if last % g = 0 ∨ last = a.cols then ((last - 1) / g * g, last) else (0, 0)

/-- What a step needs: the spans that it reads. `raw` is where a copy finds or leaves its rows, at a pitch. -/
def stepReads (op : BitVec 8) (f : SFields) (d : TensorForm) (src : List TensorForm) (raw : Word) (pitch u : Nat) :
    List (Word × Nat) :=
  let a := src.headD d
  let at_ (r : Nat) : Word := raw + BitVec.ofNat 64 (r * pitch)
  match op.toNat with
  | 0x10 | 0x51 => (unitRows d.rows u).map fun r => (at_ r, rowSize d)
  | 0x11 | 0x50 => (unitRows a.rows u).map fun r => (rowAt a r, rowSize a)
  | 0x12 => (unitRows d.rows u).map fun r => bandSpan d r
  | 0x20 =>
    let b := src.getD 1 d
    let p := smmPlace f a b u
    let span (t : TensorForm) (r : Nat) : List (Word × Nat) :=
      [(rowAt t r + BitVec.ofNat 64 (p.k * smmSpan f.mode t.fmt), smmSpan f.mode t.fmt), bandSpan t r]
    let c : List (Word × Nat) := match src[2]? with
      | some c => if p.k = 0 then (List.range p.m).map fun i =>
          (rowAt c (p.row + i) + BitVec.ofNat 64 (rowBytes c.fmt p.col), rowBytes c.fmt p.n) else []
      | none => []
    (List.range p.m).flatMap (fun i => span a (p.row + i)) ++ (List.range p.n).flatMap (fun j => span b (p.col + j)) ++ c
  | 0x21 => (unitRows d.rows u).flatMap fun r =>
      src.flatMap (fun t => rowSpans t (if t.rows = 1 then 0 else r)) ++ [bandSpan d r]
  | 0x22 =>
    if bits f.mode.toNat 4 1 = 0 then (unitRows a.rows u).flatMap (rowSpans a)
    else
      let (lo, hi) := axisColumns d a u
      if hi = 0 then []
      else bandSpan d 0 :: (List.range a.rows).flatMap fun r =>
        [(rowAt a r + BitVec.ofNat 64 (rowBytes a.fmt lo), rowBytes a.fmt (hi - lo)), bandSpan a r]
  | 0x23 =>
    let n := (unitRows d.rows u).length
    (List.range a.rows).map fun r => (rowAt a r + BitVec.ofNat 64 (rowBytes a.fmt (16 * u)), rowBytes a.fmt n)
  | _ => []

/-- What a unit gives: the bytes that it writes, and its events. -/
structure StepResult where
  writes : List (Word × List Byte)
  events : Events
  deriving DecidableEq, Repr

/-- Columns of stored bytes as they fill weight slots of a window (R244, R246); the columns beyond them keep given values. -/
def columnSlot (win band : Nat) (rest : WeightSlot) (columns : List (List Byte)) : WeightSlot :=
  let parts := columns.map (denseColumn win)
  let n := columns.length
  let pack (k : Nat) (l : List (List Byte)) (old : Nat) : Nat :=
    l.foldr (fun b acc => leNat b + 2 ^ (8 * k) * acc) (old / 2 ^ (8 * k * n))
  { data := BitVec.ofNat 8192 (pack 64 (parts.map (·.1)) rest.data.toNat), swin := BitVec.ofNat 3 win, sband := BitVec.ofNat 16 band
    scales := BitVec.ofNat 2048 (pack 16 (parts.map (·.2)) rest.scales.toNat) }

/-- The triggers of a tile step of an `SMM` on its reads (R243, R284, R291): the rows of A and of B with their band scales, and at the
first K-step the rows of C. The accumulator and the weight slots are given, and what the slots hold beyond the columns. -/
def smmOps (f : SFields) (d a b : TensorForm) (c : Option TensorForm) (u acc slot : Nat) (rest : WeightSlot)
    (reads : List (List Byte)) : List MacroOp :=
  let p := smmPlace f a b u
  let k := (smmClass f.mode a.fmt).getD .raw
  let tag : BitVec 2 := if f.mode = 2 then 2 else if k = .int8 then 1 else 0
  let rowsA := groups 2 (reads.take (2 * p.m))
  let rowsB := groups 2 ((reads.drop (2 * p.m)).take (2 * p.n))
  let band (l : List (List (List Byte))) : Nat := bandOf ((l.headD []).getD 1 [])
  let data (l : List (List (List Byte))) : List (List Byte) := l.map fun x => x.headD []
  let start : List MacroOp :=
    if p.k ≠ 0 then []
    else match c with
      | some t => [.load acc tag (fmtWindow t.fmt) (reads.drop (2 * (p.m + p.n)))]
      | none => [.zero acc tag]
  let win := fmtWindow b.fmt
  let span := mxRowSpan win
  let columns := data rowsB
  let slots : List MacroOp :=
    if f.mode = 1 then
      [.weights slot (columnSlot win (band rowsB) rest (columns.map fun x => x.take span)),
        .weights (slot + 1) (columnSlot win (band rowsB) rest (columns.map fun x => x.drop span))]
    else [.weights slot (columnSlot win (band rowsB) rest columns)]
  let out : List MacroOp := if p.last then
      [.store acc (fmtWindow d.fmt) p.n ((List.range p.m).map fun i => rowAt d (p.row + i) + BitVec.ofNat 64 (rowBytes d.fmt p.col)),
        .copy]
    else []
  .copy :: start ++ slots ++ .step acc slot f.mode (fmtWindow a.fmt) (band rowsA) (data rowsA) :: out

/-- A unit of an instruction other than `SMM` from its reads. -/
def stepResult (op : BitVec 8) (f : SFields) (compat : Word) (d : TensorForm) (src : List TensorForm) (raw : Word)
    (pitch u : Nat) (reads : List (List Byte)) : StepResult :=
  let a := src.headD d
  let pay := bitOf compat 2
  let ctx (band : List Byte) : WinCtx := ⟨bandOf band, bitOf compat 0, pay⟩
  let rows (n : Nat) (l : List Nat) (g : List (List Byte) → List Byte × Events) : StepResult :=
    let out : List (List Byte × Events) := (groups n reads).map g
    ⟨(l.zip out).map fun (r, x) => (rowAt d r, x.1), Events.sum (out.map (·.2))⟩
  match op.toNat with
  | 0x10 | 0x51 => ⟨((unitRows d.rows u).zip reads).map fun (r, b) => (rowAt d r, b), Events.none⟩
  | 0x11 | 0x50 =>
    ⟨((unitRows a.rows u).zip reads).map fun (r, b) => (raw + BitVec.ofNat 64 (r * pitch), b), Events.none⟩
  | 0x12 => rows 1 (unitRows d.rows u) fun x => fillRow (ctx (x.headD [])) d.fmt f.imm64 d.cols
  | 0x21 =>
    let k := elemClass d.fmt
    rows (2 * src.length + 1) (unitRows d.rows u) fun x =>
      let given : List (List Nat × Events) := (src.zip (groups 2 x)).map fun (t, y) =>
        classCodes k (ctx (y.getD 1 [])) t.fmt (y.getD 0 [])
      let (b, ev) := classEncode k (ctx (x.getLastD [])) d.fmt
        (sewRow k pay f.mode.toNat f.imm64 d.cols (given.map (·.1)))
      (b, (Events.sum (given.map (·.2))).plus ev)
  | 0x22 =>
    let k := elemClass d.fmt
    let r := redKind f.mode.toNat
    if bits f.mode.toNat 4 1 = 0 then rows 2 (unitRows a.rows u) fun x =>
      let (l, ev) := classCodes k (ctx (x.getD 1 [])) a.fmt (x.getD 0 [])
      let (b, eb) := classEncode k (ctx []) d.fmt [reduceRow k pay r l]
      (b, ev.plus eb)
    else
      let (lo, hi) := axisColumns d a u
      if hi = 0 then ⟨[], Events.none⟩
      else
        let given : List (List Nat × Events) := (groups 2 (reads.drop 1)).map fun x =>
          classCodes k (ctx (x.getD 1 [])) a.fmt (x.getD 0 [])
        let column (j : Nat) : Nat := reduceColumn k pay r (given.map fun g => g.1.getD j 0)
        let (b, ev) := classEncode k (ctx (reads.headD [])) d.fmt ((List.range (hi - lo)).map column)
        ⟨[(rowAt d 0 + BitVec.ofNat 64 (rowBytes d.fmt lo), b)], (Events.sum (given.map (·.2))).plus ev⟩
  | 0x23 =>
    let w := rowBytes a.fmt 1
    ⟨(unitRows d.rows u).zipIdx.map fun (r, k) => (rowAt d r, reads.flatMap fun x => (x.drop (w * k)).take w), Events.none⟩
  | _ => ⟨[], Events.none⟩

/-! ### Steps on a core (R282 to R284) -/

/-- K-steps of a unit of an entry. -/
def Entry.unitSteps (e : Entry) : Nat :=
  if e.op = 0x20 then max 1 (smmSteps e.fields (e.tensors.2.headD e.tensors.1)) else 1

/-- Cells with the bytes of a span replaced. -/
def Memory.replaceSpan (m : List Host.Cell) (key : Nat) (b : List Byte) : List Host.Cell :=
  m.filter (fun c => decide (c.1 < key)) ++ ((b.zipIdx.map fun (x, i) => (key + i, x)).filter fun c => c.2 != Memory.unlisted)
    ++ m.filter fun c => decide (key + b.length ≤ c.1)

/-- A tile step takes the staging region of its core, and the spec does not say what it leaves there (R283, R398): free values
(log 14). -/
def State.takeStaging (s : State) (i : SlotId) (core : Nat) : State :=
  let v := s.slot i
  let n := s.freeCtr
  let off := v.stageOff.toNat
  let size := min v.stageSize.toNat (2 ^ 18 - off)
  let bytes := (List.range size).map fun k => Config.freeByte (n + k)
  { s with mem := Memory.replaceSpan s.mem (spadKey core off) bytes, freeCtr := n + size }

/-- Replaces an entry in the window and in the store drain of its slot. -/
def State.putEntry (s : State) (i : SlotId) (e : Entry) : State :=
  let v := (s.slot i).setEntry e
  s.setSlot i { v with drain := v.drain.map fun d => if d.e.n == e.n then ⟨e⟩ else d }

/-- Whether a drain entry has begun its writes, or has none left (R131). -/
def Entry.begun (e : Entry) : Bool := e.step == e.steps || e.wrote

/-- Whether a drain entry may begin or go on (R131, R278, R281): in retire order, and under REL after the writes before it. -/
def State.drainReady (s : State) (i : SlotId) (e : Entry) : Bool :=
  s.releaseReady i e && ((s.slot i).drain.takeWhile fun d => d.e.n != e.n).all fun d => d.e.begun

/-- Whether steps of an entry may begin. -/
def State.mayStep (s : State) (i : SlotId) (e : Entry) (drained : Bool) : Bool :=
  if drained then s.drainReady i e
  else e.st == .issued && e.started && !e.discarded && (s.slot i).st == .running

/-- The unit of an entry that a window core is at, or the next one that falls to it (R282): unit u falls to the u-th window core of
the execution die, modulo their number; one begun on a core that has left the window begins anew. -/
def Entry.nextUnit (e : Entry) (cores : List Nat) (core : Nat) : Option UnitAt :=
  match e.units.find? (fun u => u.core == core && decide (u.done < e.unitSteps)) with
  | some u => some u
  | none =>
    let taken (k : Nat) : Bool := e.units.any fun u => u.unit == k && (u.done == e.unitSteps || cores.contains u.core)
    ((List.range e.steps).find? fun k => cores[k % cores.length]? == some core && !taken k).map fun k => ⟨k, core, 0, 0⟩

/-- The step that a die's sequencer picks for a core at a tile-step boundary: lowest PRIO first, then oldest (R284). -/
def State.nextStep (s : State) (core : Nat) : Option (SlotId × Entry × UnitAt) :=
  let ready := (s.expanding (dieOf core)).filterMap fun (i, n) =>
    match (s.slot i).working? n with
    | some (e, drained) =>
      if s.mayStep i e drained then
        (e.nextUnit (s.windowCores (s.slot i).ctx (s.executionDie (s.slot i) e)) core).map fun u => (i, e, u)
      else none
    | none => none
  let older (x y : SlotId × Entry × UnitAt) : Bool :=
    decide (x.2.1.fields.prio < y.2.1.fields.prio ∨ (x.2.1.fields.prio = y.2.1.fields.prio ∧ x.2.1.age < y.2.1.age))
  ready.foldl (fun (best : Option (SlotId × Entry × UnitAt)) x => match best with
    | none => some x
    | some y => if older x y then some x else some y) none

/-- Accumulators 8 to 15 that no `SMM` unit in progress on a core uses (R243); those of an entry that is marked or discarded go no
further. -/
def State.freeAccs (s : State) (core : Nat) : List Nat :=
  let entries (v : Slot) : List Entry := v.window ++ v.drain.map (·.e)
  let live (e : Entry) : Bool := match e.st with | .marked _ _ => false | _ => !e.discarded
  let used : List Nat := (List.finRange 16).flatMap fun i => (entries (s.slot i)).flatMap fun e =>
    if e.op = 0x20 ∧ live e then (e.units.filter fun u => u.core == core && decide (u.done < e.unitSteps)).map (·.acc) else []
  ((List.range 8).map (8 + ·)).filter fun k => !used.contains k

/-- One of a list where the spec does not say which: a free value (log 14). -/
def State.anyOf (s : State) (l : List Nat) : State × Nat :=
  ({ s with freeCtr := s.freeCtr + 1 }, l.getD (Config.freeIndex s.freeCtr % l.length) 0)

/-- Replaces the tile step of a core. -/
def State.setTile (s : State) (core : Nat) (t : Option TileStep) : State := s.setCore core { s.core core with tileStep := t }

/-- A tile step begins at a core (R284): its unit becomes the core's, with an accumulator where it is one of `SMM`. -/
def State.beginTile (s : State) (core : Nat) (i : SlotId) (e : Entry) (u : UnitAt) : State :=
  let s := s.setTile core (some ⟨i, e.n, u.unit, true, [], 0, [], none⟩)
  if e.units.contains u then s
  else
    let (s, k) := if e.op = 0x20 then s.anyOf (s.freeAccs core) else (s, 0)
    s.putEntry i { e with units := (e.units.filter fun x => x.unit != u.unit) ++ [{ u with acc := k }] }

/-- The unit of an entry by its number. -/
def Entry.unit? (e : Entry) (k : Nat) : Option UnitAt := e.units.find? fun u => u.unit == k

/-- The macro-operation sequencer at a window core as it reads and writes for an entry (R283, R299). -/
def State.tileReader (s : State) (i : SlotId) (e : Entry) (core : Nat) : Reader :=
  ⟨.stream i e.n, core, s.slotAsid (s.slot i), (s.slot i).ctx, true⟩

/-- A tile step reads (R284, R291): when everything has come it has the triggers that it emits, and what it writes. -/
def State.readTile (s : State) (core : Nat) (t : TileStep) (e : Entry) (u : UnitAt) : State :=
  let i := t.slot
  let (d, src) := e.tensors
  let (raw, pitch) := s.rawSide i e d
  let f := e.fields
  let at_ := u.unit * e.unitSteps + u.done
  let a := s.tileReader i e core
  let spans := stepReads e.op f d src raw pitch at_
  match s.pullSpans a spans with
  | (s, .waiting) => s
  | (s, .fault c x) => (s.dropSpans a.src spans).setTile core (some { t with reading := false, fault := some (c, x) })
  | (s, .ready b) =>
    let s := (s.dropSpans a.src spans).takeStaging i core
    if e.op = 0x20 then
      let slots := if f.mode = 1 then 31 else 32
      let (s, k) := s.anyOf ((List.range slots).map (32 + ·))
      let n := s.freeCtr
      let rest : WeightSlot := ⟨Config.freeBlock n, 0, 0, (Config.freeBlock (n + 1)).extractLsb' 0 2048, false⟩
      let ops := smmOps f d (src.headD d) (src.getD 1 d) src[2]? at_ u.acc k rest b
      State.setTile { s with freeCtr := n + 2 } core (some { t with reading := false, emit := ops })
    else
      let r := stepResult e.op f (s.streamCompat (s.slot i).ctx) d src raw pitch at_ b
      let s := s.setCore core ((s.core core).countEvents r.events)
      let bad := r.writes.findSome? fun x => s.spanFault a x.1 x.2.length
      let ops : List MacroOp := if e.op = 0x12 then [.copy] else [.copy, .copy]
      s.setTile core (some { t with reading := false, emit := if bad.isSome then [] else ops, writes := r.writes, fault := bad })

/-- Whether a trigger of the sequencer may reach its unit now (R37, R284): one a die cycle, after the slot of the core, and in the
order in which it needs what the earlier ones leave. -/
def State.mayEmit (s : State) (core : Nat) (t : TileStep) (op : MacroOp) : Bool :=
  let c := s.core core
  !s.slotPending core && !(s.die (dieOf core)).halted && decide (c.tileNext ≤ s.coreCycle core)
    && (if op = .copy then t.open_ == 0 else !c.ceq.any fun x => x.macroOp.isSome)

/-- A trigger of the sequencer's port file enters its unit's queue (R19, R37, R283). -/
def State.emitTile (s : State) (core : Nat) (t : TileStep) (op : MacroOp) (rest : List MacroOp) : State :=
  let c := s.core core
  let now := s.coreCycle core
  let x : Trigger := { h := ⟨core, 0⟩, seq := 0, fn := 0, a := 0, b := 0, c := 0, d := 0, f := 0, ord := 0, scope := 0, rm := 0,
                       compat := s.streamCompat (s.slot t.slot).ctx, bandsc := 0x3F80, mode := .user, readsAfter := [],
                       writesAfter := [], after := [], born := 0, earlier := [], entered := c.entered, cycle := now,
                       macroOp := some op }
  let c := { c with entered := c.entered + 1, tileNext := now + 1, tileStep := some { t with emit := rest, open_ := t.open_ + 1 } }
  s.setCore core (match op with
    | .copy => { c with ceq := c.ceq ++ [x] }
    | .weights _ _ => { c with wbq := c.wbq ++ [x] }
    | _ => { c with mxq := c.mxq ++ [x] })

/-- A tile step is at its boundary (R284): its unit counts it, and a unit counts when its last step has. -/
def State.endTile (s : State) (core : Nat) (i : SlotId) (e : Entry) (u : UnitAt) (steps : Nat) : State :=
  let done := u.done + steps
  let units := e.units.map fun x => if x.unit = u.unit then { x with done := done } else x
  (s.setTile core none).putEntry i { e with units := units, step := if done = e.unitSteps then e.step + 1 else e.step }

/-- A fault of a tile step (R365, R397, R424): SEXPAND of a window entry; of a drain entry it is only a record, and its unit ends. -/
def State.faultTile (s : State) (core : Nat) (i : SlotId) (e : Entry) (u : UnitAt) (drained : Bool) (c : BitVec 8) (x : Word) :
    State :=
  if drained then (s.drainRecord i e c x).endTile core i e u (e.unitSteps - u.done)
  else (s.setTile core none).markEntry i e 0x53 5 x (c.zeroExtend 16) (s.agentWord (dieOf core))

/-- The writes of a tile step, the next 8-byte words of them or all (R118, R284): what they come to, and what is left. -/
def State.writeTile (s : State) (a : Reader) (words : Option Nat) (l : List (Word × List Byte)) :
    State × List (Word × List Byte) × Option (BitVec 8 × Word) :=
  match words, writePieces l with
  | none, p => s.pushPieces a p
  | some _, [] => (s, [], none)
  | some n, (addr, b) :: rest =>
    let k := 8 * n - addr.toNat % 8
    match s.near a addr b.length ⟨false, false, true, false⟩ with
    | (s, .keys _) =>
      let (s, _, f) := s.pushPieces a [(addr, b.take k)]
      (s, (if b.length ≤ k then [] else [(addr + BitVec.ofNat 64 k, b.drop k)]) ++ rest, f)
    | (s, _) =>
      let (s, left, f) := s.pushPieces a [(addr, b)]
      (s, left ++ rest, f)

/-- The tile step of a core goes on (R284): it reads, emits its next trigger, and when all have completed it writes and ends. -/
def State.tileGoes (s : State) (core : Nat) (words : Option Nat) (t : TileStep) (e : Entry) (drained : Bool) (u : UnitAt) : State :=
  if t.reading then s.readTile core t e u
  else match t.fault, t.emit with
    | some (c, x), _ => if t.open_ = 0 then s.faultTile core t.slot e u drained c x else s
    | none, op :: rest => if s.mayEmit core t op then s.emitTile core t op rest else s
    | none, [] =>
      if t.open_ ≠ 0 then s
      else match s.writeTile (s.tileReader t.slot e core) words t.writes with
        | (s, _, some (c, x)) => s.faultTile core t.slot e u drained c x
        | (s, [], none) => s.endTile core t.slot { e with wrote := true } u 1
        | (s, left, none) =>
          let s := if left = writePieces t.writes then s else s.putEntry t.slot { e with wrote := true }
          s.setTile core (some { t with writes := left })

/-- A turn of the macro-operation sequencer at a core: its tile step goes on, or the next one begins. -/
def State.sequence (s : State) (core : Nat) (words : Option Nat) : State :=
  let go (s : State) : State := match (s.core core).tileStep with
    | some t => (match (s.slot t.slot).working? t.entry with
      | some (e, drained) => (match e.unit? t.unit with
        | some u => s.tileGoes core words t e drained u
        | none => s.setTile core none)
      | none => s.setTile core none)
    | none => s
  if !s.coreTurn core then s
  else match (s.core core).tileStep with
  | some _ => go s
  | none => match s.nextStep core with
    | some (i, e, u) =>
      if s.vacating core ∨ (e.op = 0x20 ∧ !e.units.contains u ∧ (s.freeAccs core).isEmpty) then s else go (s.beginTile core i e u)
    | none => s

/-- The flag arrival of `SSIGNAL` or `SHALT` from the store drain (R281, R303). -/
def State.drainSignal (s : State) (i : SlotId) (e : Entry) : State :=
  let f := e.fields.imm64
  (s.putEntry i { e with step := e.step + 1 }).addReq { s.readerReq (s.leadReader i e.n) f .arrivalOnly [] .none with arrival := .flag f }

/-- MACRO_TILE_STEP (R37, R281 to R284): the sequencer at a core, or the flag arrival of a drain entry. -/
def execMacroTileStep (s : State) : Host.Outcome State Fault Refusal :=
  match s.arg with
  | .core c => .next (s.sequence c none)
  | .coreWords c n => .next (s.sequence c (some n))
  | .entry i n => (match (s.slot i).drain.find? (fun d => d.e.n == n) with
    | some d =>
      if d.e.step < d.e.steps && !expands d.e.op && s.drainReady i d.e then .next (s.drainSignal i d.e) else .next s
    | none => .next s)
  | _ => .next s

/-! ### Start of work -/

/-- An entry is marked for an operand that breaks a limit (R415, R424). DEDUCED (log 69). -/
def State.badOperand (s : State) (i : SlotId) (e : Entry) (code : BitVec 8) (field : Nat) : State :=
  s.markEntry i e code 4 0 (BitVec.ofNat 16 (field + 256 * e.op.toNat)) (s.agentWord (s.slot i).lead)

/-- The entry whose turn it is starts its work (R280, R287, R424): it is issued and not started, or waits to be resolved at
decode. An undeclared tensor, then an operand that breaks a limit, marks it, and nothing is started. -/
def State.startWork (s : State) (bad : SlotId → Entry → Option Nat) (go : SlotId → Entry → State) : State :=
  let i := s.strCur.1
  match (s.slot i).entry? s.strCur.2 with
  | none => s
  | some e =>
    let mine : Bool := (e.st == .issued && !e.started && !e.discarded) || (e.st == .held && resolves e.op e.fields)
    if !mine then s
    else match e.undeclared with
      | some k => s.badOperand i e 0x51 k
      | none => match bad i e with
        | some k => s.badOperand i e 0x50 k
        | none => go i e

/-- Whether an address lies in one of some spaces with an alignment; space 0x8 means region 0 (R289, R300). -/
def inSpaces (l : List Nat) (align : Nat) (a : Word) : Bool :=
  l.contains (field a 60 4) && a.toNat % align == 0 && (field a 60 4 != 0 || field a 57 3 == 0)
    && (field a 60 4 != 8 || field a 21 39 == 0)

/-- Whether the raw region of an entry does not cross the end of the coherent window (R67, R279). -/
def rawInWindow (e : Entry) : Bool :=
  match e.raw with
  | some r => field r.addr 60 4 != 13 || decide (field r.addr 0 22 + r.size ≤ 0x400000)
  | none => true

/-- A built-in operation starts with its units. -/
def State.beginSteps (s : State) (i : SlotId) (e : Entry) (n : Nat) : State :=
  s.putEntry i { e with started := true, step := 0, steps := n }

/-- An instruction that performs from the drain is DONE at issue (R289, R299, R303). -/
def State.beginDrained (s : State) (i : SlotId) (e : Entry) (n : Nat) : State :=
  s.putEntry i { e with st := .done, started := true, step := 0, steps := n }

/-- SLOAD (R289). -/
def execSload (f : SFields) (s : State) : Host.Outcome State Fault Refusal :=
  .next (s.startWork (fun _ e => if inSpaces [0, 8, 10, 13] 64 f.imm64 && rawInWindow e then none else some 7)
    fun i e => s.beginSteps i e (unitCount e.tensors.1.rows))

/-- SSTORE (R289). -/
def execSstore (f : SFields) (s : State) : Host.Outcome State Fault Refusal :=
  .next (s.startWork (fun _ e => if inSpaces [0, 8, 10, 13] 64 f.imm64 && rawInWindow e then none else some 7)
    fun i e => s.beginDrained i e (unitCount e.tensors.1.rows))

/-- SPUT (R299). -/
def execSput (f : SFields) (s : State) : Host.Outcome State Fault Refusal :=
  .next (s.startWork (fun _ _ => if inSpaces [0, 11] 64 f.imm64 then none else some 7)
    fun i e => s.beginDrained i e (unitCount e.tensors.1.rows))

/-- SGET (R299). -/
def execSget (f : SFields) (s : State) : Host.Outcome State Fault Refusal :=
  .next (s.startWork (fun _ _ => if inSpaces [0, 11] 64 f.imm64 then none else some 7)
    fun i e => s.beginSteps i e (unitCount e.tensors.1.rows))

/-- SFILL (R290): the fields hold no limit beyond their encoding. -/
def execSfill (_ : SFields) (s : State) : Host.Outcome State Fault Refusal :=
  .next (s.startWork (fun _ _ => none) fun i e => s.beginSteps i e (unitCount e.tensors.1.rows))

/-- The limits of `SMM` (R291, R424), by the field that breaks one. -/
def smmBad (f : SFields) (d : TensorForm) (src : List TensorForm) : Option Nat :=
  let a := src.headD d
  let b := src.getD 1 d
  let (m, n) := smmTile f.mode
  let tag : BitVec 2 := if f.mode = 2 then 2 else if a.fmt = 8 then 1 else 0
  let likeD (t : TensorForm) : Bool := t.rows == a.rows && t.cols == b.rows && accMoves tag t.fmt
  if 3 < f.mode.toNat then some 5
  else if !f.aux.getLsbD 0 ∧ f.s3 ≠ 0 then some 4
  else match smmClass f.mode a.fmt, smmClass f.mode b.fmt with
    | none, _ => some 2
    | some k, kb =>
      if kb ≠ some k then some 3
      else if a.rows % m ≠ 0 ∨ a.cols % smmDepth f.mode a.fmt ≠ 0 then some 2
      else if b.rows % n ≠ 0 ∨ b.cols ≠ a.cols then some 3
      else if !likeD d then some 1
      else match src[2]? with
        | some c => if likeD c then none else some 4
        | none => none

/-- SMM (R291). -/
def execSmm (f : SFields) (s : State) : Host.Outcome State Fault Refusal :=
  .next (s.startWork (fun _ e => smmBad f e.tensors.1 e.tensors.2) fun i e =>
    let (d, src) := e.tensors
    let a := src.headD d
    let b := src.getD 1 d
    let (m, n) := smmTile f.mode
    s.beginSteps i e (a.rows / m * (b.rows / n)))

/-- The limits of `SEW` (R292, R424). -/
def sewBad (f : SFields) (d : TensorForm) (src : List TensorForm) : Option Nat :=
  let k := elemClass d.fmt
  let n := sewSources f.mode
  let fits (t : TensorForm) : Bool := classTakes k t.fmt && t.cols == d.cols && (t.rows == 1 || t.rows == d.rows)
  if 0x0C < f.mode.toNat then some 5
  else if n < 2 ∧ f.s2 ≠ 0 then some 3
  else if n < 3 ∧ f.s3 ≠ 0 then some 4
  else if d.fmt = 9 then some 1
  else if k ≠ .f32 ∧ (f.mode = 9 ∨ f.mode = 10 ∨ f.mode = 11) then some 5
  else (src.zipIdx.find? fun x => !fits x.1).map fun x => x.2 + 2

/-- SEW (R292). -/
def execSew (f : SFields) (s : State) : Host.Outcome State Fault Refusal :=
  .next (s.startWork (fun _ e => sewBad f e.tensors.1 e.tensors.2) fun i e => s.beginSteps i e (unitCount e.tensors.1.rows))

/-- The limits of `SRED` (R293, R424). -/
def sredBad (f : SFields) (d : TensorForm) (src : List TensorForm) : Option Nat :=
  let a := src.headD d
  let axis := bits f.mode.toNat 4 1
  if 2 < f.mode.toNat % 16 ∨ 0x1F < f.mode.toNat then some 5
  else if d.fmt = 9 ∨ (axis = 0 ∧ (d.rows ≠ a.rows ∨ d.cols ≠ 1)) ∨ (axis = 1 ∧ (d.rows ≠ 1 ∨ d.cols ≠ a.cols)) then some 1
  else if !classTakes (elemClass d.fmt) a.fmt then some 2
  else none

/-- SRED (R293). -/
def execSred (f : SFields) (s : State) : Host.Outcome State Fault Refusal :=
  .next (s.startWork (fun _ e => sredBad f e.tensors.1 e.tensors.2) fun i e =>
    let a := e.tensors.2.headD e.tensors.1
    s.beginSteps i e (unitCount (if bits f.mode.toNat 4 1 = 0 then a.rows else a.cols)))

/-- The limits of `SXPOSE` (R294). -/
def sxposeBad (d : TensorForm) (src : List TensorForm) : Option Nat :=
  let a := src.headD d
  if fmtBlock a.fmt ≠ 1 then some 2
  else if d.fmt ≠ a.fmt ∨ d.rows ≠ a.cols ∨ d.cols ≠ a.rows then some 1
  else none

/-- SXPOSE (R294). -/
def execSxpose (_ : SFields) (s : State) : Host.Outcome State Fault Refusal :=
  .next (s.startWork (fun _ e => sxposeBad e.tensors.1 e.tensors.2) fun i e => s.beginSteps i e (unitCount e.tensors.1.rows))

end Sys2Proof.Machine
end

