-- ==== Sys2Proof/Machine/StreamControl.lean ====
section
/-! DEFINITION. The stream instructions that the lead sequencer does itself: declaration, control, waiting and signalling,
groups, ownership and kernels, and the completion of entries (R53 to R58, R270, R277, R288, R297, R298, R300 to R304, R383,
R384). -/

namespace Sys2Proof.Machine

/-- The sequencer's read of a control word, a record or a list faults: SMEMORY (R397). -/
def State.memoryMark (s : State) (i : SlotId) (e : Entry) (code : BitVec 8) (addr : Word) : State :=
  (s.dropStaged (.stream i e.n)).markEntry i e 0x55 4 addr (code.zeroExtend 16) (s.agentWord (s.slot i).lead)

/-- Reads bytes for an entry at the lead die and goes on with them; it waits while they come from afar. -/
def State.withBytes (s : State) (i : SlotId) (e : Entry) (addr : Word) (n : Nat) (go : State → List Byte → State) : State :=
  match s.pull (s.leadReader i e.n) addr n with
  | (s, .waiting) => s
  | (s, .fault c x) => s.memoryMark i e c x
  | (s, .ready b) => go s b

/-- An instruction is DONE, and where it stops fetch it says where fetch goes (R276). -/
def State.doneAt (s : State) (i : SlotId) (e : Entry) (goto : Word) : State :=
  (s.dropStaged (.stream i e.n)).putEntry i { e with st := .done, started := true, goto := some (goto &&& 0x1FFFFFFFFFFFFFF#64) }

/-! ### Declaration (R270, R288) -/

/-- The declaration of a record, or none where it breaks a limit (R270). -/
def declOf (b : List Byte) (home : DieId) : Option Decl :=
  let w (o n : Nat) : Nat := leNat ((b.drop o).take n)
  let vbase := w 0 8
  let vstride := w 8 8
  let rows := w 16 4
  let cols := w 20 4
  let rstride := w 24 8
  let fmt := BitVec.ofNat 8 (w 32 1)
  let vers := w 33 1
  let band := w 40 8
  let ok : Bool := decide (vbase % 64 = 0 ∧ vbase < 2 ^ 57 ∧ 1 ≤ rows ∧ rows ≤ 2 ^ 24 ∧ 1 ≤ cols ∧ cols ≤ 2 ^ 24
    ∧ fmt.toNat ≤ 9 ∧ cols % fmtBlock fmt = 0 ∧ rstride % 64 = 0 ∧ rowBytes fmt cols ≤ rstride ∧ 1 ≤ vers ∧ vers ≤ 8
    ∧ (vers = 1 ∨ (vstride % 64 = 0 ∧ rows * rstride ≤ vstride)) ∧ w 34 6 = 0 ∧ w 48 16 = 0
    ∧ (band = 0 ∨ (fmt = 7 ∧ band % 2 = 0 ∧ band < 2 ^ 57)))
  if ok then some {
    vbase := BitVec.ofNat 64 vbase, vstride := BitVec.ofNat 64 vstride, rows := rows, cols := cols, rstride := rstride
    fmt := fmt, vers := vers, band := BitVec.ofNat 64 band, home := home }
  else none

/-- The home die of a tensor: the HOME of its leaf where this device owns the region, else the lead die (R82, R288). -/
def State.tensorHome (s : State) (v : Slot) (a : Word) : DieId :=
  match s.walk v.lead false (s.slotAsid v) a.toNat with
  | .home d => d
  | .leaf e _ _ => Fin.ofNat 4 (bits e 19 2)
  | _ => v.lead

/-- Declares a name over a FREE descriptor (R288). -/
def State.declare (s : State) (i : SlotId) (n : BitVec 6) (d : Decl) (desc : Nat) : State :=
  let k := BitVec.ofNat 10 desc
  let s := s.setDesc desc ⟨d.vbase, 0, d.home, n, i, .committed, none⟩
  s.setSlot i ((s.slot i).setName n ⟨k, k, some d, 1⟩)

/-- TDECL (R288): a declared name waits for its last store-drain reader, and its descriptor is freed outright. -/
def execTdecl (f : SFields) (s : State) : Host.Outcome State Fault Refusal :=
  .next (s.startWork (fun _ _ => if inSpaces [0] 64 f.imm64 then none else some 7) fun i e =>
    s.withBytes i e f.imm64 64 fun s b =>
      let v := s.slot i
      let record := BitVec.ofNat 64 (leNat (b.take 8))
      match declOf b (s.tensorHome v record) with
      | none => (s.dropStaged (.stream i e.n)).badOperand i e 0x50 7
      | some d =>
        let old := v.name f.dst
        if v.drain.any (fun x => x.e.srcs.any fun o => o.name == f.dst) then s
        else
          let s := if old.decl.isSome then s.freeDesc old.commit.toNat else s
          match s.freeDescriptor with
          | none => s
          | some k => (s.declare i f.dst d k).doneAt i e (e.pc + 16))

/-! ### Branches and loops (R300 to R302) -/

/-- The spaces of a control word. -/
def wordOk (a : Word) : Bool := inSpaces [0, 10, 11, 13] 8 a

/-- A decode-resolved instruction is DONE, and fetch continues at once (R276, R277). -/
def State.resolve (s : State) (i : SlotId) (e : Entry) (goto : Word) (count : BitVec 32) : State :=
  let v := s.slot i
  let to_ := goto &&& 0x1FFFFFFFFFFFFFF#64
  let e := { e with st := .done, started := true, goto := some to_, count := count }
  s.setSlot i { v.setEntry e with
    spc := to_, stopped := false, decodeLoops := loopStep e.op e.pc count v.decodeLoops }

/-- SBR (R300). -/
def execSbr (f : SFields) (s : State) : Host.Outcome State Fault Refusal :=
  .next (s.startWork (fun _ _ => if f.mode = 0 ∨ wordOk f.imm64 then none else some 7) fun i e =>
    let target := e.pc + 16 * f.aux.signExtend 64
    if f.mode = 0 then s.resolve i e target 0
    else s.withBytes i e f.imm64 8 fun s b =>
      s.doneAt i e (if decide (leNat b = 0) == decide (f.mode = 2) then target else e.pc + 16))

/-- Whether a loop of a count cannot open: all four levels are open (R301). -/
def loopFull (v : Slot) (count : Nat) : Bool := count != 0 && decide (4 ≤ v.decodeLoops.length)

/-- Where fetch goes after a `SLOOP` of a count (R301). -/
def loopTarget (f : SFields) (e : Entry) (count : Nat) : Word :=
  if count = 0 then e.pc + 16 * f.aux.zeroExtend 64 + 16 else e.pc + 16

/-- SLOOP (R301). -/
def execSloop (f : SFields) (s : State) : Host.Outcome State Fault Refusal :=
  .next (s.startWork (fun i _ =>
      if f.aux = 0 then some 6
      else if f.mode.getLsbD 0 then
        if 2 ^ 32 ≤ f.imm64.toNat then some 7 else if loopFull (s.slot i) f.imm64.toNat then some 6 else none
      else if wordOk f.imm64 then none else some 7) fun i e =>
    if f.mode.getLsbD 0 then s.resolve i e (loopTarget f e f.imm64.toNat) (f.imm64.extractLsb' 0 32)
    else s.withBytes i e f.imm64 8 fun s b =>
      let n := leNat b
      let v := s.slot i
      let c := BitVec.ofNat 32 n
      if 2 ^ 32 ≤ n then (s.dropStaged (.stream i e.n)).badOperand i e 0x50 7
      else if loopFull v n then (s.dropStaged (.stream i e.n)).badOperand i e 0x50 6
      else (s.setSlot i { v with decodeLoops := loopStep e.op e.pc c v.decodeLoops }).doneAt i { e with count := c }
        (loopTarget f e n))

/-- SENDLOOP (R301). -/
def execSendloop (_ : SFields) (s : State) : Host.Outcome State Fault Refusal :=
  .next (s.startWork (fun i _ => if (s.slot i).decodeLoops.isEmpty then some 0 else none) fun i e =>
    match (s.slot i).decodeLoops.getLast? with
    | some t => s.resolve i e (if t.count - 1 = 0 then e.pc + 16 else t.start) 0
    | none => s)

/-- SSWITCH (R302). -/
def execSswitch (f : SFields) (s : State) : Host.Outcome State Fault Refusal :=
  .next (s.startWork (fun _ _ => if wordOk f.imm64 then none else some 7) fun i e =>
    s.withBytes i e f.imm64 8 fun s b =>
      s.doneAt i e (e.pc + 16 + BitVec.ofNat 64 (16 * min (leNat b) f.aux.toNat)))

/-! ### Waiting, signalling, fencing and halting (R303) -/

/-- The spaces of a flag word. -/
def flagOk (a : Word) : Bool := inSpaces [10, 11, 13] 8 a

/-- A poll of the flag word of a `SWAIT`, and the next one 64 die cycles later. -/
def State.poll (s : State) (i : SlotId) (e : Entry) : State :=
  let f := e.fields
  let t := f.mode.toNat * 65536 + f.aux.toNat
  s.withBytes i e f.imm64 8 fun s b =>
    let s := s.dropStaged (.stream i e.n)
    if (leNat b + 2 ^ 24 - t) % 2 ^ 24 < 2 ^ 23 then s.putEntry i { e with st := .done, started := true }
    else s.putEntry i { e with started := true, poll := s.cycle (s.slot i).lead + 64 }

/-- SWAIT (R303). -/
def execSwait (f : SFields) (s : State) : Host.Outcome State Fault Refusal :=
  .next (s.startWork (fun _ _ => if flagOk f.imm64 then none else some 7) fun i e => s.poll i e)

/-- SWAIT_POLL (R303). -/
def execSwaitPoll (s : State) : Host.Outcome State Fault Refusal :=
  s.atEntry fun i n =>
    let v := s.slot i
    match v.entry? n with
    | some e =>
      if e.op = 0x64 ∧ e.st = .issued ∧ e.started ∧ !e.discarded ∧ e.poll ≤ s.cycle v.lead then s.poll i e else s
    | none => s

/-- SSIGNAL (R303): DONE at issue, and one arrival from the drain. -/
def execSsignal (f : SFields) (s : State) : Host.Outcome State Fault Refusal :=
  .next (s.startWork (fun _ _ => if flagOk f.imm64 then none else some 7) fun i e => s.beginDrained i e 1)

/-- SFENCE (R303): it waits for the drain. -/
def execSfence (_ : SFields) (s : State) : Host.Outcome State Fault Refusal :=
  .next (s.startWork (fun _ _ => none) fun i e => s.beginSteps i e 0)

/-- SHALT (R303): it waits for the drain, and with a flag address one arrival follows from it. -/
def execShalt (f : SFields) (s : State) : Host.Outcome State Fault Refusal :=
  .next (s.startWork (fun _ _ => if f.imm64 = 0 ∨ flagOk f.imm64 then none else some 7) fun i e =>
    s.beginSteps i e (if f.imm64 = 0 then 0 else 1))

/-! ### Ownership (R304) -/

/-- The descriptor of an `own` that `SOWN` makes (R187, R304). -/
def sownDesc (f : SFields) : Word :=
  f.imm64 &&& 0x1FFFE0#64 ||| (f.aux.extractLsb' 0 2).zeroExtend 64 <<< 21 ||| (f.aux.extractLsb' 2 2).zeroExtend 64 <<< 23
    ||| (f.aux.extractLsb' 4 2).zeroExtend 64 <<< 25 ||| (f.aux.extractLsb' 6 5).zeroExtend 64 <<< 27

/-- SOWN (R304): the request goes out as `own` does, with the lead device as requester. -/
def execSown (f : SFields) (s : State) : Host.Outcome State Fault Refusal :=
  .next (s.startWork (fun _ _ =>
      if field f.imm64 57 7 ≠ 0 ∨ field f.imm64 0 5 ≠ 0 then some 7
      else if 2 ^ 11 ≤ f.aux.toNat ∨ s.dieCount ≤ bits f.aux.toNat 0 2 ∨ bits f.aux.toNat 2 2 = 3 ∨ bits f.aux.toNat 4 2 = 3
      then some 6 else none) fun i e =>
    let region := f.imm64 &&& ~~~ 0x1FFFFF#64
    let r := s.readerReq (s.leadReader i e.n) region (.own (sownDesc f)) [] .none
    (s.addReq { r with route := none }).beginSteps i e 0)

/-! ### Groups (R53, R54, R156, R298, R384) -/

/-- A group descriptor: GID, PART and the members. -/
structure GroupDesc where
  gid : BitVec 8
  part : Nat
  members : List Nat
  deriving DecidableEq, Repr

/-- What the reading of group descriptors comes to. -/
inductive GroupsRead
  | ready (l : List GroupDesc)
  | waiting
  | fault (code : BitVec 8) (addr : Word)
  | broken

/-- Reads group descriptors one after another (R156, R298). -/
def State.readGroups (s : State) (a : Reader) (addr : Word) : Nat → State × GroupsRead
  | 0 => (s, .ready [])
  | k + 1 =>
    match s.pull a addr 8 with
    | (s, .waiting) => (s, .waiting)
    | (s, .fault c x) => (s, .fault c x)
    | (s, .ready h) =>
      let w := leNat h
      let part := bits w 8 5
      let n := bits w 13 13
      if 2 ^ 26 ≤ w ∨ part < 1 ∨ 16 < part ∨ n < 1 ∨ 4864 < n then (s, .broken)
      else
        let size := 8 * ((n + 3) / 4)
        match s.pull a (addr + 8) size with
        | (s, .waiting) => (s, .waiting)
        | (s, .fault c x) => (s, .fault c x)
        | (s, .ready b) =>
          let l := (groups 2 b).map leNat
          if (l.drop n).any (fun x => x != 0) then (s, .broken)
          else match s.readGroups a (addr + 8 + BitVec.ofNat 64 size) k with
            | (s, .ready r) => (s, .ready (⟨BitVec.ofNat 8 w, part, l.take n⟩ :: r))
            | x => x

/-- Membership registers by core. -/
abbrev GroupRegs := List (Nat × List Word)

/-- A core's registers after a descriptor: the one that holds GID is rewritten, else the lowest invalid one; a core that left is
invalidated. None where a core has no register left. -/
def regsAfter (g : GroupDesc) (member : Option Nat) (l : List Word) : Option (List Word) :=
  let holds (w : Word) : Bool := bitOf w 63 && w.extractLsb' 0 8 == g.gid
  let word (index : Nat) : Word :=
    BitVec.ofNat 64 (g.gid.toNat + index * 2 ^ 8 + g.members.length * 2 ^ 21 + g.part * 2 ^ 34 + 2 ^ 63)
  match member, l.findIdx? holds with
  | none, some k => some (l.set k 0)
  | none, none => some l
  | some j, some k => some (l.set k (word j))
  | some j, none => (l.findIdx? fun w => !bitOf w 63).map fun k => l.set k (word j)

/-- Registers of all window cores after descriptors in order, or none where a core would take a fifth group. -/
def groupRegs (window : List Nat) : List GroupDesc → GroupRegs → Option GroupRegs
  | [], l => some l
  | g :: rest, l =>
    let index (core : Nat) : Option Nat := g.members.findIdx? fun m => window[m]? == some core
    match l.mapM (fun (x : Nat × List Word) => (regsAfter g (index x.1) x.2).map fun r => (x.1, r)) with
    | some l => groupRegs window rest l
    | none => none

/-- What an abandoned generation leaves at a hart (R384). -/
def State.abandonHart (s : State) (h : HartRef) (gid : BitVec 8) : State :=
  let v := s.hart h
  match v.arrived with
  | none => s
  | some a =>
    if a.gid ≠ gid then s
    else if a.kind.isSome then
      let s := s.fillArrived h a 0
      s.setHart h { s.hart h with arrived := none }
    else if v.st = .parked ∧ v.wait = .barrier ∧ v.job = .none then
      s.setHart h { v.moveTo .running s.refTime with wait := .none, arrived := none, issueFrom := s.coreCycle h.core + 2 }
    else s.setHart h { v with arrived := none }

/-- A group's outstanding generation is abandoned at every window core (R384). -/
def State.abandonGroup (s : State) (ctx : BitVec 8) (window : List Nat) (gid : BitVec 8) : State :=
  let keep (m : Msg) : Bool := match m.body with
    | .barrierReport c g _ _ _ _ _ | .barrierDone c g _ _ _ _ => !(c == ctx && g == gid)
    | _ => true
  window.foldl (fun (s : State) (core : Nat) =>
    let s := (List.finRange 16).foldl (fun (s : State) (h : HartId) => s.abandonHart ⟨core, h⟩ gid) s
    let c := s.core core
    s.setCore core { c with arrivals := c.arrivals.filter fun a => a.gid != gid }) { s with msgs := s.msgs.filter keep }

/-- The registers and the group table of a context take descriptors (R53, R54, R298). -/
def State.setGroups (s : State) (ctx : BitVec 8) (c : Ctx) (clear : Bool) (l : List GroupDesc) (regs : GroupRegs) : State :=
  let gone : List (BitVec 8) := (if clear then c.groups.map (·.gid) else []) ++ l.map (·.gid)
  let s := gone.foldl (fun (s : State) (g : BitVec 8) => s.abandonGroup ctx c.window g) s
  let kept := if clear then [] else c.groups.filter fun g => !l.any fun x => x.gid == g.gid
  let fresh (g : GroupDesc) : Group := ⟨g.gid, g.part, g.members, [], none, none, none⟩
  let latest := l.zipIdx.filterMap fun (g, k) => if (l.drop (k + 1)).any (fun x => x.gid == g.gid) then none else some (fresh g)
  let s := s.setCtx ctx { c with groups := kept ++ latest }
  regs.foldl (fun (s : State) (x : Nat × List Word) =>
    s.setCore x.1 { s.core x.1 with cgrp := #v[x.2.getD 0 0, x.2.getD 1 0, x.2.getD 2 0, x.2.getD 3 0] }) s

/-- SGROUP (R298): every descriptor is checked before any register is written. -/
def execSgroup (f : SFields) (s : State) : Host.Outcome State Fault Refusal :=
  .next (s.startWork (fun _ _ =>
      if f.aux = 0 ∨ 256 < f.aux.toNat then some 6 else if inSpaces [0] 8 f.imm64 then none else some 7) fun i e =>
    let v := s.slot i
    let bad (s : State) : State := (s.dropStaged (.stream i e.n)).badOperand i e 0x50 7
    match s.readGroups (s.leadReader i e.n) f.imm64 f.aux.toNat with
    | (s, .waiting) => s
    | (s, .fault c x) => s.memoryMark i e c x
    | (s, .broken) => bad s
    | (s, .ready l) => match s.ctx? v.ctx with
      | none => bad s
      | some c =>
        let clear := f.mode.getLsbD 0
        let start : GroupRegs := c.window.map fun core =>
          (core, if clear then [0, 0, 0, 0] else (s.core core).cgrp.toList)
        if l.any (fun g => g.members.any fun m => decide (c.window.length ≤ m)) then bad s
        else match groupRegs c.window l start with
          | none => bad s
          | some regs =>
            ((s.setGroups v.ctx c clear l regs).dropStaged (.stream i e.n)).putEntry i { e with st := .done, started := true })

/-! ### Kernels (R56 to R58, R297, R383) -/

/-- The chain of a cluster: its enabled cores in ascending order (R57, R224). -/
def State.chain (s : State) (cluster : Nat) (die : DieId) : List Nat :=
  ((List.range 16).map fun k => 1280 * die.val + 16 * cluster + k).filter s.enabled

/-- Runs of n window cores at consecutive positions of a chain, each core admitted. -/
def chainRuns (chain : List Nat) (n : Nat) (allowed : Nat → Bool) : List (List Nat) :=
  (List.range chain.length).filterMap fun p =>
    let run := (chain.drop p).take n
    if run.length = n ∧ run.all allowed then some run else none

/-- Whether an entry is an `SKERN` of a gang. -/
def Entry.gang (e : Entry) : Bool := e.op == 0x40 && e.fields.aux.getLsbD 9

/-- Whether some cluster of the package has a run of window cores for a gang (R57, R424). -/
def State.gangFits (s : State) (window : List Nat) (n : Nat) : Bool :=
  (List.finRange 4).any fun d => (List.range 80).any fun k => !(chainRuns (s.chain k d) n window.contains).isEmpty

/-- The limits of `SKERN` (R297, R424), by the field that breaks one. -/
def State.skernBad (s : State) (i : SlotId) (f : SFields) : Option Nat :=
  let v := s.slot i
  let nin := bits f.aux.toNat 6 2
  let window := match s.ctx? v.ctx with | some c => c.window | none => []
  let n := f.mode.toNat + 1
  if v.kernels.length ≤ bits f.aux.toNat 0 6 ∨ bits f.aux.toNat 11 5 ≠ 0 then some 6
  else if f.aux.getLsbD 8 ∧ f.dst ≠ 0 then some 1
  else if nin < 1 ∧ f.s1 ≠ 0 then some 2
  else if nin < 2 ∧ f.s2 ≠ 0 then some 3
  else if nin < 3 ∧ f.s3 ≠ 0 then some 4
  else if f.aux.getLsbD 9 ∧ (n < 2 ∨ 16 < n ∨ !s.gangFits window n) then some 5
  else none

/-- SKERN (R297): its tasks are placed by steps of the dispatcher. -/
def execSkern (f : SFields) (s : State) : Host.Outcome State Fault Refusal :=
  .next (s.startWork (fun i _ => s.skernBad i f) fun i e => s.beginSteps i e 0)

/-- Load of a core for a stream: dispatcher entries and harts that run its tasks (R56). -/
def State.streamLoad (s : State) (i : SlotId) (core : Nat) : Nat :=
  let c := s.core core
  c.queued .stream + (c.harts.toList.filter fun h =>
    h.st != .off && taskSt h.taskWord && taskSlot h.taskWord == i).length

/-- The cores on which an `SKERN` is placed now (R56, R57): one for a task, which waits where the core of least load has no room
(R46), all of a gang, at the lowest free run of the chain of its cluster, or none. `closed` is the clusters for which older gangs
wait. DESIGN CHOICE (log 60). -/
def State.placement (s : State) (i : SlotId) (e : Entry) (closed : List Nat) : List Nat :=
  let v := s.slot i
  let window := match s.ctx? v.ctx with | some c => c.window | none => []
  let die := s.executionDie v e
  let clusterKey (core : Nat) : Nat := core / 16
  let allowed (core : Nat) : Bool :=
    window.contains core && s.usable core && (s.core core).roomFor .stream && !s.vacating core
      && !closed.contains (clusterKey core)
  if e.gang then
    let n := e.fields.mode.toNat + 1
    let after : Option Nat := if e.fields.aux.getLsbD 10 then e.srcs.head?.bind fun o => (s.desc o.desc.toNat).gang else none
    match after with
    | some last =>
      let chain := s.chain (clusterOf last) (dieOf last)
      ((chainRuns ((chain.dropWhile fun c => c != last).drop 1) n allowed).find? fun r =>
        r.head? == ((chain.dropWhile fun c => c != last).drop 1).head?).getD []
    | none =>
      let load (k : Nat) : Nat := ((window.filter fun c => dieOf c == die && clusterOf c == k).map (s.streamLoad i)).sum
      let clusters := (List.range 80).filter fun k => !(chainRuns (s.chain k die) n allowed).isEmpty
      match leastBy load clusters with
      | some k => (chainRuns (s.chain k die) n allowed).headD []
      | none => []
  else match State.placeOn (window.filter s.usable) die.val (s.streamLoad i) with
    | some c => if allowed c then [c] else []
    | none => []

/-- The clusters for which a gang waits (R58): those whose chains could hold it. -/
def State.waitingClusters (s : State) (i : SlotId) (e : Entry) : List Nat :=
  let v := s.slot i
  let window := match s.ctx? v.ctx with | some c => c.window | none => []
  let die := s.executionDie v e
  let last : Option Nat := if e.fields.aux.getLsbD 10 then e.srcs.head?.bind fun o => (s.desc o.desc.toNat).gang else none
  match last with
  | some core => [core / 16]
  | none => ((List.range 80).filter fun k =>
      !(chainRuns (s.chain k die) (e.fields.mode.toNat + 1) window.contains).isEmpty).map fun k => 80 * die.val + k

/-- The record of task number k of an `SKERN` (R43, R297). -/
def taskRecord (i : SlotId) (v : Slot) (e : Entry) (k : Nat) : List Byte :=
  let f := e.fields
  let nin := bits f.aux.toNat 6 2
  let pc := v.kernels.getD (bits f.aux.toNat 0 6) 0
  let dst : Word := match e.dst with | some o => o.addr | none => 0
  let values : List Word := [BitVec.ofNat 64 (k + (f.mode.toNat + 1) * 65536), f.imm64, dst] ++ (e.srcs.take nin).map (·.addr)
  makeRecord pc (2 ^ 10 * (2 ^ values.length - 1)) none
    (BitVec.ofNat 64 (2 ^ 35 + 2 ^ 36 * i.val + 2 ^ 40 * (e.n % 256))) values

/-- Places the next tasks of an `SKERN` on cores, each with its entry line (R60, R297). DEDUCED (log 59). -/
def State.placeTasks (s : State) (i : SlotId) (e : Entry) (cores : List Nat) : State :=
  let v := s.slot i
  let k := bits e.fields.aux.toNat 0 6
  let line (core : Nat) : Option (Nat × Wide) :=
    (tableGet v.entryLines (64 * (dieOf core).val + k)).map fun b => (lineOf (v.kernels.getD k 0), b)
  let s := cores.zipIdx.foldl (fun (s : State) (x : Nat × Nat) =>
    let c := s.core x.1
    s.setCore x.1 { c with tasks := c.tasks ++
      [⟨taskRecord i v e (e.placed + x.2), e.fields.prio, .stream, s.coreCycle x.1, line x.1⟩] }) s
  let e := { e with placed := e.placed + cores.length, lastCore := cores.getLastD e.lastCore }
  let s := s.putEntry i e
  match e.dst with
  | some o => s.setDesc o.desc.toNat { s.desc o.desc.toNat with gang := if e.gang then some e.lastCore else none }
  | none => s

/-- Puts an entry into a list that is in order of age (R58). -/
def byAge (x : SlotId × Entry) : List (SlotId × Entry) → List (SlotId × Entry)
  | [] => [x]
  | y :: rest => if x.2.age < y.2.age then x :: y :: rest else y :: byAge x rest

/-- Whether the conditions of R280 on a HELD entry hold but for its resources. -/
def State.issuable (s : State) (i : SlotId) (e : Entry) : Bool :=
  let v := s.slot i
  let older := v.window.filter fun p => decide (p.n < e.n)
  e.st == .held && !e.discarded && !resolves e.op e.fields && sourcesReady older e && inPlaceReady v older e && rawReady v older e
    && !older.any (fun p => p.holds e) && (!e.onlyOldest || older.isEmpty)
    && (drains e.op e.fields || s.releaseReady i e)

/-- The issued `SKERN` with tasks to place of the slots that a die leads, oldest first (R58). -/
def State.unplaced (s : State) (d : DieId) : List (SlotId × Entry) :=
  let waits (i : SlotId) (e : Entry) : Bool := e.op == 0x40 && !e.discarded
    && ((e.st == .issued && decide (e.placed < e.fields.mode.toNat + 1))
      || (e.st == .held && e.undeclared.isNone && (s.skernBad i e.fields).isNone && !s.slotHeld i && s.issuable i e))
  ((List.finRange 16).flatMap fun (i : SlotId) =>
    let v := s.slot i
    if v.st = .running ∧ v.lead = d then (v.window.filter (waits i)).map fun e => (i, e) else []).foldl (fun l x => byAge x l) []

/-- The oldest `SKERN` of a list that can be placed, with its cores (R58); one whose work is still to start comes first. The list
holds every slot that the die leads, in order of age. DESIGN CHOICE (log 73). -/
def State.nextPlacement (s : State) (closed : List Nat) : List (SlotId × Entry) → Option (SlotId × Entry × List Nat)
  | [] => none
  | (i, e) :: rest =>
    if e.st = .issued ∧ !e.started then none
    else match s.placement i e closed with
      | [] => s.nextPlacement (if e.gang then closed ++ s.waitingClusters i e else closed) rest
      | cores => if e.st = .held then none else some (i, e, cores)

/-- Whether an `SKERN` that has not issued could be placed now (R58, R280): outside the clusters for which older gangs wait. -/
def State.placeable (s : State) (i : SlotId) (e : Entry) : Bool :=
  let older := (s.unplaced (s.slot i).lead).filter fun x => decide (x.2.age < e.age) && x.2.gang
  !(s.placement i e (older.flatMap fun x => s.waitingClusters x.1 x.2)).isEmpty

/-- SKERN_TASK_PLACEMENT (R56 to R58, R297): one task, or one gang, in a die cycle of the lead. -/
def execSkernTaskPlacement (s : State) : Host.Outcome State Fault Refusal :=
  s.atSlot fun i =>
    let v := s.slot i
    let now := s.cycle v.lead + 1
    if v.st ≠ .running ∨ (s.die v.lead).lastPlace = now ∨ s.slotHeld i then s
    else match s.nextPlacement [] (s.unplaced v.lead) with
      | some (j, e, cores) =>
        if j = i ∧ cores.all (fun c => s.routeOpen v.lead (dieOf c)) then (s.setDie v.lead { s.die v.lead with lastPlace := now }).placeTasks i e cores else s
      | none => s

/-- TASK_END_REPORT (R297, R383): an end that names no `SKERN` of the context with tasks outstanding is discarded. -/
def execTaskEndReport (s : State) : Host.Outcome State Fault Refusal :=
  s.atRequest fun n =>
    match s.msg? n with
    | some (.taskEnd i entry ctx faulted code addr who) =>
      let v := s.slot i
      if !s.routeOpen (s.msgDie n) v.lead then s
      else
      let s := s.dropMsg n
      (match v.window.find? (fun e => e.n % 256 == entry && e.op == 0x40) with
       | some e =>
         if v.ctx ≠ ctx ∨ v.st = .free ∨ e.placed ≤ e.ended then s
         else
           let s := s.putEntry i { e with ended := e.ended + 1 }
           let e := { e with ended := e.ended + 1 }
           match faulted, e.st with
           | true, .issued => s.markEntry i e 0x52 4 addr (code.zeroExtend 16) who
           | _, _ => s
       | none => s)
    | _ => s

/-! ### Completion (R277) -/

/-- Whether the work of a started entry has ended as its description says. -/
def State.workDone (s : State) (i : SlotId) (e : Entry) : Bool :=
  let v := s.slot i
  let quiet := !s.busy (.stream i e.n)
  match e.op.toNat with
  | 0x10 | 0x12 | 0x20 | 0x21 | 0x22 | 0x23 | 0x51 => e.step == e.steps && quiet
  | 0x24 | 0x30 | 0x31 | 0x32 => e.parts.isEmpty && quiet
  | 0x40 => e.allPlaced && e.ended == e.placed
  | 0x66 => !v.drain.any fun d => s.drainInScope i e.fields.scope d
  | 0x67 => v.drain.isEmpty
  | 0x70 => quiet
  | _ => false

/-- STREAM_ENTRY_DONE (R269, R277, R369): a discarded entry leaves once its work has ended. -/
def execStreamEntryDone (s : State) : Host.Outcome State Fault Refusal :=
  s.atEntry fun i n =>
    let v := s.slot i
    match v.entry? n with
    | some e =>
      if e.discarded then
        if s.workLeft i e then s
        else (s.setSlot i { v with window := v.window.filter fun x => x.n != n }).sweep i
      else if e.st = .issued ∧ e.started ∧ s.workDone i e then s.putEntry i { e with st := .done }
      else s
    | none => s

end Sys2Proof.Machine
end

