-- ==== Sys2Proof/Machine/Cellar.lean ====
section
/-! DEFINITION. The Cellar instructions: conversion, gather, scatter and reduction in parts at the stacks, here and on other
devices (R23, R285, R286, R295, R296, R392). -/

namespace Sys2Proof.Machine

/-! ### Where a row lies (R82, R83, R286, R392) -/

/-- Where the first byte of a row lies. -/
inductive RowAt
  | stack (k : Fin 8)
  | away (device : Nat)
  /-- Its chunk is being copied from the stack, and an access waits (R87). -/
  | moving (k : Fin 8)
  | fault (code : BitVec 8)
  deriving DecidableEq, Repr

/-- The stack of a byte by the tables of the die of this device that owns its region. -/
def State.leafStack (s : State) (die : DieId) (asid : BitVec 16) (va : Nat) : RowAt :=
  match s.walk die false asid va with
  | .leaf e _ large =>
    let (d, p) := leafPlace e large va
    .stack (Fin.ofNat 8 (2 * d + channelOf e p / 16))
  | .fault c => .fault c
  | .soft => .fault cHomeSoft
  | .home _ => .fault cBadPte
  | .remote device _ => .away device

/-- Where a byte lies at the die that owns its region, or to which it moves, by its chunk (R87). -/
def State.stackAt (s : State) (die : DieId) (asid : BitVec 16) (va : Nat) : RowAt :=
  match s.regionState die asid va with
  | some (.forward device x _) => if device = s.device.toNat then s.leafStack x asid va else .away device
  | some _ => (match s.leafStack die asid va with
    | .stack k => .moving k
    | x => x)
  | none => s.leafStack die asid va

/-- Where a byte lies as a die finds it by its tables, or by the owner cache of its sequencer (R286). -/
def State.whereIs (s : State) (at_ : DieId) (cached : Bool) (asid : BitVec 16) (va : Nat) : State × RowAt :=
  match (if cached then s.sequencerOwner at_ asid va else (s, s.agentOwner at_ asid va)) with
  | (s, .inl c) => (s, .fault c)
  | (s, .inr (device, die)) => (s, if device = s.device.toNat then s.stackAt die asid va else .away device)

/-- Address of table row n of a part (R296). -/
def tableRow (w : CellarWork) (n : Nat) : Word :=
  (streamFields w.word).imm64 + BitVec.ofNat 64 (n * w.data.rstride)

/-- OP of a part. -/
def cellarOp (w : CellarWork) : Nat := (w.word.extractLsb' 0 8).toNat

/-- The columns that a conversion takes at once: those of a block of either format, or 8, which lie in one 64-byte line
(R295). -/
def granuleCols (w : CellarWork) : Nat :=
  let of (f : BitVec 8) : Nat := match f.toNat with | 5 | 6 => 32 | 7 => 64 | _ => 8
  max (of w.data.fmt) (of w.source.fmt)

/-- The columns of a granule of `SCVT`: where it begins, and how many, at most to the end of the row. DEDUCED (log 64). -/
def granule (w : CellarWork) (t : TensorForm) (g : Nat) : Nat × Nat :=
  (granuleCols w * g, min (granuleCols w) (t.cols - granuleCols w * g))

/-- Address of a granule of the source of `SCVT`. -/
def granuleAt (w : CellarWork) (x : Nat × Nat) : Word :=
  rowAt w.source x.1 + BitVec.ofNat 64 (rowBytes w.source.fmt (granule w w.source x.2).1)

/-- Address by which a row of a part is assigned to a stack (R285): its table row, or for `SCVT` the 4 KiB block of S1 in which its
granule begins. DESIGN CHOICE (log 103): what lies in blocks of two stacks goes by its first byte. -/
def partRow (w : CellarWork) (x : Nat × Nat) : Word :=
  if cellarOp w = 0x24 then granuleAt w x &&& ~~~ 0xFFF#64 else tableRow w x.2

/-- The engine of a part's operation. -/
def partEngine (w : CellarWork) : CellarEngine :=
  match cellarOp w with
  | 0x24 => .conversion
  | 0x32 => .reduction
  | _ => .gather

/-- Rows by place; those of chunks that are being copied stand apart only where a part works. -/
structure Split where
  here : List (Fin 8 × List (Nat × Nat))
  away : List (Nat × List (Nat × Nat))
  moving : List (Nat × Nat)
  fault : Option (BitVec 8 × Word)
  deriving DecidableEq, Repr

/-- Adds a row to the list of a key. -/
def addRow {α : Type} [DecidableEq α] (l : List (α × List (Nat × Nat))) (k : α) (x : Nat × Nat) : List (α × List (Nat × Nat)) :=
  match l with
  | [] => [(k, [x])]
  | (k', r) :: rest => if k = k' then (k', r ++ [x]) :: rest else (k', r) :: addRow rest k x

/-- Splits the rows of a part by stack and by owner (R285, R286). -/
def State.splitRows (s : State) (at_ : DieId) (cached working : Bool) (w : CellarWork) : State × Split :=
  w.rows.foldl (fun (a : State × Split) (x : Nat × Nat) =>
    let (s, l) := a
    match s.whereIs at_ cached w.asid (partRow w x).toNat with
    | (s, .stack k) => (s, { l with here := addRow l.here k x })
    | (s, .away d) => (s, { l with away := addRow l.away d x })
    | (s, .moving k) => (s, if working then { l with moving := l.moving ++ [x] } else { l with here := addRow l.here k x })
    | (s, .fault c) => (s, { l with fault := some (l.fault.getD (c, partRow w x)) })) (s, ⟨[], [], [], none⟩)

/-- The engine of an entry that issued with places at engines. -/
def Entry.engine (e : Entry) : CellarEngine :=
  match e.op.toNat with
  | 0x24 => .conversion
  | 0x32 => .reduction
  | _ => .gather

/-- Parts in the queue of an engine of a stack, with the places that issued entries hold there (R285). -/
def State.engineLoad (s : State) (k : Fin 8) (e : CellarEngine) : Nat :=
  (s.cellar.filter fun x => x.1 == k && x.2.1 == e).length
    + ((List.finRange 16).map fun (i : SlotId) => ((s.slot i).window.filter fun x => x.room.contains k && x.engine == e).length).sum

/-- Whether every engine that rows need has room (R285). -/
def State.engineRoom (s : State) (w : CellarWork) (here : List (Fin 8 × List (Nat × Nat))) : Bool :=
  here.all fun x => decide (s.engineLoad x.1 (partEngine w) < 8)

/-- Queues the parts of this device with the hop count that they came with; their numbers are answered. -/
def State.queueParts (s : State) (owner : PartOwner) (w : CellarWork) (hops : Nat) (here : List (Fin 8 × List (Nat × Nat))) :
    State × List Nat :=
  here.foldl (fun (a : State × List Nat) (x : Fin 8 × List (Nat × Nat)) =>
    let s := a.1
    ({ s with
        cellar := s.cellar ++ [(x.1, partEngine w, ⟨s.nextId, owner, { w with rows := x.2 }, false, x.2.length, hops⟩)],
        nextId := s.nextId + 1 },
      a.2 ++ [s.nextId])) (s, [])

/-- Sends remote parts from the lead's die: each has a number, which is answered once for each of its rows. -/
def State.sendParts (s : State) (lead : DieId) (w : CellarWork) (away : List (Nat × List (Nat × Nat))) : State × List Nat :=
  away.foldl (fun (a : State × List Nat) (x : Nat × List (Nat × Nat)) =>
    let s := a.1
    let n := s.nextId
    (State.toFabric { s with nextId := n + 1 } lead x.1 (.cellarPart s.device.toNat n { w with rows := x.2 } 0),
      a.2 ++ List.replicate x.2.length n)) (s, [])

/-- What forbids sending rows to other devices: one outside the domain (R286), or no live path (R404). -/
def State.awayFault (s : State) (w : CellarWork) (away : List (Nat × List (Nat × Nat))) : Option (BitVec 8 × Word) :=
  away.findSome? fun x =>
    let at_ : Word := match x.2 with | r :: _ => partRow w r | [] => 0
    if s.domSize.toNat ≤ x.1 then some (cUnbacked, at_) else if (s.livePaths x.1).isEmpty then some (0x32, at_) else none

/-- A part's fault marks its instruction with SCELLAR, once (R397, R424). -/
def State.cellarMark (s : State) (i : SlotId) (e : Entry) (code : BitVec 8) (addr : Word) : State :=
  match e.st with
  | .marked _ _ => s
  | _ => s.markEntry i e 0x54 6 addr (code.zeroExtend 16) (s.agentWord (s.slot i).lead)

/-- Starts the parts of an instruction at the places that it holds; rows that have moved since its issue wait for room (R285,
R286). -/
def State.startParts (s : State) (i : SlotId) (e : Entry) (w : CellarWork) : State :=
  let lead := (s.slot i).lead
  let (s, p) := s.splitRows lead true false w
  match p.fault <|> s.awayFault w p.away with
  | some (c, x) => (s.dropStaged (.stream i e.n)).cellarMark i e c x
  | none =>
    let free := s.putEntry i { e with room := [] }
    if !free.engineRoom w p.here then s
    else
      let (s, a) := free.queueParts (.entry i e.n) w 0 p.here
      let (s, b) := s.sendParts lead w p.away
      (s.dropStaged (.stream i e.n)).putEntry i { e with started := true, room := [], parts := a ++ b }

/-- The work of an entry without its rows. -/
def State.workOf (s : State) (i : SlotId) (e : Entry) (data source : TensorForm) : CellarWork :=
  let v := s.slot i
  ⟨e.word, s.slotAsid v, v.ctx, s.streamCompat v.ctx, data, source, []⟩

/-- The limits of `SGATHER`, `SSCATTER` and `SREDUCE` (R296, R424). -/
def tableBad (f : SFields) (reduce : Bool) (dataField indexField : Nat) (data index : TensorForm) : Option Nat :=
  let l := f.mode.toNat % 64
  if !inSpaces [0] 64 f.imm64 then some 7
  else if l < 6 ∨ 40 < l then some 5
  else if index.fmt ≠ 2 ∨ index.cols ≠ 1 ∨ index.rows ≠ data.rows then some indexField
  else if reduce ∧ 3 < data.fmt.toNat then some dataField
  else none

/-- What the rows of a Cellar instruction come to. -/
inductive WorkRead
  | ready (w : CellarWork)
  | waiting
  | fault (code : BitVec 8) (addr : Word)

/-- The granules of `SCVT` (R295). -/
def granules (w : CellarWork) : List (Nat × Nat) :=
  (List.range w.source.rows).flatMap fun r =>
    (List.range ((w.source.cols + granuleCols w - 1) / granuleCols w)).map fun g => (r, g)

/-- The data tensor and the index tensor of a table instruction. -/
def Entry.table (e : Entry) : TensorForm × TensorForm :=
  let (d, src) := e.tensors
  (d, if e.dst.isSome then src.headD d else src.getD 1 d)

/-- The work of a Cellar instruction with its rows: a table instruction reads its indices, and a row outside the table is a fault
(R296, R424). -/
def State.readWork (s : State) (i : SlotId) (e : Entry) : State × WorkRead :=
  let f := e.fields
  let (d, index) := e.table
  if e.op = 0x24 then
    let a := e.tensors.2.headD d
    let w := s.workOf i e d a
    (s, .ready { w with rows := granules w })
  else match s.pullSpans (s.leadReader i e.n) ((List.range index.rows).map fun r => (rowAt index r, 4)) with
    | (s, .waiting) => (s, .waiting)
    | (s, .fault c x) => (s, .fault c x)
    | (s, .ready b) =>
      let w := s.workOf i e d d
      let rows : List (Nat × Nat) := b.zipIdx.map fun (x, r) => (r, leNat x)
      match rows.find? (fun x => decide (2 ^ (f.mode.toNat % 64) < x.2 * d.rstride + rowSize d)) with
      | some x => (s, .fault 0 (tableRow w x.2))
      | none => (s, .ready { w with rows := rows })

/-- A Cellar instruction starts (R285, R286, R295, R296). -/
def State.startCellar (s : State) (i : SlotId) (e : Entry) : State :=
  match s.readWork i e with
  | (s, .waiting) => s
  | (s, .fault c x) => (s.dropStaged (.stream i e.n)).cellarMark i e c x
  | (s, .ready w) => s.startParts i e w

/-- The issue of a Cellar instruction (R280, R285, R286): it reads its indices, and takes a place at every engine of this device that
it needs. It waits, HELD, for its reads and for room; where a row faults, it needs none. DEDUCED (log 63). -/
def State.cellarPlaces (s : State) (i : SlotId) (e : Entry) : State × Option (List (Fin 8)) :=
  match s.readWork i e with
  | (s, .waiting) => (s, none)
  | (s, .fault _ _) => (s, some [])
  | (s, .ready w) =>
    let (s, p) := s.splitRows (s.slot i).lead true false w
    if p.fault.isSome then (s, some [])
    else if s.engineRoom w p.here then (s, some (p.here.map (·.1))) else (s, none)

/-- The limits of a table instruction by its tensors. -/
def Entry.tableBad (e : Entry) (f : SFields) (reduce : Bool) (dataField indexField : Nat) : Option Nat :=
  Machine.tableBad f reduce dataField indexField e.table.1 e.table.2

/-- SGATHER (R296). -/
def execSgather (f : SFields) (s : State) : Host.Outcome State Fault Refusal :=
  .next (s.startWork (fun _ e => e.tableBad f false 1 2) s.startCellar)

/-- SSCATTER (R296). -/
def execSscatter (f : SFields) (s : State) : Host.Outcome State Fault Refusal :=
  .next (s.startWork (fun _ e => e.tableBad f false 2 3) s.startCellar)

/-- SREDUCE (R296). -/
def execSreduce (f : SFields) (s : State) : Host.Outcome State Fault Refusal :=
  .next (s.startWork (fun _ e => e.tableBad f true 2 3) s.startCellar)

/-- The limits of `SCVT` (R295, R424). -/
def scvtBad (d a : TensorForm) : Option Nat :=
  if d.rows ≠ a.rows ∨ d.cols ≠ a.cols ∨ (d.fmt = 9) ≠ (a.fmt = 9) then some 1 else none

/-- SCVT (R295): granules of 64 elements go to the stacks of their source blocks. -/
def execScvt (_ : SFields) (s : State) : Host.Outcome State Fault Refusal :=
  .next (s.startWork (fun _ e => scvtBad e.tensors.1 (e.tensors.2.headD e.tensors.1)) s.startCellar)

/-- Whether the operands of a Cellar instruction break a limit. -/
def Entry.cellarBad (e : Entry) : Bool :=
  match e.op.toNat with
  | 0x24 => (scvtBad e.tensors.1 (e.tensors.2.headD e.tensors.1)).isSome
  | 0x30 => (e.tableBad e.fields false 1 2).isSome
  | 0x31 => (e.tableBad e.fields false 2 3).isSome
  | _ => (e.tableBad e.fields true 2 3).isSome

/-! ### Elements -/

/-- Elements of stored bytes as values (R295). -/
def storedVals (c : WinCtx) (fmt : BitVec 8) (b : List Byte) : List Val :=
  let whole (i : Int) : Val := .fin (decide (i < 0)) i.natAbs 0
  let of (f : Fmt) : List Val := (groups ((f.mag + 1) / 8) b).map fun x => unpack f (leNat x)
  match fmt.toNat with
  | 0 => of fp64
  | 1 => of fp32
  | 2 => (groups 4 b).map fun x => whole (BitVec.ofNat 32 (leNat x)).toInt
  | 3 => of bf16
  | 4 => of fp16
  | 8 => b.map fun x => whole x.toInt
  | _ => (groups 2 (windowRead c (fmtWindow fmt) b).1).map fun x => unpack bf16 (leNat x)

/-- Values encoded once (R295): floating in the window-encode mode, integers by RNE with saturation. -/
def encodeVals (c : WinCtx) (fmt : BitVec 8) (vs : List Val) : List Byte :=
  let of (f : Fmt) : List Byte := vs.flatMap fun v => leBytes (convert f c.rm c.nanpay v).1 ((f.mag + 1) / 8)
  match fmt.toNat with
  | 0 => of fp64
  | 1 => of fp32
  | 2 => vs.flatMap fun v => leBytes (toInteger 32 .rne v).1 4
  | 3 => of bf16
  | 4 => of fp16
  | 5 => (groups 32 vs).flatMap fun x => (encodeBlock e4m3 c x).1
  | 6 => (groups 32 vs).flatMap fun x => (encodeBlock e5m2 c x).1
  | 7 => (groups 64 vs).flatMap fun x => (encodeUnit c x).1
  | _ => vs.map fun v => BitVec.ofNat 8 (toInteger 8 .rne v).1

/-- A granule converted; formats of W0 that agree keep their bits. -/
def convertGranule (compat : Word) (d a : BitVec 8) (bandA bandD b : List Byte) : List Byte :=
  let ctx (x : List Byte) : WinCtx := ⟨bandOf x, bitOf compat 0, bitOf compat 2⟩
  if d = a ∧ fmtWindow a = 0 then b else encodeVals (ctx bandD) d (storedVals (ctx bandA) a b)

/-- The element format of a tensor's format (R296). -/
def reduceFormat (fmt : BitVec 8) : AddFormat :=
  match fmt.toNat with
  | 0 => .f64
  | 1 => .f32
  | 2 => .i32
  | _ => .bf16

/-- A list in an order that the spec leaves open (R296; log 17): each entry stands among the later ones where a free value
says. -/
def freeOrder {α : Type} (c : Nat) : List α → List α
  | [] => []
  | x :: rest => match freeOrder (c + 1) rest with
    | [] => [x]
    | l => l.insertIdx (Config.freeIndex c % (l.length + 1)) x

/-- Bytes at an address in pieces of n. -/
def piecesAt (n : Nat) (at_ : Word) (b : List Byte) : List (Word × List Byte) :=
  (groups n b).zipIdx.map fun x => (at_ + BitVec.ofNat 64 (n * x.2), x.1)

/-! ### Parts at work (R285, R286) -/

/-- How a part's rows end. -/
inductive PartEnd
  | waiting
  | fault (code : BitVec 8) (addr : Word)
  | done
  deriving DecidableEq, Repr

/-- Element updates of `SREDUCE` (R296): each is one read-modify-write at its home. -/
def State.reduceElements (s : State) (a : Reader) (f : AddFormat) (op : BitVec 2) : List (Word × List Byte) → State × PartEnd
  | [] => (s, .done)
  | (x, b) :: rest =>
    match s.near a x b.length ⟨false, true, true, false⟩ with
    | (s, .fault c) => (s, .fault c x)
    | (s, .far) => State.reduceElements (s.addReq (s.readerReq a x (.reduceEach f op) b .none)) a f op rest
    | (s, .keys k) =>
      if s.anyPoisoned k then (s, .fault cHomeSoft x)
      else (s.writeCells (s.spanCores a.core x b.length) (k.zip (reduceBytes f op (s.readKeys k) b))).reduceElements a f op rest

/-- What a part reads before it writes. -/
def partReads (w : CellarWork) : List (Word × Nat) :=
  match cellarOp w with
  | 0x30 => w.rows.map fun x => (tableRow w x.2, rowSize w.data)
  | 0x24 => w.rows.flatMap fun x =>
    [(granuleAt w x, rowBytes w.source.fmt (granule w w.source x.2).2), bandSpan w.source x.1, bandSpan w.data x.1]
  | _ => w.rows.map fun x => (rowAt w.data x.1, rowSize w.data)

/-- What a part writes, from its reads. -/
def partWrites (w : CellarWork) (b : List (List Byte)) : List (Word × List Byte) :=
  match cellarOp w with
  | 0x30 => (w.rows.zip b).map fun (x, r) => (rowAt w.data x.1, r)
  | 0x24 => (w.rows.zip (groups 3 b)).map fun (x, r) =>
    (rowAt w.data x.1 + BitVec.ofNat 64 (rowBytes w.data.fmt (granule w w.data x.2).1),
      convertGranule w.compat w.data.fmt w.source.fmt (r.getD 1 []) (r.getD 2 []) (r.getD 0 []))
  | _ => (w.rows.zip b).map fun (x, r) => (tableRow w x.2, r)

/-- The rows of a part are done at its engine: `SREDUCE` updates elements and `SSCATTER` writes words in any order (R296). -/
def State.performPart (s : State) (a : Reader) (w : CellarWork) : State × PartEnd :=
  match s.pullSpans a (partReads w) with
  | (s, .waiting) => (s, .waiting)
  | (s, .fault c x) => (s, .fault c x)
  | (s, .ready b) =>
    let all := partWrites w b
    let any (n : Nat) : List (Word × List Byte) := freeOrder s.freeCtr (all.flatMap fun x => piecesAt n x.1 x.2)
    let drawn (l : List (Word × List Byte)) : State := { s with freeCtr := s.freeCtr + l.length }
    if cellarOp w = 0x32 then
      let l := any (rowBytes w.data.fmt 1)
      (drawn l).reduceElements a (reduceFormat w.data.fmt) ((streamFields w.word).aux.extractLsb' 0 2) l
    else
      let l := if cellarOp w = 0x31 then any 8 else all
      match (if cellarOp w = 0x31 then drawn l else s).push a l with
      | (s, some (c, x)) => (s, .fault c x)
      | (s, none) => (s, .done)

/-- A part of an entry has ended (R285). -/
def State.endPart (s : State) (i : SlotId) (n id : Nat) (fault : Option (BitVec 8 × Word)) : State :=
  match (s.slot i).entry? n with
  | none => s
  | some e =>
    let e := { e with parts := e.parts.filter fun x => x != id }
    let s := s.putEntry i e
    match fault with
    | some (c, x) => s.cellarMark i e c x
    | none => s

/-- Replaces a queued part, or takes it out. -/
def State.setPart (s : State) (id : Nat) (p : Option Part) : State :=
  { s with cellar := s.cellar.filterMap fun x => if x.2.2.id == id then p.map fun q => (x.1, x.2.1, q) else some x }

/-- The entry of this device that waits for a remote part. -/
def State.partEntry (s : State) (tag : Nat) : Option (SlotId × Entry) :=
  (List.finRange 16).findSome? fun (i : SlotId) =>
    ((s.slot i).window.find? fun e => e.parts.contains tag).map fun e => (i, e)

/-- So many rows of a remote part are done or have faulted (R286). -/
def State.partDone (s : State) (tag rows : Nat) (fault : Option (BitVec 8 × Word)) : State :=
  match s.partEntry tag with
  | some (i, e) =>
    let e := { e with parts := (List.replicate rows tag).foldl (fun l x => l.erase x) e.parts }
    let s := s.putEntry i e
    (match fault with
     | some (c, x) => s.cellarMark i e c x
     | none => s)
  | none => s

/-- The redirect of a returned row: the owner cache of the lead's die takes the named owner (R90, R286). The agent's tables name the
die where the owner is this device. -/
def State.learnRows (s : State) (lead : DieId) (w : CellarWork) (device : Nat) : State :=
  w.rows.foldl (fun (s : State) (x : Nat × Nat) =>
    let va := (partRow w x).toNat
    let d := s.die lead
    let die : DieId := match s.agentOwner lead w.asid va with
      | .inr (dev, die) => if dev = device then die else 0
      | .inl _ => 0
    s.setDie lead { d with owners := ownerInstall d.owners ⟨w.asid, regionOf va, device, die⟩ }) s

/-- Rows of a remote part return with the name of their owner, to which the lead sends them (R286). Those that this device owns come to
it as a part, which waits for room. -/
def State.partReturned (s : State) (tag : Nat) (w : CellarWork) (device : Nat) : State :=
  match s.partEntry tag with
  | none => s
  | some (i, e) =>
    let lead := (s.slot i).lead
    let s := (s.partDone tag w.rows.length none).learnRows lead w device
    let away : List (Nat × List (Nat × Nat)) := [(device, w.rows)]
    let more (s : State) (ids : List Nat) : State := match (s.slot i).entry? e.n with
      | some e => s.putEntry i { e with parts := e.parts ++ ids }
      | none => s
    if device = s.device.toNat then
      let n := s.nextId
      more (State.send { s with nextId := n + 1 } lead (.remotePart device n w 0)) (List.replicate w.rows.length n)
    else match s.awayFault w away with
      | some (c, x) => (match (s.slot i).entry? e.n with
        | some e => s.cellarMark i e c x
        | none => s)
      | none =>
        let (s, ids) := s.sendParts lead w away
        more s ids

/-- Tells the lead of a part, on this device or another, of rows that are done or have faulted (R286). -/
def State.tellDone (s : State) (die : DieId) (lead tag rows : Nat) (fault : Option (BitVec 8 × Word)) : State :=
  if rows = 0 ∧ fault.isNone then s
  else if lead = s.device.toNat then s.partDone tag rows fault else s.toFabric die lead (.cellarDone tag rows fault)

/-- A part leaves its engine: its instruction, or its lead on another device, learns of it (R286). -/
def State.leavePart (s : State) (die : DieId) (p : Part) (fault : Option (BitVec 8 × Word)) : State :=
  let s := (s.setPart p.id none).dropStaged (.part p.id)
  match p.owner with
  | .entry i n => s.endPart i n p.id fault
  | .foreign lead tag => s.tellDone die lead tag p.rows fault

/-- The die of this device that forwards accesses to a region to another device, and whether it is a doorplate, which counts them
(R87, R89, R392). -/
def State.forwardsRow (s : State) (asid : BitVec 16) (va : Nat) : Option (DieId × Bool) :=
  (List.finRange 4).findSome? fun (d : DieId) =>
    match s.regionState d asid va with
    | some (.forward device _ plate) => if device = s.device.toNat then none else some (d, plate)
    | _ => none

/-- Rows of a part whose regions have moved leave it (R286, R392): the lead sends its own anew. Of a part of another lead those that a
stub or an unfinished home forwards go on at once, up to hop count 3, and the others return to the lead. DEDUCED (log 72). -/
def State.sendOn (s : State) (die : DieId) (p : Part) (away : List (Nat × List (Nat × Nat))) : State :=
  match p.owner with
  | .entry i n =>
    (match (s.slot i).entry? n with
     | some e =>
       let (s, ids) := s.sendParts (s.slot i).lead p.work away
       s.putEntry i { e with parts := e.parts ++ ids }
     | none => s)
  | .foreign lead tag =>
    away.foldl (fun (s : State) (x : Nat × List (Nat × Nat)) =>
      let goes (r : Nat × Nat) : Bool := (s.forwardsRow p.work.asid (partRow p.work r).toNat).isSome && decide (p.hops < 3)
      let on := x.2.filter goes
      let back := x.2.filter fun r => !goes r
      let s := on.foldl (fun (s : State) (r : Nat × Nat) =>
        let va := (partRow p.work r).toNat
        match s.forwardsRow p.work.asid va with
        | some (d, true) => s.countForward d p.work.asid (regionOf va)
        | _ => s) s
      let s := if on.isEmpty then s else s.toFabric die x.1 (.cellarPart lead tag { p.work with rows := on } (p.hops + 1))
      if back.isEmpty then s
      else if lead = s.device.toNat then s.partReturned tag { p.work with rows := back } x.1
      else s.toFabric die lead (.cellarReturned tag { p.work with rows := back } x.1)) s

/-- The part at the head of an engine's queue goes on: rows that moved leave it, rows whose chunks are being copied stay, and the
others are done (R87, R285, R286). DEDUCED (log 72). -/
def State.workPart (s : State) (k : Fin 8) (p : Part) : State :=
  let die : DieId := Fin.ofNat 4 (k.val / 2)
  let a : Reader := ⟨.part p.id, 1280 * die.val, p.work.asid, p.work.ctx, false⟩
  let (s, split) := s.splitRows die false true p.work
  match split.fault with
  | some (c, x) => s.leavePart die p (some (c, x))
  | none =>
    let s := s.sendOn die p split.away
    let now := split.here.flatMap (·.2)
    let rest (l : List (Nat × Nat)) : Part :=
      { p with work := { p.work with rows := l }, rows := p.rows - (split.away.flatMap (·.2)).length }
    let left : Part := { rest split.moving with performed := split.moving.isEmpty }
    if now.isEmpty then s.setPart p.id (some left)
    else
      let q := rest (now ++ split.moving)
      match (s.setPart p.id (some q)).performPart a { p.work with rows := now } with
      | (s, .waiting) => s
      | (s, .fault c x) => s.leavePart die q (some (c, x))
      | (s, .done) => (s.dropStaged a.src).setPart p.id (some left)

/-- CELLAR_PART_COMPLETE (R285, R286): the part at the head of an engine works, and leaves when its writes have completed. -/
def execCellarPartComplete (s : State) : Host.Outcome State Fault Refusal :=
  match s.arg with
  | .cellar k e => (match s.cellar.find? (fun x => x.1 == k && x.2.1 == e) with
    | some (_, _, p) =>
      if !p.performed then .next (s.workPart k p)
      else if s.busy (.part p.id) then .next s
      else
        let fault : Option (BitVec 8 × Word) := s.staged.findSome? fun x =>
          if x.1 == .part p.id then (match x.2.2 with | .inr c => some (c, x.2.1) | .inl _ => none) else none
        .next (s.leavePart (Fin.ofNat 4 (k.val / 2)) p fault)
    | none => .next s)
  | _ => .next s

/-! ### Parts between devices (R286, R392) -/

/-- REMOTE_PART_ARRIVAL (R286, R392): the part is split by stack; rows that this device does not own go on or return to the lead,
and the part waits for room. -/
def execRemotePartArrival (s : State) : Host.Outcome State Fault Refusal :=
  s.atRequest fun n =>
    match s.msg? n with
    | some (.remotePart lead tag w hops) =>
      let die := s.msgDie n
      let at_ : Word := match w.rows with | x :: _ => partRow w x | [] => 0
      let (s, p) := s.splitRows 0 false false w
      let ends (c : BitVec 8) (x : Word) : State := (s.dropMsg n).tellDone die lead tag w.rows.length (some (c, x))
      if (s.ctx? w.ctx).isNone then ends cUnbound at_
      else match p.fault with
        | some (c, x) => ends c x
        | none =>
          if !s.engineRoom w p.here ∨ !p.here.all (fun x => s.routeOpen die (Fin.ofNat 4 (x.1.val / 2))) then s
          else
            let s := (s.dropMsg n).sendOn die ⟨0, .foreign lead tag, w, false, w.rows.length, hops⟩ p.away
            (s.queueParts (.foreign lead tag) w hops p.here).1
    | _ => s

end Sys2Proof.Machine
end

