-- ==== Sys2Proof/Machine/Links.lean ====
section
/-! DEFINITION. Scale-up ports, the flits they receive, and what becomes of traffic when a path dies (R307 to R312, R402, R404). -/

namespace Sys2Proof.Machine

/-- A step of a port. -/
def State.atPort (s : State) (f : PortId → Port → State) : Host.Outcome State Fault Refusal :=
  match s.arg with
  | .port p => .next (f p s.ports[p])
  | _ => .next s

/-- Replaces a port. -/
def State.setPort (s : State) (p : PortId) (v : Port) : State := { s with ports := s.ports.set p v }

/-- A port enters a state, from which its time there counts. -/
def State.enterPort (s : State) (p : PortId) (v : Port) (st : PortState) : State := s.setPort p { v with st := st, since := s.time }

/-! ### States of a port (R309, R402) -/

/-- PORT_ENABLE (R309): no die of the form lacks the port, and its die has not stopped (R407). -/
def execPortEnable (s : State) : Host.Outcome State Fault Refusal :=
  s.atPort fun p v =>
    if v.st = .down ∧ portDie p.val < s.dieCount ∧ !(s.die (portHome p.val)).stopped then s.enterPort p v .training else s

/-- The time that a port may train (R309). -/
def trainingTime : Nat := 10000000 * ticksUnit

/-- PORT_TRAINED (R309): the link layer starts afresh on 4 lanes. A path that was dead beyond its source port lives again (R404). -/
def execPortTrained (s : State) : Host.Outcome State Fault Refusal :=
  match s.arg with
  | .path device path => .next { s with farDead := s.farDead.filter fun x => !(x.1 == device && x.2.1 == path) }
  | _ => s.atPort fun p v =>
    if v.st = .training ∧ s.time < v.since + trainingTime then
      s.enterPort p { v with
        lanes := 4, good := 4, recent := [], lastFlit := s.time, rxNext := 0, rxWaiting := [], asked := [], owed := 0, txNext := 0
        txAcked := 0, store := [] } .active
    else s

/-- TRAINING_TIMEOUT (R309). -/
def execTrainingTimeout (s : State) : Host.Outcome State Fault Refusal :=
  s.atPort fun p v => if v.st = .training ∧ v.since + trainingTime ≤ s.time then s.enterPort p v .down else s

/-- PORT_QUIESCE (R309). -/
def execPortQuiesce (s : State) : Host.Outcome State Fault Refusal :=
  s.atPort fun p v => if v.st = .active then s.enterPort p v .quiesced else s

/-- QUIESCE_COMPLETE (R309). -/
def execQuiesceComplete (s : State) : Host.Outcome State Fault Refusal :=
  s.atPort fun p v => if v.st = .quiesced ∧ v.txAcked = v.txNext then s.enterPort p { v with lanes := 0, good := 0 } .down else s

/-- PORT_DISABLE (R402). -/
def execPortDisable (s : State) : Host.Outcome State Fault Refusal :=
  s.atPort fun p v => if v.st = .dead then s.enterPort p v .down else s

/-- A record of a port, with its good lanes (R402). -/
def State.portRecord (s : State) (code : BitVec 8) (p : PortId) (good : Nat) : State :=
  let d : DieId := Fin.ofNat 4 (portDie p.val)
  s.raise d (s.agentRecord d code 7 0 0 0 0 (BitVec.ofNat 16 (p.val + 256 * good)))

/-- Repeat requests of the last 1 ms (R402). -/
def Port.recentRepeats (v : Port) (now : Nat) : List Nat := v.recent.filter fun t => decide (now < t + 1000000 * ticksUnit)

/-- PORT_DEGRADE (R402). -/
def execPortDegrade (s : State) : Host.Outcome State Fault Refusal :=
  s.atPort fun p v =>
    if v.st = .active ∧ 256 ≤ (v.recentRepeats s.time).length then (s.enterPort p v .degraded).portRecord 0x60 p v.good.toNat else s

/-- Lanes that carry a port of which some are good (R402). -/
def carrying (good : Nat) : Nat := if good = 2 ∨ good = 3 then 2 else good

/-- LANE_LOSS (R402): some lanes of a port that carries flits remain good. -/
def execLaneLoss (s : State) : Host.Outcome State Fault Refusal :=
  match s.arg with
  | .lanes p n =>
    let v := s.ports[p]
    if (v.st = .active ∨ v.st = .degraded) ∧ 1 ≤ n ∧ n < v.good.toNat then
      .next ((s.enterPort p { v with lanes := BitVec.ofNat 3 (carrying n), good := BitVec.ofNat 3 n } .degraded).portRecord 0x60 p n)
    else .next s
  | _ => .next s

/-- LANE_REALIGN (R402). -/
def execLaneRealign (s : State) : Host.Outcome State Fault Refusal :=
  s.atPort fun p v =>
    if v.st = .degraded ∧ (v.recentRepeats s.time).length < 16 then s.enterPort p { v with lanes := 4, good := 4 } .active else s

/-! ### The death of a port (R402, R404) -/

/-- A message of VC 2 that is not acknowledged goes again by the lowest-numbered live path (R404). -/
def State.resend (s : State) (m : Departed) : State :=
  match s.controlPath m.device with
  | none => s
  | some p =>
    let again : Departed := { m with path := p, time := s.time }
    State.depart1 { s with vc2Sent := s.vc2Sent.map fun x => if x = m then again else x } again

/-- Paths to devices have died: VC 2 traffic that took one of them moves to the lowest-numbered live path and stays there, and what it
carried without an acknowledgement is sent again (R404). The state before tells which path it took. -/
def State.leavePaths (s before : State) (dead : Nat → Nat → Bool) : State :=
  let moved := (s.vc2Next.map (·.1)).filter fun d => (before.controlPath d).any (dead d)
  let s := moved.foldl (fun (s : State) (d : Nat) => match (s.livePaths d).head? with
    | some p => { s with vc2Path := tableSet s.vc2Path d p }
    | none => s) s
  (s.vc2Sent.filter fun m => dead m.device m.path).foldl State.resend s

/-- A port dies: its paths leave use, and VC 2 messages that they carried are sent again. -/
def State.killPort (s : State) (p : PortId) (good : Nat) : State :=
  let before := s
  let v := s.ports[p]
  let s := (s.enterPort p { v with lanes := 0, good := 0 } .dead).portRecord 0x61 p good
  let s := { s with deadPaths := s.deadPaths ++ [(p.val, s.time)] }
  s.leavePaths before fun device path => s.portOf device path == p

/-- PORT_DEAD (R402); and a path of this device that dies beyond its source port, as its NIs learn of it (R404). -/
def execPortDead (s : State) : Host.Outcome State Fault Refusal :=
  match s.arg with
  | .path device path =>
    if s.pathDead device path then .next s
    else
      .next (State.leavePaths { s with farDead := s.farDead ++ [(device, path, s.time)] } s fun d p => d == device && p == path)
  | .death p cause =>
    let v := s.ports[p]
    let happens : Bool := match cause with
      | .silent => decide (v.lastFlit + 10000 * ticksUnit ≤ s.time)
      | _ => true
    if (v.st = .active ∨ v.st = .degraded) ∧ happens then
      .next (s.killPort p (if cause = .noLane then 0 else v.good.toNat))
    else .next s
  | _ => .next s

/-- The time after which what a dead path or boundary carried is settled (R404). -/
def settleTime : Nat := 25000 * ticksUnit

/-- Requests that were in flight across a boundary as it failed end UNKNOWN 25 µs later (R404, R406). -/
def State.settleCuts (s : State) : State :=
  let due := (s.cuts.filter fun x => decide (x.2 + settleTime ≤ s.time)).map (·.1)
  let s := { s with cuts := s.cuts.filter fun x => decide (s.time < x.2 + settleTime) }
  (s.reqs.filter fun r => due.contains r.id).foldl (fun (s : State) (r : Req) => s.answer r (.faulted 0x32 r.addr 0)) s

/-- PATH_DEATH_SETTLE (R404, R406): 25 µs after the death, requests and parts sent on the path to a device without a reply, or in flight
across the boundary, end UNKNOWN. -/
def execPathDeathSettle (s : State) : Host.Outcome State Fault Refusal :=
  match s.arg with
  | .boundary _ => .next s.settleCuts
  | .path device path =>
    let ports := s.deadPaths.filterMap fun x => if x.1 = (s.portOf device path).val then some x.2 else none
    let far := s.farDead.filterMap fun x => if x.1 = device ∧ x.2.1 = path then some x.2.2 else none
    let died := (ports ++ far).filter fun t => decide (t + settleTime ≤ s.time)
    let before (t : Nat) : Bool := died.any fun x => decide (t ≤ x)
    let lost (r : Req) : Bool :=
      r.stage == .sent && r.path == path && before r.sentAt && device != s.device.toNat && r.route.map (·.1) == some device
    let s := (s.reqs.filter lost).foldl (fun (s : State) (r : Req) => s.answer r (.faulted 0x32 r.addr 0)) s
    let parts := s.fabricOut.filterMap fun m => match m.msg with
      | .cellarPart lead tag w _ =>
        if lead = s.device.toNat ∧ m.device = device ∧ m.path = path ∧ before m.time then some (tag, w.rows.length) else none
      | _ => none
    .next (parts.foldl (fun (s : State) (x : Nat × Nat) => s.partDone x.1 x.2 (some (0x32, 0))) s)
  | _ => .next s

/-- Whether a message is a part that a window entry of this device still waits for. -/
def State.awaited (s : State) (m : Departed) : Bool :=
  match m.msg with
  | .cellarPart lead tag _ _ => lead == s.device.toNat && (s.partEntry tag).isSome
  | _ => false

/-- FLIT_DISCARD (R404): what has been in the fabric for more than 20 µs is no longer delivered. A part is kept while its lead
waits, for its settlement. -/
def execFlitDiscard (s : State) : Host.Outcome State Fault Refusal :=
  .next { s with fabricOut := s.fabricOut.filter fun m => decide (s.time ≤ m.time + 20000 * ticksUnit) || s.awaited m }

/-! ### Flits (R307, R308, R402, R403) -/

/-- A request of another device as it arrives at a port (R308). -/
def Foreign.request (f : Foreign) (blank : Req) (own : Nat) (port : Nat) : Req :=
  { blank with
    src := .foreign f.device f.core f.hart f.tag, core := f.core, user := f.user, asid := f.asid, ctx := some f.ctx
    addr := f.addr, op := f.op, data := f.data, arrival := f.arrival, stage := .sent, hops := f.hops, seq := some f.seq
    low := f.low, route := some (own, f.die), path := port
    dest := if f.exec then .fetch 0 else if f.old then .xreg 0 true else .none, parts := f.parts }

/-- A request is untracked, and without a number, where it is a read (R403). -/
def Req.numbered (r : Req) : Req := if r.tracked then r else { r with seq := none }

/-- The dies of this device that a message which takes effect as it comes is for. -/
def State.messageDies (s : State) (m : FabricMsg) : List DieId :=
  match m with
  | .reply tag _ | .regionGranted tag _ => ((s.req? tag).map fun r => dieOf r.core).toList
  | .regionStart tag _ _ _ => (match s.req? tag with
     | some r => (match r.op with | .own desc => [Fin.ofNat 4 (field desc 21 2)] | _ => [])
     | none => [])
  | .chunk asid region _ _ _ =>
    (match s.incomingOf asid region, s.ownRequest asid region with
     | some x, _ => [x.1]
     | none, some x => [Fin.ofNat 4 (field x.2 21 2)]
     | none, none => [])
  | .chunkHeld asid region _ => (List.finRange 4).filter fun (d : DieId) => (stubFor (s.die d).stubs asid region).isSome
  | .cellarDone tag _ _ | .cellarReturned tag _ _ => ((s.partEntry tag).map fun x => (s.slot x.1).lead).toList
  | _ => []

/-- A message from another device takes effect, or is on its way from its port to the agent that it is for. DESIGN CHOICE
(log 1). -/
def State.takeNow (s : State) (port source : Nat) (m : FabricMsg) : State :=
  let entry := portHome port
  match m with
  | .request f => s.addReq { (Foreign.request f (s.blankReq .host 0) s.device.toNat port).numbered with stage := .sent }
  | .reply tag a =>
    (match s.req? tag with
     | some r => if r.stage = .sent ∧ r.route.map (·.1) = some source then s.setReq { r with stage := .answered a } else s
     | none => s)
  | .redirect asid region device die core => s.send entry (.redirect core asid region device (Fin.ofNat 4 die))
  | .contextRedirect core vacated device die => s.send entry (.contextRedirect core vacated device (Fin.ofNat 4 die))
  | .mapUpdate asid region device die fromDevice fromDie fromStub =>
    s.send entry (.mapUpdate asid region device (Fin.ofNat 4 die) fromDevice (Fin.ofNat 4 fromDie) fromStub)
  | .mapUpdateAck die stub => s.send entry (.mapUpdateAck (Fin.ofNat 4 die) stub)
  | .regionStart tag device die permissions => s.receiveStart tag device (Fin.ofNat 4 die) permissions
  | .chunk asid region n data bad => s.receiveChunk source asid region n data bad
  | .chunkHeld asid region n => s.chunkCopied asid region n
  | .regionGranted tag already =>
    (match s.req? tag with
     | some r => if r.stage = .sent then s.setReq { r with stage := .answered (.done (leBytes (if already then 1 else 0) 8)) } else s
     | none => s)
  | .flushMarker device core release path live => s.send entry (.flushMarker device core release path live)
  | .collectiveCompletion device core release => s.send entry (.collective device core release)
  | .cellarPart lead tag work hops => s.send entry (.remotePart lead tag work hops)
  | .cellarDone tag rows fault => s.partDone tag rows fault
  | .cellarReturned tag work device => s.partReturned tag work device
  | .taken n => { s with vc2Sent := s.vc2Sent.filter fun x => !(x.device == source && x.number == some n) }

/-- A message from another device: where its way crosses or enters a die whose clock is halted, it waits in its port (R25, R317). -/
def State.takeMessage (s : State) (port source : Nat) (m : FabricMsg) : State :=
  if (s.messageDies m).all (s.routeOpen (portHome port)) then s.takeNow port source m
  else { s with rxHeld := s.rxHeld ++ [(port, source, m)] }

/-- A numbered message acts once, and is acknowledged each time (R404). -/
def State.deliver (s : State) (port : Nat) (c : Carried) : State :=
  match c.number with
  | none => s.takeMessage port c.source c.msg
  | some n =>
    let s := if s.vc2Taken.contains (c.source, n) then s
      else State.takeMessage { s with vc2Taken := (c.source, n) :: s.vc2Taken } port c.source c.msg
    s.toFabric (portHome port) c.source (.taken n)

/-- Delivers the messages of a flit. -/
def State.deliverFlit (s : State) (port : Nat) (f : Flit) : State :=
  f.messages.foldl (fun (s : State) (c : Carried) => s.deliver port c) s

/-- One bit of the CRC-32 of IEEE 802.3, least significant bit first. -/
def crcBit (c : BitVec 32) : BitVec 32 := if c.getLsbD 0 then (c >>> 1) ^^^ 0xEDB88320#32 else c >>> 1

/-- A byte joins a CRC. -/
def crcByte (c : BitVec 32) (b : Byte) : BitVec 32 :=
  crcBit (crcBit (crcBit (crcBit (crcBit (crcBit (crcBit (crcBit (c ^^^ b.zeroExtend 32))))))))

/-- The CRC-32 of bytes (R307). -/
def crc32 (l : List Byte) : BitVec 32 := ~~~ (l.foldl crcByte 0xFFFFFFFF#32)

/-- Bytes 0 to 251 of a flit (R307). -/
def flitBytes (f : Flit) : List Byte :=
  leBytes (f.seq.toNat + 2 ^ 12 * f.vc.toNat) 2
    ++ leBytes (f.acked.toNat + (match f.repeatOf with | some _ => 2 ^ 12 | none => 0)) 2
    ++ leBytes (match f.repeatOf with | some n => n.toNat | none => 0) 2 ++ leBytes f.credits.toNat 2
    ++ (f.payload ++ List.replicate 244 0).take 244

/-- Whether the FEC has corrected a flit and its CRC is right (R307, R308). -/
def flitGood (f : Flit) : Bool := f.corrected && f.crc == crc32 (flitBytes f)

/-- Flits that are next in sequence leave the receiver's wait, and those of VC 2 and VC 3 are delivered (R308). -/
def State.drainFlits (s : State) (p : PortId) : Nat → State
  | 0 => s
  | fuel + 1 =>
    let v := s.ports[p]
    match v.rxWaiting.find? (fun f => f.seq == v.rxNext) with
    | none => s
    | some f =>
      let s := s.setPort p { v with rxNext := v.rxNext + 1, rxWaiting := v.rxWaiting.filter fun x => x.seq != f.seq }
      (s.deliverFlit p.val f).drainFlits p fuel

/-- A flit whose CRC is bad, or that the FEC cannot correct, is dropped, and its sequence number asked for again (R308, R402).
DEDUCED (log 80). -/
def State.badFlit (s : State) (p : PortId) (f : Flit) : State :=
  let v := s.ports[p]
  s.setPort p { v with
    asked := if v.asked.contains f.seq then v.asked else f.seq :: v.asked
    repeats := if v.repeats = BitVec.allOnes 32 then v.repeats else v.repeats + 1
    recent := s.time :: v.recentRepeats s.time }

/-- One more credit of a virtual channel to return, in its 4 bits (R307). DEDUCED (log 80). -/
def creditBack (owed : BitVec 16) (vc : BitVec 2) : BitVec 16 :=
  if owed.toNat / 16 ^ vc.toNat % 16 = 15 then owed else owed + BitVec.ofNat 16 (16 ^ vc.toNat)

/-- The flit as which a message of this device leaves (R307): its header, its payload, for whose bytes R307 gives no layout, and its
CRC. DESIGN CHOICE (log 113). -/
def Departed.flit (m : Departed) (own : Nat) : Flit :=
  let f : Flit := { seq := m.head.seq, vc := m.head.vc, acked := m.head.acked, repeatOf := m.head.repeatOf, credits := m.head.credits
                    payload := (List.range 244).map (Config.flitByte (4096 * m.time + m.head.seq.toNat)), crc := 0, corrected := true
                    messages := [⟨own, m.number, m.msg⟩] }
  { f with crc := crc32 (flitBytes f) }

/-- A good flit of a port (R308): VC 0 and VC 1 are delivered at once, VC 2 and VC 3 in sequence, and a repeat of one that has
come already does nothing. -/
def State.goodFlit (s : State) (p : PortId) (f : Flit) : State :=
  let v := s.ports[p]
  let next := f.acked + 1
  let v := if (v.txNext - next).toNat ≤ (v.txNext - v.txAcked).toNat then { v with txAcked := next } else v
  let v := { v with asked := v.asked.filter fun x => x != f.seq, owed := creditBack v.owed f.vc }
  if 2048 ≤ (f.seq - v.rxNext).toNat ∨ v.rxWaiting.any (fun x => x.seq == f.seq) then s.setPort p v
  else
    let early := f.vc.toNat < 2
    let kept : Flit := if early then { f with messages := [] } else f
    let s := s.setPort p { v with rxWaiting := kept :: v.rxWaiting }
    let s := if early then s.deliverFlit p.val f else s
    s.drainFlits p (v.rxWaiting.length + 1)

/-- Whether a port takes a flit (R309): a QUIESCED one carries VC 1 and repeats. -/
def Port.takes (v : Port) (f : Flit) : Bool :=
  match v.st with
  | .active | .degraded => true
  | .quiesced => f.vc == 1 || v.asked.contains f.seq
  | _ => false

/-- The other end asks for a repeat (R308, R309, R402): of the last 256 flits one goes again, and another kills a port that carries
all flits. -/
def State.repeatFlit (s : State) (p : PortId) (n : BitVec 12) : State :=
  let v := s.ports[p]
  let carries : Bool := v.st == .active || v.st == .degraded
  if !(carries || v.st == .quiesced) then s
  else match v.store.find? (fun x => x.1 == n) with
    | some (_, m) => { s with fabricOut := { m with time := s.time } :: s.fabricOut.filter fun x => x != m }
    | none => if carries then s.killPort p v.good.toNat else s

/-- FLIT_RECEIVE (R307 to R309, R402). -/
def execFlitReceive (s : State) : Host.Outcome State Fault Refusal :=
  match s.arg with
  | .flit p f =>
    let v := s.ports[p]
    if !v.takes f then .next s
    else
      let s := s.setPort p { v with lastFlit := s.time }
      .next <| if !flitGood f then s.badFlit p f
        else match f.repeatOf with
          | some n => (s.goodFlit p f).repeatFlit p n
          | none => s.goodFlit p f
  | _ => .next s

/-- REPEAT_REQUEST_RECEIVE (R308, R309, R402). -/
def execRepeatRequestReceive (s : State) : Host.Outcome State Fault Refusal :=
  match s.arg with
  | .repeatOf p n => .next (s.repeatFlit p n)
  | _ => .next s

end Sys2Proof.Machine
end

