-- ==== Sys2Proof/Machine/Bringup.lean ====
section
/-! DEFINITION. Cold and warm resets and the phases of bring-up (R10, R309, R320 to R323). -/

namespace Sys2Proof.Machine

/-! ### Resets (R10) -/

/-- COLD_RESET (R10): every field at its reset value; what the schedule still holds, and the free values already drawn, are no
part of the device. -/
def execColdReset (s : State) : Host.Outcome State Fault Refusal :=
  .next { State.resetWith s.flash s.fuses 0 [] with schedule := s.schedule, freeCtr := s.freeCtr }

/-- Memory after a warm reset, whose contents need not survive (R10; log 15). -/
def scrambled (n : Nat) (m : List Host.Cell) : List Host.Cell :=
  (m.map (·.1)).foldl (fun (m : List Host.Cell) (k : Nat) => Memory.write m k (Config.afterWarmReset k n)) m

/-- A core after a warm reset: accumulators and weight slots hold free values (R10; log 15). -/
def scrambledCore (draw : Nat) : Core :=
  let accs := (List.finRange 16).foldl (fun (v : Vector Acc 16) (i : Fin 16) =>
    v.set i { v[i] with data := Config.freeBlock (draw + i.val) }) Core.reset.accs
  let weights := (List.finRange 64).foldl (fun (v : Vector WeightSlot 64) (i : Fin 64) =>
    v.set i { v[i] with data := Config.freeBlock (draw + 16 + i.val) }) Core.reset.weights
  { Core.reset with accs := accs, weights := weights }

/-- The cores that a run has touched, each after a warm reset, with so many free values for each. -/
def scrambledCores (draw : Nat) : List (Nat × Core) → List (Nat × Core)
  | [] => []
  | (c, _) :: l => (c, scrambledCore draw) :: scrambledCores (draw + 80) l

/-- WARM_RESET (R10): a cold reset of every register field, table and queue; fuses and flash stay, and so does the poison of
memory (log 15). -/
def execWarmReset (s : State) : Host.Outcome State Fault Refusal :=
  let n := s.warmResets + 1
  .next { State.resetWith s.flash s.fuses n (scrambled n s.mem) with
    schedule := s.schedule, freeCtr := s.freeCtr + 80 * s.cores.length, cores := scrambledCores s.freeCtr s.cores
    poison := s.poison }

/-! ### Bring-up (R320 to R323) -/

/-- PHASE_ROM (R321). -/
def execPhaseRom (s : State) : Host.Outcome State Fault Refusal :=
  if s.phase = .rom then .next { s with phase := .verify } else .next s

/-- FIRMWARE_VERIFY (R322): both signatures, under keys whose digests are those of the fuses. -/
def execFirmwareVerify (s : State) : Host.Outcome State Fault Refusal :=
  if s.phase = .verify then
    let ed := s.flash.edKeyDigest == s.fuses.1 && Config.ed25519Verifies s.flash.edKeyDigest s.flash.image
    let ml := s.flash.mlKeyDigest == s.fuses.2 && Config.mldsaVerifies s.flash.mlKeyDigest s.flash.image
    .next { s with edOk := ed, mlOk := ml, phase := if ed && ml then .memory else .recovery, mailStatus := !(ed && ml) }
  else .next s

/-- PHASE_MEMORY (R320, R321): on an OL-D only stacks 0 and 1 can be attached. -/
def execPhaseMemory (s : State) : Host.Outcome State Fault Refusal :=
  if s.phase = .memory then
    let s := (List.finRange 4).foldl (fun (s : State) (d : DieId) =>
      s.setDie d { s.die d with harvest := s.flash.harvest[d] }) s
    .next { s with phase := .config, stackMask := s.flash.stackMask &&& (if s.flash.form = .olD then 3 else 0xFF) }
  else .next s

/-- PHASE_CONFIG (R320, R321, R379). -/
def execPhaseConfig (s : State) : Host.Outcome State Fault Refusal :=
  if s.phase = .config then
    let s := (List.finRange 4).foldl (fun (s : State) (d : DieId) =>
      s.setDie d { s.die d with softThresh := s.flash.softThresh }) s
    .next { s with
      phase := .links, device := s.flash.device, linkMode := s.flash.linkMode, paths := s.flash.paths
      domSize := s.flash.domSize, pwrLimit := s.flash.pwrLimit, caps := s.flash.caps }
  else .next s

/-- Whether a port exists on this form and has never been enabled since reset. -/
def State.untrained (s : State) (p : PortId) : Bool :=
  s.ports[p].st == .down && s.ports[p].since == 0 && decide (portDie p.val < s.dieCount)

/-- PHASE_LINKS (R309, R321): the ports are enabled, and once none trains any longer the CXL port is up and the device is READY.
DESIGN CHOICE (log 75). -/
def execPhaseLinks (s : State) : Host.Outcome State Fault Refusal :=
  if s.phase = .links then
    let new := (List.finRange 18).filter s.untrained
    if !new.isEmpty then
      .next (new.foldl (fun (s : State) (p : PortId) =>
        s.setPort p { s.ports[p] with st := .training, since := max 1 s.time }) s)
    else if (List.finRange 18).any fun (p : PortId) => s.ports[p].st == .training then .next s
    else .next { s with phase := .ready, mailStatus := true, cxlUp := true }
  else .next s

end Sys2Proof.Machine
end

