-- ==== Sys2Proof/Machine/Mailbox.lean ====
section
/-! DEFINITION. The management mailbox: the attestation report, the certificate, and the binding and unbinding of contexts (R323,
R334 to R337, R400, R401). -/

namespace Sys2Proof.Machine

/-- An 8-byte word of the payload of the running command, as it was when the command was written (R344). -/
def State.mailAt (s : State) (off : Nat) : Nat := leNat (Memory.readBytes s.mailPayload off 8)

/-- The running command completes: the response stands from 0x100 on, and the status word reads 1 (R323). -/
def State.mailDone (s : State) (response : List Byte) : State :=
  { s with mailArea := Memory.writeBytes s.mailArea 0x100 response, mailStatus := true, mailCommand := none }

/-- The response word of a code (R323, R335). -/
def codeWord (c : Nat) : List Byte := leBytes c 8

/-- A step of the mailbox for a running command. -/
def State.onCommand (s : State) (accept : Word → Bool) (perform : State → State) : Host.Outcome State Fault Refusal :=
  match s.mailCommand with
  | some w => if accept w then .next (perform s) else .next s
  | none => .next s

/-- Whether the mailbox answers a command in its phase (R323, R335, R401). -/
def State.answers (s : State) (w : Word) : Bool :=
  w == 1 || w == 2 || (s.phase == .ready && (w == 3 || w == 4))

/-- The bytes of a report that its signatures cover (R323). DEDUCED (log 77). -/
def State.reportBody (s : State) : List Byte :=
  let dies : List Byte := (List.finRange 4).flatMap fun (d : DieId) =>
    leBytes (s.die d).harvest.toNat 160 ++ leBytes (s.device.toNat + 2 ^ 13 * d.val) 8
      ++ leBytes (s.linkMode.toNat + 2 * s.paths.toNat + 32 * s.domSize.toNat) 8
  Memory.readBytes s.mailPayload 0x40 32 ++ leBytes s.device.toNat 2 ++ List.replicate 6 0
    ++ (Config.sha384 s.flash.image).toList ++ (Config.sha384 dies).toList

/-- MAILBOX_REPORT (R323). -/
def execMailboxReport (s : State) : Host.Outcome State Fault Refusal :=
  s.onCommand (fun w => w == 1) fun s =>
    let b := s.reportBody
    s.mailDone (b ++ (Config.ed25519Sign b).toList ++ (Config.mldsaSign b).toList)

/-- MAILBOX_CERT (R323). -/
def execMailboxCert (s : State) : Host.Outcome State Fault Refusal :=
  s.onCommand (fun w => w == 2) fun s => s.mailDone Config.certificate.toList

/-- MAILBOX_UNKNOWN_COMMAND (R323). -/
def execMailboxUnknownCommand (s : State) : Host.Outcome State Fault Refusal :=
  s.onCommand (fun w => !s.answers w) fun s => s.mailDone (codeWord 0xFF)

/-! ### Binding (R334 to R337, R400) -/

/-- Whether the zero bytes of a template are 0 and its privilege field is not the reserved code (R336, R400). -/
def templateOk (b : List Byte) : Bool :=
  let f := wordAt b 320
  f % 2 == 0 && bits f 40 2 != 2 && bits f 42 22 == 0 && wordAt b 632 == 0 && ((b.drop 696).take 72).all (· == 0)

/-- The physical core that a table entry names, or none where it names no enabled core (R334, R335). -/
def State.entryCore (s : State) (e : Nat) : Option Nat :=
  if e < 5120 ∧ s.enabled e then some e else none

/-- The first condition of R400 that a payload breaks, as its code, or 0. -/
def State.bindCode (s : State) (ctx : BitVec 8) (asid : BitVec 16) (ncore : Nat) (zeros : Bool) (wtab tmpl : Nat)
    (entries : List Nat) (template : List Byte) : Nat :=
  let cores := entries.map s.entryCore
  let some' : List Nat := cores.filterMap id
  if (s.ctx? ctx).isSome then 1
  else if (List.finRange 4).any (fun (d : DieId) => d.val < s.dieCount && (rootFor (s.die d).roots asid).isNone) then 2
  else if ncore < 1 ∨ 4864 < ncore ∨ !zeros then 3
  else if wtab % 8 ≠ 0 ∨ tmpl % 64 ≠ 0 ∨ 2 ^ 22 < wtab + 2 * ncore ∨ 2 ^ 22 < tmpl + 768 then 4
  else if cores.any Option.isNone then 5
  else if some'.any (fun c => (s.core c).ctx.isSome) then 6
  else if some'.eraseDups.length ≠ some'.length then 7
  else if !templateOk template then 8
  else 0

/-- A core is bound as logical core n of a context; each of its harts takes the CSRs that no image holds from the template (R167,
R336, R337). DEDUCED (log 81). -/
def State.bindCore (s : State) (ctx : BitVec 8) (template : List Byte) (core n : Nat) : State :=
  let c := s.core core
  let off (h : Hart) : Hart := { h with
    st := .off, wait := .none, job := .none, arrived := none, gbars := [], upcalls := [], exitVal := 0, ended := true, csr := loadCells templateCells template 640 h.csr }
  let c := (c.mapHarts off).writeCorectl (BitVec.ofNat 64 (wordAt template 688))
  let c := { c with
    tiles := (List.finRange 64).foldl (fun (t : Vector Tile 64) (i : Fin 64) => t.set i { t[i] with st := .empty, gen := 0 }) c.tiles
    watch := Core.reset.watch, fwLastOff := 0, fwCount := 0, fwPend := false, tasks := [], reservations := 0
    k := Core.reset.k, kUpset := 0, kSettle := [], numevt := 0, cgrp := Core.reset.cgrp, arrivals := [], owners := []
    accs := Core.reset.accs, weights := Core.reset.weights, qn := [], ctx := some ctx, lcore := BitVec.ofNat 13 n }
  (s.setCore core c).transfer ⟨core, 0⟩ .loading .loadTemplate 10

/-- The memory-model revision that the runtime gives a context at its binding (R135, R158; log 25). -/
def State.bindRevision (s : State) : Nat :=
  match s.arg with
  | .revision true => 1
  | _ => 2

/-- BIND (R335, R337, R400): one step. -/
def execBindContext (s : State) : Host.Outcome State Fault Refusal :=
  s.onCommand (fun w => s.phase == .ready && w == 3) fun s =>
    let a := s.mailAt 0x40
    let wtab := s.mailAt 0x48
    let tmpl := s.mailAt 0x50
    let ctx := BitVec.ofNat 8 a
    let asid := BitVec.ofNat 16 (a / 2 ^ 8)
    let ncore := bits a 24 13
    let zeros := decide (a < 2 ^ 37 ∧ wtab < 2 ^ 22 ∧ tmpl < 2 ^ 22)
    let entries := (List.range ncore).map fun i => leNat (Memory.readBytes s.mem (windowKey (wtab + 2 * i)) 2)
    let template := Memory.readBytes s.mem (windowKey tmpl) 768
    let code := s.bindCode ctx asid ncore zeros wtab tmpl entries template
    if code ≠ 0 then s.mailDone (codeWord code)
    else
      let s := s.setCtx ctx
        { asid := asid, window := entries, template := template, revision := s.bindRevision, groups := [], overlays := [], windows := [] }
      let s := entries.zipIdx.foldl (fun (s : State) (x : Nat × Nat) => s.bindCore ctx template x.1 x.2) s
      s.mailDone (codeWord 0)

/-! ### Turning harts OFF, and unbinding (R383, R401, R407) -/

/-- The harts of a core enter OFF, and what they had queued at its units and not sent is gone. -/
def State.turnOffCore (s : State) (core : Nat) (code : BitVec 8) : State :=
  let s := (List.finRange 16).foldl (fun (s : State) (h : HartId) => s.turnOff ⟨core, h⟩ code) s
  let unsent (r : Req) : Bool :=
    r.core == core && r.stage == .queued && (match r.src with
      | .hart _ | .engine _ _ _ _ | .copyList _ _ _ _ => true
      | _ => false)
  let lose (f : FaultRec) : FaultRec := { f with
    hart := match f.hart with
      | some h => if h.core = core then none else some h
      | none => none }
  let c := s.core core
  let s := s.setCore core { c with mxq := [], mx := [], wbq := [], wb := none, ceq := [], lists := [], ending := [], niq := [], tileStep := none }
  let d := s.die (dieOf core)
  let s := s.setDie (dieOf core) { d with found := d.found.map lose, holding := d.holding.map lose }
  { s with reqs := s.reqs.filter fun r => !unsent r }

/-- The task queue of a core is emptied; tasks of streams in it end by a fault. DEDUCED (log 71). -/
def State.emptyQueue (s : State) (core : Nat) (code : BitVec 8) : State :=
  let c := s.core core
  let s := c.tasks.foldl (fun (s : State) (t : Task) =>
    s.reportEnd ⟨core, 0⟩ (c.ctx.getD 0) (taskretOf t.record t.prio) true code (BitVec.ofNat 64 (wordAt t.record 0))) s
  s.setCore core { s.core core with tasks := [], reservations := 0 }

/-- A core becomes unbound (R401). DEDUCED (log 76). -/
def State.unbindCore (s : State) (core : Nat) : State :=
  let s := (s.turnOffCore core cUnbound).emptyQueue core cUnbound
  let c := s.core core
  s.setCore core { c with
    tiles := (List.finRange 64).foldl (fun (t : Vector Tile 64) (i : Fin 64) => t.set i { t[i] with st := .empty }) c.tiles
    cgrp := Core.reset.cgrp, arrivals := [], autostart := Core.reset.autostart, automask := Core.reset.automask
    autoprio := Core.reset.autoprio, lcore := 0, ctx := none, migration := none }

/-- UNBIND (R401). -/
def execUnbindContext (s : State) : Host.Outcome State Fault Refusal :=
  s.onCommand (fun w => s.phase == .ready && w == 4) fun s =>
    let a := s.mailAt 0x40
    let ctx := BitVec.ofNat 8 a
    match s.ctx? ctx with
    | none => s.mailDone (codeWord 1)
    | some c =>
      if 2 ^ 8 ≤ a then s.mailDone (codeWord 3)
      else
        let s := (List.finRange 16).foldl (fun (s : State) (i : SlotId) =>
          if (s.slot i).ctx = ctx then s.fenceOutside i cUnbound else s) s
        let s := c.window.foldl (fun (s : State) (core : Nat) => s.unbindCore core) s
        State.mailDone { s with ctxs := tableDel s.ctxs ctx.toNat } (codeWord 0)

end Sys2Proof.Machine
end

