-- ==== Sys2Proof/Machine/IntegerOps.lean ====
section
/-! DEFINITION. RV64I and M computation, jumps and branches (R159, R417). -/

namespace Sys2Proof.Machine

/-- Signed division of RISC-V: −1 for a zero divisor, the dividend on overflow. -/
def rvDiv {n : Nat} (a b : BitVec n) : BitVec n :=
  if b = 0 then BitVec.allOnes n else a.sdiv b

/-- Signed remainder of RISC-V: the dividend for a zero divisor, 0 on overflow. -/
def rvRem {n : Nat} (a b : BitVec n) : BitVec n :=
  if b = 0 then a else a.srem b

/-- Unsigned division of RISC-V. -/
def rvDivu {n : Nat} (a b : BitVec n) : BitVec n := if b = 0 then BitVec.allOnes n else a / b

/-- Unsigned remainder of RISC-V. -/
def rvRemu {n : Nat} (a b : BitVec n) : BitVec n := if b = 0 then a else a % b

/-- A flag as a register value. -/
def boolWord (b : Bool) : Word := if b then 1 else 0

/-- 64-bit register computation (R159). -/
def alu (o : AluOp) (a b : Word) : Word :=
  match o with
  | .add => a + b
  | .sub => a - b
  | .sll => a <<< (b.toNat % 64)
  | .slt => boolWord (a.slt b)
  | .sltu => boolWord (a.ult b)
  | .xor => a ^^^ b
  | .srl => a >>> (b.toNat % 64)
  | .sra => a.sshiftRight (b.toNat % 64)
  | .or => a ||| b
  | .and => a &&& b
  | .mul => a * b
  | .mulh => BitVec.ofInt 64 (a.toInt * b.toInt / 2 ^ 64)
  | .mulhsu => BitVec.ofInt 64 (a.toInt * b.toNat / 2 ^ 64)
  | .mulhu => BitVec.ofNat 64 (a.toNat * b.toNat / 2 ^ 64)
  | .div => rvDiv a b
  | .divu => rvDivu a b
  | .rem => rvRem a b
  | .remu => rvRemu a b

/-- 32-bit register computation on the low halves (R159). -/
def aluW32 (o : AluWOp) (a b : BitVec 32) : BitVec 32 :=
  match o with
  | .addw => a + b
  | .subw => a - b
  | .sllw => a <<< (b.toNat % 32)
  | .srlw => a >>> (b.toNat % 32)
  | .sraw => a.sshiftRight (b.toNat % 32)
  | .mulw => a * b
  | .divw => rvDiv a b
  | .divuw => rvDivu a b
  | .remw => rvRem a b
  | .remuw => rvRemu a b

/-- 32-bit register computation, sign-extended (R159). -/
def aluW (o : AluWOp) (a b : Word) : Word := (aluW32 o (a.setWidth 32) (b.setWidth 32)).signExtend 64

/-- The register operation of a register-immediate form. -/
def immAlu : ImmOp → AluOp
  | .addi => .add
  | .slti => .slt
  | .sltiu => .sltu
  | .xori => .xor
  | .ori => .or
  | .andi => .and

/-- The register operations of the shifts. -/
def shiftAlu : ShiftOp → AluOp
  | .sll => .sll
  | .srl => .srl
  | .sra => .sra
def shiftAluW : ShiftOp → AluWOp
  | .sll => .sllw
  | .srl => .srlw
  | .sra => .sraw

/-- Branch conditions (R159). -/
def branchHolds (c : BranchCond) (a b : Word) : Bool :=
  match c with
  | .beq => a == b
  | .bne => a != b
  | .blt => a.slt b
  | .bge => !a.slt b
  | .bltu => a.ult b
  | .bgeu => !a.ult b

/-- The registers that a computation, jump or branch reads, in field order (R30). -/
def intReads : IntOp → List Reg
  | .lui _ _ | .auipc _ _ | .jal _ _ => []
  | .jalr _ rs1 _ | .opImm _ _ rs1 _ | .shiftImm _ _ rs1 _ | .addiw _ rs1 _ | .shiftImmW _ _ rs1 _ => [rs1]
  | .branch _ rs1 rs2 _ | .op _ _ rs1 rs2 | .opW _ _ rs1 rs2 => [rs1, rs2]

/-- The destination register and its value, or none for a branch. -/
def intResult (o : IntOp) (h : Hart) : Option (Reg × Word) :=
  match o with
  | .lui rd imm => some (rd, (imm ++ 0#12).signExtend 64)
  | .auipc rd imm => some (rd, h.pc + (imm ++ 0#12).signExtend 64)
  | .jal rd _ => some (rd, h.pc + 4)
  | .jalr rd _ _ => some (rd, h.pc + 4)
  | .branch _ _ _ _ => none
  | .opImm o rd rs1 imm => some (rd, alu (immAlu o) (h.readX rs1) (imm.signExtend 64))
  | .shiftImm o rd rs1 sh => some (rd, alu (shiftAlu o) (h.readX rs1) (sh.zeroExtend 64))
  | .addiw rd rs1 imm => some (rd, aluW .addw (h.readX rs1) (imm.signExtend 64))
  | .shiftImmW o rd rs1 sh => some (rd, aluW (shiftAluW o) (h.readX rs1) (sh.zeroExtend 64))
  | .op o rd rs1 rs2 => some (rd, alu o (h.readX rs1) (h.readX rs2))
  | .opW o rd rs1 rs2 => some (rd, aluW o (h.readX rs1) (h.readX rs2))

/-- The target of a jump, or of a branch that is taken. -/
def intTarget (o : IntOp) (h : Hart) : Option Word :=
  match o with
  | .jal _ imm => some (h.pc + (imm ++ 0#1).signExtend 64)
  | .jalr _ rs1 imm => some ((h.readX rs1 + imm.signExtend 64) &&& ~~~ 1#64)
  | .branch c rs1 rs2 imm =>
    if branchHolds c (h.readX rs1) (h.readX rs2) then some (h.pc + (imm ++ 0#1).signExtend 64) else none
  | _ => none

/-- INTEGER_OP (R159): the destination takes the result and the PC moves on or to the target; a target that is not a
multiple of 4 traps with cause 0 (R417), and an empty source parks the hart (R30). -/
def execIntegerOp (op : IntOp) (s : State) : Host.Outcome State Fault Refusal :=
  match s.me.firstEmpty (intReads op) with
  | some r => .next (s.park (.xreg r))
  | none =>
    match intTarget op s.me with
    | some t =>
      if t.extractLsb' 0 2 = 0 then
        let h := match intResult op s.me with
          | some (rd, v) => s.me.fill rd v
          | none => s.me
        .next (s.setMe { h.advance with pc := t })
      else .next (s.trap 0 t)
    | none =>
      match intResult op s.me with
      | some (rd, v) => .next (s.complete (s.me.fill rd v))
      | none => .next (s.complete s.me)

end Sys2Proof.Machine
end

