-- ==== Sys2Proof/Machine/SoftErrors.lean ====
section
/-! DEFINITION. Soft errors: those that are corrected, and those of registers, latches, bins, accumulators, weight slots and tables
(R360, R377 to R379). -/

namespace Sys2Proof.Machine

/-! ### What an instruction reads and writes, by the numbers of R378 -/

/-- x-registers as elements. -/
def xElements (l : List Reg) : List (BitVec 4 × BitVec 12) :=
  (l.filter fun r => r != 0).map fun r => (0, r.zeroExtend 12)

/-- Ports as elements. -/
def portElements (l : List (BitVec 6)) : List (BitVec 4 × BitVec 12) := l.map fun p => (4, p.zeroExtend 12)

/-- The unit of a trigger, and the operand latches that its function uses (R210 to R262). -/
def triggerUses : Instr → Option (EngineUnit × Trig × List (BitVec 6))
  | .vaAdd g _ | .vaSub g _ | .vaMul g _ | .vaMin g _ | .vaMax g _ | .vaSll g _ | .vaSra g _ | .vaSrl g _ | .vaFadd g _
  | .vaFsub g _ | .vaFmul g _ | .vaFmin g _ | .vaFmax g _ | .vaSgnj g _ | .vaAnd g | .vaOr g | .vaXor g | .vaSelW g | .vaSelD g
  | .vaCeqW g | .vaCltW g | .vaCltuW g | .vaCeqD g | .vaCltD g | .vaFceqS g | .vaFcltS g | .vaFcleS g | .vaFceqD g | .vaFcltD g
  | .vaFcleD g => some (.va, g, [0x10, 0x11, 0x13])
  | .vaFma g _ | .vaFnma g _ => some (.va, g, [0x10, 0x11, 0x12, 0x13])
  | .vaExp2S g | .vaLog2S g | .vaRcpS g | .vaRsqrtS g => some (.va, g, [0x10, 0x13])
  | .vsPerm g _ | .vsBcast g _ | .vsZiplo g _ | .vsZiphi g _ | .vsCompress g _ | .vsExpand g _ | .vsRotb g | .vsRsumD g
  | .vsRmaxD g | .vsRminD g | .vsRsumS g | .vsRmaxS g | .vsRminS g | .vsRsumBf g | .vsRmaxBf g | .vsRminBf g | .vsRsumHf g
  | .vsRmaxHf g | .vsRminHf g | .vsIrsumW g | .vsIrsumD g | .vsIrmaxW g | .vsIrminW g | .vsIrmaxuW g | .vsIrminuW g | .vsIrmaxD g
  | .vsIrminD g | .vsIrmaxuD g | .vsIrminuD g => some (.vs, g, [0x15, 0x16])
  | .cvI8I32 g | .cvMxencE4m3 g | .cvMxencE5m2 g | .cvF4encLo g | .cvF4encHi g | .cvBf16F32 g _ | .cvF16F32 g _ | .cvF32F64 g _
  | .cvI32F32 g _ | .cvI64F64 g _ | .cvF32I32 g _ | .cvF64I64 g _ | .cvE4m3F32 g _ | .cvE5m2F32 g _ | .cvF32E4m3 g _
  | .cvF32E5m2 g _ | .cvI32I8 g _ | .cvF32Bf16 g _ | .cvF32F16 g _ | .cvF64F32 g _ => some (.cv, g, [0x18])
  | .lsLd g | .lsLdlo g | .lsLdhi g | .lsLdn g => some (.ls, g, [0x1B])
  | .lsSt g | .lsStm g => some (.ls, g, [0x1B, 0x1C])
  | .mxMm g | .mxMmw g | .mxMmd g | .mxMmn g | .mxZero g | .mxSt g | .mxLd g => some (.mx, g, [0x1E, 0x1F, 0x20])
  | .wbLd g | .wbLdc g | .wbClr g => some (.wb, g, [0x22])
  | .ceRun g | .ceRunv g => some (.ce, g, [0x24])
  | .niSt g t | .niTst g t | .niVaddI32 g t | .niVaddI64 g t | .niVaddF32 g t | .niVaddF64 g t | .niVaddBf16 g t
  | .niTaddI32 g t | .niTaddF32 g t | .niTaddF64 g t => some (.ni, g, if t = 0 then [0x26, 0x28] else [0x26, 0x27, 0x28])
  | .niGet g t => some (.ni, g, if t = 0 then [0x26] else [0x26, 0x27])
  | .niMsg g => some (.ni, g, [0x26, 0x28])
  | .niWin g | .niCap g => some (.ni, g, [0x26])
  | _ => none

/-- The x-registers that an instruction reads. -/
def xReads : Instr → List Reg
  | .scalarLoad _ _ a _ | .lr _ _ _ _ a | .fbump a | .trel a | .twait a | .ocinv a | .gbar a | .psave a | .pload a | .ovunmap a
  | .kset a _ | .hreap a _ | .cmig a _ | .mvxpD _ _ a | .mvxpW _ _ a | .mvbxD _ a | .mvbxW _ a => [a]
  | .scalarStore _ a b _ | .amo _ _ _ _ _ a b | .sc _ _ _ _ a b | .sfenceVma a b | .fwait b a | .tdef b a | .tarm b a | .hop b a
  | .hsave b a | .hload b a | .ovmap b a | .rfadd _ b a _ | .rfswap _ b a _ | .rfand _ b a _ | .rfor _ b a _ | .rfxor _ b a _
  | .rfmin _ b a _ | .rfmax _ b a _ | .rfminu _ b a _ | .rfmaxu _ b a _ | .rfaddf _ b a _ | .msend b a _ | .own b a _
  | .gsum b a _ | .gmax b a _ | .gmin b a _ | .hstart b a _ | .tqpush b a _ | .tqpop b a _ => [a, b]
  | .pstf c _ b a | .raddfInt c _ b a | .raddfFloat c _ b a | .rcas c _ b a _ => [a, b, c]
  | .callat b a _ _ => [a, b, 10, 11, 12, 13]
  | .hstop => [10]
  | .integerOp o => intReads o
  | .csrAccess _ imm _ a _ => if imm then [] else [a]
  | _ => []

/-- The ports that an instruction reads: those of its source moves, and a trigger's source and operand latches (R204, R206). -/
def portReads (i : Instr) : List (BitVec 6) :=
  match i with
  | .mov2 b _ a _ => [a, b]
  | .mov a _ => [a]
  | .mvpxD p _ _ | .mvpxW p _ _ => [p]
  | .psave _ => (List.range 16).map (BitVec.ofNat 6) ++ narrowLayout.map Prod.fst
  | i => match triggerUses i with
    | some (u, g, l) => if g.port = operandPort u then l else g.port :: l.filter (· != operandPort u)
    | none => []

/-- The elements that an instruction reads (R377). -/
def elementsRead (i : Instr) : List (BitVec 4 × BitVec 12) :=
  xElements (xReads i) ++ portElements (portReads i) ++ match i with
    | .qmov q _ => [(1, q.zeroExtend 12)]
    | .kget k _ => [(2, k.zeroExtend 12)]
    | .csrAccess op _ rd a n => if op = .rw ∧ rd = 0 then [] else if op != .rw ∧ a = 0 ∧ rd = 0 then [] else [(3, n)]
    | .mret => [(3, 0x300), (3, 0x341)]
    | .sret => [(3, 0x300), (3, 0x141)]
    | _ => []

/-- The elements that an instruction writes whole (R377). -/
def elementsWritten (i : Instr) : List (BitVec 4 × BitVec 12) :=
  match i with
  | .scalarLoad _ d _ _ | .amo _ _ _ _ d _ _ | .lr _ _ _ d _ | .sc _ _ _ d _ _ | .mvpxD _ _ d | .mvpxW _ _ d | .rfadd _ _ _ d
  | .rfswap _ _ _ d | .rfand _ _ _ d | .rfor _ _ _ d | .rfxor _ _ _ d | .rfmin _ _ _ d | .rfmax _ _ _ d | .rfminu _ _ _ d
  | .rfmaxu _ _ _ d | .rfaddf _ _ _ d | .rcas _ _ _ _ d | .own _ _ d | .gsum _ _ d | .gmax _ _ d | .gmin _ _ d | .hstart _ _ d
  | .tqpush _ _ d | .tqpop _ _ d | .kget _ d | .hreap _ d | .cmig _ d | .qmov _ d | .rfenceRel _ d | .rfenceAcq _ d => xElements [d]
  | .integerOp o => match intResult o Hart.reset with
    | some (d, _) => xElements [d]
    | none => []
  | .csrAccess op _ rd _ n => xElements [rd] ++ if op = .rw then [(3, n)] else []
  | .kset _ k => [(2, k.zeroExtend 12)]
  | .callat _ _ _ q => [(1, q.zeroExtend 12)]
  | .mov2 _ c _ d => portElements [c, d]
  | .mov _ d => portElements [d]
  | .mvbxD p _ | .mvbxW p _ | .mvip p _ => portElements [p]
  | i => match triggerUses i with
    | some (u, g, _) => portElements (if g.port = operandPort u then [resultPort u] else [resultPort u, operandPort u])
    | none => []

/-! ### Registers, latches and bins -/

/-- The issuing hart's elements with an upset, those of its core's k-registers included. -/
def State.upsetHere (s : State) (e : BitVec 4 × BitVec 12) : Bool :=
  if e.1 = 2 then s.myCore.kUpset.getLsbD e.2.toNat else s.me.upsets.contains e

/-- Elements no longer have an upset. -/
def State.clearUpsets (s : State) (l : List (BitVec 4 × BitVec 12)) : State :=
  let s := s.setMe { s.me with upsets := s.me.upsets.filter fun x => !l.contains x }
  let ks := l.filterMap fun e => if e.1 = 2 then some e.2.toNat else none
  s.setMyCore { s.myCore with kUpset := ks.foldl (fun (v : BitVec 8) (k : Nat) => v &&& ~~~ (1#8 <<< k)) s.myCore.kUpset }

/-- The read that finds an upset (R377): the instruction performs nothing, the element is repaired, and ENGSOFT becomes pending at
the hart. -/
def State.findUpset (s : State) (e : BitVec 4 × BitVec 12) : State :=
  let s := s.clearUpsets [e]
  let s := if e.1 = 2 then s.setMyCore { s.myCore with k := s.myCore.k.set (e.2.toNat % 8) 0 (Nat.mod_lt _ (by decide)) }
    else s.setMe (s.me.repair e)
  s.raise (dieOf s.cur.core) (s.hartRecord s.cur 0x27 0 none 0 (e.1 ++ e.2) none)

/-- What becomes of an instruction as its hart's slot would run it (R377): it runs, or it finds an upset of what it reads. An
upset is gone once an instruction that writes its element whole has issued; DESIGN CHOICE (log 91). -/
def State.throughUpsets (s : State) (i : Instr) : State ⊕ State :=
  if s.me.upsets.isEmpty ∧ s.myCore.kUpset = 0 then .inr s
  else match (elementsRead i).find? s.upsetHere with
    | some e => .inl (s.findUpset e)
    | none =>
      let l := elementsWritten i
      let s := s.setMe { s.me with rewrites := some (s.me.pc, l) }
      .inr (if (s.me.firstEmpty (xReads i)).isSome then s else s.clearUpsets (l.filter fun e => e.1 == 2))

/-- Whether an instruction reads a register that the settlement of a pending fault has filled with 0, in a slot before the first in which
its enabled trap may be taken: it does not issue (R363, R366, R420). DEDUCED (log 50). -/
def State.readsSettled (s : State) (i : Instr) : Bool :=
  (s.faultPending s.cur).isSome
    && s.me.pending.any fun f => decide (s.coreCycle s.cur.core < f.written + 2) && f.reg.any fun r => (xReads i).contains r

/-- A soft error comes to an element of a hart. -/
def State.upset (s : State) (h : HartRef) (file : BitVec 4) (n : BitVec 12) : State :=
  let v := s.hart h
  let known : Bool := match file.toNat with
    | 0 => decide (0 < n.toNat ∧ n.toNat < 32)
    | 1 => decide (n.toNat < 8)
    | 3 => (csrCell n.toNat).isSome
    | 4 => decide (n.toNat < 0x2A ∧ n.toNat ≠ 0x1A)
    | _ => false
  let live : Bool := v.st == .running || v.st == .parked || v.st == .held
  if file = 2 ∧ n.toNat < 8 then
    let c := s.core h.core
    s.setCore h.core { c with kUpset := c.kUpset ||| (1#8 <<< n.toNat) }
  else if known ∧ live then s.setHart h { v.rewritten with upsets := (file, n) :: v.rewritten.upsets.filter fun x => x != (file, n) }
  else s

/-! ### Other structures -/

/-- A die counts a corrected soft error, and records each multiple of THRESH (R377, R379). -/
def State.countCorrected (s : State) (d : DieId) (hbm : Bool) : State :=
  let v := s.die d
  if v.softCorr = BitVec.allOnes 32 then s
  else
    let n := v.softCorr + 1
    let s := s.setDie d { v with softCorr := n }
    if v.softThresh ≠ 0 ∧ n.toNat % v.softThresh.toNat = 0 then
      s.raise d (s.agentRecord d 0x64 (if hbm then 10 else 9) 0 0 0 0 0)
    else s

/-- An agent reads an entry of a table with an error that cannot be corrected (R377): a record, and every stream slot of the
entry's context is fenced. -/
def State.tableError (s : State) (d : DieId) (source : BitVec 4) (ctx : BitVec 8) : State :=
  let s := s.raise d (s.agentRecord d cHomeSoft source.toNat 0 ctx 0 0 0)
  ((List.finRange 16).filter fun i => (s.slot i).ctx == ctx).foldl
    (fun (s : State) (i : SlotId) => s.fenceOutside i cHomeSoft) s

/-- A soft error as it comes (R377). DESIGN CHOICE (log 91). -/
def State.softError (s : State) (e : SoftError) : State :=
  match e with
  | .corrected d hbm => s.countCorrected d hbm
  | .scratch core off => s.addPoison (spadKey core off)
  | .hbm d n => if n < 2 ^ 37 then s.addPoison (hbmKey d.val n) else s
  | .accumulator core n =>
    let c := s.core core
    s.setCore core (c.setAcc n { c.acc n with poisoned := true })
  | .weightSlot core n =>
    let c := s.core core
    s.setCore core { c with
      weights := c.weights.set (n % 64) { c.weight n with poisoned := true } (Nat.mod_lt _ (by decide)) }
  | .element h file n => s.upset h file n
  | .translation d n =>
    let v := s.die d
    if n < v.tlb.length then (s.setDie d { v with tlb := v.tlb.eraseIdx n }).countCorrected d false else s
  | .table d source ctx => s.tableError d source ctx

/-- The die of a soft error's structure, or none where the device holds no such structure. -/
def State.softErrorDie (s : State) (e : SoftError) : Option DieId :=
  let core (n : Nat) : Option DieId := if n < 4 * 1280 then some (dieOf n) else none
  let die : Option DieId := match e with
    | .corrected d _ | .hbm d _ | .translation d _ => some d
    | .table d source _ => if 1 < source.toNat ∧ source.toNat < 8 then some d else none
    | .scratch n off => if off < 0x40000 then core n else none
    | .accumulator n _ | .weightSlot n _ => core n
    | .element h _ _ => core h.core
  die.filter fun d => decide (d.val < s.dieCount) && !(s.die d).stopped

end Sys2Proof.Machine
end

