-- ==== Sys2Proof/Machine/Clocks.lean ====
section
/-! DEFINITION. Die clocks as they halt and relock, the limits of temperature and power, die boundaries and splits, and scrubbing
(R317, R324, R377, R406, R407, R411, R412). -/

namespace Sys2Proof.Machine

/-- A step of a die. -/
def State.atDie (s : State) (f : DieId → State) : Host.Outcome State Fault Refusal :=
  match s.arg with
  | .die d => .next (f d)
  | _ => .next s

/-! ### Clock steps (R317) -/

/-- CLOCK_HALT (R317): the clock halts after its die cycle of slot 15, of which HALTREF holds the reference time. -/
def execClockHalt (s : State) : Host.Outcome State Fault Refusal :=
  s.atDie fun d =>
    let v := s.die d
    match v.haltAfter with
    | some c =>
      if v.halted ∨ s.time < s.cycleTime d (c + 1) then s
      else s.setDie d { v with
        haltAfter := none, halted := true, anchorTime := s.cycleTime d (c + 1), anchorCycle := c
        haltRef := BitVec.ofNat 64 (s.cycleTime d c / ticksUnit) }
    | none => s

/-- Messages that a halted die has held go on, those from other devices first; another die may still hold them (R25, R317). -/
def State.sendHeld (s : State) : State :=
  let s := s.rxHeld.foldl (fun (s : State) (x : Nat × Nat × FabricMsg) => s.takeMessage x.1 x.2.1 x.2.2) { s with rxHeld := [] }
  s.txHeld.foldl (fun (s : State) (x : DieId × Nat × FabricMsg) => s.toFabric x.1 x.2.1 x.2.2) { s with txHeld := [] }

/-- CLOCK_RELOCK (R317): the first new die cycle, of slot 0, begins now, 1,500 to 1,501 ticks after the last old one ended; a die
above code 10 that its limit holds steps on (R412). -/
def execClockRelock (s : State) : Host.Outcome State Fault Refusal :=
  s.atDie fun d =>
    let v := s.die d
    if !v.halted ∨ s.time < v.anchorTime + haltLeast then s
    else
      let t := min s.time (v.anchorTime + haltMost)
      let c := v.anchorCycle + 1
      let s := s.setDie d { v with
        halted := false, anchorTime := t, anchorCycle := c, stepRef := BitVec.ofNat 64 (t / ticksUnit)
        stepCyc := BitVec.ofNat 64 c, stepOld := v.cur, cur := v.target, stepNew := v.target
        stepCount := v.stepCount + 1, busy := false }
      (if v.hot ∧ 10 < v.target.toNat then s.requestStep d (v.target - 1) else s).sendHeld

/-! ### Power (R324) -/

/-- The die of the highest power among those whose clock can be lowered. DEDUCED (log 67). -/
def State.hottest (s : State) : Option DieId :=
  let may := (List.finRange 4).filter fun (d : DieId) =>
    let v := s.die d
    d.val < s.dieCount && !v.stopped && decide (10 < v.cur.toNat)
  may.foldl (fun (b : Option DieId) (d : DieId) => match b with
    | none => some d
    | some x => if (s.die x).pwrNow < (s.die d).pwrNow then some d else b) none

/-- PWRNOW takes the readings of a millisecond, and the package's power joins those of the last 10 ms. DEDUCED (log 67). -/
def State.readPower (s : State) (w : Vector (BitVec 16) 4) : State :=
  let s := (List.finRange 4).foldl (fun (s : State) (d : DieId) => s.setDie d { s.die d with pwrNow := w[d] }) s
  { s with pwrLog := ((w.toList.map BitVec.toNat).sum :: s.pwrLog).take 10 }

/-- Whether the package's power, averaged over the last 10 ms, is at most so many percent of the limit (R324). -/
def State.powerWithin (s : State) (percent : Nat) : Bool := decide (s.pwrLog.sum * 100 ≤ s.pwrLimit.toNat * percent * s.pwrLog.length)

/-- POWER_LIMIT_STEP (R324): above the limit the hottest die is lowered by one step, unless it is BUSY. -/
def execPowerLimitStep (s : State) : Host.Outcome State Fault Refusal :=
  match s.arg with
  | .power w =>
    let s := s.readPower w
    (match s.hottest with
     | some d =>
       let v := s.die d
       if s.powerWithin 100 ∨ v.busy then .next s
       else .next (State.requestStep (s.setDie d { v with lowered := v.lowered + 1 }) d (v.cur - 1))
     | none => .next s)
  | _ => .next s

/-- POWER_RESTORE_STEP (R324): at 95 % of the limit or below, the first die that was lowered is raised by one step. -/
def execPowerRestoreStep (s : State) : Host.Outcome State Fault Refusal :=
  match s.arg with
  | .power w =>
    let s := s.readPower w
    (match (List.finRange 4).find? (fun (d : DieId) =>
        let v := s.die d
        decide (0 < v.lowered) && !v.busy && !v.hot && !v.stopped && decide (v.cur.toNat < 18)) with
     | some d =>
       if !s.powerWithin 95 then .next s
       else
         let v := s.die d
         .next (State.requestStep (s.setDie d { v with lowered := v.lowered - 1 }) d (v.cur + 1))
     | none => .next s)
  | _ => .next s

/-! ### Splits (R406, R407) -/

/-- Dies that have not stopped reached from dies over working boundaries, in so many rounds (R407). -/
def State.reached (s : State) : Nat → List DieId → List DieId
  | 0, l => l
  | n + 1, l => s.reached n ((List.finRange 4).filter fun (d : DieId) =>
      l.contains d || !(s.die d).stopped && (List.finRange 4).any fun (b : Fin 4) =>
        let (x, y) := boundaryDies b
        s.boundaries[b] && ((x == d && l.contains y) || (y == d && l.contains x)))

/-- Whether a window entry has tasks, steps or parts on dies that stop (R407). -/
def State.worksOn (s : State) (i : SlotId) (e : Entry) (stop : List DieId) : Bool :=
  let v := s.slot i
  let runs (core : Nat) : Bool := stop.contains (dieOf core) && (
    let c := s.core core
    c.tasks.any (fun t =>
      let w := taskretOf t.record t.prio
      taskSt w && taskSlot w == i && taskEntry w == e.n % 256)
    || c.harts.toList.any (fun h => h.st != .off && taskSt h.taskWord && taskSlot h.taskWord == i
      && taskEntry h.taskWord == e.n % 256))
  e.st == .issued && (
    (e.op == 0x40 && s.cores.any fun c => runs c.1)
    || (expands e.op && decide (e.step < e.steps) && stop.contains (s.executionDie v e))
    || s.cellar.any fun x => x.2.2.owner == .entry i e.n && stop.contains (Fin.ofNat 4 (x.1.val / 2)))

/-- Dies stop (R407, R412), with the code that records and slots take: their slots are fenced, entries of other slots that work
there are marked, their harts enter OFF, their ports are quiesced, and what they hold is out of reach.
DEDUCED (log 68). -/
def State.stopDies (s : State) (stop : List DieId) (code : BitVec 8) : State :=
  let slots := (List.finRange 16).filter fun (i : SlotId) => (s.slot i).st != .free
  let s := slots.foldl (fun (s : State) (i : SlotId) =>
    let v := s.slot i
    if stop.contains v.lead then s.fenceOutside i code
    else v.window.foldl (fun (s : State) (e : Entry) =>
      if s.worksOn i e stop then s.markEntry i e code 4 0 0 (s.agentWord v.lead) else s) s) s
  let gone (x : Fin 8 × CellarEngine × Part) : Bool := stop.contains (Fin.ofNat 4 (x.1.val / 2))
  let s := (s.cellar.filter gone).foldl (fun (s : State) (x : Fin 8 × CellarEngine × Part) =>
    match x.2.2.owner with
    | .entry i n => s.endPart i n x.2.2.id none
    | .foreign lead tag => s.tellDone (Fin.ofNat 4 (x.1.val / 2)) lead tag x.2.2.rows (some (cUnbacked, 0))) s
  let s := { s with cellar := s.cellar.filter fun x => !gone x }
  let cores := (s.cores.map (·.1)).filter fun c => stop.contains (dieOf c)
  let s := cores.foldl (fun (s : State) (c : Nat) => (s.turnOffCore c code).emptyQueue c code) s
  let s := (List.finRange 18).foldl (fun (s : State) (p : PortId) =>
    let v := s.ports[p]
    match stop.contains (Fin.ofNat 4 (portDie p.val)), v.st with
    | true, .active | true, .degraded => { s with ports := s.ports.set p { v with st := .quiesced, since := s.time } }
    | true, .training => { s with ports := s.ports.set p { v with st := .down, since := s.time } }
    | _, _ => s) s
  stop.foldl (fun (s : State) (d : DieId) => s.setDie d { s.die d with stopped := true }) s

/-- The dies that a split stops, and DIESPLIT, or THERMAL, on die 0 with the dies that continue (R407, R412). -/
def State.split (s : State) (stop : List DieId) (code : BitVec 8) : State :=
  if stop.isEmpty then s
  else
    let s := s.stopDies stop code
    let on := (List.finRange 4).filter fun (d : DieId) => d.val < s.dieCount && !(s.die d).stopped
    let mask := (on.map fun d => 2 ^ d.val).sum
    s.raise 0 (s.agentRecord 0 code 9 0 0 0 0 (BitVec.ofNat 16 mask))

/-- Whether the route between two dies crosses a boundary (R305, R406). -/
def State.crosses (s : State) (b : Fin 4) (from_ to_ : DieId) : Bool :=
  let steps (l : List DieId) : List (DieId × DieId) := l.zip (l.drop 1)
  (steps (s.routeDies from_ to_)).any fun x => boundaryDies b == x || boundaryDies b == (x.2, x.1)

/-- Whether a request, or its answer, is in flight across a boundary (R406). -/
def State.inFlightAcross (s : State) (b : Fin 4) (r : Req) : Bool :=
  match r.route, r.stage, r.src with
  | some (dev, die), .sent, _ => dev == s.device.toNat && s.crosses b r.entryDie (Fin.ofNat 4 die)
  | some (dev, die), .answered _, .foreign _ _ _ _ => dev == s.device.toNat && s.crosses b (Fin.ofNat 4 die) r.entryDie
  | some (dev, die), .answered _, _ => dev == s.device.toNat && s.crosses b (Fin.ofNat 4 die) (dieOf r.core)
  | _, _, _ => false

/-- DIE_BOUNDARY_FAILURE (R406, R407): a record on both dies; a request in flight across it, or its answer, comes no further; and dies
that are no longer connected to die 0 stop. DEDUCED (log 68). -/
def execDieBoundaryFailure (s : State) : Host.Outcome State Fault Refusal :=
  match s.arg with
  | .boundary b =>
    if s.dieCount < 4 ∨ !s.boundaries[b] then .next s
    else
      let (x, y) := boundaryDies b
      let record (s : State) (d : DieId) : State :=
        s.raise d (s.agentRecord d 0x61 9 0 0 0 0 (BitVec.ofNat 16 (0x100 + b.val)))
      let s' := s
      let s := record (record { s with boundaries := s.boundaries.set b false } x) y
      let lost := (s'.reqs.filter fun r => !s'.isCut r && s'.inFlightAcross b r).map (·.id)
      let s := { s with
        cuts := s.cuts ++ lost.map fun i => (i, s.time)
        reqs := s.reqs.map fun (r : Req) => if lost.contains r.id then { r with stage := .sent } else r }
      let on := s.reached 4 [0]
      .next (s.split ((List.finRange 4).filter fun (d : DieId) => !on.contains d && !(s.die d).stopped) 0x62)
  | _ => .next s

/-! ### Temperature (R412) -/

/-- A reading of a die's hottest sensor. DEDUCED (log 66). -/
def State.readHeat (s : State) (d : DieId) (degC : BitVec 8) : State :=
  let v := s.die d
  s.setDie d { v with
    tempMax := degC
    coolSince := if degC.toNat < 95 then some (v.coolSince.getD s.time) else none }

/-- A step of a temperature reading. -/
def State.atHeat (s : State) (f : State → DieId → Nat → State) : Host.Outcome State Fault Refusal :=
  match s.arg with
  | .heat d t => if s.dieCount ≤ d.val then .next s else .next (f (s.readHeat d t) d t.toNat)
  | _ => .next s

/-- A die reaches 105 degrees (R412): the record, and the first of the single steps down to code 10. -/
def State.overheat (s : State) (d : DieId) : State :=
  let v := s.die d
  if v.hot ∨ v.stopped then s
  else
    let s := s.raise d (s.agentRecord d 0x65 11 0 0 0 0 0)
    let s := s.setDie d { s.die d with hot := true }
    if 10 < v.cur.toNat then s.requestStep d (v.cur - 1) else s

/-- THERMAL_LIMIT (R412). -/
def execThermalLimit (s : State) : Host.Outcome State Fault Refusal :=
  s.atHeat fun s d t =>
    if t < 105 then s else s.overheat d

/-- THERMAL_STOP (R412): a die that was not at its limit yet reaches it first; it stops as a split's group does; with die 0 all dies
stop, and the device is in RECOVERY. -/
def execThermalStop (s : State) : Host.Outcome State Fault Refusal :=
  s.atHeat fun s d t =>
    if t < 115 ∨ (s.die d).stopped then s
    else
    let s := s.overheat d
    if d = 0 then
      let s := s.stopDies ((List.finRange 4).filter fun (x : DieId) => x.val < s.dieCount) 0x65
      let s := s.raise 0 (s.agentRecord 0 0x65 11 0 0 0 0 0)
      { s with phase := .recovery, mailStatus := s.mailStatus || s.mailCommand.isNone }
    else
      -- A die that stops takes its boundaries with it.
      let cut := (List.finRange 4).foldl (fun (b : Vector Bool 4) (k : Fin 4) =>
        if (boundaryDies k).1 = d ∨ (boundaryDies k).2 = d then b.set k false else b) s.boundaries
      let on := State.reached { s with boundaries := cut } 4 [0]
      s.split ((List.finRange 4).filter fun (x : DieId) => !on.contains x && !(s.die x).stopped) 0x65

/-- THERMAL_RECOVER (R412): after 100 ms below 95 degrees the die may leave code 10. -/
def execThermalRecover (s : State) : Host.Outcome State Fault Refusal :=
  s.atHeat fun s d _ =>
    let v := s.die d
    match v.coolSince with
    | some t => if v.hot ∧ !v.stopped ∧ t + 100000000 * ticksUnit ≤ s.time then s.setDie d { v with hot := false } else s
    | none => s

/-! ### Scrubbing (R377) -/

/-- HBM_SCRUB (R377): the unit is poisoned, and its die records it; and the soft errors of other structures. -/
def execHbmScrub (s : State) : Host.Outcome State Fault Refusal :=
  match s.arg with
  | .place d n =>
    if s.dieCount ≤ d.val ∨ 2 ^ 37 ≤ n ∨ (s.die d).stopped then .next s
    else
      .next ((s.addPoison (hbmKey d.val n)).raise d (s.agentRecord d 0x63 10 0 0 0 0 0))
  | .softError e => .next (if (s.softErrorDie e).isSome then s.softError e else s)
  | _ => .next s

end Sys2Proof.Machine
end

