-- ==== Sys2Proof/Machine/Host.lean ====
section
/-! DEFINITION. The host's accesses to the aperture and the coherent window, its flush commands, and its link (R134, R313 to
R315, R408). -/

namespace Sys2Proof.Machine

/-! ### The flush commands (R315) -/

/-- A write of a flush command to HFLCMD, which a running one makes ignored; the command waits for the aperture writes that the
port has received and that it covers. -/
def State.flushCommand (s : State) (cmd : Nat) (covers : State → Req → Bool) : Host.Outcome State Fault Refusal :=
  s.onWrite (fun _ off w => off == 0x30000 && field w 0 2 == cmd) fun s _ _ _ =>
    if s.hflBusy then s
    else
      let waits := (s.reqs.filter fun r => r.src == .host && r.isWrite && covers s r).map (·.id)
      { s with hflBusy := true, hflWaits := waits }

/-- FLUSH (R315). -/
def execFlush (s : State) : Host.Outcome State Fault Refusal := s.flushCommand 1 fun _ _ => true

/-- FLUSHRANGE (R315). -/
def execFlushrange (s : State) : Host.Outcome State Fault Refusal :=
  s.flushCommand 2 fun s r =>
    r.ctx == some s.hflCtx && decide (s.hflAddr.toNat ≤ r.addr.toNat + (r.data.length - 1)
      ∧ r.addr.toNat < s.hflAddr.toNat + s.hflLen.toNat)

/-- A flush that waits for nothing more performs its flag arrival, for which the host gives up its copy of the line (R314,
R315). A poisoned flag word counts nothing and is recorded. -/
def State.finishFlush (s : State) : State :=
  let off := 8 * s.hflFlag.toNat
  if s.hostLines.contains (off / 64) then
    { s with backInv := if s.backInv.contains (off / 64, 0) then s.backInv else s.backInv ++ [(off / 64, 0)] }
  else
    let s := { s with hflBusy := false, hflWaits := [] }
    if s.anyPoisoned [windowKey off] then
      s.raise 0 (s.agentRecord 0 cHomeSoft 8 0 s.hflCtx 0 (BitVec.ofNat 64 (13 * 2 ^ 60 + off)) 0)
    else s.countFlag (windowKey off) none

/-- HOST_FLUSH_COMPLETE (R315). -/
def execHostFlushComplete (s : State) : Host.Outcome State Fault Refusal :=
  if s.hflBusy ∧ (s.outstanding s.hflWaits).isEmpty then .next s.finishFlush else .next s

/-! ### The aperture (R315) -/

/-- Whether the host reaches the aperture and the coherent window (R321, R408). -/
def State.hostOpen (s : State) : Bool := s.phase == .ready && s.cxlUp

/-- Whether a host access of some bytes lies in the aperture and within one 64-byte line (log 54). -/
def apertureSpan (off n : Nat) : Bool := 0 < n && off % 64 + n ≤ 64 && off + n ≤ 2 ^ 32

/-- An access of the host through the aperture, in the address space of HAPCTX; an unbound context is UNBOUND, and a read of it
returns all ones. DEDUCED (log 84). -/
def State.hostAccess (s : State) (off : Nat) (op : ReqOp) (data : List Byte) : State :=
  let addr := BitVec.ofNat 64 (s.hapBase.toNat * 2 ^ 32 + off)
  match s.ctx? s.hapCtx with
  | some c => s.addReq { s.blankReq .host 0 with asid := c.asid, ctx := some s.hapCtx, addr := addr, op := op, data := data }
  | none =>
    let s := match op with
      | .read n => { s with hostRead := List.replicate n 0xFF }
      | _ => s
    s.raise 0 (s.agentRecord 0 cUnbound 8 0 s.hapCtx 0 addr 0)

/-- HOST_APERTURE_WRITE (R315). -/
def execHostApertureWrite (s : State) : Host.Outcome State Fault Refusal :=
  match s.arg with
  | .hostWrite off data =>
    if s.hostOpen ∧ apertureSpan off data.length then .next (s.hostAccess off .write data) else .next s
  | _ => .next s

/-- HOST_APERTURE_READ (R315). -/
def execHostApertureRead (s : State) : Host.Outcome State Fault Refusal :=
  match s.arg with
  | .hostRead off n => if s.hostOpen ∧ apertureSpan off n then .next (s.hostAccess off (.read n) []) else .next s
  | _ => .next s

/-! ### The coherent window (R134, R314) -/

/-- The host holds a copy of the lines of some bytes of the window (R314; log 54). -/
def State.holdLines (s : State) (off n : Nat) : State :=
  let lines := windowLines ((List.range n).map fun i => windowKey (off + i))
  { s with hostLines := s.hostLines ++ lines.filter fun l => !s.hostLines.contains l }

/-- HOST_WINDOW_WRITE (R314): it performs when the port receives it. The host's read of the window returns its bytes, and all ones
where a word of them is poisoned (log 54). -/
def execHostWindowWrite (s : State) : Host.Outcome State Fault Refusal :=
  match s.arg with
  | .hostWrite off data =>
    if s.hostOpen ∧ 0 < data.length ∧ off + data.length ≤ 2 ^ 22 then
      .next ((s.writeAt (windowKey off) data).holdLines off data.length)
    else .next s
  | .hostRead off n =>
    if s.hostOpen ∧ 0 < n ∧ off + n ≤ 2 ^ 22 then
      let keys := (List.range n).map fun i => windowKey (off + i)
      let s := s.holdLines off n
      if s.anyPoisoned keys then
        .next (State.raise { s with hostRead := List.replicate n 0xFF } 0
          (s.agentRecord 0 cHomeSoft 8 0 0 0 (BitVec.ofNat 64 (13 * 2 ^ 60 + off)) 0))
      else .next { s with hostRead := s.readKeys keys }
    else .next s
  | _ => .next s

/-- BACK_INVALIDATION_RESPONSE (R314): the host gives up its copy of a line. -/
def execBackInvalidationResponse (s : State) : Host.Outcome State Fault Refusal :=
  match s.arg with
  | .line n =>
    if s.cxlUp then
      .next { s with hostLines := s.hostLines.filter (· != n), backInv := s.backInv.filter fun x => x.1 != n }
    else .next s
  | _ => .next s

/-! ### The link (R408) -/

/-- CXL_LINK_DOWN (R408): a record, and device writes to lines that the host holds wait. -/
def execCxlLinkDown (s : State) : Host.Outcome State Fault Refusal :=
  if s.cxlUp then
    .next (State.raise { s with cxlUp := false } 0 (s.agentRecord 0 0x61 8 0 0 0 0 0x200))
  else .next s

/-- CXL_LINK_RETURN (R408): the host has lost its copies, so nothing waits for them. With the argument `line` it is the firmware's reset of
the window while the link is down, which forgets the host's copies and keeps the contents. DESIGN CHOICE (log 105). -/
def execCxlLinkReturn (s : State) : Host.Outcome State Fault Refusal :=
  if s.cxlUp ∨ s.phase ≠ .ready then .next s
  else .next { s with
    cxlUp := match s.arg with | .line _ => false | _ => true
    hostLines := [], backInv := [] }

end Sys2Proof.Machine
end

