-- ==== Sys2Proof/Machine/StreamIssue.lean ====
section
/-! DEFINITION. The decoding of stream text into the window, with what is resolved at once, and the issue of its entries (R274, R276 to
R280, R397, R423). -/

namespace Sys2Proof.Machine

/-- A decode-resolved instruction that has entered the window is resolved in the same die cycle, and fetch goes on at once (R276,
R277). -/
def State.resolveNow (s : State) (i : SlotId) (e : Entry) : State :=
  let here : State := { s with strCur := (i, e.n) }
  let done (o : Host.Outcome State Fault Refusal) : State := match o with
    | .next t => { t with strCur := s.strCur }
    | _ => s
  match e.instr with
  | some (.sbr f) => done (execSbr f here)
  | some (.sloop f) => done (execSloop f here)
  | some (.sendloop f) => done (execSendloop f here)
  | _ => s

/-- STREAM_DECODE (R274, R276, R277, R279, R397, R423). -/
def execStreamDecode (s : State) : Host.Outcome State Fault Refusal :=
  s.atSlot fun i =>
    let v := s.slot i
    let now := s.cycle v.lead
    match v.lines.find? (fun l => l.addr == lineOf v.spc) with
    | none => s
    | some l =>
      if !s.fetches i ∨ !v.serves l ∨ now < l.cycle + 12 ∨ now < v.lastDecode then s
      else
        let w : BitVec 128 := l.data.extractLsb' (8 * (v.spc.toNat % 64)) 128
        let op := w.extractLsb' 0 8
        let f := streamFields w
        let e := blankEntry v.next v.spc w (decodeStream w)
        match l.fault, e.instr with
        | some c, _ => s.enterMarked i { e with instr := none } 0x55 v.spc (c.zeroExtend 16)
        | none, none =>
          let field := if (streamOp op f).isNone then 0 else (sfieldOffence op f).getD 0
          s.enterMarked i e 0x50 0 (BitVec.ofNat 16 (field + 256 * op.toNat))
        | none, some _ => match s.bindTensors i op f e with
          | none => s
          | some (s, e) =>
            let s := s.enter i e (stops op f || resolves op f)
            if resolves op f then s.resolveNow i e else s

/-- Whether what an entry takes at its issue is available (R280): a place in the expansion queue, a core for its first task, or room
at the engines. One that breaks a limit takes nothing. -/
def State.available (s : State) (i : SlotId) (e : Entry) : Bool :=
  if e.undeclared.isSome then true
  else if expands e.op then decide ((s.expanding (s.executionDie (s.slot i) e)).length < 8)
  else match e.op.toNat with
    | 0x40 => (s.skernBad i e.fields).isSome || s.placeable i e
    | 0x24 | 0x30 | 0x31 | 0x32 => e.cellarBad || (s.cellarPlaces i e).2.isSome
    | _ => true

/-- Whether an entry takes places at Cellar engines as it issues (R285). -/
def Entry.takesRoom (e : Entry) : Bool :=
  e.undeclared.isNone && decide (e.op.toNat ∈ [0x24, 0x30, 0x31, 0x32]) && !e.cellarBad

/-- Whether a HELD entry may issue (R280). -/
def State.mayIssue (s : State) (i : SlotId) (e : Entry) : Bool := s.issuable i e && s.available i e

/-- STREAM_ISSUE (R277, R280, R285): the oldest entry that may, two in a die cycle. A Cellar instruction that only waits for its indices
asks for them. What an entry writes is no longer the output of an older gang (R297). -/
def execStreamIssue (s : State) : Host.Outcome State Fault Refusal :=
  s.atEntry fun i n =>
    let v := s.slot i
    let now := s.cycle v.lead
    let before := if v.lastIssue = now then v.issued else 0
    match v.st, v.entry? n with
    | .running, some e =>
      let first := v.window.find? (fun p => s.mayIssue i p)
      if first.map (·.n) = some n ∧ before < 2 ∧ !s.slotHeld i then
        let d := s.executionDie v e
        let (s, room) := if e.takesRoom then s.cellarPlaces i e else (s, none)
        let s := match e.dst with
          | some o => s.setDesc o.desc.toNat { s.desc o.desc.toNat with gang := none }
          | none => s
        let v := s.slot i
        let s := s.setSlot i
          { v.setEntry { e with st := .issued, room := room.getD [] } with lastIssue := now, issued := before + 1 }
        if expands e.op then s.setDie d { s.die d with expansion := (s.die d).expansion ++ [(i, n)] } else s
      else if e.takesRoom ∧ s.issuable i e ∧ !s.slotHeld i then (s.cellarPlaces i e).1
      else s
    | _, _ => s

end Sys2Proof.Machine
end

