-- ==== Sys2Proof/Machine/System.lean ====
section
/-! DEFINITION. The standard system instructions: fences, CSR accesses, `wfi`, trap returns, environment calls and
breakpoints (R128, R159, R161, R162, R417). -/

namespace Sys2Proof.Machine

/-- Not an instruction: cause 2 with the word (R361, R413). -/
def State.illegal (s : State) : State := s.trap 2 (s.insn.zeroExtend 64)

/-- Accesses and triggers of a hart that a fence waits for, gathered in a request of its own that completes with them. -/
def State.gather (s : State) (h : HartRef) (text : Bool) : State × Nat :=
  let f (r : Req) : Bool := !text || (r.isWrite && r.namesMemory && isVirtual r.addr)
  let r := { s.hartReq h with
    kind := .gather text, waits := ((s.accessesOf h).filter f).map (·.id), after := (s.hart h).triggers }
  (s.addReq r, s.nextId)

/-- FENCE, `fence.tso` included (R128): every later non-local access of the hart waits for every earlier one, whatever the
sets. -/
def execFence (_fm _pred _succ : BitVec 4) (_rs1 _rd : Reg) (s : State) : Host.Outcome State Fault Refusal :=
  let (s, id) := s.gather s.cur false
  let s := s.holdLater s.cur [id] []
  .next (s.complete s.me)

/-- FENCE_I (R128, R199): prefetched lines go, and fetches wait for the earlier writes to virtual space. -/
def execFenceI (_imm : BitVec 12) (_rs1 _rd : Reg) (s : State) : Host.Outcome State Fault Refusal :=
  let (s, id) := s.gather s.cur true
  .next (s.complete { s.me with lines := [], fetching := none, fetched := none, fetchHold := some id })

/-- SFENCE_VMA (R161, R417): an invalidation to the agents of every die of the device. -/
def execSfenceVma (rs1 rs2 : Reg) (s : State) : Host.Outcome State Fault Refusal :=
  let v := s.me
  if v.mode = .user ∨ (v.mode = .supervisor ∧ bitOf v.csr.mstatus 20) then .next s.illegal
  else match v.firstEmpty [rs1, rs2] with
    | some r => .next (s.park (.xreg r))
    | none =>
      let page := if rs1 = 0 then none else some (v.readX rs1)
      let asid := if rs2 = 0 then none else some ((v.readX rs2).extractLsb' 0 16)
      let dies := (List.finRange 4).filter fun d => decide (d.val < s.dieCount)
      let id := s.nextId
      let s := (s.send (dieOf s.cur.core) (.invalidate s.cur page asid dies)).holdLater s.cur [id] []
      .next (s.complete { s.me with lines := [] })

/-- CSR_ACCESS (R159, R161, R162): the old value goes to rd; `csrrs` and `csrrc` of x0 or 0 write nothing. -/
def execCsrAccess (op : CsrOp) (imm : Bool) (rd src : Reg) (csr : BitVec 12) (s : State) : Host.Outcome State Fault Refusal :=
  let n := csr.toNat
  let write := op == .rw || src != 0
  if !s.csrPermitted s.cur n write then .next s.illegal
  else match if imm then none else s.me.firstEmpty [src] with
    | some r => .next (s.park (.xreg r))
    | none =>
      let v := s.me
      let old := (s.csrRead s.cur n).getD 0
      let x := if imm then src.zeroExtend 64 else v.readX src
      let new := match op with
        | .rw => x
        | .rs => old ||| x
        | .rc => old &&& ~~~ x
      let v := if write then v.csrWrite n (s.ownDie n new) s.refTime else v
      .next (s.complete (v.fill rd old))

/-- WFI (R161): parks until an interrupt is pending and enabled in mie, and completes at once where one is. -/
def execWfi (s : State) : Host.Outcome State Fault Refusal :=
  .next (if s.interruptPending s.cur then s.complete s.me else s.park .interrupt)

/-- MRET (R161, R417). -/
def execMret (s : State) : Host.Outcome State Fault Refusal :=
  .next (if s.me.mode = .machine then s.setMe s.me.returnM else s.illegal)

/-- SRET (R161, R417). -/
def execSret (s : State) : Host.Outcome State Fault Refusal :=
  .next (if s.me.mode = .user ∨ (s.me.mode = .supervisor ∧ bitOf s.me.csr.mstatus 22) then s.illegal
    else s.setMe s.me.returnS)

/-- The cause of `ecall` by mode (R417). -/
def ecallCause : Mode → Nat
  | .user => 8
  | .supervisor => 9
  | .machine => 11

/-- ECALL (R159, R417). -/
def execEcall (s : State) : Host.Outcome State Fault Refusal := .next (s.trap (ecallCause s.me.mode) 0)

/-- EBREAK (R361): cause 3 with the PC. -/
def execEbreak (s : State) : Host.Outcome State Fault Refusal := .next (s.trap 3 s.me.pc)

end Sys2Proof.Machine
end

