-- ==== Sys2Proof/Machine/Dispatch.lean ====
section
/-! DEFINITION. The meaning of every instruction and step, one arm for each constructor. -/

namespace Sys2Proof.Machine

/-- What an instruction or a step does in a state. -/
def exec (i : Instr) (s : State) : Host.Outcome State Fault Refusal :=
  match i with
  | .tdecl f => Sys2Proof.Machine.execTdecl f s
  | .sload f => Sys2Proof.Machine.execSload f s
  | .sstore f => Sys2Proof.Machine.execSstore f s
  | .sfill f => Sys2Proof.Machine.execSfill f s
  | .smm f => Sys2Proof.Machine.execSmm f s
  | .sew f => Sys2Proof.Machine.execSew f s
  | .sred f => Sys2Proof.Machine.execSred f s
  | .sxpose f => Sys2Proof.Machine.execSxpose f s
  | .scvt f => Sys2Proof.Machine.execScvt f s
  | .sgather f => Sys2Proof.Machine.execSgather f s
  | .sscatter f => Sys2Proof.Machine.execSscatter f s
  | .sreduce f => Sys2Proof.Machine.execSreduce f s
  | .skern f => Sys2Proof.Machine.execSkern f s
  | .sgroup f => Sys2Proof.Machine.execSgroup f s
  | .sput f => Sys2Proof.Machine.execSput f s
  | .sget f => Sys2Proof.Machine.execSget f s
  | .sbr f => Sys2Proof.Machine.execSbr f s
  | .sloop f => Sys2Proof.Machine.execSloop f s
  | .sendloop f => Sys2Proof.Machine.execSendloop f s
  | .sswitch f => Sys2Proof.Machine.execSswitch f s
  | .swait f => Sys2Proof.Machine.execSwait f s
  | .ssignal f => Sys2Proof.Machine.execSsignal f s
  | .sfence f => Sys2Proof.Machine.execSfence f s
  | .shalt f => Sys2Proof.Machine.execShalt f s
  | .sown f => Sys2Proof.Machine.execSown f s
  | .ccEnd c => Sys2Proof.Machine.execCcEnd c s
  | .ccCopy c => Sys2Proof.Machine.execCcCopy c s
  | .ccCopy2d c => Sys2Proof.Machine.execCcCopy2d c s
  | .ccFill c => Sys2Proof.Machine.execCcFill c s
  | .ccGather c => Sys2Proof.Machine.execCcGather c s
  | .ccWait c => Sys2Proof.Machine.execCcWait c s
  | .ccBump c => Sys2Proof.Machine.execCcBump c s
  | .ccWrite c => Sys2Proof.Machine.execCcWrite c s
  | .ccLink c => Sys2Proof.Machine.execCcLink c s
  | .scalarLoad k rd rs1 imm => Sys2Proof.Machine.execScalarLoad k rd rs1 imm s
  | .scalarStore k rs1 rs2 imm => Sys2Proof.Machine.execScalarStore k rs1 rs2 imm s
  | .amo op dbl aq rl rd rs1 rs2 => Sys2Proof.Machine.execAmo op dbl aq rl rd rs1 rs2 s
  | .lr dbl aq rl rd rs1 => Sys2Proof.Machine.execLr dbl aq rl rd rs1 s
  | .sc dbl aq rl rd rs1 rs2 => Sys2Proof.Machine.execSc dbl aq rl rd rs1 rs2 s
  | .integerOp op => Sys2Proof.Machine.execIntegerOp op s
  | .fence fm pred succ rs1 rd => Sys2Proof.Machine.execFence fm pred succ rs1 rd s
  | .fenceI imm rs1 rd => Sys2Proof.Machine.execFenceI imm rs1 rd s
  | .sfenceVma rs1 rs2 => Sys2Proof.Machine.execSfenceVma rs1 rs2 s
  | .csrAccess op imm rd src csr => Sys2Proof.Machine.execCsrAccess op imm rd src csr s
  | .mov2 b c a d => Sys2Proof.Machine.execMov2 b c a d s
  | .mov a d => Sys2Proof.Machine.execMov a d s
  | .mvpxD p l d => Sys2Proof.Machine.execMvpxD p l d s
  | .mvpxW p l d => Sys2Proof.Machine.execMvpxW p l d s
  | .mvxpD p l a => Sys2Proof.Machine.execMvxpD p l a s
  | .mvxpW p l a => Sys2Proof.Machine.execMvxpW p l a s
  | .mvbxD p a => Sys2Proof.Machine.execMvbxD p a s
  | .mvbxW p a => Sys2Proof.Machine.execMvbxW p a s
  | .mvip p n => Sys2Proof.Machine.execMvip p n s
  | .vaAdd g w => Sys2Proof.Machine.execVaAdd g w s
  | .vaSub g w => Sys2Proof.Machine.execVaSub g w s
  | .vaMul g w => Sys2Proof.Machine.execVaMul g w s
  | .vaMin g w => Sys2Proof.Machine.execVaMin g w s
  | .vaMax g w => Sys2Proof.Machine.execVaMax g w s
  | .vaSll g w => Sys2Proof.Machine.execVaSll g w s
  | .vaSra g w => Sys2Proof.Machine.execVaSra g w s
  | .vaSrl g w => Sys2Proof.Machine.execVaSrl g w s
  | .vaFadd g f => Sys2Proof.Machine.execVaFadd g f s
  | .vaFsub g f => Sys2Proof.Machine.execVaFsub g f s
  | .vaFmul g f => Sys2Proof.Machine.execVaFmul g f s
  | .vaFma g f => Sys2Proof.Machine.execVaFma g f s
  | .vaFnma g f => Sys2Proof.Machine.execVaFnma g f s
  | .vaFmin g f => Sys2Proof.Machine.execVaFmin g f s
  | .vaFmax g f => Sys2Proof.Machine.execVaFmax g f s
  | .vaSgnj g f => Sys2Proof.Machine.execVaSgnj g f s
  | .vaAnd g => Sys2Proof.Machine.execVaAnd g s
  | .vaOr g => Sys2Proof.Machine.execVaOr g s
  | .vaXor g => Sys2Proof.Machine.execVaXor g s
  | .vaSelW g => Sys2Proof.Machine.execVaSelW g s
  | .vaSelD g => Sys2Proof.Machine.execVaSelD g s
  | .vaCeqW g => Sys2Proof.Machine.execVaCeqW g s
  | .vaCltW g => Sys2Proof.Machine.execVaCltW g s
  | .vaCltuW g => Sys2Proof.Machine.execVaCltuW g s
  | .vaCeqD g => Sys2Proof.Machine.execVaCeqD g s
  | .vaCltD g => Sys2Proof.Machine.execVaCltD g s
  | .vaFceqS g => Sys2Proof.Machine.execVaFceqS g s
  | .vaFcltS g => Sys2Proof.Machine.execVaFcltS g s
  | .vaFcleS g => Sys2Proof.Machine.execVaFcleS g s
  | .vaFceqD g => Sys2Proof.Machine.execVaFceqD g s
  | .vaFcltD g => Sys2Proof.Machine.execVaFcltD g s
  | .vaFcleD g => Sys2Proof.Machine.execVaFcleD g s
  | .vaExp2S g => Sys2Proof.Machine.execVaExp2S g s
  | .vaLog2S g => Sys2Proof.Machine.execVaLog2S g s
  | .vaRcpS g => Sys2Proof.Machine.execVaRcpS g s
  | .vaRsqrtS g => Sys2Proof.Machine.execVaRsqrtS g s
  | .vsPerm g w => Sys2Proof.Machine.execVsPerm g w s
  | .vsBcast g w => Sys2Proof.Machine.execVsBcast g w s
  | .vsZiplo g w => Sys2Proof.Machine.execVsZiplo g w s
  | .vsZiphi g w => Sys2Proof.Machine.execVsZiphi g w s
  | .vsRotb g => Sys2Proof.Machine.execVsRotb g s
  | .vsCompress g w => Sys2Proof.Machine.execVsCompress g w s
  | .vsExpand g w => Sys2Proof.Machine.execVsExpand g w s
  | .vsRsumD g => Sys2Proof.Machine.execVsRsumD g s
  | .vsRmaxD g => Sys2Proof.Machine.execVsRmaxD g s
  | .vsRminD g => Sys2Proof.Machine.execVsRminD g s
  | .vsRsumS g => Sys2Proof.Machine.execVsRsumS g s
  | .vsRmaxS g => Sys2Proof.Machine.execVsRmaxS g s
  | .vsRminS g => Sys2Proof.Machine.execVsRminS g s
  | .vsRsumBf g => Sys2Proof.Machine.execVsRsumBf g s
  | .vsRmaxBf g => Sys2Proof.Machine.execVsRmaxBf g s
  | .vsRminBf g => Sys2Proof.Machine.execVsRminBf g s
  | .vsRsumHf g => Sys2Proof.Machine.execVsRsumHf g s
  | .vsRmaxHf g => Sys2Proof.Machine.execVsRmaxHf g s
  | .vsRminHf g => Sys2Proof.Machine.execVsRminHf g s
  | .vsIrsumW g => Sys2Proof.Machine.execVsIrsumW g s
  | .vsIrsumD g => Sys2Proof.Machine.execVsIrsumD g s
  | .vsIrmaxW g => Sys2Proof.Machine.execVsIrmaxW g s
  | .vsIrminW g => Sys2Proof.Machine.execVsIrminW g s
  | .vsIrmaxuW g => Sys2Proof.Machine.execVsIrmaxuW g s
  | .vsIrminuW g => Sys2Proof.Machine.execVsIrminuW g s
  | .vsIrmaxD g => Sys2Proof.Machine.execVsIrmaxD g s
  | .vsIrminD g => Sys2Proof.Machine.execVsIrminD g s
  | .vsIrmaxuD g => Sys2Proof.Machine.execVsIrmaxuD g s
  | .vsIrminuD g => Sys2Proof.Machine.execVsIrminuD g s
  | .cvBf16F32 g c => Sys2Proof.Machine.execCvBf16F32 g c s
  | .cvF16F32 g c => Sys2Proof.Machine.execCvF16F32 g c s
  | .cvF32F64 g c => Sys2Proof.Machine.execCvF32F64 g c s
  | .cvI32F32 g c => Sys2Proof.Machine.execCvI32F32 g c s
  | .cvI64F64 g c => Sys2Proof.Machine.execCvI64F64 g c s
  | .cvF32I32 g c => Sys2Proof.Machine.execCvF32I32 g c s
  | .cvF64I64 g c => Sys2Proof.Machine.execCvF64I64 g c s
  | .cvE4m3F32 g c => Sys2Proof.Machine.execCvE4m3F32 g c s
  | .cvE5m2F32 g c => Sys2Proof.Machine.execCvE5m2F32 g c s
  | .cvI8I32 g => Sys2Proof.Machine.execCvI8I32 g s
  | .cvF32Bf16 g c => Sys2Proof.Machine.execCvF32Bf16 g c s
  | .cvF32F16 g c => Sys2Proof.Machine.execCvF32F16 g c s
  | .cvF64F32 g c => Sys2Proof.Machine.execCvF64F32 g c s
  | .cvF32E4m3 g c => Sys2Proof.Machine.execCvF32E4m3 g c s
  | .cvF32E5m2 g c => Sys2Proof.Machine.execCvF32E5m2 g c s
  | .cvI32I8 g c => Sys2Proof.Machine.execCvI32I8 g c s
  | .cvMxencE4m3 g => Sys2Proof.Machine.execCvMxencE4m3 g s
  | .cvMxencE5m2 g => Sys2Proof.Machine.execCvMxencE5m2 g s
  | .cvF4encLo g => Sys2Proof.Machine.execCvF4encLo g s
  | .cvF4encHi g => Sys2Proof.Machine.execCvF4encHi g s
  | .lsLd g => Sys2Proof.Machine.execLsLd g s
  | .lsLdlo g => Sys2Proof.Machine.execLsLdlo g s
  | .lsLdhi g => Sys2Proof.Machine.execLsLdhi g s
  | .lsLdn g => Sys2Proof.Machine.execLsLdn g s
  | .lsSt g => Sys2Proof.Machine.execLsSt g s
  | .lsStm g => Sys2Proof.Machine.execLsStm g s
  | .mxMm g => Sys2Proof.Machine.execMxMm g s
  | .mxMmw g => Sys2Proof.Machine.execMxMmw g s
  | .mxMmd g => Sys2Proof.Machine.execMxMmd g s
  | .mxMmn g => Sys2Proof.Machine.execMxMmn g s
  | .mxZero g => Sys2Proof.Machine.execMxZero g s
  | .mxSt g => Sys2Proof.Machine.execMxSt g s
  | .mxLd g => Sys2Proof.Machine.execMxLd g s
  | .wbLd g => Sys2Proof.Machine.execWbLd g s
  | .wbLdc g => Sys2Proof.Machine.execWbLdc g s
  | .wbClr g => Sys2Proof.Machine.execWbClr g s
  | .ceRun g => Sys2Proof.Machine.execCeRun g s
  | .ceRunv g => Sys2Proof.Machine.execCeRunv g s
  | .niSt g t => Sys2Proof.Machine.execNiSt g t s
  | .niTst g t => Sys2Proof.Machine.execNiTst g t s
  | .niVaddI32 g t => Sys2Proof.Machine.execNiVaddI32 g t s
  | .niVaddI64 g t => Sys2Proof.Machine.execNiVaddI64 g t s
  | .niVaddF32 g t => Sys2Proof.Machine.execNiVaddF32 g t s
  | .niVaddF64 g t => Sys2Proof.Machine.execNiVaddF64 g t s
  | .niVaddBf16 g t => Sys2Proof.Machine.execNiVaddBf16 g t s
  | .niTaddI32 g t => Sys2Proof.Machine.execNiTaddI32 g t s
  | .niTaddF32 g t => Sys2Proof.Machine.execNiTaddF32 g t s
  | .niTaddF64 g t => Sys2Proof.Machine.execNiTaddF64 g t s
  | .niGet g t => Sys2Proof.Machine.execNiGet g t s
  | .niMsg g => Sys2Proof.Machine.execNiMsg g s
  | .niWin g => Sys2Proof.Machine.execNiWin g s
  | .niCap g => Sys2Proof.Machine.execNiCap g s
  | .fwait b a => Sys2Proof.Machine.execFwait b a s
  | .fbump a => Sys2Proof.Machine.execFbump a s
  | .tdef b a => Sys2Proof.Machine.execTdef b a s
  | .tarm b a => Sys2Proof.Machine.execTarm b a s
  | .trel a => Sys2Proof.Machine.execTrel a s
  | .twait a => Sys2Proof.Machine.execTwait a s
  | .pstf c w b a => Sys2Proof.Machine.execPstf c w b a s
  | .raddfInt c w b a => Sys2Proof.Machine.execRaddfInt c w b a s
  | .raddfFloat c w b a => Sys2Proof.Machine.execRaddfFloat c w b a s
  | .rfadd w b a d => Sys2Proof.Machine.execRfadd w b a d s
  | .rfswap w b a d => Sys2Proof.Machine.execRfswap w b a d s
  | .rfand w b a d => Sys2Proof.Machine.execRfand w b a d s
  | .rfor w b a d => Sys2Proof.Machine.execRfor w b a d s
  | .rfxor w b a d => Sys2Proof.Machine.execRfxor w b a d s
  | .rfmin w b a d => Sys2Proof.Machine.execRfmin w b a d s
  | .rfmax w b a d => Sys2Proof.Machine.execRfmax w b a d s
  | .rfminu w b a d => Sys2Proof.Machine.execRfminu w b a d s
  | .rfmaxu w b a d => Sys2Proof.Machine.execRfmaxu w b a d s
  | .rfaddf w b a d => Sys2Proof.Machine.execRfaddf w b a d s
  | .rcas c w b a d => Sys2Proof.Machine.execRcas c w b a d s
  | .rfenceRel sc d => Sys2Proof.Machine.execRfenceRel sc d s
  | .rfenceAcq sc d => Sys2Proof.Machine.execRfenceAcq sc d s
  | .msend b a q => Sys2Proof.Machine.execMsend b a q s
  | .qmov q d => Sys2Proof.Machine.execQmov q d s
  | .callat b a p q => Sys2Proof.Machine.execCallat b a p q s
  | .hop b a => Sys2Proof.Machine.execHop b a s
  | .own b a d => Sys2Proof.Machine.execOwn b a d s
  | .ocinv a => Sys2Proof.Machine.execOcinv a s
  | .kget k d => Sys2Proof.Machine.execKget k d s
  | .kset a k => Sys2Proof.Machine.execKset a k s
  | .gbar a => Sys2Proof.Machine.execGbar a s
  | .gsum b a d => Sys2Proof.Machine.execGsum b a d s
  | .gmax b a d => Sys2Proof.Machine.execGmax b a d s
  | .gmin b a d => Sys2Proof.Machine.execGmin b a d s
  | .hstart b a d => Sys2Proof.Machine.execHstart b a d s
  | .hreap a d => Sys2Proof.Machine.execHreap a d s
  | .hsave b a => Sys2Proof.Machine.execHsave b a s
  | .hload b a => Sys2Proof.Machine.execHload b a s
  | .tqpush b a d => Sys2Proof.Machine.execTqpush b a d s
  | .tqpop b a d => Sys2Proof.Machine.execTqpop b a d s
  | .psave a => Sys2Proof.Machine.execPsave a s
  | .pload a => Sys2Proof.Machine.execPload a s
  | .cmig a d => Sys2Proof.Machine.execCmig a d s
  | .ovmap b a => Sys2Proof.Machine.execOvmap b a s
  | .ovunmap a => Sys2Proof.Machine.execOvunmap a s
  | .coldReset => Sys2Proof.Machine.execColdReset s
  | .warmReset => Sys2Proof.Machine.execWarmReset s
  | .phaseRom => Sys2Proof.Machine.execPhaseRom s
  | .firmwareVerify => Sys2Proof.Machine.execFirmwareVerify s
  | .phaseMemory => Sys2Proof.Machine.execPhaseMemory s
  | .phaseConfig => Sys2Proof.Machine.execPhaseConfig s
  | .phaseLinks => Sys2Proof.Machine.execPhaseLinks s
  | .mailboxReport => Sys2Proof.Machine.execMailboxReport s
  | .mailboxCert => Sys2Proof.Machine.execMailboxCert s
  | .bindContext => Sys2Proof.Machine.execBindContext s
  | .unbindContext => Sys2Proof.Machine.execUnbindContext s
  | .mailboxUnknownCommand => Sys2Proof.Machine.execMailboxUnknownCommand s
  | .registerWrite => Sys2Proof.Machine.execRegisterWrite s
  | .corectlWrite => Sys2Proof.Machine.execCorectlWrite s
  | .fwstatWrite => Sys2Proof.Machine.execFwstatWrite s
  | .fbtailWrite => Sys2Proof.Machine.execFbtailWrite s
  | .softerrClr => Sys2Proof.Machine.execSofterrClr s
  | .dclkctlTargetWrite => Sys2Proof.Machine.execDclkctlTargetWrite s
  | .clockHalt => Sys2Proof.Machine.execClockHalt s
  | .clockRelock => Sys2Proof.Machine.execClockRelock s
  | .flush => Sys2Proof.Machine.execFlush s
  | .flushrange => Sys2Proof.Machine.execFlushrange s
  | .hostFlushComplete => Sys2Proof.Machine.execHostFlushComplete s
  | .hostApertureWrite => Sys2Proof.Machine.execHostApertureWrite s
  | .hostApertureRead => Sys2Proof.Machine.execHostApertureRead s
  | .hostWindowWrite => Sys2Proof.Machine.execHostWindowWrite s
  | .cxlLinkDown => Sys2Proof.Machine.execCxlLinkDown s
  | .sctlOpen => Sys2Proof.Machine.execSctlOpen s
  | .slotOpenComplete => Sys2Proof.Machine.execSlotOpenComplete s
  | .sctlClose => Sys2Proof.Machine.execSctlClose s
  | .slotCloseComplete => Sys2Proof.Machine.execSlotCloseComplete s
  | .slimitWrite => Sys2Proof.Machine.execSlimitWrite s
  | .streamLineFetch => Sys2Proof.Machine.execStreamLineFetch s
  | .streamDecode => Sys2Proof.Machine.execStreamDecode s
  | .streamIssue => Sys2Proof.Machine.execStreamIssue s
  | .streamEntryDone => Sys2Proof.Machine.execStreamEntryDone s
  | .streamRetire => Sys2Proof.Machine.execStreamRetire s
  | .storeDrainLeave => Sys2Proof.Machine.execStoreDrainLeave s
  | .swaitPoll => Sys2Proof.Machine.execSwaitPoll s
  | .skernTaskPlacement => Sys2Proof.Machine.execSkernTaskPlacement s
  | .taskEndReport => Sys2Proof.Machine.execTaskEndReport s
  | .macroTileStep => Sys2Proof.Machine.execMacroTileStep s
  | .cellarPartComplete => Sys2Proof.Machine.execCellarPartComplete s
  | .remotePartArrival => Sys2Proof.Machine.execRemotePartArrival s
  | .streamFaultRaise => Sys2Proof.Machine.execStreamFaultRaise s
  | .autostartClaim => Sys2Proof.Machine.execAutostartClaim s
  | .hartLoadComplete => Sys2Proof.Machine.execHartLoadComplete s
  | .hsaveDrainComplete => Sys2Proof.Machine.execHsaveDrainComplete s
  | .hartSaveComplete => Sys2Proof.Machine.execHartSaveComplete s
  | .hstopComplete => Sys2Proof.Machine.execHstopComplete s
  | .hopSend => Sys2Proof.Machine.execHopSend s
  | .cmigComplete => Sys2Proof.Machine.execCmigComplete s
  | .hartWake => Sys2Proof.Machine.execHartWake s
  | .quantumExpiry => Sys2Proof.Machine.execQuantumExpiry s
  | .interruptTrap => Sys2Proof.Machine.execInterruptTrap s
  | .deferredFaultTrap => Sys2Proof.Machine.execDeferredFaultTrap s
  | .upcallEntry => Sys2Proof.Machine.execUpcallEntry s
  | .faultRecordWrite => Sys2Proof.Machine.execFaultRecordWrite s
  | .taskRecordArrival => Sys2Proof.Machine.execTaskRecordArrival s
  | .messageArrival => Sys2Proof.Machine.execMessageArrival s
  | .barrierArrivalReport => Sys2Proof.Machine.execBarrierArrivalReport s
  | .barrierCompletionArrival => Sys2Proof.Machine.execBarrierCompletionArrival s
  | .niRequestSend => Sys2Proof.Machine.execNiRequestSend s
  | .remoteStorePerform => Sys2Proof.Machine.execRemoteStorePerform s
  | .remoteLoadPerform => Sys2Proof.Machine.execRemoteLoadPerform s
  | .remoteAtomicPerform => Sys2Proof.Machine.execRemoteAtomicPerform s
  | .flagArrival => Sys2Proof.Machine.execFlagArrival s
  | .tileArrival => Sys2Proof.Machine.execTileArrival s
  | .acknowledgementArrival => Sys2Proof.Machine.execAcknowledgementArrival s
  | .splitPhaseFill => Sys2Proof.Machine.execSplitPhaseFill s
  | .negativeAcknowledgement => Sys2Proof.Machine.execNegativeAcknowledgement s
  | .retrySend => Sys2Proof.Machine.execRetrySend s
  | .remoteFaultArrival => Sys2Proof.Machine.execRemoteFaultArrival s
  | .releasePerform => Sys2Proof.Machine.execReleasePerform s
  | .ownerLookup => Sys2Proof.Machine.execOwnerLookup s
  | .pageWalk => Sys2Proof.Machine.execPageWalk s
  | .tlbInvalidation => Sys2Proof.Machine.execTlbInvalidation s
  | .sfenceVmaComplete => Sys2Proof.Machine.execSfenceVmaComplete s
  | .ownRequestArrival => Sys2Proof.Machine.execOwnRequestArrival s
  | .chunkCopy => Sys2Proof.Machine.execChunkCopy s
  | .doorplateForward => Sys2Proof.Machine.execDoorplateForward s
  | .redirectArrival => Sys2Proof.Machine.execRedirectArrival s
  | .bounceArrival => Sys2Proof.Machine.execBounceArrival s
  | .mapUpdate => Sys2Proof.Machine.execMapUpdate s
  | .mapUpdateAck => Sys2Proof.Machine.execMapUpdateAck s
  | .stubReclaim => Sys2Proof.Machine.execStubReclaim s
  | .flushMarker => Sys2Proof.Machine.execFlushMarker s
  | .collectiveCompletion => Sys2Proof.Machine.execCollectiveCompletion s
  | .unitResultFill => Sys2Proof.Machine.execUnitResultFill s
  | .mxTriggerStart => Sys2Proof.Machine.execMxTriggerStart s
  | .mxResultFill => Sys2Proof.Machine.execMxResultFill s
  | .wbTriggerStart => Sys2Proof.Machine.execWbTriggerStart s
  | .wbResultFill => Sys2Proof.Machine.execWbResultFill s
  | .ceListActivate => Sys2Proof.Machine.execCeListActivate s
  | .ceTransfer => Sys2Proof.Machine.execCeTransfer s
  | .ceCommandComplete => Sys2Proof.Machine.execCeCommandComplete s
  | .portEnable => Sys2Proof.Machine.execPortEnable s
  | .portTrained => Sys2Proof.Machine.execPortTrained s
  | .trainingTimeout => Sys2Proof.Machine.execTrainingTimeout s
  | .portQuiesce => Sys2Proof.Machine.execPortQuiesce s
  | .quiesceComplete => Sys2Proof.Machine.execQuiesceComplete s
  | .portDisable => Sys2Proof.Machine.execPortDisable s
  | .flitReceive => Sys2Proof.Machine.execFlitReceive s
  | .repeatRequestReceive => Sys2Proof.Machine.execRepeatRequestReceive s
  | .portDegrade => Sys2Proof.Machine.execPortDegrade s
  | .laneLoss => Sys2Proof.Machine.execLaneLoss s
  | .laneRealign => Sys2Proof.Machine.execLaneRealign s
  | .portDead => Sys2Proof.Machine.execPortDead s
  | .pathDeathSettle => Sys2Proof.Machine.execPathDeathSettle s
  | .flitDiscard => Sys2Proof.Machine.execFlitDiscard s
  | .dieBoundaryFailure => Sys2Proof.Machine.execDieBoundaryFailure s
  | .thermalLimit => Sys2Proof.Machine.execThermalLimit s
  | .thermalStop => Sys2Proof.Machine.execThermalStop s
  | .thermalRecover => Sys2Proof.Machine.execThermalRecover s
  | .powerLimitStep => Sys2Proof.Machine.execPowerLimitStep s
  | .powerRestoreStep => Sys2Proof.Machine.execPowerRestoreStep s
  | .hbmScrub => Sys2Proof.Machine.execHbmScrub s
  | .wfi => Sys2Proof.Machine.execWfi s
  | .mret => Sys2Proof.Machine.execMret s
  | .sret => Sys2Proof.Machine.execSret s
  | .ecall => Sys2Proof.Machine.execEcall s
  | .ebreak => Sys2Proof.Machine.execEbreak s
  | .hstop => Sys2Proof.Machine.execHstop s
  | .upret => Sys2Proof.Machine.execUpret s
  | .cxlLinkReturn => Sys2Proof.Machine.execCxlLinkReturn s
  | .backInvalidationResponse => Sys2Proof.Machine.execBackInvalidationResponse s
  | .portImageTransferComplete => Sys2Proof.Machine.execPortImageTransferComplete s
  | .overlayUpdateComplete => Sys2Proof.Machine.execOverlayUpdateComplete s
  | .niLocalTriggerComplete => Sys2Proof.Machine.execNiLocalTriggerComplete s

end Sys2Proof.Machine
end

