-- ==== Sys2Proof/Machine/Agents.lean ====
section
/-! DEFINITION. Which constructors of `Instr` are steps of an agent that a turn of the schedule names, and no words. -/

namespace Sys2Proof.Machine

/-- Whether a constructor is a step of an agent (log 2). The writes of CORECTL and FWSTAT are none: a store of a hart performs them,
in its own slot (R41, R79). -/
def isAgentStep (i : Instr) : Bool :=
  match i with
  | .coldReset | .warmReset | .phaseRom | .firmwareVerify | .phaseMemory | .phaseConfig | .phaseLinks
  | .mailboxReport | .mailboxCert | .bindContext | .unbindContext | .mailboxUnknownCommand | .registerWrite
  | .fbtailWrite | .softerrClr | .dclkctlTargetWrite | .clockHalt | .clockRelock
  | .flush | .flushrange | .hostFlushComplete | .hostApertureWrite | .hostApertureRead | .hostWindowWrite
  | .cxlLinkDown | .sctlOpen | .slotOpenComplete | .sctlClose | .slotCloseComplete | .slimitWrite
  | .streamLineFetch | .streamDecode | .streamIssue | .streamEntryDone | .streamRetire | .storeDrainLeave
  | .swaitPoll | .skernTaskPlacement | .taskEndReport | .macroTileStep | .cellarPartComplete | .remotePartArrival
  | .streamFaultRaise | .autostartClaim | .hartLoadComplete | .hsaveDrainComplete | .hartSaveComplete
  | .hstopComplete | .hopSend | .cmigComplete | .hartWake | .quantumExpiry | .interruptTrap | .deferredFaultTrap
  | .upcallEntry | .faultRecordWrite | .taskRecordArrival | .messageArrival | .barrierArrivalReport
  | .barrierCompletionArrival | .niRequestSend | .remoteStorePerform | .remoteLoadPerform | .remoteAtomicPerform
  | .flagArrival | .tileArrival | .acknowledgementArrival | .splitPhaseFill | .negativeAcknowledgement | .retrySend
  | .remoteFaultArrival | .releasePerform | .ownerLookup | .pageWalk | .tlbInvalidation | .sfenceVmaComplete
  | .ownRequestArrival | .chunkCopy | .doorplateForward | .redirectArrival | .bounceArrival | .mapUpdate
  | .mapUpdateAck | .stubReclaim | .flushMarker | .collectiveCompletion | .unitResultFill | .mxTriggerStart
  | .mxResultFill | .wbTriggerStart | .wbResultFill | .ceListActivate | .ceTransfer | .ceCommandComplete
  | .portEnable | .portTrained | .trainingTimeout | .portQuiesce | .quiesceComplete | .portDisable | .flitReceive
  | .repeatRequestReceive | .portDegrade | .laneLoss | .laneRealign | .portDead | .pathDeathSettle | .flitDiscard
  | .dieBoundaryFailure | .thermalLimit | .thermalStop | .thermalRecover | .powerLimitStep | .powerRestoreStep
  | .hbmScrub | .cxlLinkReturn | .backInvalidationResponse | .portImageTransferComplete | .overlayUpdateComplete
  | .niLocalTriggerComplete => true
  | .corectlWrite | .fwstatWrite | .tdecl _ | .sload _ | .sstore _ | .sfill _ | .smm _ | .sew _ | .sred _ | .sxpose _ | .scvt _ | .sgather _
  | .sscatter _ | .sreduce _ | .skern _ | .sgroup _ | .sput _ | .sget _ | .sbr _ | .sloop _ | .sendloop _
  | .sswitch _ | .swait _ | .ssignal _ | .sfence _ | .shalt _ | .sown _ | .ccEnd _ | .ccCopy _ | .ccCopy2d _
  | .ccFill _ | .ccGather _ | .ccWait _ | .ccBump _ | .ccWrite _ | .ccLink _ | .scalarLoad _ _ _ _
  | .scalarStore _ _ _ _ | .amo _ _ _ _ _ _ _ | .lr _ _ _ _ _ | .sc _ _ _ _ _ _ | .integerOp _ | .fence _ _ _ _ _
  | .fenceI _ _ _ | .sfenceVma _ _ | .csrAccess _ _ _ _ _ | .mov2 _ _ _ _ | .mov _ _ | .mvpxD _ _ _ | .mvpxW _ _ _
  | .mvxpD _ _ _ | .mvxpW _ _ _ | .mvbxD _ _ | .mvbxW _ _ | .mvip _ _ | .vaAdd _ _ | .vaSub _ _ | .vaMul _ _
  | .vaMin _ _ | .vaMax _ _ | .vaSll _ _ | .vaSra _ _ | .vaSrl _ _ | .vaFadd _ _ | .vaFsub _ _ | .vaFmul _ _
  | .vaFma _ _ | .vaFnma _ _ | .vaFmin _ _ | .vaFmax _ _ | .vaSgnj _ _ | .vaAnd _ | .vaOr _ | .vaXor _ | .vaSelW _
  | .vaSelD _ | .vaCeqW _ | .vaCltW _ | .vaCltuW _ | .vaCeqD _ | .vaCltD _ | .vaFceqS _ | .vaFcltS _ | .vaFcleS _
  | .vaFceqD _ | .vaFcltD _ | .vaFcleD _ | .vaExp2S _ | .vaLog2S _ | .vaRcpS _ | .vaRsqrtS _ | .vsPerm _ _
  | .vsBcast _ _ | .vsZiplo _ _ | .vsZiphi _ _ | .vsRotb _ | .vsCompress _ _ | .vsExpand _ _ | .vsRsumD _
  | .vsRmaxD _ | .vsRminD _ | .vsRsumS _ | .vsRmaxS _ | .vsRminS _ | .vsRsumBf _ | .vsRmaxBf _ | .vsRminBf _
  | .vsRsumHf _ | .vsRmaxHf _ | .vsRminHf _ | .vsIrsumW _ | .vsIrsumD _ | .vsIrmaxW _ | .vsIrminW _ | .vsIrmaxuW _
  | .vsIrminuW _ | .vsIrmaxD _ | .vsIrminD _ | .vsIrmaxuD _ | .vsIrminuD _ | .cvBf16F32 _ _ | .cvF16F32 _ _
  | .cvF32F64 _ _ | .cvI32F32 _ _ | .cvI64F64 _ _ | .cvF32I32 _ _ | .cvF64I64 _ _ | .cvE4m3F32 _ _ | .cvE5m2F32 _ _
  | .cvI8I32 _ | .cvF32Bf16 _ _ | .cvF32F16 _ _ | .cvF64F32 _ _ | .cvF32E4m3 _ _ | .cvF32E5m2 _ _ | .cvI32I8 _ _
  | .cvMxencE4m3 _ | .cvMxencE5m2 _ | .cvF4encLo _ | .cvF4encHi _ | .lsLd _ | .lsLdlo _ | .lsLdhi _ | .lsLdn _
  | .lsSt _ | .lsStm _ | .mxMm _ | .mxMmw _ | .mxMmd _ | .mxMmn _ | .mxZero _ | .mxSt _ | .mxLd _ | .wbLd _
  | .wbLdc _ | .wbClr _ | .ceRun _ | .ceRunv _ | .niSt _ _ | .niTst _ _ | .niVaddI32 _ _ | .niVaddI64 _ _
  | .niVaddF32 _ _ | .niVaddF64 _ _ | .niVaddBf16 _ _ | .niTaddI32 _ _ | .niTaddF32 _ _ | .niTaddF64 _ _
  | .niGet _ _ | .niMsg _ | .niWin _ | .niCap _ | .fwait _ _ | .fbump _ | .tdef _ _ | .tarm _ _ | .trel _
  | .twait _ | .pstf _ _ _ _ | .raddfInt _ _ _ _ | .raddfFloat _ _ _ _ | .rfadd _ _ _ _ | .rfswap _ _ _ _
  | .rfand _ _ _ _ | .rfor _ _ _ _ | .rfxor _ _ _ _ | .rfmin _ _ _ _ | .rfmax _ _ _ _ | .rfminu _ _ _ _
  | .rfmaxu _ _ _ _ | .rfaddf _ _ _ _ | .rcas _ _ _ _ _ | .rfenceRel _ _ | .rfenceAcq _ _ | .msend _ _ _
  | .qmov _ _ | .callat _ _ _ _ | .hop _ _ | .own _ _ _ | .ocinv _ | .kget _ _ | .kset _ _ | .gbar _ | .gsum _ _ _
  | .gmax _ _ _ | .gmin _ _ _ | .hstart _ _ _ | .hreap _ _ | .hsave _ _ | .hload _ _ | .tqpush _ _ _ | .tqpop _ _ _
  | .psave _ | .pload _ | .cmig _ _ | .ovmap _ _ | .ovunmap _ | .wfi | .mret | .sret | .ecall | .ebreak | .hstop
  | .upret => false

end Sys2Proof.Machine
end

