-- ==== Sys2Proof/Machine/Turns.lean ====
section
/-! DEFINITION. What a turn of the schedule comes to before an instruction or a step executes (log 2), and the
placing of an instruction where the next turn runs it. -/

namespace Sys2Proof.Machine

/-- What a turn comes to. -/
inductive TurnResult
  | done (s : State)
  | run (s : State) (i : Instr)
  | fault (f : Fault)

/-- A slot's result as a turn's. -/
def SlotResult.turn : SlotResult → TurnResult
  | .done s => .done s
  | .run s i => .run s i

/-- What has happened by the present time without a choice: triggers of fixed latency have completed (R208), and each NI has
taken what it can (R232). -/
def State.catchUp (s : State) : State := s.settle.takeAll

/-- The turn of a window entry: the instruction that it holds (R280). -/
def State.streamTurn (s : State) (i : SlotId) (n : Nat) : TurnResult :=
  match (s.slot i).entry? n with
  | some e => match e.instr with
    | some x => .run { s with strCur := (i, n) } x
    | none => .done s
  | none => .fault .noSuchAgent

/-- The turn of a copy engine on an active list (R254). -/
def State.listTurn (s : State) (core i : Nat) : TurnResult :=
  if (s.core core).lists.length ≤ i then .fault .noSuchAgent
  else match s.copyTurn core i with
    | (s, some x) => .run s x
    | (s, none) => .done s

/-! ### What time alone brings (R31, R34, R50, R52, R208, R317) -/

/-- Whether the quantum of a hart has run out (R52). -/
def State.quantumOut (s : State) (h : HartRef) : Bool :=
  let v := s.hart h
  (v.st == .running || v.st == .parked) && v.csr.quantumLimit != 0
    && decide (v.csr.quantumLimit.toNat ≤ v.ticksCounted s.refTime)

/-- The step of a hart that is due now and that nothing delays: the expiry of its quantum, its waking, the end of a drain or of a
transfer, the end of its task. -/
def State.forcedAt (s : State) (h : HartRef) : Option Instr :=
  let v := s.hart h
  let moved := decide (v.jobDue ≤ s.coreCycle h.core)
  let drained := v.flights.isEmpty || (s.core h.core).lists.any (·.stoppable h)
  let when (b : Bool) (i : Instr) : Option Instr := if b then some i else none
  if s.quantumOut h then some .quantumExpiry
  else match v.st, v.job with
    | .parked, .none => if s.upcallHeld h then some .upcallEntry else when (s.wakes h) .hartWake
    | .running, .save _ | .parked, .save _ | .running, .migrate | .parked, .migrate => when (drained && moved) .hsaveDrainComplete
    | .running, .portSave _ | .running, .portLoad _ => when (v.flights.isEmpty && moved) .portImageTransferComplete
    | .running, .stopping release => when (moved && v.flights.isEmpty && (s.outstanding [release]).isEmpty) .hstopComplete
    | .loading, .loadRecord _ _ release _ => when (moved && (s.outstanding [release]).isEmpty) .hartLoadComplete
    | .loading, .loadImage _ | .loading, .loadTemplate | .loading, .migrate => when moved .hartLoadComplete
    | .saving, .save _ => when moved .hartSaveComplete
    | _, _ => none

/-- The step of a die's clock that is due now (R317): its halt, or its relock at the last moment. -/
def State.forcedClock (s : State) (d : DieId) : Option Instr :=
  let v := s.die d
  if v.halted then if v.anchorTime + haltMost ≤ s.time then some .clockRelock else none
  else match v.haltAfter with
    | some c => if s.cycleTime d (c + 1) ≤ s.time then some .clockHalt else none
    | none => none

/-- Whether a die writes a record now (R373). DEDUCED (log 100). -/
def State.recordDue (s : State) (d : DieId) : Bool :=
  let v := s.die d
  !(v.found.isEmpty && v.holding.isEmpty) && !s.bufferFull d && decide (v.lastWrite ≤ s.cycle d)

/-- A stub in QUIET that is free now (R92). -/
def State.stubDue (s : State) (d : DieId) : Option (Instr × EventArg) :=
  if (s.die d).halted then none
  else (s.die d).stubs.findSome? fun (i, t) => if t.st = .quiet ∧ t.fwdAt + 100000 ≤ s.refTime then some (.stubReclaim, .stub d i) else none

/-- A step that is due now, before any turn of the schedule. -/
def State.forced (s : State) : Option (Instr × EventArg) :=
  match (List.finRange 4).findSome? fun (d : DieId) => (s.forcedClock d).map fun i => (i, .die d) with
  | some x => some x
  | none => match (List.finRange 4).findSome? s.stubDue with
  | some x => some x
  | none => match s.cores.findSome? fun (c, _) => (List.finRange 16).findSome? fun (i : HartId) =>
      (s.upcallLost ⟨c, i⟩).filter fun u => (s.req? u.id).any fun r => match r.stage with | .faulted _ _ => true | _ => false with
    | some u => some (.remoteFaultArrival, .request u.id)
    | none => match (List.finRange 4).find? s.recordDue with
      | some d => some (.faultRecordWrite, .die d)
      | none => s.cores.findSome? fun (c, _) => (List.finRange 16).findSome? fun (i : HartId) =>
        (s.forcedAt ⟨c, i⟩).map fun x => (x, .hart ⟨c, i⟩)

/-- The die cycles of a core at which something of a hart becomes due without a choice. -/
def Hart.dueCycles (v : Hart) : List Nat :=
  let faults := if v.st = .parked then v.pending.map (·.written) else []
  v.jobDue :: (v.flights.filterMap fun f => if fixedLatency f.unit then some f.due else none) ++ faults

/-- The times at which something becomes due without a choice, on the clock of a die. -/
def State.clockTimes (s : State) (d : DieId) : List Nat :=
  let v := s.die d
  if v.halted then [v.anchorTime + haltMost]
  else
    let record := if (v.found.isEmpty && v.holding.isEmpty) || v.fbHead - v.fbTail == 256 then []
      else [s.cycleTime d (max v.lastWrite v.tailUntil)]
    let stubs := v.stubs.filterMap fun (_, t) => if t.st = .quiet then some ((t.fwdAt + 100000) * ticksUnit) else none
    let record := record ++ stubs
    match v.haltAfter with
    | some c => s.cycleTime d (c + 1) :: record
    | none => record

/-- The times at which something becomes due without a choice, at a hart. -/
def State.hartTimes (s : State) (h : HartRef) : List Nat :=
  let v := s.hart h
  let d := dieOf h.core
  let limit := v.csr.quantumLimit.toNat
  let quantum := if (v.st = .running ∨ v.st = .parked) ∧ limit ≠ 0 then
    [(v.quantumSince + (limit - v.quantumCount)) * ticksUnit] else []
  let last := (s.die d).haltAfter
  if (s.die d).halted then quantum
  else
    let cycles := v.dueCycles.filter fun c => decide (s.cycle d ≤ c) && (match last with | some l => decide (c ≤ l) | none => true)
    cycles.map (s.cycleTime d) ++ quantum

/-- The next time, after the present, at which something becomes due without a choice. -/
def State.nextDue (s : State) : Option Nat :=
  let harts := s.cores.flatMap fun (c, _) => (List.finRange 16).flatMap fun (i : HartId) => s.hartTimes ⟨c, i⟩
  (((List.finRange 4).flatMap s.clockTimes ++ harts).filter fun t => decide (s.time < t)).min?

/-- Time passes to a time, but to nothing beyond what becomes due before it (R31, R52, R208). -/
def State.until (s : State) (t : Nat) : State :=
  match s.nextDue with
  | some u => { s with time := min t u }
  | none => { s with time := t }

/-- A slot's result: an instruction may wait for the trap of a fault that filled its operand, or find a soft error (R377, R420). -/
def TurnResult.throughUpsets (r : TurnResult) : TurnResult :=
  match r with
  | .run s i => if s.readsSettled i then .done s else match s.throughUpsets i with
    | .inl s => .done s
    | .inr s => .run s i
  | r => r

/-- A hart's slot (R33, R34): it issues, or it carries 64 bytes of an image or a record. -/
def State.slotTurn (s : State) : TurnResult :=
  if s.me.issues then s.slotOf.turn.throughUpsets else .done s.transferSlot

/-- A turn in a state. Time passes no slot of a hart (R33, R59). -/
def State.takeTurn (s : State) (t : Turn) : TurnResult :=
  match t with
  | .event i a => if isAgentStep i then .run { s with arg := a } i else .done s
  | .slot => match s.nextIssue with
    | some q => if (s.until q.time).time = q.time then q.catchUp.slotTurn else .done (s.until q.time)
    | none => .done (s.until (s.nextDue.getD s.time))
  | .stream i n => s.streamTurn i n
  | .copy c i => s.listTurn c i
  | .idle n => match s.nextIssue with
    | some q => .done (s.until (min q.time (s.time + n)))
    | none => .done (s.until (s.time + n))

/-- When the training of a port ends without a partner (R309). -/
def State.trainingEnd (s : State) (p : PortId) : Nat := s.ports[p].since + 10000000 * ticksUnit

/-- The turn of an empty schedule (log 2): bring-up runs on, ports without a partner leave training, and harts issue. -/
def State.autoTurn (s : State) : Turn :=
  match s.phase with
  | .rom => .event .phaseRom .none
  | .verify => .event .firmwareVerify .none
  | .memory => .event .phaseMemory .none
  | .config => .event .phaseConfig .none
  | .links => match (List.finRange 18).find? (fun p => s.ports[p].st == .training) with
    | some p => if s.time < s.trainingEnd p then .idle (s.trainingEnd p - s.time) else .event .trainingTimeout (.port p)
    | none => .event .phaseLinks .none
  | .ready => if (s.earliest s.cores).isSome || s.nextDue.isSome then .slot else .idle 1
  | .recovery => .idle 1

/-- The next turn and the state without it: what is due now comes before the schedule. -/
def State.nextTurn (s : State) : Turn × State :=
  match s.forced, s.schedule with
  | some (i, a), _ => (.event i a, s)
  | none, [] => (s.autoTurn, s)
  | none, t :: rest => (t, { s with schedule := rest })

/-! ### Placing an instruction (log 6) -/

/-- Writes an entry of 16 bytes of a page table. -/
def placeEntry (m : List Host.Cell) (at_ : Nat) (w0 w1 : Nat) : List Host.Cell :=
  Memory.writeBytes m (hbmKey 0 at_) (leBytes (w0 + 2 ^ 64 * w1) 16)

/-- The device READY with every stack and core, and nothing on its cores. -/
def State.placed (s : State) (m : List Host.Cell) (t : Turn) : State :=
  let d := s.die 0
  let s := s.setDie 0 { d with
    roots := [(0, { asid := 1, valid := true, tdie := 0, taddr := 0x10000, dset := 1 })], tlb := [], halted := false,
    haltAfter := none, harvest := 0 }
  { s with mem := m, phase := .ready, stackMask := 0xFF, schedule := [t], cores := [] }

/-- A core word where hart 0 of core 0 fetches: RUNNING in M mode at virtual address 0 of ASID 1, whose tables on die 0
map one 2 MiB page at frame 32, with every permission. -/
def State.withCoreWord (s : State) (w : Nat) : State :=
  let m := placeEntry s.mem 0x10000 1 0x20000
  let m := placeEntry m 0x20000 1 0x30000
  let m := placeEntry m 0x30000 0x17F 32
  let m := Memory.writeBytes m (hbmKey 0 0x200000) (leBytes w 4)
  let h := { s.hart ⟨0, 0⟩ with
    st := .running, wait := .none, job := .none, issueFrom := 0, pc := 0, mode := .machine, pending := [], upcalls := [],
    lines := [], fetching := none, fetched := none, fetchHold := none, flights := []
    csr := { (s.hart ⟨0, 0⟩).csr with satp := 0xE000100000010000, mie := 0, bpctl := Vector.replicate 4 0 } }
  (s.placed m .slot).setHart ⟨0, 0⟩ h

/-- A stream word as the one entry, issued and not started, of the window of slot 0, which runs on die 0. -/
def State.withStreamWord (s : State) (w : Nat) : State :=
  let word := BitVec.ofNat 128 w
  let e : Entry := { blankEntry 0 0 word (decodeStream word) with st := .issued }
  let s := s.placed s.mem (.stream 0 0)
  s.setSlot 0 { s.slot 0 with st := .running, lead := 0, ctx := 0, window := [e], next := 1, drain := [] }

/-- A copy command where list 0 of core 0's copy engine reads its next one: at scratchpad offset 0, for hart 0 in M mode. -/
def State.withCopyCommand (s : State) (w : Nat) : State :=
  let t : Trigger := { h := ⟨0, 0⟩, seq := 0, fn := 0, a := 0x8000000000000000, b := 0, c := 0, d := 0, f := 0, ord := 0, scope := 0,
                       rm := 0, compat := 0, bandsc := 0x3F80, mode := .machine, readsAfter := [], writesAfter := [], after := [],
                       born := 0, earlier := [], entered := 0, cycle := 0, macroOp := none }
  let l : CeList := { t := t, pc := 0x8000000000000000, reached := 0, completed := 0, cmds := [], waiting := false, ended := false,
                      stopped := false, reading := none, word := none, from_ := 0 }
  let s := s.placed (Memory.writeBytes s.mem (spadKey 0 0) (leBytes w 64)) (.copy 0 0)
  s.setCore 0 { Core.reset with lists := [l] }

end Sys2Proof.Machine
end

