-- ==== Sys2Proof/Machine/Step.lean ====
section
/-! DEFINITION. One step of the device: the next turn of the schedule (log 2). -/

namespace Sys2Proof.Machine

/-- One step: what the present time has brought comes first. -/
def step (s : State) : Host.Outcome State Fault Refusal :=
  match s.catchUp.nextTurn.2.takeTurn s.catchUp.nextTurn.1 with
  | .done t => .next t
  | .run t i => exec i t
  | .fault f => .fault f

/-- The state with an instruction where the next step runs it, by the length of its word: a copy command where a list reads it, a
stream word in the window, or a core word where hart 0 of core 0 fetches. -/
def State.withFetchWord (s : State) (nbits w : Nat) : State :=
  if nbits = 512 then s.withCopyCommand w
  else if nbits = 128 then s.withStreamWord w
  else s.withCoreWord w

end Sys2Proof.Machine
end

