-- ==== Sys2Proof/Safety.lean ====
section
/-! DEFINITION. The terms in which claims about the device are stated: what every state keeps, what an instruction or a step
leaves as it was, and when the operands of an instruction are ready. -/

namespace Sys2Proof.Machine

/-- The invariant of a state that every step keeps: memory is in its canonical form (log 3). -/
def State.safe (s : State) : Prop := Memory.wf s.mem = true

/-- States that a number of steps reaches from a state without a fault or a refusal. -/
def reaches (s : State) (n : Nat) (t : State) : Prop := Host.Core.run Sys2Proof.core n s = .next t

/-! ### Frames -/

/-- Nothing but the issuing hart differs, and of that nothing but what `v` says. -/
def onlyHart (s t : State) (v : Hart) : Prop := t = s.setMe v

/-- The issuing hart with its PC past its word and its instruction counted (R35, R162), and nothing else changed. -/
def Hart.next (h : Hart) : Hart := { h with pc := h.pc + 4, csr := { h.csr with instret := h.csr.instret + 1 } }

/-- No byte of memory is changed. -/
def keepsMemory (s t : State) : Prop := ∀ k, Memory.read t.mem k = Memory.read s.mem k

/-- No byte of memory outside n bytes from a key on is changed. -/
def keepsMemoryBut (s t : State) (k n : Nat) : Prop :=
  ∀ j, j < k ∨ k + n ≤ j → Memory.read t.mem j = Memory.read s.mem j

/-! ### Triggers (R203, R206, R209) -/

/-- A source of a trigger that can be read: port 0x2C, a queue entry that can be popped, or a full latch or bin. -/
def sourceReady (s : State) (p : BitVec 6) : Prop :=
  (s.me.latch p).st ≠ .lost ∧ (p = 0x2C ∨ (p = 0x2A ∧ s.hasUpstream s.cur.core = true ∧ 1 ≤ s.poppable s.cur.core) ∨
    (p ≠ 0x2A ∧ (s.me.latch p).st = .full))

/-- The latches of a unit hold what a trigger needs: its source, the latches that its function requires, none LOST of those
it uses where they are full, and room under the in-flight limit (R206). A source move fills the trigger operand (R206). -/
def armed (s : State) (g : Trig) (u : EngineUnit) (required optional : List (BitVec 6)) : Prop :=
  (if g.port = operandPort u then (s.me.latch g.port).st = .full else sourceReady s g.port) ∧
  (∀ q ∈ required, q ≠ operandPort u → (s.me.latch q).st = .full) ∧
  (∀ q ∈ optional, (s.me.latch q).st ≠ .lost) ∧
  s.me.inFlight u < inFlightLimit u

/-- A trigger of its own operand latch x, which with y its function requires: p is the first of the two that is empty, and
neither is lost (R414). -/
def lacks (s : State) (g : Trig) (u : EngineUnit) (x y p : BitVec 6) : Prop :=
  g.port = operandPort u ∧ operandPort u = x ∧ (s.me.latch x).st ≠ .lost ∧ (s.me.latch y).st ≠ .lost ∧
  (s.me.latch p).st = .empty ∧ (p = x ∨ p = y ∧ (s.me.latch x).st = .full)

/-- The value of the trigger operand: the operand latch, or what the source moves into it, at its width (R200, R206). -/
def triggerValue (s : State) (g : Trig) (u : EngineUnit) : Wide :=
  if g.port = operandPort u then (s.me.latch g.port).val
  else lowBits (if g.port = 0x2A then s.queueHead s.cur.core 0 else s.me.readPort g.port) (portWidth (operandPort u))

/-- The latch of a port in the slot of a trigger: the result latch of its unit empties, its trigger operand takes what the
source moves, and every other latch stays (R206). -/
def latchAfter (s : State) (g : Trig) (u : EngineUnit) (p : BitVec 6) : Latch :=
  if p = resultPort u then Latch.empty
  else if p = operandPort u ∧ g.port ≠ operandPort u then ⟨.full, triggerValue s g u⟩ else s.me.latch p

/-- The slot of a trigger of VA, VS, CV or LS (R35, R206, R209): the PC and SEQ advance, the trigger f is the newest in flight,
its ring entry is written, the latches are as `latchAfter` says, a popped entry leaves the queue, and nothing else of the
state changes but the count of numeric events (R113). -/
def triggerSlot (s t : State) (g : Trig) (u : EngineUnit) (fn : BitVec 8) (f : Flight) : Prop :=
  t.me = { s.me.next with
    seq := s.me.seq + 1, ports := t.me.ports, ring := t.me.ring,
    flights := s.me.flights.map (fun x => if x.unit = u then { x with latest := false } else x) ++ [f] } ∧
  (f.unit = u ∧ f.seq = s.me.seq ∧ f.fn = fn ∧ f.latest = true) ∧
  (∀ p, t.me.latch p = latchAfter s g u p) ∧
  t.me.ring = s.me.ring.set (s.me.seq.toNat % 32) (ringWord u fn false false) (Nat.mod_lt _ (by decide)) ∧
  t = s.setMyCore t.myCore ∧
  t.myCore = { s.myCore with
    harts := s.myCore.harts.set s.cur.hart t.me, numevt := t.myCore.numevt
    qn := if g.port = 0x2A then s.myCore.qn.drop 1 else s.myCore.qn }

/-- An instruction triggers VA, VS or CV: it takes its slot as `triggerSlot` says, and its result, due after the latency of
R208, and its flags are as `result` says. -/
def triggers (i : Instr) (s : State) (g : Trig) (u : EngineUnit) (fn : BitVec 8) (latency : Nat)
    (result : Wide → BitVec 5 → Prop) : Prop :=
  ∃ t r fl, exec i s = .next t ∧ result r fl ∧
    triggerSlot s t g u fn ⟨u, s.me.seq, fn, s.coreCycle s.cur.core + latency, r, fl, .none, true⟩

/-- Bit l of the mask va.m: 1 where va.m is not full (R210). -/
def vaEnabled (s : State) (l : Nat) : Bool :=
  match (s.me.latch 0x13).st with
  | .full => (s.me.latch 0x13).val.toNat.testBit l
  | _ => true

/-- The value of an operand latch. -/
def operandLatch (s : State) (p : BitVec 6) : Wide := (s.me.latch p).val

/-- A result of VA whose enabled lanes of w bits are as a rule on the lanes of va.x, va.y and va.z says, and whose other lanes
are 0 (R210). -/
def vaResult (s : State) (g : Trig) (w : Nat) (op : Nat → Nat → Nat → Nat) (r : Wide) : Prop :=
  ∀ l, l < 512 / w → lane w r l = if vaEnabled s l then
    op (lane w (triggerValue s g .va) l) (lane w (operandLatch s 0x11) l) (lane w (operandLatch s 0x12) l) % 2 ^ w else 0

/-- Flags of a result of VA: those that the enabled lanes raise (R96, R210). -/
def vaFlags (s : State) (g : Trig) (w : Nat) (op : Nat → Nat → Nat → FFlags) (fl : BitVec 5) : Prop :=
  fl = ((List.range (512 / w)).filter (vaEnabled s)).foldl (fun f l => f |||
    op (lane w (triggerValue s g .va) l) (lane w (operandLatch s 0x11) l) (lane w (operandLatch s 0x12) l)) 0

/-- A result of a compare: bit l below 512 / w is 1 where lane l is enabled and the relation holds, and the rest are 0
(R213). -/
def vaRelation (s : State) (g : Trig) (w : Nat) (op : Nat → Nat → Bool) (r : Wide) : Prop :=
  ∀ l, l < 512 → r.getLsbD l = (decide (l < 512 / w) && vaEnabled s l &&
    op (lane w (triggerValue s g .va) l) (lane w (operandLatch s 0x11) l))

/-- A lane as a two's complement number. -/
def signedLane (w x : Nat) : Int := (BitVec.ofNat w x).toInt

/-- The lanes of vs.x that a reduction takes: those that vs.y does not disable, all where vs.y is not full (R217). -/
def vsLane (s : State) (x : Nat → Nat) (i : Nat) : Option Nat :=
  match (s.me.latch 0x16).st with
  | .full => if (s.me.latch 0x16).val.toNat.testBit i then some (x i) else none
  | _ => some (x i)

/-- Entry i of the pairwise tree of R111 after k rounds: an absent entry gives way to its partner. -/
def treeValue (op : Nat → Nat → Nat) (v : Nat → Option Nat) : Nat → Nat → Option Nat
  | 0, i => v i
  | k + 1, i =>
    match treeValue op v k (2 * i), treeValue op v k (2 * i + 1) with
    | some x, some y => some (op x y)
    | some x, none => some x
    | none, y => y

/-- The flags of the combinations below entry i after k rounds (R111). -/
def treeFlags (op : Nat → Nat → Nat) (fl : Nat → Nat → FFlags) (v : Nat → Option Nat) : Nat → Nat → FFlags
  | 0, _ => 0
  | k + 1, i =>
    (match treeValue op v k (2 * i), treeValue op v k (2 * i + 1) with
     | some x, some y => fl x y
     | _, _ => 0) ||| treeFlags op fl v k (2 * i) ||| treeFlags op fl v k (2 * i + 1)

/-- The low n bits of a latch after the source move of a trigger, 0 where it is not full (R206). -/
def snapshotOf (s : State) (g : Trig) (u : EngineUnit) (p : BitVec 6) (n : Nat) : BitVec n :=
  if p = operandPort u then BitVec.ofNat n (triggerValue s g u).toNat
  else match (s.me.latch p).st with
    | .full => BitVec.ofNat n (s.me.latch p).val.toNat
    | _ => 0

/-- An instruction triggers MX, WB, CE or NI (R127, R206, R209): the hart goes on as `triggerSlot` has it, one trigger q with the
snapshot of the operands, of the ordering and of the hart's modes joins the queue, as `put` has it, after a release and an
acquire of its ordering, and no byte of memory changes. -/
def queues (i : Instr) (s : State) (g : Trig) (u : EngineUnit) (fn : BitVec 8) (put : Core → Trigger → Core) : Prop :=
  ∃ t q, exec i s = .next t ∧
    t.me = { s.me.next with
      seq := s.me.seq + 1, ports := t.me.ports, holdAll := t.me.holdAll, holdWrites := t.me.holdWrites
      ring := s.me.ring.set (s.me.seq.toNat % 32) (ringWord u fn false false) (Nat.mod_lt _ (by decide))
      flights := s.me.flights.map (fun x => if x.unit = u then { x with latest := false } else x)
        ++ [⟨u, s.me.seq, fn, 0, 0, 0, .none, true⟩] } ∧
    (∀ p, t.me.latch p = latchAfter s g u p) ∧
    (q.h = s.cur ∧ q.seq = s.me.seq ∧ q.fn = fn ∧ q.ord = g.ord ∧ q.scope = g.scope ∧ q.mode = s.me.mode) ∧
    (q.rm = s.me.csr.vfcsr.extractLsb' 5 3 ∧ q.compat = s.me.csr.compat ∧ q.bandsc = s.me.csr.bandsc.extractLsb' 0 16) ∧
    q.a = snapshotOf s g u (operandPort u) 128 ∧
    (u = .mx → q.b = snapshotOf s g u 0x1F 128 ∧ q.c = snapshotOf s g u 0x20 64) ∧
    (u = .ni → q.d = snapshotOf s g u 0x28 512 ∧ q.f = snapshotOf s g u 0x27 64) ∧
    (g.ord.getLsbD 1 = true → ∃ r ∈ t.reqs, r.kind = .release g.scope ∧ r.id ∈ q.writesAfter) ∧
    (g.ord.getLsbD 0 = true → ∃ r ∈ t.reqs, r.kind = .acquire ∧ r.id ∈ q.readsAfter) ∧
    t.myCore = put { s.myCore with
      harts := s.myCore.harts.set s.cur.hart t.me, entered := s.myCore.entered + 1
      qn := if g.port = 0x2A then s.myCore.qn.drop 1 else s.myCore.qn } q ∧
    (∀ c, c ≠ s.cur.core → t.core c = s.core c) ∧ t.mem = s.mem

/-! ### Moves (R203 to R205) -/

/-- The ports of a move are as it needs them: every source readable, as many entries in the queue as it pops, and room
downstream for what it pushes (R203, R224, R225). -/
def movable (s : State) (sources dests : List (BitVec 6)) : Prop :=
  (∀ p ∈ sources, (s.me.latch p).st ≠ .lost ∧ (p = 0x2A ∨ p = 0x2C ∨ (s.me.latch p).st = .full)) ∧
  (0x2A ∈ sources → s.hasUpstream s.cur.core = true ∧ sources.count 0x2A ≤ s.poppable s.cur.core) ∧
  (0x2B ∈ dests → s.pushable s.cur (dests.count 0x2B) = true)

/-- What the source of a move reads: a latch, or the queue entry after `n` popped ones (R204, R224). -/
def sourceValue (s : State) (p : BitVec 6) (n : Nat) : Wide :=
  if p = 0x2A then s.queueHead s.cur.core n else if p = 0x2C then 0 else (s.me.latch p).val

/-- A latch after the writes of a list, in order (R200, R201). -/
def latchWritten (l : Latch) (p : BitVec 6) : List (BitVec 6 × Wide) → Latch
  | [] => l
  | (d, v) :: r => latchWritten (if p = d ∧ p ≠ 0x2B ∧ p ≠ 0x2C then ⟨.full, lowBits v (portWidth p)⟩ else l) p r

/-- An instruction of the issuing hart that leaves its registers: only its PC, its instruction count and its ports change, the
ports as `latch` says, and nothing outside the hart. -/
def changesPorts (i : Instr) (s : State) (latch : BitVec 6 → Latch) : Prop :=
  ∃ t, exec i s = .next t ∧ t = s.setMe { s.me.next with ports := t.me.ports } ∧ ∀ p, t.me.latch p = latch p

/-! ### Computation (R159) -/

/-- RISC-V's 64-bit register computations as integers, of which the register takes the low 64 bits (R159). -/
def aluInt (o : AluOp) (a b : Word) : Int :=
  match o with
  | .add => a.toNat + b.toNat
  | .sub => a.toNat - b.toNat
  | .sll => a.toNat * 2 ^ (b.toNat % 64)
  | .slt => if a.toInt < b.toInt then 1 else 0
  | .sltu => if a.toNat < b.toNat then 1 else 0
  | .xor => (a ^^^ b).toNat
  | .srl => a.toNat / 2 ^ (b.toNat % 64)
  | .sra => a.toInt / 2 ^ (b.toNat % 64)
  | .or => (a ||| b).toNat
  | .and => (a &&& b).toNat
  | .mul => a.toNat * b.toNat
  | .mulh => a.toInt * b.toInt / 2 ^ 64
  | .mulhsu => a.toInt * b.toNat / 2 ^ 64
  | .mulhu => a.toNat * b.toNat / 2 ^ 64
  | .div => if b = 0 then -1 else a.toInt.tdiv b.toInt
  | .divu => if b = 0 then -1 else a.toNat / b.toNat
  | .rem => if b = 0 then a.toInt else a.toInt.tmod b.toInt
  | .remu => if b = 0 then a.toNat else a.toNat % b.toNat

/-- RISC-V's 32-bit register computations on the low halves, of which the register takes the low 32 bits, sign-extended
(R159). -/
def aluIntW (o : AluWOp) (a b : BitVec 32) : Int :=
  match o with
  | .addw => a.toNat + b.toNat
  | .subw => a.toNat - b.toNat
  | .sllw => a.toNat * 2 ^ (b.toNat % 32)
  | .srlw => a.toNat / 2 ^ (b.toNat % 32)
  | .sraw => a.toInt / 2 ^ (b.toNat % 32)
  | .mulw => a.toNat * b.toNat
  | .divw => if b = 0 then -1 else a.toInt.tdiv b.toInt
  | .divuw => if b = 0 then -1 else a.toNat / b.toNat
  | .remw => if b = 0 then a.toInt else a.toInt.tmod b.toInt
  | .remuw => if b = 0 then a.toNat else a.toNat % b.toNat

/-- The condition of a branch on the values of its registers (R159). -/
def branchTaken (c : BranchCond) (a b : Word) : Prop :=
  match c with
  | .beq => a = b
  | .bne => a ≠ b
  | .blt => a.toInt < b.toInt
  | .bge => b.toInt ≤ a.toInt
  | .bltu => a.toNat < b.toNat
  | .bgeu => b.toNat ≤ a.toNat

/-- The issuing hart fills a register and goes on to its next word; x0 takes nothing (R35, R137, R168). Nothing outside the
hart changes. -/
def fillsRegister (i : Instr) (s : State) (rd : Reg) (v : Word) : Prop := exec i s = .next (s.setMe ((s.me.fill rd v).next))

/-! ### The matrix array (R107, R108, R237) -/

/-- A finite value as a number; 0 of the others. -/
def exactValue : Val → ℚ
  | .fin n m e => (if n then -1 else 1) * (m : ℚ) * (2 : ℚ) ^ e
  | _ => 0

/-- One group of an accumulation (R107, R108): from the accumulator's code `old`, over pairs of operand values, to its code `new`.
A NaN gives the NaN of R95; 0 × ∞, and infinities of both signs, the canonical NaN; an infinity else that infinity; and finite
values their exact sum v × 2^q rounded once, or a zero, with the sign of R108 where the sum is 0 and of the sum where ARRAYFTZ
flushes it. -/
def groupAccumulated (f : Fmt) (pay ftz : Bool) (old new : Nat) (ab : List (Val × Val)) : Prop :=
  let o := unpack f old
  let nan := o.isNan = true ∨ ∃ x ∈ ab, x.1.isNan = true ∨ x.2.isNan = true
  let invalid := ∃ x ∈ ab, (x.1.isInf = true ∧ x.2.isZero = true) ∨ (x.1.isZero = true ∧ x.2.isInf = true)
  let infinite (n : Bool) := o = .inf n ∨ ∃ x ∈ ab, (x.1.isInf = true ∨ x.2.isInf = true) ∧ (x.1.neg != x.2.neg) = n
  let minus := o.isZero && o.neg && ab.all fun x => (x.1.isZero || x.2.isZero) && (x.1.neg != x.2.neg)
  (nan → new = nanCode f pay (ab.map (·.1) ++ ab.map (·.2) ++ [o])) ∧
  (¬ nan → invalid ∨ (infinite false ∧ infinite true) → new = canonicalNan f) ∧
  (∀ n : Bool, ¬ nan → ¬ invalid → infinite n → ¬ infinite (!n) → new = infCode f n) ∧
  (¬ nan → ¬ infinite false → ¬ infinite true →
    ∃ (v q : Int), (v : ℚ) * (2 : ℚ) ^ q = exactValue o + (ab.map fun x => exactValue x.1 * exactValue x.2).sum ∧
      (v = 0 → new = signed f minus 0) ∧
      (v ≠ 0 → new = if ftz = true ∧ isSubnormal f (unpack f (roundInt f .rne v q).1) = true then signed f (decide (v < 0)) 0
        else (roundInt f .rne v q).1))

/-- An accumulator element after a row and a column of values, in groups of g (R107). -/
def elementAccumulated (f : Fmt) (pay ftz : Bool) (g old new : Nat) (ab : List (Val × Val)) : Prop :=
  ∃ c : Nat → Nat, c 0 = old ∧ c ((ab.length + g - 1) / g) = new ∧
    ∀ k, k < (ab.length + g - 1) / g → groupAccumulated f pay ftz (c k) (c (k + 1)) ((ab.drop (g * k)).take g)

/-- The values that a window delivers to a step from stored bytes (R99, R102, R105, R237): FP32, or FP64 of `mx.mmd`, through W0,
FP16 through W2, BF16 through the others; a subnormal one is a zero of its sign under ARRAYFTZ. The format that says which
values are subnormal: DESIGN CHOICE (log 97). -/
def stepValues (c : WinCtx) (ftz wide : Bool) (win : Nat) (b : List Byte) : List Val :=
  let (f, w) : Fmt × Nat := if win = 0 then (if wide then (fp64, 8) else (fp32, 4)) else if win = 2 then (fp16, 2) else (bf16, 2)
  let d := if win = 3 ∨ win = 4 ∨ win = 5 then (windowRead c win b).1 else b
  (List.range (d.length / w)).map fun k =>
    let v := unpack f (leNat ((d.drop (w * k)).take w))
    if ftz = true ∧ isSubnormal f v = true then .fin v.neg 0 0 else v

/-! ### Accesses -/

/-- A place that only requests reach: not the issuing core's tables and registers, and its scratchpad only through another
selector than 0x8 (R119). -/
def throughNi (a : Word) : Place → Prop
  | .tileTable _ | .watchTable _ | .coreReg _ => False
  | .spad _ _ _ => field a 60 4 ≠ 8
  | _ => True

/-- One request of the issuing hart joins the outbound queue (R120): it names the hart, its mode and its address space, and
holds the operation, the data and the destination given. -/
def enqueued (s t : State) (a : Word) (op : ReqOp) (data : List Byte) (dest : Dest) : Prop :=
  ∃ r, t.reqs = s.reqs ++ [r] ∧ t.nextId = s.nextId + 1 ∧ r.id = s.nextId ∧ r.kind = .access ∧ r.src = .hart s.cur ∧
    r.core = s.cur.core ∧ r.user = (s.me.mode == .user) ∧ r.asid = s.me.csr.satp.extractLsb' 44 16 ∧ r.addr = a ∧ r.op = op ∧
    r.data = data ∧ r.dest = dest ∧ r.arrival = .none ∧ r.stage = .queued ∧ (∀ n ∈ s.outstanding s.me.holdAll, n ∈ r.waits)

/-- Some request of the issuing hart leads a state's queue of requests, after a release of its ordering where there is one
(R120, R125): as `enqueued`, with what precedes it kept. -/
def posts (s t : State) (a : Word) (op : ReqOp) (data : List Byte) (arrival : Arrival) (dest : Dest) (r : Req) : Prop :=
  t.reqs.getLast? = some r ∧ (∀ q ∈ s.reqs, q ∈ t.reqs) ∧ t.nextId = r.id + 1 ∧ s.nextId ≤ r.id ∧ r.kind = .access ∧
  r.src = .hart s.cur ∧ r.core = s.cur.core ∧ r.user = (s.me.mode == .user) ∧
  r.asid = s.me.csr.satp.extractLsb' 44 16 ∧ r.addr = a ∧ r.op = op ∧ r.data = data ∧ r.arrival = arrival ∧ r.dest = dest ∧
  r.stage = .queued ∧ (∀ n ∈ s.outstanding s.me.holdAll, n ∈ r.waits) ∧
  (r.isWrite = true → ∀ n ∈ s.outstanding s.me.holdWrites, n ∈ r.waits)

/-- The hart has gone on to its next word, changed as `v` says, but for what its later accesses wait for. -/
def goesOn (t : State) (v : Hart) : Prop := t.me = { v.next with holdAll := t.me.holdAll, holdWrites := t.me.holdWrites }

/-- RISC-V's atomic memory operations on a memory value x and a register value y (R159). -/
def amoResult {w : Nat} (o : AmoOp) (x y : BitVec w) : BitVec w :=
  match o with
  | .add => x + y
  | .swap => y
  | .xor => x ^^^ y
  | .or => x ||| y
  | .and => x &&& y
  | .min => if x.toInt ≤ y.toInt then x else y
  | .max => if x.toInt ≤ y.toInt then y else x
  | .minu => if x.toNat ≤ y.toNat then x else y
  | .maxu => if x.toNat ≤ y.toNat then y else x

/-! ### Traps (R161, R361, R363) -/

/-- The issuing hart takes a precise trap on its instruction: nothing outside it changes, its PC, the cause and the value are
saved for the mode that the trap goes to, the status bits of that mode change, and the PC goes to its handler. Places of the
status bits: PRESUMED (log 5). -/
def entersTrap (s t : State) (cause : Nat) (tval : Word) : Prop :=
  let v := s.me
  let old := v.csr.mstatus
  t = s.setMe t.me ∧
  t.me = { v with
    st := .running, wait := .none, resv := none, lr := none, lines := [], fetching := none, fetched := none, rewrites := none
    mode := t.me.mode, pc := t.me.pc, csr := t.me.csr
    quantumCount := t.me.quantumCount, quantumSince := t.me.quantumSince } ∧
  if v.mode ≠ .machine ∧ v.csr.medeleg.getLsbD cause = true then
    t.me.mode = .supervisor ∧ t.me.pc = v.csr.stvec &&& ~~~ 3#64 ∧
    t.me.csr = { v.csr with sepc := v.pc, scause := BitVec.ofNat 64 cause, stval := tval, mstatus := t.me.csr.mstatus } ∧
    ∀ n, t.me.csr.mstatus.getLsbD n =
      if n = 5 then old.getLsbD 1 else if n = 1 then false else if n = 8 then v.mode != .user else old.getLsbD n
  else
    t.me.mode = .machine ∧ t.me.pc = v.csr.mtvec &&& ~~~ 3#64 ∧
    t.me.csr = { v.csr with mepc := v.pc, mcause := BitVec.ofNat 64 cause, mtval := tval, mstatus := t.me.csr.mstatus } ∧
    ∀ n, t.me.csr.mstatus.getLsbD n =
      if n = 7 then old.getLsbD 3 else if n = 3 then false else if n = 11 then v.mode != .user
      else if n = 12 then v.mode == .machine else old.getLsbD n

/-- An instruction traps. -/
def traps (i : Instr) (s : State) (cause : Nat) (tval : Word) : Prop := ∃ t, exec i s = .next t ∧ entersTrap s t cause tval

/-- An instruction traps with cause 24, a code and its DETAIL beside the instruction word (R362). -/
def trapsWith (i : Instr) (s : State) (code detail : BitVec 8) : Prop := traps i s 24 (0#16 ++ s.insn ++ detail ++ code)

/-! ### Streams (R277, R280, R369, R415) -/

/-- The turn is that of a window entry of a RUNNING slot that is to start its work: it is issued and not started, or waits to be
resolved at decode, and names no undeclared tensor (R276, R280). -/
def startsEntry (s : State) (i : SlotId) (e : Entry) : Prop :=
  s.strCur = (i, e.n) ∧ (s.slot i).st = .running ∧ (s.slot i).entry? e.n = some e ∧
  (e.st = .issued ∧ e.started = false ∧ e.discarded = false ∨ e.st = .held ∧ resolves e.op e.fields = true) ∧ e.undeclared = none ∧
  ∀ d ∈ (s.slot i).drain, d.e.n ≠ e.n

/-- A window entry is replaced, and nothing else of the state. -/
def entryAfter (s : State) (i : SlotId) (e : Entry) : State := s.setSlot i ((s.slot i).setEntry e)

/-- A window entry is marked with a code, and holds no place at a Cellar engine any more, and a record with that code, the DETAIL and the stream joins the queue of the lead die, or
waits for room in it (R369, R371, R373, R415). No byte of memory and nothing else of the slot changes. -/
def marksEntry (s t : State) (i : SlotId) (e : Entry) (code : BitVec 8) (detail : BitVec 16) : Prop :=
  ∃ f : FaultRec, f.w0.extractLsb' 0 8 = code ∧ f.detail = detail ∧ f.slot = some i ∧ t.mem = s.mem ∧
    t.slot i = (s.slot i).setEntry { e with st := .marked code none, room := [] } ∧
    (if s.bufferFull (s.slot i).lead then (t.die (s.slot i).lead).holding = (s.die (s.slot i).lead).holding ++ [f]
      else (t.die (s.slot i).lead).found = (s.die (s.slot i).lead).found ++ [f])

/-- A stream instruction whose operand breaks a limit marks its entry SOPERAND, with the field and its OP as DETAIL, and starts
nothing (R415, R424). -/
def breaksLimit (x : Instr) (s : State) (i : SlotId) (e : Entry) (field : Nat) : Prop :=
  ∃ t, exec x s = .next t ∧ marksEntry s t i e 0x50 (BitVec.ofNat 16 (field + 256 * e.op.toNat))

/-- An address of one of some spaces with an alignment: space 0 holds 57 bits, and space 8 means region 0 (R289, R300). -/
def addressIn (spaces : List Nat) (align : Nat) (a : Word) : Prop :=
  (a.extractLsb' 60 4).toNat ∈ spaces ∧ a.toNat % align = 0 ∧ (a.extractLsb' 60 4 = 0 → a.extractLsb' 57 3 = 0) ∧
  (a.extractLsb' 60 4 = 8 → a.extractLsb' 21 39 = 0)

/-- A record with a code and a DETAIL waits to be written, or for room, at a die (R371, R373). -/
def recordsOn (t : State) (d : DieId) (code : BitVec 8) (detail : BitVec 16) : Prop :=
  ∃ f ∈ (t.die d).found ++ (t.die d).holding, f.w0.extractLsb' 0 8 = code ∧ f.detail = detail

/-- A step of the clock of a die to a code has been asked for, and the clock halts after the first slot-15 die cycle that begins
after the present one (R317). -/
def stepsClock (s t : State) (d : DieId) (code : BitVec 5) : Prop :=
  (t.die d).target = code ∧ (t.die d).busy = true ∧
    ∃ c, (t.die d).haltAfter = some c ∧ c % 16 = 15 ∧ s.cycle d < c ∧ c ≤ s.cycle d + 16

/-- The write of a device register that a step performs comes from the host (R313, R319). -/
def hostWrites (s : State) (d : DieId) (off : Nat) (w : Word) : Prop :=
  ∃ b, s.arg = .write (.host b w) ∧ s.registerWrite? (.host b w) = some (d, off, w)

/-! ### CSRs -/

/-- The CSRs that hold what is written under a mask, as M mode reaches them: number, mask and where they stand (R71, R80, R103, R115,
R161 to R165). Masks of the standard ones: PRESUMED (log 5). -/
def heldCsrs : List (Nat × Word × (Csrs → Word)) :=
  [(0x801, 0xFFFF, Csrs.bandsc), (0x802, 7, Csrs.compat), (0x803, 0x8000FFFFFFFFFFFF, Csrs.taskret),
   (0x5C1, 0xFFFFFFFFFFFFFFFC, Csrs.upvec), (0x810, 0xFFFFFFFFFFFFFFFC, Csrs.upepc), (0x811, 0xFF, Csrs.upcause),
   (0x812, 0xFFFFFFFFFFFFFFFF, Csrs.upval), (0x813, 1, Csrs.upstat),
   (0x304, 0x30000, Csrs.mie), (0x341, 0xFFFFFFFFFFFFFFFC, Csrs.mepc), (0x342, 0xFFFFFFFFFFFFFFFF, Csrs.mcause),
   (0x343, 0xFFFFFFFFFFFFFFFF, Csrs.mtval), (0x305, 0xFFFFFFFFFFFFFFFD, Csrs.mtvec),
   (0x340, 0xFFFFFFFFFFFFFFFF, Csrs.mscratch), (0x302, 0x700B3FF, Csrs.medeleg), (0x303, 0x30000, Csrs.mideleg),
   (0x306, 7, Csrs.mcounteren), (0x106, 7, Csrs.scounteren), (0x105, 0xFFFFFFFFFFFFFFFD, Csrs.stvec),
   (0x140, 0xFFFFFFFFFFFFFFFF, Csrs.sscratch), (0x141, 0xFFFFFFFFFFFFFFFC, Csrs.sepc),
   (0x142, 0xFFFFFFFFFFFFFFFF, Csrs.scause), (0x143, 0xFFFFFFFFFFFFFFFF, Csrs.stval)] ++
  (List.finRange 8).flatMap (fun (i : Fin 8) =>
    [(0x5D0 + i.val, 0x3FFFFFFFFFC0, fun (c : Csrs) => c.spbase[i]), (0x5D8 + i.val, 0xB00000000007FFFF, fun (c : Csrs) => c.splim[i])]) ++
  (List.finRange 4).flatMap (fun (i : Fin 4) =>
    [(0x7C0 + i.val, 0xFFFFFFFFFFFFFFFF, fun (c : Csrs) => c.bpaddr[i]), (0x7C4 + i.val, 0xF, fun (c : Csrs) => c.bpctl[i])])

end Sys2Proof.Machine
end

