-- ==== Sys2Proof/Certificates/Slice0/Obligations.lean ====
section
/-! DEFINITION. The statements about the device that are to be proved, one for each group of rules. -/

section

open Sys2Proof Sys2Proof.Machine

/-! ### The unit VA (R206 to R214) -/

/-- R211: the eight integer functions on lanes of every width, with codes 4 × op + wd, two die cycles after the trigger.
A required latch that is empty, va.x or va.y, takes code 0x08 with its port, and performs nothing. -/
def Obligations.VaIntegerLanes : Prop :=
  (∀ (s : State) (g : Trig) (c : BitVec 2), armed s g .va [0x10, 0x11] [] → g.ord = 0 → g.scope = 0 →
    let w := 8 * 2 ^ c.toNat
    let code (op : Nat) := BitVec.ofNat 8 (4 * op + c.toNat)
    let lanewise (op : Nat → Nat → Nat) (r : Wide) (fl : BitVec 5) := vaResult s g w (fun x y _ => op x y) r ∧ fl = 0
    triggers (.vaAdd g c) s g .va (code 0) 2 (lanewise fun x y => x + y) ∧
    triggers (.vaSub g c) s g .va (code 1) 2 (lanewise fun x y => (x + (2 ^ w - y % 2 ^ w))) ∧
    triggers (.vaMul g c) s g .va (code 2) 2 (lanewise fun x y => x * y) ∧
    triggers (.vaMin g c) s g .va (code 3) 2 (lanewise fun x y => if signedLane w x < signedLane w y then x else y) ∧
    triggers (.vaMax g c) s g .va (code 4) 2 (lanewise fun x y => if signedLane w x < signedLane w y then y else x) ∧
    triggers (.vaSll g c) s g .va (code 5) 2 (lanewise fun x y => x * 2 ^ (y % w)) ∧
    triggers (.vaSra g c) s g .va (code 6) 2 (lanewise fun x y => (signedLane w x / 2 ^ (y % w) % 2 ^ w).toNat) ∧
    triggers (.vaSrl g c) s g .va (code 7) 2 (lanewise fun x y => x / 2 ^ (y % w))) ∧
  (∀ (s : State) (g : Trig) (c : BitVec 2) (p : BitVec 6), lacks s g .va 0x10 0x11 p → g.ord = 0 → g.scope = 0 →
    ∀ i ∈ [Instr.vaAdd g c, .vaSub g c, .vaMul g c, .vaMin g c, .vaMax g c, .vaSll g c, .vaSra g c, .vaSrl g c],
      exec i s = .next (s.trapCode 0x08 (p.zeroExtend 8)))

/-- R212: the eight floating functions on lanes of the four formats, with codes 0x20 + 4 × op + f: each lane's value and flags
are those of the named operation of the format in the rounding mode of xvfcsr, 4 die cycles after the trigger and 5 for the
fused ones, which alone require va.z. R214: the transcendental functions take the FP32 lanes of va.x alone and give each lane
the result and the flags of R112, 10 die cycles after the trigger. The model's choices: logs 13, 14, 33. -/
def Obligations.VaFloatFunctions : Prop :=
  (∀ (s : State) (g : Trig) (f : BitVec 2), g.ord = 0 → g.scope = 0 →
    let t := ([fp64, fp32, bf16, fp16] : List Fmt).getD f.toNat fp64
    let w := ([64, 32, 16, 16] : List Nat).getD f.toNat 64
    let code (op : Nat) := BitVec.ofNat 8 (0x20 + 4 * op + f.toNat)
    let m := Rm.ofCode (s.me.csr.vfcsr.extractLsb' 5 3)
    let pay := s.me.csr.compat.getLsbD 2
    let u := unpack t
    let lanewise (op : Nat → Nat → Nat → Nat × FFlags) (r : Wide) (fl : BitVec 5) :=
      vaResult s g w (fun x y z => (op x y z).1) r ∧ vaFlags s g w (fun x y z => (op x y z).2) fl
    (armed s g .va [0x10, 0x11] [] →
      triggers (.vaFadd g f) s g .va (code 0) 4 (lanewise fun x y _ => fAdd t m pay (u x) (u y)) ∧
      triggers (.vaFsub g f) s g .va (code 1) 4 (lanewise fun x y _ => fSub t m pay (u x) (u y)) ∧
      triggers (.vaFmul g f) s g .va (code 2) 4 (lanewise fun x y _ => fMul t m pay (u x) (u y)) ∧
      triggers (.vaFmin g f) s g .va (code 5) 4 (lanewise fun x y _ => fMinMax t pay false x y) ∧
      triggers (.vaFmax g f) s g .va (code 6) 4 (lanewise fun x y _ => fMinMax t pay true x y) ∧
      triggers (.vaSgnj g f) s g .va (code 7) 4 (lanewise fun x y _ => fSgnj t x y)) ∧
    (armed s g .va [0x10, 0x11, 0x12] [] →
      triggers (.vaFma g f) s g .va (code 3) 5 (lanewise fun x y z => fFma t m pay (u x) (u y) (u z)) ∧
      triggers (.vaFnma g f) s g .va (code 4) 5 (lanewise fun x y z => fFnma t m pay (u x) (u y) (u z)))) ∧
  (∀ (s : State) (g : Trig), armed s g .va [0x10] [] → g.ord = 0 → g.scope = 0 →
    let m := Rm.ofCode (s.me.csr.vfcsr.extractLsb' 5 3)
    let pay := s.me.csr.compat.getLsbD 2
    let lanewise (op : Rm → Bool → Val → Nat × FFlags) (r : Wide) (fl : BitVec 5) :=
      vaResult s g 32 (fun x _ _ => (op m pay (unpack fp32 x)).1) r ∧
      vaFlags s g 32 (fun x _ _ => (op m pay (unpack fp32 x)).2) fl
    triggers (.vaExp2S g) s g .va 0x50 10 (lanewise fExp2) ∧
    triggers (.vaLog2S g) s g .va 0x51 10 (lanewise fLog2) ∧
    triggers (.vaRcpS g) s g .va 0x52 10 (lanewise fRcp) ∧
    triggers (.vaRsqrtS g) s g .va 0x53 10 (lanewise fRsqrt))

/-- R213: the logic functions work on all 512 bits whatever the mask; a select takes each lane by the mask, and returns va.x
where va.m is not full; the compares write one bit for each lane, 1 where the lane is enabled and the relation holds, and 0 to
every other bit. Only compares of floating lanes raise flags, those of their enabled lanes: a
NaN operand gives 0, and raises NV in `fclt` and `fcle`, and in `fceq` where it is signalling; other values compare as the numbers
that they are, with −0 equal to +0. A required latch that is empty, va.x or va.y, takes code 0x08 with its port. -/
def Obligations.VaLogicSelectAndCompares : Prop :=
  (∀ (s : State) (g : Trig), armed s g .va [0x10, 0x11] [] → g.ord = 0 → g.scope = 0 →
    let x := triggerValue s g .va
    let y := operandLatch s 0x11
    let chosen (w : Nat) (r : Wide) := ∀ l, l < 512 / w → lane w r l = if vaEnabled s l then lane w x l else lane w y l
    let ints (w : Nat) (op : Nat → Nat → Bool) (r : Wide) (fl : BitVec 5) := vaRelation s g w op r ∧ fl = 0
    let floats (w : Nat) (t : Fmt) (c : FCmp) (r : Wide) (fl : BitVec 5) :=
      vaRelation s g w (fun x y => (fCompare c (unpack t x) (unpack t y)).1) r ∧
      vaFlags s g w (fun x y _ => (fCompare c (unpack t x) (unpack t y)).2) fl
    triggers (.vaAnd g) s g .va 0x40 2 (fun r fl => r = x &&& y ∧ fl = 0) ∧
    triggers (.vaOr g) s g .va 0x41 2 (fun r fl => r = x ||| y ∧ fl = 0) ∧
    triggers (.vaXor g) s g .va 0x42 2 (fun r fl => r = x ^^^ y ∧ fl = 0) ∧
    triggers (.vaSelW g) s g .va 0x43 2 (fun r fl => chosen 32 r ∧ fl = 0) ∧
    triggers (.vaSelD g) s g .va 0x44 2 (fun r fl => chosen 64 r ∧ fl = 0) ∧
    triggers (.vaCeqW g) s g .va 0x45 2 (ints 32 fun x y => decide (x = y)) ∧
    triggers (.vaCltW g) s g .va 0x46 2 (ints 32 fun x y => decide (signedLane 32 x < signedLane 32 y)) ∧
    triggers (.vaCltuW g) s g .va 0x47 2 (ints 32 fun x y => decide (x < y)) ∧
    triggers (.vaCeqD g) s g .va 0x48 2 (ints 64 fun x y => decide (x = y)) ∧
    triggers (.vaCltD g) s g .va 0x49 2 (ints 64 fun x y => decide (signedLane 64 x < signedLane 64 y)) ∧
    triggers (.vaFceqS g) s g .va 0x4A 2 (floats 32 fp32 .eq) ∧
    triggers (.vaFcltS g) s g .va 0x4B 2 (floats 32 fp32 .lt) ∧
    triggers (.vaFcleS g) s g .va 0x4C 2 (floats 32 fp32 .le) ∧
    triggers (.vaFceqD g) s g .va 0x4D 2 (floats 64 fp64 .eq) ∧
    triggers (.vaFcltD g) s g .va 0x4E 2 (floats 64 fp64 .lt) ∧
    triggers (.vaFcleD g) s g .va 0x4F 2 (floats 64 fp64 .le)) ∧
  (∀ (c : FCmp) (a b : Val), a.isNan ∨ b.isNan → fCompare c a b = (false, match c with
    | .eq => if a.isSignalling ∨ b.isSignalling then 0x10 else 0
    | _ => 0x10)) ∧
  (∀ (c : FCmp),
    let holds (x y : Int) : Bool := match c with
      | .eq => decide (x = y)
      | .lt => decide (x < y)
      | .le => decide (x ≤ y)
    let side (n : Bool) : Int := if n then -1 else 1
    ∀ (n k : Bool) (m j : Nat) (e d : Int),
      fCompare c (.fin n m e) (.fin k j d) =
        (holds (side n * m * 2 ^ (e - min e d).toNat) (side k * j * 2 ^ (d - min e d).toNat), 0) ∧
      fCompare c (.inf n) (.inf k) = (holds (side n) (side k), 0) ∧
      fCompare c (.inf n) (.fin k j d) = (holds (side n) 0, 0) ∧
      fCompare c (.fin n m e) (.inf k) = (holds 0 (side k), 0)) ∧
  (∀ (s : State) (g : Trig) (p : BitVec 6), lacks s g .va 0x10 0x11 p → g.ord = 0 → g.scope = 0 →
    ∀ i ∈ [Instr.vaAnd g, .vaOr g, .vaXor g, .vaSelW g, .vaSelD g, .vaCeqW g, .vaCltW g, .vaCltuW g, .vaCeqD g, .vaCltD g,
      .vaFceqS g, .vaFcltS g, .vaFcleS g, .vaFceqD g, .vaFcltD g, .vaFcleD g],
      exec i s = .next (s.trapCode 0x08 (p.zeroExtend 8)))


/-! ### The unit VS (R215 to R217) -/

/-- R215, R216: the permutes, the broadcast, the zips, the rotate, the compress and the expand, lane by lane; none raises a
flag. A required latch that is empty, vs.x or vs.y, takes code 0x08 with its port, and performs nothing. -/
def Obligations.VsShuffles : Prop :=
  (∀ (s : State) (g : Trig) (c : BitVec 2), armed s g .vs [0x15, 0x16] [] → g.ord = 0 → g.scope = 0 →
    let w := 8 * 2 ^ c.toNat
    let n := 512 / w
    let x := triggerValue s g .vs
    let y := operandLatch s 0x16
    let code (base : Nat) := BitVec.ofNat 8 (base + c.toNat)
    let lanewise (f : Nat → Nat) (r : Wide) (fl : BitVec 5) := (∀ i, i < n → lane w r i = f i) ∧ fl = 0
    let selected := (List.range n).filter fun i => y.getLsbD i
    triggers (.vsPerm g c) s g .vs (code 0) 2 (lanewise fun i => lane w x (lane w y i % n)) ∧
    triggers (.vsBcast g c) s g .vs (code 4) 2 (lanewise fun _ => lane w x ((y.extractLsb' 0 6).toNat % n)) ∧
    triggers (.vsRotb g) s g .vs 0x0E 2 (fun r fl =>
      (∀ i, i < 64 → lane 8 r i = lane 8 x ((i + (y.extractLsb' 0 6).toNat) % 64)) ∧ fl = 0) ∧
    triggers (.vsCompress g c) s g .vs (code 0x10) 3 (lanewise fun j => match selected[j]? with
      | some i => lane w x i
      | none => 0) ∧
    triggers (.vsExpand g c) s g .vs (code 0x14) 3 (lanewise fun i => if y.getLsbD i then
      lane w x (((List.range i).filter fun k => y.getLsbD k).length) else 0) ∧
    (c ≠ 3 →
      let w2 := 2 * w
      let n2 := 512 / w2
      let zip (o : Nat) (r : Wide) (fl : BitVec 5) := (∀ i, i < n2 / 2 →
        lane w2 r (2 * i) = lane w2 x (i + o) ∧ lane w2 r (2 * i + 1) = lane w2 y (i + o)) ∧ fl = 0
      triggers (.vsZiplo g c) s g .vs (BitVec.ofNat 8 (8 + 2 * c.toNat)) 2 (zip 0) ∧
      triggers (.vsZiphi g c) s g .vs (BitVec.ofNat 8 (9 + 2 * c.toNat)) 2 (zip (n2 / 2)))) ∧
  (∀ (s : State) (g : Trig) (c : BitVec 2) (p : BitVec 6), lacks s g .vs 0x15 0x16 p → g.ord = 0 → g.scope = 0 →
    ∀ i ∈ [Instr.vsPerm g c, .vsBcast g c, .vsRotb g, .vsCompress g c, .vsExpand g c, .vsZiplo g c, .vsZiphi g c],
      exec i s = .next (s.trapCode 0x08 (p.zeroExtend 8)))

/-- R111, R217: a floating reduction gives, in lane 0 and 0 elsewhere, the root of the pairwise tree of its present lanes, or
the identity where none is present; its flags are those of every combination, and NV where a present lane is a signalling NaN. A
NaN comes out as R95 has it. R111, R217: an integer sum is that of the present lanes modulo the lane's size; a maximum and a
minimum are a present lane that no present lane exceeds or undercuts, or the identity where no lane is present; every other bit
of vs.r is 0. The model's choices: logs 24, 34. -/
def Obligations.VsReductions : Prop :=
  (∀ (s : State) (g : Trig), armed s g .vs [0x15] [0x16] → g.ord = 0 → g.scope = 0 →
    let x := triggerValue s g .vs
    let m := Rm.ofCode (s.me.csr.vfcsr.extractLsb' 5 3)
    let pay := s.me.csr.compat.getLsbD 2
    let sum (t : Fmt) (a b : Nat) := fAdd t m pay (unpack t a) (unpack t b)
    let max (t : Fmt) (a b : Nat) := fMinMax t pay true a b
    let min (t : Fmt) (a b : Nat) := fMinMax t pay false a b
    let reduces (t : Fmt) (k w : Nat) (widen : Nat → Nat) (op : Nat → Nat → Nat × FFlags) (identity : Nat) (r : Wide)
        (fl : BitVec 5) :=
      let v := vsLane s fun i => widen (lane w x i)
      let o (a b : Nat) := (op a b).1
      r = BitVec.ofNat 512 (match treeValue o v k 0 with
        | none => identity
        | some a => if (unpack t a).isNan then nanCode t pay [unpack t a] else a) ∧
      fl = (treeFlags o (fun a b => (op a b).2) v k 0) |||
        snanFlag (((List.range (2 ^ k)).filterMap v).map (unpack t))
    triggers (.vsRsumD g) s g .vs 0x18 6 (reduces fp64 3 64 id (sum fp64) 0) ∧
    triggers (.vsRmaxD g) s g .vs 0x19 6 (reduces fp64 3 64 id (max fp64) (infCode fp64 true)) ∧
    triggers (.vsRminD g) s g .vs 0x1A 6 (reduces fp64 3 64 id (min fp64) (infCode fp64 false)) ∧
    triggers (.vsRsumS g) s g .vs 0x1B 6 (reduces fp32 4 32 id (sum fp32) 0) ∧
    triggers (.vsRmaxS g) s g .vs 0x1C 6 (reduces fp32 4 32 id (max fp32) (infCode fp32 true)) ∧
    triggers (.vsRminS g) s g .vs 0x1D 6 (reduces fp32 4 32 id (min fp32) (infCode fp32 false)) ∧
    triggers (.vsRsumBf g) s g .vs 0x1E 6 (reduces fp32 5 16 (widenCode bf16) (sum fp32) 0) ∧
    triggers (.vsRmaxBf g) s g .vs 0x1F 6 (reduces fp32 5 16 (widenCode bf16) (max fp32) (infCode fp32 true)) ∧
    triggers (.vsRminBf g) s g .vs 0x20 6 (reduces fp32 5 16 (widenCode bf16) (min fp32) (infCode fp32 false)) ∧
    triggers (.vsRsumHf g) s g .vs 0x21 6 (reduces fp32 5 16 (widenCode fp16) (sum fp32) 0) ∧
    triggers (.vsRmaxHf g) s g .vs 0x22 6 (reduces fp32 5 16 (widenCode fp16) (max fp32) (infCode fp32 true)) ∧
    triggers (.vsRminHf g) s g .vs 0x23 6 (reduces fp32 5 16 (widenCode fp16) (min fp32) (infCode fp32 false))) ∧
  (∀ (s : State) (g : Trig), armed s g .vs [0x15] [0x16] → g.ord = 0 → g.scope = 0 →
    let x := triggerValue s g .vs
    let present (w : Nat) := (List.range (512 / w)).filterMap (vsLane s fun i => lane w x i)
    let sums (w : Nat) (r : Wide) (fl : BitVec 5) := r.toNat = (present w).sum % 2 ^ w ∧ fl = 0
    let best (w : Nat) (le : Nat → Nat → Prop) (identity : Nat) (r : Wide) (fl : BitVec 5) :=
      fl = 0 ∧ if present w = [] then r.toNat = identity else r.toNat ∈ present w ∧ ∀ a ∈ present w, le a r.toNat
    let sle (w a b : Nat) := signedLane w a ≤ signedLane w b
    triggers (.vsIrsumW g) s g .vs 0x24 4 (sums 32) ∧
    triggers (.vsIrsumD g) s g .vs 0x25 4 (sums 64) ∧
    triggers (.vsIrmaxW g) s g .vs 0x26 4 (best 32 (sle 32) (2 ^ 31)) ∧
    triggers (.vsIrminW g) s g .vs 0x27 4 (best 32 (fun a b => sle 32 b a) (2 ^ 31 - 1)) ∧
    triggers (.vsIrmaxuW g) s g .vs 0x28 4 (best 32 (fun a b => a ≤ b) 0) ∧
    triggers (.vsIrminuW g) s g .vs 0x29 4 (best 32 (fun a b => b ≤ a) (2 ^ 32 - 1)) ∧
    triggers (.vsIrmaxD g) s g .vs 0x2A 4 (best 64 (sle 64) (2 ^ 63)) ∧
    triggers (.vsIrminD g) s g .vs 0x2B 4 (best 64 (fun a b => sle 64 b a) (2 ^ 63 - 1)) ∧
    triggers (.vsIrmaxuD g) s g .vs 0x2C 4 (best 64 (fun a b => a ≤ b) 0) ∧
    triggers (.vsIrminuD g) s g .vs 0x2D 4 (best 64 (fun a b => b ≤ a) (2 ^ 64 - 1)))


/-! ### The unit CV (R97, R218 to R221) -/

/-- R218 to R220: the rounded conversions, in the mode that c names, and the narrowing of INT32 to INT8, give one result for each
of the m source lanes from lane 0 on, packed from bit 0, and 0 above them; E4M3, which has no infinity, saturates. -/
def Obligations.CvRoundedConversions : Prop :=
  ∀ (s : State) (g : Trig) (c : BitVec 2), c ≠ 3 → armed s g .cv [0x18] [] → g.ord = 0 → g.scope = 0 →
    let x := triggerValue s g .cv
    let pay := s.me.csr.compat.getLsbD 2
    let mode := if c = 0 then (if s.me.csr.compat.getLsbD 0 then Rm.rmm else Rm.rne) else if c = 1 then Rm.rtz
      else Rm.ofCode (s.me.csr.vfcsr.extractLsb' 5 3)
    let code (pair : Nat) := BitVec.ofNat 8 (16 * c.toNat + pair)
    let converts (src dst m : Nat) (f : Nat → Nat × FFlags) (r : Wide) (fl : BitVec 5) :=
      (∀ i, i < 512 / dst → lane dst r i = if i < m then (f (lane src x i)).1 % 2 ^ dst else 0) ∧
      fl = (List.range m).foldl (fun a i => a ||| (f (lane src x i)).2) 0
    triggers (.cvBf16F32 g c) s g .cv (code 0) 3 (converts 32 16 16 fun a => convert bf16 mode pay (unpack fp32 a)) ∧
    triggers (.cvF16F32 g c) s g .cv (code 1) 3 (converts 32 16 16 fun a => convert fp16 mode pay (unpack fp32 a)) ∧
    triggers (.cvF32F64 g c) s g .cv (code 2) 3 (converts 64 32 8 fun a => convert fp32 mode pay (unpack fp64 a)) ∧
    triggers (.cvI32F32 g c) s g .cv (code 3) 3 (converts 32 32 16 fun a => toInteger 32 mode (unpack fp32 a)) ∧
    triggers (.cvI64F64 g c) s g .cv (code 4) 3 (converts 64 64 8 fun a => toInteger 64 mode (unpack fp64 a)) ∧
    triggers (.cvF32I32 g c) s g .cv (code 5) 3 (converts 32 32 16 fun a => ofInteger fp32 mode (signedLane 32 a)) ∧
    triggers (.cvF64I64 g c) s g .cv (code 6) 3 (converts 64 64 8 fun a => ofInteger fp64 mode (signedLane 64 a)) ∧
    triggers (.cvE4m3F32 g c) s g .cv (code 7) 3 (converts 32 8 16 fun a => narrowE4m3 mode (unpack fp32 a)) ∧
    triggers (.cvE5m2F32 g c) s g .cv (code 8) 3 (converts 32 8 16 fun a => convert e5m2 mode pay (unpack fp32 a)) ∧
    triggers (.cvI8I32 g) s g .cv 0x09 3 (converts 32 8 16 fun a =>
      ((max (-128) (min 127 (signedLane 32 a)) % 256).toNat, 0))

/-- R218 to R220: the exact widenings read part c of cv.x, the source lanes c × m to c × m + m - 1, each to a value of the wider
format; NV alone is raised, on a signalling NaN. -/
def Obligations.CvWidenings : Prop :=
  ∀ (s : State) (g : Trig) (c : BitVec 2) (b : BitVec 1), armed s g .cv [0x18] [] → g.ord = 0 → g.scope = 0 →
    let x := triggerValue s g .cv
    let pay := s.me.csr.compat.getLsbD 2
    let widens (part src dst m : Nat) (f : Nat → Nat × FFlags) (r : Wide) (fl : BitVec 5) :=
      (∀ i, i < m → lane dst r i = (f (lane src x (part * m + i))).1 % 2 ^ dst) ∧
      fl = (List.range m).foldl (fun a i => a ||| (f (lane src x (part * m + i))).2) 0
    triggers (.cvF32Bf16 g b) s g .cv (BitVec.ofNat 8 (16 * b.toNat + 10)) 3
      (widens b.toNat 16 32 16 fun a => convert fp32 .rne pay (unpack bf16 a)) ∧
    triggers (.cvF32F16 g b) s g .cv (BitVec.ofNat 8 (16 * b.toNat + 11)) 3
      (widens b.toNat 16 32 16 fun a => convert fp32 .rne pay (unpack fp16 a)) ∧
    triggers (.cvF64F32 g b) s g .cv (BitVec.ofNat 8 (16 * b.toNat + 12)) 3
      (widens b.toNat 32 64 8 fun a => convert fp64 .rne pay (unpack fp32 a)) ∧
    triggers (.cvF32E4m3 g c) s g .cv (BitVec.ofNat 8 (16 * c.toNat + 13)) 3
      (widens c.toNat 8 32 16 fun a => convert fp32 .rne pay (unpack e4m3 a)) ∧
    triggers (.cvF32E5m2 g c) s g .cv (BitVec.ofNat 8 (16 * c.toNat + 14)) 3
      (widens c.toNat 8 32 16 fun a => convert fp32 .rne pay (unpack e5m2 a)) ∧
    triggers (.cvI32I8 g c) s g .cv (BitVec.ofNat 8 (16 * c.toNat + 15)) 3
      (widens c.toNat 8 32 16 fun a => ((signedLane 8 a % 2 ^ 32).toNat, 0))

/-- R221: an encode of the 32 BF16 values of cv.x gives the bytes of the window encode of the hart's window context, at their
places in the block or in the half of the unit, raises no flag, and counts the events of the encode at the core.
The model's choices: logs 30, 36. -/
def Obligations.CvEncodes : Prop :=
  ∀ (s : State) (g : Trig), armed s g .cv [0x18] [] → g.ord = 0 → g.scope = 0 →
    let x := triggerValue s g .cv
    let v := (List.range 32).map fun i => unpack bf16 (lane 16 x i)
    let context := WinCtx.of s.me.csr.bandsc s.me.csr.compat
    let encodes (b : List Byte) (r : Wide) (fl : BitVec 5) := r = BitVec.ofNat 512 (leNat b) ∧ fl = 0
    let unit := (encodeUnit context v).1
    let lo := unit.take 16 ++ List.replicate 16 0#8 ++ unit.drop 16
    let hi := List.replicate 16 0#8 ++ unit.take 16 ++ List.replicate 4 0#8 ++ unit.drop 16
    let counted (i : Instr) (e : Events) := ∀ t, exec i s = .next t → t.myCore.numevt = countEvents s.myCore.numevt e
    (triggers (.cvMxencE4m3 g) s g .cv 0x40 6 (encodes (encodeBlock e4m3 context v).1) ∧
      counted (.cvMxencE4m3 g) (encodeBlock e4m3 context v).2) ∧
    (triggers (.cvMxencE5m2 g) s g .cv 0x41 6 (encodes (encodeBlock e5m2 context v).1) ∧
      counted (.cvMxencE5m2 g) (encodeBlock e5m2 context v).2) ∧
    (triggers (.cvF4encLo g) s g .cv 0x42 6 (encodes lo) ∧ counted (.cvF4encLo g) (encodeUnit context v).2) ∧
    (triggers (.cvF4encHi g) s g .cv 0x43 6 (encodes hi) ∧ counted (.cvF4encHi g) (encodeUnit context v).2)

/-! ### The unit LS and the results of fixed latency (R119, R208, R222, R223) -/

/-- R222, R223: a load or a store of LS whose operand keeps the limits of R222 takes its slot; its access, of the stored span
of its window, performs 4 die cycles later, or 6 for W3, W4 and W5. A store takes its bytes from ls.d at the trigger: the window's
encoding of it, or for `stm` the bytes that the mask selects. The model's choices: logs 8, 35. -/
def Obligations.LsTriggers : Prop :=
  ∀ (s : State) (g : Trig) (off win : Nat), g.ord = 0 → g.scope = 0 →
    let v := triggerValue s g .ls
    let due := s.coreCycle s.cur.core + (if 3 ≤ win ∧ win ≤ 5 then 6 else 4)
    let starts (i : Instr) (fn : BitVec 8) (a : LsAccess) :=
      ∃ t, exec i s = .next t ∧ triggerSlot s t g .ls fn ⟨.ls, s.me.seq, fn, due, 0, 0, a, true⟩
    let loads (i : Instr) (fn : BitVec 8) := s.lsPlace fn v = some (off, win) →
      starts i fn (.load fn win off (if fn = 3 then (v.extractLsb' 64 7).toNat else lsSpan win) s.me.csr.bandsc s.me.csr.compat)
    let b := (windowWrite (WinCtx.of s.me.csr.bandsc s.me.csr.compat) win (if win = 3 ∨ win = 4 then bf16 else fp32)
      (leBytes (operandLatch s 0x1C).toNat 64)).1
    let cells := b.zipIdx.map fun (x, i) => (spadKey s.cur.core (off + i), x)
    (armed s g .ls [0x1B] [] →
      loads (.lsLd g) 0 ∧ loads (.lsLdlo g) 1 ∧ loads (.lsLdhi g) 2 ∧ loads (.lsLdn g) 3) ∧
    (armed s g .ls [0x1B, 0x1C] [] →
      (s.lsPlace 8 v = some (off, win) → starts (.lsSt g) 8 (.store cells)) ∧
      (s.lsPlace 9 v = some (off, win) → starts (.lsStm g) 9
        (.store (((List.range 64).filter fun i => v.getLsbD (64 + i)).filterMap fun i => cells[i]?))))

/-- R202, R206, R208, R209, R223: when the die cycle of its result has come, and the slot of that die cycle has issued, a hart's
one trigger of a unit of fixed latency leaves flight, its ring entry shows DONE where the ring still holds it, its flags join xvfcsr, and its result latch fills: with the computed result, with what the
window delivers of the bytes loaded, or with 0 once the bytes of a store are written. The model's choices: log 8. -/
def Obligations.FixedLatencyResults : Prop :=
  ∀ (s : State) (h : HartRef) (u : EngineUnit) (f : Flight),
    u = .va ∨ u = .vs ∨ u = .cv ∨ u = .ls →
    s.arg = .unit h u → (s.hart h).flights.filter (fun x => x.unit == u) = [f] → f.due ≤ s.coreCycle h.core →
    s.slotPending h.core = false →
    let v := s.hart h
    let filled (t : State) (r : Wide) :=
      (t.hart h).flights = v.flights.filter (fun x => !(x.unit == u && x.seq == f.seq)) ∧
      (t.hart h).csr.vfcsr = v.csr.vfcsr ||| f.flags.zeroExtend 64 ∧
      (t.hart h).ring = (if (v.seq - 1 - f.seq).toNat < 32 then
          v.ring.set (f.seq.toNat % 32) (ringWord u f.fn true false) (Nat.mod_lt _ (by decide)) else v.ring) ∧
      (∀ p, (t.hart h).latch p = if f.latest ∧ p = resultPort u then ⟨.full, r⟩ else v.latch p) ∧
      (t.hart h).pc = v.pc ∧ (t.hart h).x = v.x ∧ (t.hart h).xFull = v.xFull
    (f.access = .none → ∃ t, exec .unitResultFill s = .next t ∧ filled t f.result ∧ t.mem = s.mem) ∧
    (∀ cells, f.access = .store cells →
      ∃ t, exec .unitResultFill s = .next t ∧ filled t 0 ∧ t.mem = Memory.writeKeys s.mem cells) ∧
    (∀ fn win off n bandsc compat, f.access = .load fn win off n bandsc compat →
      let keys := (List.range n).map fun i => spadKey h.core (off + i)
      s.anyPoisoned keys = false →
      let (d, ev) := windowRead (WinCtx.of bandsc compat) win (keys.map (Memory.read s.mem))
      let part := if fn = 1 then d.take 64 else if fn = 2 then d.drop 64 else d
      ∃ t, exec .unitResultFill s = .next t ∧ filled t (BitVec.ofNat 512 (leNat part)) ∧ t.mem = s.mem ∧
        (t.core h.core).numevt = countEvents (s.core h.core).numevt ev)

/-! ### The queues of MX, WB, CE and NI (R127, R206, R232) -/

/-- R206, R232, R235, R245, R250: a trigger of MX, WB or CE whose operands keep their limits, and for MX whose tile is READY,
enters its unit's queue with its snapshot, as `queues` says. R206, R257 to R263: a trigger of NI whose operands keep their
limits enters the queue with its snapshot; its function code is 4 × operation + TAG; it needs ni.d where it carries data and
ni.f where it is tagged. `ni.win` needs a mode above U, and in U mode takes a trap of code 0x03.
The model's choices: log 51. -/
def Obligations.EngineTriggersQueue : Prop :=
  (∀ (s : State) (g : Trig),
    let mx (i : Instr) (fn : BitVec 8) :=
      (s.myCore.tile (mxTile ((triggerValue s g .mx).extractLsb' 0 128))).st = .ready →
      s.mxCheck fn (some (triggerValue s g .mx)) = none →
      queues i s g .mx fn fun c q => { c with mxq := c.mxq ++ [q] }
    let wb (i : Instr) (fn : BitVec 8) := wbCheck fn (some (triggerValue s g .wb)) = none →
      queues i s g .wb fn fun c q => { c with wbq := c.wbq ++ [q] }
    let ce (i : Instr) (fn : BitVec 8) := ceCheck fn (some (triggerValue s g .ce)) = none →
      queues i s g .ce fn fun c q => { c with ceq := c.ceq ++ [q] }
    (armed s g .mx [0x1E, 0x1F] [0x20] →
      mx (.mxMm g) 0x00 ∧ mx (.mxMmw g) 0x01 ∧ mx (.mxMmd g) 0x02 ∧ mx (.mxMmn g) 0x03 ∧ mx (.mxZero g) 0x08 ∧
      mx (.mxSt g) 0x09 ∧ mx (.mxLd g) 0x0A) ∧
    (armed s g .wb [0x22] [] → wb (.wbLd g) 0x00 ∧ wb (.wbLdc g) 0x01 ∧ wb (.wbClr g) 0x02) ∧
    (armed s g .ce [0x24] [] → ce (.ceRun g) 0x00 ∧ ce (.ceRunv g) 0x01)) ∧
  (∀ (s : State) (g : Trig) (t : BitVec 2), t ≠ 3 →
    let ni (i : Instr) (op : Nat) (tag : BitVec 2) (data : Bool) :=
      armed s g .ni ([0x26] ++ (if data then [0x28] else []) ++ (if tag = 0 then [] else [0x27])) [] →
      s.niCheck (BitVec.ofNat 8 (4 * op + tag.toNat)) (some (triggerValue s g .ni)) = none →
      queues i s g .ni (BitVec.ofNat 8 (4 * op + tag.toNat)) fun c q => { c with niq := c.niq ++ [q] }
    ni (.niSt g t) 0 t true ∧ ni (.niTst g t) 1 t false ∧ ni (.niVaddI32 g t) 2 t true ∧ ni (.niVaddI64 g t) 3 t true ∧
    ni (.niVaddF32 g t) 4 t true ∧ ni (.niVaddF64 g t) 5 t true ∧ ni (.niVaddBf16 g t) 6 t true ∧
    ni (.niTaddI32 g t) 7 t false ∧ ni (.niTaddF32 g t) 8 t false ∧ ni (.niTaddF64 g t) 9 t false ∧
    ni (.niGet g t) 10 t false ∧ ni (.niMsg g) 11 0 true ∧ (s.me.mode ≠ .user → ni (.niWin g) 12 0 false) ∧
    ni (.niCap g) 13 0 false ∧
    (s.me.mode = .user → exec (.niWin g) s = .next (s.trapCode 0x03 0)))


/-! ### Moves (R203 to R205) -/

/-- R204: `mov2` reads both sources, the second popping after the first, and then writes both destinations in order; `mov` is
`mov2` with port 0x2C for the other pair. A write to 0x2C is dropped, and one to qn.dn joins the queue of the core downstream.
R201, R205: `mvpx` fills a register with a lane of a port, sign-extended; `mvxp` writes one lane, keeping the others of a full
latch and clearing those of another; `mvbx` and `mvip` write every lane. A lane above a latch's width reads as 0 and is not
written, and port 0x2C drops every write. Nothing else changes. The model's choices: log 23. -/
def Obligations.MovesBetweenPortsAndRegisters : Prop :=
  (∀ (s : State) (sa da sb db : BitVec 6), movable s [sa, sb] [da, db] →
    let va := sourceValue s sa 0
    let vb := sourceValue s sb (if sa = 0x2A then 1 else 0)
    let pushed := ([(da, va), (db, vb)].filter (·.1 = 0x2B)).map fun x => (x.2, s.coreCycle s.cur.core)
    let moves (i : Instr) := ∃ t, exec i s = .next t ∧
      (∀ p, t.me.latch p = latchWritten (s.me.latch p) p [(da, va), (db, vb)]) ∧
      t.me = { s.me.next with ports := t.me.ports } ∧
      t.myCore = { s.myCore with
        harts := s.myCore.harts.set s.cur.hart t.me, qn := s.myCore.qn.drop ([sa, sb].count 0x2A) } ∧
      (∀ c, c ≠ s.cur.core → t.core c = { s.core c with
        qn := if s.downstream s.cur.core = some c then (s.core c).qn ++ pushed else (s.core c).qn }) ∧
      t.mem = s.mem ∧ t.reqs = s.reqs
    moves (.mov2 sb db sa da) ∧ (sb = 0x2C → db = 0x2C → moves (.mov sa da))) ∧
  (∀ (s : State) (p : BitVec 6) (d : BitVec 3) (w : BitVec 4) (a : Reg) (imm : BitVec 5),
    let value (x : Wide) : BitVec 6 → Latch := fun q =>
      if q = p ∧ p ≠ 0x2C ∧ p ≠ 0x2B then ⟨.full, lowBits x (portWidth p)⟩ else s.me.latch q
    let old : Wide := match (s.me.latch p).st with
      | .full => (s.me.latch p).val
      | _ => 0
    let laneOf (bits l x : Nat) : BitVec 6 → Latch := fun q =>
      if q = p ∧ p ≠ 0x2C then ⟨.full, if bits * l < portWidth p then setLane bits old l x else old⟩ else s.me.latch q
    let x := s.me.readX a
    (p ≠ 0x2A → movable s [p] [] →
      exec (.mvpxD p d a) s = .next (s.setMe (s.me.next.fill a (BitVec.ofNat 64 (lane 64 (sourceValue s p 0) d.toNat)))) ∧
      exec (.mvpxW p w a) s = .next (s.setMe (s.me.next.fill a
        ((BitVec.ofNat 32 (lane 32 (sourceValue s p 0) w.toNat)).signExtend 64)))) ∧
    (s.me.isFull a = true →
      changesPorts (.mvxpD p d a) s (laneOf 64 d.toNat x.toNat) ∧
      changesPorts (.mvxpW p w a) s (laneOf 32 w.toNat x.toNat) ∧
      changesPorts (.mvbxD p a) s (value (BitVec.ofNat 512 (x.toNat * ((2 ^ 512 - 1) / (2 ^ 64 - 1))))) ∧
      changesPorts (.mvbxW p a) s (value (BitVec.ofNat 512 (x.toNat % 2 ^ 32 * ((2 ^ 512 - 1) / (2 ^ 32 - 1)))))) ∧
    changesPorts (.mvip p imm) s
      (value (BitVec.ofNat 512 ((imm.signExtend 32).toNat * ((2 ^ 512 - 1) / (2 ^ 32 - 1))))))


/-! ### Scalar computation (R30, R159, R361) -/

/-- R159: computation on registers that are full: the destination takes the result that RISC-V gives, and the PC moves on;
nothing else changes. R159, R361, R417: a jump links pc + 4 and goes to its target, and a branch that is taken goes there
without a link; a target that is not a multiple of 4 traps with cause 0 and the target, and fills nothing; a branch not taken
only moves on. -/
def Obligations.IntegerInstructions : Prop :=
  (∀ (s : State) (rd a b : Reg) (imm : BitVec 12) (sh : BitVec 6) (shw : BitVec 5) (up : BitVec 20) (o : AluOp) (ow : AluWOp),
    let x := s.me.readX a
    let y := s.me.readX b
    let z : Word := imm.signExtend 64
    let word (v : Int) : Word := (BitVec.ofInt 32 v).signExtend 64
    fillsRegister (.integerOp (.lui rd up)) s rd ((up ++ 0#12).signExtend 64) ∧
    fillsRegister (.integerOp (.auipc rd up)) s rd (s.me.pc + (up ++ 0#12).signExtend 64) ∧
    (s.me.isFull a = true →
      fillsRegister (.integerOp (.opImm .addi rd a imm)) s rd (x + z) ∧
      fillsRegister (.integerOp (.opImm .slti rd a imm)) s rd (if x.toInt < imm.toInt then 1 else 0) ∧
      fillsRegister (.integerOp (.opImm .sltiu rd a imm)) s rd (if x.toNat < z.toNat then 1 else 0) ∧
      fillsRegister (.integerOp (.opImm .xori rd a imm)) s rd (x ^^^ z) ∧
      fillsRegister (.integerOp (.opImm .ori rd a imm)) s rd (x ||| z) ∧
      fillsRegister (.integerOp (.opImm .andi rd a imm)) s rd (x &&& z) ∧
      fillsRegister (.integerOp (.shiftImm .sll rd a sh)) s rd (x <<< sh.toNat) ∧
      fillsRegister (.integerOp (.shiftImm .srl rd a sh)) s rd (x >>> sh.toNat) ∧
      fillsRegister (.integerOp (.shiftImm .sra rd a sh)) s rd (BitVec.ofInt 64 (x.toInt / 2 ^ sh.toNat)) ∧
      fillsRegister (.integerOp (.addiw rd a imm)) s rd (word (x.toInt + imm.toInt)) ∧
      fillsRegister (.integerOp (.shiftImmW .sll rd a shw)) s rd (word (x.toNat * 2 ^ shw.toNat)) ∧
      fillsRegister (.integerOp (.shiftImmW .srl rd a shw)) s rd (word ((x.setWidth 32).toNat / 2 ^ shw.toNat)) ∧
      fillsRegister (.integerOp (.shiftImmW .sra rd a shw)) s rd (word ((x.setWidth 32).toInt / 2 ^ shw.toNat))) ∧
    (s.me.isFull a = true → s.me.isFull b = true →
      fillsRegister (.integerOp (.op o rd a b)) s rd (BitVec.ofInt 64 (aluInt o x y)) ∧
      fillsRegister (.integerOp (.opW ow rd a b)) s rd (word (aluIntW ow (x.setWidth 32) (y.setWidth 32))))) ∧
  (∀ (s : State) (rd a b : Reg) (j : BitVec 20) (imm off : BitVec 12) (c : BranchCond),
    let x := s.me.readX a
    let y := s.me.readX b
    let jumps (i : Instr) (h : Hart) (target : Word) :=
      if target.extractLsb' 0 2 = 0 then exec i s = .next (s.setMe { h.next with pc := target })
      else exec i s = .next (s.trap 0 target)
    jumps (.integerOp (.jal rd j)) (s.me.fill rd (s.me.pc + 4)) (s.me.pc + (j ++ 0#1).signExtend 64) ∧
    (s.me.isFull a = true →
      jumps (.integerOp (.jalr rd a imm)) (s.me.fill rd (s.me.pc + 4)) ((x + imm.signExtend 64) &&& ~~~ 1#64)) ∧
    (s.me.isFull a = true → s.me.isFull b = true →
      (branchTaken c x y →
        jumps (.integerOp (.branch c a b off)) s.me (s.me.pc + (off ++ 0#1).signExtend 64)) ∧
      (¬ branchTaken c x y → exec (.integerOp (.branch c a b off)) s = .next (s.setMe s.me.next))))

/-- R30, R31: an instruction that reads an empty register has no effect: the hart is PARKED on the first empty one of those it
reads, in field order, with its PC where it was, and re-issues. This is said of every instruction that reads x-registers; of
those that a mode or hart 0 alone may issue, where the hart may issue them. -/
def Obligations.EmptySourceParks : Prop :=
  ∀ (s : State) (d a b c : Reg) (imm : BitVec 12) (k : LoadKind) (k' : StoreKind) (cond : BranchCond) (o : AluOp) (ow : AluWOp)
    (oi : ImmOp) (os : ShiftOp) (op : AmoOp) (dbl aq rl : Bool) (p : BitVec 6) (l : BitVec 3) (lw : BitVec 4) (q : BitVec 2)
    (w : BitVec 1) (n : BitVec 3) (sh : BitVec 6) (shw : BitVec 5) (oc : CsrOp),
    let parks (x : Instr × List Reg) := ∀ (before after : List Reg) (r : Reg), x.2 = before ++ r :: after →
      s.me.isFull r = false → (∀ y ∈ before, s.me.isFull y = true) →
      ∃ t, exec x.1 s = .next t ∧ t = s.setMe t.me ∧
        t.me = { s.me with st := .parked, wait := .xreg r, quantumCount := t.me.quantumCount, quantumSince := t.me.quantumSince }
    (∀ x ∈ ([(.integerOp (.op o d a b), [a, b]), (.integerOp (.opW ow d a b), [a, b]), (.integerOp (.opImm oi d a imm), [a]),
        (.integerOp (.shiftImm os d a sh), [a]), (.integerOp (.shiftImmW os d a shw), [a]), (.integerOp (.addiw d a imm), [a]),
        (.integerOp (.branch cond a b imm), [a, b]), (.integerOp (.jalr d a imm), [a])] : List (Instr × List Reg)), parks x) ∧
    (∀ x ∈ ([(.scalarLoad k d a imm, [a]), (.scalarStore k' a b imm, [a, b]), (.amo op dbl aq rl d a b, [a, b]),
        (.lr dbl aq rl d a, [a]), (.sc dbl aq rl d a b, [a, b]), (.pstf c q b a, [a, b, c]), (.raddfInt c w b a, [a, b, c]),
        (.raddfFloat c w b a, [a, b, c]), (.rcas c w b a d, [a, b, c])] : List (Instr × List Reg)), parks x) ∧
    (∀ i ∈ ([.rfadd w b a d, .rfswap w b a d, .rfand w b a d, .rfor w b a d, .rfxor w b a d, .rfmin w b a d, .rfmax w b a d,
        .rfminu w b a d, .rfmaxu w b a d, .rfaddf w b a d] : List Instr), parks (i, [a, b])) ∧
    (∀ i ∈ ([.mvxpD p l a, .mvxpW p lw a, .mvbxD p a, .mvbxW p a, .fbump a, .trel a, .twait a, .ocinv a, .kset a n, .gbar a,
        .psave a, .pload a] : List Instr), parks (i, [a])) ∧
    (∀ i ∈ ([.fwait b a, .tdef b a, .tarm b a, .msend b a n, .own b a d, .gsum b a d, .gmax b a d, .gmin b a d, .tqpush b a d,
        .tqpop b a d] : List Instr), parks (i, [a, b])) ∧
    parks (.callat b a q n, [a, b, 10, 11, 12, 13]) ∧
    (s.cur.hart = 0 → parks (.hstart b a d, [a, b]) ∧ parks (.hreap a d, [a]) ∧ parks (.hsave b a, [a, b]) ∧
      parks (.hload b a, [a, b]) ∧ (s.me.mode ≠ .user → parks (.cmig a d, [a]))) ∧
    (s.cur.hart ≠ 0 → parks (.hop b a, [a, b]) ∧ parks (.hstop, [10])) ∧
    (s.me.mode = .machine → parks (.ovmap b a, [a, b]) ∧ parks (.ovunmap a, [a]) ∧ parks (.sfenceVma a b, [a, b]) ∧
      ∀ num mask get, (num, mask, get) ∈ heldCsrs → parks (.csrAccess oc false d a (BitVec.ofNat 12 num), [a]))

/-! ### Scalar accesses (R62 to R69, R119, R120, R159, R160) -/

/-- R68, R119, R120, R159: a load that the checks admit. From the core's own scratchpad it fills rd at issue, through W0 with the
little-endian bytes, extended as its kind says; elsewhere it empties rd and enters the outbound queue, or issues again while
that queue is full. No byte of memory changes. -/
def Obligations.LoadsFillOrEmpty : Prop :=
  ∀ (s : State) (k : LoadKind) (rd a : Reg) (imm : BitVec 12) (p : Place), s.me.isFull a = true →
    let size := match k with | .lb | .lbu => 1 | .lh | .lhu => 2 | .lw | .lwu => 4 | .ld => 8
    let addr := s.me.readX a + imm.signExtend 64
    let i : Instr := .scalarLoad k rd a imm
    s.checkScalar s.cur .read addr size true = .ok p → s.me.breaks 2 addr = false →
    (∀ core off win, p = .spad core off win → field addr 60 4 = 8 →
      let n := (scalarSpan win size).getD 0
      let keys := (List.range n).map fun i => spadKey core (off + i)
      let value : Word := if win = 0 then
          let v := leNat (Memory.readBytes s.mem (spadKey core off) n)
          match k with
          | .lb | .lh | .lw => ((BitVec.ofNat (8 * size) v).signExtend 64)
          | .ld | .lbu | .lhu | .lwu => BitVec.ofNat 64 v
        else loadValue (s.me.csr.compat.getLsbD 2) ⟨k, BitVec.ofNat 3 win⟩ (keys.map (Memory.read s.mem))
      s.anyPoisoned keys = false → fillsRegister i s rd value) ∧
    (throughNi addr p →
      let n := (scalarSpan p.win size).getD 0
      (s.niFull s.cur.core = true → exec i s = .next s) ∧
      (s.niFull s.cur.core = false → ∃ t, exec i s = .next t ∧
        enqueued s t addr (.read n) [] (.load rd ⟨k, BitVec.ofNat 3 p.win⟩) ∧
        t.me = { (s.me.empty rd).next with holdAll := t.me.holdAll, holdWrites := t.me.holdWrites } ∧ t.mem = s.mem))

/-- R68, R119, R120, R159: a store that the checks admit. To the core's own scratchpad it writes its stored bytes at issue, and no
other byte; elsewhere it enters the outbound queue with them, or issues again while that queue is full. No register of the
hart changes. -/
def Obligations.StoresWriteOrPost : Prop :=
  ∀ (s : State) (k : StoreKind) (a b : Reg) (imm : BitVec 12) (p : Place), s.me.isFull a = true → s.me.isFull b = true →
    let size := match k with | .sb => 1 | .sh => 2 | .sw => 4 | .sd => 8
    let addr := s.me.readX a + imm.signExtend 64
    let i : Instr := .scalarStore k a b imm
    let bytes := (windowWrite (WinCtx.of s.me.csr.bandsc s.me.csr.compat) p.win fp32 (leBytes (s.me.readX b).toNat size)).1
    s.checkScalar s.cur .write addr size true = .ok p → s.me.breaks 3 addr = false →
    (∀ core off win, p = .spad core off win → field addr 60 4 = 8 →
      ∃ t, exec i s = .next t ∧ t.mem = Memory.writeBytes s.mem (spadKey core off) bytes ∧
        keepsMemoryBut s t (spadKey core off) bytes.length ∧ (win = 0 → bytes = leBytes (s.me.readX b).toNat size) ∧
        t.me = { s.me.next with resv := t.me.resv } ∧ t.reqs = s.reqs) ∧
    (throughNi addr p →
      (s.niFull s.cur.core = true → exec i s = .next s) ∧
      (s.niFull s.cur.core = false → ∃ t, exec i s = .next t ∧ enqueued s t addr .write bytes .none ∧
        t.me = { s.me.next with holdAll := t.me.holdAll, holdWrites := t.me.holdWrites } ∧ t.mem = s.mem))

/-- R64, R72, R78, R119, R166: the hart reads the words of its core's tile and watch tables and its core registers at issue; a
store to the tables performs nothing. A load or store of a word that does not exist there, of any other size, or one to a register
that another hart than hart 0 may not write, takes a trap of code 0x0D. -/
def Obligations.CoreTablesAndRegisters : Prop :=
  ∀ (s : State) (rd a b : Reg) (imm : BitVec 12) (k : LoadKind) (k' : StoreKind), s.me.isFull a = true → s.me.isFull b = true →
    let addr := s.me.readX a + imm.signExtend 64
    let c := s.myCore
    let absent := exec (.scalarLoad .ld rd a imm) s = .next (s.trapCode 0x0D 0) ∧
      exec (.scalarStore .sd a b imm) s = .next (s.trapCode 0x0D 0)
    (∀ off, s.place s.cur.core addr ∈ [some (.tileTable off), some (.watchTable off), some (.coreReg off)] →
      (k ≠ .ld → exec (.scalarLoad k rd a imm) s = .next (s.trapCode 0x0D 0)) ∧
      (k' ≠ .sd → exec (.scalarStore k' a b imm) s = .next (s.trapCode 0x0D 0))) ∧
    (∀ off, s.place s.cur.core addr = some (.tileTable off) → s.me.breaks 2 addr = false → s.me.breaks 3 addr = false →
      if h : off % 8 = 0 ∧ off < 0x400 then
        fillsRegister (.scalarLoad .ld rd a imm) s rd
          (tileWord (c.tiles[off / 16]'(by omega)) (off / 8 % 2 == 1)) ∧
        exec (.scalarStore .sd a b imm) s = .next (s.setMe s.me.next)
      else absent) ∧
    (∀ off, s.place s.cur.core addr = some (.watchTable off) → s.me.breaks 2 addr = false → s.me.breaks 3 addr = false →
      if h : off % 8 = 0 ∧ off < 0x100 then
        fillsRegister (.scalarLoad .ld rd a imm) s rd
          (watchWord (c.watch[off / 16]'(by omega)) (off / 8 % 2 == 1)) ∧
        exec (.scalarStore .sd a b imm) s = .next (s.setMe s.me.next)
      else absent) ∧
    (∀ off, s.place s.cur.core addr = some (.coreReg off) → s.me.breaks 2 addr = false → s.me.breaks 3 addr = false →
      if coreRegisterExists off = true then
        fillsRegister (.scalarLoad .ld rd a imm) s rd (c.readRegister off (s.coreCycle s.cur.core)) ∧
        (off ≠ 0 → ∃ t, exec (.scalarStore .sd a b imm) s = .next t ∧ t.me = s.me.next ∧ t.mem = s.mem)
      else absent) ∧
    (s.place s.cur.core addr = some (.coreReg 0) → s.cur.hart ≠ 0 →
      exec (.scalarStore .sd a b imm) s = .next (s.trapCode 0x0D 0))


/-! ### Atomics (R119, R124, R125, R159, R160) -/

/-- R119, R159, R160: AMOs, LR and SC in the core's own scratchpad perform at issue. An AMO returns the old value, and stores
the combined one; LR returns the value and reserves its 8-byte granule; SC stores and returns 0 while that reservation holds,
and else stores nothing and returns 1. No other byte and no other register changes. R61, R120, R124, R125: in virtual space
AMOs, LR and an SC that follows an LR enter the outbound queue, with rd empty until they return; while the queue is full they issue
again; an SC that follows no LR, since a trap, a save or another SC, returns 1. With rl a
release at device scope goes before an AMO or SC, and none before an LR; with aq every later non-local access of the hart waits for the access. -/
def Obligations.AtomicsInMemory : Prop :=
  (∀ (s : State) (op : AmoOp) (dbl aq rl : Bool) (rd a b : Reg) (core off win : Nat),
    let n := if dbl then 8 else 4
    let addr := s.me.readX a
    let key := spadKey core off
    let old := leNat (Memory.readBytes s.mem key n)
    let word : Word := if dbl then BitVec.ofNat 64 old else (BitVec.ofNat 32 old).signExtend 64
    let granule : Reservation := ⟨spadKey core (off / 8 * 8), none⟩
    let new := amoResult op (BitVec.ofNat (8 * n) old) (BitVec.ofNat (8 * n) (s.me.readX b).toNat)
    let done (t : State) (v : Word) (lr : Option Nat) :=
      goesOn t { s.me.fill rd v with resv := t.me.resv, lr := lr } ∧ (rl = false → t.reqs = s.reqs)
    let stores (t : State) (v : Nat) := t.mem = Memory.writeBytes s.mem key (leBytes v n) ∧ keepsMemoryBut s t key n
    s.me.isFull a = true →
    (s.checkScalar s.cur .read addr n false = .ok (.spad core off win) → s.me.breaks 2 addr = false →
      s.anyPoisoned ((List.range n).map (key + ·)) = false →
      ∃ t, exec (.lr dbl aq rl rd a) s = .next t ∧ done t word none ∧ t.me.resv = some granule ∧ t.mem = s.mem ∧
        t.reqs = s.reqs) ∧
    (s.me.isFull b = true → s.me.breaks 3 addr = false →
      (s.checkScalar s.cur .readWrite addr n false = .ok (.spad core off win) →
        s.anyPoisoned ((List.range n).map (key + ·)) = false →
        ∃ t, exec (.amo op dbl aq rl rd a b) s = .next t ∧ done t word s.me.lr ∧ stores t new.toNat) ∧
      (s.checkScalar s.cur .write addr n false = .ok (.spad core off win) →
        ∃ t, exec (.sc dbl aq rl rd a b) s = .next t ∧ t.me.resv = none ∧
          if s.me.resv = some granule then done t 0 none ∧ stores t ((s.me.readX b).toNat % 2 ^ (8 * n))
          else done t 1 none ∧ t.mem = s.mem))) ∧
  (∀ (s : State) (op : AmoOp) (atom : AtomOp) (dbl aq rl : Bool) (rd a b : Reg) (va : Nat),
    (op, atom) ∈ ([(.add, .add), (.swap, .swap), (.xor, .xor), (.or, .or), (.and, .and), (.min, .min), (.max, .max),
      (.minu, .minu), (.maxu, .maxu)] : List (AmoOp × AtomOp)) →
    let n := if dbl then 8 else 4
    let addr := s.me.readX a
    let sends (i : Instr) (o : ReqOp) (dest : Dest) (rel : Bool) (lr : Nat → Option Nat) :=
      if s.niFull s.cur.core = true then exec i s = .next s
      else ∃ t r, exec i s = .next t ∧ posts s t addr o [] .none dest r ∧ goesOn t { s.me.empty rd with lr := lr r.id } ∧
        t.mem = s.mem ∧
        (rel = true → ∃ q ∈ t.reqs, q.kind = .release 2 ∧ q.id ∈ r.waits ∧ q.id ∈ t.me.holdWrites) ∧
        (rel = false → t.reqs = s.reqs ++ [r]) ∧ (aq = true → r.id ∈ t.me.holdAll)
    s.me.isFull a = true → s.place s.cur.core addr = some (.virt va) → addr.toNat % n = 0 →
    (s.me.breaks 2 addr = false → sends (.lr dbl aq rl rd a) (.lr dbl) (.xreg rd dbl) false some) ∧
    (s.me.isFull b = true → s.me.breaks 3 addr = false →
      sends (.amo op dbl aq rl rd a b) (.atomic atom dbl (s.me.readX b) 0) (.xreg rd dbl) rl (fun _ => s.me.lr) ∧
      (s.me.lr ≠ none → sends (.sc dbl aq rl rd a b) (.sc dbl (s.me.readX b)) (.xreg rd true) rl (fun _ => none)) ∧
      (s.me.lr = none → ∃ t, exec (.sc dbl aq rl rd a b) s = .next t ∧ goesOn t { s.me.fill rd 1 with resv := none } ∧
        t.mem = s.mem ∧ (rl = false → t.reqs = s.reqs))))

/-- R62, R64, R361, R413, R414, R417: an access in virtual space or through W0 of a scratchpad whose address is no multiple of its
size traps with cause 4, or with 6 where it writes; an A-extension access outside virtual space and the own scratchpad through W0,
and any access that names no place, with 5 or 7; one of an address that a data breakpoint names, with 3; and one of the regions of
the core's tables and registers that names no word of theirs, before all of these, with cause 24 and code 0x0D. mtval is the
address, or the fault word of code 0x0D, and nothing is performed. The model's choices: log 20. -/
def Obligations.AccessesTrap : Prop :=
  ∀ (s : State) (op : AmoOp) (dbl aq rl : Bool) (k : LoadKind) (k' : StoreKind) (rd a b : Reg) (va : Nat),
    let addr := s.me.readX a
    let loadSize := match k with | .lb | .lbu => 1 | .lh | .lhu => 2 | .lw | .lwu => 4 | .ld => 8
    let storeSize := match k' with | .sb => 1 | .sh => 2 | .sw => 4 | .sd => 8
    let n := if dbl then 8 else 4
    s.me.isFull a = true → s.me.isFull b = true →
    (∀ core off, s.place s.cur.core addr ∈ [some (.virt va), some (.spad core off 0)] →
      (addr.toNat % loadSize ≠ 0 → traps (.scalarLoad k rd a 0) s 4 addr) ∧
      (addr.toNat % storeSize ≠ 0 → traps (.scalarStore k' a b 0) s 6 addr) ∧
      (addr.toNat % n ≠ 0 →
        traps (.lr dbl aq rl rd a) s 4 addr ∧ traps (.amo op dbl aq rl rd a b) s 6 addr ∧ traps (.sc dbl aq rl rd a b) s 6 addr)) ∧
    (s.place s.cur.core addr = some (.virt va) →
      (addr.toNat % loadSize = 0 → s.me.breaks 2 addr = true → traps (.scalarLoad k rd a 0) s 3 addr) ∧
      (addr.toNat % storeSize = 0 → s.me.breaks 3 addr = true → traps (.scalarStore k' a b 0) s 3 addr)) ∧
    (s.place s.cur.core addr = none → addr.toNat % 8 = 0 →
      (coreRegionBad addr loadSize = false → traps (.scalarLoad k rd a 0) s 5 addr) ∧
      (coreRegionBad addr storeSize = false → traps (.scalarStore k' a b 0) s 7 addr)) ∧
    (field addr 60 4 ≠ 0 ∨ s.place s.cur.core addr = none → addr.toNat % 8 = 0 → coreRegionBad addr n = false →
      (∀ off, s.place s.cur.core addr ≠ some (.spad s.cur.core off 0) ∨ field addr 60 4 ≠ 8) →
      traps (.lr dbl aq rl rd a) s 5 addr ∧ traps (.amo op dbl aq rl rd a b) s 7 addr ∧ traps (.sc dbl aq rl rd a b) s 7 addr) ∧
    (let absent (size : Nat) := addr.extractLsb' 60 4 = 8 ∧
       (addr.extractLsb' 21 3 = 1 ∧ ¬ (size = 8 ∧ addr.toNat % 8 = 0 ∧ (addr.extractLsb' 0 18).toNat < 0x400) ∨
        addr.extractLsb' 21 3 = 2 ∧ ¬ (size = 8 ∧ coreRegisterExists (addr.extractLsb' 0 18).toNat = true) ∨
        addr.extractLsb' 21 3 = 3 ∧ ¬ (size = 8 ∧ addr.toNat % 8 = 0 ∧ (addr.extractLsb' 0 18).toNat < 0x100))
     (absent loadSize → trapsWith (.scalarLoad k rd a 0) s 0x0D 0) ∧
     (absent storeSize → trapsWith (.scalarStore k' a b 0) s 0x0D 0) ∧
     (absent n → trapsWith (.lr dbl aq rl rd a) s 0x0D 0 ∧ trapsWith (.amo op dbl aq rl rd a b) s 0x0D 0 ∧
       trapsWith (.sc dbl aq rl rd a b) s 0x0D 0))


/-! ### System instructions (R128, R159 to R165, R361 to R363, R417) -/

/-- R159, R361, R417: `ecall` traps with cause 8, 9 or 11 by the mode and mtval 0, and `ebreak` with cause 3 and the PC. An
instruction that the mode may not run is no instruction: cause 2 with its word. R161: `mret` goes to mepc in the mode of MPP
with MIE from MPIE, and leaves MPIE 1 and MPP U; `sret` goes to sepc in the mode of SPP with SIE from SPIE, and leaves SPIE 1
and SPP U. Nothing else of the hart changes but its count of instructions. Places of the status bits: PRESUMED (log 5). -/
def Obligations.EnvironmentTrapsAndReturns : Prop :=
  (∀ (s : State) (a b : Reg),
    (s.me.mode = .user → traps .ecall s 8 0) ∧ (s.me.mode = .supervisor → traps .ecall s 9 0) ∧
    (s.me.mode = .machine → traps .ecall s 11 0) ∧ traps .ebreak s 3 s.me.pc ∧
    (s.me.mode ≠ .machine → traps .mret s 2 (s.insn.zeroExtend 64)) ∧
    (s.me.mode = .user ∨ s.me.mode = .supervisor ∧ s.me.csr.mstatus.getLsbD 22 = true →
      traps .sret s 2 (s.insn.zeroExtend 64)) ∧
    (s.me.mode = .user ∨ s.me.mode = .supervisor ∧ s.me.csr.mstatus.getLsbD 20 = true →
      traps (.sfenceVma a b) s 2 (s.insn.zeroExtend 64))) ∧
  (∀ (s : State),
    let v := s.me
    let old := v.csr.mstatus
    let returns (i : Instr) (mode : Mode) (pc : Word) (bit : Nat → Bool) :=
      ∃ t, exec i s = .next t ∧ t = s.setMe t.me ∧ t.me.mode = mode ∧ t.me.pc = pc ∧ (∀ n, t.me.csr.mstatus.getLsbD n = bit n) ∧
        t.me = { v with
          mode := t.me.mode, pc := t.me.pc
          csr := { v.csr with mstatus := t.me.csr.mstatus, instret := v.csr.instret + 1 } }
    (v.mode = .machine → returns .mret
      (if old.extractLsb' 11 2 = 3 then .machine else if old.extractLsb' 11 2 = 1 then .supervisor else .user) v.csr.mepc
      fun n => if n = 3 then old.getLsbD 7 else if n = 7 then true else if n = 11 ∨ n = 12 then false else old.getLsbD n) ∧
    (v.mode = .machine ∨ v.mode = .supervisor ∧ old.getLsbD 22 = false → returns .sret
      (if old.getLsbD 8 then .supervisor else .user) v.csr.sepc
      fun n => if n = 1 then old.getLsbD 5 else if n = 5 then true else if n = 8 then false else old.getLsbD n))

/-- R96, R103, R115, R161 to R165: a CSR access that a hart in M mode makes to a register held as it is written gives rd
the old value, writes the new one under the register's mask, with 0 in a field that names the die on a device of one die (R1), and
goes on; `csrrs` and `csrrc` of x0 or 0 write nothing. Masks of
the standard registers: PRESUMED (log 5). A word of SPLIM holds END as it is written, with its low six bits and above 0x4_0000 too, which
R71 does not say: DESIGN CHOICE (log 93). R162: an access to a CSR number whose bits [9:8] ask for a higher mode than the
hart's, to one of eight numbers that no CSR has, or a write of a read-only number is no instruction: cause 2 with its word.
The model's choices: logs 5, 38, 93. -/
def Obligations.CsrAccessesAndPrivilege : Prop :=
  (∀ (s : State) (op : CsrOp) (imm : Bool) (rd a : Reg) (n : Nat) (mask : Word) (get : Csrs → Word),
    s.me.mode = .machine → (imm = true ∨ s.me.isFull a = true) → (n, mask, get) ∈ heldCsrs →
    let x : Word := if imm then a.zeroExtend 64 else s.me.readX a
    let old := get s.me.csr
    let new := match op with | .rw => x | .rs => old ||| x | .rc => old &&& ~~~ x
    let write := op = .rw ∨ a ≠ 0
    ∃ t, exec (.csrAccess op imm rd a (BitVec.ofNat 12 n)) s = .next t ∧ t = s.setMe t.me ∧
      t.me = { (s.me.fill rd old).next with csr := t.me.csr } ∧
      get t.me.csr = (if write then new &&& mask &&& (if s.dieCount = 1 ∧ 0x5D0 ≤ n ∧ n < 0x5D8 then ~~~ 0x60000000 else ~~~ 0)
        else old) ∧ t.me.csr.instret = s.me.csr.instret + 1 ∧
      (∀ m mask' get', (m, mask', get') ∈ heldCsrs → m ≠ n → get' t.me.csr = get' s.me.csr)) ∧
  (∀ (s : State) (op : CsrOp) (imm : Bool) (rd a : Reg) (n : BitVec 12),
    let i : Instr := .csrAccess op imm rd a n
    let illegal := traps i s 2 (s.insn.zeroExtend 64)
    (s.me.mode = .user → n.getLsbD 8 = true ∨ n.getLsbD 9 = true → illegal) ∧
    (s.me.mode = .supervisor → n.getLsbD 9 = true → illegal) ∧
    (n ∈ ([0x000, 0x3A0, 0x3B0, 0x7B0, 0x7C8, 0x806, 0xC03, 0xFFF] : List (BitVec 12)) → illegal) ∧
    (n.extractLsb' 10 2 = 3 ∨ n = 0x804 → op = .rw ∨ a ≠ 0 → illegal) ∧
    (s.me.mode = .user → n ∈ ([0x802, 0x803, 0x811, 0x812, 0x813] : List (BitVec 12)) → op = .rw ∨ a ≠ 0 → illegal))

/-- R63, R128, R161: `fence` makes every later access of the hart wait for every earlier one and for its triggers; `fence.i`
drops the prefetched lines and holds the next fetch until the earlier writes to virtual space have completed; `sfence.vma` sends an
invalidation to every die, of the page and the address space that its registers name or of all, for which later accesses
wait; `wfi` completes where an interrupt is pending and enabled in mie, and else parks. -/
def Obligations.FencesAndWaits : Prop :=
  ∀ (s : State) (fm pred succ : BitVec 4) (imm : BitVec 12) (a b rd : Reg),
    let v := s.me
    let gathers (r : Req) (text : Bool) (f : Req → Prop) := r.id = s.nextId ∧ r.kind = .gather text ∧ r.after = v.flights.map (·.seq) ∧
      ∀ q ∈ s.reqs, q.kind = .access → q.src.hart? = some s.cur → f q → q.id ∈ r.waits
    (∃ t r, exec (.fence fm pred succ a rd) s = .next t ∧ t.reqs = s.reqs ++ [r] ∧ gathers r false (fun _ => True) ∧
      goesOn t v ∧ r.id ∈ t.me.holdAll ∧ t.mem = s.mem) ∧
    (∃ t r, exec (.fenceI imm a rd) s = .next t ∧ t.reqs = s.reqs ++ [r] ∧
      gathers r true (fun q => q.isWrite = true ∧ q.namesMemory = true ∧ field q.addr 60 4 = 0) ∧
      t.me = { v.next with lines := [], fetching := none, fetched := none, fetchHold := some r.id } ∧ t.mem = s.mem) ∧
    (v.mode = .machine ∨ v.mode = .supervisor ∧ v.csr.mstatus.getLsbD 20 = false → v.isFull a = true → v.isFull b = true →
      ∃ t dies, exec (.sfenceVma a b) s = .next t ∧ goesOn t { v with lines := [] } ∧ s.nextId ∈ t.me.holdAll ∧
        t.msgs = s.msgs ++ [⟨s.nextId, dieOf s.cur.core, .invalidate s.cur (if a = 0 then none else some (v.readX a))
          (if b = 0 then none else some ((v.readX b).setWidth 16)) dies⟩] ∧
        (∀ d : DieId, d ∈ dies ↔ d.val < s.dieCount) ∧ t.reqs = s.reqs ∧ t.mem = s.mem) ∧
    (if s.interruptPending s.cur = true then exec .wfi s = .next (s.setMe v.next)
      else ∃ t, exec .wfi s = .next t ∧ t = s.setMe t.me ∧ t.me.st = .parked ∧ t.me.wait = .interrupt ∧ t.me.pc = v.pc ∧ t.me.x = v.x)


/-! ### Messages, remote tasks, ownership and shared registers (R36, R47, R181 to R189, R420) -/

/-- R43, R47, R120, R125, R181 to R184: `msend` enters a message to the hart and q-register it names; `qmov` fills rd from a full
q-register, which empties, and parks on an empty one; `callat` empties its q-register and, after a release at domain scope,
enters the 56-byte record of its target to the home core; `hop` begins to leave once its live registers and its triggers
are done. The model's choices: logs 42, 44. -/
def Obligations.MessagesAndRemoteTasks : Prop :=
  ∀ (s : State) (a b d : Reg) (q : BitVec 3) (p : BitVec 2),
    let x := s.me.readX a
    let y := s.me.readX b
    let sends (i : Instr) (adr : Word) (op : ReqOp) (data : List Byte) (dest : Dest) (v : Hart) (first : List Req → Req → Prop) :=
      if s.niFull s.cur.core = true then exec i s = .next s
      else ∃ t r, exec i s = .next t ∧ posts s t adr op data .none dest r ∧ goesOn t v ∧ t.mem = s.mem ∧ first t.reqs r
    let target : Word := x ||| q.zeroExtend 64
    let record := leBytes y.toNat 8 ++ leBytes 0x0000040100003C00 8 ++ leBytes (8 * (s.hartWord s.cur).toNat + q.toNat) 8 ++
      leBytes (s.me.readX 10).toNat 8 ++ leBytes (s.me.readX 11).toNat 8 ++ leBytes (s.me.readX 12).toNat 8 ++
      leBytes (s.me.readX 13).toNat 8
    (s.me.isFull a = true → s.me.isFull b = true →
      (x.extractLsb' 0 3 = 0 → x.extractLsb' 33 31 = 0 →
        sends (.msend b a q) x (.message target y) [] .none s.me fun _ _ => True) ∧
      (x.extractLsb' 0 3 ≠ 0 ∨ x.extractLsb' 33 31 ≠ 0 → trapsWith (.msend b a q) s 0x01 (a.zeroExtend 8)) ∧
      (x.extractLsb' 57 7 = 0 → y.extractLsb' 0 2 = 0 → (∀ r ∈ ([10, 11, 12, 13] : List Reg), s.me.isFull r = true) →
        sends (.callat b a p q) x (.record p false) record (.qreg q) (s.me.emptyQ q)
          fun rs r => ∃ l ∈ rs, l.kind = .release 3 ∧ l.id ∈ r.waits) ∧
      (s.cur.hart ≠ 0 → x.extractLsb' 57 7 = 0 → s.me.csr.upstat.getLsbD 0 = false →
        y.getLsbD 0 = false → y.extractLsb' 32 32 = 0 →
        ((List.range 32).filter fun i => y.getLsbD i).length + (if s.me.csr.taskret.getLsbD 63 then 1 else 0) ≤ 16 →
        (∀ r : Reg, y.getLsbD r.toNat = true → s.me.isFull r = true) →
        if s.me.flights = [] then exec (.hop b a) s = .next (s.setMe { s.me with job := .hopping x (y.extractLsb' 0 32) 0 })
        else ∃ t, exec (.hop b a) s = .next t ∧ t = s.setMe t.me ∧ t.me.st = .parked ∧ t.me.wait = .drain ∧ t.me.pc = s.me.pc)) ∧
    (s.cur.hart = 0 → trapsWith (.hop b a) s 0x02 0) ∧
    (if s.me.qFull.getLsbD q.toNat = true then
      exec (.qmov q d) s = .next (s.setMe
        (({ s.me with qFull := s.me.qFull &&& ~~~ (1#8 <<< q.toNat) }.fill d (s.me.q[q.toNat]'(q.isLt))).next))
     else ∃ t, exec (.qmov q d) s = .next t ∧ t = s.setMe t.me ∧ t.me.st = .parked ∧ t.me.wait = .qreg q ∧ t.me.pc = s.me.pc ∧
       t.me.x = s.me.x)

/-- R36, R85, R87, R187 to R189, R368: `own` sends a request for the region of its address, with rd empty until its result; `ocinv`
drops the core's owner entry of the region, and no other, and sends the core's FAULTED requests to the region again; a
write of `kset` is seen from the second die cycle after it, and `kget` fills rd with what is seen. -/
def Obligations.OwnershipAndSharedRegisters : Prop :=
  ∀ (s : State) (a b d : Reg) (k : BitVec 3),
    let x := s.me.readX a
    let y := s.me.readX b
    let asid := s.me.csr.satp.extractLsb' 44 16
    let region : BitVec 36 := x.extractLsb' 21 36
    let now := s.coreCycle s.cur.core
    (s.me.isFull a = true → s.me.isFull b = true → x.extractLsb' 57 7 = 0 → y.extractLsb' 0 5 = 0 → y.extractLsb' 32 32 = 0 →
      (y.extractLsb' 23 2).toNat ≤ 2 → (y.extractLsb' 25 2).toNat ≤ 2 → (y.extractLsb' 21 2).toNat < s.dieCount →
      if s.niFull s.cur.core = true then exec (.own b a d) s = .next s
      else ∃ t r, exec (.own b a d) s = .next t ∧ posts s t x (.own y) [] .none (.xreg d true) r ∧ goesOn t (s.me.empty d) ∧
        t.mem = s.mem) ∧
    (s.me.isFull a = true → x.extractLsb' 57 7 = 0 →
      ∃ t, exec (.ocinv a) s = .next t ∧ t.me = s.me.next ∧ t.mem = s.mem ∧
        (∀ e, e ∈ t.myCore.owners ↔ e ∈ s.myCore.owners ∧ ¬ (e.asid = asid ∧ e.region = region)) ∧
        t.reqs.length = s.reqs.length ∧
        ∀ (i : Nat) (r : Req), s.reqs[i]? = some r →
          (∀ c w, r.stage = .faulted c w → r.core = s.cur.core → r.asid = asid → r.addr.extractLsb' 21 36 = region →
            r.addr.extractLsb' 57 7 = 0 → t.reqs[i]? = some { r with stage := .queued, retries := 0, route := none }) ∧
          ((∀ c w, r.stage ≠ .faulted c w) → t.reqs[i]? = some r)) ∧
    fillsRegister (.kget k d) s d (s.myCore.readK ⟨k.toNat, k.isLt⟩ now) ∧
    (s.me.isFull a = true → ∃ t, exec (.kset a k) s = .next t ∧ t.me = s.me.next ∧ t = s.setMyCore t.myCore ∧
      t.myCore = { s.myCore with
        harts := s.myCore.harts.set s.cur.hart t.me, k := t.myCore.k, kSettle := t.myCore.kSettle } ∧
      ∀ (j : Fin 8) (c : Nat), now ≤ c → t.myCore.readK j c =
        if j.val ≠ k.toNat then s.myCore.readK j c else if c ≤ now + 1 then s.myCore.k[j] else x)

/-! ### Barriers (R53 to R55, R129, R190, R191) -/

/-- R54, R55, R129, R190, R191: `gbar` of a group that its core belongs to counts the hart's arrival after a release at device
scope, and parks it until the generation completes; `gsum`, `gmax` and `gmin` add their contribution and go on, with rd empty
until then. The core reports once its PART harts have arrived. R32: a `gbar` that a trap interrupted makes no second arrival as it
re-executes, and completes once its generation has. A core that is no member takes code 0x06. The model's choices: log 40. -/
def Obligations.BarriersAndReductions : Prop :=
  ∀ (s : State) (a b d : Reg) (gid : BitVec 8) (w : Word),
    let c := s.myCore
    let old := c.arrivalsOf gid
    let here : BitVec 8 × Word := (gid, s.me.pc)
    let arrives (i : Instr) (kind : Option (Fin 3)) (new : CoreArrivals) := ∃ t q, exec i s = .next t ∧ t.mem = s.mem ∧
      (q ∈ t.reqs ∧ q.kind = .release 2 ∧ q.src = .hart s.cur ∧ q.id ∉ s.reqs.map (·.id)) ∧
      t.me.arrived = some ⟨gid, kind, if kind.isNone then 0 else d, if kind.isNone then 0 else q.id + 1,
        if kind.isNone then some s.me.pc else none⟩ ∧
      t.myCore.arrivalsOf gid = { new with
        gid := gid, count := old.count + 1, releases := q.id :: old.releases
        reported := old.reported || decide ((w.extractLsb' 34 5).toNat ≤ old.count + 1) } ∧
      (kind = none → t.me.st = .parked ∧ t.me.wait = .barrier ∧ t.me.pc = s.me.pc ∧ t.me.x = s.me.x ∧ t.me.xFull = s.me.xFull) ∧
      (kind ≠ none → t.me.pc = s.me.pc + 4 ∧ t.me.x = s.me.x ∧ t.me.xFull = (s.me.empty d).xFull ∧
        ∃ r ∈ t.reqs, r.id = q.id + 1 ∧ r.kind = .acquire ∧ r.dest = .xreg d true ∧ r.id ∈ t.me.holdAll) ∧
      (old.reported = false → (w.extractLsb' 34 5).toNat ≤ old.count + 1 → ∃ m ∈ t.msgs, ∃ l,
        m.body = .barrierReport (c.ctx.getD 0) gid s.cur.core new.sum new.max new.min l)
    let joined (f : Word → Word → Word) : Option Word → Option Word
      | none => some (s.me.readX b)
      | some v => some (f v (s.me.readX b))
    s.me.isFull a = true → s.me.readX a = gid.zeroExtend 64 →
    (c.membership gid = some w → (∀ r ∈ s.reqs, r.id < s.nextId) → s.me.arrived = none →
      (here ∉ s.me.gbars → arrives (.gbar a) none old) ∧
      (s.me.isFull b = true →
        arrives (.gsum b a d) (some 0) { old with sum := joined (· + ·) old.sum } ∧
        arrives (.gmax b a d) (some 1) { old with max := joined (fun x y => if x.toInt ≤ y.toInt then y else x) old.max } ∧
        arrives (.gmin b a d) (some 2) { old with min := joined (fun x y => if x.toInt ≤ y.toInt then x else y) old.min })) ∧
    (c.membership gid = some w → here ∈ s.me.gbars →
      exec (.gbar a) s = .next (s.setMe { s.me with gbars := s.me.gbars.erase here }.next)) ∧
    (c.membership gid = some w → here ∉ s.me.gbars → ∀ o, s.me.arrived = some o →
      ∃ t, exec (.gbar a) s = .next t ∧ t = s.setMe t.me ∧ t.me.st = .parked ∧ t.me.pc = s.me.pc ∧ t.me.arrived = some o) ∧
    (c.membership gid = none → trapsWith (.gbar a) s 0x06 gid ∧
      (s.me.isFull b = true → trapsWith (.gsum b a d) s 0x06 gid ∧ trapsWith (.gmax b a d) s 0x06 gid ∧
        trapsWith (.gmin b a d) s 0x06 gid))


/-! ### Hart control and the task queue (R38 to R50, R185, R186, R192 to R199, R421) -/

/-- R38, R39, R43, R192 to R194, R421: hart 0 starts, reaps, saves and loads the harts 1 to 15 of its core. `hstart` takes an OFF
hart and a record of the own scratchpad: rd becomes 0, and the hart is LOADING for 1 own slot each 64 bytes; of another hart
rd becomes 1 and nothing else happens. `hreap` fills rd with the exit value of a hart whose task has ended, and else
leaves rd empty for the end of its task. `hsave` begins a RUNNING or PARKED hart's drain, and `hload` an OFF hart's load
over 30 slots; of other harts they do nothing. Any other hart that issues one takes code 0x02, and a number that is none of 1 to 15,
OPERAND. The model's choices: logs 42, 43, 44, 45, 98, 101. -/
def Obligations.HartControl : Prop :=
  ∀ (s : State) (a b d : Reg) (h : HartRef) (off : Nat),
    let addr := s.me.readX b
    let v := s.hart h
    let header := leNat (Memory.readBytes s.mem (spadKey s.cur.core (off + 8)) 8)
    let record (n : Nat) := Memory.readBytes s.mem (spadKey s.cur.core off) n
    let size := 16 + 8 * (header / 2 ^ 40 % 32 + header / 2 ^ 32 % 2)
    let usable (k : Kind) (n : Nat) := s.protects s.cur s.me.mode k s.device.toNat s.cur.core off n = true ∧
      (k = .read → s.anyPoisoned ((List.range n).map fun i => spadKey s.cur.core (off + i)) = false)
    (s.cur.hart = 0 → s.me.isFull a = true → h.core = s.cur.core → h.hart ≠ 0 →
      s.me.readX a = BitVec.ofNat 64 h.hart.val →
      (s.me.isFull b = true → s.ownSpan s.cur.core addr 8 16 = some off → recordOk (record (min 144 (0x40000 - off))) = true →
        s.ownSpan s.cur.core addr 8 size = some off → usable .read size →
        (v.st ≠ .off → fillsRegister (.hstart b a d) s d 1) ∧
        (v.st = .off → ∃ t, exec (.hstart b a d) s = .next t ∧ goesOn t (s.me.fill d 0) ∧ t.mem = s.mem ∧
          (t.hart h).st = .loading ∧
          (t.hart h).job = .loadRecord (record size) (BitVec.ofNat 2 (header / 2 ^ 45)) s.nextId none ∧
          (t.hart h).ended = false ∧ (t.hart h).exitVal = v.exitVal ∧
          (t.hart h).jobDue = firstSlot h.hart (s.coreCycle h.core + 1) + 16 * ((size + 63) / 64 - 1) + 1 ∧
          (∃ r ∈ t.reqs, r.id = s.nextId ∧ r.kind = .release 1) ∧
          ∀ g : HartRef, g ≠ h → g ≠ s.cur → t.hart g = s.hart g)) ∧
      (d = 0 → exec (.hreap a d) s = .next (s.setMe s.me.next)) ∧
      (d ≠ 0 → v.ended = true → fillsRegister (.hreap a d) s d v.exitVal) ∧
      (d ≠ 0 → v.ended = false → ∃ t r, exec (.hreap a d) s = .next t ∧ goesOn t (s.me.empty d) ∧ t.mem = s.mem ∧
        t.reqs = s.reqs ++ [r] ∧ r.id = s.nextId ∧ r.dest = .xreg d true ∧ r.id ∈ t.me.holdAll) ∧
      (s.me.isFull b = true → s.ownSpan s.cur.core addr 64 1920 = some off →
        (usable .write 1920 → ∃ t, exec (.hsave b a) s = .next t ∧ t.me = { s.me.next with resv := t.me.resv } ∧
          (v.st = .running ∨ v.st = .parked → v.job = .none → v.wait ≠ .flag → t.mem = s.mem ∧
            t.hart h = { v with job := .save off, jobDue := s.coreCycle h.core + 1 }) ∧
          (v.st = .off ∨ v.st = .saving ∨ v.st = .loading → t = s.setMe s.me.next)) ∧
        (usable .read 1920 → imageOk (record 1920) = true → ∃ t, exec (.hload b a) s = .next t ∧ t.me = s.me.next ∧
          t.mem = s.mem ∧ (v.st = .off → (t.hart h).st = .loading ∧ (t.hart h).job = .loadImage off ∧
            (t.hart h).jobDue = firstSlot h.hart (s.coreCycle h.core + 1) + 16 * 29 + 1 ∧ (t.hart h).ended = false) ∧
          (v.st ≠ .off → t = s.setMe s.me.next)))) ∧
    (s.cur.hart ≠ 0 →
      trapsWith (.hstart b a d) s 0x02 0 ∧ trapsWith (.hreap a d) s 0x02 0 ∧ trapsWith (.hsave b a) s 0x02 0 ∧
      trapsWith (.hload b a) s 0x02 0) ∧
    (s.cur.hart = 0 → s.me.isFull a = true → s.me.isFull b = true →
      (s.me.readX a).toNat = 0 ∨ 15 < (s.me.readX a).toNat →
      trapsWith (.hstart b a d) s 0x01 (a.zeroExtend 8) ∧ trapsWith (.hreap a d) s 0x01 (a.zeroExtend 8) ∧
      trapsWith (.hsave b a) s 0x01 (a.zeroExtend 8) ∧ trapsWith (.hload b a) s 0x01 (a.zeroExtend 8))

/-- R45, R46, R185, R186: `tqpush` enters a record of the own scratchpad in the remote partition, at a priority of 0 to 3, and
fills rd with 0, or with 1 where that partition holds 40, and issues again while a release before it has not performed (R125); `tqpop` takes the oldest entry of the lowest priority that its mask
admits, among those present before the die cycle, writes its record with its priority, and fills rd with 256 × priority +
length, or with 0 where there is none. The model's choices: logs 42, 45, 98. -/
def Obligations.TaskQueueInstructions : Prop :=
  ∀ (s : State) (a b d : Reg) (off : Nat),
    let c := s.myCore
    let now := s.coreCycle s.cur.core
    let header := leNat (Memory.readBytes s.mem (spadKey s.cur.core (off + 8)) 8)
    let record (n : Nat) := Memory.readBytes s.mem (spadKey s.cur.core off) n
    let size := 16 + 8 * (header / 2 ^ 40 % 32 + header / 2 ^ 32 % 2)
    let usable (k : Kind) (n : Nat) := s.protects s.cur s.me.mode k s.device.toNat s.cur.core off n = true ∧
      (k = .read → s.anyPoisoned ((List.range n).map fun i => spadKey s.cur.core (off + i)) = false)
    s.me.isFull a = true → s.me.isFull b = true →
    (s.ownSpan s.cur.core (s.me.readX a) 8 16 = some off → s.ownSpan s.cur.core (s.me.readX a) 8 size = some off →
      (s.me.readX b).toNat < 4 → recordOk (record (min 144 (0x40000 - off))) = true → usable .read size →
      if s.outstanding s.me.holdWrites ≠ [] then exec (.tqpush b a d) s = .next s
      else if (c.tasks.filter fun t => t.part == .remote).length < 40 then
        ∃ t, exec (.tqpush b a d) s = .next t ∧ t.me = (s.me.fill d 0).next ∧ t = s.setMyCore t.myCore ∧
          t.myCore = { c with
            harts := c.harts.set s.cur.hart t.me
            tasks := c.tasks ++ [⟨record size, BitVec.ofNat 2 (s.me.readX b).toNat, .remote, now, none⟩] }
      else fillsRegister (.tqpush b a d) s d 1) ∧
    ((s.me.readX a).toNat < 16 → s.ownSpan s.cur.core (s.me.readX b) 8 144 = some off → usable .write 144 →
      ((∀ e ∈ c.tasks, e.cycle < now → (s.me.readX a).getLsbD e.prio.toNat = false) →
        fillsRegister (.tqpop b a d) s d 0) ∧
      ∀ (before after : List Task) (e : Task), c.tasks = before ++ e :: after → e.cycle < now →
        (s.me.readX a).getLsbD e.prio.toNat = true → (∀ f ∈ before, f.cycle < now → f.prio ≠ e.prio) →
        (∀ f ∈ c.tasks, f.cycle < now → f.prio < e.prio → (s.me.readX a).getLsbD f.prio.toNat = false) →
        ∃ t, exec (.tqpop b a d) s = .next t ∧
          (e.part ≠ .resume → t.myCore.tasks = before ++ after ∧ t.myCore.reservations = c.reservations ∧
            t.me = { (s.me.fill d (BitVec.ofNat 64 (256 * e.prio.toNat + e.record.length))).next with resv := t.me.resv } ∧
            t.mem = Memory.writeBytes s.mem (spadKey s.cur.core off) (withPrio e.record e.prio)))

/-- R195 to R199, R228, R367, R368, R393, R421: `psave` and `pload` begin their transfer; `hstop` begins the end of the task, with a
release at domain scope where the task returns, and at device scope else; `upret` goes back to xupepc with UP clear and frees its
reservation; `cmig` begins the core's drain where its target is fit, and else gives 1; `ovmap` and `ovunmap` begin their
update, and `ovunmap` of a page that no entry holds does nothing. The model's choices: logs 39, 42, 44, 101. -/
def Obligations.TransfersAndEnds : Prop :=
  ∀ (s : State) (a b d : Reg) (off target : Nat),
    let x := s.me.readX a
    let y := s.me.readX b
    let span (n : Nat) := s.ownSpan s.cur.core x 64 n = some off ∧
      ∀ k, s.protects s.cur s.me.mode k s.device.toNat s.cur.core off n = true
    let job (i : Instr) (j : Job) := exec i s = .next (s.setMe { s.me with job := j, jobDue := 0 })
    let page (v : Word) := v.extractLsb' 57 7 = 0 ∧ v.extractLsb' 0 16 = 0
    (s.me.isFull a = true →
      (span 1280 → job (.psave a) (.portSave off) ∧
        (portImageOk (Memory.readBytes s.mem (spadKey s.cur.core off) 1280) = true →
          s.anyPoisoned ((List.range 1280).map fun i => spadKey s.cur.core (off + i)) = false → job (.pload a) (.portLoad off))) ∧
      (s.me.mode = .machine → page x →
        ((s.overlays.length < 16 ∨ ∃ o ∈ s.overlays, o.1 = x) → s.me.isFull b = true → page y →
          job (.ovmap b a) (.overlay x (some y))) ∧
        (if ∃ o ∈ s.overlays, o.1 = x then job (.ovunmap a) (.overlay x none)
          else exec (.ovunmap a) s = .next (s.setMe s.me.next))) ∧
      (s.me.mode ≠ .machine → trapsWith (.ovmap b a) s 0x03 0 ∧ trapsWith (.ovunmap a) s 0x03 0) ∧
      (s.me.mode ≠ .user → s.cur.hart = 0 →
        ∀ o w, s.place s.cur.core x = some (.spad target o w) → x.extractLsb' 60 4 = 10 ∨ x.extractLsb' 60 4 = 11 →
        if s.migrationTarget s.cur.core target = true then
          ∃ t, exec (.cmig a d) s = .next t ∧ t.myCore.migration = some ⟨target, d⟩ ∧ t.me.pc = s.me.pc ∧
            ((∀ i : HartId, (s.hart ⟨s.cur.core, i⟩).wait ≠ .flag) → t.mem = s.mem) ∧
            (t.me.st = s.me.st ∧ t.me.job = .migrate) ∧
            ∀ i : HartId, i ≠ 0 → (s.hart ⟨s.cur.core, i⟩).st = .running ∨ (s.hart ⟨s.cur.core, i⟩).st = .parked →
              (s.hart ⟨s.cur.core, i⟩).job = .none → (t.hart ⟨s.cur.core, i⟩).job = .migrate
        else fillsRegister (.cmig a d) s d 1)) ∧
    (s.me.mode = .user → trapsWith (.cmig a d) s 0x03 0) ∧
    (s.cur.hart = 0 → trapsWith .hstop s 0x02 0) ∧
    (s.cur.hart ≠ 0 → s.me.isFull 10 = true → ∃ t r, exec .hstop s = .next t ∧ t.reqs = s.reqs ++ [r] ∧ r.id = s.nextId ∧
      r.kind = .release (if s.me.csr.taskret.getLsbD 63 then 3 else 2) ∧ t.mem = s.mem ∧
      t.me = { s.me with
        job := .stopping r.id, jobDue := s.coreCycle s.cur.core + 1, holdAll := t.me.holdAll, holdWrites := t.me.holdWrites }) ∧
    (s.me.mode ≠ .user ∨ s.me.csr.upstat.getLsbD 0 = false → trapsWith .upret s 0x03 0) ∧
    (s.me.mode = .user → s.me.csr.upstat.getLsbD 0 = true → (∀ i : HartId, (s.hart ⟨s.cur.core, i⟩).st ≠ .held) →
      ∃ t, exec .upret s = .next t ∧ t.me.pc = s.me.csr.upepc ∧ t.me.csr.upstat.getLsbD 0 = false ∧ t.me.x = s.me.x ∧
        t.me.mode = .user ∧ t.me.upReserved = false ∧ t.myCore.reservations = s.myCore.reservations - 1 ∧ t.mem = s.mem)


/-! ### Steps of the harts (R30 to R32, R39 to R55, R129, R161, R181, R190 to R199, R363 to R367) -/

/-- R44, R50, R192, R194 to R198, R228: when the transfer of a LOADING hart ends it is RUNNING, with the record's PC and values, 0 in
every other register, all full, empty q-registers, zero bins and SEQ, or with those of the bytes that it has read; each of the 30
slots of a load of an image reads, and of a save writes, its next 64 bytes; a hart whose drain is done transfers for 30 slots as
SAVING, and then it is OFF; a port image transfers over 20 slots once the hart's triggers are done; a drained core context moves to
its target. The model's choices: logs 9, 47, 101. -/
def Obligations.HartTransfers : Prop :=
  ∀ (s : State) (h : HartRef),
    let v := s.hart h
    let now := s.coreCycle h.core
    let others (t : State) := ∀ g : HartRef, g ≠ h → t.hart g = s.hart g
    let loaded := v.loaded
    (s.arg = .hart h → v.st = .loading → v.jobDue ≤ now → (s.core h.core).migration = none →
      (∀ record prio release, v.job = .loadRecord record prio release none → s.outstanding [release] = [] →
        ∃ t, exec .hartLoadComplete s = .next t ∧ others t ∧ t.mem = s.mem ∧
          let w := t.hart h
          w.st = .running ∧ w.job = .none ∧ w.pc = BitVec.ofNat 64 (wordAt record 0) ∧ w.xFull = BitVec.allOnes 32 ∧ w.qFull = 0 ∧
          (∀ r : Reg, r ≠ 0 → w.readX r = recordValue record r.toNat) ∧ w.csr.taskret = taskretOf record prio ∧
          (∀ p, w.latch p = if p.toNat < 16 then ⟨.full, 0⟩ else ⟨.empty, 0⟩) ∧ w.seq = 0 ∧ w.ended = false) ∧
      (∀ off, v.job = .loadImage off →
        ∃ t, exec .hartLoadComplete s = .next t ∧ others t ∧ t.mem = s.mem ∧
          let w := t.hart h
          w.st = .running ∧ w.job = .none ∧ w.pc = BitVec.ofNat 64 (wordAt loaded 0) ∧
          (∀ r : Reg, r ≠ 0 → w.readX r = BitVec.ofNat 64 (wordAt loaded (8 * r.toNat)) ∧
            w.isFull r = (wordAt loaded 320).testBit r.toNat))) ∧
    (∀ off k, s.cur = h → k < 30 → v.jobDue = now + 1 + 16 * (29 - k) → off + 1920 ≤ 0x40000 →
      (v.job = .loadImage off → others s.transferSlot ∧ s.transferSlot.mem = s.mem ∧ s.transferSlot.hart h = { v with
        issueFrom := now + 1, loaded := loaded ++ Memory.readBytes s.mem (spadKey h.core (off + 64 * k)) 64 }) ∧
      (v.job = .save off → ∃ pending, s.transferSlot.mem = Memory.writeBytes s.mem (spadKey h.core (off + 64 * k))
        (((v.prefixImage s.refTime ++ v.portImage pending).drop (64 * k)).take 64))) ∧
    (∀ off, s.arg = .hart h → v.job = .save off → v.st = .running ∨ v.st = .parked → v.jobDue ≤ now → v.flights = [] →
      (s.core h.core).lists = [] →
      ∃ t, exec .hsaveDrainComplete s = .next t ∧ others t ∧ t.mem = s.mem ∧ (t.hart h).st = .saving ∧
        (t.hart h).job = .save off ∧ (t.hart h).jobDue = firstSlot h.hart (now + 1) + 16 * 29 + 1) ∧
    (∀ off, s.arg = .hart h → v.job = .save off → v.st = .saving → v.jobDue ≤ now →
      ∃ t, exec .hartSaveComplete s = .next t ∧ others t ∧ (t.hart h).st = .off ∧ (t.hart h).job = .none ∧ t.mem = s.mem) ∧
    (∀ off, s.arg = .hart h → v.st = .running → v.flights = [] →
      (v.job = .portSave off ∨ v.job = .portLoad off → v.jobDue = 0 →
        exec .portImageTransferComplete s = .next (s.setHart h { v with
          jobDue := firstSlot h.hart (now + 1) + 16 * 19 + 1, loaded := [], issueFrom := now + 1 })) ∧
      (v.job = .portSave off → v.jobDue ≠ 0 → v.jobDue ≤ now →
        exec .portImageTransferComplete s = .next (s.setHart h { v.next with job := .none, jobDue := 0, loaded := [] })) ∧
      (v.job = .portLoad off → v.jobDue ≠ 0 → v.jobDue ≤ now →
        ∃ t, exec .portImageTransferComplete s = .next t ∧ (t.hart h).pc = v.pc + 4 ∧ (t.hart h).job = .none ∧
          t.mem = s.mem ∧ others t ∧ (t.hart h).seq = BitVec.ofNat 8 (wordAt loaded 1024) ∧
          ∀ i : Fin 16, (t.hart h).latch (BitVec.ofNat 6 i.val) =
            ⟨.full, BitVec.ofNat 512 (leNat ((loaded.drop (64 * i.val)).take 64))⟩)) ∧
    (∀ core target rd stub, s.arg = .core core → core ≠ target → (s.core core).migration = some ⟨target, rd⟩ →
      (s.core core).lists = [] → s.coreDrained core = true → s.freeStub (dieOf core) = some stub →
      (∀ i : HartId, (s.hart ⟨core, i⟩).st = .off ∨ (s.hart ⟨core, i⟩).job = .migrate) →
      ∃ t, exec .cmigComplete s = .next t ∧ (t.core core).ctx = none ∧ (∀ i, (t.hart ⟨core, i⟩).st = .off) ∧
        (t.core target).ctx = (s.core core).ctx ∧ (t.core target).tasks.length = (s.core core).tasks.length ∧
        (∀ o, o < 2 ^ 18 → Memory.wf s.mem = true → Memory.read t.mem (spadKey target o) = Memory.read s.mem (spadKey core o)) ∧
        ∃ p, tableGet (t.die (dieOf core)).stubs stub = some p ∧ p.st = .quiet ∧ p.ctx = true ∧
          p.region = BitVec.ofNat 36 core ∧ p.request = some target)

/-- R30 to R32, R39, R47, R52, R161, R184, R195, R363, R364, R367, R425: a hart ends its task as the release of its `hstop` has
performed, OFF with its exit value, and a task that returns sends it; `hop` sends the record and leaves the hart OFF; a parked
hart whose condition holds wakes, to issue from the second die cycle after; a quantum that has run out sets mip bit 16; in a
slot of its own a hart takes the oldest deferred fault, an interrupt, or an upcall. The model's choices: logs 16, 43, 101. -/
def Obligations.HartEndsWakesAndTraps : Prop :=
  ∀ (s : State) (h : HartRef), s.arg = .hart h →
    let v := s.hart h
    let now := s.coreCycle h.core
    let others (t : State) := ∀ g : HartRef, g ≠ h → t.hart g = s.hart g
    let slot := v.st = .running ∧ v.job = .none ∧ v.issueFrom ≤ now ∧ now % 16 = h.hart.val ∧
      (s.die (dieOf h.core)).halted = false
    let toS (cause : Nat) (d : Word) := v.mode ≠ .machine ∧ d.getLsbD cause = true
    (∀ release, v.job = .stopping release → v.st = .running → v.jobDue ≤ now → v.flights = [] → s.outstanding [release] = [] →
      v.upReserved = false → (∀ r ∈ s.reqs, r.image = none) →
      ∃ t, exec .hstopComplete s = .next t ∧ (t.hart h).st = .off ∧ (t.hart h).exitVal = v.readX 10 ∧ (t.hart h).ended = true ∧
        t.mem = s.mem ∧ (v.csr.taskret.getLsbD 63 = true → (∀ r ∈ s.reqs, r.id < s.nextId) →
          ∃ r ∈ t.reqs, r.op = .message (v.csr.taskret.extractLsb' 0 33 |>.zeroExtend 64) (v.readX 10)) ∧
        (v.csr.taskret.getLsbD 35 = true → ∃ m ∈ t.msgs, ∃ ctx faulted code addr who,
          m.body = .taskEnd (Fin.ofNat 16 (v.csr.taskret.extractLsb' 36 4).toNat) (v.csr.taskret.extractLsb' 40 8).toNat
            ctx faulted code addr who)) ∧
    (∀ home mask n, v.job = .hopping home mask n → v.st = .running → v.flights = [] → s.niFull h.core = false →
      v.upReserved = false → v.csr.upstat.getLsbD 0 = false → (∀ r ∈ s.reqs, r.id < s.nextId ∧ r.image = none) →
      ∃ t r, exec .hopSend s = .next t ∧ (t.hart h).st = .off ∧ (t.hart h).ended = true ∧ (t.hart h).exitVal = 0 ∧ t.mem = s.mem ∧
        r ∈ t.reqs ∧ r.op = .record (v.csr.taskret.extractLsb' 33 2) false ∧ r.addr = home ∧
        r.data.take 8 = leBytes (v.pc + 4).toNat 8) ∧
    (v.st = .parked → v.job = .none → s.interruptDue h = none → s.faultPending h = none → s.upcallDue h = none →
      (s.waitHolds h = true → v.wait ≠ .interrupt → ∃ t, exec .hartWake s = .next t ∧ others t ∧ t.mem = s.mem ∧
        t.hart h = { v with
          st := .running, wait := .none, issueFrom := now + 2, quantumCount := (t.hart h).quantumCount
          quantumSince := (t.hart h).quantumSince }) ∧
      (s.waitHolds h = false → exec .hartWake s = .next s)) ∧
    (v.st = .running ∨ v.st = .parked → v.csr.quantumLimit ≠ 0 → v.csr.quantumLimit.toNat ≤ v.ticksCounted s.refTime →
      ∃ t, exec .quantumExpiry s = .next t ∧ others t ∧ t.mem = s.mem ∧ t.hart h = { v with
        quantumCount := v.ticksCounted s.refTime % v.csr.quantumLimit.toNat, quantumSince := s.refTime
        csr := { v.csr with mip := v.csr.mip ||| 0x10000 } }) ∧
    (slot → v.wait = .none → ((s.core h.core).watch[h.hart]).valid = false →
      (∀ f, s.faultDue h = some f → f.cause < 64 → ∃ t, exec .deferredFaultTrap s = .next t ∧ others t ∧ t.mem = s.mem ∧
        let w := t.hart h
        let address := BitVec.ofNat 64 (0xC * 2 ^ 60 + (dieOf h.core).val * 2 ^ 28 + 0x300000 + 32 * f.record)
        w.pending = v.pending.drop 1 ∧
        if toS f.cause v.csr.medeleg then
          w.mode = .supervisor ∧ w.csr.sepc = v.pc ∧ w.csr.stval = address ∧ w.csr.scause = BitVec.ofNat 64 f.cause
        else w.mode = .machine ∧ w.csr.mepc = v.pc ∧ w.csr.mtval = address ∧ w.csr.mcause = BitVec.ofNat 64 f.cause) ∧
      (s.faultDue h = none → ∀ c, s.interruptDue h = some c → ∃ t, exec .interruptTrap s = .next t ∧ others t ∧
        t.mem = s.mem ∧
        let w := t.hart h
        if toS c v.csr.mideleg then
          w.mode = .supervisor ∧ w.csr.sepc = v.pc ∧ w.csr.scause = BitVec.ofNat 64 (2 ^ 63 + c) ∧ w.csr.stval = 0
        else w.mode = .machine ∧ w.csr.mepc = v.pc ∧ w.csr.mcause = BitVec.ofNat 64 (2 ^ 63 + c) ∧ w.csr.mtval = 0) ∧
      (s.faultDue h = none → s.interruptDue h = none → ∀ u, s.upcallDue h = some u →
        ∃ t, exec .upcallEntry s = .next t ∧ others t ∧ t.mem = s.mem ∧
          let w := t.hart h
          w.pc = v.csr.upvec &&& ~~~ 3#64 ∧ w.csr.upepc = v.pc ∧ w.csr.upcause = u.code.zeroExtend 64 ∧ w.csr.upval = u.addr ∧
          w.csr.upstat.getLsbD 0 = true ∧ w.upReserved = true ∧ w.mode = v.mode ∧ w.x = v.x))


/-- R40, R41, R45, R46, R49, R51, R79, R170, R181: autostart gives the lowest OFF hart that its mask admits the oldest task of the
lowest priority, among those present before the die cycle, and none of a priority above AUTOPRIO; a record that arrives at a core with room joins its queue, and a message fills its empty q-register; a
refused one changes nothing there. A store to CORECTL sets its fields, and one to FWSTAT with bit 63 clears PEND and COUNT.
The model's choices: logs 61, 82. -/
def Obligations.ClaimsAndArrivals : Prop :=
  ∀ (s : State) (core : Nat) (i : HartId) (r : Req) (val : Word),
    let c := s.core core
    let now := s.coreCycle core
    let answers (t : State) (a : Answer) := t.reqs = s.reqs.map fun q => if q.id = r.id then { r with stage := .answered a } else q
    let here := s.arg = .request r.id ∧ s.req? r.id = some r ∧ s.arrivedHere r = true ∧ r.seq = none ∧ r.parts = [] ∧
      ∀ d a b e, r.src ≠ .foreign d a b e
    (s.arg = .core core → c.autostart = true → c.migration = none → c.lastClaim ≤ now → s.slotPending core = false →
      (s.hart ⟨core, i⟩).st = .off → i ≠ 0 → c.automask.getLsbD i.val = true →
      (∀ j : HartId, j ≠ 0 → j < i → c.automask.getLsbD j.val = true → (s.hart ⟨core, j⟩).st ≠ .off) →
      (∀ (before after : List Task) (e : Task), c.tasks = before ++ e :: after → e.cycle < now → e.prio ≤ c.autoprio →
        (∀ f ∈ before, f.cycle < now → f.prio ≠ e.prio) → (∀ f ∈ c.tasks, f.cycle < now → e.prio ≤ f.prio) → e.part ≠ .resume →
        ∃ t, exec .autostartClaim s = .next t ∧ (t.core core).tasks = before ++ after ∧ (t.core core).lastClaim = now + 1 ∧
          (t.hart ⟨core, i⟩).st = .loading ∧ (t.hart ⟨core, i⟩).job = .loadRecord e.record e.prio 0 e.line ∧
          (t.hart ⟨core, i⟩).ended = false ∧ t.mem = s.mem ∧
          ∀ g : HartRef, g ≠ ⟨core, i⟩ → t.hart g = s.hart g) ∧
      ((∀ f ∈ c.tasks, f.cycle < now → c.autoprio < f.prio) → exec .autostartClaim s = .next s)) ∧
    (here → ∀ prio, r.op = .record prio false → (∃ k, s.recordAway r = .keys k) → s.homeCore r = .inr core → s.recordStub r = none →
      (c.migration = none → (c.tasks.filter fun t => t.part == .remote).length < 40 →
        ∃ t, exec .taskRecordArrival s = .next t ∧ answers t (.done []) ∧ t.mem = s.mem ∧
          t.core core = { c with tasks := c.tasks ++ [⟨r.data, prio, .remote, now, none⟩] }) ∧
      (40 ≤ (c.tasks.filter fun t => t.part == .remote).length →
        ∃ t, exec .taskRecordArrival s = .next t ∧ answers t .refused ∧ t.core core = c ∧ t.mem = s.mem)) ∧
    (here → ∀ target, r.op = .message target val → (target.extractLsb' 11 7).toNat < 80 →
      let home := 1280 * (target.extractLsb' 18 2).toNat + 16 * (target.extractLsb' 11 7).toNat + (target.extractLsb' 7 4).toNat
      let h : HartRef := ⟨home, Fin.ofNat 16 (target.extractLsb' 3 4).toNat⟩
      let q : BitVec 3 := target.extractLsb' 0 3
      let v := s.hart h
      s.coreStub r home = none → s.coreRefuses r home = none → (s.core home).migration = none →
      (v.st = .running ∨ v.st = .parked → v.job = .none → v.qFull.getLsbD q.toNat = false →
        ∃ t, exec .messageArrival s = .next t ∧ answers t (.done []) ∧ t.mem = s.mem ∧
          t.hart h = { v with q := v.q.set q.toNat val (q.isLt), qFull := v.qFull ||| (1#8 <<< q.toNat) } ∧
          ∀ g : HartRef, g ≠ h → t.hart g = s.hart g) ∧
      (v.st = .off ∨ v.st = .saving ∨ v.st = .loading ∨ v.qFull.getLsbD q.toNat = true →
        ∃ t, exec .messageArrival s = .next t ∧ answers t .refused ∧ t.hart h = v ∧ t.mem = s.mem)) ∧
    (s.arg = .store ⟨core, 0⟩ val → ∃ t, exec .corectlWrite s = .next t ∧ t.mem = s.mem ∧
      t.core core = { c with
        autostart := val.getLsbD 0, automask := val.extractLsb' 0 16 &&& 0xFFFE, autoprio := val.extractLsb' 16 2 }) ∧
    (s.arg = .store ⟨core, i⟩ val → ∃ t, exec .fwstatWrite s = .next t ∧ t.mem = s.mem ∧
      t.core core = if val.getLsbD 63 then { c with fwPend := false, fwCount := 0 } else c)

/-- R55, R129, R190, R191, R199, R371 to R375: a member's report whose releases have performed counts at the root once, and the
last one sends the generation's completion to every member and clears the group; at a member a parked `gbar` goes on past
itself; an overlay update changes its page's entry alone, a table of 16 taking no further page, and the instruction goes on;
the oldest fault found is written at HEAD, VALID, and becomes pending at its hart. The model's choices: logs 40, 50, 89, 92, 100. -/
def Obligations.BarrierAndRecordSteps : Prop :=
  ∀ (s : State) (n : Nat) (h : HartRef),
    let v := s.hart h
    (∀ ctx gid core sum max min waits (c : Ctx) (g : Group) m, s.arg = .request n →
      s.msg? n = some (.barrierReport ctx gid core sum max min waits) → s.outstanding waits = [] → s.ctx? ctx = some c →
      c.groups.find? (fun x => x.gid == gid) = some g → c.window.idxOf? core = some m → m ∈ g.members → m ∉ g.reported →
      (∀ x ∈ s.msgs, x.id < s.nextId) → s.routeOpen (dieOf core) (s.rootDie ctx gid core) = true →
      ∃ t c', exec .barrierArrivalReport s = .next t ∧ t.mem = s.mem ∧ t.ctx? ctx = some c' ∧ t.msg? n = none ∧
        if ∀ k ∈ g.members, k = m ∨ k ∈ g.reported then
          (∃ g' ∈ c'.groups, g'.gid = gid ∧ g'.reported = [] ∧ g'.sum = none ∧ g'.max = none ∧ g'.min = none) ∧
          ∀ k ∈ g.members, ∃ x ∈ t.msgs, ∃ a b d, x.body = .barrierDone ctx gid (c.window.getD k 0) a b d
        else (∃ g' ∈ c'.groups, g'.gid = gid ∧ g'.reported = m :: g.reported) ∧ t.msgs = s.msgs.filter (·.id != n)) ∧
    (∀ ctx gid sum max min pc, s.arg = .request n → s.msg? n = some (.barrierDone ctx gid h.core sum max min) →
      s.routeOpen (s.rootDie ctx gid h.core) (dieOf h.core) = true → v.arrived = some ⟨gid, none, 0, 0, pc⟩ → v.st = .parked → v.wait = .barrier → v.job = .none →
      (∀ i : HartId, i ≠ h.hart → (s.hart ⟨h.core, i⟩).arrived = none) →
      ∃ t, exec .barrierCompletionArrival s = .next t ∧ t.mem = s.mem ∧ (t.hart h).pc = v.pc + 4 ∧ (t.hart h).st = .running ∧
        (t.hart h).arrived = none ∧ (t.hart h).x = v.x ∧ (t.hart h).issueFrom = s.coreCycle h.core + 2 ∧
        (t.core h.core).arrivals = (s.core h.core).arrivals.filter (fun a => a.gid != gid)) ∧
    (∀ page target c (x : Ctx), s.arg = .hart h → v.job = .overlay page target → v.st = .running →
      (s.core h.core).ctx = some c → s.ctx? c = some x →
      ∃ t x', exec .overlayUpdateComplete s = .next t ∧ t.mem = s.mem ∧ t.ctx? c = some x' ∧
        (t.hart h).pc = v.pc + 4 ∧ (t.hart h).job = .none ∧
        (16 ≤ (x.overlays.filter (·.1 ≠ page)).length → target ≠ none → x'.overlays = x.overlays) ∧
        ((x.overlays.filter (·.1 ≠ page)).length < 16 ∨ target = none →
          ∀ o, o ∈ x'.overlays ↔ (o ∈ x.overlays ∧ o.1 ≠ page) ∨ (o.1 = page ∧ target = some o.2))) ∧
    (∀ d f, s.arg = .die d → (s.die d).lastWrite ≤ s.cycle d → s.bufferFull d = false →
      (s.die d).holding = [] → (s.die d).found = [f] → f.settles = none → f.slot = none →
      ∃ t w, exec .faultRecordWrite s = .next t ∧ t.mem = s.mem ∧
        tableGet (t.die d).records ((s.die d).fbHead.toNat % 256) = some w ∧
        w = (f.w0 ||| 0x1000, f.w1, f.w2, f.detail ++ BitVec.ofNat 48 s.refTime) ∧
        (t.die d).fbHead = (s.die d).fbHead + 1 ∧ (t.die d).fbNew = true ∧ (t.die d).found = [] ∧
        (f.hart = some h → v.st = .running ∨ v.st = .parked →
          (t.hart h).pending = v.pending ++ [⟨f.cause, (s.die d).fbHead.toNat % 256, s.coreCycle h.core, none⟩]))


/-! ### Requests (R73 to R79, R117 to R125, R160, R177, R264, R265, R366, R367, R403) -/

/-- R73 to R79, R85, R117, R118, R123, R160, R177 to R179, R264, R403: a request whose turn has come leaves for its home, with the
lowest number that its core has outstanding, and a write with the next number of its core; there a store writes its bytes, a load answers with the bytes, an atomic writes the
combined value and answers with the old one, LR reserves the granule, and a counted arrival adds 1 to bits [47:0] of its flag word or to its
FILLING tile, which is READY in a new generation as the count is reached. The model's choices: logs 10, 21, 74, 89, 90. -/
def Obligations.RequestsPerform : Prop :=
  ∀ (s : State) (r : Req) (keys : List Nat),
    let device := s.device.toNat
    let answers (t : State) (a : Answer) := t.reqs = s.reqs.map fun q => if q.id = r.id then { r with stage := .answered a } else q
    let read := keys.map (Memory.read s.mem)
    let mine := ∃ h, r.src = .hart h
    s.arg = .request r.id → s.req? r.id = some r → r.kind = .access → mine →
    (∀ die, r.stage = .queued → s.ready r = true → s.maySend r = true → s.wayOf r = .go device die → s.routeHeld r = false →
      let sent (q : Req) := { q with
        stage := .sent, route := some (device, die.val), via := some (device, die.val), sentAt := s.time, sentNo := s.sends }
      ((∃ n, r.op = .read n) → ∃ t, exec .niRequestSend s = .next t ∧ t.mem = s.mem ∧ t.sends = s.sends + 1 ∧
        t.reqs = s.reqs.map fun q => if q.id = r.id then sent { r with low := s.lowOf r } else q) ∧
      (r.op = .write → r.seq = none → s.numbersOf r.core = [] → ((∃ a, r.arrival = .flag a) → s.linkMode = 0) →
        ∃ t, exec .niRequestSend s = .next t ∧ t.mem = s.mem ∧ t.sends = s.sends + 1 ∧
        (t.core r.core).niSeq = (s.core r.core).niSeq + 1 ∧
        t.reqs = s.reqs.map fun q => if q.id = r.id then
          sent { r with seq := some (s.core r.core).niSeq, low := (s.core r.core).niSeq } else q)) ∧
    (s.arrivedHere r = true → r.parts = [] → r.seq = none → s.locate r = .keys keys →
      (∀ k ∈ keys, k < 2 ^ 45) → s.anyPoisoned keys = false →
      (r.op = .write → s.namesRegister r = false →
        (r.arrival = .none → ∃ t, exec .remoteStorePerform s = .next t ∧ answers t (.done []) ∧
          t.mem = Memory.writeKeys s.mem (keys.zip r.data)) ∧
        (∀ a, r.arrival = .flag a → ∃ t, exec .remoteStorePerform s = .next t ∧
          t.mem = Memory.writeKeys s.mem (keys.zip r.data) ∧ t.reqs = s.reqs.map fun q => if q.id = r.id then
            { r with op := .arrivalOnly, addr := a, data := [], arrival := .none, stage := .performed } else q)) ∧
      ((∃ n, r.op = .read n) → ∃ t, exec .remoteLoadPerform s = .next t ∧ answers t (.done read) ∧ t.mem = s.mem) ∧
      (∀ h dbl, r.op = .lr dbl → r.src = .hart h → (s.hart h).lr = some r.id → ∃ t, exec .remoteLoadPerform s = .next t ∧ answers t (.done read) ∧
        t.mem = s.mem ∧ (t.hart h).resv = some ⟨keys.headD 0 / 8 * 8, some r.addr⟩) ∧
      (∀ op dbl v e, r.op = .atomic op dbl v e → r.arrival = .none →
        let w := if dbl then 8 else 4
        let old := leNat read
        let new := atomicValue op (8 * w) old (v.toNat % 2 ^ (8 * w)) (e.toNat % 2 ^ (8 * w))
        ∃ t, exec .remoteAtomicPerform s = .next t ∧ answers t (.done read) ∧
          t.mem = if op = .cas ∧ old ≠ e.toNat % 2 ^ (8 * w) then s.mem else Memory.writeKeys s.mem (keys.zip (leBytes new w))) ∧
      (∀ a i c off win, r.op = .write → r.arrival = .tile a i → s.place r.core r.addr = some (.spad c off win) →
        (s.core c).nextTile ≤ s.coreCycle c → s.coreTurn c = true → (∀ q ∈ s.reqs, q.parts = []) → i.toNat < 64 →
        let tile := (s.core c).tile i.toNat
        (tile.st = .filling → ∃ t, exec .tileArrival s = .next t ∧ answers t (.done []) ∧
          t.mem = Memory.writeKeys s.mem (keys.zip r.data) ∧ (t.core c).nextTile = s.coreCycle c + 1 ∧
          (t.core c).tile i.toNat = if tile.arrived.toNat + 1 < tile.expect.toNat then { tile with arrived := tile.arrived + 1 }
            else { tile with arrived := tile.expect, st := .ready, gen := tile.gen + 1 }) ∧
        (tile.st = .empty ∨ tile.st = .draining → ∃ t, exec .tileArrival s = .next t ∧ answers t .refused ∧ t.mem = s.mem))) ∧
    (∀ c off, s.arrivedHere r = true → r.seq = none → r.op = .arrivalOnly → r.arrival = .none →
      s.place r.core r.addr = some (.spad c off 0) → s.coreStub r c = none → s.coreRefuses r c = none →
      (s.core c).migration = none → (s.core c).nextFlag ≤ s.coreCycle c → s.coreTurn c = true → s.anyPoisoned [spadKey c off] = false → spadKey c off < 2 ^ 45 →
      let word := leNat (Memory.readBytes s.mem (spadKey c off) 8)
      ∃ t, exec .flagArrival s = .next t ∧ answers t (.done []) ∧ (t.core c).nextFlag = s.coreCycle c + 1 ∧
        t.mem = Memory.writeBytes s.mem (spadKey c off)
          (leBytes (word - word % 2 ^ 48 + (word % 2 ^ 48 + 1) % 2 ^ 48) 8) ∧
        (word.testBit 63 = true → (t.core c).fwPend = true ∧ (t.core c).fwLastOff = BitVec.ofNat 18 off) ∧
        (word.testBit 63 = false → (t.core c).fwPend = (s.core c).fwPend))

/-- R120, R124, R125, R265, R365 to R367: an answer fills the register of its request, which is gone; an acknowledgement alone
completes a write; a refused request goes again after 64, 128, … die cycles, at most 8192, and after 16 of them is faulted; a
faulted one waits for its record, or where an upcall takes it, in the retry buffer, and a faulted fetch for its hart's slot
(DEDUCED, log 22); a load decodes with the NANPAY of its hart as it fills (DESIGN CHOICE, log 96); a
release or an acquire whose set has completed fills its register with 0 and is gone. The model's choices: logs 22, 89, 96. -/
def Obligations.RequestsComplete : Prop :=
  ∀ (s : State) (r : Req) (h : HartRef), s.arg = .request r.id → s.req? r.id = some r → r.src = .hart h → r.windows = [] →
    r.image = none →
    let v := s.hart h
    let staged (t : State) (x : Stage) := t.reqs = s.reqs.map fun q => if q.id = r.id then { r with stage := x } else q
    let gone (t : State) := t.reqs = s.reqs.filter fun q => q.id != r.id
    (∀ data, r.kind = .access → r.stage = .answered (.done data) → s.answerHere r = true →
      (r.op = .write → r.dest = .none → r.arrival = .none →
        ∃ t, exec .acknowledgementArrival s = .next t ∧ gone t ∧ t.hart h = v ∧ t.mem = s.mem) ∧
      (∀ rd dbl, r.dest = .xreg rd dbl → v.st = .running → v.job = .none →
        ∃ t, exec .splitPhaseFill s = .next t ∧ gone t ∧ t.mem = s.mem ∧ t.hart h = v.fill rd
          (if dbl then BitVec.ofNat 64 (leNat data) else (BitVec.ofNat 32 (leNat data)).signExtend 64)) ∧
      (∀ rd f, r.dest = .load rd f → v.st = .running → v.job = .none →
        ∃ t, exec .splitPhaseFill s = .next t ∧ gone t ∧ t.mem = s.mem ∧
          t.hart h = v.fill rd (loadValue (v.csr.compat.getLsbD 2) f data))) ∧
    (r.stage = .answered .refused → s.answerHere r = true → s.retriesOf r.core < 32 → r.retries < 16 →
      exec .negativeAcknowledgement s = .next (s.setReq { r with
        stage := .retry (s.coreCycle r.core + min (64 * 2 ^ r.retries) 8192), retries := r.retries + 1 })) ∧
    (r.stage = .answered .refused → s.answerHere r = true → r.retries = 16 →
      ((∀ l, r.dest ≠ .fetch l) → (∀ a x, r.dest ≠ .staged a x) →
        ∃ t, exec .negativeAcknowledgement s = .next t ∧ staged t (.recorded 0x31) ∧ t.mem = s.mem) ∧
      (∀ l k, r.dest = .fetch l → r.op = .read k → v.fetching = some r.id →
        exec .negativeAcknowledgement s = .next (s.setReq { r with stage := .answered (.faulted 0x31 r.addr 16) }))) ∧
    (∀ due die, r.stage = .retry due → due ≤ s.coreCycle r.core → (s.die (dieOf r.core)).halted = false →
      s.wayOf r = .go s.device.toNat die → ∃ t q, exec .retrySend s = .next t ∧ t.mem = s.mem ∧
        t.reqs = (s.reqs.map fun x => if x.id = r.id then q else x) ∧ q.stage = .sent ∧ q.route = some (s.device.toNat, die.val) ∧
        q.op = r.op ∧ q.addr = r.addr ∧ q.data = r.data ∧ q.dest = r.dest) ∧
    (∀ code addr detail, r.stage = .answered (.faulted code addr detail) → s.answerHere r = true → (∀ l, r.dest ≠ .fetch l) →
      (∀ a x, r.dest ≠ .staged a x) →
      (code.toNat / 16 ≠ 4 ∨ r.user = false ∨ v.csr.upvec = 0 → ∃ t, exec .remoteFaultArrival s = .next t ∧
        staged t (.recorded code) ∧ t.mem = s.mem) ∧
      (code.toNat / 16 = 4 → r.user = true → v.csr.upvec ≠ 0 → v.st = .running → ∃ t, exec .remoteFaultArrival s = .next t ∧
        staged t (.faulted code addr) ∧ t.mem = s.mem ∧ (t.hart h).upcalls = v.upcalls ++ [⟨code, addr, r.id⟩])) ∧
    (∀ scope rd, r.kind = .release scope → s.ready r = true → r.dest = .xreg rd true → v.st = .running → v.job = .none →
      ∃ t, exec .releasePerform s = .next t ∧ gone t ∧ t.mem = s.mem ∧
        t.hart h = { v.fill rd 0 with windowsUsed := if scope = 3 then [] else v.windowsUsed }) ∧
    (∀ rd, r.kind = .acquire → s.ready r = true → s.answerHere r = true → r.id ∉ r.waits → r.dest = .xreg rd true →
      v.st = .running → v.job = .none →
      ∃ t, exec .splitPhaseFill s = .next t ∧ gone t ∧ t.mem = s.mem ∧ t.hart h = v.fill rd 0)


/-! ### Translation, ownership and migration (R81 to R92, R161, R187, R312, R390 to R393) -/

/-- R84, R85, R89 to R91, R161, R377, R390: a request whose owner its core does not know learns it from the tables of its die; a home whose
translations miss walks; an invalidation drops the translations of its page and address space that are not global, at each
die once, and ends when all have answered; a redirect and a bounce teach the core, which sends a bounced request again.
The model's choices: logs 18, 58. -/
def Obligations.TranslationSteps : Prop :=
  ∀ (s : State) (n : Nat) (r : Req),
    let answers (t : State) (a : Answer) := t.reqs = s.reqs.map fun q => if q.id = r.id then { r with stage := .answered a } else q
    let learned (old : List OwnerEntry) (e : OwnerEntry) :=
      (e :: old.filter fun x => !(x.asid == e.asid && x.region == e.region)).take 128
    let mine := s.arg = .request r.id ∧ s.req? r.id = some r ∧ r.kind = .access ∧ ∃ h, r.src = .hart h
    (∀ va, mine → r.ni = true → r.stage = .queued → s.routeOf r = none → s.place r.core r.addr = some (.virt va) → r.mapped = true →
      let region := BitVec.ofNat 36 (va / 2 ^ 21)
      let found (device : Nat) (die : DieId) := ∃ t, exec .ownerLookup s = .next t ∧ t.mem = s.mem ∧ t.reqs = s.reqs ∧
        t.core r.core = { s.core r.core with owners := learned (s.core r.core).owners ⟨r.asid, region, device, die⟩ }
      (∀ device die, s.walk (dieOf r.core) true r.asid va = .remote device die → found device die) ∧
      (∀ die, s.walk (dieOf r.core) true r.asid va = .home die → found s.device.toNat die) ∧
      (∀ code, code ≠ 0x35 → s.walk (dieOf r.core) true r.asid va = .fault code →
        ∃ t, exec .ownerLookup s = .next t ∧ answers t (.faulted code r.addr 0)) ∧
      (s.walk (dieOf r.core) true r.asid va = .soft → ownerLookup (s.core r.core).owners r.asid region = none →
        ∃ t, exec .ownerLookup s = .next t ∧ answers t (.tableSoft r.addr))) ∧
    (∀ va u x, mine → s.arrivedHere r = true → r.namesMemory = true →
      s.place r.core r.addr = some (.virt va) → s.locate r = .walk → r.seq = none →
      s.agentLeaf r.die r.asid va r.need (clusterRow r.core) = (u, x) →
      ∃ t, exec .pageWalk s = .next t ∧ t.mem = u.mem ∧ t.reqs = match x with
        | .inl (.fault c) => s.reqs.map fun q =>
          if q.id = r.id then { r with stage := .answered (if c = 0x35 then .tableSoft r.addr else .faulted c r.addr 0) } else q
        | .inl (.away device die) => s.reqs.map fun q =>
          if q.id = r.id then { r with stage := .answered (.bounced device die.val r.parts) } else q
        | _ => s.reqs) ∧
    (∀ d h page asid dies, s.arg = .requestAt n d → s.msg? n = some (.invalidate h page asid dies) → d ∈ dies →
      s.routeOpen (s.msgDie n) d = true →
      ∃ t, exec .tlbInvalidation s = .next t ∧ t.mem = s.mem ∧
        (∀ e, e ∈ (t.die d).tlb ↔ e ∈ (s.die d).tlb ∧ ¬ (
          (∀ a, asid = some a → e.asid = a ∧ e.entry.getLsbD 7 = false) ∧
          (∀ a, page = some a → e.page = if e.large then a.toNat % 2 ^ 57 / 2 ^ 21 else a.toNat % 2 ^ 57 / 2 ^ 16))) ∧
        t.msgs = s.msgs.map fun m => if m.id = n then { m with body := .invalidate h page asid (dies.filter (· ≠ d)) } else m) ∧
    (∀ h page asid, s.arg = .request n → s.msg? n = some (.invalidate h page asid []) →
      ∃ t, exec .sfenceVmaComplete s = .next t ∧ t.msgs = s.msgs.filter (·.id != n) ∧ t.cores = s.cores ∧ t.mem = s.mem) ∧
    (∀ core asid region device die, s.arg = .request n → s.msg? n = some (.redirect core asid region device die) →
      s.routeOpen (s.msgDie n) (dieOf core) = true →
      ∃ t, exec .redirectArrival s = .next t ∧ t.msgs = s.msgs.filter (·.id != n) ∧ t.mem = s.mem ∧ t.reqs = s.reqs ∧
        (t.core core).owners = learned (s.core core).owners ⟨asid, region, device, die⟩) ∧
    (∀ device die parts, mine → r.ni = true → r.stage = .answered (.bounced device die parts) → die < 4 →
      ∃ t, exec .bounceArrival s = .next t ∧ t.mem = s.mem ∧
        (t.core r.core).owners = learned (s.core r.core).owners ⟨r.asid, r.addr.extractLsb' 21 36, device, Fin.ofNat 4 die⟩ ∧
        t.reqs = s.reqs.map fun q => if q.id = r.id then { r with stage := .queued, hops := 0, route := none, parts := parts } else q)

/-- R86 to R92, R187, R312, R434: the owner of a region answers its own device's request with 1, and another's with a COPYING stub; each
chunk is sent as the bytes that its leaf gives at the owner, 0 where it has none or its stack is not attached, and each that the
new owner holds counts, and after the last the stub forwards; the doorplate sends what comes for the region on to
the new owner; a map update leaves no core and no die an owner entry of the region, and its acknowledgements make the stub QUIET, to be reclaimed 100 µs
after its last forward; the flush markers of a release are gathered, the last of them is answered with one collective completion,
and that completes the writes it covers. The model's choices: logs 53, 57, 79, 80, 89, 95. -/
def Obligations.OwnershipSteps : Prop :=
  ∀ (s : State) (n : Nat) (r : Req) (d : DieId) (i : Nat),
    let answers (t : State) (a : Answer) := t.reqs = s.reqs.map fun q => if q.id = r.id then { r with stage := .answered a } else q
    let sent := s.arg = .request r.id ∧ s.req? r.id = some r ∧ s.arrivedHere r = true ∧ r.seq = none
    (∀ desc va die, sent → r.op = .own desc → s.place r.core r.addr = some (.virt va) → r.mapped = true →
      stubFor (s.die r.die).stubs r.asid (regionOf va) = none → s.walk r.die true r.asid va = .home die →
      ((∃ h, r.src = .hart h) → ∃ t, exec .ownRequestArrival s = .next t ∧ answers t (.done (leBytes 1 8)) ∧ t.mem = s.mem) ∧
      (∀ x c h tag, r.src = .foreign x c h tag → x ≠ s.device.toNat → die = r.die →
        (∃ l ∈ s.chunkLeaves r.die r.asid (regionOf va), l ≠ none) → s.freeStub r.die = some i →
        ∃ t, exec .ownRequestArrival s = .next t ∧ t.mem = s.mem ∧ tableGet (t.die r.die).stubs i = some
          ⟨.copying, false, 0, regionOf va, r.asid, BitVec.ofNat 13 x, desc.extractLsb' 21 2, 0, 0, 0, some r.id, false⟩)) ∧
    (∀ stub, s.arg = .stub d i → tableGet (s.die d).stubs i = some stub → stub.st = .copying → stub.sending = false →
      s.livePaths stub.ndev.toNat ≠ [] → (∀ y : DieId, (s.die y).halted = false) →
      let va := stub.region.toNat * 2 ^ 21 + stub.copied.toNat * 2 ^ 16
      let byte (leaf : Nat × Bool) (k : Nat) : Byte :=
        let (x, p) := leafPlace leaf.1 leaf.2 (va + k)
        if s.stackAttached x (channelOf leaf.1 p) = true then Memory.read s.mem (x * 2 ^ 40 + p) else 0
      ∃ t, exec .chunkCopy s = .next t ∧ t.mem = s.mem ∧ tableGet (t.die d).stubs i = some { stub with sending := true } ∧
        ∃ m ∈ t.fabricOut, m.device = stub.ndev.toNat ∧ ∃ bad, m.msg = .chunk stub.asid stub.region stub.copied.toNat
          (match s.chunkLeaf d stub.asid va with
            | some leaf => (List.range 65536).map (byte leaf)
            | none => List.replicate 65536 0) bad) ∧
    (∀ stub, tableGet (s.die d).stubs i = some stub → stubFor (s.die d).stubs stub.asid stub.region = some (i, stub) →
      (∀ x : DieId, x < d → stubFor (s.die x).stubs stub.asid stub.region = none) →
      stub.st = .copying → stub.sending = true →
      let t := s.chunkCopied stub.asid stub.region stub.copied.toNat
      ∃ p, tableGet (t.die d).stubs i = some p ∧
        (stub.copied ≠ 31 → t.mem = s.mem ∧ p = { stub with copied := stub.copied + 1, sending := false }) ∧
        (stub.copied = 31 → p.st = .forwarding ∧ p.copied = 0 ∧ p.ndev = stub.ndev ∧ p.ndie = stub.ndie)) ∧
    (∀ va k die teach, sent → (∃ h, r.src = .hart h) → r.op = .read k → s.place r.core r.addr = some (.virt va) →
      s.regionState r.die r.asid va = some (.forward s.device.toNat die teach) →
      (r.hops < 3 → ∃ t, exec .doorplateForward s = .next t ∧ t.mem = s.mem ∧
        t.reqs = (s.reqs.map fun q => if q.id = r.id then
          { r with stage := .sent, hops := r.hops + 1, route := some (s.device.toNat, die.val), sentAt := s.time, sentNo := s.sends }
          else q) ∧
        (teach = true → r.ni = true → ∃ m ∈ t.msgs, m.body = .redirect r.core r.asid (regionOf va) s.device.toNat die)) ∧
      (3 ≤ r.hops → ∃ t, exec .doorplateForward s = .next t ∧ answers t (.bounced s.device.toNat die.val r.parts) ∧ t.mem = s.mem)) ∧
    (∀ asid g device die fromDie fromStub, s.arg = .request n →
      s.msg? n = some (.mapUpdate asid g device die s.device.toNat fromDie fromStub) →
      (∀ x : DieId, x.val < s.dieCount → s.routeOpen (s.msgDie n) x = true) →
      ∃ t, exec .mapUpdate s = .next t ∧ t.reqs = s.reqs ∧
        t.msgs = s.msgs.filter (·.id != n) ++ [⟨s.nextId, s.msgDie n, .mapUpdateAck fromDie fromStub⟩] ∧
        (∀ c, ∀ e ∈ (t.core c).owners, ¬ (e.asid = asid ∧ e.region = g)) ∧
        ∀ x : DieId, x.val < s.dieCount → ∀ e ∈ (t.die x).owners, ¬ (e.asid = asid ∧ e.region = g)) ∧
    (∀ stub, s.arg = .request n → s.msg? n = some (.mapUpdateAck d i) → tableGet (s.die d).stubs i = some stub → stub.acks ≠ 0 →
      s.routeOpen (s.msgDie n) d = true →
      ∃ t, exec .mapUpdateAck s = .next t ∧ t.mem = s.mem ∧ tableGet (t.die d).stubs i = some { stub with
        acks := stub.acks - 1, st := if stub.acks = 1 ∧ stub.st = .forwarding then .quiet else stub.st }) ∧
    (∀ stub, s.arg = .stub d i → tableGet (s.die d).stubs i = some stub → stub.st = .quiet →
      (stub.fwdAt + 100000 ≤ s.refTime →
        ∃ t p, exec .stubReclaim s = .next t ∧ t.mem = s.mem ∧ tableGet (t.die d).stubs i = some p ∧ p.st = .free) ∧
      (s.refTime < stub.fwdAt + 100000 → exec .stubReclaim s = .next s)) ∧
    (∀ device core release path live, s.arg = .request n → s.msg? n = some (.flushMarker device core release path live) →
      (device, core, release, path) ∉ s.markers → (∀ q ∈ s.reqs, ∀ a b c e, q.src ≠ .foreign a b c e) →
      (∀ y : DieId, (s.die y).halted = false) →
      let same (x : Nat × Nat × Nat × Nat) : Bool := x.1 == device && x.2.1 == core && x.2.2.1 == release
      ∃ t, exec .flushMarker s = .next t ∧ t.mem = s.mem ∧ t.msgs = s.msgs.filter (·.id != n) ∧
        (if (s.markers.filter same).length + 1 < live then
            t.markers = (device, core, release, path) :: s.markers ∧ t.fabricOut = s.fabricOut
          else t.markers = s.markers.filter (!same ·) ∧ (s.replyPaths device ≠ [] →
            ∃ m ∈ t.fabricOut, m.device = device ∧ m.msg = .collectiveCompletion s.device.toNat core release))) ∧
    (∀ device core rel, s.arg = .request n → s.msg? n = some (.collective device core rel.id) → s.req? rel.id = some rel →
      s.routeOpen (s.msgDie n) (dieOf core) = true →
      ∃ t, exec .collectiveCompletion s = .next t ∧ t.mem = s.mem ∧
        ∀ q ∈ s.reqs, q.core = core → q.kind = .access → q.op = .write → q.dest = .none → q.arrival = .none → q.stage = .sent →
          q.ni = true → q.sentNo < rel.sentNo → (∃ k, q.route = some (device, k)) → (∃ h, q.src = .hart h) → ∀ x ∈ t.reqs, x.id ≠ q.id)


/-! ### The engines MX, WB and NI at work (R109, R233 to R249, R261 to R263) -/

/-- R107 to R109, R236 to R239, R241, R244: a step that may start takes its array cycles, and changes its accumulator and no other,
and no byte of memory. An `mx.mm` over an INT8 tile and an INT8 weight slot adds to every element of its accumulator, or to 0
with ZA, the exact sum of the 64 products of its row and its column, modulo 2^32, and tags it INT32. A step over floating
operands accumulates the products of its row and column values group by group into every element of its columns, or into +0
with ZA, and tags it FP32, or FP64 for `mx.mmd`: `mx.mmw` over the columns of two slots, and `mx.mmd` and `mx.mmn` over the
8 columns of one half, the elements outside which `mx.mmn` leaves. The model's choices: logs 97, 110. -/
def Obligations.MatrixSteps : Prop :=
  (∀ (s : State) (n : Nat) (q : Trigger) (rest : List Trigger) (tile : Fin 64) (slot : Fin 64) (acc : Fin 16),
    let c := s.core n
    let t := c.tiles[tile]
    let w := c.weights[slot]
    let row (i : Nat) := t.base.toNat + (q.a.extractLsb' 8 18).toNat + i * (q.a.extractLsb' 32 16).toNat
    let x (i k : Nat) : Int := (Memory.read s.mem (spadKey n (row i) + k)).toInt
    let y (k j : Nat) : Int := (w.data.extractLsb' (8 * (64 * j + k)) 8).toInt
    let za := q.c.getLsbD 0
    let old (i j : Nat) : Int := if za then 0 else (c.accs[acc].data.extractLsb' (32 * (16 * i + j)) 32).toNat
    s.arg = .core n → c.mxq = q :: rest → s.mxMayStart n q = true → q.macroOp = none → q.h.core = n → q.fn = 0 →
    (q.a.extractLsb' 0 6).toNat = tile.val → (q.a.extractLsb' 64 6).toNat = slot.val → (q.b.extractLsb' 0 4).toNat = acc.val →
    t.win = 6 → w.swin = 6 → w.poisoned = false → za = true ∨ c.accs[acc].tag = 1 ∧ c.accs[acc].poisoned = false →
    (∀ i, i < 16 → s.protects q.h q.mode .read s.device.toNat n (row i) 64 = true ∧
      s.anyPoisoned ((List.range 64).map fun k => spadKey n (row i + k)) = false) →
    ∃ u, exec .mxTriggerStart s = .next u ∧ u.mem = s.mem ∧ (u.core n).mxq = rest ∧
      (u.core n).mx = c.mx ++ [⟨q, s.time / 1113840 * 1113840 + 16 * 1113840⟩] ∧
      (∀ a : Fin 16, a ≠ acc → (u.core n).accs[a] = c.accs[a]) ∧
      (u.core n).accs[acc].tag = 1 ∧ (u.core n).accs[acc].poisoned = false ∧
      ∀ i j, i < 16 → j < 16 → (u.core n).accs[acc].data.extractLsb' (32 * (16 * i + j)) 32 =
        BitVec.ofInt 32 (old i j + ((List.range 64).map fun k => x i k * y k j).sum)) ∧
  (∀ (s : State) (n : Nat) (q : Trigger) (rest : List Trigger) (tile : Fin 64) (acc : Fin 16) (wins : List Nat),
    let c := s.core n
    let t := c.tiles[tile]
    let win := t.win.toNat
    let slot := (q.a.extractLsb' 64 6).toNat
    let slots := if q.fn = 1 then [slot, slot + 1] else [slot]
    let wide := q.fn == 2
    let side := if wide then 8 else 16
    let width := if wide then 64 else 32
    let half := 8 * (q.b.extractLsb' 6 1).toNat
    let span := (if q.fn = 1 then 2 else 1) * (if win = 3 ∨ win = 4 then 66 else if win = 5 then 80 else 64)
    let row (i : Nat) := t.base.toNat + (q.a.extractLsb' 8 18).toNat + i * (q.a.extractLsb' 32 16).toNat
    let ftz := q.compat.getLsbD 1
    let pay := q.compat.getLsbD 2
    let x (i : Nat) := stepValues ⟨q.bandsc.toNat, q.compat.getLsbD 0, pay⟩ ftz wide win (Memory.readBytes s.mem (spadKey n (row i)) span)
    let y (j : Nat) := slots.flatMap fun k =>
      stepValues ⟨(c.weight k).sband.toNat, false, pay⟩ ftz wide (c.weight k).swin.toNat (slotColumn (c.weight k) j)
    let column (j : Nat) : Option Nat := if wide then some (half + j) else if q.fn = 3 ∧ ¬ (half ≤ j ∧ j < half + 8) then none else some j
    let za := q.c.getLsbD 0
    let tag : BitVec 2 := if wide then 2 else 0
    let old (i j : Nat) : BitVec width := if za then 0 else c.accs[acc].data.extractLsb' (width * (side * i + j)) width
    let cycles := (if win = 0 ∧ wide = false then 32 else 16) * (if q.fn = 1 then 2 else 1) / (if q.fn = 3 then 2 else 1)
    s.arg = .core n → c.mxq = q :: rest → s.mxMayStart n q = true → q.macroOp = none → q.h.core = n → q.fn.toNat < 4 →
    (q.a.extractLsb' 0 6).toNat = tile.val → (q.b.extractLsb' 0 4).toNat = acc.val →
    wins ∈ ([[0], [1, 7], [2], [3, 4], [5]] : List (List Nat)) → (q.fn = 2 → wins = [0]) → win ∈ wins →
    (∀ k ∈ slots, (c.weight k).swin.toNat ∈ wins ∧ (c.weight k).poisoned = false) →
    za = true ∨ c.accs[acc].tag = tag ∧ c.accs[acc].poisoned = false →
    (∀ i, i < side → s.protects q.h q.mode .read s.device.toNat n (row i) span = true ∧
      s.anyPoisoned ((List.range span).map fun k => spadKey n (row i + k)) = false) →
    ∃ u, exec .mxTriggerStart s = .next u ∧ u.mem = s.mem ∧ (u.core n).mxq = rest ∧
      (u.core n).mx = c.mx ++ [⟨q, s.time / 1113840 * 1113840 + cycles * 1113840⟩] ∧
      (∀ a : Fin 16, a ≠ acc → (u.core n).accs[a] = c.accs[a]) ∧
      (u.core n).accs[acc].tag = tag ∧ (u.core n).accs[acc].poisoned = false ∧
      ∀ i j, i < side → j < side →
        let new := (u.core n).accs[acc].data.extractLsb' (width * (side * i + j)) width
        match column j with
        | some k => elementAccumulated (if wide then fp64 else fp32) pay ftz (if wide then 8 else 32) (old i j).toNat new.toNat
            ((x i).zip (y k))
        | none => new = old i j)

/-- R233, R240, R241, R244, R246 to R248, R261 to R263: `mx.zero` clears its accumulator under its tag; `mx.st` stores the rows of
its accumulator, raw or as its tile's window encodes them, and `mx.ld` takes its rows as that window delivers them, each of a
combination that R240 lists, in 16 array cycles, or 8 of an FP64 accumulator; `wb.clr` clears its slot under its
window, in 2 die cycles, a dense `wb.ld` brings 16 columns of elements and scales through any window, in 20, and a compressed
`wb.ldc` expands them, in 16, each kept element at the position of its mask bit and 0 elsewhere; when its cycles have passed a
trigger of MX or WB leaves flight, and its result latch holds SEQ and the function; `ni.cap` leaves the capability word of
its device, and `ni.win` binds its window to one. The model's choices: logs 29, 85, 110. -/
def Obligations.EngineResults : Prop :=
  ∀ (s : State) (n : Nat) (q : Trigger) (rest : List Trigger) (f : Flight),
    let c := s.core n
    let now := s.coreCycle n
    let v := s.hart q.h
    let filled (t : State) (u : EngineUnit) (r : Wide) :=
      (t.hart q.h).flights = v.flights.filter (fun x => !(x.unit == u && x.seq == q.seq)) ∧
      (t.hart q.h).ring = v.ring.set (q.seq.toNat % 32) (ringWord u f.fn true false) (Nat.mod_lt _ (by decide)) ∧
      (∀ p, (t.hart q.h).latch p = if f.latest ∧ p = resultPort u then ⟨.full, r⟩ else v.latch p) ∧ (t.hart q.h).pc = v.pc
    let flight (u : EngineUnit) := v.flights.find? (fun x => x.unit == u && x.seq == q.seq) = some f
    let status : Wide := BitVec.ofNat 512 (q.seq.toNat + 256 * q.fn.toNat)
    let slot : Fin 64 := Fin.ofNat 64 (q.a.extractLsb' 64 6).toNat
    let acc : Fin 16 := Fin.ofNat 16 (q.b.extractLsb' 0 4).toNat
    s.arg = .core n → q.h.core = n → q.macroOp = none →
    (c.mxq = q :: rest → s.mxMayStart n q = true → q.fn = 8 → ∃ t, exec .mxTriggerStart s = .next t ∧ t.mem = s.mem ∧
      (t.core n).mxq = rest ∧ (t.core n).accs = c.accs.set acc ⟨0, q.b.extractLsb' 4 2, false⟩ ∧
      (t.core n).mx = c.mx ++ [⟨q, s.time / 1113840 * 1113840 + 2 * 1113840⟩]) ∧
    (c.mxq = q :: rest → s.mxMayStart n q = true → q.fn = 9 ∨ q.fn = 10 →
      let tile := c.tiles[Fin.ofNat 64 (q.a.extractLsb' 0 6).toNat]
      let win := tile.win.toNat
      let tag := if q.fn = 9 then c.accs[acc].tag else q.b.extractLsb' 4 2
      let side := if tag = 2 then 8 else 16
      let width := if tag = 2 then 64 else 32
      let row (i : Nat) := tile.base.toNat + (q.a.extractLsb' 8 18).toNat + i * (q.a.extractLsb' 32 16).toNat
      let raw (i : Nat) : List Byte := (List.range 64).map fun k => c.accs[acc].data.extractLsb' (8 * (64 * i + k)) 8
      let context : WinCtx := ⟨q.bandsc.toNat, q.compat.getLsbD 0, q.compat.getLsbD 2⟩
      ∀ (tags wins : List Nat) (rows span merged : Nat), tag.toNat ∈ tags → win ∈ wins →
        (tags, wins, rows, span, merged) ∈ ([([0, 1], [0], 16, 64, 1), ([0], [1, 2, 7], 16, 32, 1), ([1], [6], 16, 16, 1),
          ([2], [0], 8, 64, 1)] ++ (if q.fn = 9 then [([0], [3, 4], 8, 33, 2), ([0], [5], 4, 40, 4)] else []) :
          List (List Nat × List Nat × Nat × Nat × Nat)) →
        (∀ i, i < rows → (q.a.extractLsb' 8 18).toNat + i * (q.a.extractLsb' 32 16).toNat + span ≤ 64 * tile.lines.toNat ∧
          s.protects q.h q.mode (if q.fn = 9 then .write else .read) s.device.toNat n (row i) span = true ∧
          (q.fn = 10 → s.anyPoisoned ((List.range span).map fun k => spadKey n (row i + k)) = false)) →
        (q.fn = 9 → c.accs[acc].poisoned = false) →
        ∃ t, exec .mxTriggerStart s = .next t ∧ (t.core n).mxq = rest ∧
          (t.core n).mx = c.mx ++ [⟨q, s.time / 1113840 * 1113840 + side * 1113840⟩] ∧
          (q.fn = 9 → (t.core n).accs = c.accs ∧ t.mem = Memory.writeKeys s.mem
            ((List.range rows).flatMap fun i =>
              let b := (List.range merged).flatMap fun k => raw (merged * i + k)
              (if win = 0 then b else (windowWrite context win fp32 b).1).zipIdx.map fun (x, k) => (spadKey n (row i + k), x))) ∧
          (q.fn = 10 → t.mem = s.mem ∧ (∀ a : Fin 16, a ≠ acc → (t.core n).accs[a] = c.accs[a]) ∧ (t.core n).accs[acc].tag = tag ∧
            ∀ i j, i < side → j < side → (t.core n).accs[acc].data.extractLsb' (width * (side * i + j)) width =
              BitVec.ofNat width (leNat (((windowRead context win (Memory.readBytes s.mem (spadKey n (row i)) span)).1.drop
                (width / 8 * j)).take (width / 8))))) ∧
    (c.wbq = q :: rest → c.wb = none → s.coreTurn n = true → s.mayRead q = true → s.sourceHolds n 1 (some .wb) = false →
      (∀ m ∈ c.mxq, q.entered ≤ m.entered) →
      (q.fn = 2 → ∃ t, exec .wbTriggerStart s = .next t ∧ t.mem = s.mem ∧ (t.core n).wbq = rest ∧
        (t.core n).wb = some ⟨q, now + 2⟩ ∧
        (t.core n).weights = c.weights.set slot ⟨0, q.a.extractLsb' 18 3, q.bandsc, 0, false⟩) ∧
      (q.fn = 0 ∨ q.fn = 1 → q.a.extractLsb' 60 4 = 8 → q.a.extractLsb' 21 39 = 0 →
        let win := (q.a.extractLsb' 18 3).toNat
        let off (j : Nat) := (q.a.extractLsb' 0 18).toNat + j * (q.a.extractLsb' 80 16).toNat
        let e := if win = 5 then 4 else if win = 3 ∨ win = 4 ∨ win = 6 then 8 else 16
        let groups := 128 / e
        let span := if q.fn = 0 then (if win = 3 ∨ win = 4 then 66 else if win = 5 then 80 else 64)
          else 32 + groups / 2 + (if win = 3 ∨ win = 4 then 2 else if win = 5 then 16 else 0)
        let column (j : Nat) := Memory.readBytes s.mem (spadKey n (off j)) span
        let mask (j g : Nat) := leNat (((column j).drop 32).take (groups / 2)) / 16 ^ g % 16
        let below (j g p : Nat) := ((List.range p).filter fun i => (mask j g).testBit i).length
        (∀ j, j < 16 → s.protects q.h q.mode .read s.device.toNat n (off j) span = true ∧
          s.anyPoisoned ((List.range span).map fun k => spadKey n (off j + k)) = false) →
        (q.fn = 1 → win ≠ 0 ∧ ∀ j g, j < 16 → g < groups → below j g 4 = 2) →
        ∃ t, exec .wbTriggerStart s = .next t ∧ t.mem = s.mem ∧ (t.core n).wbq = rest ∧
          (t.core n).wb = some ⟨q, now + (if q.fn = 1 then 16 else 20)⟩ ∧
          (∀ i : Fin 64, i ≠ slot → (t.core n).weights[i] = c.weights[i]) ∧
          let w := (t.core n).weights[slot]
          w.swin = q.a.extractLsb' 18 3 ∧ w.sband = q.bandsc ∧ w.poisoned = false ∧ ∀ j, j < 16 →
            (q.fn = 0 → w.data.extractLsb' (512 * j) 512 = BitVec.ofNat 512 (leNat
                (if win = 3 ∨ win = 4 then (column j).take 32 ++ ((column j).drop 33).take 32
                  else if win = 5 then (column j).take 32 ++ ((column j).drop 40).take 32 else column j)) ∧
              (win = 3 ∨ win = 4 → w.scales.extractLsb' (128 * j) 128 =
                BitVec.ofNat 128 (leNat (((column j).drop 32).take 1 ++ (column j).drop 65))) ∧
              (win = 5 → w.scales.extractLsb' (128 * j) 128 =
                BitVec.ofNat 128 (leNat (((column j).drop 32).take 8 ++ (column j).drop 72)))) ∧
            (q.fn = 1 → w.scales.extractLsb' (128 * j) 128 = BitVec.ofNat 128 (leNat ((column j).drop (32 + groups / 2))) ∧
              ∀ g p, g < groups → p < 4 → w.data.extractLsb' (512 * j + e * (4 * g + p)) e =
                if (mask j g).testBit p then
                  BitVec.ofNat e (leNat ((column j).take 32) / 2 ^ (e * (2 * g + below j g p)) % 2 ^ e)
                else 0))) ∧
    (∀ due, c.wb = some ⟨q, due⟩ → due ≤ now → flight .wb →
      ∃ t, exec .wbResultFill s = .next t ∧ t.mem = s.mem ∧ filled t .wb status ∧ (t.core n).wb = none) ∧
    (∀ due others, c.mx = ⟨q, due⟩ :: others → due ≤ s.time → s.edgeFrom (dieOf n) due + 3 ≤ now → flight .mx →
      ∃ t, exec .mxResultFill s = .next t ∧ t.mem = s.mem ∧ filled t .mx status ∧ (t.core n).mx = others) ∧
    (c.niq = q :: rest → q.cycle < now → s.mayWrite q = true → flight .ni →
      (q.fn = 52 → ∃ t, exec .niLocalTriggerComplete s = .next t ∧ t.mem = s.mem ∧ (t.core n).niq = rest ∧
        filled t .ni (BitVec.ofNat 512 (s.capability (q.a.extractLsb' 0 13).toNat).toNat)) ∧
      (q.fn = 48 → ∀ ctx (x : Ctx) p, c.ctx = some ctx → s.ctx? ctx = some x →
        tableGet x.windows (q.a.extractLsb' 0 6).toNat = some p → p.issued = p.acked →
        ∃ t x', exec .niLocalTriggerComplete s = .next t ∧ t.mem = s.mem ∧ (t.core n).niq = rest ∧ filled t .ni 0 ∧
          t.ctx? ctx = some x' ∧
          tableGet x'.windows (q.a.extractLsb' 0 6).toNat = some { p with device := some (q.a.extractLsb' 6 13) }))

/-! ### The copy engine (R250 to R256, R422) -/

/-- R250, R252 to R256, R422: an active list that reaches a command that keeps its limits puts it in progress, with its number of
rows, and, under revision 1 for a flagged or tile-tagged one, after a release, and goes on 64 bytes later; END ends it, WAIT holds it until its word is reached, and LINK goes on elsewhere. A command
that fails them ends a list with nothing in progress. A queued trigger becomes a list while fewer than 8 are active; a transfer
of FILL stores its pattern; a command with nothing left leaves, and the last one of a closed list completes its trigger.
The model's choices: logs 19, 56. -/
def Obligations.CopyEngineSteps : Prop :=
  ∀ (s : State) (core i k : Nat) (l : CeList) (c : CFields),
    let n := c.len.toNat
    let reaches (e : Instr) (kind : BitVec 8) (rows : Nat) (change : CeList → CeList) := ∃ t release, exec e s = .next t ∧
      t.mem = s.mem ∧ (t.core core).lists[i]? = some (change { l with
        cmds := l.cmds ++ [⟨l.reached, kind, c, l.pc, 0, 0, rows, [], false, [], release⟩], reached := l.reached + 1, pc := l.pc + 64 }) ∧
      (t.core core).lists.length = (s.core core).lists.length ∧
      (s.revision core = 1 ∧ (c.tag ≠ 0 ∨ kind = 6) → release = some s.nextId ∧
        ∃ q ∈ t.reqs, q.id = s.nextId ∧ q.src = .hart l.t.h ∧ ∃ scope, q.kind = .release scope) ∧
      (¬ (s.revision core = 1 ∧ (c.tag ≠ 0 ∨ kind = 6)) → release = none ∧ t.reqs = s.reqs)
    let ends (e : Instr) := l.cmds = [] → ∃ t, exec e s = .next t ∧ t.mem = s.mem ∧
      ∀ x ∈ (t.core core).lists, ¬ (x.t.h = l.t.h ∧ x.t.seq = l.t.seq)
    let now := s.coreCycle core
    let word := match s.place core c.src with | some (.spad _ o _) => o | _ => 0
    let waits (x : CeList) : CeList := if flagReached (s.spadWord core word) (c.dst.extractLsb' 0 48).toNat
      then { x with waiting := false, from_ := now + 1 } else { x with waiting := true }
    (s.ceCur = (core, i, k) → (s.core core).lists[i]? = some l → l.t.h.core = core →
      (if s.tagOk core c 1 = true ∧ s.tagSpan l.t c = none then reaches (.ccEnd c) 0 0 (fun x => { x with ended := true }) else ends (.ccEnd c)) ∧
      (if s.copyCheck l.t c 1 false = none then reaches (.ccCopy c) 1 1 id else ends (.ccCopy c)) ∧
      (if s.copyCheck l.t c c.rows.toNat false = none then
        reaches (.ccCopy2d c) 2 c.rows.toNat id else ends (.ccCopy2d c)) ∧
      (if s.fillCheck l.t c n 1 = none then reaches (.ccFill c) 3 (if n = 0 then 0 else 1) id else ends (.ccFill c)) ∧
      (if s.copyCheck l.t c c.rows.toNat true = none then
        reaches (.ccGather c) 4 c.rows.toNat id else ends (.ccGather c)) ∧
      (if s.waitCheck l.t c = none then reaches (.ccWait c) 5 0 waits else ends (.ccWait c)) ∧
      (if s.flagWord core c.dst = true ∧ s.absentDie c.dst = false then
        reaches (.ccBump c) 6 1 id else ends (.ccBump c)) ∧
      (if s.fillCheck l.t c 8 8 = none then reaches (.ccWrite c) 7 1 id else ends (.ccWrite c)) ∧
      (if c.src.extractLsb' 0 6 = 0 then reaches (.ccLink c) 8 0 (fun x => { x with pc := c.src }) else ends (.ccLink c))) ∧
    (∀ q rest, s.arg = .core core → (s.core core).ceq = q :: rest → (s.core core).lists.length < 8 → q.cycle < now → q.macroOp = none →
      s.sourceHolds core 1 (some .ce) = false → ∃ t, exec .ceListActivate s = .next t ∧ t.mem = s.mem ∧ (t.core core).ceq = rest ∧ (t.core core).lists =
        (s.core core).lists ++ [⟨q, q.a.extractLsb' 0 64, 0, 0, [], false, false, false, none, none, 0⟩]) ∧
    (∀ x first, s.arg = .core core → (s.core core).lists = [l] → l.cmds = [x] →
      l.waiting = false → l.from_ ≤ now → (s.core core).ceNext ≤ now → s.coreTurn core = true →
      x = ⟨k, 3, c, l.pc, 0, first, 1, [], false, [], none⟩ → first < n → c.ord = 0 → c.tag = 0 → s.mayWrite l.t = true →
      s.sourceHolds core 1 (some .ce) = false → s.copyWindow core c.dst = 0 → (c.dst + BitVec.ofNat 64 first).extractLsb' 60 4 = 8 →
      let off := ((c.dst + BitVec.ofNat 64 first).extractLsb' 0 18).toNat
      let m := min 64 (n - first)
      ∃ t, exec .ceTransfer s = .next t ∧ (t.core core).ceNext = now + 1 ∧ (t.core core).lists = [{ l with
          cmds := [if n ≤ first + m then { x with row := 1, first := 0 } else { x with first := first + m }] }] ∧
        (∀ j, j < m → Memory.read t.mem (spadKey core (off + j)) = c.src.extractLsb' (8 * ((first + j) % 8)) 8) ∧
        ∀ key, key < spadKey core off ∨ spadKey core off + m ≤ key → Memory.read t.mem key = Memory.read s.mem key) ∧
    (∀ x, s.arg = .command core i k → (s.core core).lists[i]? = some l → l.cmds = [x] → x.n = k → x.rows ≤ x.row → x.left = [] →
      s.outstanding x.open_ = [] → x.kind ≠ 5 → x.f.tag = 0 →
      (l.ended = false → l.reached < (if l.t.a.extractLsb' 64 16 = 0 then 65536 else (l.t.a.extractLsb' 64 16).toNat) →
        ∃ t, exec .ceCommandComplete s = .next t ∧ t.mem = s.mem ∧
          (t.core core).lists[i]? = some { l with cmds := [], completed := l.completed + 1 }) ∧
      (l.ended = true → ∃ t, exec .ceCommandComplete s = .next t ∧ t.mem = s.mem ∧
        (∀ y ∈ (t.core core).lists, ¬ (y.t.h = l.t.h ∧ y.t.seq = l.t.seq)) ∧
        ∀ f, (s.hart l.t.h).flights.find? (fun z => z.unit == .ce && z.seq == l.t.seq) = some f → f.latest = true →
          (t.hart l.t.h).latch (resultPort .ce) =
            ⟨.full, BitVec.ofNat 512 ((l.completed + 1) % 65536 + 65536 + (if l.stopped then 131072 else 0))⟩))

/-! ### Stream instructions as they start their work (R276, R282, R287 to R304, R424) -/

/-- R282, R289 to R294, R299, R424: a built-in or network instruction within its limits starts its units, or is DONE where its
writes leave from the store drain; one that breaks a limit is marked SOPERAND with the field that breaks it.
The model's choices: logs 69, 70. -/
def Obligations.BuiltInsStart : Prop :=
  ∀ (s : State) (i : SlotId) (e : Entry) (f : SFields),
    let d := e.tensors.1
    let src := e.tensors.2
    let a := src.headD d
    let b := src.getD 1 d
    let units (n : Nat) := (n + 15) / 16
    let starts (x : Instr) (n : Nat) := exec x s = .next (entryAfter s i { e with started := true, step := 0, steps := n })
    let leaves (x : Instr) (n : Nat) := exec x s = .next (entryAfter s i { e with st := .done, started := true, step := 0, steps := n })
    let bad (x : Instr) (k : Nat) := breaksLimit x s i e k
    let copies (x : Instr) (spaces : List Nat) (inside : Prop) (go : Prop) :=
      (addressIn spaces 64 f.imm64 → inside → go) ∧ (¬ (addressIn spaces 64 f.imm64 ∧ inside) → bad x 7)
    let inWindow := ∀ r, e.raw = some r → r.addr.extractLsb' 60 4 = 13 → (r.addr.extractLsb' 0 22).toNat + r.size ≤ 0x400000
    let integer := d.fmt = 2 ∨ d.fmt = 8
    let float (t : TensorForm) := t.fmt.toNat = 1 ∨ t.fmt.toNat = 3 ∨ t.fmt.toNat = 4 ∨ t.fmt.toNat = 5 ∨ t.fmt.toNat = 6 ∨ t.fmt.toNat = 7
    let classed (t : TensorForm) := (d.fmt = 0 → t.fmt = 0) ∧ (integer → t.fmt = 2 ∨ t.fmt = 8) ∧
      (float d → t.fmt = 2 ∨ t.fmt = 8 ∨ float t)
    let shaped (t : TensorForm) := t.cols = d.cols ∧ (t.rows = 1 ∨ t.rows = d.rows)
    startsEntry s i e →
    copies (.sload f) [0, 8, 10, 13] inWindow (starts (.sload f) (units d.rows)) ∧
    copies (.sstore f) [0, 8, 10, 13] inWindow (leaves (.sstore f) (units d.rows)) ∧
    copies (.sput f) [0, 11] True (leaves (.sput f) (units d.rows)) ∧
    copies (.sget f) [0, 11] True (starts (.sget f) (units d.rows)) ∧
    starts (.sfill f) (units d.rows) ∧
    -- the FP32 shape over FP32 or BF16 operands, and shapes that do not exist
    (f.mode = 0 → f.s3 = 0 → src = [a, b] → (a.fmt = 1 ∧ b.fmt = 1 ∨ a.fmt = 3 ∧ b.fmt = 3) →
      a.rows % 16 = 0 → b.rows % 16 = 0 → a.cols % (if a.fmt = 1 then 16 else 32) = 0 → b.cols = a.cols →
      d.rows = a.rows → d.cols = b.rows → (d.fmt = 1 ∨ d.fmt = 3 ∨ d.fmt = 4) →
      starts (.smm f) (a.rows / 16 * (b.rows / 16))) ∧
    (3 < f.mode.toNat → bad (.smm f) 5) ∧
    (f.mode.toNat ≤ 3 → f.aux.getLsbD 0 = false → f.s3 ≠ 0 → bad (.smm f) 4) ∧
    -- the functions of two sources
    (f.mode.toNat ≤ 5 → f.mode.toNat ≠ 3 → f.s3 = 0 → (d.fmt = 0 ∨ integer ∨ float d) → src = [a, b] →
      classed a → classed b → shaped a → shaped b → starts (.sew f) (units d.rows)) ∧
    (0x0C < f.mode.toNat → bad (.sew f) 5) ∧
    -- the kinds along either axis
    (f.mode.toNat % 16 ≤ 2 → f.mode.toNat < 32 → (d.fmt = 0 ∨ integer ∨ float d) → classed a →
      (f.mode.getLsbD 4 = false → d.rows = a.rows → d.cols = 1 → starts (.sred f) (units a.rows)) ∧
      (f.mode.getLsbD 4 = true → d.rows = 1 → d.cols = a.cols → starts (.sred f) (units a.cols))) ∧
    ((2 < f.mode.toNat % 16 ∨ 0x1F < f.mode.toNat) → bad (.sred f) 5) ∧
    ((a.fmt.toNat ≤ 4 ∨ a.fmt.toNat = 8 ∨ a.fmt.toNat = 9) →
      if d.fmt = a.fmt ∧ d.rows = a.cols ∧ d.cols = a.rows then starts (.sxpose f) (units d.rows) else bad (.sxpose f) 1) ∧
    ((a.fmt = 5 ∨ a.fmt = 6 ∨ a.fmt = 7) → bad (.sxpose f) 2)

/-- R285, R295, R296, R424: a Cellar instruction within its limits whose rows lie on one stack puts one part with them into the
queue of that stack's engine, in the place that it held there or a free one, and waits for it; a row outside the table marks it SCELLAR, and a limit that it breaks SOPERAND:
a table address that is not of space 0 and aligned to 64, a size outside 6 to 40, an index tensor that is not one INT32 column with a
row for each of the data, and for SREDUCE a format above 3. Which of several offending fields the record names, in that order, is
the model's choice: DEDUCED (log 69). The model's choices: logs 63, 64, 69, 103. -/
def Obligations.CellarInstructionsStart : Prop :=
  ∀ (s s' s'' : State) (i : SlotId) (e : Entry) (f : SFields) (k : Fin 8) (b : List (List Byte)) (rows : List (Nat × Nat)),
    let d := e.tensors.1
    let a := e.tensors.2.headD d
    let c := e.tensors.2.getD 1 d
    let lead := (s.slot i).lead
    let reader := s.leadReader i e.n
    let bad (x : Instr) (n : Nat) := breaksLimit x s i e n
    let queued (x : Instr) (w : CellarWork) (g : CellarEngine) := (s''.putEntry i { e with room := [] }).engineLoad k g < 8 →
      (∀ y ∈ (s''.slot i).drain, y.e.n ≠ e.n) → ∃ t, exec x s = .next t ∧ t.mem = s''.mem ∧
        t.cellar = s''.cellar ++ [(k, g, ⟨s''.nextId, .entry i e.n, w, false, w.rows.length, 0⟩)] ∧
        t.slot i = (s''.slot i).setEntry { e with started := true, room := [], parts := [s''.nextId] }
    let size := f.mode.toNat % 64
    let block (t : TensorForm) : Nat := if t.fmt = 5 ∨ t.fmt = 6 then 32 else if t.fmt = 7 then 64 else 8
    let cols := max (block d) (block a)
    let work (data : TensorForm) : CellarWork := { s'.workOf i e data data with rows := rows }
    let table (x : Instr) (op : BitVec 8) (writes : Bool) (data index : TensorForm) (fields : Nat) (g : CellarEngine) := e.op = op →
      e.dst.isSome = writes →
      (¬ addressIn [0] 64 f.imm64 → bad x 7) ∧
      (addressIn [0] 64 f.imm64 → (size < 6 ∨ 40 < size) → bad x 5) ∧
      (addressIn [0] 64 f.imm64 → 6 ≤ size → size ≤ 40 → (index.fmt ≠ 2 ∨ index.cols ≠ 1 ∨ index.rows ≠ data.rows) → bad x fields) ∧
      (addressIn [0] 64 f.imm64 → 6 ≤ size → size ≤ 40 → index.fmt = 2 → index.cols = 1 → index.rows = data.rows →
        x = .sreduce f → 3 < data.fmt.toNat → bad x 2) ∧
      (addressIn [0] 64 f.imm64 → 6 ≤ size → size ≤ 40 → index.fmt = 2 → index.cols = 1 → index.rows = data.rows →
        (x = .sreduce f → data.fmt.toNat ≤ 3) →
        s.pullSpans reader ((List.range index.rows).map fun r => (rowAt index r, 4)) = (s', .ready b) →
        rows = b.zipIdx.map (fun x => (x.2, leNat x.1)) →
        ((∀ x ∈ rows, x.2 * data.rstride + rowSize data ≤ 2 ^ size) →
          s'.splitRows (s'.slot i).lead true false (work data) = (s'', ⟨[(k, rows)], [], [], none⟩) →
          queued x (work data) g) ∧
        (∀ r v, rows = [(r, v)] → 2 ^ size < v * data.rstride + rowSize data → (s'.slot i).st = .running →
          ∃ t, exec x s = .next t ∧ marksEntry s' t i e 0x54 0))
    startsEntry s i e → e.fields = f →
    table (.sgather f) 0x30 true d a 2 .gather ∧ table (.sscatter f) 0x31 false a c 3 .gather ∧
    table (.sreduce f) 0x32 false a c 3 .reduction ∧
    ((d.rows ≠ a.rows ∨ d.cols ≠ a.cols) → bad (.scvt f) 1) ∧
    (d.rows = a.rows → d.cols = a.cols → (d.fmt = 9 ↔ a.fmt = 9) →
      rows = (List.range a.rows).flatMap (fun r => (List.range ((a.cols + cols - 1) / cols)).map fun g => (r, g)) →
      s.splitRows lead true false { s.workOf i e d a with rows := rows } = (s'', ⟨[(k, rows)], [], [], none⟩) →
      e.op = 0x24 → queued (.scvt f) { s.workOf i e d a with rows := rows } .conversion)

/-- R288, R300 to R302, R424: declaration, branches, loops and switches. One that is resolved at decode moves SPC at once; one
that reads a word is DONE with the place where fetch goes on; a limit that is broken marks the entry.
The model's choices: log 69. -/
def Obligations.StreamControlFlow : Prop :=
  ∀ (s s' : State) (i : SlotId) (e : Entry) (f : SFields) (b : List Byte),
    let v := s.slot i
    let va (a : Word) := a &&& 0x1FFFFFFFFFFFFFF#64
    let next := e.pc + 16
    let target := e.pc + 16 * f.aux.signExtend 64
    let after := e.pc + 16 * f.aux.zeroExtend 64 + 16
    let bad (x : Instr) (k : Nat) := breaksLimit x s i e k
    let resolved (x : Instr) (to_ : Word) (count : BitVec 32) (loops : List Loop) := exec x s = .next (s.setSlot i
      { v.setEntry { e with st := .done, started := true, goto := some (va to_), count := count } with
        spc := va to_, stopped := false, decodeLoops := loops })
    let word := addressIn [0, 10, 11, 13] 8 f.imm64
    let read := s.pull (s.leadReader i e.n) f.imm64 8 = (s', .ready b)
    let done (x : Instr) (to_ : Word) (count : BitVec 32) (loops : List Loop) := ∃ t, exec x s = .next t ∧ t.mem = s'.mem ∧
      t.slot i = { (s'.slot i).setEntry { e with st := .done, started := true, goto := some (va to_), count := count } with
        decodeLoops := loops }
    let x := f.imm64
    startsEntry s i e →
    (e.op = 0x60 → f.mode = 0 → resolved (.sbr f) target 0 v.decodeLoops) ∧
    (f.mode ≠ 0 → ¬ word → bad (.sbr f) 7) ∧
    (word → read → s'.slot i = v →
      (f.mode = 1 → done (.sbr f) (if leNat b = 0 then next else target) e.count v.decodeLoops) ∧
      (f.mode = 2 → done (.sbr f) (if leNat b = 0 then target else next) e.count v.decodeLoops) ∧
      done (.sswitch f) (next + BitVec.ofNat 64 (16 * min (leNat b) f.aux.toNat)) e.count v.decodeLoops ∧
      (f.mode.getLsbD 0 = false → f.aux ≠ 0 → e.op = 0x61 → leNat b < 2 ^ 32 →
        (leNat b = 0 → done (.sloop f) after 0 v.decodeLoops) ∧
        (leNat b ≠ 0 → v.decodeLoops.length < 4 →
          done (.sloop f) next (BitVec.ofNat 32 (leNat b)) (v.decodeLoops ++ [⟨next, BitVec.ofNat 32 (leNat b)⟩])))) ∧
    (¬ word → bad (.sswitch f) 7 ∧ (f.mode.getLsbD 0 = false → f.aux ≠ 0 → bad (.sloop f) 7)) ∧
    (f.aux = 0 → bad (.sloop f) 6) ∧
    (f.mode.getLsbD 0 = true → f.aux ≠ 0 →
      (2 ^ 32 ≤ x.toNat → bad (.sloop f) 7) ∧
      (x ≠ 0 → x.toNat < 2 ^ 32 → 4 ≤ v.decodeLoops.length → bad (.sloop f) 6) ∧
      (e.op = 0x61 → x = 0 → resolved (.sloop f) after 0 v.decodeLoops) ∧
      (e.op = 0x61 → x ≠ 0 → x.toNat < 2 ^ 32 → v.decodeLoops.length < 4 →
        resolved (.sloop f) next (x.extractLsb' 0 32) (v.decodeLoops ++ [⟨next, x.extractLsb' 0 32⟩]))) ∧
    (v.decodeLoops = [] → bad (.sendloop f) 0) ∧
    (∀ l t, e.op = 0x62 → v.decodeLoops = l ++ [t] →
      (t.count = 1 → resolved (.sendloop f) next 0 l) ∧
      (t.count ≠ 1 → resolved (.sendloop f) t.start 0 (l ++ [{ t with count := t.count - 1 }]))) ∧
    (¬ addressIn [0] 64 x → bad (.tdecl f) 7) ∧
    (∀ d k, addressIn [0] 64 x → s.pull (s.leadReader i e.n) x 64 = (s', .ready b) →
      declOf b (s'.tensorHome (s'.slot i) (BitVec.ofNat 64 (leNat (b.take 8)))) = some d →
      ((s'.slot i).name f.dst).decl = none → (∀ y ∈ (s'.slot i).drain, y.e.n ≠ e.n ∧ ∀ o ∈ y.e.srcs, o.name ≠ f.dst) →
      s'.freeDescriptor = some k → ∃ t, exec (.tdecl f) s = .next t ∧ t.mem = s'.mem ∧
        t.desc k = ⟨d.vbase, 0, d.home, f.dst, i, .committed, none⟩ ∧
        t.slot i = ((s'.slot i).setName f.dst ⟨BitVec.ofNat 10 k, BitVec.ofNat 10 k, some d, 1⟩).setEntry
          { e with st := .done, started := true, goto := some (va next) })

/-- R297, R298, R303, R304, R424: waiting, signalling, fencing, halting, migration, kernels and groups as they start. Which of several
offending fields a record names (IMM64 before AUX of `sown`, AUX before DST of `skern`, AUX before IMM64 of `sgroup`) is the model's
choice: DEDUCED (log 69). -/
def Obligations.StreamWorkStarts : Prop :=
  ∀ (s s' : State) (i : SlotId) (e : Entry) (f : SFields) (b : List Byte),
    let v := s.slot i
    let bad (x : Instr) (k : Nat) := breaksLimit x s i e k
    let starts (x : Instr) (n : Nat) := exec x s = .next (entryAfter s i { e with started := true, step := 0, steps := n })
    let flag := addressIn [10, 11, 13] 8 f.imm64
    let kidx := (f.aux.extractLsb' 0 6).toNat
    let nin := (f.aux.extractLsb' 6 2).toNat
    let target := f.mode.toNat * 65536 + f.aux.toNat
    startsEntry s i e → e.fields = f →
    (¬ flag → bad (.swait f) 7 ∧ bad (.ssignal f) 7 ∧ (f.imm64 ≠ 0 → bad (.shalt f) 7)) ∧
    (flag → s.pull (s.leadReader i e.n) f.imm64 8 = (s', .ready b) → (∀ y ∈ (s'.slot i).drain, y.e.n ≠ e.n) →
      ∃ t, exec (.swait f) s = .next t ∧ t.mem = s'.mem ∧ t.slot i = (s'.slot i).setEntry
        (if (leNat b + 2 ^ 24 - target) % 2 ^ 24 < 2 ^ 23 then { e with st := .done, started := true }
          else { e with started := true, poll := s'.cycle (s'.slot i).lead + 64 })) ∧
    (flag → exec (.ssignal f) s = .next (entryAfter s i { e with st := .done, started := true, step := 0, steps := 1 })) ∧
    starts (.sfence f) 0 ∧ (f.imm64 = 0 → starts (.shalt f) 0) ∧ (flag → f.imm64 ≠ 0 → starts (.shalt f) 1) ∧
    ((f.imm64.extractLsb' 57 7 ≠ 0 ∨ f.imm64.extractLsb' 0 5 ≠ 0) → bad (.sown f) 7) ∧
    (f.imm64.extractLsb' 57 7 = 0 → f.imm64.extractLsb' 0 5 = 0 →
      ((f.aux.extractLsb' 11 5 ≠ 0 ∨ s.dieCount ≤ (f.aux.extractLsb' 0 2).toNat ∨ f.aux.extractLsb' 2 2 = 3 ∨
        f.aux.extractLsb' 4 2 = 3) → bad (.sown f) 6) ∧
      (f.aux.extractLsb' 11 5 = 0 → (f.aux.extractLsb' 0 2).toNat < s.dieCount → f.aux.extractLsb' 2 2 ≠ 3 →
        f.aux.extractLsb' 4 2 ≠ 3 → ∃ t r, exec (.sown f) s = .next t ∧ t.mem = s.mem ∧ t.reqs = s.reqs ++ [r] ∧
          r.addr = f.imm64 &&& ~~~ 0x1FFFFF#64 ∧ r.op = .own (sownDesc f) ∧ r.src = .stream i e.n ∧
          t.slot i = v.setEntry { e with started := true, step := 0, steps := 0 })) ∧
    ((v.kernels.length ≤ kidx ∨ f.aux.extractLsb' 11 5 ≠ 0) → bad (.skern f) 6) ∧
    (kidx < v.kernels.length → f.aux.extractLsb' 11 5 = 0 → (f.aux.getLsbD 8 = true → f.dst = 0) →
      (nin < 1 → f.s1 = 0) → (nin < 2 → f.s2 = 0) → (nin < 3 → f.s3 = 0) → f.aux.getLsbD 9 = false → starts (.skern f) 0) ∧
    (kidx < v.kernels.length → f.aux.extractLsb' 11 5 = 0 → f.aux.getLsbD 8 = true → f.dst ≠ 0 → bad (.skern f) 1) ∧
    ((f.aux = 0 ∨ 256 < f.aux.toNat) → bad (.sgroup f) 6) ∧
    (f.aux ≠ 0 → f.aux.toNat ≤ 256 → ¬ addressIn [0] 8 f.imm64 → bad (.sgroup f) 7) ∧
    (∀ g c, f.aux.toNat = 1 → addressIn [0] 8 f.imm64 → f.mode.getLsbD 0 = true →
      s.readGroups (s.leadReader i e.n) f.imm64 1 = (s', .ready [g]) → s'.ctx? v.ctx = some c →
      (∀ m ∈ g.members, m < c.window.length) → (∀ r ∈ s'.reqs, r.image = none) → (∀ y ∈ (s'.slot i).drain, y.e.n ≠ e.n) →
      ∃ t c', exec (.sgroup f) s = .next t ∧ t.mem = s'.mem ∧
        t.slot i = (s'.slot i).setEntry { e with st := .done, started := true } ∧
        t.ctx? v.ctx = some c' ∧ c'.groups = [⟨g.gid, g.part, g.members, [], none, none, none⟩] ∧
        ∀ core ∈ c.window, (t.core core).cgrp = match g.members.findIdx? (fun m => c.window[m]? == some core) with
          | none => #v[0, 0, 0, 0]
          | some index => #v[BitVec.ofNat 64 (g.gid.toNat + index * 2 ^ 8 + g.members.length * 2 ^ 21 + g.part * 2 ^ 34 + 2 ^ 63), 0, 0, 0])

/-! ### Streams at work (R58, R267 to R286, R297, R303, R369 to R372, R396, R397) -/

/-- R267 to R269, R369, R370, R396: OPEN takes a FREE slot of a bound context; once it is open it is RUNNING with SPC at SBASE;
SLIMIT is taken while it is RUNNING or HALTED, and lets a HALTED one go on; the oldest entry's recorded mark fences the slot, with
FRONT at COMMIT for every name and no undiscarded entry beside it; CLOSE leaves nothing undiscarded (one taken in the die cycle in which the slot was fenced comes before the fence, and is ignored
where that found it OPENING), and a slot that is CLOSING and holds nothing any more is FREE. The model's choices: log 62. -/
def Obligations.StreamSlotSteps : Prop :=
  ∀ (s : State) (i : SlotId) (d : DieId) (b : BitVec 30) (off : Nat) (w : Word),
    let v := s.slot i
    let block := v.blocks[d]
    let written (o : Nat) := s.arg = .write (.host b w) ∧
      s.registerWrite? (.host b w) = some (d, off, w) ∧ off = 0x100000 + 0x1000 * i.val + o
    let limit := w &&& 0x1FFFFFFFFFFFFF0#64
    (written 0 → w.getLsbD 4 = true → v.st = .free → s.ctx? block.ctx ≠ none →
      ∃ t, exec .sctlOpen s = .next t ∧ t = s.setSlot i (t.slot i) ∧ (t.slot i).st = .opening ∧ (t.slot i).lead = d ∧
        (t.slot i).ctx = block.ctx ∧ (t.slot i).sbase = block.sbase ∧ (t.slot i).slimit = block.sbase ∧ (t.slot i).window = [] ∧
        (t.slot i).drain = [] ∧ ∀ n, ((t.slot i).name n).decl = none) ∧
    (s.arg = .slot i → v.st = .opening → v.opened < s.cycle v.lead → v.nkern = 0 →
      ∃ t, exec .slotOpenComplete s = .next t ∧ t.mem = s.mem ∧ t.slot i = { v with
        st := .running, spc := v.sbase, sretpc := v.sbase, kernels := [], entryLines := [], stopped := false }) ∧
    (written 0x18 → v.lead = d → (v.st = .running ∨ v.st = .halted) → exec .slimitWrite s = .next (s.setSlot i
      (if v.st = .halted ∧ v.spc < limit then { v with slimit := limit, st := .running, stopped := false }
        else { v with slimit := limit }))) ∧
    (∀ e rest code index, s.arg = .slot i → (v.st = .running ∨ v.st = .halted) → v.window = e :: rest →
      e.st = .marked code (some index) → ∃ t, exec .streamFaultRaise s = .next t ∧
        ((∀ h : HartRef, (s.hart h).st ≠ .held) → t.mem = s.mem) ∧ (t.slot i).st = .fenced ∧ (t.slot i).fencedAt = s.cycle v.lead ∧
        (t.slot i).fCode = code ∧ (t.slot i).fValid = true ∧ (t.slot i).fIdx = BitVec.ofNat 8 index ∧ (t.slot i).fOk = true ∧
        (∀ n, ((t.slot i).name n).front = (v.name n).commit) ∧ (t.slot i).decodeLoops = v.retiredLoops ∧
        ∀ x ∈ (t.slot i).window, x.n = e.n ∨ x.discarded = true) ∧
    (written 0 → w.getLsbD 5 = true → v.lead = d → (v.st = .running ∨ v.st = .halted ∨ v.st = .fenced) →
      if v.st = .fenced ∧ v.fencedAt = s.cycle d ∧ v.fencedOpening = true then exec .sctlClose s = .next s else
      ∃ t, exec .sctlClose s = .next t ∧ t.mem = s.mem ∧ (t.slot i).st = .closing ∧
        ∀ x ∈ (t.slot i).window, x.discarded = true) ∧
    (s.arg = .slot i → v.st = .closing → v.window = [] → v.drain = [] → (∀ x ∈ s.descs, x.2.slot = i → x.2.st = .free) →
      ∃ t, exec .slotCloseComplete s = .next t ∧ t = s.setSlot i (t.slot i) ∧ (t.slot i).st = .free ∧
        ∀ n, ((t.slot i).name n).decl = none)

/-- R274 to R281, R303, R423: a slot fetches the line of SPC; 12 die cycles after its arrival the word of SPC is decoded into the
window, its written name renamed to a free version and descriptor, a branch without a condition is DONE at once, with fetch at its
target, and a word that is no instruction enters marked SOPERAND; the oldest entry that may issues, a Cellar instruction with a place at every engine that its rows need, and none past an older SYNC,
SGROUP or SFENCE; an entry whose work has ended is DONE; the oldest one
that is DONE retires and commits its version; a drain entry whose writes have completed leaves. The model's choice: log 104. -/
def Obligations.StreamWindowSteps : Prop :=
  ∀ (s s' : State) (i : SlotId) (e : Entry) (rest : List Entry) (b : List Byte) (l : TextLine) (x : Instr),
    let v := s.slot i
    let now := s.cycle v.lead
    let line := v.spc.toNat / 64 * 64
    let text := l.data.extractLsb' (8 * (v.spc.toNat % 64)) 128
    let op := text.extractLsb' 0 8
    let f := streamFields text
    let decodes := s.arg = .slot i ∧ v.lines = [l] ∧ l.addr = line ∧ s.fetches i = true ∧ v.spc.toNat < l.limit.toNat ∧
      l.cycle + 12 ≤ now ∧ v.lastDecode ≤ now ∧ l.fault = none
    let quiet := ∀ r ∈ s.reqs, r.src ≠ .stream i e.n
    (s.arg = .slot i → s.fetches i = true → v.lines = [] → (∀ r ∈ s.reqs, r.src ≠ .stream i textReader) → s.pull (s.leadReader i textReader) (BitVec.ofNat 64 line) 64 = (s', .ready b) →
      ∃ t, exec .streamLineFetch s = .next t ∧ t.mem = s'.mem ∧
        t.slot i = { s'.slot i with lines := [⟨line, BitVec.ofNat 512 (leNat b), now, v.slimit, none⟩] }) ∧
    (decodes → decodeStream text = some x →
      (tensorUses op f = (false, 0) → resolves op f = false → ∃ t, exec .streamDecode s = .next t ∧ t = s.setSlot i (t.slot i) ∧
        (t.slot i).window = v.window ++
          [{ blankEntry v.next v.spc text (some x) with raw := rawRegion op f (s.slotAsid v) none [], age := s.time }] ∧
        (t.slot i).next = v.next + 1 ∧ (t.slot i).spc = v.spc + 16 ∧ (t.slot i).stopped = stops op f) ∧
      (x = .sbr f → op = 0x60 → f.mode = 0 → (∀ y ∈ v.window, y.n < v.next) → ∃ t y, exec .streamDecode s = .next t ∧ t.mem = s.mem ∧
        (t.slot i).window = v.window ++ [y] ∧ y.n = v.next ∧ y.st = .done ∧ (t.slot i).next = v.next + 1 ∧
        (t.slot i).spc = (v.spc + 16 * f.aux.signExtend 64) &&& 0x1FFFFFFFFFFFFFF#64 ∧ (t.slot i).stopped = false) ∧
      (∀ d k n, tensorUses op f = (true, 0) → (v.name f.dst).decl = some d → d.vers ≠ 1 →
        freeVersion (v.name f.dst).vbusy d.vers = some k → s.freeDescriptor = some n →
        ∃ t y, exec .streamDecode s = .next t ∧ t.mem = s.mem ∧ (t.slot i).window = v.window ++ [y] ∧ y.n = v.next ∧ y.instr = some x ∧
          y.dst.map (·.desc) = some (BitVec.ofNat 10 n) ∧ ((t.slot i).name f.dst).front = BitVec.ofNat 10 n ∧
          ((t.slot i).name f.dst).commit = (v.name f.dst).commit ∧
          t.desc n = ⟨d.vbase + BitVec.ofNat 64 (k * d.vstride.toNat), BitVec.ofNat 3 k, d.home, f.dst, i, .pending, none⟩)) ∧
    (decodes → decodeStream text = none → ∃ t, exec .streamDecode s = .next t ∧ t.mem = s.mem ∧ (t.slot i).stopped = true ∧
      ∃ y ∈ (t.slot i).window, y.n = v.next ∧ y.st = .marked 0x50 none) ∧
    (s.arg = .entry i e.n → v.st = .running → v.window = e :: rest → s.slotHeld i = false →
      (e.takesRoom = false → s.mayIssue i e = true → (v.lastIssue = now → v.issued < 2) → ∃ t, exec .streamIssue s = .next t ∧
        t.mem = s.mem ∧
        t.slot i = { v.setEntry { e with st := .issued, room := [] } with
          lastIssue := now, issued := (if v.lastIssue = now then v.issued else 0) + 1 }) ∧
      (∀ places, e.takesRoom = true → s.mayIssue i e = true → (v.lastIssue = now → v.issued < 2) →
        s.cellarPlaces i e = (s', some places) → ∃ t, exec .streamIssue s = .next t ∧ t.mem = s'.mem ∧
        t.slot i = { (s'.slot i).setEntry { e with st := .issued, room := places } with
          lastIssue := now, issued := (if v.lastIssue = now then v.issued else 0) + 1 }) ∧
      (∀ y ∈ rest, e.n < y.n → (e.fields.sync = 1 ∨ e.op = 0x41 ∨ e.op = 0x66) →
        exec .streamIssue { s with arg := .entry i y.n } = .next { s with arg := .entry i y.n })) ∧
    (s.arg = .entry i e.n → v.entry? e.n = some e → (∀ y ∈ v.drain, y.e.n ≠ e.n) → e.st = .issued → e.started = true →
      e.discarded = false →
      (e.op ∈ ([0x10, 0x12, 0x20, 0x21, 0x22, 0x23, 0x51] : List (BitVec 8)) ∧ e.step = e.steps ∧ quiet ∨
        e.op ∈ ([0x24, 0x30, 0x31, 0x32] : List (BitVec 8)) ∧ e.parts = [] ∧ quiet ∨
        e.op = 0x40 ∧ e.fields.mode.toNat + 1 ≤ e.placed ∧ e.ended = e.placed ∨
        (e.op = 0x66 ∨ e.op = 0x67) ∧ v.drain = [] ∨ e.op = 0x70 ∧ quiet) →
      exec .streamEntryDone s = .next (entryAfter s i { e with st := .done })) ∧
    (s.arg = .entry i e.n → v.entry? e.n = some e → e.st = .issued → e.started = true → e.discarded = false → e.op = 0x64 →
      e.poll ≤ now → s.pull (s.leadReader i e.n) e.fields.imm64 8 = (s', .ready b) → (∀ y ∈ (s'.slot i).drain, y.e.n ≠ e.n) →
      ∃ t, exec .swaitPoll s = .next t ∧ t.mem = s'.mem ∧ t.slot i = (s'.slot i).setEntry
        (if (leNat b + 2 ^ 24 - (e.fields.mode.toNat * 65536 + e.fields.aux.toNat)) % 2 ^ 24 < 2 ^ 23 then { e with st := .done }
          else { e with poll := s'.cycle (s'.slot i).lead + 64 })) ∧
    (s.arg = .slot i → v.st = .running → v.window = e :: rest → e.st = .done → s.slotHeld i = false →
      (v.lastRetire = now → v.retired < 4) → v.drain.length < 32 → ∃ t, exec .streamRetire s = .next t ∧ t.mem = s.mem ∧
        (t.slot i).window = rest.filter (fun y => y.n != e.n) ∧ (t.slot i).sretpc = e.goto.getD (e.pc + 16) ∧
        (t.slot i).sretcnt = v.sretcnt + 1 ∧ (t.slot i).st = (if e.op = 0x67 then .halted else .running) ∧
        (t.slot i).drain = v.drain ++ (if drains e.op e.fields then [⟨{ e with step := 0 }⟩] else []) ∧
        (∀ o, e.dst = some o → ((t.slot i).name o.name).commit = o.desc)) ∧
    (∀ y, s.arg = .entry i y.e.n → v.drain.find? (fun z => z.e.n == y.e.n) = some y → y.e.step = y.e.steps →
      (∀ r ∈ s.reqs, r.src ≠ .stream i y.e.n) → ∃ t, exec .storeDrainLeave s = .next t ∧ t.mem = s.mem ∧
        (t.slot i).drain = v.drain.filter fun z => z.e.n != y.e.n)

/-- R58, R281 to R286, R297, R303, R383, R392: the dispatcher places a task with its record; the report of its end counts, and a
faulted one marks the entry STASK; a tile step that has read has what it writes, puts its triggers one by one into the queues of its
core's units, counts in its unit once they have ended, and where one faulted marks the entry SEXPAND; a signal in the drain makes one flag arrival; a
Cellar part does its rows, and leaves its engine when its writes have completed; a part of another device joins a queue here.
The record is in the core's queue from the step that places it: R60 gives a path of several die cycles, so that is DEDUCED (log 59).
The model's choices: logs 14, 17, 52, 59, 60, 73. -/
def Obligations.StreamAgentSteps : Prop :=
  ∀ (s s' : State) (i : SlotId) (e : Entry) (n core : Nat) (k : Fin 8) (g : CellarEngine) (p : Part),
    let v := s.slot i
    let now := s.cycle v.lead + 1
    let line := (tableGet v.entryLines (64 * (dieOf core).val + (e.fields.aux.extractLsb' 0 6).toNat)).map fun b =>
      (lineOf (v.kernels.getD (e.fields.aux.extractLsb' 0 6).toNat 0), b)
    let reader : Reader := ⟨.part p.id, 1280 * (k.val / 2), p.work.asid, p.work.ctx, false⟩
    let alone := ∀ y ∈ v.drain, y.e.n ≠ e.n
    (s.arg = .slot i → v.st = .running → (s.die v.lead).lastPlace ≠ now → s.slotHeld i = false → e.gang = false →
      s.nextPlacement [] (s.unplaced v.lead) = some (i, e, [core]) → alone →
      s.routeOpen v.lead (dieOf core) = true → ∃ t, exec .skernTaskPlacement s = .next t ∧ t.mem = s.mem ∧
        (t.core core).tasks = (s.core core).tasks ++
          [⟨taskRecord i v e e.placed, e.fields.prio, .stream, s.coreCycle core, line⟩] ∧
        t.slot i = v.setEntry { e with placed := e.placed + 1, lastCore := core } ∧ (t.die v.lead).lastPlace = now) ∧
    (∀ entry ctx faulted code addr who, s.arg = .request n → s.msg? n = some (.taskEnd i entry ctx faulted code addr who) →
      v.window.find? (fun x => x.n % 256 == entry && x.op == 0x40) = some e → v.ctx = ctx → v.st = .running → e.ended < e.placed →
      e.st = .issued → alone → s.routeOpen (s.msgDie n) v.lead = true → ∃ t, exec .taskEndReport s = .next t ∧ t.mem = s.mem ∧
        t.msgs = s.msgs.filter (fun m => m.id != n) ∧ t.slot i = v.setEntry (if faulted then
          { e with ended := e.ended + 1, st := .marked 0x52 none, room := [] } else { e with ended := e.ended + 1 })) ∧
    (∀ (x : TileStep) (u : UnitAt), s.arg = .core core → s.coreTurn core = true → (s.core core).tileStep = some x → x.slot = i →
      x.entry = e.n → v.entry? e.n = some e → e.unit? x.unit = some u → u.unit = x.unit →
      (∀ b, x.reading = true → e.op ≠ 0x20 →
        let a := s.tileReader i e core
        let (d, src) := e.tensors
        let (raw, pitch) := s.rawSide i e d
        let at_ := u.unit * e.unitSteps + u.done
        let spans := stepReads e.op e.fields d src raw pitch at_
        (s.pullSpans a spans = (s', .ready b) → ∃ t emit fault, exec .macroTileStep s = .next t ∧ (t.core core).tileStep = some { x with
          reading := false, emit := emit, fault := fault
          writes := (stepResult e.op e.fields (s'.streamCompat (s'.slot i).ctx) d src raw pitch at_ b).writes }) ∧
        (∀ c y, s.pullSpans a spans = (s', .fault c y) → ∃ t, exec .macroTileStep s = .next t ∧ t.mem = s'.mem ∧
          (t.core core).tileStep = some { x with reading := false, fault := some (c, y) })) ∧
      (x.reading = false → x.fault = none →
        (∀ op more, x.emit = op :: more → s.mayEmit core x op = true → ∃ t q, exec .macroTileStep s = .next t ∧ t.mem = s.mem ∧
          q.macroOp = some op ∧ (t.core core).tileStep = some { x with emit := more, open_ := x.open_ + 1 } ∧
          (match op with
            | .copy => (t.core core).ceq = (s.core core).ceq ++ [q]
            | .weights _ _ => (t.core core).wbq = (s.core core).wbq ++ [q]
            | _ => (t.core core).mxq = (s.core core).mxq ++ [q])) ∧
        (x.emit = [] → x.open_ = 0 → x.writes = [] → alone → ∃ t, exec .macroTileStep s = .next t ∧ t.mem = s.mem ∧
          (t.core core).tileStep = none ∧ t.slot i = v.setEntry { e with
            wrote := true, units := e.units.map fun y => if y.unit = u.unit then { y with done := u.done + 1 } else y
            step := if u.done + 1 = e.unitSteps then e.step + 1 else e.step })) ∧
      (∀ code addr, x.reading = false → x.fault = some (code, addr) → x.open_ = 0 → v.st = .running → e.st = .issued →
        ∃ t, exec .macroTileStep s = .next t ∧ t.mem = s.mem ∧ (t.core core).tileStep = none ∧
          t.slot i = v.setEntry { e with st := .marked 0x53 none, room := [] })) ∧
    (∀ y, s.arg = .entry i n → v.drain.find? (fun z => z.e.n == n) = some y → y.e.step < y.e.steps → s.drainReady i y.e = true →
      y.e.op = 0x65 → ∃ t r, exec .macroTileStep s = .next t ∧ t.mem = s.mem ∧ t.reqs = s.reqs ++ [r] ∧ r.addr = y.e.fields.imm64 ∧
        r.op = .arrivalOnly ∧ r.arrival = .flag y.e.fields.imm64 ∧ r.src = .stream i y.e.n ∧
        (t.slot i).drain = v.drain.map fun z => if z.e.n == y.e.n then ⟨{ y.e with step := y.e.step + 1 }⟩ else z) ∧
    (s.arg = .cellar k g → s.cellar.find? (fun x => x.1 == k && x.2.1 == g) = some (k, g, p) →
      (p.performed = false → s.splitRows (Fin.ofNat 4 (k.val / 2)) false true p.work = (s, ⟨[(k, p.work.rows)], [], [], none⟩) → p.work.rows ≠ [] →
        (∀ j m, p.owner = .entry j m → (∀ y ∈ (s.slot j).drain, y.e.n ≠ m) ∧ ((s.slot j).window.map (·.n)).Nodup) →
        (s.setPart p.id (some p)).performPart reader p.work = (s', .done) → exec .cellarPartComplete s =
          .next ((s'.dropStaged (.part p.id)).setPart p.id (some { p with work := { p.work with rows := [] }, performed := true }))) ∧
      (p.performed = true → (∀ r ∈ s.reqs, r.src ≠ .part p.id) → (∀ x ∈ s.staged, x.1 ≠ .part p.id) → p.owner = .entry i e.n →
        v.entry? e.n = some e → alone → ∃ t, exec .cellarPartComplete s = .next t ∧ t.mem = s.mem ∧
          t.cellar = s.cellar.filter (fun x => x.2.2.id != p.id) ∧
          t.slot i = v.setEntry { e with parts := e.parts.filter fun x => x != p.id })) ∧
    (∀ lead tag w hops rows, s.arg = .request n → s.msg? n = some (.remotePart lead tag w hops) → s.ctx? w.ctx ≠ none →
      s.splitRows 0 false false w = (s, ⟨[(k, rows)], [], [], none⟩) → s.engineLoad k (partEngine w) < 8 →
      s.routeOpen (s.msgDie n) (Fin.ofNat 4 (k.val / 2)) = true →
      ∃ t, exec .remotePartArrival s = .next t ∧ t.mem = s.mem ∧ t.msgs = s.msgs.filter (fun m => m.id != n) ∧
        t.cellar = s.cellar ++ [(k, partEngine w, ⟨s.nextId, .foreign lead tag, { w with rows := rows }, false, rows.length, hops⟩)])

/-! ### Resets, bring-up and the mailbox (R10, R320 to R323, R334 to R337, R400, R401) -/

/-- R10, R309, R320 to R322: a cold reset puts every field at its reset value over the flash and the fuses; a warm reset does so
but for the contents of memory, accumulators and weight slots, which are as Config has them (log 15), and for poison; and
firmware takes the device through its phases, to READY, or to RECOVERY where a signature does not verify.
The model's choices: logs 6, 12, 75. -/
def Obligations.ResetsAndPhases : Prop :=
  ∀ (s : State),
    let base := { State.reset with flash := s.flash, fuses := s.fuses, schedule := s.schedule }
    let ed := decide (s.flash.edKeyDigest = s.fuses.1) && Config.ed25519Verifies s.flash.edKeyDigest s.flash.image
    let ml := decide (s.flash.mlKeyDigest = s.fuses.2) && Config.mldsaVerifies s.flash.mlKeyDigest s.flash.image
    let stays (i : Instr) := exec i s = .next s
    exec .coldReset s = .next { base with freeCtr := s.freeCtr } ∧
    (∃ t, exec .warmReset s = .next t ∧ t = { base with
        freeCtr := t.freeCtr, warmResets := s.warmResets + 1, mem := t.mem, cores := t.cores, poison := s.poison } ∧
      (∀ c, t.core c = { Core.reset with accs := (t.core c).accs, weights := (t.core c).weights }) ∧
      (∀ c (i : Fin 16), { (t.core c).accs[i] with data := 0 } = Core.reset.accs[i]) ∧
      ∀ c (i : Fin 64), { (t.core c).weights[i] with data := 0 } = Core.reset.weights[i]) ∧
    (s.phase = .rom → exec .phaseRom s = .next { s with phase := .verify }) ∧ (s.phase ≠ .rom → stays .phaseRom) ∧
    (s.phase = .verify → exec .firmwareVerify s = .next { s with
      edOk := ed, mlOk := ml, phase := if ed && ml then .memory else .recovery, mailStatus := !(ed && ml) }) ∧
    (s.phase ≠ .verify → stays .firmwareVerify) ∧
    (s.phase = .memory → ∃ t, exec .phaseMemory s = .next t ∧ t = { s with
        dies := t.dies, phase := .config, stackMask := if s.flash.form = .olD then s.flash.stackMask &&& 3 else s.flash.stackMask } ∧
      ∀ d : DieId, t.die d = { s.die d with harvest := s.flash.harvest[d] }) ∧ (s.phase ≠ .memory → stays .phaseMemory) ∧
    (s.phase = .config → ∃ t, exec .phaseConfig s = .next t ∧ t = { s with
        dies := t.dies, phase := .links, device := s.flash.device, linkMode := s.flash.linkMode, paths := s.flash.paths, domSize := s.flash.domSize,
        pwrLimit := s.flash.pwrLimit, caps := s.flash.caps } ∧
      ∀ d : DieId, t.die d = { s.die d with softThresh := s.flash.softThresh }) ∧ (s.phase ≠ .config → stays .phaseConfig) ∧
    (s.phase = .links → (∃ p, s.untrained p = true) → ∃ t, exec .phaseLinks s = .next t ∧ t = { s with ports := t.ports } ∧
      ∀ p : PortId, t.ports[p] = if s.untrained p then { s.ports[p] with st := .training, since := max 1 s.time } else s.ports[p]) ∧
    (s.phase = .links → (∀ p : PortId, s.untrained p = false ∧ s.ports[p].st ≠ .training) →
      exec .phaseLinks s = .next { s with phase := .ready, mailStatus := true, cxlUp := true }) ∧ (s.phase ≠ .links → stays .phaseLinks)

/-- R323, R334 to R337, R344, R400, R401: the mailbox answers its commands, over the payload as it was when the command was
written, with the status word at 1. A report holds the nonce, the
device and the digest of the image; a command that is not answered completes with 0xFF. Binding gives the
context its cores in order, hart 0 of each LOADING from the template and the others OFF; unbinding turns every hart of its
cores OFF, empties their queues and leaves the context unbound. The model's choices: logs 12, 25, 76, 77, 81. -/
def Obligations.MailboxCommands : Prop :=
  ∀ (s : State) (w : Word),
    let answers (i : Instr) (p : State → Prop) := ∃ t, exec i s = .next t ∧ t.mailStatus = true ∧ t.mailCommand = none ∧ p t
    let completes (i : Instr) (p : State → Prop) := answers i fun t => t.mem = s.mem ∧ p t
    let response (t : State) (n : Nat) := leNat (Memory.readBytes t.mailArea 0x100 8) = n
    let a := s.mailAt 0x40
    let ctx := BitVec.ofNat 8 a
    let wtab := s.mailAt 0x48
    let tmpl := s.mailAt 0x50
    let ncore := a / 2 ^ 24 % 2 ^ 13
    let entries := (List.range ncore).map fun j => leNat (Memory.readBytes s.mem (windowKey (wtab + 2 * j)) 2)
    let template := Memory.readBytes s.mem (windowKey tmpl) 768
    let zeros := decide (a < 2 ^ 37 ∧ wtab < 2 ^ 22 ∧ tmpl < 2 ^ 22)
    let code := s.bindCode ctx (BitVec.ofNat 16 (a / 2 ^ 8)) ncore zeros wtab tmpl entries template
    Memory.wf s.mailArea = true → s.mailCommand = some w →
    (w = 1 → completes .mailboxReport fun t =>
      (∀ j, j < 32 → Memory.read t.mailArea (0x100 + j) = Memory.read s.mailPayload (0x40 + j)) ∧
      leNat (Memory.readBytes t.mailArea 0x120 8) = s.device.toNat ∧
      (∀ j (h : j < 48), Memory.read t.mailArea (0x128 + j) = (Config.sha384 s.flash.image)[j])) ∧
    (w = 2 → completes .mailboxCert fun t => ∀ j (h : j < 3840), Memory.read t.mailArea (0x100 + j) = Config.certificate[j]) ∧
    (w ≠ 1 → w ≠ 2 → (s.phase ≠ .ready ∨ w ≠ 3 ∧ w ≠ 4) → completes .mailboxUnknownCommand fun t => response t 0xFF) ∧
    (w = 3 → s.phase = .ready → (s.ctx? ctx ≠ none → code = 1) ∧
      (code ≠ 0 → completes .bindContext fun t => response t code ∧ t.ctxs = s.ctxs ∧ t.cores = s.cores) ∧
      (code = 0 → completes .bindContext fun t => response t 0 ∧ t.ctx? ctx = some
          { asid := BitVec.ofNat 16 (a / 2 ^ 8), window := entries, template := template, groups := [], revision := if s.arg = .revision true then 1 else 2
            overlays := [], windows := [] } ∧
        ∀ (j : Nat) (core : Nat), entries[j]? = some core → (t.core core).ctx = some ctx ∧ (t.core core).lcore = BitVec.ofNat 13 j ∧
          (t.core core).tasks = [] ∧ (t.hart ⟨core, 0⟩).st = .loading ∧ (t.hart ⟨core, 0⟩).job = .loadTemplate ∧
          ∀ h : HartId, h ≠ 0 → (t.hart ⟨core, h⟩).st = .off)) ∧
    (w = 4 → s.phase = .ready →
      (s.ctx? ctx = none → completes .unbindContext fun t => response t 1 ∧ t.cores = s.cores) ∧
      (∀ c, s.ctx? ctx = some c → a < 2 ^ 8 → answers .unbindContext fun t => response t 0 ∧
        ((∀ h : HartRef, (s.hart h).st ≠ .held ∧ (s.hart h).upcalls = []) → (∀ r ∈ s.reqs, r.image = none) → t.mem = s.mem) ∧
        ∀ core ∈ c.window, (t.core core).ctx = none ∧ (t.core core).tasks = [] ∧ ∀ h : HartId, (t.hart ⟨core, h⟩).st = .off))

/-- R267, R268, R313, R317, R319, R320, R335, R372, R379, R412: a host read of a device register returns its value, and all ones
where it is no aligned access of 8 bytes or names no register, and waits while the register's die or the way to it is halted; a word of a
domain-set map holds what was written, and a put window reads its counters and its device, which only the device writes; what the host's write of a register changes, and that the
registers and fields that only the device or firmware writes ignore it. The model's choices: logs 46, 49, 66. -/
def Obligations.RegisterWrites : Prop :=
  (∀ (s : State) (mailbox : Bool) (b n : Nat), s.arg = .barRead mailbox b n →
    let reads (l : List Byte) := exec .registerWrite s = .next { s with hostRead := l }
    (n ≠ 8 ∨ s.barRegister? mailbox b = none → reads (List.replicate n 0xFF)) ∧
    (∀ d off, n = 8 → s.barRegister? mailbox b = some (d, off) → if s.routeOpen 0 d = true then
      reads (leBytes (s.readRegister d off).toNat 8) else exec .registerWrite s = .next s)) ∧
  (∀ (s : State) (d : DieId) (n j : Nat), n < 64 → j < 72 →
    s.readRegister d (0x140000 + 0x240 * n + 8 * j) = (((tableGet (s.die d).roots n).getD Root.reset).dset).extractLsb' (64 * j) 64) ∧
  (∀ (s : State) (d : DieId) (x : BitVec 8) (c : Ctx) (n : Nat) (w : PutWindow), s.ctx? x = some c → n < 64 → tableGet c.windows n = some w →
    s.readRegister d (0x200000 + 1024 * x.toNat + 16 * n) = w.acked ++ w.issued ∧
    s.readRegister d (0x200008 + 1024 * x.toNat + 16 * n) = (match w.device with | some e => e.zeroExtend 64 | none => 0)) ∧
  ∀ (s : State) (d : DieId) (off : Nat) (w : Word), hostWrites s d off w →
    let v := s.die d
    let takes (t : State) := exec .registerWrite s = .next t
    (off < 0x30000 → off ≠ 0x10008 → takes s) ∧ (off = 0x40000 ∨ off = 0x40008 ∨ off = 0x40010 → takes s) ∧
    (0x110000 ≤ off ∧ off < 0x130000 ∨ 0x300000 ≤ off ∧ off < 0x302008 ∨ 0x310000 ≤ off → takes s) ∧
    (off = 0x30008 → takes { s with hflAddr := w.extractLsb' 0 57 }) ∧ (off = 0x30010 → takes { s with hflLen := w.extractLsb' 0 57 }) ∧
    (off = 0x30018 → takes { s with hflCtx := w.extractLsb' 0 8 }) ∧ (off = 0x30020 → takes { s with hflFlag := w.extractLsb' 3 19 }) ∧
    (off = 0x30028 → takes { s with hapBase := w.extractLsb' 32 25 }) ∧ (off = 0x30030 → takes { s with hapCtx := w.extractLsb' 0 8 }) ∧
    (off = 0x50000 → 5 ≤ phaseCode s.phase →
      takes (if s.mailStatus then { s with mailStatus := false, mailCommand := some w, mailPayload := s.mailArea } else s)) ∧
    (off = 0x50008 ∨ 0x50100 ≤ off ∧ off < 0x51000 ∨ 0x50000 ≤ off ∧ off < 0x51000 ∧ phaseCode s.phase < 5 → takes s) ∧
    (∀ i : SlotId, (s.slot i).st = .free → off = 0x100010 + 0x1000 * i.val → takes (s.setSlot i { s.slot i with
      blocks := (s.slot i).blocks.set d { (s.slot i).blocks[d] with sbase := w &&& 0x1FFFFFFFFFFFFF0#64 } })) ∧
    (∀ i : SlotId, (s.slot i).st ≠ .free → off = 0x100010 + 0x1000 * i.val → takes s) ∧
    (∀ n, n < 64 → ∃ t,
      let old := (tableGet v.roots n).getD Root.reset
      let new := fun (t : State) => (tableGet (t.die d).roots n).getD Root.reset
      (off = 0x130000 + 16 * n → takes t ∧ new t = { old with asid := w.extractLsb' 0 16, valid := w.getLsbD 16 }) ∧
      (off = 0x130008 + 16 * n → takes t ∧ new t = { old with taddr := w.extractLsb' 0 37, tdie := if s.dieCount = 1 then 0 else w.extractLsb' 37 2 })) ∧
    (∀ n j, n < 64 → j < 72 → off = 0x140000 + 0x240 * n + 8 * j → ∃ t, takes t ∧ t.mem = s.mem ∧
      let old := (tableGet v.roots n).getD Root.reset
      let new := (tableGet (t.die d).roots n).getD Root.reset
      new = { old with dset := new.dset } ∧ new.dset.extractLsb' (64 * j) 64 = w ∧
      (∀ k, k < 72 → k ≠ j → new.dset.extractLsb' (64 * k) 64 = old.dset.extractLsb' (64 * k) 64) ∧
      ∀ k, k ≠ n → tableGet (t.die d).roots k = tableGet v.roots k) ∧
    (0x149000 ≤ off ∧ off < 0x300000 → takes s) ∧
    (off = 0x302010 → ∃ t, takes t ∧ (t.die d).fbOvf = (v.fbOvf && !w.getLsbD 0) ∧ (t.die d).fbNew = (v.fbNew && !w.getLsbD 1) ∧
      (t.die d).fbOvfCnt = (if w.getLsbD 0 then 0 else v.fbOvfCnt)) ∧
    (off = 0x302008 →
      if (v.fbHead - v.fbTail).toNat < (w.extractLsb' 0 9 - v.fbTail).toNat then exec .fbtailWrite s = .next s
      else ∃ t, exec .fbtailWrite s = .next t ∧ (t.die d).fbTail = w.extractLsb' 0 9 ∧ t.mem = s.mem ∧
        ∀ k, tableGet (t.die d).records k = (tableGet v.records k).map fun x =>
          if (List.range (w.extractLsb' 0 9 - v.fbTail).toNat).any (fun j => (v.fbTail.toNat + j) % 256 == k) then
            (x.1 &&& ~~~ 0x1000#64, x.2) else x) ∧
    (off = 0x40018 → w.getLsbD 63 = false → takes (s.setDie d { v with softThresh := w.extractLsb' 32 16 })) ∧
    (off = 0x40018 → w.getLsbD 63 = true →
      exec .softerrClr s = .next (s.setDie d { v with softCorr := 0, softThresh := w.extractLsb' 32 16 })) ∧
    (off = 0x10008 →
      let code := w.extractLsb' 8 5
      if v.hot = true ∨ v.busy = true ∨ code.toNat < 10 ∨ 18 < code.toNat ∨ code = v.cur then exec .dclkctlTargetWrite s = .next s
      else ∃ t, exec .dclkctlTargetWrite s = .next t ∧ stepsClock s t d code ∧ (t.die d).cur = v.cur)

/-! ### Clocks, power, temperature and boundaries (R317, R324, R377, R406, R407, R412) -/

/-- R317, R324: a clock halts after its slot-15 die cycle and relocks 1500 to 1501 reference ticks later at its new code, and the
messages that its halt held go on; where the
package's power over the last 10 ms is above the limit, the die of highest power is lowered by one step, unless it is in one, and at
95 % of it or below a lowered one is raised.
The model's choices: log 67. -/
def Obligations.ClockSteps : Prop :=
  ∀ (s : State) (d : DieId),
    let v := s.die d
    (∀ c, s.arg = .die d → v.haltAfter = some c → v.halted = false → s.cycleTime d (c + 1) ≤ s.time →
      exec .clockHalt s = .next (s.setDie d { v with
        haltAfter := none, halted := true, anchorTime := s.cycleTime d (c + 1), anchorCycle := c,
        haltRef := BitVec.ofNat 64 (s.cycleTime d c / ticksUnit) })) ∧
    (s.arg = .die d → v.halted = true →
      let t := min s.time (v.anchorTime + 1501 * ticksUnit)
      (s.time < v.anchorTime + 1500 * ticksUnit → exec .clockRelock s = .next s) ∧
      (v.anchorTime + 1500 * ticksUnit ≤ s.time → ¬ (v.hot = true ∧ 10 < v.target.toNat) → exec .clockRelock s = .next (State.sendHeld (s.setDie d { v with
        halted := false, anchorTime := t, anchorCycle := v.anchorCycle + 1, stepRef := BitVec.ofNat 64 (t / ticksUnit)
        stepCyc := BitVec.ofNat 64 (v.anchorCycle + 1), stepOld := v.cur, cur := v.target, stepNew := v.target
        stepCount := v.stepCount + 1, busy := false })))) ∧
    (∀ w : Vector (BitVec 16) 4, s.arg = .power w →
      let sum := w[0].toNat + w[1].toNat + w[2].toNat + w[3].toNat
      let log := (sum :: s.pwrLog).take 10
      let within (percent : Nat) := log.sum * 100 ≤ s.pwrLimit.toNat * percent * log.length
      let may (d : DieId) := d.val < s.dieCount ∧ (s.die d).stopped = false ∧ 10 < (s.die d).cur.toNat
      let highest := may d ∧ ∀ x : DieId, x ≠ d → may x → w[x].toNat < w[d].toNat
      let readings (t : State) (but : Option DieId) := ∀ x : DieId, (t.die x).pwrNow = w[x] ∧
        (but ≠ some x → t.die x = { s.die x with pwrNow := w[x] })
      (within 100 ∨ highest ∧ v.busy = true → ∃ t, exec .powerLimitStep s = .next t ∧ readings t none ∧ t.pwrLog = log ∧
        t.mem = s.mem) ∧
      (¬ within 100 → highest → v.busy = false → v.cur.toNat ≤ 18 →
        ∃ t, exec .powerLimitStep s = .next t ∧ readings t (some d) ∧ stepsClock s t d (v.cur - 1) ∧
          (t.die d).lowered = v.lowered + 1 ∧ t.mem = s.mem) ∧
      (within 95 → 0 < v.lowered → (∀ x : DieId, x ≠ d → (s.die x).lowered = 0) → v.busy = false →
        v.hot = false → v.stopped = false → 10 ≤ v.cur.toNat → v.cur.toNat < 18 →
        ∃ t, exec .powerRestoreStep s = .next t ∧ readings t (some d) ∧ stepsClock s t d (v.cur + 1) ∧
          (t.die d).lowered = v.lowered - 1 ∧ t.mem = s.mem) ∧
      (¬ within 95 → ∃ t, exec .powerRestoreStep s = .next t ∧ readings t none ∧ t.mem = s.mem))

/-- R377, R406, R407, R412: at 105 degrees a die records THERMAL and steps down; after 100 ms below 95 degrees it may leave code
10; at 115 degrees it stops, and with die 0 every die does and the device is in RECOVERY. A failed boundary is recorded on both its
dies; one alone stops no die, and dies that are cut off from die 0 stop, with a record of the dies that go on. A unit of memory
that cannot be corrected is poisoned and recorded. The model's choices: logs 66, 68, 91. -/
def Obligations.ThermalSplitsAndScrubs : Prop :=
  ∀ (s : State) (d : DieId),
    let v := s.die d
    let stopped (t : State) (x : DieId) := (t.die x).stopped = true ∧
      ∀ (core : Nat) (h : HartId), dieOf core = x → (t.hart ⟨core, h⟩).st = .off
    (∀ c : BitVec 8, s.arg = .heat d c → d.val < s.dieCount →
      (c.toNat < 105 → ∃ t, exec .thermalLimit s = .next t ∧ (t.die d).tempMax = c ∧ (t.die d).hot = v.hot ∧ t.mem = s.mem) ∧
      (105 ≤ c.toNat → v.hot = false → v.stopped = false → ∃ t, exec .thermalLimit s = .next t ∧ (t.die d).hot = true ∧
        (t.die d).tempMax = c ∧ recordsOn t d 0x65 0 ∧ t.mem = s.mem ∧
        (10 < v.cur.toNat → v.cur.toNat ≤ 18 → v.busy = false → stepsClock s t d (v.cur - 1))) ∧
      (∀ since, c.toNat < 95 → v.stopped = false → v.coolSince = some since → since + 100000000 * ticksUnit ≤ s.time →
        ∃ t, exec .thermalRecover s = .next t ∧ (t.die d).hot = false ∧ (t.die d).tempMax = c ∧ t.mem = s.mem) ∧
      (115 ≤ c.toNat → v.stopped = false → ∃ t, exec .thermalStop s = .next t ∧ stopped t d ∧
        ((∀ h : HartRef, (s.hart h).st ≠ .held ∧ (s.hart h).upcalls = []) → (∀ r ∈ s.reqs, r.image = none) → t.mem = s.mem) ∧
        (∃ m, recordsOn t 0 0x65 m) ∧
        (d = 0 → t.phase = .recovery ∧ ∀ x : DieId, x.val < s.dieCount → stopped t x) ∧
        ∀ i : SlotId, (s.slot i).st = .running → (s.slot i).lead = d → (t.slot i).st = .fenced ∧ (t.slot i).fCode = 0x65)) ∧
    (∀ b : Fin 4, s.arg = .boundary b → s.dieCount = 4 → s.boundaries[b] = true →
      ∃ t, exec .dieBoundaryFailure s = .next t ∧ t.boundaries = s.boundaries.set b false ∧
        recordsOn t (boundaryDies b).1 0x61 (BitVec.ofNat 16 (0x100 + b.val)) ∧
        recordsOn t (boundaryDies b).2 0x61 (BitVec.ofNat 16 (0x100 + b.val)) ∧
        ((∀ x : Fin 4, s.boundaries[x] = true) → (∀ x : DieId, (s.die x).stopped = false) → ∀ x : DieId, (t.die x).stopped = false) ∧
        (s.boundaries = #v[false, true, true, true] → b = 2 → (∀ x : DieId, (s.die x).stopped = false) →
          (t.die 0).stopped = false ∧ stopped t 1 ∧ stopped t 2 ∧ stopped t 3 ∧ recordsOn t 0 0x62 1)) ∧
    (∀ n, s.arg = .place d n → d.val < s.dieCount → n < 2 ^ 37 → v.stopped = false →
      ∃ t, exec .hbmScrub s = .next t ∧ t.mem = s.mem ∧ recordsOn t d 0x63 0 ∧ (∀ k ∈ s.poison, k ∈ t.poison) ∧
        ∀ j, j < 4 → hbmKey d.val n / 32 * 32 + 8 * j ∈ t.poison)

/-! ### The host and the links (R134, R307 to R309, R313 to R315, R402, R404, R408) -/

/-- R134, R314, R315, R321, R408: a flush command waits for the aperture writes that it covers and then makes one flag arrival; an
aperture access leaves as a request in the address space of HAPCTX, or reads all ones where that is not bound; a write of the
coherent window performs at once and gives the host a copy of its lines; and the host link fails with a record, and returns,
or has its window reset by firmware, with no copy left. The model's choices: logs 54, 84, 105. -/
def Obligations.HostSteps : Prop :=
  ∀ (s : State) (d : DieId) (w : Word),
    let flushes (i : Instr) (covers : Req → Prop) :=
      (s.hflBusy = true → exec i s = .next s) ∧
      (s.hflBusy = false → ∃ l, exec i s = .next { s with hflBusy := true, hflWaits := l } ∧
        ∀ n, n ∈ l ↔ ∃ r ∈ s.reqs, r.id = n ∧ r.src = .host ∧ r.isWrite = true ∧ covers r)
    let ready := s.phase = .ready ∧ s.cxlUp = true
    let key := windowKey (8 * s.hflFlag.toNat)
    let flag := leNat (Memory.readBytes s.mem key 8)
    (hostWrites s d 0x30000 w → w.extractLsb' 0 2 = 1 → flushes .flush fun _ => True) ∧
    (hostWrites s d 0x30000 w → w.extractLsb' 0 2 = 2 → flushes .flushrange fun r => r.ctx = some s.hflCtx ∧
      s.hflAddr.toNat ≤ r.addr.toNat + (r.data.length - 1) ∧ r.addr.toNat < s.hflAddr.toNat + s.hflLen.toNat) ∧
    (s.hflBusy = false → exec .hostFlushComplete s = .next s) ∧
    (s.hflBusy = true → (∀ n ∈ s.hflWaits, (∀ r ∈ s.reqs, r.id ≠ n) ∧ ∀ m ∈ s.msgs, m.id ≠ n) → 8 * s.hflFlag.toNat / 64 ∉ s.hostLines → s.anyPoisoned [key] = false →
      Memory.wf s.mem = true → ∃ t, exec .hostFlushComplete s = .next t ∧ t.hflBusy = false ∧ t.hflWaits = [] ∧ t.reqs = s.reqs ∧
        leNat (Memory.readBytes t.mem key 8) = flag / 2 ^ 48 * 2 ^ 48 + (flag % 2 ^ 48 + 1) % 2 ^ 48 ∧ keepsMemoryBut s t key 8) ∧
    (∀ off n (data : List Byte),
      let inside (n : Nat) := 0 < n ∧ off % 64 + n ≤ 64 ∧ off + n ≤ 2 ^ 32
      let addr := BitVec.ofNat 64 (s.hapBase.toNat * 2 ^ 32 + off)
      let leaves (i : Instr) (op : ReqOp) (b : List Byte) := ∀ c, s.ctx? s.hapCtx = some c → ∃ r,
        exec i s = .next { s with reqs := s.reqs ++ [r], nextId := s.nextId + 1 } ∧ r.id = s.nextId ∧ r.src = .host ∧ r.asid = c.asid ∧
          r.ctx = some s.hapCtx ∧ r.addr = addr ∧ r.op = op ∧ r.data = b ∧ r.stage = .queued
      (s.arg = .hostWrite off data → ready → inside data.length → leaves .hostApertureWrite .write data) ∧
      (s.arg = .hostRead off n → ready → inside n → leaves .hostApertureRead (.read n) [] ∧
        (s.ctx? s.hapCtx = none → ∃ t, exec .hostApertureRead s = .next t ∧ t.hostRead = List.replicate n 0xFF ∧
          recordsOn t 0 0x36 0 ∧ t.mem = s.mem)) ∧
      (s.arg = .hostWrite off data → ¬ ready → exec .hostApertureWrite s = .next s ∧ exec .hostWindowWrite s = .next s) ∧
      (s.arg = .hostRead off n → ¬ ready → exec .hostApertureRead s = .next s) ∧
      (s.arg = .hostRead off n → ready → 0 < n → off + n ≤ 2 ^ 22 →
        s.anyPoisoned ((List.range n).map fun i => windowKey (off + i)) = false → ∃ t, exec .hostWindowWrite s = .next t ∧
          t.hostRead = Memory.readBytes s.mem (windowKey off) n ∧ t.reqs = s.reqs ∧ t.mem = s.mem ∧
          (∀ i, i < n → (off + i) / 64 ∈ t.hostLines) ∧ ∀ l ∈ s.hostLines, l ∈ t.hostLines) ∧
      (s.arg = .hostWrite off data → ready → 0 < data.length → off + data.length ≤ 2 ^ 22 → Memory.wf s.mem = true →
        ∃ t, exec .hostWindowWrite s = .next t ∧ t.reqs = s.reqs ∧
          (∀ i (h : i < data.length), Memory.read t.mem (windowKey (off + i)) = data[i] ∧ (off + i) / 64 ∈ t.hostLines) ∧
          (∀ l ∈ s.hostLines, l ∈ t.hostLines) ∧ keepsMemoryBut s t (windowKey off) data.length)) ∧
    (∀ n, s.arg = .line n → s.cxlUp = true → exec .backInvalidationResponse s = .next { s with
      hostLines := s.hostLines.filter (· != n), backInv := s.backInv.filter fun x => x.1 != n }) ∧
    (s.cxlUp = true → (∃ t, exec .cxlLinkDown s = .next t ∧ t.cxlUp = false ∧ recordsOn t 0 0x61 0x200 ∧ t.mem = s.mem) ∧
      exec .cxlLinkReturn s = .next s) ∧
    (s.cxlUp = false → exec .cxlLinkDown s = .next s ∧
      (s.phase = .ready → ((∀ n, s.arg ≠ .line n) → exec .cxlLinkReturn s = .next { s with cxlUp := true, hostLines := [], backInv := [] }) ∧
        ∀ n, s.arg = .line n → exec .cxlLinkReturn s = .next { s with hostLines := [], backInv := [] }))

/-- R307 to R309, R402, R404: a port moves between its states as their tables say, with a record where it is degraded or dies; a
bad flit is dropped and asked for again, one received before delivers nothing, and a good one in sequence is taken; requests sent to
a device on a path that has been dead for 25 µs, at its port or beyond, or in flight across a boundary of the package that has
failed, end UNKNOWN; a path that dies beyond its port leaves use; and a flit older than 20 µs is no longer delivered.
The model's choices: log 80. -/
def Obligations.PortSteps : Prop :=
  ∀ (s : State) (p : PortId),
    let v := s.ports[p]
    let die : DieId := Fin.ofNat 4 (portDie p.val)
    let enters (i : Instr) (v : Port) (st : PortState) := exec i s = .next (s.setPort p { v with st := st, since := s.time })
    let recorded (i : Instr) (v : Port) (st : PortState) (code : BitVec 8) (good : Nat) := ∃ t, exec i s = .next t ∧ t.mem = s.mem ∧
      t.ports = (s.setPort p { v with st := st, since := s.time }).ports ∧ recordsOn t die code (BitVec.ofNat 16 (p.val + 256 * good))
    let carries := v.st = .active ∨ v.st = .degraded
    let repeats := (v.recent.filter fun x => decide (s.time < x + 1000000 * ticksUnit)).length
    (s.arg = .port p →
      (v.st = .down → portDie p.val < s.dieCount → if (s.die die).stopped = true then exec .portEnable s = .next s
        else enters .portEnable v .training) ∧
      (v.st = .training → s.time < v.since + 10000000 * ticksUnit → enters .portTrained { v with
        lanes := 4, good := 4, recent := [], lastFlit := s.time, rxNext := 0, rxWaiting := [], asked := [], owed := 0, txNext := 0
        txAcked := 0, store := [] } .active) ∧
      (v.st = .training → v.since + 10000000 * ticksUnit ≤ s.time → exec .portTrained s = .next s) ∧
      (v.st = .training → v.since + 10000000 * ticksUnit ≤ s.time → enters .trainingTimeout v .down) ∧
      (v.st = .training → s.time < v.since + 10000000 * ticksUnit → exec .trainingTimeout s = .next s) ∧
      (v.st = .active → enters .portQuiesce v .quiesced) ∧
      (v.st = .quiesced → v.txAcked = v.txNext → enters .quiesceComplete { v with lanes := 0, good := 0 } .down) ∧
      (v.st = .dead → enters .portDisable v .down) ∧
      (v.st = .active → 256 ≤ repeats → recorded .portDegrade v .degraded 0x60 v.good.toNat) ∧
      (v.st = .degraded → repeats < 16 → enters .laneRealign { v with lanes := 4, good := 4 } .active)) ∧
    (∀ n, s.arg = .lanes p n → carries →
      (n = 1 → 2 ≤ v.good.toNat → recorded .laneLoss { v with lanes := 1, good := 1 } .degraded 0x60 1) ∧
      (n = 2 ∨ n = 3 → n < v.good.toNat → v.good.toNat ≤ 4 →
        recorded .laneLoss { v with lanes := 2, good := BitVec.ofNat 3 n } .degraded 0x60 n)) ∧
    (s.arg = .death p .noLane → carries → s.vc2Sent = [] → recorded .portDead { v with lanes := 0, good := 0 } .dead 0x61 0) ∧
    (s.arg = .death p .silent → s.time < v.lastFlit + 10000 * ticksUnit → exec .portDead s = .next s) ∧
    (∀ (device path : Nat) (r : Req), s.arg = .path device path → r ∈ s.reqs → r.stage = .sent → r.path = path →
      r.route.map (·.1) = some device → device ≠ s.device.toNat →
      (∃ x ∈ s.deadPaths, x.1 = (s.portOf device path).val ∧ x.2 + 25000 * ticksUnit ≤ s.time ∧ r.sentAt ≤ x.2) ∨
        (∃ x ∈ s.farDead, x.1 = device ∧ x.2.1 = path ∧ x.2.2 + 25000 * ticksUnit ≤ s.time ∧ r.sentAt ≤ x.2.2) → (∀ q ∈ s.reqs, q.id = r.id → q = r) →
      (∀ q ∈ s.reqs, ∀ a b c e, q.src ≠ .foreign a b c e) → ∃ t, exec .pathDeathSettle s = .next t ∧ t.mem = s.mem ∧
        { r with stage := .answered (.faulted 0x32 r.addr 0) } ∈ t.reqs) ∧
    (∀ (b : Fin 4) (r : Req) (at_ : Nat), s.arg = .boundary b → r ∈ s.reqs → (r.id, at_) ∈ s.cuts → at_ + 25000 * ticksUnit ≤ s.time →
      (∀ q ∈ s.reqs, q.id = r.id → q = r) → (∀ q ∈ s.reqs, ∀ a b c e, q.src ≠ .foreign a b c e) →
      ∃ t, exec .pathDeathSettle s = .next t ∧ t.mem = s.mem ∧ { r with stage := .answered (.faulted 0x32 r.addr 0) } ∈ t.reqs ∧
        ∀ x ∈ t.cuts, x ∈ s.cuts ∧ s.time < x.2 + 25000 * ticksUnit) ∧
    (∀ device path, s.arg = .path device path → s.pathDead device path = false → ∃ t, exec .portDead s = .next t ∧
      t.farDead = s.farDead ++ [(device, path, s.time)] ∧ path ∉ t.livePaths device ∧ t.mem = s.mem) ∧
    (∃ l, exec .flitDiscard s = .next { s with fabricOut := l } ∧
      ∀ m ∈ s.fabricOut, m ∈ l ↔ s.time ≤ m.time + 20000 * ticksUnit ∨ s.awaited m = true) ∧
    (∀ f : Flit, s.arg = .flit p f →
      (v.st = .down ∨ v.st = .training ∨ v.st = .dead → exec .flitReceive s = .next s) ∧
      (v.st = .quiesced → f.vc ≠ 1 → f.seq ∉ v.asked → exec .flitReceive s = .next s) ∧
      (carries → flitGood f = false → exec .flitReceive s = .next (s.setPort p { v with
        lastFlit := s.time, asked := (if f.seq ∈ v.asked then v.asked else f.seq :: v.asked)
        repeats := (if v.repeats = 0xFFFFFFFF then v.repeats else v.repeats + 1)
        recent := s.time :: v.recent.filter fun x => decide (s.time < x + 1000000 * ticksUnit) })) ∧
      (carries → flitGood f = true → f.repeatOf = none → 2048 ≤ (f.seq - v.rxNext).toNat → ∃ t, exec .flitReceive s = .next t ∧
        t = s.setPort p t.ports[p] ∧ (t.ports[p]).rxNext = v.rxNext) ∧
      (carries → flitGood f = true → f.repeatOf = none → f.seq = v.rxNext → v.rxWaiting = [] → f.messages = [] → ∃ t, exec .flitReceive s = .next t ∧
        t = s.setPort p t.ports[p] ∧ (t.ports[p]).rxNext = v.rxNext + 1 ∧ (t.ports[p]).rxWaiting = []) ∧
      (∀ tag a r source, carries → flitGood f = true → f.repeatOf = none → f.vc = 1 → f.seq = v.rxNext → v.rxWaiting = [] →
        f.messages = [⟨source, none, .reply tag a⟩] → s.req? tag = some r → r.stage = .sent → r.route.map (·.1) = some source →
        s.routeOpen die (dieOf r.core) = true → ∃ t, exec .flitReceive s = .next t ∧ t.req? tag = some { r with stage := .answered a } ∧ t.mem = s.mem)) ∧
    (∀ (n : BitVec 12) (m : Departed), s.arg = .repeatOf p n →
      (carries → v.store.find? (fun x => x.1 == n) = some (n, m) → exec .repeatRequestReceive s = .next { s with
        fabricOut := { m with time := s.time } :: s.fabricOut.filter fun x => x != m }) ∧
      (carries → v.store.find? (fun x => x.1 == n) = none → s.vc2Sent = [] →
        recorded .repeatRequestReceive { v with lanes := 0, good := 0 } .dead 0x61 v.good.toNat))

/-! ### Encodings, reset and the step (R10, R136 to R148, R287, R320) -/

/-- R136 to R148, R251, R287: every well-formed instruction that words encode is what its words decode to, with every operand. -/
def Obligations.DecodeUndoesEncode : Prop :=
  ∀ i : Instr, i.wellFormed = true → encode i ≠ .none → decode (encode i) = some i

/-- The worked words of the spec's encoding tables decode to the instructions they stand for. -/
def Obligations.WordsDecode : Prop :=
  decodeCore 0x0888680B = some (.mov2 4 0x11 3 0x10) ∧
  decodeCore 0x0140022B = some (.mxMm ⟨0, 0, 5⟩) ∧
  decodeCore 0xA002422B = some (.mxSt ⟨2, 2, 0⟩) ∧
  decodeCore 0x040A402B = some (.vaFmul ⟨0, 0, 0x10⟩ 1) ∧
  decodeCore 0x0506C0AB = some (.vsRsumS ⟨0, 0, 0x14⟩) ∧
  decodeCore 0x06C001AB = some (.lsLd ⟨0, 0, 0x1B⟩) ∧
  decodeCore 0x088002AB = some (.wbLd ⟨0, 0, 0x22⟩) ∧
  decodeCore 0x0900432B = some (.ceRunv ⟨0, 0, 0x24⟩) ∧
  decodeCore 0x098883AB = some (.niTaddF32 ⟨0, 0, 0x26⟩ 2) ∧
  decodeCore 0xB605200B = some (.mvxpD 0x1B 0 10) ∧
  decodeCore 0xAE00160B = some (.mvpxW 0x17 0 12) ∧
  decodeCore 0x00B5005B = some (.fwait 11 10) ∧
  decodeCore 0x0200655B = some (.qmov 0 10) ∧
  decodeCore 0x10500073 = some .wfi ∧
  decodeStream 0x00000100000000000000000000010010 = some (.sload ⟨0x10000000000, 0, 0, 0, 0, 0, 1, 0, 0, 0, 0, 0, 0⟩) ∧
  decodeStream 0x00000000000000000000080000420021 = some (.sew ⟨0, 0, 8, 0, 0, 1, 2, 0, 0, 0, 0, 0, 0⟩) ∧
  decodeCore 0 = none ∧ decodeStream 0 = none ∧ decodeCopy 0xFF = none

/-- R10, R41, R48, R72, R113, R115, R163, R239, R269, R309, R320, R321, R372: what a cold reset leaves: phase ROM, every hart OFF with its task
ended, empty queues and tables, clocks at code 15, slots FREE, ports DOWN, an empty fault buffer, and memory in its canonical form.
The model's choices: logs 3, 4, 5, 6. -/
def Obligations.ResetValues : Prop :=
  let s := State.reset
  s.safe ∧ s.phase = .rom ∧ s.edOk = false ∧ s.mlOk = false ∧ s.refTime = 0 ∧ s.ctxs = [] ∧ s.reqs = [] ∧ s.hflBusy = false ∧
  (∀ d : DieId, s.cycle d = 0 ∧ (s.die d).cur = 15 ∧ (s.die d).target = 15 ∧ (s.die d).busy = false ∧ (s.die d).stepOld = 15 ∧
    (s.die d).stepNew = 15 ∧ (s.die d).stepCount = 0 ∧ (s.die d).fbHead = 0 ∧ (s.die d).fbTail = 0 ∧ (s.die d).fbOvf = false ∧
    (s.die d).softCorr = 0 ∧ (s.die d).tempMax = 0 ∧ (s.die d).stubs = []) ∧
  (∀ n, (s.core n).autostart = false ∧ (s.core n).automask = 0xFFFE ∧ (s.core n).autoprio = 3 ∧ (s.core n).tasks = [] ∧
    (s.core n).numevt = 0 ∧ (s.core n).ctx = none ∧ (∀ t : Fin 64, ((s.core n).tiles[t]).st = .empty ∧ ((s.core n).tiles[t]).gen = 0) ∧
    (∀ a : Fin 16, ((s.core n).accs[a]).data = 0 ∧ ((s.core n).accs[a]).tag = 0)) ∧
  (∀ h : HartRef, (s.hart h).st = .off ∧ (s.hart h).exitVal = 0 ∧ (s.hart h).ended = true ∧ (s.hart h).csr.compat = 0 ∧
    (s.hart h).csr.quantumLimit = 0) ∧
  (∀ i : SlotId, (s.slot i).st = .free ∧ (s.slot i).fValid = false ∧ (s.slot i).window = []) ∧ (∀ n, (s.desc n).st = .free) ∧
  (∀ p : PortId, s.ports[p].st = .down ∧ s.ports[p].lanes = 0)

/-- Every step keeps memory in its canonical form (log 3), from every state that has it so. -/
def Obligations.StepsKeepMemoryCanonical : Prop := ∀ s t : State, s.safe → step s = .next t → t.safe

/-- The schedule of log 2: what the present time has brought comes first, with a step that is due now; then a slot runs the
instruction that the four bytes at the issuing hart's PC decode to, where no trap, interrupt or upcall is due, its device owns the
region and the way to it is open, in the state that the fetch leaves (a register that the record of a fault has filled with 0 is
read only once the fault's trap can be taken: R420); the turn of a window entry runs the instruction of its word, the turn of a
list its next command, and an event its step; an idle turn passes time, but no hart's slot and nothing that becomes due.
The model's choices: log 16. -/
def Obligations.StepRunsDecoded : Prop :=
  ∀ (s : State) (rest : List Turn),
    let u := { s.catchUp with schedule := rest }
    (∀ x a, s.catchUp.forced = some (x, a) → isAgentStep x = true → step s = exec x { s.catchUp with arg := a }) ∧
    (s.catchUp.forced = none →
    (∀ (q g' f : State) (die : DieId) (k : List Nat) (i : Instr), s.schedule = .slot :: rest → u.nextIssue = some q →
      (u.until q.time).time = q.time →
      let g := q.catchUp
      let c := g.setMe { g.me.rewritten with issueFrom := g.coreCycle g.cur.core + 1 }
      let pc := c.me.pc
      let line := { g'.hartReq c.cur with addr := BitVec.ofNat 64 (pc.toNat / 64 * 64), op := .read 64 }
      let w := BitVec.ofNat 32 (leNat (Memory.readBytes f.mem (k.headD 0) 4))
      c.faultDue c.cur = none → c.interruptDue c.cur = none → c.upcallDue c.cur = none → c.upcallHeld c.cur = false → c.fetchHeld c.me = false →
      g.me.issues = true → c.me.fetching = none → c.me.lines = [] → c.me.mapped = true → pc.extractLsb' 57 7 = 0 → pc.toNat % 4 = 0 →
      c.overlaid c.cur.core pc = pc → c.ownerFor c.cur.core c.me.asid pc.toNat = (g', .inr (g'.device.toNat, die)) →
      g'.regionState die c.me.asid pc.toNat = none → g'.routeHeld line = false → g'.routeOpen (dieOf c.cur.core) die = true → g'.agentTranslate die c.me.asid pc.toNat 4
        ⟨c.me.mode == .user, false, false, true⟩ (clusterRow c.cur.core) = (f, .keys k) →
      f.anyPoisoned ((List.range 64).map fun j => k.headD 0 - pc.toNat % 64 + j) = false →
      f.me.upsets = [] → f.myCore.kUpset = 0 → f.cur = c.cur → pc.toNat % 64 ≤ k.headD 0 → f.me.breaks 1 f.me.pc = false → decodeCore w = some i →
      ∃ t, step s = (if t.readsSettled i = true then .next t else exec i t) ∧ t.insn = w ∧ t = { f.setMe t.me with insn := w } ∧
        t.me = { f.me with lines := t.me.lines }) ∧
    (∀ (i : SlotId) (n : Nat) (e : Entry) (x : Instr), s.schedule = .stream i n :: rest →
      (u.slot i).entry? n = some e → e.instr = some x → step s = exec x { u with strCur := (i, n) }) ∧
    (∀ (core i off : Nat) (l : CeList) (x : Instr), s.schedule = .copy core i :: rest →
      let c := u
      let w := BitVec.ofNat 512 (leNat (Memory.readBytes c.mem (spadKey core off) 64))
      (c.core core).lists[i]? = some l → l.closed = false → l.waiting = false → c.mayRead l.t = true → c.sourceHolds core 1 (some .ce) = false →
      l.t.fn = 0 → c.place core l.pc = some (.spad core off 0) → l.pc.extractLsb' 60 4 = 8 → off + 64 ≤ 0x40000 →
      c.engineProtects l.t .read off 64 = true → c.anyPoisoned (spadKeys core off 64) = false → decodeCopy w = some x →
      step s = exec x { c with ceCur := (core, i, l.reached) }) ∧
    (∀ (x : Instr) (a : EventArg), s.schedule = .event x a :: rest → isAgentStep x = true →
      step s = exec x { u with arg := a }) ∧
    (∀ n, s.schedule = .idle n :: rest →
      (u.nextIssue = none → step s = .next (u.until (u.time + n))) ∧
      (∀ q, u.nextIssue = some q → step s = .next (u.until (min q.time (u.time + n))))))


/-! ### Flags, tiles and posted requests (R72 to R79, R171 to R180, R385) -/

/-- R77, R78, R171: `fwait` on a word of the own scratchpad goes on where (word − target) mod 2^48 is below 2^47, and else parks
with its watch entry set on the word and the target; no register and no byte of memory changes; a data breakpoint on the word traps
first (R165). R72 to R74, R173 to R175, R385:
`tdef` writes the descriptor of an EMPTY tile, and takes OPERAND for one with reserved bits set, no line or lines past the scratchpad; `tarm` arms one: FILLING with its expected count, or READY in a new generation
where that is 0; `trel` releases a READY tile, which is EMPTY at once where no trigger in flight names it, and else DRAINING,
and leaves an EMPTY or DRAINING one; `twait` goes on where the tile is READY and else parks. A tile that is not EMPTY takes code
0x04 of `tdef` and 0x05 of `tarm`, and a FILLING one OPERAND of `trel`. The model's choices: log 41. -/
def Obligations.FlagAndTileInstructions : Prop :=
  (∀ (s : State) (a b : Reg) (off : Nat),
    let addr := s.me.readX a
    let target := (s.me.readX b).toNat % 2 ^ 48
    let word := leNat (Memory.readBytes s.mem (spadKey s.cur.core off) 8)
    let reached := (word + (2 ^ 48 - target)) % 2 ^ 48 < 2 ^ 47
    let parked (t : State) := t.me.st = .parked ∧ t.me.wait = .flag ∧ t.me.pc = s.me.pc ∧ t.me.x = s.me.x ∧ t.mem = s.mem ∧
      t.myCore = { s.myCore with
        harts := s.myCore.harts.set s.cur.hart t.me, watch := s.myCore.watch.set s.cur.hart ⟨BitVec.ofNat 18 off, true, BitVec.ofNat 48 target⟩ }
    s.me.isFull a = true → s.me.isFull b = true → s.place s.cur.core addr = some (.spad s.cur.core off 0) →
    (addr.toNat % 8 = 0 → s.checkSpad s.cur s.me.mode .read addr s.device.toNat s.cur.core off 0 8 = true →
      s.anyPoisoned ((List.range 8).map (spadKey s.cur.core off + ·)) = false →
      (s.me.breaks 2 addr = true → traps (.fwait b a) s 3 addr) ∧ (s.me.breaks 2 addr = false → (reached → exec (.fwait b a) s = .next (s.setMe s.me.next)) ∧
      (¬ reached → ∃ t, exec (.fwait b a) s = .next t ∧ parked t))) ∧
    (addr.toNat % 8 ≠ 0 → traps (.fwait b a) s 4 addr)) ∧
  (∀ (s : State) (a b : Reg) (n : Fin 64),
    let c := s.myCore
    let tile := c.tiles[n]
    let d := s.me.readX b
    let described := d.extractLsb' 0 6 = 0 ∧ d.extractLsb' 21 11 = 0 ∧ d.extractLsb' 45 19 = 0 ∧
      1 ≤ (d.extractLsb' 32 13).toNat ∧ (d.extractLsb' 32 13).toNat ≤ 4096 ∧
      (d.extractLsb' 0 18).toNat + 64 * (d.extractLsb' 32 13).toNat ≤ 0x40000
    let sets (i : Instr) (v : Tile) := ∃ t, exec i s = .next t ∧ t.me = s.me.next ∧ t = s.setMyCore t.myCore ∧
      t.myCore = { c with harts := c.harts.set s.cur.hart t.me, tiles := t.myCore.tiles } ∧
      ∀ m : Fin 64, (m = n → t.myCore.tiles[m] = v) ∧ (m ≠ n → c.tiles[m].st ≠ .draining → t.myCore.tiles[m] = c.tiles[m])
    s.me.isFull a = true → (s.me.readX a).toNat = n.val →
    (s.me.isFull b = true →
      (described → tile.st ≠ .empty → trapsWith (.tdef b a) s 0x04 (BitVec.ofNat 8 n.val)) ∧
      (¬ described → trapsWith (.tdef b a) s 0x01 (b.zeroExtend 8)) ∧
      (tile.st = .empty → described →
        sets (.tdef b a) { tile with base := d.extractLsb' 0 18, win := d.extractLsb' 18 3, lines := d.extractLsb' 32 13 }) ∧
      (tile.st = .empty → d.extractLsb' 16 48 = 0 →
        sets (.tarm b a) (if d = 0 then { tile with st := .ready, arrived := 0, gen := tile.gen + 1 }
          else { tile with st := .filling, expect := d.extractLsb' 0 16, arrived := 0 })) ∧
      (tile.st ≠ .empty → d.extractLsb' 16 48 = 0 → trapsWith (.tarm b a) s 0x05 (BitVec.ofNat 8 n.val))) ∧
    (tile.st = .ready → sets (.trel a) { tile with
      st := if c.mxq.any (fun q => q.macroOp.isNone && q.a.toNat % 64 == n.val)
          || c.mx.any (fun q => q.t.macroOp.isNone && q.t.a.toNat % 64 == n.val)
        then .draining else .empty }) ∧
    (tile.st = .empty ∨ tile.st = .draining → exec (.trel a) s = .next (s.setMe s.me.next)) ∧
    (tile.st = .filling → trapsWith (.trel a) s 0x01 (a.zeroExtend 8)) ∧
    (if tile.st = .ready then exec (.twait a) s = .next (s.setMe s.me.next)
      else ∃ t, exec (.twait a) s = .next t ∧ t = s.setMe t.me ∧ t.me.st = .parked ∧ t.me.pc = s.me.pc ∧ t.me.x = s.me.x ∧
        t.me.wait = .tile (BitVec.ofNat 6 n.val)))

/-- R120, R172, R176 to R179: `fbump`, `pstf`, the posted and the fetching atomics and `rcas` on virtual space: with their
operands full and aligned they enter the outbound queue with their operation, data and arrival, or issue again while it is full.
The destination of a fetching one is empty until it returns; no other register and no byte of memory changes. A flag address of
`fbump` in virtual space, where no flag is, traps with cause 7, and a data breakpoint that an address matches with cause 3 (R165). R124, R125, R180: `rfence.rel` waits for every access that the
hart has issued before it, at domain scope, and for its triggers, and holds its later writes; `rfence.acq` waits for its reads
and AMOs, and holds every later access. Each empties rd until it performs. The model's choices: log 37. -/
def Obligations.PostedAtomicsReleasesAndAcquires : Prop :=
  (∀ (s : State) (a b c d : Reg) (w2 : BitVec 2) (w : BitVec 1) (va : Nat),
    let addr := s.me.readX a
    let flag := s.me.readX c
    let x := s.me.readX b
    let dbl := w == 1
    let n := if w = 1 then 8 else 4
    let sends (i : Instr) (adr : Word) (op : ReqOp) (data : List Byte) (arrival : Arrival) (dest : Dest) (v : Hart) :=
      if s.niFull s.cur.core = true then exec i s = .next s
      else ∃ t r, exec i s = .next t ∧ posts s t adr op data arrival dest r ∧ goesOn t v ∧ t.mem = s.mem
    let fetches (i : Instr) (op : AtomOp) := sends i addr (.atomic op dbl x 0) [] .none (.xreg d dbl) (s.me.empty d)
    let arrival : Arrival := if c = 0 then .none else .flag flag
    let flagOk := c = 0 ∨ (flag.toNat % 8 = 0 ∧ ∃ p, s.flagPlace s.cur flag = some p)
    s.me.isFull a = true → s.place s.cur.core addr = some (.virt va) →
    (s.me.isFull b = true → s.me.isFull c = true → flagOk → addr.toNat % 8 = 0 → s.me.breaks 3 addr = true →
      ∀ i ∈ ([.pstf c w2 b a, .raddfInt c w b a, .raddfFloat c w b a, .rfadd w b a d, .rfswap w b a d, .rfand w b a d,
        .rfor w b a d, .rfxor w b a d, .rfmin w b a d, .rfmax w b a d, .rfminu w b a d, .rfmaxu w b a d, .rfaddf w b a d,
        .rcas c w b a d] : List Instr), traps i s 3 addr) ∧
    (s.me.breaks 3 addr = false → s.me.isFull b = true → s.me.isFull c = true → flagOk → c = 0 ∨ s.me.breaks 3 flag = false →
      (addr.toNat % 2 ^ w2.toNat = 0 →
        sends (.pstf c w2 b a) addr .write (leBytes x.toNat (2 ^ w2.toNat)) arrival .none s.me) ∧
      (addr.toNat % n = 0 →
        sends (.raddfInt c w b a) addr (.atomic .add dbl x 0) [] arrival .none s.me ∧
        sends (.raddfFloat c w b a) addr (.atomic .addf dbl x 0) [] arrival .none s.me)) ∧
    (s.me.breaks 3 addr = false → s.me.isFull b = true → addr.toNat % n = 0 →
      fetches (.rfadd w b a d) .add ∧ fetches (.rfswap w b a d) .swap ∧ fetches (.rfand w b a d) .and ∧
      fetches (.rfor w b a d) .or ∧ fetches (.rfxor w b a d) .xor ∧ fetches (.rfmin w b a d) .min ∧
      fetches (.rfmax w b a d) .max ∧ fetches (.rfminu w b a d) .minu ∧ fetches (.rfmaxu w b a d) .maxu ∧
      fetches (.rfaddf w b a d) .addf ∧
      (s.me.isFull c = true →
        sends (.rcas c w b a d) addr (.atomic .cas dbl x (s.me.readX c)) [] .none (.xreg d dbl) (s.me.empty d))) ∧
    (addr.toNat % n ≠ 0 → s.me.isFull b = true → traps (.rfadd w b a d) s 6 addr) ∧
    (s.me.isFull c = true → flag.toNat % 8 = 0 → (∃ p, s.flagPlace s.cur flag = some p) →
      if s.me.breaks 3 flag = true then traps (.fbump c) s 3 flag else sends (.fbump c) flag .arrivalOnly [] (.flag flag) .none s.me) ∧
    (addr.toNat % 8 = 0 → traps (.fbump a) s 7 addr)) ∧
  (∀ (s : State) (scope : BitVec 2) (d : Reg),
    (∃ t r, exec (.rfenceRel scope d) s = .next t ∧ t.reqs = s.reqs ++ [r] ∧ r.id = s.nextId ∧ r.kind = .release scope ∧
      r.dest = .xreg d true ∧ r.src = .hart s.cur ∧ r.after = s.me.flights.map (·.seq) ∧
      (scope = 3 → ∀ q ∈ s.reqs, q.kind = .access → q.src.hart? = some s.cur → q.born ≤ s.nextId → q.id ∈ r.waits) ∧
      goesOn t (s.me.empty d) ∧ r.id ∈ t.me.holdWrites ∧ t.mem = s.mem) ∧
    (∃ t r, exec (.rfenceAcq scope d) s = .next t ∧ t.reqs = s.reqs ++ [r] ∧ r.id = s.nextId ∧ r.kind = .acquire ∧
      r.dest = .xreg d true ∧ r.src = .hart s.cur ∧
      (∀ q ∈ s.reqs, q.kind = .access → q.src.hart? = some s.cur → q.isRead = true → q.id ∈ r.waits) ∧
      goesOn t (s.me.empty d) ∧ r.id ∈ t.me.holdAll ∧ t.mem = s.mem))


end
end

