-- ==== Sys2Proof/Laws/Encoding.lean ====
section
/-! SUPPORT. The layouts of words and the reading of their fields undo each other. -/

namespace Sys2Proof.Laws

/-- A field above the low part of an append lies in its high part. -/
theorem extract_past {v w : Nat} (x : BitVec v) (y : BitVec w) (s l : Nat) (h : w ≤ s) :
    BitVec.extractLsb' s l (x ++ y) = BitVec.extractLsb' (s - w) l x := BitVec.extractLsb'_append_eq_of_le h

/-- The low part of an append is its low field. -/
theorem extract_here {v w : Nat} (x : BitVec v) (y : BitVec w) : BitVec.extractLsb' 0 w (x ++ y) = y :=
  (BitVec.extractLsb'_append_eq_of_add_le (by omega)).trans BitVec.extractLsb'_eq_self

/-- An R-type word's fields are those it was laid out from. -/
theorem splitR_rType (f7 : BitVec 7) (b a : BitVec 5) (f3 : BitVec 3) (d : BitVec 5) (op : BitVec 7) :
    splitR (rType f7 b a f3 d op) = ⟨f7, b, a, f3, d, op⟩ := by
  unfold splitR rType
  congr 1
  · repeat (refine (extract_past _ _ _ _ (by decide)).trans ?_)
    exact BitVec.extractLsb'_eq_self
  all_goals
    repeat (refine (extract_past _ _ _ _ (by decide)).trans ?_)
    exact extract_here _ _

/-- A stream word's fields are those it was laid out from. -/
theorem streamFields_streamWord (f : SFields) (op : BitVec 8) : streamFields (streamWord f op) = f := by
  unfold streamFields streamWord
  cases f
  congr 1
  · repeat (refine (extract_past _ _ _ _ (by decide)).trans ?_)
    exact BitVec.extractLsb'_eq_self
  all_goals
    repeat (refine (extract_past _ _ _ _ (by decide)).trans ?_)
    exact extract_here _ _

/-- A stream word's OP is the one it was laid out with. -/
theorem op_streamWord (f : SFields) (op : BitVec 8) : (streamWord f op).extractLsb' 0 8 = op := extract_here _ _

/-- A copy command's fields are those it was laid out from. -/
theorem copyFields_copyWord (c : CFields) (kind : BitVec 8) : copyFields (copyWord c kind) = c := by
  unfold copyFields copyWord
  cases c
  congr 1
  rotate_right
  · repeat (refine (extract_past _ _ _ _ (by decide)).trans ?_)
    exact BitVec.extractLsb'_eq_self
  all_goals
    repeat (refine (extract_past _ _ _ _ (by decide)).trans ?_)
    exact extract_here _ _

/-- A copy command's KIND is the one it was laid out with, and its reserved fields are 0. -/
theorem kind_copyWord (c : CFields) (kind : BitVec 8) : (copyWord c kind).extractLsb' 0 8 = kind := extract_here _ _

theorem reserved_copyWord (c : CFields) (kind : BitVec 8) :
    (copyWord c kind).extractLsb' 14 2 = 0#2 ∧ (copyWord c kind).extractLsb' 32 32 = 0#32 := by
  unfold copyWord
  constructor <;>
  · repeat (refine (extract_past _ _ _ _ (by decide)).trans ?_)
    exact extract_here _ _

/-- The decoder of a core word by its opcode, where it reads R-type fields alone. -/
theorem decodeFields_rType (f7 : BitVec 7) (b a : BitVec 5) (f3 : BitVec 3) (d : BitVec 5) :
    decodeFields (rType f7 b a f3 d 0x0F) = decodeFence ⟨f7, b, a, f3, d, 0x0F⟩ ∧
    decodeFields (rType f7 b a f3 d 0x2F) = decodeAmo ⟨f7, b, a, f3, d, 0x2F⟩ ∧
    decodeFields (rType f7 b a f3 d 0x5B) = decodeCustom2 ⟨f7, b, a, f3, d, 0x5B⟩ ∧
    decodeFields (rType f7 b a f3 d 0x73) = decodeSystem ⟨f7, b, a, f3, d, 0x73⟩ ∧
    decodeFields (rType f7 b a f3 d 0x7B) = decodeCustom3 ⟨f7, b, a, f3, d, 0x7B⟩ := by
  refine ⟨?_, ?_, ?_, ?_, ?_⟩ <;> (unfold decodeFields; rw [splitR_rType]; rfl)

/-- The decoder of a trigger word: by its unit, with its common fields and its function. -/
theorem decodeFields_xg (g : Trig) (fn : BitVec 8) (u : BitVec 5) :
    decodeFields (xg g fn u) = match u with
      | 0#5 => decodeVa g fn
      | 1#5 => decodeVs g fn
      | 2#5 => decodeCv g fn
      | 3#5 => decodeLs g fn
      | 4#5 => decodeMx g fn
      | 5#5 => decodeWb g fn
      | 6#5 => decodeCe g fn
      | 7#5 => decodeNi g fn
      | _ => none := by
  have e0 : (splitR (xg g fn u)).op = 0x2B#7 := extract_here _ _
  have e1 : (xg g fn u).extractLsb' 7 5 = u :=
    (extract_past _ _ _ _ (by decide)).trans (extract_here _ _)
  have e2 : (xg g fn u).extractLsb' 12 2 = 0#2 := by
    unfold xg
    repeat (refine (extract_past _ _ _ _ (by decide)).trans ?_)
    exact extract_here _ _
  have e3 : (xg g fn u).extractLsb' 14 8 = fn := by
    unfold xg
    repeat (refine (extract_past _ _ _ _ (by decide)).trans ?_)
    exact extract_here _ _
  have e4 : (⟨(xg g fn u).extractLsb' 30 2, (xg g fn u).extractLsb' 28 2, (xg g fn u).extractLsb' 22 6⟩ : Trig) = g := by
    unfold xg
    cases g
    congr 1
    · repeat (refine (extract_past _ _ _ _ (by decide)).trans ?_)
      exact BitVec.extractLsb'_eq_self
    all_goals
      repeat (refine (extract_past _ _ _ _ (by decide)).trans ?_)
      exact extract_here _ _
  have : decodeFields (xg g fn u) = decodeCustom1 (xg g fn u) := by
    unfold decodeFields; simp only [e0]
  rw [this]; unfold decodeCustom1; simp only [e1, e2, e3, e4]; rfl

/-- The decoder of a two-move word (R144). -/
theorem decodeFields_xm2 (b c a d : BitVec 6) :
    decodeFields (xm2 b c a d) = if b = 0x2C ∧ c = 0x2C then some (.mov a d) else some (.mov2 b c a d) := by
  have e0 : (splitR (xm2 b c a d)).op = 0x0B#7 := extract_here _ _
  have e1 : (xm2 b c a d).extractLsb' 31 1 = 0#1 := by
    unfold xm2
    repeat (refine (extract_past _ _ _ _ (by decide)).trans ?_)
    exact BitVec.extractLsb'_eq_self
  have e2 : (xm2 b c a d).extractLsb' 25 6 = b ∧ (xm2 b c a d).extractLsb' 19 6 = c ∧ (xm2 b c a d).extractLsb' 13 6 = a ∧
      (xm2 b c a d).extractLsb' 7 6 = d := by
    unfold xm2
    refine ⟨?_, ?_, ?_, ?_⟩ <;>
    · repeat (refine (extract_past _ _ _ _ (by decide)).trans ?_)
      exact extract_here _ _
  have : decodeFields (xm2 b c a d) = decodeCustom0 (xm2 b c a d) := by
    unfold decodeFields; simp only [e0]
  rw [this]; unfold decodeCustom0; simp only [e1, e2, if_true]

/-- The reading of a register-move word's fields (R144). -/
theorem decodeFields_xs (p : BitVec 6) (l a : BitVec 5) (f3 : BitVec 3) (d : BitVec 5) :
    decodeFields (xs p l a f3 d) = match f3 with
      | 0#3 => if l.extractLsb' 3 2 = 0 ∧ a = 0 then some (.mvpxD p (l.extractLsb' 0 3) d) else none
      | 1#3 => if l.extractLsb' 4 1 = 0 ∧ a = 0 then some (.mvpxW p (l.extractLsb' 0 4) d) else none
      | 2#3 => if l.extractLsb' 3 2 = 0 ∧ d = 0 then some (.mvxpD p (l.extractLsb' 0 3) a) else none
      | 3#3 => if l.extractLsb' 4 1 = 0 ∧ d = 0 then some (.mvxpW p (l.extractLsb' 0 4) a) else none
      | 4#3 => if l = 0 ∧ d = 0 then some (.mvbxD p a) else none
      | 5#3 => if l = 0 ∧ d = 0 then some (.mvbxW p a) else none
      | 6#3 => if a = 0 ∧ d = 0 then some (.mvip p l) else none
      | _ => none := by
  have e0 : splitR (xs p l a f3 d) = ⟨1#1 ++ p, l, a, f3, d, 0x0B⟩ := splitR_rType _ _ _ _ _ _
  have e1 : (xs p l a f3 d).extractLsb' 31 1 = 1#1 := by
    unfold xs
    repeat (refine (extract_past _ _ _ _ (by decide)).trans ?_)
    exact BitVec.extractLsb'_eq_self
  have e2 : (xs p l a f3 d).extractLsb' 25 6 = p := by
    unfold xs
    repeat (refine (extract_past _ _ _ _ (by decide)).trans ?_)
    exact extract_here _ _
  have e3 (s n : Nat) (h : s + n ≤ 5) : (xs p l a f3 d).extractLsb' (20 + s) n = l.extractLsb' s n := by
    unfold xs
    refine (extract_past _ _ _ _ (by omega)).trans ?_
    refine (extract_past _ _ _ _ (by omega)).trans ?_
    refine (extract_past _ _ _ _ (by omega)).trans ?_
    refine (extract_past _ _ _ _ (by omega)).trans ?_
    refine (BitVec.extractLsb'_append_eq_of_add_le (by omega)).trans ?_
    congr 1; omega
  have f1 := e3 3 2 (by decide)
  have f2 := e3 4 1 (by decide)
  have f3' := e3 0 3 (by decide)
  have f4 := e3 0 4 (by decide)
  simp only [Nat.reduceAdd] at f1 f2 f3' f4
  have : decodeFields (xs p l a f3 d) = decodeCustom0 (xs p l a f3 d) := by
    unfold decodeFields; simp only [e0]; rfl
  rw [this]; unfold decodeCustom0; simp only [e0, e1, e2, f1, f2, f3', f4]; rfl

/-- Two adjacent fields of a word are the field of both. -/
theorem extract_join {w : Nat} (x : BitVec w) (s m n : Nat) :
    BitVec.extractLsb' (s + n) m x ++ BitVec.extractLsb' s n x = BitVec.extractLsb' s (m + n) x :=
  BitVec.extractLsb'_append_extractLsb'_eq_extractLsb' (by omega)

/-- The two fields of a split immediate are the immediate. -/
theorem imm12_split (imm : BitVec 12) : (imm.extractLsb' 5 7 ++ imm.extractLsb' 0 5 : BitVec 12) = imm :=
  (extract_join imm 0 7 5).trans BitVec.extractLsb'_eq_self

theorem sh6_split (sh : BitVec 6) : (sh.extractLsb' 5 1 ++ sh.extractLsb' 0 5 : BitVec 6) = sh :=
  (extract_join sh 0 1 5).trans BitVec.extractLsb'_eq_self

/-- The decoder of computation words by their opcode. -/
theorem decodeFields_scalar (f7 : BitVec 7) (b a : BitVec 5) (f3 : BitVec 3) (d : BitVec 5) :
    decodeFields (rType f7 b a f3 d 0x03) = (match loadKind f3 with
      | some k => some (.scalarLoad k d a (f7 ++ b)) | none => none) ∧
    decodeFields (rType f7 b a f3 d 0x23) = (match storeKind f3 with
      | some k => some (.scalarStore k a b (f7 ++ d)) | none => none) ∧
    decodeFields (rType f7 b a f3 d 0x13) = decodeOpImm ⟨f7, b, a, f3, d, 0x13⟩ ∧
    decodeFields (rType f7 b a f3 d 0x1B) = decodeOpImmW ⟨f7, b, a, f3, d, 0x1B⟩ ∧
    decodeFields (rType f7 b a f3 d 0x33) = (match aluOp f7 f3 with
      | some o => some (.integerOp (.op o d a b)) | none => none) ∧
    decodeFields (rType f7 b a f3 d 0x3B) = (match aluWOp f7 f3 with
      | some o => some (.integerOp (.opW o d a b)) | none => none) ∧
    decodeFields (rType f7 b a f3 d 0x67) = (if f3 = 0 then some (.integerOp (.jalr d a (f7 ++ b))) else none) := by
  refine ⟨?_, ?_, ?_, ?_, ?_, ?_, ?_⟩ <;> (unfold decodeFields; rw [splitR_rType]; rfl)

/-- The decoder of a shift word. -/
theorem decodeOpImm_shift (f6 : BitVec 6) (sh : BitVec 6) (a d : BitVec 5) (f3 : BitVec 3) (op : BitVec 7) :
    decodeOpImm ⟨f6 ++ sh.extractLsb' 5 1, sh.extractLsb' 0 5, a, f3, d, op⟩ = match f3 with
      | 1#3 => if f6 = 0 then some (.integerOp (.shiftImm .sll d a sh)) else none
      | 5#3 => if f6 = 0 then some (.integerOp (.shiftImm .srl d a sh))
        else if f6 = 0x10 then some (.integerOp (.shiftImm .sra d a sh)) else none
      | f3 => decodeOpImm ⟨f6 ++ sh.extractLsb' 5 1, sh.extractLsb' 0 5, a, f3, d, op⟩ := by
  have e1 : (f6 ++ sh.extractLsb' 5 1 : BitVec 7).extractLsb' 0 1 = sh.extractLsb' 5 1 := extract_here _ _
  have e2 : (f6 ++ sh.extractLsb' 5 1 : BitVec 7).extractLsb' 1 6 = f6 :=
    (extract_past _ _ _ _ (by decide)).trans BitVec.extractLsb'_eq_self
  unfold decodeOpImm
  simp only [e1, e2, sh6_split]
  split <;> rfl

/-- The decoder reads back each of these. -/
theorem decodeFields_lui (rd : Reg) (imm : BitVec 20) :
    decodeFields (encodeInt (.lui rd imm)) = some (.integerOp (.lui rd imm)) := by
  generalize hw : encodeInt (.lui rd imm) = w
  have ho : (splitR w).op = 0x37#7 := by subst hw; exact extract_here _ _
  have hd : (splitR w).rd = rd := by
    subst hw; exact (extract_past _ _ _ _ (by decide)).trans (extract_here _ _)
  have hi : w.extractLsb' 12 20 = imm := by
    subst hw
    exact (extract_past _ _ _ _ (by decide)).trans ((extract_past _ _ _ _ (by decide)).trans BitVec.extractLsb'_eq_self)
  unfold decodeFields
  simp only [ho, hd, hi]

theorem decodeFields_auipc (rd : Reg) (imm : BitVec 20) :
    decodeFields (encodeInt (.auipc rd imm)) = some (.integerOp (.auipc rd imm)) := by
  generalize hw : encodeInt (.auipc rd imm) = w
  have ho : (splitR w).op = 0x17#7 := by subst hw; exact extract_here _ _
  have hd : (splitR w).rd = rd := by
    subst hw; exact (extract_past _ _ _ _ (by decide)).trans (extract_here _ _)
  have hi : w.extractLsb' 12 20 = imm := by
    subst hw
    exact (extract_past _ _ _ _ (by decide)).trans ((extract_past _ _ _ _ (by decide)).trans BitVec.extractLsb'_eq_self)
  unfold decodeFields
  simp only [ho, hd, hi]

theorem decodeFields_jal (rd : Reg) (imm : BitVec 20) :
    decodeFields (encodeInt (.jal rd imm)) = some (.integerOp (.jal rd imm)) := by
  generalize hw : encodeInt (.jal rd imm) = w
  have ho : (splitR w).op = 0x6F#7 := by subst hw; exact extract_here _ _
  have hd : (splitR w).rd = rd := by
    subst hw; exact (extract_past _ _ _ _ (by decide)).trans (extract_here _ _)
  have h1 : w.extractLsb' 12 8 = imm.extractLsb' 11 8 := by
    subst hw
    exact (extract_past _ _ _ _ (by decide)).trans ((extract_past _ _ _ _ (by decide)).trans (extract_here _ _))
  have h2 : w.extractLsb' 20 1 = imm.extractLsb' 10 1 := by
    subst hw
    exact (extract_past _ _ _ _ (by decide)).trans ((extract_past _ _ _ _ (by decide)).trans
      ((extract_past _ _ _ _ (by decide)).trans (extract_here _ _)))
  have h3 : w.extractLsb' 21 10 = imm.extractLsb' 0 10 := by
    subst hw
    exact (extract_past _ _ _ _ (by decide)).trans ((extract_past _ _ _ _ (by decide)).trans
      ((extract_past _ _ _ _ (by decide)).trans ((extract_past _ _ _ _ (by decide)).trans (extract_here _ _))))
  have h4 : w.extractLsb' 31 1 = imm.extractLsb' 19 1 := by
    subst hw
    exact (extract_past _ _ _ _ (by decide)).trans ((extract_past _ _ _ _ (by decide)).trans
      ((extract_past _ _ _ _ (by decide)).trans ((extract_past _ _ _ _ (by decide)).trans
        ((extract_past _ _ _ _ (by decide)).trans BitVec.extractLsb'_eq_self))))
  have hj : (imm.extractLsb' 19 1 ++ imm.extractLsb' 11 8 ++ imm.extractLsb' 10 1 ++ imm.extractLsb' 0 10 : BitVec 20)
      = imm :=
    (congrArg (fun x : BitVec 10 => (x ++ imm.extractLsb' 0 10 : BitVec 20))
      ((congrArg (fun x : BitVec 9 => (x ++ imm.extractLsb' 10 1 : BitVec 10)) (extract_join imm 11 1 8)).trans
        (extract_join imm 10 9 1))).trans ((extract_join imm 0 10 10).trans BitVec.extractLsb'_eq_self)
  unfold decodeFields
  simp only [ho, hd, h1, h2, h3, h4, hj]

theorem decodeFields_branch (c : BranchCond) (rs1 rs2 : Reg) (imm : BitVec 12) :
    decodeFields (encodeInt (.branch c rs1 rs2 imm)) = some (.integerOp (.branch c rs1 rs2 imm)) := by
  generalize hw : encodeInt (.branch c rs1 rs2 imm) = w
  have hs : splitR w = ⟨imm.extractLsb' 11 1 ++ imm.extractLsb' 4 6, rs2, rs1, c.f3,
      imm.extractLsb' 0 4 ++ imm.extractLsb' 10 1, 0x63⟩ := by subst hw; exact splitR_rType _ _ _ _ _ _
  have h1 : w.extractLsb' 8 4 = imm.extractLsb' 0 4 := by
    subst hw; unfold encodeInt rType
    refine (extract_past _ _ _ _ (by decide)).trans ?_
    refine (BitVec.extractLsb'_append_eq_of_add_le (by decide)).trans ?_
    exact (extract_past _ _ _ _ (by decide)).trans BitVec.extractLsb'_eq_self
  have h2 : w.extractLsb' 7 1 = imm.extractLsb' 10 1 := by
    subst hw; unfold encodeInt rType
    refine (extract_past _ _ _ _ (by decide)).trans ?_
    refine (BitVec.extractLsb'_append_eq_of_add_le (by decide)).trans ?_
    exact extract_here _ _
  have h3 : w.extractLsb' 25 6 = imm.extractLsb' 4 6 := by
    subst hw; unfold encodeInt rType
    repeat (refine (extract_past _ _ _ _ (by decide)).trans ?_)
    exact extract_here _ _
  have h4 : w.extractLsb' 31 1 = imm.extractLsb' 11 1 := by
    subst hw; unfold encodeInt rType
    repeat (refine (extract_past _ _ _ _ (by decide)).trans ?_)
    exact BitVec.extractLsb'_eq_self
  have hj : (imm.extractLsb' 11 1 ++ imm.extractLsb' 10 1 ++ imm.extractLsb' 4 6 ++ imm.extractLsb' 0 4 : BitVec 12)
      = imm :=
    (congrArg (fun x : BitVec 8 => (x ++ imm.extractLsb' 0 4 : BitVec 12))
      ((congrArg (fun x : BitVec 2 => (x ++ imm.extractLsb' 4 6 : BitVec 8)) (extract_join imm 10 1 1)).trans
        (extract_join imm 4 2 6))).trans ((extract_join imm 0 8 4).trans BitVec.extractLsb'_eq_self)
  unfold decodeFields
  simp only [hs, h1, h2, h3, h4, hj]
  cases c <;> rfl

/-- The decoder reads back every computation, jump and branch. -/
theorem decodeFields_encodeInt (op : IntOp) : decodeFields (encodeInt op) = some (.integerOp op) := by
  have h := decodeFields_scalar
  cases op with
  | lui rd imm => exact decodeFields_lui rd imm
  | auipc rd imm => exact decodeFields_auipc rd imm
  | jal rd imm => exact decodeFields_jal rd imm
  | branch c rs1 rs2 imm => exact decodeFields_branch c rs1 rs2 imm
  | jalr rd rs1 imm =>
    refine (h _ _ _ _ _).2.2.2.2.2.2.trans ?_
    rw [if_pos rfl, imm12_split]
  | opImm o rd rs1 imm =>
    refine (h _ _ _ _ _).2.2.1.trans ?_
    cases o <;> exact congrArg (fun x => some (Instr.integerOp (.opImm _ rd rs1 x))) (imm12_split imm)
  | shiftImm o rd rs1 sh =>
    cases o <;> exact ((h _ _ _ _ _).2.2.1.trans (decodeOpImm_shift _ _ _ _ _ _))
  | addiw rd rs1 imm =>
    refine (h _ _ _ _ _).2.2.2.1.trans ?_
    exact congrArg (fun x => some (Instr.integerOp (.addiw rd rs1 x))) (imm12_split imm)
  | shiftImmW o rd rs1 sh =>
    cases o <;> exact (h _ _ _ _ _).2.2.2.1
  | op o rd rs1 rs2 =>
    refine (h _ _ _ _ _).2.2.2.2.1.trans ?_
    cases o <;> rfl
  | opW o rd rs1 rs2 =>
    refine (h _ _ _ _ _).2.2.2.2.2.1.trans ?_
    cases o <;> rfl

end Sys2Proof.Laws
end

