-- ==== Sys2Proof/Laws/Lanes.lean ====
section
/-! SUPPORT. Lanes of a wide value: what was laid out is read back (R200, R210). -/

namespace Sys2Proof.Machine

/-- The number that `ofLanes` lays out. -/
def lanesNat (w : Nat) (ls : List Nat) : Nat := ls.foldr (fun x acc => x % 2 ^ w + 2 ^ w * acc) 0

theorem lanesNat_lt (w : Nat) (ls : List Nat) : lanesNat w ls < 2 ^ (w * ls.length) := by
  induction ls with
  | nil => simp [lanesNat]
  | cons x r ih =>
    have h1 : x % 2 ^ w < 2 ^ w := Nat.mod_lt _ (Nat.two_pow_pos w)
    show x % 2 ^ w + 2 ^ w * lanesNat w r < 2 ^ (w * (r.length + 1))
    rw [Nat.mul_succ, Nat.pow_add]
    have h2 : lanesNat w r + 1 ≤ 2 ^ (w * r.length) := ih
    calc x % 2 ^ w + 2 ^ w * lanesNat w r < 2 ^ w * (lanesNat w r + 1) := by rw [Nat.mul_succ]; omega
      _ ≤ 2 ^ w * 2 ^ (w * r.length) := Nat.mul_le_mul_left _ h2
      _ = 2 ^ (w * r.length) * 2 ^ w := Nat.mul_comm _ _

theorem lanesNat_div (w : Nat) (ls : List Nat) (i : Nat) :
    lanesNat w ls / 2 ^ (w * i) % 2 ^ w = ls.getD i 0 % 2 ^ w := by
  induction ls generalizing i with
  | nil => simp [lanesNat]
  | cons x r ih =>
    have h1 : x % 2 ^ w < 2 ^ w := Nat.mod_lt _ (Nat.two_pow_pos w)
    have hc : lanesNat w (x :: r) = x % 2 ^ w + 2 ^ w * lanesNat w r := rfl
    rw [hc]
    cases i with
    | zero => simp
    | succ i =>
      rw [Nat.mul_succ, Nat.pow_add, Nat.mul_comm (2 ^ (w * i)), ← Nat.div_div_eq_div_mul,
        Nat.add_mul_div_left _ _ (Nat.two_pow_pos w), Nat.div_eq_of_lt h1, Nat.zero_add]
      simpa using ih i

/-- A lane of a value laid out from lanes is the one laid out there, cut to the lane's width. -/
theorem lane_ofLanes (w : Nat) (ls : List Nat) (i : Nat) (h : w * ls.length ≤ 512) :
    lane w (ofLanes w ls) i = ls.getD i 0 % 2 ^ w := by
  have hlt : lanesNat w ls < 2 ^ 512 := Nat.lt_of_lt_of_le (lanesNat_lt w ls) (Nat.pow_le_pow_right (by decide) h)
  show (BitVec.ofNat 512 (lanesNat w ls)).toNat / 2 ^ (w * i) % 2 ^ w = _
  rw [BitVec.toNat_ofNat, Nat.mod_eq_of_lt hlt, lanesNat_div]

/-- Lane i of a value laid out from a rule for each of the 512 / w lanes. -/
theorem lane_ofLanes_map (w : Nat) (f : Nat → Nat) (i : Nat) (h : i < 512 / w) :
    lane w (ofLanes w ((List.range (512 / w)).map f)) i = f i % 2 ^ w := by
  rw [lane_ofLanes w _ i (by simpa using Nat.mul_div_le 512 w)]
  congr 1
  simp [List.getD, List.getElem?_map, List.getElem?_range h]

end Sys2Proof.Machine
end

