-- ==== Sys2Proof/Laws/Memory.lean ====
section
/-! SUPPORT. Memory: reading after writing, and the canonical form that every operation keeps (log 3). -/

namespace Sys2Proof.Machine

/-- A smaller bound holds wherever a larger one does. -/
theorem Memory.wfFrom_mono {m : List Host.Cell} {lo lo' : Nat} (h : lo' ≤ lo) (hm : Memory.wfFrom lo m = true) :
    Memory.wfFrom lo' m = true := by
  cases m with
  | nil => rfl
  | cons c r =>
    simp only [Memory.wfFrom, Bool.and_eq_true, decide_eq_true_eq] at hm ⊢
    exact ⟨⟨by omega, hm.1.2⟩, hm.2⟩

/-- A byte below the first key is not listed. -/
theorem Memory.read_below {m : List Host.Cell} {lo k : Nat} (hm : Memory.wfFrom lo m = true) (h : k < lo) :
    Memory.read m k = Memory.unlisted := by
  induction m generalizing lo with
  | nil => rfl
  | cons c r ih =>
    simp only [Memory.wfFrom, Bool.and_eq_true, decide_eq_true_eq] at hm
    have : c.1 ≠ k := by omega
    simp only [Memory.read, if_neg this]
    exact ih hm.2 (by omega)

/-- Writing one byte keeps the canonical form. -/
theorem Memory.wfFrom_write {m : List Host.Cell} {lo k : Nat} (v : Byte) (hm : Memory.wfFrom lo m = true) (h : lo ≤ k) :
    Memory.wfFrom lo (Memory.write m k v) = true := by
  induction m generalizing lo with
  | nil => unfold Memory.write; split <;> simp_all [Memory.wfFrom]
  | cons c r ih =>
    simp only [Memory.wfFrom, Bool.and_eq_true, decide_eq_true_eq] at hm
    obtain ⟨⟨h1, h2⟩, h3⟩ := hm
    unfold Memory.write
    split
    · split <;> simp_all [Memory.wfFrom]
    · split
      · next hk =>
        split
        · exact Memory.wfFrom_mono (by omega) h3
        · subst hk; simp_all [Memory.wfFrom]
      · simp only [Memory.wfFrom, Bool.and_eq_true, decide_eq_true_eq]
        exact ⟨⟨h1, h2⟩, ih h3 (by omega)⟩

theorem Memory.wf_write {m : List Host.Cell} (k : Nat) (v : Byte) (hm : Memory.wf m = true) :
    Memory.wf (Memory.write m k v) = true := Memory.wfFrom_write v hm (Nat.zero_le k)

/-- A byte just written reads as it was written. -/
theorem Memory.read_write_same {m : List Host.Cell} {lo k : Nat} (v : Byte) (hm : Memory.wfFrom lo m = true) :
    Memory.read (Memory.write m k v) k = v := by
  induction m generalizing lo with
  | nil => unfold Memory.write; split <;> simp_all [Memory.read]
  | cons c r ih =>
    simp only [Memory.wfFrom, Bool.and_eq_true, decide_eq_true_eq] at hm
    obtain ⟨⟨h1, h2⟩, h3⟩ := hm
    unfold Memory.write
    split
    · next hk =>
      split
      · next hv =>
        have : c.1 ≠ k := by omega
        simp only [Memory.read, if_neg this]
        rw [hv]; exact Memory.read_below h3 (by omega)
      · simp [Memory.read]
    · split
      · next hk =>
        split
        · next hv => rw [hv]; exact Memory.read_below h3 (by omega)
        · simp [Memory.read]
      · next h4 h5 =>
        simp only [Memory.read, if_neg (Ne.symm h5)]
        exact ih h3

/-- A write leaves every other byte alone. -/
theorem Memory.read_write_other {m : List Host.Cell} {k j : Nat} (v : Byte) (h : j ≠ k) :
    Memory.read (Memory.write m k v) j = Memory.read m j := by
  induction m with
  | nil =>
    unfold Memory.write
    split
    · rfl
    · simp [Memory.read, Ne.symm h]
  | cons c r ih =>
    unfold Memory.write
    split
    · split
      · rfl
      · simp [Memory.read, Ne.symm h]
    · split
      · next hk => split <;> simp [Memory.read, ← hk, Ne.symm h]
      · simp only [Memory.read]; split
        · rfl
        · exact ih

/-- Writing bytes keeps the canonical form. -/
theorem Memory.wf_writeBytes {m : List Host.Cell} (k : Nat) (b : List Byte) (hm : Memory.wf m = true) :
    Memory.wf (Memory.writeBytes m k b) = true := by
  induction b generalizing m k with
  | nil => exact hm
  | cons v r ih => exact ih _ (Memory.wf_write k v hm)

/-- A write of bytes leaves every byte outside them alone. -/
theorem Memory.read_writeBytes_other {m : List Host.Cell} {k j : Nat} (b : List Byte) (h : j < k ∨ k + b.length ≤ j) :
    Memory.read (Memory.writeBytes m k b) j = Memory.read m j := by
  induction b generalizing m k with
  | nil => rfl
  | cons v r ih =>
    simp only [List.length_cons] at h
    refine (ih (m := Memory.write m k v) (k := k + 1) (by omega)).trans ?_
    exact Memory.read_write_other v (by omega)

/-- Bytes just written read as they were written. -/
theorem Memory.read_writeBytes {m : List Host.Cell} {k i : Nat} (b : List Byte) (hm : Memory.wf m = true) (h : i < b.length) :
    Memory.read (Memory.writeBytes m k b) (k + i) = b[i] := by
  induction b generalizing m k i with
  | nil => simp at h
  | cons v r ih =>
    cases i with
    | zero =>
      refine (Memory.read_writeBytes_other (m := Memory.write m k v) r (Or.inl (by omega))).trans ?_
      exact Memory.read_write_same v hm
    | succ i =>
      have := ih (m := Memory.write m k v) (k := k + 1) (i := i) (Memory.wf_write k v hm) (by simpa using h)
      rw [show k + (i + 1) = k + 1 + i by omega]
      rw [List.getElem_cons_succ]
      exact this

/-- Writing bytes by their keys keeps the canonical form. -/
theorem Memory.wf_writeKeys {m : List Host.Cell} (c : List (Nat × Byte)) (hm : Memory.wf m = true) :
    Memory.wf (Memory.writeKeys m c) = true := by
  induction c generalizing m with
  | nil => exact hm
  | cons p r ih => exact ih (Memory.wf_write p.1 p.2 hm)

/-- A write of bytes by their keys leaves every other byte alone. -/
theorem Memory.read_writeKeys_other {m : List Host.Cell} {j : Nat} (c : List (Nat × Byte)) (h : ∀ p ∈ c, p.1 ≠ j) :
    Memory.read (Memory.writeKeys m c) j = Memory.read m j := by
  induction c generalizing m with
  | nil => rfl
  | cons p r ih =>
    refine (ih (m := Memory.write m p.1 p.2) fun q hq => h q (List.mem_cons_of_mem _ hq)).trans ?_
    exact Memory.read_write_other p.2 (Ne.symm (h p List.mem_cons_self))

/-- Leaving bytes out keeps the canonical form. -/
theorem Memory.wfFrom_filter {m : List Host.Cell} {lo : Nat} (f : Host.Cell → Bool) (hm : Memory.wfFrom lo m = true) :
    Memory.wfFrom lo (m.filter f) = true := by
  induction m generalizing lo with
  | nil => rfl
  | cons c r ih =>
    simp only [Memory.wfFrom, Bool.and_eq_true, decide_eq_true_eq] at hm
    rw [List.filter_cons]
    split
    · simp only [Memory.wfFrom, Bool.and_eq_true, decide_eq_true_eq]
      exact ⟨hm.1, ih hm.2⟩
    · exact ih (Memory.wfFrom_mono (by omega) hm.2)

end Sys2Proof.Machine
end

