-- ==== Sys2Proof/Laws/PerInstr.lean ====
section
/-! SUPPORT. Decoding undoes encoding, instruction by instruction. -/

namespace Sys2Proof.Laws.RoundTrip

/-- A well-formed instruction that words encode is what its words decode to. -/
def Statement (i : Instr) : Prop := i.wellFormed = true → encode i ≠ .none → decode (encode i) = some i

/-- What keepWellFormed keeps. -/
theorem keep_of_wellFormed {i : Instr} (h : i.wellFormed = true) : keepWellFormed (some i) = some i := by
  simp [keepWellFormed, h]

/-- A core instruction whose word's fields read back. -/
theorem of_core {i : Instr} {w : BitVec 32} (he : encodeCore i = some w) (hd : i.wellFormed = true → decodeFields w = some i) :
    Statement i := by
  intro h _
  have : encode i = .core w := by unfold encode; rw [he]
  rw [this]
  show keepWellFormed (decodeFields w) = _
  rw [hd h, keep_of_wellFormed h]

/-- A stream instruction whose OP reads back. -/
theorem of_stream {i : Instr} (f : SFields) (op : BitVec 8) (hc : encodeCore i = none)
    (he : encodeStream i = some (streamWord f op)) (hd : streamOp op f = some i) : Statement i := by
  intro h _
  have : encode i = .stream (streamWord f op) := by unfold encode; rw [hc, he]
  rw [this]
  show keepWellFormed (streamOp ((streamWord f op).extractLsb' 0 8) (streamFields (streamWord f op))) = _
  rw [op_streamWord, streamFields_streamWord, hd, keep_of_wellFormed h]

/-- A copy command whose KIND reads back. -/
theorem of_copy {i : Instr} (c : CFields) (kind : BitVec 8) (hc : encodeCore i = none) (hs : encodeStream i = none)
    (he : encodeCopy i = some (copyWord c kind)) (hd : copyOp kind c = some i) : Statement i := by
  intro h _
  have : encode i = .copy (copyWord c kind) := by unfold encode; rw [hc, hs, he]
  rw [this]
  show decodeCopy (copyWord c kind) = _
  unfold decodeCopy
  rw [if_pos (reserved_copyWord c kind), kind_copyWord, copyFields_copyWord, hd, keep_of_wellFormed h]

/-- A step that no word encodes. -/
theorem of_none {i : Instr} (h : encode i = .none) : Statement i := fun _ hn => absurd h hn

/-- A trigger whose unit and function read back. -/
theorem of_xg {i : Instr} {g : Trig} {fn : BitVec 8} {u : BitVec 5} (he : encodeCore i = some (xg g fn u))
    (hd : decodeFields (xg g fn u) = some i) : Statement i := of_core he fun _ => hd

/-- The values of 1 bit. -/
theorem bits1 (x : BitVec 1) : x = 0#1 ∨ x = 1#1 := by
  revert x; decide

/-- The values of 2 bits. -/
theorem bits2 (x : BitVec 2) : x = 0#2 ∨ x = 1#2 ∨ x = 2#2 ∨ x = 3#2 := by
  revert x; decide

/-- The values of 3 bits. -/
theorem bits3 (x : BitVec 3) : x = 0#3 ∨ x = 1#3 ∨ x = 2#3 ∨ x = 3#3 ∨ x = 4#3 ∨ x = 5#3 ∨ x = 6#3 ∨ x = 7#3 := by
  revert x; decide

/-- The values of 4 bits. -/
theorem bits4 (x : BitVec 4) : x = 0#4 ∨ x = 1#4 ∨ x = 2#4 ∨ x = 3#4 ∨ x = 4#4 ∨ x = 5#4 ∨ x = 6#4 ∨ x = 7#4 ∨ x = 8#4 ∨ x = 9#4 ∨ x = 10#4 ∨ x = 11#4 ∨ x = 12#4 ∨ x = 13#4 ∨ x = 14#4 ∨ x = 15#4 := by
  revert x; decide

theorem tdecl (f : SFields) : Statement (.tdecl f) := of_stream _ _ rfl rfl rfl
theorem sload (f : SFields) : Statement (.sload f) := of_stream _ _ rfl rfl rfl
theorem sstore (f : SFields) : Statement (.sstore f) := of_stream _ _ rfl rfl rfl
theorem sfill (f : SFields) : Statement (.sfill f) := of_stream _ _ rfl rfl rfl
theorem smm (f : SFields) : Statement (.smm f) := of_stream _ _ rfl rfl rfl
theorem sew (f : SFields) : Statement (.sew f) := of_stream _ _ rfl rfl rfl
theorem sred (f : SFields) : Statement (.sred f) := of_stream _ _ rfl rfl rfl
theorem sxpose (f : SFields) : Statement (.sxpose f) := of_stream _ _ rfl rfl rfl
theorem scvt (f : SFields) : Statement (.scvt f) := of_stream _ _ rfl rfl rfl
theorem sgather (f : SFields) : Statement (.sgather f) := of_stream _ _ rfl rfl rfl
theorem sscatter (f : SFields) : Statement (.sscatter f) := of_stream _ _ rfl rfl rfl
theorem sreduce (f : SFields) : Statement (.sreduce f) := of_stream _ _ rfl rfl rfl
theorem skern (f : SFields) : Statement (.skern f) := of_stream _ _ rfl rfl rfl
theorem sgroup (f : SFields) : Statement (.sgroup f) := of_stream _ _ rfl rfl rfl
theorem sput (f : SFields) : Statement (.sput f) := of_stream _ _ rfl rfl rfl
theorem sget (f : SFields) : Statement (.sget f) := of_stream _ _ rfl rfl rfl
theorem sbr (f : SFields) : Statement (.sbr f) := of_stream _ _ rfl rfl rfl
theorem sloop (f : SFields) : Statement (.sloop f) := of_stream _ _ rfl rfl rfl
theorem sendloop (f : SFields) : Statement (.sendloop f) := of_stream _ _ rfl rfl rfl
theorem sswitch (f : SFields) : Statement (.sswitch f) := of_stream _ _ rfl rfl rfl
theorem swait (f : SFields) : Statement (.swait f) := of_stream _ _ rfl rfl rfl
theorem ssignal (f : SFields) : Statement (.ssignal f) := of_stream _ _ rfl rfl rfl
theorem sfence (f : SFields) : Statement (.sfence f) := of_stream _ _ rfl rfl rfl
theorem shalt (f : SFields) : Statement (.shalt f) := of_stream _ _ rfl rfl rfl
theorem sown (f : SFields) : Statement (.sown f) := of_stream _ _ rfl rfl rfl
theorem ccEnd (c : CFields) : Statement (.ccEnd c) := of_copy _ _ rfl rfl rfl rfl
theorem ccCopy (c : CFields) : Statement (.ccCopy c) := of_copy _ _ rfl rfl rfl rfl
theorem ccCopy2d (c : CFields) : Statement (.ccCopy2d c) := of_copy _ _ rfl rfl rfl rfl
theorem ccFill (c : CFields) : Statement (.ccFill c) := of_copy _ _ rfl rfl rfl rfl
theorem ccGather (c : CFields) : Statement (.ccGather c) := of_copy _ _ rfl rfl rfl rfl
theorem ccWait (c : CFields) : Statement (.ccWait c) := of_copy _ _ rfl rfl rfl rfl
theorem ccBump (c : CFields) : Statement (.ccBump c) := of_copy _ _ rfl rfl rfl rfl
theorem ccWrite (c : CFields) : Statement (.ccWrite c) := of_copy _ _ rfl rfl rfl rfl
theorem ccLink (c : CFields) : Statement (.ccLink c) := of_copy _ _ rfl rfl rfl rfl
theorem scalarLoad (k : LoadKind) (rd : Reg) (rs1 : Reg) (imm : BitVec 12) : Statement (.scalarLoad k rd rs1 imm) := by
  refine of_core rfl fun _ => (decodeFields_scalar _ _ _ _ _).1.trans ?_
  cases k <;> exact congrArg (fun x => some (Instr.scalarLoad _ rd rs1 x)) (imm12_split imm)
theorem scalarStore (k : StoreKind) (rs1 : Reg) (rs2 : Reg) (imm : BitVec 12) : Statement (.scalarStore k rs1 rs2 imm) := by
  refine of_core rfl fun _ => (decodeFields_scalar _ _ _ _ _).2.1.trans ?_
  cases k <;> exact congrArg (fun x => some (Instr.scalarStore _ rs1 rs2 x)) (imm12_split imm)
theorem amo (op : AmoOp) (dbl : Bool) (aq : Bool) (rl : Bool) (rd : Reg) (rs1 : Reg) (rs2 : Reg) : Statement (.amo op dbl aq rl rd rs1 rs2) := by
  refine of_core rfl fun _ => (decodeFields_rType _ _ _ _ _).2.1.trans ?_
  cases op <;> cases dbl <;> cases aq <;> cases rl <;>
    simp [decodeAmo, amoF3, amoOp, boolBit, AmoOp.f5]
theorem lr (dbl : Bool) (aq : Bool) (rl : Bool) (rd : Reg) (rs1 : Reg) : Statement (.lr dbl aq rl rd rs1) := by
  refine of_core rfl fun _ => (decodeFields_rType _ _ _ _ _).2.1.trans ?_
  cases dbl <;> cases aq <;> cases rl <;> simp [decodeAmo, amoF3, boolBit]
theorem sc (dbl : Bool) (aq : Bool) (rl : Bool) (rd : Reg) (rs1 : Reg) (rs2 : Reg) : Statement (.sc dbl aq rl rd rs1 rs2) := by
  refine of_core rfl fun _ => (decodeFields_rType _ _ _ _ _).2.1.trans ?_
  cases dbl <;> cases aq <;> cases rl <;> simp [decodeAmo, amoF3, boolBit]
theorem integerOp (op : IntOp) : Statement (.integerOp op) := of_core rfl fun _ => decodeFields_encodeInt op
theorem fence (fm : BitVec 4) (pred : BitVec 4) (succ : BitVec 4) (rs1 : Reg) (rd : Reg) : Statement (.fence fm pred succ rs1 rd) := by
  refine of_core rfl fun _ => (decodeFields_rType _ _ _ _ _).1.trans ?_
  refine (congrArg (fun x : BitVec 12 => some (Instr.fence (x.extractLsb' 8 4) (x.extractLsb' 4 4) (x.extractLsb' 0 4) rs1 rd))
    (imm12_split (fm ++ pred ++ succ))).trans ?_
  have e1 : (fm ++ pred ++ succ : BitVec 12).extractLsb' 8 4 = fm :=
    (extract_past _ _ _ _ (by decide)).trans ((extract_past _ _ _ _ (by decide)).trans BitVec.extractLsb'_eq_self)
  have e2 : (fm ++ pred ++ succ : BitVec 12).extractLsb' 4 4 = pred :=
    (extract_past _ _ _ _ (by decide)).trans (extract_here _ _)
  have e3 : (fm ++ pred ++ succ : BitVec 12).extractLsb' 0 4 = succ := extract_here _ _
  simp only [e1, e2, e3]
theorem fenceI (imm : BitVec 12) (rs1 : Reg) (rd : Reg) : Statement (.fenceI imm rs1 rd) := of_core rfl fun _ => (decodeFields_rType _ _ _ _ _).1.trans
  (congrArg (fun x => some (Instr.fenceI x rs1 rd)) (imm12_split imm))
theorem sfenceVma (rs1 : Reg) (rs2 : Reg) : Statement (.sfenceVma rs1 rs2) := of_core rfl fun _ => (decodeFields_rType _ _ _ _ _).2.2.2.1.trans rfl
theorem csrAccess (op : CsrOp) (imm : Bool) (rd : Reg) (src : Reg) (csr : BitVec 12) : Statement (.csrAccess op imm rd src csr) := by
  refine of_core rfl fun _ => (decodeFields_rType _ _ _ _ _).2.2.2.1.trans ?_
  cases op <;> cases imm <;> exact congrArg (fun x => some (Instr.csrAccess _ _ rd src x)) (imm12_split csr)
theorem mov2 (b : BitVec 6) (c : BitVec 6) (a : BitVec 6) (d : BitVec 6) : Statement (.mov2 b c a d) := by
  refine of_core rfl fun h => (decodeFields_xm2 _ _ _ _).trans (if_neg ?_)
  rintro ⟨rfl, rfl⟩
  simp [Instr.wellFormed] at h
theorem mov (a : BitVec 6) (d : BitVec 6) : Statement (.mov a d) := of_core rfl fun _ => (decodeFields_xm2 _ _ _ _).trans (if_pos ⟨rfl, rfl⟩)
theorem mvpxD (p : BitVec 6) (l : BitVec 3) (d : BitVec 5) : Statement (.mvpxD p l d) := by
  refine of_core rfl fun _ => (decodeFields_xs _ _ _ _ _).trans ?_
  rcases bits3 l with rfl | rfl | rfl | rfl | rfl | rfl | rfl | rfl <;> rfl
theorem mvpxW (p : BitVec 6) (l : BitVec 4) (d : BitVec 5) : Statement (.mvpxW p l d) := by
  refine of_core rfl fun _ => (decodeFields_xs _ _ _ _ _).trans ?_
  rcases bits4 l with rfl | rfl | rfl | rfl | rfl | rfl | rfl | rfl | rfl | rfl | rfl | rfl | rfl | rfl | rfl | rfl <;> rfl
theorem mvxpD (p : BitVec 6) (l : BitVec 3) (a : BitVec 5) : Statement (.mvxpD p l a) := by
  refine of_core rfl fun _ => (decodeFields_xs _ _ _ _ _).trans ?_
  rcases bits3 l with rfl | rfl | rfl | rfl | rfl | rfl | rfl | rfl <;> rfl
theorem mvxpW (p : BitVec 6) (l : BitVec 4) (a : BitVec 5) : Statement (.mvxpW p l a) := by
  refine of_core rfl fun _ => (decodeFields_xs _ _ _ _ _).trans ?_
  rcases bits4 l with rfl | rfl | rfl | rfl | rfl | rfl | rfl | rfl | rfl | rfl | rfl | rfl | rfl | rfl | rfl | rfl <;> rfl
theorem mvbxD (p : BitVec 6) (a : BitVec 5) : Statement (.mvbxD p a) := of_core rfl fun _ => (decodeFields_xs _ _ _ _ _).trans rfl
theorem mvbxW (p : BitVec 6) (a : BitVec 5) : Statement (.mvbxW p a) := of_core rfl fun _ => (decodeFields_xs _ _ _ _ _).trans rfl
theorem mvip (p : BitVec 6) (i : BitVec 5) : Statement (.mvip p i) := of_core rfl fun _ => (decodeFields_xs _ _ _ _ _).trans rfl
theorem vaAdd (g : Trig) (w : BitVec 2) : Statement (.vaAdd g w) := by
  refine of_core rfl fun h => (decodeFields_xg _ _ _).trans ?_
  revert h
  rcases bits2 w with rfl | rfl | rfl | rfl <;> first | exact fun _ => rfl | (intro h; simp [Instr.wellFormed] at h)
theorem vaSub (g : Trig) (w : BitVec 2) : Statement (.vaSub g w) := by
  refine of_core rfl fun h => (decodeFields_xg _ _ _).trans ?_
  revert h
  rcases bits2 w with rfl | rfl | rfl | rfl <;> first | exact fun _ => rfl | (intro h; simp [Instr.wellFormed] at h)
theorem vaMul (g : Trig) (w : BitVec 2) : Statement (.vaMul g w) := by
  refine of_core rfl fun h => (decodeFields_xg _ _ _).trans ?_
  revert h
  rcases bits2 w with rfl | rfl | rfl | rfl <;> first | exact fun _ => rfl | (intro h; simp [Instr.wellFormed] at h)
theorem vaMin (g : Trig) (w : BitVec 2) : Statement (.vaMin g w) := by
  refine of_core rfl fun h => (decodeFields_xg _ _ _).trans ?_
  revert h
  rcases bits2 w with rfl | rfl | rfl | rfl <;> first | exact fun _ => rfl | (intro h; simp [Instr.wellFormed] at h)
theorem vaMax (g : Trig) (w : BitVec 2) : Statement (.vaMax g w) := by
  refine of_core rfl fun h => (decodeFields_xg _ _ _).trans ?_
  revert h
  rcases bits2 w with rfl | rfl | rfl | rfl <;> first | exact fun _ => rfl | (intro h; simp [Instr.wellFormed] at h)
theorem vaSll (g : Trig) (w : BitVec 2) : Statement (.vaSll g w) := by
  refine of_core rfl fun h => (decodeFields_xg _ _ _).trans ?_
  revert h
  rcases bits2 w with rfl | rfl | rfl | rfl <;> first | exact fun _ => rfl | (intro h; simp [Instr.wellFormed] at h)
theorem vaSra (g : Trig) (w : BitVec 2) : Statement (.vaSra g w) := by
  refine of_core rfl fun h => (decodeFields_xg _ _ _).trans ?_
  revert h
  rcases bits2 w with rfl | rfl | rfl | rfl <;> first | exact fun _ => rfl | (intro h; simp [Instr.wellFormed] at h)
theorem vaSrl (g : Trig) (w : BitVec 2) : Statement (.vaSrl g w) := by
  refine of_core rfl fun h => (decodeFields_xg _ _ _).trans ?_
  revert h
  rcases bits2 w with rfl | rfl | rfl | rfl <;> first | exact fun _ => rfl | (intro h; simp [Instr.wellFormed] at h)
theorem vaFadd (g : Trig) (f : BitVec 2) : Statement (.vaFadd g f) := by
  refine of_core rfl fun h => (decodeFields_xg _ _ _).trans ?_
  revert h
  rcases bits2 f with rfl | rfl | rfl | rfl <;> first | exact fun _ => rfl | (intro h; simp [Instr.wellFormed] at h)
theorem vaFsub (g : Trig) (f : BitVec 2) : Statement (.vaFsub g f) := by
  refine of_core rfl fun h => (decodeFields_xg _ _ _).trans ?_
  revert h
  rcases bits2 f with rfl | rfl | rfl | rfl <;> first | exact fun _ => rfl | (intro h; simp [Instr.wellFormed] at h)
theorem vaFmul (g : Trig) (f : BitVec 2) : Statement (.vaFmul g f) := by
  refine of_core rfl fun h => (decodeFields_xg _ _ _).trans ?_
  revert h
  rcases bits2 f with rfl | rfl | rfl | rfl <;> first | exact fun _ => rfl | (intro h; simp [Instr.wellFormed] at h)
theorem vaFma (g : Trig) (f : BitVec 2) : Statement (.vaFma g f) := by
  refine of_core rfl fun h => (decodeFields_xg _ _ _).trans ?_
  revert h
  rcases bits2 f with rfl | rfl | rfl | rfl <;> first | exact fun _ => rfl | (intro h; simp [Instr.wellFormed] at h)
theorem vaFnma (g : Trig) (f : BitVec 2) : Statement (.vaFnma g f) := by
  refine of_core rfl fun h => (decodeFields_xg _ _ _).trans ?_
  revert h
  rcases bits2 f with rfl | rfl | rfl | rfl <;> first | exact fun _ => rfl | (intro h; simp [Instr.wellFormed] at h)
theorem vaFmin (g : Trig) (f : BitVec 2) : Statement (.vaFmin g f) := by
  refine of_core rfl fun h => (decodeFields_xg _ _ _).trans ?_
  revert h
  rcases bits2 f with rfl | rfl | rfl | rfl <;> first | exact fun _ => rfl | (intro h; simp [Instr.wellFormed] at h)
theorem vaFmax (g : Trig) (f : BitVec 2) : Statement (.vaFmax g f) := by
  refine of_core rfl fun h => (decodeFields_xg _ _ _).trans ?_
  revert h
  rcases bits2 f with rfl | rfl | rfl | rfl <;> first | exact fun _ => rfl | (intro h; simp [Instr.wellFormed] at h)
theorem vaSgnj (g : Trig) (f : BitVec 2) : Statement (.vaSgnj g f) := by
  refine of_core rfl fun h => (decodeFields_xg _ _ _).trans ?_
  revert h
  rcases bits2 f with rfl | rfl | rfl | rfl <;> first | exact fun _ => rfl | (intro h; simp [Instr.wellFormed] at h)
theorem vaAnd (g : Trig) : Statement (.vaAnd g) := of_xg rfl ((decodeFields_xg _ _ _).trans rfl)
theorem vaOr (g : Trig) : Statement (.vaOr g) := of_xg rfl ((decodeFields_xg _ _ _).trans rfl)
theorem vaXor (g : Trig) : Statement (.vaXor g) := of_xg rfl ((decodeFields_xg _ _ _).trans rfl)
theorem vaSelW (g : Trig) : Statement (.vaSelW g) := of_xg rfl ((decodeFields_xg _ _ _).trans rfl)
theorem vaSelD (g : Trig) : Statement (.vaSelD g) := of_xg rfl ((decodeFields_xg _ _ _).trans rfl)
theorem vaCeqW (g : Trig) : Statement (.vaCeqW g) := of_xg rfl ((decodeFields_xg _ _ _).trans rfl)
theorem vaCltW (g : Trig) : Statement (.vaCltW g) := of_xg rfl ((decodeFields_xg _ _ _).trans rfl)
theorem vaCltuW (g : Trig) : Statement (.vaCltuW g) := of_xg rfl ((decodeFields_xg _ _ _).trans rfl)
theorem vaCeqD (g : Trig) : Statement (.vaCeqD g) := of_xg rfl ((decodeFields_xg _ _ _).trans rfl)
theorem vaCltD (g : Trig) : Statement (.vaCltD g) := of_xg rfl ((decodeFields_xg _ _ _).trans rfl)
theorem vaFceqS (g : Trig) : Statement (.vaFceqS g) := of_xg rfl ((decodeFields_xg _ _ _).trans rfl)
theorem vaFcltS (g : Trig) : Statement (.vaFcltS g) := of_xg rfl ((decodeFields_xg _ _ _).trans rfl)
theorem vaFcleS (g : Trig) : Statement (.vaFcleS g) := of_xg rfl ((decodeFields_xg _ _ _).trans rfl)
theorem vaFceqD (g : Trig) : Statement (.vaFceqD g) := of_xg rfl ((decodeFields_xg _ _ _).trans rfl)
theorem vaFcltD (g : Trig) : Statement (.vaFcltD g) := of_xg rfl ((decodeFields_xg _ _ _).trans rfl)
theorem vaFcleD (g : Trig) : Statement (.vaFcleD g) := of_xg rfl ((decodeFields_xg _ _ _).trans rfl)
theorem vaExp2S (g : Trig) : Statement (.vaExp2S g) := of_xg rfl ((decodeFields_xg _ _ _).trans rfl)
theorem vaLog2S (g : Trig) : Statement (.vaLog2S g) := of_xg rfl ((decodeFields_xg _ _ _).trans rfl)
theorem vaRcpS (g : Trig) : Statement (.vaRcpS g) := of_xg rfl ((decodeFields_xg _ _ _).trans rfl)
theorem vaRsqrtS (g : Trig) : Statement (.vaRsqrtS g) := of_xg rfl ((decodeFields_xg _ _ _).trans rfl)
theorem vsPerm (g : Trig) (w : BitVec 2) : Statement (.vsPerm g w) := by
  refine of_core rfl fun h => (decodeFields_xg _ _ _).trans ?_
  revert h
  rcases bits2 w with rfl | rfl | rfl | rfl <;> first | exact fun _ => rfl | (intro h; simp [Instr.wellFormed] at h)
theorem vsBcast (g : Trig) (w : BitVec 2) : Statement (.vsBcast g w) := by
  refine of_core rfl fun h => (decodeFields_xg _ _ _).trans ?_
  revert h
  rcases bits2 w with rfl | rfl | rfl | rfl <;> first | exact fun _ => rfl | (intro h; simp [Instr.wellFormed] at h)
theorem vsZiplo (g : Trig) (w : BitVec 2) : Statement (.vsZiplo g w) := by
  refine of_core rfl fun h => (decodeFields_xg _ _ _).trans ?_
  revert h
  rcases bits2 w with rfl | rfl | rfl | rfl <;> first | exact fun _ => rfl | (intro h; simp [Instr.wellFormed] at h)
theorem vsZiphi (g : Trig) (w : BitVec 2) : Statement (.vsZiphi g w) := by
  refine of_core rfl fun h => (decodeFields_xg _ _ _).trans ?_
  revert h
  rcases bits2 w with rfl | rfl | rfl | rfl <;> first | exact fun _ => rfl | (intro h; simp [Instr.wellFormed] at h)
theorem vsRotb (g : Trig) : Statement (.vsRotb g) := of_xg rfl ((decodeFields_xg _ _ _).trans rfl)
theorem vsCompress (g : Trig) (w : BitVec 2) : Statement (.vsCompress g w) := by
  refine of_core rfl fun h => (decodeFields_xg _ _ _).trans ?_
  revert h
  rcases bits2 w with rfl | rfl | rfl | rfl <;> first | exact fun _ => rfl | (intro h; simp [Instr.wellFormed] at h)
theorem vsExpand (g : Trig) (w : BitVec 2) : Statement (.vsExpand g w) := by
  refine of_core rfl fun h => (decodeFields_xg _ _ _).trans ?_
  revert h
  rcases bits2 w with rfl | rfl | rfl | rfl <;> first | exact fun _ => rfl | (intro h; simp [Instr.wellFormed] at h)
theorem vsRsumD (g : Trig) : Statement (.vsRsumD g) := of_xg rfl ((decodeFields_xg _ _ _).trans rfl)
theorem vsRmaxD (g : Trig) : Statement (.vsRmaxD g) := of_xg rfl ((decodeFields_xg _ _ _).trans rfl)
theorem vsRminD (g : Trig) : Statement (.vsRminD g) := of_xg rfl ((decodeFields_xg _ _ _).trans rfl)
theorem vsRsumS (g : Trig) : Statement (.vsRsumS g) := of_xg rfl ((decodeFields_xg _ _ _).trans rfl)
theorem vsRmaxS (g : Trig) : Statement (.vsRmaxS g) := of_xg rfl ((decodeFields_xg _ _ _).trans rfl)
theorem vsRminS (g : Trig) : Statement (.vsRminS g) := of_xg rfl ((decodeFields_xg _ _ _).trans rfl)
theorem vsRsumBf (g : Trig) : Statement (.vsRsumBf g) := of_xg rfl ((decodeFields_xg _ _ _).trans rfl)
theorem vsRmaxBf (g : Trig) : Statement (.vsRmaxBf g) := of_xg rfl ((decodeFields_xg _ _ _).trans rfl)
theorem vsRminBf (g : Trig) : Statement (.vsRminBf g) := of_xg rfl ((decodeFields_xg _ _ _).trans rfl)
theorem vsRsumHf (g : Trig) : Statement (.vsRsumHf g) := of_xg rfl ((decodeFields_xg _ _ _).trans rfl)
theorem vsRmaxHf (g : Trig) : Statement (.vsRmaxHf g) := of_xg rfl ((decodeFields_xg _ _ _).trans rfl)
theorem vsRminHf (g : Trig) : Statement (.vsRminHf g) := of_xg rfl ((decodeFields_xg _ _ _).trans rfl)
theorem vsIrsumW (g : Trig) : Statement (.vsIrsumW g) := of_xg rfl ((decodeFields_xg _ _ _).trans rfl)
theorem vsIrsumD (g : Trig) : Statement (.vsIrsumD g) := of_xg rfl ((decodeFields_xg _ _ _).trans rfl)
theorem vsIrmaxW (g : Trig) : Statement (.vsIrmaxW g) := of_xg rfl ((decodeFields_xg _ _ _).trans rfl)
theorem vsIrminW (g : Trig) : Statement (.vsIrminW g) := of_xg rfl ((decodeFields_xg _ _ _).trans rfl)
theorem vsIrmaxuW (g : Trig) : Statement (.vsIrmaxuW g) := of_xg rfl ((decodeFields_xg _ _ _).trans rfl)
theorem vsIrminuW (g : Trig) : Statement (.vsIrminuW g) := of_xg rfl ((decodeFields_xg _ _ _).trans rfl)
theorem vsIrmaxD (g : Trig) : Statement (.vsIrmaxD g) := of_xg rfl ((decodeFields_xg _ _ _).trans rfl)
theorem vsIrminD (g : Trig) : Statement (.vsIrminD g) := of_xg rfl ((decodeFields_xg _ _ _).trans rfl)
theorem vsIrmaxuD (g : Trig) : Statement (.vsIrmaxuD g) := of_xg rfl ((decodeFields_xg _ _ _).trans rfl)
theorem vsIrminuD (g : Trig) : Statement (.vsIrminuD g) := of_xg rfl ((decodeFields_xg _ _ _).trans rfl)
theorem cvBf16F32 (g : Trig) (c : BitVec 2) : Statement (.cvBf16F32 g c) := by
  refine of_core rfl fun h => (decodeFields_xg _ _ _).trans ?_
  revert h
  rcases bits2 c with rfl | rfl | rfl | rfl <;> first | exact fun _ => rfl | (intro h; simp [Instr.wellFormed] at h)
theorem cvF16F32 (g : Trig) (c : BitVec 2) : Statement (.cvF16F32 g c) := by
  refine of_core rfl fun h => (decodeFields_xg _ _ _).trans ?_
  revert h
  rcases bits2 c with rfl | rfl | rfl | rfl <;> first | exact fun _ => rfl | (intro h; simp [Instr.wellFormed] at h)
theorem cvF32F64 (g : Trig) (c : BitVec 2) : Statement (.cvF32F64 g c) := by
  refine of_core rfl fun h => (decodeFields_xg _ _ _).trans ?_
  revert h
  rcases bits2 c with rfl | rfl | rfl | rfl <;> first | exact fun _ => rfl | (intro h; simp [Instr.wellFormed] at h)
theorem cvI32F32 (g : Trig) (c : BitVec 2) : Statement (.cvI32F32 g c) := by
  refine of_core rfl fun h => (decodeFields_xg _ _ _).trans ?_
  revert h
  rcases bits2 c with rfl | rfl | rfl | rfl <;> first | exact fun _ => rfl | (intro h; simp [Instr.wellFormed] at h)
theorem cvI64F64 (g : Trig) (c : BitVec 2) : Statement (.cvI64F64 g c) := by
  refine of_core rfl fun h => (decodeFields_xg _ _ _).trans ?_
  revert h
  rcases bits2 c with rfl | rfl | rfl | rfl <;> first | exact fun _ => rfl | (intro h; simp [Instr.wellFormed] at h)
theorem cvF32I32 (g : Trig) (c : BitVec 2) : Statement (.cvF32I32 g c) := by
  refine of_core rfl fun h => (decodeFields_xg _ _ _).trans ?_
  revert h
  rcases bits2 c with rfl | rfl | rfl | rfl <;> first | exact fun _ => rfl | (intro h; simp [Instr.wellFormed] at h)
theorem cvF64I64 (g : Trig) (c : BitVec 2) : Statement (.cvF64I64 g c) := by
  refine of_core rfl fun h => (decodeFields_xg _ _ _).trans ?_
  revert h
  rcases bits2 c with rfl | rfl | rfl | rfl <;> first | exact fun _ => rfl | (intro h; simp [Instr.wellFormed] at h)
theorem cvE4m3F32 (g : Trig) (c : BitVec 2) : Statement (.cvE4m3F32 g c) := by
  refine of_core rfl fun h => (decodeFields_xg _ _ _).trans ?_
  revert h
  rcases bits2 c with rfl | rfl | rfl | rfl <;> first | exact fun _ => rfl | (intro h; simp [Instr.wellFormed] at h)
theorem cvE5m2F32 (g : Trig) (c : BitVec 2) : Statement (.cvE5m2F32 g c) := by
  refine of_core rfl fun h => (decodeFields_xg _ _ _).trans ?_
  revert h
  rcases bits2 c with rfl | rfl | rfl | rfl <;> first | exact fun _ => rfl | (intro h; simp [Instr.wellFormed] at h)
theorem cvI8I32 (g : Trig) : Statement (.cvI8I32 g) := of_xg rfl ((decodeFields_xg _ _ _).trans rfl)
theorem cvF32Bf16 (g : Trig) (c : BitVec 1) : Statement (.cvF32Bf16 g c) := by
  refine of_core rfl fun h => (decodeFields_xg _ _ _).trans ?_
  revert h
  rcases bits1 c with rfl | rfl <;> first | exact fun _ => rfl | (intro h; simp [Instr.wellFormed] at h)
theorem cvF32F16 (g : Trig) (c : BitVec 1) : Statement (.cvF32F16 g c) := by
  refine of_core rfl fun h => (decodeFields_xg _ _ _).trans ?_
  revert h
  rcases bits1 c with rfl | rfl <;> first | exact fun _ => rfl | (intro h; simp [Instr.wellFormed] at h)
theorem cvF64F32 (g : Trig) (c : BitVec 1) : Statement (.cvF64F32 g c) := by
  refine of_core rfl fun h => (decodeFields_xg _ _ _).trans ?_
  revert h
  rcases bits1 c with rfl | rfl <;> first | exact fun _ => rfl | (intro h; simp [Instr.wellFormed] at h)
theorem cvF32E4m3 (g : Trig) (c : BitVec 2) : Statement (.cvF32E4m3 g c) := by
  refine of_core rfl fun h => (decodeFields_xg _ _ _).trans ?_
  revert h
  rcases bits2 c with rfl | rfl | rfl | rfl <;> first | exact fun _ => rfl | (intro h; simp [Instr.wellFormed] at h)
theorem cvF32E5m2 (g : Trig) (c : BitVec 2) : Statement (.cvF32E5m2 g c) := by
  refine of_core rfl fun h => (decodeFields_xg _ _ _).trans ?_
  revert h
  rcases bits2 c with rfl | rfl | rfl | rfl <;> first | exact fun _ => rfl | (intro h; simp [Instr.wellFormed] at h)
theorem cvI32I8 (g : Trig) (c : BitVec 2) : Statement (.cvI32I8 g c) := by
  refine of_core rfl fun h => (decodeFields_xg _ _ _).trans ?_
  revert h
  rcases bits2 c with rfl | rfl | rfl | rfl <;> first | exact fun _ => rfl | (intro h; simp [Instr.wellFormed] at h)
theorem cvMxencE4m3 (g : Trig) : Statement (.cvMxencE4m3 g) := of_xg rfl ((decodeFields_xg _ _ _).trans rfl)
theorem cvMxencE5m2 (g : Trig) : Statement (.cvMxencE5m2 g) := of_xg rfl ((decodeFields_xg _ _ _).trans rfl)
theorem cvF4encLo (g : Trig) : Statement (.cvF4encLo g) := of_xg rfl ((decodeFields_xg _ _ _).trans rfl)
theorem cvF4encHi (g : Trig) : Statement (.cvF4encHi g) := of_xg rfl ((decodeFields_xg _ _ _).trans rfl)
theorem lsLd (g : Trig) : Statement (.lsLd g) := of_xg rfl ((decodeFields_xg _ _ _).trans rfl)
theorem lsLdlo (g : Trig) : Statement (.lsLdlo g) := of_xg rfl ((decodeFields_xg _ _ _).trans rfl)
theorem lsLdhi (g : Trig) : Statement (.lsLdhi g) := of_xg rfl ((decodeFields_xg _ _ _).trans rfl)
theorem lsLdn (g : Trig) : Statement (.lsLdn g) := of_xg rfl ((decodeFields_xg _ _ _).trans rfl)
theorem lsSt (g : Trig) : Statement (.lsSt g) := of_xg rfl ((decodeFields_xg _ _ _).trans rfl)
theorem lsStm (g : Trig) : Statement (.lsStm g) := of_xg rfl ((decodeFields_xg _ _ _).trans rfl)
theorem mxMm (g : Trig) : Statement (.mxMm g) := of_xg rfl ((decodeFields_xg _ _ _).trans rfl)
theorem mxMmw (g : Trig) : Statement (.mxMmw g) := of_xg rfl ((decodeFields_xg _ _ _).trans rfl)
theorem mxMmd (g : Trig) : Statement (.mxMmd g) := of_xg rfl ((decodeFields_xg _ _ _).trans rfl)
theorem mxMmn (g : Trig) : Statement (.mxMmn g) := of_xg rfl ((decodeFields_xg _ _ _).trans rfl)
theorem mxZero (g : Trig) : Statement (.mxZero g) := of_xg rfl ((decodeFields_xg _ _ _).trans rfl)
theorem mxSt (g : Trig) : Statement (.mxSt g) := of_xg rfl ((decodeFields_xg _ _ _).trans rfl)
theorem mxLd (g : Trig) : Statement (.mxLd g) := of_xg rfl ((decodeFields_xg _ _ _).trans rfl)
theorem wbLd (g : Trig) : Statement (.wbLd g) := of_xg rfl ((decodeFields_xg _ _ _).trans rfl)
theorem wbLdc (g : Trig) : Statement (.wbLdc g) := of_xg rfl ((decodeFields_xg _ _ _).trans rfl)
theorem wbClr (g : Trig) : Statement (.wbClr g) := of_xg rfl ((decodeFields_xg _ _ _).trans rfl)
theorem ceRun (g : Trig) : Statement (.ceRun g) := of_xg rfl ((decodeFields_xg _ _ _).trans rfl)
theorem ceRunv (g : Trig) : Statement (.ceRunv g) := of_xg rfl ((decodeFields_xg _ _ _).trans rfl)
theorem niSt (g : Trig) (t : BitVec 2) : Statement (.niSt g t) := by
  refine of_core rfl fun h => (decodeFields_xg _ _ _).trans ?_
  revert h
  rcases bits2 t with rfl | rfl | rfl | rfl <;> first | exact fun _ => rfl | (intro h; simp [Instr.wellFormed] at h)
theorem niTst (g : Trig) (t : BitVec 2) : Statement (.niTst g t) := by
  refine of_core rfl fun h => (decodeFields_xg _ _ _).trans ?_
  revert h
  rcases bits2 t with rfl | rfl | rfl | rfl <;> first | exact fun _ => rfl | (intro h; simp [Instr.wellFormed] at h)
theorem niVaddI32 (g : Trig) (t : BitVec 2) : Statement (.niVaddI32 g t) := by
  refine of_core rfl fun h => (decodeFields_xg _ _ _).trans ?_
  revert h
  rcases bits2 t with rfl | rfl | rfl | rfl <;> first | exact fun _ => rfl | (intro h; simp [Instr.wellFormed] at h)
theorem niVaddI64 (g : Trig) (t : BitVec 2) : Statement (.niVaddI64 g t) := by
  refine of_core rfl fun h => (decodeFields_xg _ _ _).trans ?_
  revert h
  rcases bits2 t with rfl | rfl | rfl | rfl <;> first | exact fun _ => rfl | (intro h; simp [Instr.wellFormed] at h)
theorem niVaddF32 (g : Trig) (t : BitVec 2) : Statement (.niVaddF32 g t) := by
  refine of_core rfl fun h => (decodeFields_xg _ _ _).trans ?_
  revert h
  rcases bits2 t with rfl | rfl | rfl | rfl <;> first | exact fun _ => rfl | (intro h; simp [Instr.wellFormed] at h)
theorem niVaddF64 (g : Trig) (t : BitVec 2) : Statement (.niVaddF64 g t) := by
  refine of_core rfl fun h => (decodeFields_xg _ _ _).trans ?_
  revert h
  rcases bits2 t with rfl | rfl | rfl | rfl <;> first | exact fun _ => rfl | (intro h; simp [Instr.wellFormed] at h)
theorem niVaddBf16 (g : Trig) (t : BitVec 2) : Statement (.niVaddBf16 g t) := by
  refine of_core rfl fun h => (decodeFields_xg _ _ _).trans ?_
  revert h
  rcases bits2 t with rfl | rfl | rfl | rfl <;> first | exact fun _ => rfl | (intro h; simp [Instr.wellFormed] at h)
theorem niTaddI32 (g : Trig) (t : BitVec 2) : Statement (.niTaddI32 g t) := by
  refine of_core rfl fun h => (decodeFields_xg _ _ _).trans ?_
  revert h
  rcases bits2 t with rfl | rfl | rfl | rfl <;> first | exact fun _ => rfl | (intro h; simp [Instr.wellFormed] at h)
theorem niTaddF32 (g : Trig) (t : BitVec 2) : Statement (.niTaddF32 g t) := by
  refine of_core rfl fun h => (decodeFields_xg _ _ _).trans ?_
  revert h
  rcases bits2 t with rfl | rfl | rfl | rfl <;> first | exact fun _ => rfl | (intro h; simp [Instr.wellFormed] at h)
theorem niTaddF64 (g : Trig) (t : BitVec 2) : Statement (.niTaddF64 g t) := by
  refine of_core rfl fun h => (decodeFields_xg _ _ _).trans ?_
  revert h
  rcases bits2 t with rfl | rfl | rfl | rfl <;> first | exact fun _ => rfl | (intro h; simp [Instr.wellFormed] at h)
theorem niGet (g : Trig) (t : BitVec 2) : Statement (.niGet g t) := by
  refine of_core rfl fun h => (decodeFields_xg _ _ _).trans ?_
  revert h
  rcases bits2 t with rfl | rfl | rfl | rfl <;> first | exact fun _ => rfl | (intro h; simp [Instr.wellFormed] at h)
theorem niMsg (g : Trig) : Statement (.niMsg g) := of_xg rfl ((decodeFields_xg _ _ _).trans rfl)
theorem niWin (g : Trig) : Statement (.niWin g) := of_xg rfl ((decodeFields_xg _ _ _).trans rfl)
theorem niCap (g : Trig) : Statement (.niCap g) := of_xg rfl ((decodeFields_xg _ _ _).trans rfl)
theorem fwait (b : BitVec 5) (a : BitVec 5) : Statement (.fwait b a) := of_core rfl fun _ => (decodeFields_rType _ _ _ _ _).2.2.1.trans rfl
theorem fbump (a : BitVec 5) : Statement (.fbump a) := of_core rfl fun _ => (decodeFields_rType _ _ _ _ _).2.2.1.trans rfl
theorem tdef (b : BitVec 5) (a : BitVec 5) : Statement (.tdef b a) := of_core rfl fun _ => (decodeFields_rType _ _ _ _ _).2.2.1.trans rfl
theorem tarm (b : BitVec 5) (a : BitVec 5) : Statement (.tarm b a) := of_core rfl fun _ => (decodeFields_rType _ _ _ _ _).2.2.1.trans rfl
theorem trel (a : BitVec 5) : Statement (.trel a) := of_core rfl fun _ => (decodeFields_rType _ _ _ _ _).2.2.1.trans rfl
theorem twait (a : BitVec 5) : Statement (.twait a) := of_core rfl fun _ => (decodeFields_rType _ _ _ _ _).2.2.1.trans rfl
theorem pstf (c : BitVec 5) (w : BitVec 2) (b : BitVec 5) (a : BitVec 5) : Statement (.pstf c w b a) := by
  have e (y : BitVec 2) : (c ++ y : BitVec 7).extractLsb' 2 5 = c := (extract_past _ _ _ _ (by decide)).trans BitVec.extractLsb'_eq_self
  have e' (y : BitVec 2) : (c ++ y : BitVec 7).extractLsb' 0 2 = y := extract_here _ _
  refine of_core rfl fun _ => (decodeFields_rType _ _ _ _ _).2.2.1.trans ?_
  unfold decodeCustom2
  simp only [e, e']
  rcases bits2 w with rfl | rfl | rfl | rfl <;> simp
theorem raddfInt (c : BitVec 5) (w : BitVec 1) (b : BitVec 5) (a : BitVec 5) : Statement (.raddfInt c w b a) := by
  have e (y : BitVec 2) : (c ++ y : BitVec 7).extractLsb' 2 5 = c := (extract_past _ _ _ _ (by decide)).trans BitVec.extractLsb'_eq_self
  have e' (y : BitVec 2) : (c ++ y : BitVec 7).extractLsb' 0 2 = y := extract_here _ _
  refine of_core rfl fun _ => (decodeFields_rType _ _ _ _ _).2.2.1.trans ?_
  unfold decodeCustom2
  simp only [e, e']
  rcases bits1 w with rfl | rfl <;> simp
theorem raddfFloat (c : BitVec 5) (w : BitVec 1) (b : BitVec 5) (a : BitVec 5) : Statement (.raddfFloat c w b a) := by
  have e (y : BitVec 2) : (c ++ y : BitVec 7).extractLsb' 2 5 = c := (extract_past _ _ _ _ (by decide)).trans BitVec.extractLsb'_eq_self
  have e' (y : BitVec 2) : (c ++ y : BitVec 7).extractLsb' 0 2 = y := extract_here _ _
  refine of_core rfl fun _ => (decodeFields_rType _ _ _ _ _).2.2.1.trans ?_
  unfold decodeCustom2
  simp only [e, e']
  rcases bits1 w with rfl | rfl <;> simp
theorem rfadd (w : BitVec 1) (b : BitVec 5) (a : BitVec 5) (d : BitVec 5) : Statement (.rfadd w b a d) := by
  refine of_core rfl fun _ => (decodeFields_rType _ _ _ _ _).2.2.1.trans ?_
  rcases bits1 w with rfl | rfl <;> 
    simp [decodeCustom2, decodeFetchAtomic, decodeTask, decodeGroup]
theorem rfswap (w : BitVec 1) (b : BitVec 5) (a : BitVec 5) (d : BitVec 5) : Statement (.rfswap w b a d) := by
  refine of_core rfl fun _ => (decodeFields_rType _ _ _ _ _).2.2.1.trans ?_
  rcases bits1 w with rfl | rfl <;> 
    simp [decodeCustom2, decodeFetchAtomic, decodeTask, decodeGroup]
theorem rfand (w : BitVec 1) (b : BitVec 5) (a : BitVec 5) (d : BitVec 5) : Statement (.rfand w b a d) := by
  refine of_core rfl fun _ => (decodeFields_rType _ _ _ _ _).2.2.1.trans ?_
  rcases bits1 w with rfl | rfl <;> 
    simp [decodeCustom2, decodeFetchAtomic, decodeTask, decodeGroup]
theorem rfor (w : BitVec 1) (b : BitVec 5) (a : BitVec 5) (d : BitVec 5) : Statement (.rfor w b a d) := by
  refine of_core rfl fun _ => (decodeFields_rType _ _ _ _ _).2.2.1.trans ?_
  rcases bits1 w with rfl | rfl <;> 
    simp [decodeCustom2, decodeFetchAtomic, decodeTask, decodeGroup]
theorem rfxor (w : BitVec 1) (b : BitVec 5) (a : BitVec 5) (d : BitVec 5) : Statement (.rfxor w b a d) := by
  refine of_core rfl fun _ => (decodeFields_rType _ _ _ _ _).2.2.1.trans ?_
  rcases bits1 w with rfl | rfl <;> 
    simp [decodeCustom2, decodeFetchAtomic, decodeTask, decodeGroup]
theorem rfmin (w : BitVec 1) (b : BitVec 5) (a : BitVec 5) (d : BitVec 5) : Statement (.rfmin w b a d) := by
  refine of_core rfl fun _ => (decodeFields_rType _ _ _ _ _).2.2.1.trans ?_
  rcases bits1 w with rfl | rfl <;> 
    simp [decodeCustom2, decodeFetchAtomic, decodeTask, decodeGroup]
theorem rfmax (w : BitVec 1) (b : BitVec 5) (a : BitVec 5) (d : BitVec 5) : Statement (.rfmax w b a d) := by
  refine of_core rfl fun _ => (decodeFields_rType _ _ _ _ _).2.2.1.trans ?_
  rcases bits1 w with rfl | rfl <;> 
    simp [decodeCustom2, decodeFetchAtomic, decodeTask, decodeGroup]
theorem rfminu (w : BitVec 1) (b : BitVec 5) (a : BitVec 5) (d : BitVec 5) : Statement (.rfminu w b a d) := by
  refine of_core rfl fun _ => (decodeFields_rType _ _ _ _ _).2.2.1.trans ?_
  rcases bits1 w with rfl | rfl <;> 
    simp [decodeCustom2, decodeFetchAtomic, decodeTask, decodeGroup]
theorem rfmaxu (w : BitVec 1) (b : BitVec 5) (a : BitVec 5) (d : BitVec 5) : Statement (.rfmaxu w b a d) := by
  refine of_core rfl fun _ => (decodeFields_rType _ _ _ _ _).2.2.1.trans ?_
  rcases bits1 w with rfl | rfl <;> 
    simp [decodeCustom2, decodeFetchAtomic, decodeTask, decodeGroup]
theorem rfaddf (w : BitVec 1) (b : BitVec 5) (a : BitVec 5) (d : BitVec 5) : Statement (.rfaddf w b a d) := by
  refine of_core rfl fun _ => (decodeFields_rType _ _ _ _ _).2.2.1.trans ?_
  rcases bits1 w with rfl | rfl <;> 
    simp [decodeCustom2, decodeFetchAtomic, decodeTask, decodeGroup]
theorem rcas (c : BitVec 5) (w : BitVec 1) (b : BitVec 5) (a : BitVec 5) (d : BitVec 5) : Statement (.rcas c w b a d) := by
  have e (y : BitVec 2) : (c ++ y : BitVec 7).extractLsb' 2 5 = c := (extract_past _ _ _ _ (by decide)).trans BitVec.extractLsb'_eq_self
  have e' (y : BitVec 2) : (c ++ y : BitVec 7).extractLsb' 0 2 = y := extract_here _ _
  refine of_core rfl fun _ => (decodeFields_rType _ _ _ _ _).2.2.1.trans ?_
  unfold decodeCustom2
  simp only [e, e']
  rcases bits1 w with rfl | rfl <;> simp
theorem rfenceRel (s : BitVec 2) (d : BitVec 5) : Statement (.rfenceRel s d) := by
  refine of_core rfl fun _ => (decodeFields_rType _ _ _ _ _).2.2.1.trans ?_
  rcases bits2 s with rfl | rfl | rfl | rfl <;> 
    simp [decodeCustom2, decodeFetchAtomic, decodeTask, decodeGroup]
theorem rfenceAcq (s : BitVec 2) (d : BitVec 5) : Statement (.rfenceAcq s d) := by
  refine of_core rfl fun _ => (decodeFields_rType _ _ _ _ _).2.2.1.trans ?_
  rcases bits2 s with rfl | rfl | rfl | rfl <;> 
    simp [decodeCustom2, decodeFetchAtomic, decodeTask, decodeGroup]
theorem msend (b : BitVec 5) (a : BitVec 5) (q : BitVec 3) : Statement (.msend b a q) := by
  refine of_core rfl fun _ => (decodeFields_rType _ _ _ _ _).2.2.1.trans ?_
  rcases bits3 q with rfl | rfl | rfl | rfl | rfl | rfl | rfl | rfl <;> 
    simp [decodeCustom2, decodeFetchAtomic, decodeTask, decodeGroup]
theorem qmov (q : BitVec 3) (d : BitVec 5) : Statement (.qmov q d) := by
  refine of_core rfl fun _ => (decodeFields_rType _ _ _ _ _).2.2.1.trans ?_
  rcases bits3 q with rfl | rfl | rfl | rfl | rfl | rfl | rfl | rfl <;> 
    simp [decodeCustom2, decodeFetchAtomic, decodeTask, decodeGroup]
theorem callat (b : BitVec 5) (a : BitVec 5) (p : BitVec 2) (q : BitVec 3) : Statement (.callat b a p q) := by
  refine of_core rfl fun _ => (decodeFields_rType _ _ _ _ _).2.2.1.trans ?_
  rcases bits2 p with rfl | rfl | rfl | rfl <;>
    rcases bits3 q with rfl | rfl | rfl | rfl | rfl | rfl | rfl | rfl <;> 
    simp [decodeCustom2, decodeFetchAtomic, decodeTask, decodeGroup]
theorem hop (b : BitVec 5) (a : BitVec 5) : Statement (.hop b a) := of_core rfl fun _ => (decodeFields_rType _ _ _ _ _).2.2.1.trans rfl
theorem own (b : BitVec 5) (a : BitVec 5) (d : BitVec 5) : Statement (.own b a d) := of_core rfl fun _ => (decodeFields_rType _ _ _ _ _).2.2.1.trans rfl
theorem ocinv (a : BitVec 5) : Statement (.ocinv a) := of_core rfl fun _ => (decodeFields_rType _ _ _ _ _).2.2.1.trans rfl
theorem kget (k : BitVec 3) (d : BitVec 5) : Statement (.kget k d) := by
  refine of_core rfl fun _ => (decodeFields_rType _ _ _ _ _).2.2.1.trans ?_
  rcases bits3 k with rfl | rfl | rfl | rfl | rfl | rfl | rfl | rfl <;> 
    simp [decodeCustom2, decodeFetchAtomic, decodeTask, decodeGroup]
theorem kset (a : BitVec 5) (k : BitVec 3) : Statement (.kset a k) := by
  refine of_core rfl fun _ => (decodeFields_rType _ _ _ _ _).2.2.1.trans ?_
  rcases bits3 k with rfl | rfl | rfl | rfl | rfl | rfl | rfl | rfl <;> 
    simp [decodeCustom2, decodeFetchAtomic, decodeTask, decodeGroup]
theorem gbar (a : BitVec 5) : Statement (.gbar a) := of_core rfl fun _ => (decodeFields_rType _ _ _ _ _).2.2.1.trans rfl
theorem gsum (b : BitVec 5) (a : BitVec 5) (d : BitVec 5) : Statement (.gsum b a d) := of_core rfl fun _ => (decodeFields_rType _ _ _ _ _).2.2.1.trans rfl
theorem gmax (b : BitVec 5) (a : BitVec 5) (d : BitVec 5) : Statement (.gmax b a d) := of_core rfl fun _ => (decodeFields_rType _ _ _ _ _).2.2.1.trans rfl
theorem gmin (b : BitVec 5) (a : BitVec 5) (d : BitVec 5) : Statement (.gmin b a d) := of_core rfl fun _ => (decodeFields_rType _ _ _ _ _).2.2.1.trans rfl
theorem hstart (b : BitVec 5) (a : BitVec 5) (d : BitVec 5) : Statement (.hstart b a d) := of_core rfl fun _ => (decodeFields_rType _ _ _ _ _).2.2.2.2.trans rfl
theorem hreap (a : BitVec 5) (d : BitVec 5) : Statement (.hreap a d) := of_core rfl fun _ => (decodeFields_rType _ _ _ _ _).2.2.2.2.trans rfl
theorem hsave (b : BitVec 5) (a : BitVec 5) : Statement (.hsave b a) := of_core rfl fun _ => (decodeFields_rType _ _ _ _ _).2.2.2.2.trans rfl
theorem hload (b : BitVec 5) (a : BitVec 5) : Statement (.hload b a) := of_core rfl fun _ => (decodeFields_rType _ _ _ _ _).2.2.2.2.trans rfl
theorem tqpush (b : BitVec 5) (a : BitVec 5) (d : BitVec 5) : Statement (.tqpush b a d) := of_core rfl fun _ => (decodeFields_rType _ _ _ _ _).2.2.2.2.trans rfl
theorem tqpop (b : BitVec 5) (a : BitVec 5) (d : BitVec 5) : Statement (.tqpop b a d) := of_core rfl fun _ => (decodeFields_rType _ _ _ _ _).2.2.2.2.trans rfl
theorem psave (a : BitVec 5) : Statement (.psave a) := of_core rfl fun _ => (decodeFields_rType _ _ _ _ _).2.2.2.2.trans rfl
theorem pload (a : BitVec 5) : Statement (.pload a) := of_core rfl fun _ => (decodeFields_rType _ _ _ _ _).2.2.2.2.trans rfl
theorem cmig (a : BitVec 5) (d : BitVec 5) : Statement (.cmig a d) := of_core rfl fun _ => (decodeFields_rType _ _ _ _ _).2.2.2.2.trans rfl
theorem ovmap (b : BitVec 5) (a : BitVec 5) : Statement (.ovmap b a) := of_core rfl fun _ => (decodeFields_rType _ _ _ _ _).2.2.2.2.trans rfl
theorem ovunmap (a : BitVec 5) : Statement (.ovunmap a) := of_core rfl fun _ => (decodeFields_rType _ _ _ _ _).2.2.2.2.trans rfl
theorem coldReset : Statement .coldReset := of_none rfl
theorem warmReset : Statement .warmReset := of_none rfl
theorem phaseRom : Statement .phaseRom := of_none rfl
theorem firmwareVerify : Statement .firmwareVerify := of_none rfl
theorem phaseMemory : Statement .phaseMemory := of_none rfl
theorem phaseConfig : Statement .phaseConfig := of_none rfl
theorem phaseLinks : Statement .phaseLinks := of_none rfl
theorem mailboxReport : Statement .mailboxReport := of_none rfl
theorem mailboxCert : Statement .mailboxCert := of_none rfl
theorem bindContext : Statement .bindContext := of_none rfl
theorem unbindContext : Statement .unbindContext := of_none rfl
theorem mailboxUnknownCommand : Statement .mailboxUnknownCommand := of_none rfl
theorem registerWrite : Statement .registerWrite := of_none rfl
theorem corectlWrite : Statement .corectlWrite := of_none rfl
theorem fwstatWrite : Statement .fwstatWrite := of_none rfl
theorem fbtailWrite : Statement .fbtailWrite := of_none rfl
theorem softerrClr : Statement .softerrClr := of_none rfl
theorem dclkctlTargetWrite : Statement .dclkctlTargetWrite := of_none rfl
theorem clockHalt : Statement .clockHalt := of_none rfl
theorem clockRelock : Statement .clockRelock := of_none rfl
theorem flush : Statement .flush := of_none rfl
theorem flushrange : Statement .flushrange := of_none rfl
theorem hostFlushComplete : Statement .hostFlushComplete := of_none rfl
theorem hostApertureWrite : Statement .hostApertureWrite := of_none rfl
theorem hostApertureRead : Statement .hostApertureRead := of_none rfl
theorem hostWindowWrite : Statement .hostWindowWrite := of_none rfl
theorem cxlLinkDown : Statement .cxlLinkDown := of_none rfl
theorem sctlOpen : Statement .sctlOpen := of_none rfl
theorem slotOpenComplete : Statement .slotOpenComplete := of_none rfl
theorem sctlClose : Statement .sctlClose := of_none rfl
theorem slotCloseComplete : Statement .slotCloseComplete := of_none rfl
theorem slimitWrite : Statement .slimitWrite := of_none rfl
theorem streamLineFetch : Statement .streamLineFetch := of_none rfl
theorem streamDecode : Statement .streamDecode := of_none rfl
theorem streamIssue : Statement .streamIssue := of_none rfl
theorem streamEntryDone : Statement .streamEntryDone := of_none rfl
theorem streamRetire : Statement .streamRetire := of_none rfl
theorem storeDrainLeave : Statement .storeDrainLeave := of_none rfl
theorem swaitPoll : Statement .swaitPoll := of_none rfl
theorem skernTaskPlacement : Statement .skernTaskPlacement := of_none rfl
theorem taskEndReport : Statement .taskEndReport := of_none rfl
theorem macroTileStep : Statement .macroTileStep := of_none rfl
theorem cellarPartComplete : Statement .cellarPartComplete := of_none rfl
theorem remotePartArrival : Statement .remotePartArrival := of_none rfl
theorem streamFaultRaise : Statement .streamFaultRaise := of_none rfl
theorem autostartClaim : Statement .autostartClaim := of_none rfl
theorem hartLoadComplete : Statement .hartLoadComplete := of_none rfl
theorem hsaveDrainComplete : Statement .hsaveDrainComplete := of_none rfl
theorem hartSaveComplete : Statement .hartSaveComplete := of_none rfl
theorem hstopComplete : Statement .hstopComplete := of_none rfl
theorem hopSend : Statement .hopSend := of_none rfl
theorem cmigComplete : Statement .cmigComplete := of_none rfl
theorem hartWake : Statement .hartWake := of_none rfl
theorem quantumExpiry : Statement .quantumExpiry := of_none rfl
theorem interruptTrap : Statement .interruptTrap := of_none rfl
theorem deferredFaultTrap : Statement .deferredFaultTrap := of_none rfl
theorem upcallEntry : Statement .upcallEntry := of_none rfl
theorem faultRecordWrite : Statement .faultRecordWrite := of_none rfl
theorem taskRecordArrival : Statement .taskRecordArrival := of_none rfl
theorem messageArrival : Statement .messageArrival := of_none rfl
theorem barrierArrivalReport : Statement .barrierArrivalReport := of_none rfl
theorem barrierCompletionArrival : Statement .barrierCompletionArrival := of_none rfl
theorem niRequestSend : Statement .niRequestSend := of_none rfl
theorem remoteStorePerform : Statement .remoteStorePerform := of_none rfl
theorem remoteLoadPerform : Statement .remoteLoadPerform := of_none rfl
theorem remoteAtomicPerform : Statement .remoteAtomicPerform := of_none rfl
theorem flagArrival : Statement .flagArrival := of_none rfl
theorem tileArrival : Statement .tileArrival := of_none rfl
theorem acknowledgementArrival : Statement .acknowledgementArrival := of_none rfl
theorem splitPhaseFill : Statement .splitPhaseFill := of_none rfl
theorem negativeAcknowledgement : Statement .negativeAcknowledgement := of_none rfl
theorem retrySend : Statement .retrySend := of_none rfl
theorem remoteFaultArrival : Statement .remoteFaultArrival := of_none rfl
theorem releasePerform : Statement .releasePerform := of_none rfl
theorem ownerLookup : Statement .ownerLookup := of_none rfl
theorem pageWalk : Statement .pageWalk := of_none rfl
theorem tlbInvalidation : Statement .tlbInvalidation := of_none rfl
theorem sfenceVmaComplete : Statement .sfenceVmaComplete := of_none rfl
theorem ownRequestArrival : Statement .ownRequestArrival := of_none rfl
theorem chunkCopy : Statement .chunkCopy := of_none rfl
theorem doorplateForward : Statement .doorplateForward := of_none rfl
theorem redirectArrival : Statement .redirectArrival := of_none rfl
theorem bounceArrival : Statement .bounceArrival := of_none rfl
theorem mapUpdate : Statement .mapUpdate := of_none rfl
theorem mapUpdateAck : Statement .mapUpdateAck := of_none rfl
theorem stubReclaim : Statement .stubReclaim := of_none rfl
theorem flushMarker : Statement .flushMarker := of_none rfl
theorem collectiveCompletion : Statement .collectiveCompletion := of_none rfl
theorem unitResultFill : Statement .unitResultFill := of_none rfl
theorem mxTriggerStart : Statement .mxTriggerStart := of_none rfl
theorem mxResultFill : Statement .mxResultFill := of_none rfl
theorem wbTriggerStart : Statement .wbTriggerStart := of_none rfl
theorem wbResultFill : Statement .wbResultFill := of_none rfl
theorem ceListActivate : Statement .ceListActivate := of_none rfl
theorem ceTransfer : Statement .ceTransfer := of_none rfl
theorem ceCommandComplete : Statement .ceCommandComplete := of_none rfl
theorem portEnable : Statement .portEnable := of_none rfl
theorem portTrained : Statement .portTrained := of_none rfl
theorem trainingTimeout : Statement .trainingTimeout := of_none rfl
theorem portQuiesce : Statement .portQuiesce := of_none rfl
theorem quiesceComplete : Statement .quiesceComplete := of_none rfl
theorem portDisable : Statement .portDisable := of_none rfl
theorem flitReceive : Statement .flitReceive := of_none rfl
theorem repeatRequestReceive : Statement .repeatRequestReceive := of_none rfl
theorem portDegrade : Statement .portDegrade := of_none rfl
theorem laneLoss : Statement .laneLoss := of_none rfl
theorem laneRealign : Statement .laneRealign := of_none rfl
theorem portDead : Statement .portDead := of_none rfl
theorem pathDeathSettle : Statement .pathDeathSettle := of_none rfl
theorem flitDiscard : Statement .flitDiscard := of_none rfl
theorem dieBoundaryFailure : Statement .dieBoundaryFailure := of_none rfl
theorem thermalLimit : Statement .thermalLimit := of_none rfl
theorem thermalStop : Statement .thermalStop := of_none rfl
theorem thermalRecover : Statement .thermalRecover := of_none rfl
theorem powerLimitStep : Statement .powerLimitStep := of_none rfl
theorem powerRestoreStep : Statement .powerRestoreStep := of_none rfl
theorem hbmScrub : Statement .hbmScrub := of_none rfl
theorem wfi : Statement .wfi := of_core rfl fun _ => (decodeFields_rType _ _ _ _ _).2.2.2.1.trans rfl
theorem mret : Statement .mret := of_core rfl fun _ => (decodeFields_rType _ _ _ _ _).2.2.2.1.trans rfl
theorem sret : Statement .sret := of_core rfl fun _ => (decodeFields_rType _ _ _ _ _).2.2.2.1.trans rfl
theorem ecall : Statement .ecall := of_core rfl fun _ => (decodeFields_rType _ _ _ _ _).2.2.2.1.trans rfl
theorem ebreak : Statement .ebreak := of_core rfl fun _ => (decodeFields_rType _ _ _ _ _).2.2.2.1.trans rfl
theorem hstop : Statement .hstop := of_core rfl fun _ => (decodeFields_rType _ _ _ _ _).2.2.2.2.trans rfl
theorem upret : Statement .upret := of_core rfl fun _ => (decodeFields_rType _ _ _ _ _).2.2.2.2.trans rfl
theorem cxlLinkReturn : Statement .cxlLinkReturn := of_none rfl
theorem backInvalidationResponse : Statement .backInvalidationResponse := of_none rfl
theorem portImageTransferComplete : Statement .portImageTransferComplete := of_none rfl
theorem overlayUpdateComplete : Statement .overlayUpdateComplete := of_none rfl
theorem niLocalTriggerComplete : Statement .niLocalTriggerComplete := of_none rfl

end Sys2Proof.Laws.RoundTrip
end

