-- ==== Sys2Proof/Laws/Tables.lean ====
section
/-! SUPPORT. Tables by key: reading after setting. -/

namespace Sys2Proof.Machine

/-- A value just set is found. -/
@[simp] theorem tableGet_tableSet_same {α : Type} (l : List (Nat × α)) (k : Nat) (v : α) :
    tableGet (tableSet l k v) k = some v := by
  induction l with
  | nil => simp [tableSet, tableGet]
  | cons c r ih =>
    unfold tableSet
    split
    · simp [tableGet]
    · split
      · simp [tableGet]
      · next h => simp only [tableGet, if_neg (Ne.symm h)]; exact ih

/-- Setting a key leaves every other key alone. -/
theorem tableGet_tableSet_other {α : Type} (l : List (Nat × α)) {k j : Nat} (v : α) (h : j ≠ k) :
    tableGet (tableSet l k v) j = tableGet l j := by
  induction l with
  | nil => simp [tableSet, tableGet, Ne.symm h]
  | cons c r ih =>
    unfold tableSet
    split
    · simp [tableGet, Ne.symm h]
    · split
      · next hk => simp [tableGet, ← hk, Ne.symm h]
      · simp only [tableGet]; split
        · rfl
        · exact ih

/-- Setting a key twice leaves the second value. -/
@[simp] theorem tableSet_tableSet {α : Type} (l : List (Nat × α)) (k : Nat) (v w : α) :
    tableSet (tableSet l k v) k w = tableSet l k w := by
  induction l with
  | nil => simp [tableSet]
  | cons c r ih =>
    by_cases h1 : k < c.1
    · simp [tableSet, h1]
    · by_cases h2 : k = c.1
      · simp [tableSet, h2]
      · simp [tableSet, h1, h2, ih]

end Sys2Proof.Machine
end

