-- ==== Sys2Proof/Laws/State.lean ====
section
/-! SUPPORT. What each update of the state and of a hart leaves as it was, field by field, and what it reads back. -/

namespace Sys2Proof.Machine

/-! `setCore`. -/
@[simp] theorem State.setCore_schedule (s : State) (c : Nat) (v : Core) : (s.setCore c v).schedule = s.schedule := rfl
@[simp] theorem State.setCore_arg (s : State) (c : Nat) (v : Core) : (s.setCore c v).arg = s.arg := rfl
@[simp] theorem State.setCore_cur (s : State) (c : Nat) (v : Core) : (s.setCore c v).cur = s.cur := rfl
@[simp] theorem State.setCore_insn (s : State) (c : Nat) (v : Core) : (s.setCore c v).insn = s.insn := rfl
@[simp] theorem State.setCore_strCur (s : State) (c : Nat) (v : Core) : (s.setCore c v).strCur = s.strCur := rfl
@[simp] theorem State.setCore_ceCur (s : State) (c : Nat) (v : Core) : (s.setCore c v).ceCur = s.ceCur := rfl
@[simp] theorem State.setCore_time (s : State) (c : Nat) (v : Core) : (s.setCore c v).time = s.time := rfl
@[simp] theorem State.setCore_nextId (s : State) (c : Nat) (v : Core) : (s.setCore c v).nextId = s.nextId := rfl
@[simp] theorem State.setCore_freeCtr (s : State) (c : Nat) (v : Core) : (s.setCore c v).freeCtr = s.freeCtr := rfl
@[simp] theorem State.setCore_warmResets (s : State) (c : Nat) (v : Core) : (s.setCore c v).warmResets = s.warmResets := rfl
@[simp] theorem State.setCore_phase (s : State) (c : Nat) (v : Core) : (s.setCore c v).phase = s.phase := rfl
@[simp] theorem State.setCore_edOk (s : State) (c : Nat) (v : Core) : (s.setCore c v).edOk = s.edOk := rfl
@[simp] theorem State.setCore_mlOk (s : State) (c : Nat) (v : Core) : (s.setCore c v).mlOk = s.mlOk := rfl
@[simp] theorem State.setCore_stackMask (s : State) (c : Nat) (v : Core) : (s.setCore c v).stackMask = s.stackMask := rfl
@[simp] theorem State.setCore_device (s : State) (c : Nat) (v : Core) : (s.setCore c v).device = s.device := rfl
@[simp] theorem State.setCore_linkMode (s : State) (c : Nat) (v : Core) : (s.setCore c v).linkMode = s.linkMode := rfl
@[simp] theorem State.setCore_paths (s : State) (c : Nat) (v : Core) : (s.setCore c v).paths = s.paths := rfl
@[simp] theorem State.setCore_domSize (s : State) (c : Nat) (v : Core) : (s.setCore c v).domSize = s.domSize := rfl
@[simp] theorem State.setCore_pwrLimit (s : State) (c : Nat) (v : Core) : (s.setCore c v).pwrLimit = s.pwrLimit := rfl
@[simp] theorem State.setCore_flash (s : State) (c : Nat) (v : Core) : (s.setCore c v).flash = s.flash := rfl
@[simp] theorem State.setCore_fuses (s : State) (c : Nat) (v : Core) : (s.setCore c v).fuses = s.fuses := rfl
@[simp] theorem State.setCore_caps (s : State) (c : Nat) (v : Core) : (s.setCore c v).caps = s.caps := rfl
@[simp] theorem State.setCore_hflBusy (s : State) (c : Nat) (v : Core) : (s.setCore c v).hflBusy = s.hflBusy := rfl
@[simp] theorem State.setCore_hflAddr (s : State) (c : Nat) (v : Core) : (s.setCore c v).hflAddr = s.hflAddr := rfl
@[simp] theorem State.setCore_hflLen (s : State) (c : Nat) (v : Core) : (s.setCore c v).hflLen = s.hflLen := rfl
@[simp] theorem State.setCore_hflCtx (s : State) (c : Nat) (v : Core) : (s.setCore c v).hflCtx = s.hflCtx := rfl
@[simp] theorem State.setCore_hflFlag (s : State) (c : Nat) (v : Core) : (s.setCore c v).hflFlag = s.hflFlag := rfl
@[simp] theorem State.setCore_hapBase (s : State) (c : Nat) (v : Core) : (s.setCore c v).hapBase = s.hapBase := rfl
@[simp] theorem State.setCore_hapCtx (s : State) (c : Nat) (v : Core) : (s.setCore c v).hapCtx = s.hapCtx := rfl
@[simp] theorem State.setCore_hflWaits (s : State) (c : Nat) (v : Core) : (s.setCore c v).hflWaits = s.hflWaits := rfl
@[simp] theorem State.setCore_cxlUp (s : State) (c : Nat) (v : Core) : (s.setCore c v).cxlUp = s.cxlUp := rfl
@[simp] theorem State.setCore_hostLines (s : State) (c : Nat) (v : Core) : (s.setCore c v).hostLines = s.hostLines := rfl
@[simp] theorem State.setCore_backInv (s : State) (c : Nat) (v : Core) : (s.setCore c v).backInv = s.backInv := rfl
@[simp] theorem State.setCore_mailStatus (s : State) (c : Nat) (v : Core) : (s.setCore c v).mailStatus = s.mailStatus := rfl
@[simp] theorem State.setCore_mailCommand (s : State) (c : Nat) (v : Core) : (s.setCore c v).mailCommand = s.mailCommand := rfl
@[simp] theorem State.setCore_mailArea (s : State) (c : Nat) (v : Core) : (s.setCore c v).mailArea = s.mailArea := rfl
@[simp] theorem State.setCore_hostRead (s : State) (c : Nat) (v : Core) : (s.setCore c v).hostRead = s.hostRead := rfl
@[simp] theorem State.setCore_dies (s : State) (c : Nat) (v : Core) : (s.setCore c v).dies = s.dies := rfl
@[simp] theorem State.setCore_slots (s : State) (c : Nat) (v : Core) : (s.setCore c v).slots = s.slots := rfl
@[simp] theorem State.setCore_descs (s : State) (c : Nat) (v : Core) : (s.setCore c v).descs = s.descs := rfl
@[simp] theorem State.setCore_ctxs (s : State) (c : Nat) (v : Core) : (s.setCore c v).ctxs = s.ctxs := rfl
@[simp] theorem State.setCore_ports (s : State) (c : Nat) (v : Core) : (s.setCore c v).ports = s.ports := rfl
@[simp] theorem State.setCore_boundaries (s : State) (c : Nat) (v : Core) : (s.setCore c v).boundaries = s.boundaries := rfl
@[simp] theorem State.setCore_deadPaths (s : State) (c : Nat) (v : Core) : (s.setCore c v).deadPaths = s.deadPaths := rfl
@[simp] theorem State.setCore_cellar (s : State) (c : Nat) (v : Core) : (s.setCore c v).cellar = s.cellar := rfl
@[simp] theorem State.setCore_reqs (s : State) (c : Nat) (v : Core) : (s.setCore c v).reqs = s.reqs := rfl
@[simp] theorem State.setCore_msgs (s : State) (c : Nat) (v : Core) : (s.setCore c v).msgs = s.msgs := rfl
@[simp] theorem State.setCore_staged (s : State) (c : Nat) (v : Core) : (s.setCore c v).staged = s.staged := rfl
@[simp] theorem State.setCore_fabricOut (s : State) (c : Nat) (v : Core) : (s.setCore c v).fabricOut = s.fabricOut := rfl
@[simp] theorem State.setCore_vc2Next (s : State) (c : Nat) (v : Core) : (s.setCore c v).vc2Next = s.vc2Next := rfl
@[simp] theorem State.setCore_vc2Sent (s : State) (c : Nat) (v : Core) : (s.setCore c v).vc2Sent = s.vc2Sent := rfl
@[simp] theorem State.setCore_vc2Taken (s : State) (c : Nat) (v : Core) : (s.setCore c v).vc2Taken = s.vc2Taken := rfl
@[simp] theorem State.setCore_foreignResv (s : State) (c : Nat) (v : Core) : (s.setCore c v).foreignResv = s.foreignResv := rfl
@[simp] theorem State.setCore_markers (s : State) (c : Nat) (v : Core) : (s.setCore c v).markers = s.markers := rfl
@[simp] theorem State.setCore_mem (s : State) (c : Nat) (v : Core) : (s.setCore c v).mem = s.mem := rfl
@[simp] theorem State.setCore_poison (s : State) (c : Nat) (v : Core) : (s.setCore c v).poison = s.poison := rfl
@[simp] theorem State.setCore_homed (s : State) (c : Nat) (v : Core) : (s.setCore c v).homed = s.homed := rfl
@[simp] theorem State.setCore_sends (s : State) (c : Nat) (v : Core) : (s.setCore c v).sends = s.sends := rfl
@[simp] theorem State.setCore_sprayed (s : State) (c : Nat) (v : Core) : (s.setCore c v).sprayed = s.sprayed := rfl
@[simp] theorem State.setCore_farDead (s : State) (c : Nat) (v : Core) : (s.setCore c v).farDead = s.farDead := rfl
@[simp] theorem State.setCore_cuts (s : State) (c : Nat) (v : Core) : (s.setCore c v).cuts = s.cuts := rfl
@[simp] theorem State.setCore_rxHeld (s : State) (c : Nat) (v : Core) : (s.setCore c v).rxHeld = s.rxHeld := rfl
@[simp] theorem State.setCore_txHeld (s : State) (c : Nat) (v : Core) : (s.setCore c v).txHeld = s.txHeld := rfl
@[simp] theorem State.setCore_vc2Path (s : State) (c : Nat) (v : Core) : (s.setCore c v).vc2Path = s.vc2Path := rfl
@[simp] theorem State.setCore_pwrLog (s : State) (c : Nat) (v : Core) : (s.setCore c v).pwrLog = s.pwrLog := rfl
@[simp] theorem State.setCore_mailPayload (s : State) (c : Nat) (v : Core) : (s.setCore c v).mailPayload = s.mailPayload := rfl

/-! `setHart`. -/
@[simp] theorem State.setHart_schedule (s : State) (h : HartRef) (v : Hart) : (s.setHart h v).schedule = s.schedule := rfl
@[simp] theorem State.setHart_arg (s : State) (h : HartRef) (v : Hart) : (s.setHart h v).arg = s.arg := rfl
@[simp] theorem State.setHart_cur (s : State) (h : HartRef) (v : Hart) : (s.setHart h v).cur = s.cur := rfl
@[simp] theorem State.setHart_insn (s : State) (h : HartRef) (v : Hart) : (s.setHart h v).insn = s.insn := rfl
@[simp] theorem State.setHart_strCur (s : State) (h : HartRef) (v : Hart) : (s.setHart h v).strCur = s.strCur := rfl
@[simp] theorem State.setHart_ceCur (s : State) (h : HartRef) (v : Hart) : (s.setHart h v).ceCur = s.ceCur := rfl
@[simp] theorem State.setHart_time (s : State) (h : HartRef) (v : Hart) : (s.setHart h v).time = s.time := rfl
@[simp] theorem State.setHart_nextId (s : State) (h : HartRef) (v : Hart) : (s.setHart h v).nextId = s.nextId := rfl
@[simp] theorem State.setHart_freeCtr (s : State) (h : HartRef) (v : Hart) : (s.setHart h v).freeCtr = s.freeCtr := rfl
@[simp] theorem State.setHart_warmResets (s : State) (h : HartRef) (v : Hart) : (s.setHart h v).warmResets = s.warmResets := rfl
@[simp] theorem State.setHart_phase (s : State) (h : HartRef) (v : Hart) : (s.setHart h v).phase = s.phase := rfl
@[simp] theorem State.setHart_edOk (s : State) (h : HartRef) (v : Hart) : (s.setHart h v).edOk = s.edOk := rfl
@[simp] theorem State.setHart_mlOk (s : State) (h : HartRef) (v : Hart) : (s.setHart h v).mlOk = s.mlOk := rfl
@[simp] theorem State.setHart_stackMask (s : State) (h : HartRef) (v : Hart) : (s.setHart h v).stackMask = s.stackMask := rfl
@[simp] theorem State.setHart_device (s : State) (h : HartRef) (v : Hart) : (s.setHart h v).device = s.device := rfl
@[simp] theorem State.setHart_linkMode (s : State) (h : HartRef) (v : Hart) : (s.setHart h v).linkMode = s.linkMode := rfl
@[simp] theorem State.setHart_paths (s : State) (h : HartRef) (v : Hart) : (s.setHart h v).paths = s.paths := rfl
@[simp] theorem State.setHart_domSize (s : State) (h : HartRef) (v : Hart) : (s.setHart h v).domSize = s.domSize := rfl
@[simp] theorem State.setHart_pwrLimit (s : State) (h : HartRef) (v : Hart) : (s.setHart h v).pwrLimit = s.pwrLimit := rfl
@[simp] theorem State.setHart_flash (s : State) (h : HartRef) (v : Hart) : (s.setHart h v).flash = s.flash := rfl
@[simp] theorem State.setHart_fuses (s : State) (h : HartRef) (v : Hart) : (s.setHart h v).fuses = s.fuses := rfl
@[simp] theorem State.setHart_caps (s : State) (h : HartRef) (v : Hart) : (s.setHart h v).caps = s.caps := rfl
@[simp] theorem State.setHart_hflBusy (s : State) (h : HartRef) (v : Hart) : (s.setHart h v).hflBusy = s.hflBusy := rfl
@[simp] theorem State.setHart_hflAddr (s : State) (h : HartRef) (v : Hart) : (s.setHart h v).hflAddr = s.hflAddr := rfl
@[simp] theorem State.setHart_hflLen (s : State) (h : HartRef) (v : Hart) : (s.setHart h v).hflLen = s.hflLen := rfl
@[simp] theorem State.setHart_hflCtx (s : State) (h : HartRef) (v : Hart) : (s.setHart h v).hflCtx = s.hflCtx := rfl
@[simp] theorem State.setHart_hflFlag (s : State) (h : HartRef) (v : Hart) : (s.setHart h v).hflFlag = s.hflFlag := rfl
@[simp] theorem State.setHart_hapBase (s : State) (h : HartRef) (v : Hart) : (s.setHart h v).hapBase = s.hapBase := rfl
@[simp] theorem State.setHart_hapCtx (s : State) (h : HartRef) (v : Hart) : (s.setHart h v).hapCtx = s.hapCtx := rfl
@[simp] theorem State.setHart_hflWaits (s : State) (h : HartRef) (v : Hart) : (s.setHart h v).hflWaits = s.hflWaits := rfl
@[simp] theorem State.setHart_cxlUp (s : State) (h : HartRef) (v : Hart) : (s.setHart h v).cxlUp = s.cxlUp := rfl
@[simp] theorem State.setHart_hostLines (s : State) (h : HartRef) (v : Hart) : (s.setHart h v).hostLines = s.hostLines := rfl
@[simp] theorem State.setHart_backInv (s : State) (h : HartRef) (v : Hart) : (s.setHart h v).backInv = s.backInv := rfl
@[simp] theorem State.setHart_mailStatus (s : State) (h : HartRef) (v : Hart) : (s.setHart h v).mailStatus = s.mailStatus := rfl
@[simp] theorem State.setHart_mailCommand (s : State) (h : HartRef) (v : Hart) : (s.setHart h v).mailCommand = s.mailCommand := rfl
@[simp] theorem State.setHart_mailArea (s : State) (h : HartRef) (v : Hart) : (s.setHart h v).mailArea = s.mailArea := rfl
@[simp] theorem State.setHart_hostRead (s : State) (h : HartRef) (v : Hart) : (s.setHart h v).hostRead = s.hostRead := rfl
@[simp] theorem State.setHart_dies (s : State) (h : HartRef) (v : Hart) : (s.setHart h v).dies = s.dies := rfl
@[simp] theorem State.setHart_slots (s : State) (h : HartRef) (v : Hart) : (s.setHart h v).slots = s.slots := rfl
@[simp] theorem State.setHart_descs (s : State) (h : HartRef) (v : Hart) : (s.setHart h v).descs = s.descs := rfl
@[simp] theorem State.setHart_ctxs (s : State) (h : HartRef) (v : Hart) : (s.setHart h v).ctxs = s.ctxs := rfl
@[simp] theorem State.setHart_ports (s : State) (h : HartRef) (v : Hart) : (s.setHart h v).ports = s.ports := rfl
@[simp] theorem State.setHart_boundaries (s : State) (h : HartRef) (v : Hart) : (s.setHart h v).boundaries = s.boundaries := rfl
@[simp] theorem State.setHart_deadPaths (s : State) (h : HartRef) (v : Hart) : (s.setHart h v).deadPaths = s.deadPaths := rfl
@[simp] theorem State.setHart_cellar (s : State) (h : HartRef) (v : Hart) : (s.setHart h v).cellar = s.cellar := rfl
@[simp] theorem State.setHart_reqs (s : State) (h : HartRef) (v : Hart) : (s.setHart h v).reqs = s.reqs := rfl
@[simp] theorem State.setHart_msgs (s : State) (h : HartRef) (v : Hart) : (s.setHart h v).msgs = s.msgs := rfl
@[simp] theorem State.setHart_staged (s : State) (h : HartRef) (v : Hart) : (s.setHart h v).staged = s.staged := rfl
@[simp] theorem State.setHart_fabricOut (s : State) (h : HartRef) (v : Hart) : (s.setHart h v).fabricOut = s.fabricOut := rfl
@[simp] theorem State.setHart_vc2Next (s : State) (h : HartRef) (v : Hart) : (s.setHart h v).vc2Next = s.vc2Next := rfl
@[simp] theorem State.setHart_vc2Sent (s : State) (h : HartRef) (v : Hart) : (s.setHart h v).vc2Sent = s.vc2Sent := rfl
@[simp] theorem State.setHart_vc2Taken (s : State) (h : HartRef) (v : Hart) : (s.setHart h v).vc2Taken = s.vc2Taken := rfl
@[simp] theorem State.setHart_foreignResv (s : State) (h : HartRef) (v : Hart) : (s.setHart h v).foreignResv = s.foreignResv := rfl
@[simp] theorem State.setHart_markers (s : State) (h : HartRef) (v : Hart) : (s.setHart h v).markers = s.markers := rfl
@[simp] theorem State.setHart_mem (s : State) (h : HartRef) (v : Hart) : (s.setHart h v).mem = s.mem := rfl
@[simp] theorem State.setHart_poison (s : State) (h : HartRef) (v : Hart) : (s.setHart h v).poison = s.poison := rfl
@[simp] theorem State.setHart_homed (s : State) (h : HartRef) (v : Hart) : (s.setHart h v).homed = s.homed := rfl
@[simp] theorem State.setHart_sends (s : State) (h : HartRef) (v : Hart) : (s.setHart h v).sends = s.sends := rfl
@[simp] theorem State.setHart_sprayed (s : State) (h : HartRef) (v : Hart) : (s.setHart h v).sprayed = s.sprayed := rfl
@[simp] theorem State.setHart_farDead (s : State) (h : HartRef) (v : Hart) : (s.setHart h v).farDead = s.farDead := rfl
@[simp] theorem State.setHart_cuts (s : State) (h : HartRef) (v : Hart) : (s.setHart h v).cuts = s.cuts := rfl
@[simp] theorem State.setHart_rxHeld (s : State) (h : HartRef) (v : Hart) : (s.setHart h v).rxHeld = s.rxHeld := rfl
@[simp] theorem State.setHart_txHeld (s : State) (h : HartRef) (v : Hart) : (s.setHart h v).txHeld = s.txHeld := rfl
@[simp] theorem State.setHart_vc2Path (s : State) (h : HartRef) (v : Hart) : (s.setHart h v).vc2Path = s.vc2Path := rfl
@[simp] theorem State.setHart_pwrLog (s : State) (h : HartRef) (v : Hart) : (s.setHart h v).pwrLog = s.pwrLog := rfl
@[simp] theorem State.setHart_mailPayload (s : State) (h : HartRef) (v : Hart) : (s.setHart h v).mailPayload = s.mailPayload := rfl

/-! `setMe`. -/
@[simp] theorem State.setMe_schedule (s : State) (v : Hart) : (s.setMe v).schedule = s.schedule := rfl
@[simp] theorem State.setMe_arg (s : State) (v : Hart) : (s.setMe v).arg = s.arg := rfl
@[simp] theorem State.setMe_cur (s : State) (v : Hart) : (s.setMe v).cur = s.cur := rfl
@[simp] theorem State.setMe_insn (s : State) (v : Hart) : (s.setMe v).insn = s.insn := rfl
@[simp] theorem State.setMe_strCur (s : State) (v : Hart) : (s.setMe v).strCur = s.strCur := rfl
@[simp] theorem State.setMe_ceCur (s : State) (v : Hart) : (s.setMe v).ceCur = s.ceCur := rfl
@[simp] theorem State.setMe_time (s : State) (v : Hart) : (s.setMe v).time = s.time := rfl
@[simp] theorem State.setMe_nextId (s : State) (v : Hart) : (s.setMe v).nextId = s.nextId := rfl
@[simp] theorem State.setMe_freeCtr (s : State) (v : Hart) : (s.setMe v).freeCtr = s.freeCtr := rfl
@[simp] theorem State.setMe_warmResets (s : State) (v : Hart) : (s.setMe v).warmResets = s.warmResets := rfl
@[simp] theorem State.setMe_phase (s : State) (v : Hart) : (s.setMe v).phase = s.phase := rfl
@[simp] theorem State.setMe_edOk (s : State) (v : Hart) : (s.setMe v).edOk = s.edOk := rfl
@[simp] theorem State.setMe_mlOk (s : State) (v : Hart) : (s.setMe v).mlOk = s.mlOk := rfl
@[simp] theorem State.setMe_stackMask (s : State) (v : Hart) : (s.setMe v).stackMask = s.stackMask := rfl
@[simp] theorem State.setMe_device (s : State) (v : Hart) : (s.setMe v).device = s.device := rfl
@[simp] theorem State.setMe_linkMode (s : State) (v : Hart) : (s.setMe v).linkMode = s.linkMode := rfl
@[simp] theorem State.setMe_paths (s : State) (v : Hart) : (s.setMe v).paths = s.paths := rfl
@[simp] theorem State.setMe_domSize (s : State) (v : Hart) : (s.setMe v).domSize = s.domSize := rfl
@[simp] theorem State.setMe_pwrLimit (s : State) (v : Hart) : (s.setMe v).pwrLimit = s.pwrLimit := rfl
@[simp] theorem State.setMe_flash (s : State) (v : Hart) : (s.setMe v).flash = s.flash := rfl
@[simp] theorem State.setMe_fuses (s : State) (v : Hart) : (s.setMe v).fuses = s.fuses := rfl
@[simp] theorem State.setMe_caps (s : State) (v : Hart) : (s.setMe v).caps = s.caps := rfl
@[simp] theorem State.setMe_hflBusy (s : State) (v : Hart) : (s.setMe v).hflBusy = s.hflBusy := rfl
@[simp] theorem State.setMe_hflAddr (s : State) (v : Hart) : (s.setMe v).hflAddr = s.hflAddr := rfl
@[simp] theorem State.setMe_hflLen (s : State) (v : Hart) : (s.setMe v).hflLen = s.hflLen := rfl
@[simp] theorem State.setMe_hflCtx (s : State) (v : Hart) : (s.setMe v).hflCtx = s.hflCtx := rfl
@[simp] theorem State.setMe_hflFlag (s : State) (v : Hart) : (s.setMe v).hflFlag = s.hflFlag := rfl
@[simp] theorem State.setMe_hapBase (s : State) (v : Hart) : (s.setMe v).hapBase = s.hapBase := rfl
@[simp] theorem State.setMe_hapCtx (s : State) (v : Hart) : (s.setMe v).hapCtx = s.hapCtx := rfl
@[simp] theorem State.setMe_hflWaits (s : State) (v : Hart) : (s.setMe v).hflWaits = s.hflWaits := rfl
@[simp] theorem State.setMe_cxlUp (s : State) (v : Hart) : (s.setMe v).cxlUp = s.cxlUp := rfl
@[simp] theorem State.setMe_hostLines (s : State) (v : Hart) : (s.setMe v).hostLines = s.hostLines := rfl
@[simp] theorem State.setMe_backInv (s : State) (v : Hart) : (s.setMe v).backInv = s.backInv := rfl
@[simp] theorem State.setMe_mailStatus (s : State) (v : Hart) : (s.setMe v).mailStatus = s.mailStatus := rfl
@[simp] theorem State.setMe_mailCommand (s : State) (v : Hart) : (s.setMe v).mailCommand = s.mailCommand := rfl
@[simp] theorem State.setMe_mailArea (s : State) (v : Hart) : (s.setMe v).mailArea = s.mailArea := rfl
@[simp] theorem State.setMe_hostRead (s : State) (v : Hart) : (s.setMe v).hostRead = s.hostRead := rfl
@[simp] theorem State.setMe_dies (s : State) (v : Hart) : (s.setMe v).dies = s.dies := rfl
@[simp] theorem State.setMe_slots (s : State) (v : Hart) : (s.setMe v).slots = s.slots := rfl
@[simp] theorem State.setMe_descs (s : State) (v : Hart) : (s.setMe v).descs = s.descs := rfl
@[simp] theorem State.setMe_ctxs (s : State) (v : Hart) : (s.setMe v).ctxs = s.ctxs := rfl
@[simp] theorem State.setMe_ports (s : State) (v : Hart) : (s.setMe v).ports = s.ports := rfl
@[simp] theorem State.setMe_boundaries (s : State) (v : Hart) : (s.setMe v).boundaries = s.boundaries := rfl
@[simp] theorem State.setMe_deadPaths (s : State) (v : Hart) : (s.setMe v).deadPaths = s.deadPaths := rfl
@[simp] theorem State.setMe_cellar (s : State) (v : Hart) : (s.setMe v).cellar = s.cellar := rfl
@[simp] theorem State.setMe_reqs (s : State) (v : Hart) : (s.setMe v).reqs = s.reqs := rfl
@[simp] theorem State.setMe_msgs (s : State) (v : Hart) : (s.setMe v).msgs = s.msgs := rfl
@[simp] theorem State.setMe_staged (s : State) (v : Hart) : (s.setMe v).staged = s.staged := rfl
@[simp] theorem State.setMe_fabricOut (s : State) (v : Hart) : (s.setMe v).fabricOut = s.fabricOut := rfl
@[simp] theorem State.setMe_vc2Next (s : State) (v : Hart) : (s.setMe v).vc2Next = s.vc2Next := rfl
@[simp] theorem State.setMe_vc2Sent (s : State) (v : Hart) : (s.setMe v).vc2Sent = s.vc2Sent := rfl
@[simp] theorem State.setMe_vc2Taken (s : State) (v : Hart) : (s.setMe v).vc2Taken = s.vc2Taken := rfl
@[simp] theorem State.setMe_foreignResv (s : State) (v : Hart) : (s.setMe v).foreignResv = s.foreignResv := rfl
@[simp] theorem State.setMe_markers (s : State) (v : Hart) : (s.setMe v).markers = s.markers := rfl
@[simp] theorem State.setMe_mem (s : State) (v : Hart) : (s.setMe v).mem = s.mem := rfl
@[simp] theorem State.setMe_poison (s : State) (v : Hart) : (s.setMe v).poison = s.poison := rfl
@[simp] theorem State.setMe_homed (s : State) (v : Hart) : (s.setMe v).homed = s.homed := rfl
@[simp] theorem State.setMe_sends (s : State) (v : Hart) : (s.setMe v).sends = s.sends := rfl
@[simp] theorem State.setMe_sprayed (s : State) (v : Hart) : (s.setMe v).sprayed = s.sprayed := rfl
@[simp] theorem State.setMe_farDead (s : State) (v : Hart) : (s.setMe v).farDead = s.farDead := rfl
@[simp] theorem State.setMe_cuts (s : State) (v : Hart) : (s.setMe v).cuts = s.cuts := rfl
@[simp] theorem State.setMe_rxHeld (s : State) (v : Hart) : (s.setMe v).rxHeld = s.rxHeld := rfl
@[simp] theorem State.setMe_txHeld (s : State) (v : Hart) : (s.setMe v).txHeld = s.txHeld := rfl
@[simp] theorem State.setMe_vc2Path (s : State) (v : Hart) : (s.setMe v).vc2Path = s.vc2Path := rfl
@[simp] theorem State.setMe_pwrLog (s : State) (v : Hart) : (s.setMe v).pwrLog = s.pwrLog := rfl
@[simp] theorem State.setMe_mailPayload (s : State) (v : Hart) : (s.setMe v).mailPayload = s.mailPayload := rfl

/-! `setMyCore`. -/
@[simp] theorem State.setMyCore_schedule (s : State) (v : Core) : (s.setMyCore v).schedule = s.schedule := rfl
@[simp] theorem State.setMyCore_arg (s : State) (v : Core) : (s.setMyCore v).arg = s.arg := rfl
@[simp] theorem State.setMyCore_cur (s : State) (v : Core) : (s.setMyCore v).cur = s.cur := rfl
@[simp] theorem State.setMyCore_insn (s : State) (v : Core) : (s.setMyCore v).insn = s.insn := rfl
@[simp] theorem State.setMyCore_strCur (s : State) (v : Core) : (s.setMyCore v).strCur = s.strCur := rfl
@[simp] theorem State.setMyCore_ceCur (s : State) (v : Core) : (s.setMyCore v).ceCur = s.ceCur := rfl
@[simp] theorem State.setMyCore_time (s : State) (v : Core) : (s.setMyCore v).time = s.time := rfl
@[simp] theorem State.setMyCore_nextId (s : State) (v : Core) : (s.setMyCore v).nextId = s.nextId := rfl
@[simp] theorem State.setMyCore_freeCtr (s : State) (v : Core) : (s.setMyCore v).freeCtr = s.freeCtr := rfl
@[simp] theorem State.setMyCore_warmResets (s : State) (v : Core) : (s.setMyCore v).warmResets = s.warmResets := rfl
@[simp] theorem State.setMyCore_phase (s : State) (v : Core) : (s.setMyCore v).phase = s.phase := rfl
@[simp] theorem State.setMyCore_edOk (s : State) (v : Core) : (s.setMyCore v).edOk = s.edOk := rfl
@[simp] theorem State.setMyCore_mlOk (s : State) (v : Core) : (s.setMyCore v).mlOk = s.mlOk := rfl
@[simp] theorem State.setMyCore_stackMask (s : State) (v : Core) : (s.setMyCore v).stackMask = s.stackMask := rfl
@[simp] theorem State.setMyCore_device (s : State) (v : Core) : (s.setMyCore v).device = s.device := rfl
@[simp] theorem State.setMyCore_linkMode (s : State) (v : Core) : (s.setMyCore v).linkMode = s.linkMode := rfl
@[simp] theorem State.setMyCore_paths (s : State) (v : Core) : (s.setMyCore v).paths = s.paths := rfl
@[simp] theorem State.setMyCore_domSize (s : State) (v : Core) : (s.setMyCore v).domSize = s.domSize := rfl
@[simp] theorem State.setMyCore_pwrLimit (s : State) (v : Core) : (s.setMyCore v).pwrLimit = s.pwrLimit := rfl
@[simp] theorem State.setMyCore_flash (s : State) (v : Core) : (s.setMyCore v).flash = s.flash := rfl
@[simp] theorem State.setMyCore_fuses (s : State) (v : Core) : (s.setMyCore v).fuses = s.fuses := rfl
@[simp] theorem State.setMyCore_caps (s : State) (v : Core) : (s.setMyCore v).caps = s.caps := rfl
@[simp] theorem State.setMyCore_hflBusy (s : State) (v : Core) : (s.setMyCore v).hflBusy = s.hflBusy := rfl
@[simp] theorem State.setMyCore_hflAddr (s : State) (v : Core) : (s.setMyCore v).hflAddr = s.hflAddr := rfl
@[simp] theorem State.setMyCore_hflLen (s : State) (v : Core) : (s.setMyCore v).hflLen = s.hflLen := rfl
@[simp] theorem State.setMyCore_hflCtx (s : State) (v : Core) : (s.setMyCore v).hflCtx = s.hflCtx := rfl
@[simp] theorem State.setMyCore_hflFlag (s : State) (v : Core) : (s.setMyCore v).hflFlag = s.hflFlag := rfl
@[simp] theorem State.setMyCore_hapBase (s : State) (v : Core) : (s.setMyCore v).hapBase = s.hapBase := rfl
@[simp] theorem State.setMyCore_hapCtx (s : State) (v : Core) : (s.setMyCore v).hapCtx = s.hapCtx := rfl
@[simp] theorem State.setMyCore_hflWaits (s : State) (v : Core) : (s.setMyCore v).hflWaits = s.hflWaits := rfl
@[simp] theorem State.setMyCore_cxlUp (s : State) (v : Core) : (s.setMyCore v).cxlUp = s.cxlUp := rfl
@[simp] theorem State.setMyCore_hostLines (s : State) (v : Core) : (s.setMyCore v).hostLines = s.hostLines := rfl
@[simp] theorem State.setMyCore_backInv (s : State) (v : Core) : (s.setMyCore v).backInv = s.backInv := rfl
@[simp] theorem State.setMyCore_mailStatus (s : State) (v : Core) : (s.setMyCore v).mailStatus = s.mailStatus := rfl
@[simp] theorem State.setMyCore_mailCommand (s : State) (v : Core) : (s.setMyCore v).mailCommand = s.mailCommand := rfl
@[simp] theorem State.setMyCore_mailArea (s : State) (v : Core) : (s.setMyCore v).mailArea = s.mailArea := rfl
@[simp] theorem State.setMyCore_hostRead (s : State) (v : Core) : (s.setMyCore v).hostRead = s.hostRead := rfl
@[simp] theorem State.setMyCore_dies (s : State) (v : Core) : (s.setMyCore v).dies = s.dies := rfl
@[simp] theorem State.setMyCore_slots (s : State) (v : Core) : (s.setMyCore v).slots = s.slots := rfl
@[simp] theorem State.setMyCore_descs (s : State) (v : Core) : (s.setMyCore v).descs = s.descs := rfl
@[simp] theorem State.setMyCore_ctxs (s : State) (v : Core) : (s.setMyCore v).ctxs = s.ctxs := rfl
@[simp] theorem State.setMyCore_ports (s : State) (v : Core) : (s.setMyCore v).ports = s.ports := rfl
@[simp] theorem State.setMyCore_boundaries (s : State) (v : Core) : (s.setMyCore v).boundaries = s.boundaries := rfl
@[simp] theorem State.setMyCore_deadPaths (s : State) (v : Core) : (s.setMyCore v).deadPaths = s.deadPaths := rfl
@[simp] theorem State.setMyCore_cellar (s : State) (v : Core) : (s.setMyCore v).cellar = s.cellar := rfl
@[simp] theorem State.setMyCore_reqs (s : State) (v : Core) : (s.setMyCore v).reqs = s.reqs := rfl
@[simp] theorem State.setMyCore_msgs (s : State) (v : Core) : (s.setMyCore v).msgs = s.msgs := rfl
@[simp] theorem State.setMyCore_staged (s : State) (v : Core) : (s.setMyCore v).staged = s.staged := rfl
@[simp] theorem State.setMyCore_fabricOut (s : State) (v : Core) : (s.setMyCore v).fabricOut = s.fabricOut := rfl
@[simp] theorem State.setMyCore_vc2Next (s : State) (v : Core) : (s.setMyCore v).vc2Next = s.vc2Next := rfl
@[simp] theorem State.setMyCore_vc2Sent (s : State) (v : Core) : (s.setMyCore v).vc2Sent = s.vc2Sent := rfl
@[simp] theorem State.setMyCore_vc2Taken (s : State) (v : Core) : (s.setMyCore v).vc2Taken = s.vc2Taken := rfl
@[simp] theorem State.setMyCore_foreignResv (s : State) (v : Core) : (s.setMyCore v).foreignResv = s.foreignResv := rfl
@[simp] theorem State.setMyCore_markers (s : State) (v : Core) : (s.setMyCore v).markers = s.markers := rfl
@[simp] theorem State.setMyCore_mem (s : State) (v : Core) : (s.setMyCore v).mem = s.mem := rfl
@[simp] theorem State.setMyCore_poison (s : State) (v : Core) : (s.setMyCore v).poison = s.poison := rfl
@[simp] theorem State.setMyCore_homed (s : State) (v : Core) : (s.setMyCore v).homed = s.homed := rfl
@[simp] theorem State.setMyCore_sends (s : State) (v : Core) : (s.setMyCore v).sends = s.sends := rfl
@[simp] theorem State.setMyCore_sprayed (s : State) (v : Core) : (s.setMyCore v).sprayed = s.sprayed := rfl
@[simp] theorem State.setMyCore_farDead (s : State) (v : Core) : (s.setMyCore v).farDead = s.farDead := rfl
@[simp] theorem State.setMyCore_cuts (s : State) (v : Core) : (s.setMyCore v).cuts = s.cuts := rfl
@[simp] theorem State.setMyCore_rxHeld (s : State) (v : Core) : (s.setMyCore v).rxHeld = s.rxHeld := rfl
@[simp] theorem State.setMyCore_txHeld (s : State) (v : Core) : (s.setMyCore v).txHeld = s.txHeld := rfl
@[simp] theorem State.setMyCore_vc2Path (s : State) (v : Core) : (s.setMyCore v).vc2Path = s.vc2Path := rfl
@[simp] theorem State.setMyCore_pwrLog (s : State) (v : Core) : (s.setMyCore v).pwrLog = s.pwrLog := rfl
@[simp] theorem State.setMyCore_mailPayload (s : State) (v : Core) : (s.setMyCore v).mailPayload = s.mailPayload := rfl

/-! `setDie`. -/
@[simp] theorem State.setDie_schedule (s : State) (d : DieId) (v : Die) : (s.setDie d v).schedule = s.schedule := rfl
@[simp] theorem State.setDie_arg (s : State) (d : DieId) (v : Die) : (s.setDie d v).arg = s.arg := rfl
@[simp] theorem State.setDie_cur (s : State) (d : DieId) (v : Die) : (s.setDie d v).cur = s.cur := rfl
@[simp] theorem State.setDie_insn (s : State) (d : DieId) (v : Die) : (s.setDie d v).insn = s.insn := rfl
@[simp] theorem State.setDie_strCur (s : State) (d : DieId) (v : Die) : (s.setDie d v).strCur = s.strCur := rfl
@[simp] theorem State.setDie_ceCur (s : State) (d : DieId) (v : Die) : (s.setDie d v).ceCur = s.ceCur := rfl
@[simp] theorem State.setDie_time (s : State) (d : DieId) (v : Die) : (s.setDie d v).time = s.time := rfl
@[simp] theorem State.setDie_nextId (s : State) (d : DieId) (v : Die) : (s.setDie d v).nextId = s.nextId := rfl
@[simp] theorem State.setDie_freeCtr (s : State) (d : DieId) (v : Die) : (s.setDie d v).freeCtr = s.freeCtr := rfl
@[simp] theorem State.setDie_warmResets (s : State) (d : DieId) (v : Die) : (s.setDie d v).warmResets = s.warmResets := rfl
@[simp] theorem State.setDie_phase (s : State) (d : DieId) (v : Die) : (s.setDie d v).phase = s.phase := rfl
@[simp] theorem State.setDie_edOk (s : State) (d : DieId) (v : Die) : (s.setDie d v).edOk = s.edOk := rfl
@[simp] theorem State.setDie_mlOk (s : State) (d : DieId) (v : Die) : (s.setDie d v).mlOk = s.mlOk := rfl
@[simp] theorem State.setDie_stackMask (s : State) (d : DieId) (v : Die) : (s.setDie d v).stackMask = s.stackMask := rfl
@[simp] theorem State.setDie_device (s : State) (d : DieId) (v : Die) : (s.setDie d v).device = s.device := rfl
@[simp] theorem State.setDie_linkMode (s : State) (d : DieId) (v : Die) : (s.setDie d v).linkMode = s.linkMode := rfl
@[simp] theorem State.setDie_paths (s : State) (d : DieId) (v : Die) : (s.setDie d v).paths = s.paths := rfl
@[simp] theorem State.setDie_domSize (s : State) (d : DieId) (v : Die) : (s.setDie d v).domSize = s.domSize := rfl
@[simp] theorem State.setDie_pwrLimit (s : State) (d : DieId) (v : Die) : (s.setDie d v).pwrLimit = s.pwrLimit := rfl
@[simp] theorem State.setDie_flash (s : State) (d : DieId) (v : Die) : (s.setDie d v).flash = s.flash := rfl
@[simp] theorem State.setDie_fuses (s : State) (d : DieId) (v : Die) : (s.setDie d v).fuses = s.fuses := rfl
@[simp] theorem State.setDie_caps (s : State) (d : DieId) (v : Die) : (s.setDie d v).caps = s.caps := rfl
@[simp] theorem State.setDie_hflBusy (s : State) (d : DieId) (v : Die) : (s.setDie d v).hflBusy = s.hflBusy := rfl
@[simp] theorem State.setDie_hflAddr (s : State) (d : DieId) (v : Die) : (s.setDie d v).hflAddr = s.hflAddr := rfl
@[simp] theorem State.setDie_hflLen (s : State) (d : DieId) (v : Die) : (s.setDie d v).hflLen = s.hflLen := rfl
@[simp] theorem State.setDie_hflCtx (s : State) (d : DieId) (v : Die) : (s.setDie d v).hflCtx = s.hflCtx := rfl
@[simp] theorem State.setDie_hflFlag (s : State) (d : DieId) (v : Die) : (s.setDie d v).hflFlag = s.hflFlag := rfl
@[simp] theorem State.setDie_hapBase (s : State) (d : DieId) (v : Die) : (s.setDie d v).hapBase = s.hapBase := rfl
@[simp] theorem State.setDie_hapCtx (s : State) (d : DieId) (v : Die) : (s.setDie d v).hapCtx = s.hapCtx := rfl
@[simp] theorem State.setDie_hflWaits (s : State) (d : DieId) (v : Die) : (s.setDie d v).hflWaits = s.hflWaits := rfl
@[simp] theorem State.setDie_cxlUp (s : State) (d : DieId) (v : Die) : (s.setDie d v).cxlUp = s.cxlUp := rfl
@[simp] theorem State.setDie_hostLines (s : State) (d : DieId) (v : Die) : (s.setDie d v).hostLines = s.hostLines := rfl
@[simp] theorem State.setDie_backInv (s : State) (d : DieId) (v : Die) : (s.setDie d v).backInv = s.backInv := rfl
@[simp] theorem State.setDie_mailStatus (s : State) (d : DieId) (v : Die) : (s.setDie d v).mailStatus = s.mailStatus := rfl
@[simp] theorem State.setDie_mailCommand (s : State) (d : DieId) (v : Die) : (s.setDie d v).mailCommand = s.mailCommand := rfl
@[simp] theorem State.setDie_mailArea (s : State) (d : DieId) (v : Die) : (s.setDie d v).mailArea = s.mailArea := rfl
@[simp] theorem State.setDie_hostRead (s : State) (d : DieId) (v : Die) : (s.setDie d v).hostRead = s.hostRead := rfl
@[simp] theorem State.setDie_cores (s : State) (d : DieId) (v : Die) : (s.setDie d v).cores = s.cores := rfl
@[simp] theorem State.setDie_slots (s : State) (d : DieId) (v : Die) : (s.setDie d v).slots = s.slots := rfl
@[simp] theorem State.setDie_descs (s : State) (d : DieId) (v : Die) : (s.setDie d v).descs = s.descs := rfl
@[simp] theorem State.setDie_ctxs (s : State) (d : DieId) (v : Die) : (s.setDie d v).ctxs = s.ctxs := rfl
@[simp] theorem State.setDie_ports (s : State) (d : DieId) (v : Die) : (s.setDie d v).ports = s.ports := rfl
@[simp] theorem State.setDie_boundaries (s : State) (d : DieId) (v : Die) : (s.setDie d v).boundaries = s.boundaries := rfl
@[simp] theorem State.setDie_deadPaths (s : State) (d : DieId) (v : Die) : (s.setDie d v).deadPaths = s.deadPaths := rfl
@[simp] theorem State.setDie_cellar (s : State) (d : DieId) (v : Die) : (s.setDie d v).cellar = s.cellar := rfl
@[simp] theorem State.setDie_reqs (s : State) (d : DieId) (v : Die) : (s.setDie d v).reqs = s.reqs := rfl
@[simp] theorem State.setDie_msgs (s : State) (d : DieId) (v : Die) : (s.setDie d v).msgs = s.msgs := rfl
@[simp] theorem State.setDie_staged (s : State) (d : DieId) (v : Die) : (s.setDie d v).staged = s.staged := rfl
@[simp] theorem State.setDie_fabricOut (s : State) (d : DieId) (v : Die) : (s.setDie d v).fabricOut = s.fabricOut := rfl
@[simp] theorem State.setDie_vc2Next (s : State) (d : DieId) (v : Die) : (s.setDie d v).vc2Next = s.vc2Next := rfl
@[simp] theorem State.setDie_vc2Sent (s : State) (d : DieId) (v : Die) : (s.setDie d v).vc2Sent = s.vc2Sent := rfl
@[simp] theorem State.setDie_vc2Taken (s : State) (d : DieId) (v : Die) : (s.setDie d v).vc2Taken = s.vc2Taken := rfl
@[simp] theorem State.setDie_foreignResv (s : State) (d : DieId) (v : Die) : (s.setDie d v).foreignResv = s.foreignResv := rfl
@[simp] theorem State.setDie_markers (s : State) (d : DieId) (v : Die) : (s.setDie d v).markers = s.markers := rfl
@[simp] theorem State.setDie_mem (s : State) (d : DieId) (v : Die) : (s.setDie d v).mem = s.mem := rfl
@[simp] theorem State.setDie_poison (s : State) (d : DieId) (v : Die) : (s.setDie d v).poison = s.poison := rfl
@[simp] theorem State.setDie_homed (s : State) (d : DieId) (v : Die) : (s.setDie d v).homed = s.homed := rfl
@[simp] theorem State.setDie_sends (s : State) (d : DieId) (v : Die) : (s.setDie d v).sends = s.sends := rfl
@[simp] theorem State.setDie_sprayed (s : State) (d : DieId) (v : Die) : (s.setDie d v).sprayed = s.sprayed := rfl
@[simp] theorem State.setDie_farDead (s : State) (d : DieId) (v : Die) : (s.setDie d v).farDead = s.farDead := rfl
@[simp] theorem State.setDie_cuts (s : State) (d : DieId) (v : Die) : (s.setDie d v).cuts = s.cuts := rfl
@[simp] theorem State.setDie_rxHeld (s : State) (d : DieId) (v : Die) : (s.setDie d v).rxHeld = s.rxHeld := rfl
@[simp] theorem State.setDie_txHeld (s : State) (d : DieId) (v : Die) : (s.setDie d v).txHeld = s.txHeld := rfl
@[simp] theorem State.setDie_vc2Path (s : State) (d : DieId) (v : Die) : (s.setDie d v).vc2Path = s.vc2Path := rfl
@[simp] theorem State.setDie_pwrLog (s : State) (d : DieId) (v : Die) : (s.setDie d v).pwrLog = s.pwrLog := rfl
@[simp] theorem State.setDie_mailPayload (s : State) (d : DieId) (v : Die) : (s.setDie d v).mailPayload = s.mailPayload := rfl

/-! `setSlot`. -/
@[simp] theorem State.setSlot_schedule (s : State) (i : SlotId) (v : Slot) : (s.setSlot i v).schedule = s.schedule := rfl
@[simp] theorem State.setSlot_arg (s : State) (i : SlotId) (v : Slot) : (s.setSlot i v).arg = s.arg := rfl
@[simp] theorem State.setSlot_cur (s : State) (i : SlotId) (v : Slot) : (s.setSlot i v).cur = s.cur := rfl
@[simp] theorem State.setSlot_insn (s : State) (i : SlotId) (v : Slot) : (s.setSlot i v).insn = s.insn := rfl
@[simp] theorem State.setSlot_strCur (s : State) (i : SlotId) (v : Slot) : (s.setSlot i v).strCur = s.strCur := rfl
@[simp] theorem State.setSlot_ceCur (s : State) (i : SlotId) (v : Slot) : (s.setSlot i v).ceCur = s.ceCur := rfl
@[simp] theorem State.setSlot_time (s : State) (i : SlotId) (v : Slot) : (s.setSlot i v).time = s.time := rfl
@[simp] theorem State.setSlot_nextId (s : State) (i : SlotId) (v : Slot) : (s.setSlot i v).nextId = s.nextId := rfl
@[simp] theorem State.setSlot_freeCtr (s : State) (i : SlotId) (v : Slot) : (s.setSlot i v).freeCtr = s.freeCtr := rfl
@[simp] theorem State.setSlot_warmResets (s : State) (i : SlotId) (v : Slot) : (s.setSlot i v).warmResets = s.warmResets := rfl
@[simp] theorem State.setSlot_phase (s : State) (i : SlotId) (v : Slot) : (s.setSlot i v).phase = s.phase := rfl
@[simp] theorem State.setSlot_edOk (s : State) (i : SlotId) (v : Slot) : (s.setSlot i v).edOk = s.edOk := rfl
@[simp] theorem State.setSlot_mlOk (s : State) (i : SlotId) (v : Slot) : (s.setSlot i v).mlOk = s.mlOk := rfl
@[simp] theorem State.setSlot_stackMask (s : State) (i : SlotId) (v : Slot) : (s.setSlot i v).stackMask = s.stackMask := rfl
@[simp] theorem State.setSlot_device (s : State) (i : SlotId) (v : Slot) : (s.setSlot i v).device = s.device := rfl
@[simp] theorem State.setSlot_linkMode (s : State) (i : SlotId) (v : Slot) : (s.setSlot i v).linkMode = s.linkMode := rfl
@[simp] theorem State.setSlot_paths (s : State) (i : SlotId) (v : Slot) : (s.setSlot i v).paths = s.paths := rfl
@[simp] theorem State.setSlot_domSize (s : State) (i : SlotId) (v : Slot) : (s.setSlot i v).domSize = s.domSize := rfl
@[simp] theorem State.setSlot_pwrLimit (s : State) (i : SlotId) (v : Slot) : (s.setSlot i v).pwrLimit = s.pwrLimit := rfl
@[simp] theorem State.setSlot_flash (s : State) (i : SlotId) (v : Slot) : (s.setSlot i v).flash = s.flash := rfl
@[simp] theorem State.setSlot_fuses (s : State) (i : SlotId) (v : Slot) : (s.setSlot i v).fuses = s.fuses := rfl
@[simp] theorem State.setSlot_caps (s : State) (i : SlotId) (v : Slot) : (s.setSlot i v).caps = s.caps := rfl
@[simp] theorem State.setSlot_hflBusy (s : State) (i : SlotId) (v : Slot) : (s.setSlot i v).hflBusy = s.hflBusy := rfl
@[simp] theorem State.setSlot_hflAddr (s : State) (i : SlotId) (v : Slot) : (s.setSlot i v).hflAddr = s.hflAddr := rfl
@[simp] theorem State.setSlot_hflLen (s : State) (i : SlotId) (v : Slot) : (s.setSlot i v).hflLen = s.hflLen := rfl
@[simp] theorem State.setSlot_hflCtx (s : State) (i : SlotId) (v : Slot) : (s.setSlot i v).hflCtx = s.hflCtx := rfl
@[simp] theorem State.setSlot_hflFlag (s : State) (i : SlotId) (v : Slot) : (s.setSlot i v).hflFlag = s.hflFlag := rfl
@[simp] theorem State.setSlot_hapBase (s : State) (i : SlotId) (v : Slot) : (s.setSlot i v).hapBase = s.hapBase := rfl
@[simp] theorem State.setSlot_hapCtx (s : State) (i : SlotId) (v : Slot) : (s.setSlot i v).hapCtx = s.hapCtx := rfl
@[simp] theorem State.setSlot_hflWaits (s : State) (i : SlotId) (v : Slot) : (s.setSlot i v).hflWaits = s.hflWaits := rfl
@[simp] theorem State.setSlot_cxlUp (s : State) (i : SlotId) (v : Slot) : (s.setSlot i v).cxlUp = s.cxlUp := rfl
@[simp] theorem State.setSlot_hostLines (s : State) (i : SlotId) (v : Slot) : (s.setSlot i v).hostLines = s.hostLines := rfl
@[simp] theorem State.setSlot_backInv (s : State) (i : SlotId) (v : Slot) : (s.setSlot i v).backInv = s.backInv := rfl
@[simp] theorem State.setSlot_mailStatus (s : State) (i : SlotId) (v : Slot) : (s.setSlot i v).mailStatus = s.mailStatus := rfl
@[simp] theorem State.setSlot_mailCommand (s : State) (i : SlotId) (v : Slot) : (s.setSlot i v).mailCommand = s.mailCommand := rfl
@[simp] theorem State.setSlot_mailArea (s : State) (i : SlotId) (v : Slot) : (s.setSlot i v).mailArea = s.mailArea := rfl
@[simp] theorem State.setSlot_hostRead (s : State) (i : SlotId) (v : Slot) : (s.setSlot i v).hostRead = s.hostRead := rfl
@[simp] theorem State.setSlot_dies (s : State) (i : SlotId) (v : Slot) : (s.setSlot i v).dies = s.dies := rfl
@[simp] theorem State.setSlot_cores (s : State) (i : SlotId) (v : Slot) : (s.setSlot i v).cores = s.cores := rfl
@[simp] theorem State.setSlot_descs (s : State) (i : SlotId) (v : Slot) : (s.setSlot i v).descs = s.descs := rfl
@[simp] theorem State.setSlot_ctxs (s : State) (i : SlotId) (v : Slot) : (s.setSlot i v).ctxs = s.ctxs := rfl
@[simp] theorem State.setSlot_ports (s : State) (i : SlotId) (v : Slot) : (s.setSlot i v).ports = s.ports := rfl
@[simp] theorem State.setSlot_boundaries (s : State) (i : SlotId) (v : Slot) : (s.setSlot i v).boundaries = s.boundaries := rfl
@[simp] theorem State.setSlot_deadPaths (s : State) (i : SlotId) (v : Slot) : (s.setSlot i v).deadPaths = s.deadPaths := rfl
@[simp] theorem State.setSlot_cellar (s : State) (i : SlotId) (v : Slot) : (s.setSlot i v).cellar = s.cellar := rfl
@[simp] theorem State.setSlot_reqs (s : State) (i : SlotId) (v : Slot) : (s.setSlot i v).reqs = s.reqs := rfl
@[simp] theorem State.setSlot_msgs (s : State) (i : SlotId) (v : Slot) : (s.setSlot i v).msgs = s.msgs := rfl
@[simp] theorem State.setSlot_staged (s : State) (i : SlotId) (v : Slot) : (s.setSlot i v).staged = s.staged := rfl
@[simp] theorem State.setSlot_fabricOut (s : State) (i : SlotId) (v : Slot) : (s.setSlot i v).fabricOut = s.fabricOut := rfl
@[simp] theorem State.setSlot_vc2Next (s : State) (i : SlotId) (v : Slot) : (s.setSlot i v).vc2Next = s.vc2Next := rfl
@[simp] theorem State.setSlot_vc2Sent (s : State) (i : SlotId) (v : Slot) : (s.setSlot i v).vc2Sent = s.vc2Sent := rfl
@[simp] theorem State.setSlot_vc2Taken (s : State) (i : SlotId) (v : Slot) : (s.setSlot i v).vc2Taken = s.vc2Taken := rfl
@[simp] theorem State.setSlot_foreignResv (s : State) (i : SlotId) (v : Slot) : (s.setSlot i v).foreignResv = s.foreignResv := rfl
@[simp] theorem State.setSlot_markers (s : State) (i : SlotId) (v : Slot) : (s.setSlot i v).markers = s.markers := rfl
@[simp] theorem State.setSlot_mem (s : State) (i : SlotId) (v : Slot) : (s.setSlot i v).mem = s.mem := rfl
@[simp] theorem State.setSlot_poison (s : State) (i : SlotId) (v : Slot) : (s.setSlot i v).poison = s.poison := rfl
@[simp] theorem State.setSlot_homed (s : State) (i : SlotId) (v : Slot) : (s.setSlot i v).homed = s.homed := rfl
@[simp] theorem State.setSlot_sends (s : State) (i : SlotId) (v : Slot) : (s.setSlot i v).sends = s.sends := rfl
@[simp] theorem State.setSlot_sprayed (s : State) (i : SlotId) (v : Slot) : (s.setSlot i v).sprayed = s.sprayed := rfl
@[simp] theorem State.setSlot_farDead (s : State) (i : SlotId) (v : Slot) : (s.setSlot i v).farDead = s.farDead := rfl
@[simp] theorem State.setSlot_cuts (s : State) (i : SlotId) (v : Slot) : (s.setSlot i v).cuts = s.cuts := rfl
@[simp] theorem State.setSlot_rxHeld (s : State) (i : SlotId) (v : Slot) : (s.setSlot i v).rxHeld = s.rxHeld := rfl
@[simp] theorem State.setSlot_txHeld (s : State) (i : SlotId) (v : Slot) : (s.setSlot i v).txHeld = s.txHeld := rfl
@[simp] theorem State.setSlot_vc2Path (s : State) (i : SlotId) (v : Slot) : (s.setSlot i v).vc2Path = s.vc2Path := rfl
@[simp] theorem State.setSlot_pwrLog (s : State) (i : SlotId) (v : Slot) : (s.setSlot i v).pwrLog = s.pwrLog := rfl
@[simp] theorem State.setSlot_mailPayload (s : State) (i : SlotId) (v : Slot) : (s.setSlot i v).mailPayload = s.mailPayload := rfl

/-! `setDesc`. -/
@[simp] theorem State.setDesc_schedule (s : State) (n : Nat) (v : Desc) : (s.setDesc n v).schedule = s.schedule := rfl
@[simp] theorem State.setDesc_arg (s : State) (n : Nat) (v : Desc) : (s.setDesc n v).arg = s.arg := rfl
@[simp] theorem State.setDesc_cur (s : State) (n : Nat) (v : Desc) : (s.setDesc n v).cur = s.cur := rfl
@[simp] theorem State.setDesc_insn (s : State) (n : Nat) (v : Desc) : (s.setDesc n v).insn = s.insn := rfl
@[simp] theorem State.setDesc_strCur (s : State) (n : Nat) (v : Desc) : (s.setDesc n v).strCur = s.strCur := rfl
@[simp] theorem State.setDesc_ceCur (s : State) (n : Nat) (v : Desc) : (s.setDesc n v).ceCur = s.ceCur := rfl
@[simp] theorem State.setDesc_time (s : State) (n : Nat) (v : Desc) : (s.setDesc n v).time = s.time := rfl
@[simp] theorem State.setDesc_nextId (s : State) (n : Nat) (v : Desc) : (s.setDesc n v).nextId = s.nextId := rfl
@[simp] theorem State.setDesc_freeCtr (s : State) (n : Nat) (v : Desc) : (s.setDesc n v).freeCtr = s.freeCtr := rfl
@[simp] theorem State.setDesc_warmResets (s : State) (n : Nat) (v : Desc) : (s.setDesc n v).warmResets = s.warmResets := rfl
@[simp] theorem State.setDesc_phase (s : State) (n : Nat) (v : Desc) : (s.setDesc n v).phase = s.phase := rfl
@[simp] theorem State.setDesc_edOk (s : State) (n : Nat) (v : Desc) : (s.setDesc n v).edOk = s.edOk := rfl
@[simp] theorem State.setDesc_mlOk (s : State) (n : Nat) (v : Desc) : (s.setDesc n v).mlOk = s.mlOk := rfl
@[simp] theorem State.setDesc_stackMask (s : State) (n : Nat) (v : Desc) : (s.setDesc n v).stackMask = s.stackMask := rfl
@[simp] theorem State.setDesc_device (s : State) (n : Nat) (v : Desc) : (s.setDesc n v).device = s.device := rfl
@[simp] theorem State.setDesc_linkMode (s : State) (n : Nat) (v : Desc) : (s.setDesc n v).linkMode = s.linkMode := rfl
@[simp] theorem State.setDesc_paths (s : State) (n : Nat) (v : Desc) : (s.setDesc n v).paths = s.paths := rfl
@[simp] theorem State.setDesc_domSize (s : State) (n : Nat) (v : Desc) : (s.setDesc n v).domSize = s.domSize := rfl
@[simp] theorem State.setDesc_pwrLimit (s : State) (n : Nat) (v : Desc) : (s.setDesc n v).pwrLimit = s.pwrLimit := rfl
@[simp] theorem State.setDesc_flash (s : State) (n : Nat) (v : Desc) : (s.setDesc n v).flash = s.flash := rfl
@[simp] theorem State.setDesc_fuses (s : State) (n : Nat) (v : Desc) : (s.setDesc n v).fuses = s.fuses := rfl
@[simp] theorem State.setDesc_caps (s : State) (n : Nat) (v : Desc) : (s.setDesc n v).caps = s.caps := rfl
@[simp] theorem State.setDesc_hflBusy (s : State) (n : Nat) (v : Desc) : (s.setDesc n v).hflBusy = s.hflBusy := rfl
@[simp] theorem State.setDesc_hflAddr (s : State) (n : Nat) (v : Desc) : (s.setDesc n v).hflAddr = s.hflAddr := rfl
@[simp] theorem State.setDesc_hflLen (s : State) (n : Nat) (v : Desc) : (s.setDesc n v).hflLen = s.hflLen := rfl
@[simp] theorem State.setDesc_hflCtx (s : State) (n : Nat) (v : Desc) : (s.setDesc n v).hflCtx = s.hflCtx := rfl
@[simp] theorem State.setDesc_hflFlag (s : State) (n : Nat) (v : Desc) : (s.setDesc n v).hflFlag = s.hflFlag := rfl
@[simp] theorem State.setDesc_hapBase (s : State) (n : Nat) (v : Desc) : (s.setDesc n v).hapBase = s.hapBase := rfl
@[simp] theorem State.setDesc_hapCtx (s : State) (n : Nat) (v : Desc) : (s.setDesc n v).hapCtx = s.hapCtx := rfl
@[simp] theorem State.setDesc_hflWaits (s : State) (n : Nat) (v : Desc) : (s.setDesc n v).hflWaits = s.hflWaits := rfl
@[simp] theorem State.setDesc_cxlUp (s : State) (n : Nat) (v : Desc) : (s.setDesc n v).cxlUp = s.cxlUp := rfl
@[simp] theorem State.setDesc_hostLines (s : State) (n : Nat) (v : Desc) : (s.setDesc n v).hostLines = s.hostLines := rfl
@[simp] theorem State.setDesc_backInv (s : State) (n : Nat) (v : Desc) : (s.setDesc n v).backInv = s.backInv := rfl
@[simp] theorem State.setDesc_mailStatus (s : State) (n : Nat) (v : Desc) : (s.setDesc n v).mailStatus = s.mailStatus := rfl
@[simp] theorem State.setDesc_mailCommand (s : State) (n : Nat) (v : Desc) : (s.setDesc n v).mailCommand = s.mailCommand := rfl
@[simp] theorem State.setDesc_mailArea (s : State) (n : Nat) (v : Desc) : (s.setDesc n v).mailArea = s.mailArea := rfl
@[simp] theorem State.setDesc_hostRead (s : State) (n : Nat) (v : Desc) : (s.setDesc n v).hostRead = s.hostRead := rfl
@[simp] theorem State.setDesc_dies (s : State) (n : Nat) (v : Desc) : (s.setDesc n v).dies = s.dies := rfl
@[simp] theorem State.setDesc_cores (s : State) (n : Nat) (v : Desc) : (s.setDesc n v).cores = s.cores := rfl
@[simp] theorem State.setDesc_slots (s : State) (n : Nat) (v : Desc) : (s.setDesc n v).slots = s.slots := rfl
@[simp] theorem State.setDesc_ctxs (s : State) (n : Nat) (v : Desc) : (s.setDesc n v).ctxs = s.ctxs := rfl
@[simp] theorem State.setDesc_ports (s : State) (n : Nat) (v : Desc) : (s.setDesc n v).ports = s.ports := rfl
@[simp] theorem State.setDesc_boundaries (s : State) (n : Nat) (v : Desc) : (s.setDesc n v).boundaries = s.boundaries := rfl
@[simp] theorem State.setDesc_deadPaths (s : State) (n : Nat) (v : Desc) : (s.setDesc n v).deadPaths = s.deadPaths := rfl
@[simp] theorem State.setDesc_cellar (s : State) (n : Nat) (v : Desc) : (s.setDesc n v).cellar = s.cellar := rfl
@[simp] theorem State.setDesc_reqs (s : State) (n : Nat) (v : Desc) : (s.setDesc n v).reqs = s.reqs := rfl
@[simp] theorem State.setDesc_msgs (s : State) (n : Nat) (v : Desc) : (s.setDesc n v).msgs = s.msgs := rfl
@[simp] theorem State.setDesc_staged (s : State) (n : Nat) (v : Desc) : (s.setDesc n v).staged = s.staged := rfl
@[simp] theorem State.setDesc_fabricOut (s : State) (n : Nat) (v : Desc) : (s.setDesc n v).fabricOut = s.fabricOut := rfl
@[simp] theorem State.setDesc_vc2Next (s : State) (n : Nat) (v : Desc) : (s.setDesc n v).vc2Next = s.vc2Next := rfl
@[simp] theorem State.setDesc_vc2Sent (s : State) (n : Nat) (v : Desc) : (s.setDesc n v).vc2Sent = s.vc2Sent := rfl
@[simp] theorem State.setDesc_vc2Taken (s : State) (n : Nat) (v : Desc) : (s.setDesc n v).vc2Taken = s.vc2Taken := rfl
@[simp] theorem State.setDesc_foreignResv (s : State) (n : Nat) (v : Desc) : (s.setDesc n v).foreignResv = s.foreignResv := rfl
@[simp] theorem State.setDesc_markers (s : State) (n : Nat) (v : Desc) : (s.setDesc n v).markers = s.markers := rfl
@[simp] theorem State.setDesc_mem (s : State) (n : Nat) (v : Desc) : (s.setDesc n v).mem = s.mem := rfl
@[simp] theorem State.setDesc_poison (s : State) (n : Nat) (v : Desc) : (s.setDesc n v).poison = s.poison := rfl
@[simp] theorem State.setDesc_homed (s : State) (n : Nat) (v : Desc) : (s.setDesc n v).homed = s.homed := rfl
@[simp] theorem State.setDesc_sends (s : State) (n : Nat) (v : Desc) : (s.setDesc n v).sends = s.sends := rfl
@[simp] theorem State.setDesc_sprayed (s : State) (n : Nat) (v : Desc) : (s.setDesc n v).sprayed = s.sprayed := rfl
@[simp] theorem State.setDesc_farDead (s : State) (n : Nat) (v : Desc) : (s.setDesc n v).farDead = s.farDead := rfl
@[simp] theorem State.setDesc_cuts (s : State) (n : Nat) (v : Desc) : (s.setDesc n v).cuts = s.cuts := rfl
@[simp] theorem State.setDesc_rxHeld (s : State) (n : Nat) (v : Desc) : (s.setDesc n v).rxHeld = s.rxHeld := rfl
@[simp] theorem State.setDesc_txHeld (s : State) (n : Nat) (v : Desc) : (s.setDesc n v).txHeld = s.txHeld := rfl
@[simp] theorem State.setDesc_vc2Path (s : State) (n : Nat) (v : Desc) : (s.setDesc n v).vc2Path = s.vc2Path := rfl
@[simp] theorem State.setDesc_pwrLog (s : State) (n : Nat) (v : Desc) : (s.setDesc n v).pwrLog = s.pwrLog := rfl
@[simp] theorem State.setDesc_mailPayload (s : State) (n : Nat) (v : Desc) : (s.setDesc n v).mailPayload = s.mailPayload := rfl

/-! `setCtx`. -/
@[simp] theorem State.setCtx_schedule (s : State) (c : BitVec 8) (v : Ctx) : (s.setCtx c v).schedule = s.schedule := rfl
@[simp] theorem State.setCtx_arg (s : State) (c : BitVec 8) (v : Ctx) : (s.setCtx c v).arg = s.arg := rfl
@[simp] theorem State.setCtx_cur (s : State) (c : BitVec 8) (v : Ctx) : (s.setCtx c v).cur = s.cur := rfl
@[simp] theorem State.setCtx_insn (s : State) (c : BitVec 8) (v : Ctx) : (s.setCtx c v).insn = s.insn := rfl
@[simp] theorem State.setCtx_strCur (s : State) (c : BitVec 8) (v : Ctx) : (s.setCtx c v).strCur = s.strCur := rfl
@[simp] theorem State.setCtx_ceCur (s : State) (c : BitVec 8) (v : Ctx) : (s.setCtx c v).ceCur = s.ceCur := rfl
@[simp] theorem State.setCtx_time (s : State) (c : BitVec 8) (v : Ctx) : (s.setCtx c v).time = s.time := rfl
@[simp] theorem State.setCtx_nextId (s : State) (c : BitVec 8) (v : Ctx) : (s.setCtx c v).nextId = s.nextId := rfl
@[simp] theorem State.setCtx_freeCtr (s : State) (c : BitVec 8) (v : Ctx) : (s.setCtx c v).freeCtr = s.freeCtr := rfl
@[simp] theorem State.setCtx_warmResets (s : State) (c : BitVec 8) (v : Ctx) : (s.setCtx c v).warmResets = s.warmResets := rfl
@[simp] theorem State.setCtx_phase (s : State) (c : BitVec 8) (v : Ctx) : (s.setCtx c v).phase = s.phase := rfl
@[simp] theorem State.setCtx_edOk (s : State) (c : BitVec 8) (v : Ctx) : (s.setCtx c v).edOk = s.edOk := rfl
@[simp] theorem State.setCtx_mlOk (s : State) (c : BitVec 8) (v : Ctx) : (s.setCtx c v).mlOk = s.mlOk := rfl
@[simp] theorem State.setCtx_stackMask (s : State) (c : BitVec 8) (v : Ctx) : (s.setCtx c v).stackMask = s.stackMask := rfl
@[simp] theorem State.setCtx_device (s : State) (c : BitVec 8) (v : Ctx) : (s.setCtx c v).device = s.device := rfl
@[simp] theorem State.setCtx_linkMode (s : State) (c : BitVec 8) (v : Ctx) : (s.setCtx c v).linkMode = s.linkMode := rfl
@[simp] theorem State.setCtx_paths (s : State) (c : BitVec 8) (v : Ctx) : (s.setCtx c v).paths = s.paths := rfl
@[simp] theorem State.setCtx_domSize (s : State) (c : BitVec 8) (v : Ctx) : (s.setCtx c v).domSize = s.domSize := rfl
@[simp] theorem State.setCtx_pwrLimit (s : State) (c : BitVec 8) (v : Ctx) : (s.setCtx c v).pwrLimit = s.pwrLimit := rfl
@[simp] theorem State.setCtx_flash (s : State) (c : BitVec 8) (v : Ctx) : (s.setCtx c v).flash = s.flash := rfl
@[simp] theorem State.setCtx_fuses (s : State) (c : BitVec 8) (v : Ctx) : (s.setCtx c v).fuses = s.fuses := rfl
@[simp] theorem State.setCtx_caps (s : State) (c : BitVec 8) (v : Ctx) : (s.setCtx c v).caps = s.caps := rfl
@[simp] theorem State.setCtx_hflBusy (s : State) (c : BitVec 8) (v : Ctx) : (s.setCtx c v).hflBusy = s.hflBusy := rfl
@[simp] theorem State.setCtx_hflAddr (s : State) (c : BitVec 8) (v : Ctx) : (s.setCtx c v).hflAddr = s.hflAddr := rfl
@[simp] theorem State.setCtx_hflLen (s : State) (c : BitVec 8) (v : Ctx) : (s.setCtx c v).hflLen = s.hflLen := rfl
@[simp] theorem State.setCtx_hflCtx (s : State) (c : BitVec 8) (v : Ctx) : (s.setCtx c v).hflCtx = s.hflCtx := rfl
@[simp] theorem State.setCtx_hflFlag (s : State) (c : BitVec 8) (v : Ctx) : (s.setCtx c v).hflFlag = s.hflFlag := rfl
@[simp] theorem State.setCtx_hapBase (s : State) (c : BitVec 8) (v : Ctx) : (s.setCtx c v).hapBase = s.hapBase := rfl
@[simp] theorem State.setCtx_hapCtx (s : State) (c : BitVec 8) (v : Ctx) : (s.setCtx c v).hapCtx = s.hapCtx := rfl
@[simp] theorem State.setCtx_hflWaits (s : State) (c : BitVec 8) (v : Ctx) : (s.setCtx c v).hflWaits = s.hflWaits := rfl
@[simp] theorem State.setCtx_cxlUp (s : State) (c : BitVec 8) (v : Ctx) : (s.setCtx c v).cxlUp = s.cxlUp := rfl
@[simp] theorem State.setCtx_hostLines (s : State) (c : BitVec 8) (v : Ctx) : (s.setCtx c v).hostLines = s.hostLines := rfl
@[simp] theorem State.setCtx_backInv (s : State) (c : BitVec 8) (v : Ctx) : (s.setCtx c v).backInv = s.backInv := rfl
@[simp] theorem State.setCtx_mailStatus (s : State) (c : BitVec 8) (v : Ctx) : (s.setCtx c v).mailStatus = s.mailStatus := rfl
@[simp] theorem State.setCtx_mailCommand (s : State) (c : BitVec 8) (v : Ctx) : (s.setCtx c v).mailCommand = s.mailCommand := rfl
@[simp] theorem State.setCtx_mailArea (s : State) (c : BitVec 8) (v : Ctx) : (s.setCtx c v).mailArea = s.mailArea := rfl
@[simp] theorem State.setCtx_hostRead (s : State) (c : BitVec 8) (v : Ctx) : (s.setCtx c v).hostRead = s.hostRead := rfl
@[simp] theorem State.setCtx_dies (s : State) (c : BitVec 8) (v : Ctx) : (s.setCtx c v).dies = s.dies := rfl
@[simp] theorem State.setCtx_cores (s : State) (c : BitVec 8) (v : Ctx) : (s.setCtx c v).cores = s.cores := rfl
@[simp] theorem State.setCtx_slots (s : State) (c : BitVec 8) (v : Ctx) : (s.setCtx c v).slots = s.slots := rfl
@[simp] theorem State.setCtx_descs (s : State) (c : BitVec 8) (v : Ctx) : (s.setCtx c v).descs = s.descs := rfl
@[simp] theorem State.setCtx_ports (s : State) (c : BitVec 8) (v : Ctx) : (s.setCtx c v).ports = s.ports := rfl
@[simp] theorem State.setCtx_boundaries (s : State) (c : BitVec 8) (v : Ctx) : (s.setCtx c v).boundaries = s.boundaries := rfl
@[simp] theorem State.setCtx_deadPaths (s : State) (c : BitVec 8) (v : Ctx) : (s.setCtx c v).deadPaths = s.deadPaths := rfl
@[simp] theorem State.setCtx_cellar (s : State) (c : BitVec 8) (v : Ctx) : (s.setCtx c v).cellar = s.cellar := rfl
@[simp] theorem State.setCtx_reqs (s : State) (c : BitVec 8) (v : Ctx) : (s.setCtx c v).reqs = s.reqs := rfl
@[simp] theorem State.setCtx_msgs (s : State) (c : BitVec 8) (v : Ctx) : (s.setCtx c v).msgs = s.msgs := rfl
@[simp] theorem State.setCtx_staged (s : State) (c : BitVec 8) (v : Ctx) : (s.setCtx c v).staged = s.staged := rfl
@[simp] theorem State.setCtx_fabricOut (s : State) (c : BitVec 8) (v : Ctx) : (s.setCtx c v).fabricOut = s.fabricOut := rfl
@[simp] theorem State.setCtx_vc2Next (s : State) (c : BitVec 8) (v : Ctx) : (s.setCtx c v).vc2Next = s.vc2Next := rfl
@[simp] theorem State.setCtx_vc2Sent (s : State) (c : BitVec 8) (v : Ctx) : (s.setCtx c v).vc2Sent = s.vc2Sent := rfl
@[simp] theorem State.setCtx_vc2Taken (s : State) (c : BitVec 8) (v : Ctx) : (s.setCtx c v).vc2Taken = s.vc2Taken := rfl
@[simp] theorem State.setCtx_foreignResv (s : State) (c : BitVec 8) (v : Ctx) : (s.setCtx c v).foreignResv = s.foreignResv := rfl
@[simp] theorem State.setCtx_markers (s : State) (c : BitVec 8) (v : Ctx) : (s.setCtx c v).markers = s.markers := rfl
@[simp] theorem State.setCtx_mem (s : State) (c : BitVec 8) (v : Ctx) : (s.setCtx c v).mem = s.mem := rfl
@[simp] theorem State.setCtx_poison (s : State) (c : BitVec 8) (v : Ctx) : (s.setCtx c v).poison = s.poison := rfl
@[simp] theorem State.setCtx_homed (s : State) (c : BitVec 8) (v : Ctx) : (s.setCtx c v).homed = s.homed := rfl
@[simp] theorem State.setCtx_sends (s : State) (c : BitVec 8) (v : Ctx) : (s.setCtx c v).sends = s.sends := rfl
@[simp] theorem State.setCtx_sprayed (s : State) (c : BitVec 8) (v : Ctx) : (s.setCtx c v).sprayed = s.sprayed := rfl
@[simp] theorem State.setCtx_farDead (s : State) (c : BitVec 8) (v : Ctx) : (s.setCtx c v).farDead = s.farDead := rfl
@[simp] theorem State.setCtx_cuts (s : State) (c : BitVec 8) (v : Ctx) : (s.setCtx c v).cuts = s.cuts := rfl
@[simp] theorem State.setCtx_rxHeld (s : State) (c : BitVec 8) (v : Ctx) : (s.setCtx c v).rxHeld = s.rxHeld := rfl
@[simp] theorem State.setCtx_txHeld (s : State) (c : BitVec 8) (v : Ctx) : (s.setCtx c v).txHeld = s.txHeld := rfl
@[simp] theorem State.setCtx_vc2Path (s : State) (c : BitVec 8) (v : Ctx) : (s.setCtx c v).vc2Path = s.vc2Path := rfl
@[simp] theorem State.setCtx_pwrLog (s : State) (c : BitVec 8) (v : Ctx) : (s.setCtx c v).pwrLog = s.pwrLog := rfl
@[simp] theorem State.setCtx_mailPayload (s : State) (c : BitVec 8) (v : Ctx) : (s.setCtx c v).mailPayload = s.mailPayload := rfl

/-! `setReq`. -/
@[simp] theorem State.setReq_schedule (s : State) (r : Req) : (s.setReq r).schedule = s.schedule := rfl
@[simp] theorem State.setReq_arg (s : State) (r : Req) : (s.setReq r).arg = s.arg := rfl
@[simp] theorem State.setReq_cur (s : State) (r : Req) : (s.setReq r).cur = s.cur := rfl
@[simp] theorem State.setReq_insn (s : State) (r : Req) : (s.setReq r).insn = s.insn := rfl
@[simp] theorem State.setReq_strCur (s : State) (r : Req) : (s.setReq r).strCur = s.strCur := rfl
@[simp] theorem State.setReq_ceCur (s : State) (r : Req) : (s.setReq r).ceCur = s.ceCur := rfl
@[simp] theorem State.setReq_time (s : State) (r : Req) : (s.setReq r).time = s.time := rfl
@[simp] theorem State.setReq_nextId (s : State) (r : Req) : (s.setReq r).nextId = s.nextId := rfl
@[simp] theorem State.setReq_freeCtr (s : State) (r : Req) : (s.setReq r).freeCtr = s.freeCtr := rfl
@[simp] theorem State.setReq_warmResets (s : State) (r : Req) : (s.setReq r).warmResets = s.warmResets := rfl
@[simp] theorem State.setReq_phase (s : State) (r : Req) : (s.setReq r).phase = s.phase := rfl
@[simp] theorem State.setReq_edOk (s : State) (r : Req) : (s.setReq r).edOk = s.edOk := rfl
@[simp] theorem State.setReq_mlOk (s : State) (r : Req) : (s.setReq r).mlOk = s.mlOk := rfl
@[simp] theorem State.setReq_stackMask (s : State) (r : Req) : (s.setReq r).stackMask = s.stackMask := rfl
@[simp] theorem State.setReq_device (s : State) (r : Req) : (s.setReq r).device = s.device := rfl
@[simp] theorem State.setReq_linkMode (s : State) (r : Req) : (s.setReq r).linkMode = s.linkMode := rfl
@[simp] theorem State.setReq_paths (s : State) (r : Req) : (s.setReq r).paths = s.paths := rfl
@[simp] theorem State.setReq_domSize (s : State) (r : Req) : (s.setReq r).domSize = s.domSize := rfl
@[simp] theorem State.setReq_pwrLimit (s : State) (r : Req) : (s.setReq r).pwrLimit = s.pwrLimit := rfl
@[simp] theorem State.setReq_flash (s : State) (r : Req) : (s.setReq r).flash = s.flash := rfl
@[simp] theorem State.setReq_fuses (s : State) (r : Req) : (s.setReq r).fuses = s.fuses := rfl
@[simp] theorem State.setReq_caps (s : State) (r : Req) : (s.setReq r).caps = s.caps := rfl
@[simp] theorem State.setReq_hflBusy (s : State) (r : Req) : (s.setReq r).hflBusy = s.hflBusy := rfl
@[simp] theorem State.setReq_hflAddr (s : State) (r : Req) : (s.setReq r).hflAddr = s.hflAddr := rfl
@[simp] theorem State.setReq_hflLen (s : State) (r : Req) : (s.setReq r).hflLen = s.hflLen := rfl
@[simp] theorem State.setReq_hflCtx (s : State) (r : Req) : (s.setReq r).hflCtx = s.hflCtx := rfl
@[simp] theorem State.setReq_hflFlag (s : State) (r : Req) : (s.setReq r).hflFlag = s.hflFlag := rfl
@[simp] theorem State.setReq_hapBase (s : State) (r : Req) : (s.setReq r).hapBase = s.hapBase := rfl
@[simp] theorem State.setReq_hapCtx (s : State) (r : Req) : (s.setReq r).hapCtx = s.hapCtx := rfl
@[simp] theorem State.setReq_hflWaits (s : State) (r : Req) : (s.setReq r).hflWaits = s.hflWaits := rfl
@[simp] theorem State.setReq_cxlUp (s : State) (r : Req) : (s.setReq r).cxlUp = s.cxlUp := rfl
@[simp] theorem State.setReq_hostLines (s : State) (r : Req) : (s.setReq r).hostLines = s.hostLines := rfl
@[simp] theorem State.setReq_backInv (s : State) (r : Req) : (s.setReq r).backInv = s.backInv := rfl
@[simp] theorem State.setReq_mailStatus (s : State) (r : Req) : (s.setReq r).mailStatus = s.mailStatus := rfl
@[simp] theorem State.setReq_mailCommand (s : State) (r : Req) : (s.setReq r).mailCommand = s.mailCommand := rfl
@[simp] theorem State.setReq_mailArea (s : State) (r : Req) : (s.setReq r).mailArea = s.mailArea := rfl
@[simp] theorem State.setReq_hostRead (s : State) (r : Req) : (s.setReq r).hostRead = s.hostRead := rfl
@[simp] theorem State.setReq_dies (s : State) (r : Req) : (s.setReq r).dies = s.dies := rfl
@[simp] theorem State.setReq_cores (s : State) (r : Req) : (s.setReq r).cores = s.cores := rfl
@[simp] theorem State.setReq_slots (s : State) (r : Req) : (s.setReq r).slots = s.slots := rfl
@[simp] theorem State.setReq_descs (s : State) (r : Req) : (s.setReq r).descs = s.descs := rfl
@[simp] theorem State.setReq_ctxs (s : State) (r : Req) : (s.setReq r).ctxs = s.ctxs := rfl
@[simp] theorem State.setReq_ports (s : State) (r : Req) : (s.setReq r).ports = s.ports := rfl
@[simp] theorem State.setReq_boundaries (s : State) (r : Req) : (s.setReq r).boundaries = s.boundaries := rfl
@[simp] theorem State.setReq_deadPaths (s : State) (r : Req) : (s.setReq r).deadPaths = s.deadPaths := rfl
@[simp] theorem State.setReq_cellar (s : State) (r : Req) : (s.setReq r).cellar = s.cellar := rfl
@[simp] theorem State.setReq_msgs (s : State) (r : Req) : (s.setReq r).msgs = s.msgs := rfl
@[simp] theorem State.setReq_staged (s : State) (r : Req) : (s.setReq r).staged = s.staged := rfl
@[simp] theorem State.setReq_fabricOut (s : State) (r : Req) : (s.setReq r).fabricOut = s.fabricOut := rfl
@[simp] theorem State.setReq_vc2Next (s : State) (r : Req) : (s.setReq r).vc2Next = s.vc2Next := rfl
@[simp] theorem State.setReq_vc2Sent (s : State) (r : Req) : (s.setReq r).vc2Sent = s.vc2Sent := rfl
@[simp] theorem State.setReq_vc2Taken (s : State) (r : Req) : (s.setReq r).vc2Taken = s.vc2Taken := rfl
@[simp] theorem State.setReq_foreignResv (s : State) (r : Req) : (s.setReq r).foreignResv = s.foreignResv := rfl
@[simp] theorem State.setReq_markers (s : State) (r : Req) : (s.setReq r).markers = s.markers := rfl
@[simp] theorem State.setReq_mem (s : State) (r : Req) : (s.setReq r).mem = s.mem := rfl
@[simp] theorem State.setReq_poison (s : State) (r : Req) : (s.setReq r).poison = s.poison := rfl
@[simp] theorem State.setReq_homed (s : State) (r : Req) : (s.setReq r).homed = s.homed := rfl
@[simp] theorem State.setReq_sends (s : State) (r : Req) : (s.setReq r).sends = s.sends := rfl
@[simp] theorem State.setReq_sprayed (s : State) (r : Req) : (s.setReq r).sprayed = s.sprayed := rfl
@[simp] theorem State.setReq_farDead (s : State) (r : Req) : (s.setReq r).farDead = s.farDead := rfl
@[simp] theorem State.setReq_cuts (s : State) (r : Req) : (s.setReq r).cuts = s.cuts := rfl
@[simp] theorem State.setReq_rxHeld (s : State) (r : Req) : (s.setReq r).rxHeld = s.rxHeld := rfl
@[simp] theorem State.setReq_txHeld (s : State) (r : Req) : (s.setReq r).txHeld = s.txHeld := rfl
@[simp] theorem State.setReq_vc2Path (s : State) (r : Req) : (s.setReq r).vc2Path = s.vc2Path := rfl
@[simp] theorem State.setReq_pwrLog (s : State) (r : Req) : (s.setReq r).pwrLog = s.pwrLog := rfl
@[simp] theorem State.setReq_mailPayload (s : State) (r : Req) : (s.setReq r).mailPayload = s.mailPayload := rfl

/-! `dropReq`. -/
@[simp] theorem State.dropReq_schedule (s : State) (n : Nat) : (s.dropReq n).schedule = s.schedule := rfl
@[simp] theorem State.dropReq_arg (s : State) (n : Nat) : (s.dropReq n).arg = s.arg := rfl
@[simp] theorem State.dropReq_cur (s : State) (n : Nat) : (s.dropReq n).cur = s.cur := rfl
@[simp] theorem State.dropReq_insn (s : State) (n : Nat) : (s.dropReq n).insn = s.insn := rfl
@[simp] theorem State.dropReq_strCur (s : State) (n : Nat) : (s.dropReq n).strCur = s.strCur := rfl
@[simp] theorem State.dropReq_ceCur (s : State) (n : Nat) : (s.dropReq n).ceCur = s.ceCur := rfl
@[simp] theorem State.dropReq_time (s : State) (n : Nat) : (s.dropReq n).time = s.time := rfl
@[simp] theorem State.dropReq_nextId (s : State) (n : Nat) : (s.dropReq n).nextId = s.nextId := rfl
@[simp] theorem State.dropReq_freeCtr (s : State) (n : Nat) : (s.dropReq n).freeCtr = s.freeCtr := rfl
@[simp] theorem State.dropReq_warmResets (s : State) (n : Nat) : (s.dropReq n).warmResets = s.warmResets := rfl
@[simp] theorem State.dropReq_phase (s : State) (n : Nat) : (s.dropReq n).phase = s.phase := rfl
@[simp] theorem State.dropReq_edOk (s : State) (n : Nat) : (s.dropReq n).edOk = s.edOk := rfl
@[simp] theorem State.dropReq_mlOk (s : State) (n : Nat) : (s.dropReq n).mlOk = s.mlOk := rfl
@[simp] theorem State.dropReq_stackMask (s : State) (n : Nat) : (s.dropReq n).stackMask = s.stackMask := rfl
@[simp] theorem State.dropReq_device (s : State) (n : Nat) : (s.dropReq n).device = s.device := rfl
@[simp] theorem State.dropReq_linkMode (s : State) (n : Nat) : (s.dropReq n).linkMode = s.linkMode := rfl
@[simp] theorem State.dropReq_paths (s : State) (n : Nat) : (s.dropReq n).paths = s.paths := rfl
@[simp] theorem State.dropReq_domSize (s : State) (n : Nat) : (s.dropReq n).domSize = s.domSize := rfl
@[simp] theorem State.dropReq_pwrLimit (s : State) (n : Nat) : (s.dropReq n).pwrLimit = s.pwrLimit := rfl
@[simp] theorem State.dropReq_flash (s : State) (n : Nat) : (s.dropReq n).flash = s.flash := rfl
@[simp] theorem State.dropReq_fuses (s : State) (n : Nat) : (s.dropReq n).fuses = s.fuses := rfl
@[simp] theorem State.dropReq_caps (s : State) (n : Nat) : (s.dropReq n).caps = s.caps := rfl
@[simp] theorem State.dropReq_hflBusy (s : State) (n : Nat) : (s.dropReq n).hflBusy = s.hflBusy := rfl
@[simp] theorem State.dropReq_hflAddr (s : State) (n : Nat) : (s.dropReq n).hflAddr = s.hflAddr := rfl
@[simp] theorem State.dropReq_hflLen (s : State) (n : Nat) : (s.dropReq n).hflLen = s.hflLen := rfl
@[simp] theorem State.dropReq_hflCtx (s : State) (n : Nat) : (s.dropReq n).hflCtx = s.hflCtx := rfl
@[simp] theorem State.dropReq_hflFlag (s : State) (n : Nat) : (s.dropReq n).hflFlag = s.hflFlag := rfl
@[simp] theorem State.dropReq_hapBase (s : State) (n : Nat) : (s.dropReq n).hapBase = s.hapBase := rfl
@[simp] theorem State.dropReq_hapCtx (s : State) (n : Nat) : (s.dropReq n).hapCtx = s.hapCtx := rfl
@[simp] theorem State.dropReq_hflWaits (s : State) (n : Nat) : (s.dropReq n).hflWaits = s.hflWaits := rfl
@[simp] theorem State.dropReq_cxlUp (s : State) (n : Nat) : (s.dropReq n).cxlUp = s.cxlUp := rfl
@[simp] theorem State.dropReq_hostLines (s : State) (n : Nat) : (s.dropReq n).hostLines = s.hostLines := rfl
@[simp] theorem State.dropReq_backInv (s : State) (n : Nat) : (s.dropReq n).backInv = s.backInv := rfl
@[simp] theorem State.dropReq_mailStatus (s : State) (n : Nat) : (s.dropReq n).mailStatus = s.mailStatus := rfl
@[simp] theorem State.dropReq_mailCommand (s : State) (n : Nat) : (s.dropReq n).mailCommand = s.mailCommand := rfl
@[simp] theorem State.dropReq_mailArea (s : State) (n : Nat) : (s.dropReq n).mailArea = s.mailArea := rfl
@[simp] theorem State.dropReq_hostRead (s : State) (n : Nat) : (s.dropReq n).hostRead = s.hostRead := rfl
@[simp] theorem State.dropReq_dies (s : State) (n : Nat) : (s.dropReq n).dies = s.dies := rfl
@[simp] theorem State.dropReq_cores (s : State) (n : Nat) : (s.dropReq n).cores = s.cores := rfl
@[simp] theorem State.dropReq_slots (s : State) (n : Nat) : (s.dropReq n).slots = s.slots := rfl
@[simp] theorem State.dropReq_descs (s : State) (n : Nat) : (s.dropReq n).descs = s.descs := rfl
@[simp] theorem State.dropReq_ctxs (s : State) (n : Nat) : (s.dropReq n).ctxs = s.ctxs := rfl
@[simp] theorem State.dropReq_ports (s : State) (n : Nat) : (s.dropReq n).ports = s.ports := rfl
@[simp] theorem State.dropReq_boundaries (s : State) (n : Nat) : (s.dropReq n).boundaries = s.boundaries := rfl
@[simp] theorem State.dropReq_deadPaths (s : State) (n : Nat) : (s.dropReq n).deadPaths = s.deadPaths := rfl
@[simp] theorem State.dropReq_cellar (s : State) (n : Nat) : (s.dropReq n).cellar = s.cellar := rfl
@[simp] theorem State.dropReq_msgs (s : State) (n : Nat) : (s.dropReq n).msgs = s.msgs := rfl
@[simp] theorem State.dropReq_staged (s : State) (n : Nat) : (s.dropReq n).staged = s.staged := rfl
@[simp] theorem State.dropReq_fabricOut (s : State) (n : Nat) : (s.dropReq n).fabricOut = s.fabricOut := rfl
@[simp] theorem State.dropReq_vc2Next (s : State) (n : Nat) : (s.dropReq n).vc2Next = s.vc2Next := rfl
@[simp] theorem State.dropReq_vc2Sent (s : State) (n : Nat) : (s.dropReq n).vc2Sent = s.vc2Sent := rfl
@[simp] theorem State.dropReq_vc2Taken (s : State) (n : Nat) : (s.dropReq n).vc2Taken = s.vc2Taken := rfl
@[simp] theorem State.dropReq_foreignResv (s : State) (n : Nat) : (s.dropReq n).foreignResv = s.foreignResv := rfl
@[simp] theorem State.dropReq_markers (s : State) (n : Nat) : (s.dropReq n).markers = s.markers := rfl
@[simp] theorem State.dropReq_mem (s : State) (n : Nat) : (s.dropReq n).mem = s.mem := rfl
@[simp] theorem State.dropReq_poison (s : State) (n : Nat) : (s.dropReq n).poison = s.poison := rfl
@[simp] theorem State.dropReq_homed (s : State) (n : Nat) : (s.dropReq n).homed = s.homed := rfl
@[simp] theorem State.dropReq_sends (s : State) (n : Nat) : (s.dropReq n).sends = s.sends := rfl
@[simp] theorem State.dropReq_sprayed (s : State) (n : Nat) : (s.dropReq n).sprayed = s.sprayed := rfl
@[simp] theorem State.dropReq_farDead (s : State) (n : Nat) : (s.dropReq n).farDead = s.farDead := rfl
@[simp] theorem State.dropReq_cuts (s : State) (n : Nat) : (s.dropReq n).cuts = s.cuts := rfl
@[simp] theorem State.dropReq_rxHeld (s : State) (n : Nat) : (s.dropReq n).rxHeld = s.rxHeld := rfl
@[simp] theorem State.dropReq_txHeld (s : State) (n : Nat) : (s.dropReq n).txHeld = s.txHeld := rfl
@[simp] theorem State.dropReq_vc2Path (s : State) (n : Nat) : (s.dropReq n).vc2Path = s.vc2Path := rfl
@[simp] theorem State.dropReq_pwrLog (s : State) (n : Nat) : (s.dropReq n).pwrLog = s.pwrLog := rfl
@[simp] theorem State.dropReq_mailPayload (s : State) (n : Nat) : (s.dropReq n).mailPayload = s.mailPayload := rfl

/-! `addReq`. -/
@[simp] theorem State.addReq_schedule (s : State) (r : Req) : (s.addReq r).schedule = s.schedule := rfl
@[simp] theorem State.addReq_arg (s : State) (r : Req) : (s.addReq r).arg = s.arg := rfl
@[simp] theorem State.addReq_cur (s : State) (r : Req) : (s.addReq r).cur = s.cur := rfl
@[simp] theorem State.addReq_insn (s : State) (r : Req) : (s.addReq r).insn = s.insn := rfl
@[simp] theorem State.addReq_strCur (s : State) (r : Req) : (s.addReq r).strCur = s.strCur := rfl
@[simp] theorem State.addReq_ceCur (s : State) (r : Req) : (s.addReq r).ceCur = s.ceCur := rfl
@[simp] theorem State.addReq_time (s : State) (r : Req) : (s.addReq r).time = s.time := rfl
@[simp] theorem State.addReq_freeCtr (s : State) (r : Req) : (s.addReq r).freeCtr = s.freeCtr := rfl
@[simp] theorem State.addReq_warmResets (s : State) (r : Req) : (s.addReq r).warmResets = s.warmResets := rfl
@[simp] theorem State.addReq_phase (s : State) (r : Req) : (s.addReq r).phase = s.phase := rfl
@[simp] theorem State.addReq_edOk (s : State) (r : Req) : (s.addReq r).edOk = s.edOk := rfl
@[simp] theorem State.addReq_mlOk (s : State) (r : Req) : (s.addReq r).mlOk = s.mlOk := rfl
@[simp] theorem State.addReq_stackMask (s : State) (r : Req) : (s.addReq r).stackMask = s.stackMask := rfl
@[simp] theorem State.addReq_device (s : State) (r : Req) : (s.addReq r).device = s.device := rfl
@[simp] theorem State.addReq_linkMode (s : State) (r : Req) : (s.addReq r).linkMode = s.linkMode := rfl
@[simp] theorem State.addReq_paths (s : State) (r : Req) : (s.addReq r).paths = s.paths := rfl
@[simp] theorem State.addReq_domSize (s : State) (r : Req) : (s.addReq r).domSize = s.domSize := rfl
@[simp] theorem State.addReq_pwrLimit (s : State) (r : Req) : (s.addReq r).pwrLimit = s.pwrLimit := rfl
@[simp] theorem State.addReq_flash (s : State) (r : Req) : (s.addReq r).flash = s.flash := rfl
@[simp] theorem State.addReq_fuses (s : State) (r : Req) : (s.addReq r).fuses = s.fuses := rfl
@[simp] theorem State.addReq_caps (s : State) (r : Req) : (s.addReq r).caps = s.caps := rfl
@[simp] theorem State.addReq_hflBusy (s : State) (r : Req) : (s.addReq r).hflBusy = s.hflBusy := rfl
@[simp] theorem State.addReq_hflAddr (s : State) (r : Req) : (s.addReq r).hflAddr = s.hflAddr := rfl
@[simp] theorem State.addReq_hflLen (s : State) (r : Req) : (s.addReq r).hflLen = s.hflLen := rfl
@[simp] theorem State.addReq_hflCtx (s : State) (r : Req) : (s.addReq r).hflCtx = s.hflCtx := rfl
@[simp] theorem State.addReq_hflFlag (s : State) (r : Req) : (s.addReq r).hflFlag = s.hflFlag := rfl
@[simp] theorem State.addReq_hapBase (s : State) (r : Req) : (s.addReq r).hapBase = s.hapBase := rfl
@[simp] theorem State.addReq_hapCtx (s : State) (r : Req) : (s.addReq r).hapCtx = s.hapCtx := rfl
@[simp] theorem State.addReq_hflWaits (s : State) (r : Req) : (s.addReq r).hflWaits = s.hflWaits := rfl
@[simp] theorem State.addReq_cxlUp (s : State) (r : Req) : (s.addReq r).cxlUp = s.cxlUp := rfl
@[simp] theorem State.addReq_hostLines (s : State) (r : Req) : (s.addReq r).hostLines = s.hostLines := rfl
@[simp] theorem State.addReq_backInv (s : State) (r : Req) : (s.addReq r).backInv = s.backInv := rfl
@[simp] theorem State.addReq_mailStatus (s : State) (r : Req) : (s.addReq r).mailStatus = s.mailStatus := rfl
@[simp] theorem State.addReq_mailCommand (s : State) (r : Req) : (s.addReq r).mailCommand = s.mailCommand := rfl
@[simp] theorem State.addReq_mailArea (s : State) (r : Req) : (s.addReq r).mailArea = s.mailArea := rfl
@[simp] theorem State.addReq_hostRead (s : State) (r : Req) : (s.addReq r).hostRead = s.hostRead := rfl
@[simp] theorem State.addReq_dies (s : State) (r : Req) : (s.addReq r).dies = s.dies := rfl
@[simp] theorem State.addReq_cores (s : State) (r : Req) : (s.addReq r).cores = s.cores := rfl
@[simp] theorem State.addReq_slots (s : State) (r : Req) : (s.addReq r).slots = s.slots := rfl
@[simp] theorem State.addReq_descs (s : State) (r : Req) : (s.addReq r).descs = s.descs := rfl
@[simp] theorem State.addReq_ctxs (s : State) (r : Req) : (s.addReq r).ctxs = s.ctxs := rfl
@[simp] theorem State.addReq_ports (s : State) (r : Req) : (s.addReq r).ports = s.ports := rfl
@[simp] theorem State.addReq_boundaries (s : State) (r : Req) : (s.addReq r).boundaries = s.boundaries := rfl
@[simp] theorem State.addReq_deadPaths (s : State) (r : Req) : (s.addReq r).deadPaths = s.deadPaths := rfl
@[simp] theorem State.addReq_cellar (s : State) (r : Req) : (s.addReq r).cellar = s.cellar := rfl
@[simp] theorem State.addReq_msgs (s : State) (r : Req) : (s.addReq r).msgs = s.msgs := rfl
@[simp] theorem State.addReq_staged (s : State) (r : Req) : (s.addReq r).staged = s.staged := rfl
@[simp] theorem State.addReq_fabricOut (s : State) (r : Req) : (s.addReq r).fabricOut = s.fabricOut := rfl
@[simp] theorem State.addReq_vc2Next (s : State) (r : Req) : (s.addReq r).vc2Next = s.vc2Next := rfl
@[simp] theorem State.addReq_vc2Sent (s : State) (r : Req) : (s.addReq r).vc2Sent = s.vc2Sent := rfl
@[simp] theorem State.addReq_vc2Taken (s : State) (r : Req) : (s.addReq r).vc2Taken = s.vc2Taken := rfl
@[simp] theorem State.addReq_foreignResv (s : State) (r : Req) : (s.addReq r).foreignResv = s.foreignResv := rfl
@[simp] theorem State.addReq_markers (s : State) (r : Req) : (s.addReq r).markers = s.markers := rfl
@[simp] theorem State.addReq_mem (s : State) (r : Req) : (s.addReq r).mem = s.mem := rfl
@[simp] theorem State.addReq_poison (s : State) (r : Req) : (s.addReq r).poison = s.poison := rfl
@[simp] theorem State.addReq_homed (s : State) (r : Req) : (s.addReq r).homed = s.homed := rfl
@[simp] theorem State.addReq_sends (s : State) (r : Req) : (s.addReq r).sends = s.sends := rfl
@[simp] theorem State.addReq_sprayed (s : State) (r : Req) : (s.addReq r).sprayed = s.sprayed := rfl
@[simp] theorem State.addReq_farDead (s : State) (r : Req) : (s.addReq r).farDead = s.farDead := rfl
@[simp] theorem State.addReq_cuts (s : State) (r : Req) : (s.addReq r).cuts = s.cuts := rfl
@[simp] theorem State.addReq_rxHeld (s : State) (r : Req) : (s.addReq r).rxHeld = s.rxHeld := rfl
@[simp] theorem State.addReq_txHeld (s : State) (r : Req) : (s.addReq r).txHeld = s.txHeld := rfl
@[simp] theorem State.addReq_vc2Path (s : State) (r : Req) : (s.addReq r).vc2Path = s.vc2Path := rfl
@[simp] theorem State.addReq_pwrLog (s : State) (r : Req) : (s.addReq r).pwrLog = s.pwrLog := rfl
@[simp] theorem State.addReq_mailPayload (s : State) (r : Req) : (s.addReq r).mailPayload = s.mailPayload := rfl

/-! `send`. -/
@[simp] theorem State.send_schedule (s : State) (d : DieId) (b : MsgBody) : (s.send d b).schedule = s.schedule := rfl
@[simp] theorem State.send_arg (s : State) (d : DieId) (b : MsgBody) : (s.send d b).arg = s.arg := rfl
@[simp] theorem State.send_cur (s : State) (d : DieId) (b : MsgBody) : (s.send d b).cur = s.cur := rfl
@[simp] theorem State.send_insn (s : State) (d : DieId) (b : MsgBody) : (s.send d b).insn = s.insn := rfl
@[simp] theorem State.send_strCur (s : State) (d : DieId) (b : MsgBody) : (s.send d b).strCur = s.strCur := rfl
@[simp] theorem State.send_ceCur (s : State) (d : DieId) (b : MsgBody) : (s.send d b).ceCur = s.ceCur := rfl
@[simp] theorem State.send_time (s : State) (d : DieId) (b : MsgBody) : (s.send d b).time = s.time := rfl
@[simp] theorem State.send_freeCtr (s : State) (d : DieId) (b : MsgBody) : (s.send d b).freeCtr = s.freeCtr := rfl
@[simp] theorem State.send_warmResets (s : State) (d : DieId) (b : MsgBody) : (s.send d b).warmResets = s.warmResets := rfl
@[simp] theorem State.send_phase (s : State) (d : DieId) (b : MsgBody) : (s.send d b).phase = s.phase := rfl
@[simp] theorem State.send_edOk (s : State) (d : DieId) (b : MsgBody) : (s.send d b).edOk = s.edOk := rfl
@[simp] theorem State.send_mlOk (s : State) (d : DieId) (b : MsgBody) : (s.send d b).mlOk = s.mlOk := rfl
@[simp] theorem State.send_stackMask (s : State) (d : DieId) (b : MsgBody) : (s.send d b).stackMask = s.stackMask := rfl
@[simp] theorem State.send_device (s : State) (d : DieId) (b : MsgBody) : (s.send d b).device = s.device := rfl
@[simp] theorem State.send_linkMode (s : State) (d : DieId) (b : MsgBody) : (s.send d b).linkMode = s.linkMode := rfl
@[simp] theorem State.send_paths (s : State) (d : DieId) (b : MsgBody) : (s.send d b).paths = s.paths := rfl
@[simp] theorem State.send_domSize (s : State) (d : DieId) (b : MsgBody) : (s.send d b).domSize = s.domSize := rfl
@[simp] theorem State.send_pwrLimit (s : State) (d : DieId) (b : MsgBody) : (s.send d b).pwrLimit = s.pwrLimit := rfl
@[simp] theorem State.send_flash (s : State) (d : DieId) (b : MsgBody) : (s.send d b).flash = s.flash := rfl
@[simp] theorem State.send_fuses (s : State) (d : DieId) (b : MsgBody) : (s.send d b).fuses = s.fuses := rfl
@[simp] theorem State.send_caps (s : State) (d : DieId) (b : MsgBody) : (s.send d b).caps = s.caps := rfl
@[simp] theorem State.send_hflBusy (s : State) (d : DieId) (b : MsgBody) : (s.send d b).hflBusy = s.hflBusy := rfl
@[simp] theorem State.send_hflAddr (s : State) (d : DieId) (b : MsgBody) : (s.send d b).hflAddr = s.hflAddr := rfl
@[simp] theorem State.send_hflLen (s : State) (d : DieId) (b : MsgBody) : (s.send d b).hflLen = s.hflLen := rfl
@[simp] theorem State.send_hflCtx (s : State) (d : DieId) (b : MsgBody) : (s.send d b).hflCtx = s.hflCtx := rfl
@[simp] theorem State.send_hflFlag (s : State) (d : DieId) (b : MsgBody) : (s.send d b).hflFlag = s.hflFlag := rfl
@[simp] theorem State.send_hapBase (s : State) (d : DieId) (b : MsgBody) : (s.send d b).hapBase = s.hapBase := rfl
@[simp] theorem State.send_hapCtx (s : State) (d : DieId) (b : MsgBody) : (s.send d b).hapCtx = s.hapCtx := rfl
@[simp] theorem State.send_hflWaits (s : State) (d : DieId) (b : MsgBody) : (s.send d b).hflWaits = s.hflWaits := rfl
@[simp] theorem State.send_cxlUp (s : State) (d : DieId) (b : MsgBody) : (s.send d b).cxlUp = s.cxlUp := rfl
@[simp] theorem State.send_hostLines (s : State) (d : DieId) (b : MsgBody) : (s.send d b).hostLines = s.hostLines := rfl
@[simp] theorem State.send_backInv (s : State) (d : DieId) (b : MsgBody) : (s.send d b).backInv = s.backInv := rfl
@[simp] theorem State.send_mailStatus (s : State) (d : DieId) (b : MsgBody) : (s.send d b).mailStatus = s.mailStatus := rfl
@[simp] theorem State.send_mailCommand (s : State) (d : DieId) (b : MsgBody) : (s.send d b).mailCommand = s.mailCommand := rfl
@[simp] theorem State.send_mailArea (s : State) (d : DieId) (b : MsgBody) : (s.send d b).mailArea = s.mailArea := rfl
@[simp] theorem State.send_hostRead (s : State) (d : DieId) (b : MsgBody) : (s.send d b).hostRead = s.hostRead := rfl
@[simp] theorem State.send_dies (s : State) (d : DieId) (b : MsgBody) : (s.send d b).dies = s.dies := rfl
@[simp] theorem State.send_cores (s : State) (d : DieId) (b : MsgBody) : (s.send d b).cores = s.cores := rfl
@[simp] theorem State.send_slots (s : State) (d : DieId) (b : MsgBody) : (s.send d b).slots = s.slots := rfl
@[simp] theorem State.send_descs (s : State) (d : DieId) (b : MsgBody) : (s.send d b).descs = s.descs := rfl
@[simp] theorem State.send_ctxs (s : State) (d : DieId) (b : MsgBody) : (s.send d b).ctxs = s.ctxs := rfl
@[simp] theorem State.send_ports (s : State) (d : DieId) (b : MsgBody) : (s.send d b).ports = s.ports := rfl
@[simp] theorem State.send_boundaries (s : State) (d : DieId) (b : MsgBody) : (s.send d b).boundaries = s.boundaries := rfl
@[simp] theorem State.send_deadPaths (s : State) (d : DieId) (b : MsgBody) : (s.send d b).deadPaths = s.deadPaths := rfl
@[simp] theorem State.send_cellar (s : State) (d : DieId) (b : MsgBody) : (s.send d b).cellar = s.cellar := rfl
@[simp] theorem State.send_reqs (s : State) (d : DieId) (b : MsgBody) : (s.send d b).reqs = s.reqs := rfl
@[simp] theorem State.send_staged (s : State) (d : DieId) (b : MsgBody) : (s.send d b).staged = s.staged := rfl
@[simp] theorem State.send_fabricOut (s : State) (d : DieId) (b : MsgBody) : (s.send d b).fabricOut = s.fabricOut := rfl
@[simp] theorem State.send_vc2Next (s : State) (d : DieId) (b : MsgBody) : (s.send d b).vc2Next = s.vc2Next := rfl
@[simp] theorem State.send_vc2Sent (s : State) (d : DieId) (b : MsgBody) : (s.send d b).vc2Sent = s.vc2Sent := rfl
@[simp] theorem State.send_vc2Taken (s : State) (d : DieId) (b : MsgBody) : (s.send d b).vc2Taken = s.vc2Taken := rfl
@[simp] theorem State.send_foreignResv (s : State) (d : DieId) (b : MsgBody) : (s.send d b).foreignResv = s.foreignResv := rfl
@[simp] theorem State.send_markers (s : State) (d : DieId) (b : MsgBody) : (s.send d b).markers = s.markers := rfl
@[simp] theorem State.send_mem (s : State) (d : DieId) (b : MsgBody) : (s.send d b).mem = s.mem := rfl
@[simp] theorem State.send_poison (s : State) (d : DieId) (b : MsgBody) : (s.send d b).poison = s.poison := rfl
@[simp] theorem State.send_homed (s : State) (d : DieId) (b : MsgBody) : (s.send d b).homed = s.homed := rfl
@[simp] theorem State.send_sends (s : State) (d : DieId) (b : MsgBody) : (s.send d b).sends = s.sends := rfl
@[simp] theorem State.send_sprayed (s : State) (d : DieId) (b : MsgBody) : (s.send d b).sprayed = s.sprayed := rfl
@[simp] theorem State.send_farDead (s : State) (d : DieId) (b : MsgBody) : (s.send d b).farDead = s.farDead := rfl
@[simp] theorem State.send_cuts (s : State) (d : DieId) (b : MsgBody) : (s.send d b).cuts = s.cuts := rfl
@[simp] theorem State.send_rxHeld (s : State) (d : DieId) (b : MsgBody) : (s.send d b).rxHeld = s.rxHeld := rfl
@[simp] theorem State.send_txHeld (s : State) (d : DieId) (b : MsgBody) : (s.send d b).txHeld = s.txHeld := rfl
@[simp] theorem State.send_vc2Path (s : State) (d : DieId) (b : MsgBody) : (s.send d b).vc2Path = s.vc2Path := rfl
@[simp] theorem State.send_pwrLog (s : State) (d : DieId) (b : MsgBody) : (s.send d b).pwrLog = s.pwrLog := rfl
@[simp] theorem State.send_mailPayload (s : State) (d : DieId) (b : MsgBody) : (s.send d b).mailPayload = s.mailPayload := rfl

/-! `dropMsg`. -/
@[simp] theorem State.dropMsg_schedule (s : State) (n : Nat) : (s.dropMsg n).schedule = s.schedule := rfl
@[simp] theorem State.dropMsg_arg (s : State) (n : Nat) : (s.dropMsg n).arg = s.arg := rfl
@[simp] theorem State.dropMsg_cur (s : State) (n : Nat) : (s.dropMsg n).cur = s.cur := rfl
@[simp] theorem State.dropMsg_insn (s : State) (n : Nat) : (s.dropMsg n).insn = s.insn := rfl
@[simp] theorem State.dropMsg_strCur (s : State) (n : Nat) : (s.dropMsg n).strCur = s.strCur := rfl
@[simp] theorem State.dropMsg_ceCur (s : State) (n : Nat) : (s.dropMsg n).ceCur = s.ceCur := rfl
@[simp] theorem State.dropMsg_time (s : State) (n : Nat) : (s.dropMsg n).time = s.time := rfl
@[simp] theorem State.dropMsg_nextId (s : State) (n : Nat) : (s.dropMsg n).nextId = s.nextId := rfl
@[simp] theorem State.dropMsg_freeCtr (s : State) (n : Nat) : (s.dropMsg n).freeCtr = s.freeCtr := rfl
@[simp] theorem State.dropMsg_warmResets (s : State) (n : Nat) : (s.dropMsg n).warmResets = s.warmResets := rfl
@[simp] theorem State.dropMsg_phase (s : State) (n : Nat) : (s.dropMsg n).phase = s.phase := rfl
@[simp] theorem State.dropMsg_edOk (s : State) (n : Nat) : (s.dropMsg n).edOk = s.edOk := rfl
@[simp] theorem State.dropMsg_mlOk (s : State) (n : Nat) : (s.dropMsg n).mlOk = s.mlOk := rfl
@[simp] theorem State.dropMsg_stackMask (s : State) (n : Nat) : (s.dropMsg n).stackMask = s.stackMask := rfl
@[simp] theorem State.dropMsg_device (s : State) (n : Nat) : (s.dropMsg n).device = s.device := rfl
@[simp] theorem State.dropMsg_linkMode (s : State) (n : Nat) : (s.dropMsg n).linkMode = s.linkMode := rfl
@[simp] theorem State.dropMsg_paths (s : State) (n : Nat) : (s.dropMsg n).paths = s.paths := rfl
@[simp] theorem State.dropMsg_domSize (s : State) (n : Nat) : (s.dropMsg n).domSize = s.domSize := rfl
@[simp] theorem State.dropMsg_pwrLimit (s : State) (n : Nat) : (s.dropMsg n).pwrLimit = s.pwrLimit := rfl
@[simp] theorem State.dropMsg_flash (s : State) (n : Nat) : (s.dropMsg n).flash = s.flash := rfl
@[simp] theorem State.dropMsg_fuses (s : State) (n : Nat) : (s.dropMsg n).fuses = s.fuses := rfl
@[simp] theorem State.dropMsg_caps (s : State) (n : Nat) : (s.dropMsg n).caps = s.caps := rfl
@[simp] theorem State.dropMsg_hflBusy (s : State) (n : Nat) : (s.dropMsg n).hflBusy = s.hflBusy := rfl
@[simp] theorem State.dropMsg_hflAddr (s : State) (n : Nat) : (s.dropMsg n).hflAddr = s.hflAddr := rfl
@[simp] theorem State.dropMsg_hflLen (s : State) (n : Nat) : (s.dropMsg n).hflLen = s.hflLen := rfl
@[simp] theorem State.dropMsg_hflCtx (s : State) (n : Nat) : (s.dropMsg n).hflCtx = s.hflCtx := rfl
@[simp] theorem State.dropMsg_hflFlag (s : State) (n : Nat) : (s.dropMsg n).hflFlag = s.hflFlag := rfl
@[simp] theorem State.dropMsg_hapBase (s : State) (n : Nat) : (s.dropMsg n).hapBase = s.hapBase := rfl
@[simp] theorem State.dropMsg_hapCtx (s : State) (n : Nat) : (s.dropMsg n).hapCtx = s.hapCtx := rfl
@[simp] theorem State.dropMsg_hflWaits (s : State) (n : Nat) : (s.dropMsg n).hflWaits = s.hflWaits := rfl
@[simp] theorem State.dropMsg_cxlUp (s : State) (n : Nat) : (s.dropMsg n).cxlUp = s.cxlUp := rfl
@[simp] theorem State.dropMsg_hostLines (s : State) (n : Nat) : (s.dropMsg n).hostLines = s.hostLines := rfl
@[simp] theorem State.dropMsg_backInv (s : State) (n : Nat) : (s.dropMsg n).backInv = s.backInv := rfl
@[simp] theorem State.dropMsg_mailStatus (s : State) (n : Nat) : (s.dropMsg n).mailStatus = s.mailStatus := rfl
@[simp] theorem State.dropMsg_mailCommand (s : State) (n : Nat) : (s.dropMsg n).mailCommand = s.mailCommand := rfl
@[simp] theorem State.dropMsg_mailArea (s : State) (n : Nat) : (s.dropMsg n).mailArea = s.mailArea := rfl
@[simp] theorem State.dropMsg_hostRead (s : State) (n : Nat) : (s.dropMsg n).hostRead = s.hostRead := rfl
@[simp] theorem State.dropMsg_dies (s : State) (n : Nat) : (s.dropMsg n).dies = s.dies := rfl
@[simp] theorem State.dropMsg_cores (s : State) (n : Nat) : (s.dropMsg n).cores = s.cores := rfl
@[simp] theorem State.dropMsg_slots (s : State) (n : Nat) : (s.dropMsg n).slots = s.slots := rfl
@[simp] theorem State.dropMsg_descs (s : State) (n : Nat) : (s.dropMsg n).descs = s.descs := rfl
@[simp] theorem State.dropMsg_ctxs (s : State) (n : Nat) : (s.dropMsg n).ctxs = s.ctxs := rfl
@[simp] theorem State.dropMsg_ports (s : State) (n : Nat) : (s.dropMsg n).ports = s.ports := rfl
@[simp] theorem State.dropMsg_boundaries (s : State) (n : Nat) : (s.dropMsg n).boundaries = s.boundaries := rfl
@[simp] theorem State.dropMsg_deadPaths (s : State) (n : Nat) : (s.dropMsg n).deadPaths = s.deadPaths := rfl
@[simp] theorem State.dropMsg_cellar (s : State) (n : Nat) : (s.dropMsg n).cellar = s.cellar := rfl
@[simp] theorem State.dropMsg_reqs (s : State) (n : Nat) : (s.dropMsg n).reqs = s.reqs := rfl
@[simp] theorem State.dropMsg_staged (s : State) (n : Nat) : (s.dropMsg n).staged = s.staged := rfl
@[simp] theorem State.dropMsg_fabricOut (s : State) (n : Nat) : (s.dropMsg n).fabricOut = s.fabricOut := rfl
@[simp] theorem State.dropMsg_vc2Next (s : State) (n : Nat) : (s.dropMsg n).vc2Next = s.vc2Next := rfl
@[simp] theorem State.dropMsg_vc2Sent (s : State) (n : Nat) : (s.dropMsg n).vc2Sent = s.vc2Sent := rfl
@[simp] theorem State.dropMsg_vc2Taken (s : State) (n : Nat) : (s.dropMsg n).vc2Taken = s.vc2Taken := rfl
@[simp] theorem State.dropMsg_foreignResv (s : State) (n : Nat) : (s.dropMsg n).foreignResv = s.foreignResv := rfl
@[simp] theorem State.dropMsg_markers (s : State) (n : Nat) : (s.dropMsg n).markers = s.markers := rfl
@[simp] theorem State.dropMsg_mem (s : State) (n : Nat) : (s.dropMsg n).mem = s.mem := rfl
@[simp] theorem State.dropMsg_poison (s : State) (n : Nat) : (s.dropMsg n).poison = s.poison := rfl
@[simp] theorem State.dropMsg_homed (s : State) (n : Nat) : (s.dropMsg n).homed = s.homed := rfl
@[simp] theorem State.dropMsg_sends (s : State) (n : Nat) : (s.dropMsg n).sends = s.sends := rfl
@[simp] theorem State.dropMsg_sprayed (s : State) (n : Nat) : (s.dropMsg n).sprayed = s.sprayed := rfl
@[simp] theorem State.dropMsg_farDead (s : State) (n : Nat) : (s.dropMsg n).farDead = s.farDead := rfl
@[simp] theorem State.dropMsg_cuts (s : State) (n : Nat) : (s.dropMsg n).cuts = s.cuts := rfl
@[simp] theorem State.dropMsg_rxHeld (s : State) (n : Nat) : (s.dropMsg n).rxHeld = s.rxHeld := rfl
@[simp] theorem State.dropMsg_txHeld (s : State) (n : Nat) : (s.dropMsg n).txHeld = s.txHeld := rfl
@[simp] theorem State.dropMsg_vc2Path (s : State) (n : Nat) : (s.dropMsg n).vc2Path = s.vc2Path := rfl
@[simp] theorem State.dropMsg_pwrLog (s : State) (n : Nat) : (s.dropMsg n).pwrLog = s.pwrLog := rfl
@[simp] theorem State.dropMsg_mailPayload (s : State) (n : Nat) : (s.dropMsg n).mailPayload = s.mailPayload := rfl

/-! `Hart.advance`. -/
@[simp] theorem Hart.advance_st (h : Hart) : h.advance.st = h.st := rfl
@[simp] theorem Hart.advance_heldFrom (h : Hart) : h.advance.heldFrom = h.heldFrom := rfl
@[simp] theorem Hart.advance_wait (h : Hart) : h.advance.wait = h.wait := rfl
@[simp] theorem Hart.advance_job (h : Hart) : h.advance.job = h.job := rfl
@[simp] theorem Hart.advance_issueFrom (h : Hart) : h.advance.issueFrom = h.issueFrom := rfl
@[simp] theorem Hart.advance_jobDue (h : Hart) : h.advance.jobDue = h.jobDue := rfl
@[simp] theorem Hart.advance_x (h : Hart) : h.advance.x = h.x := rfl
@[simp] theorem Hart.advance_xFull (h : Hart) : h.advance.xFull = h.xFull := rfl
@[simp] theorem Hart.advance_q (h : Hart) : h.advance.q = h.q := rfl
@[simp] theorem Hart.advance_qFull (h : Hart) : h.advance.qFull = h.qFull := rfl
@[simp] theorem Hart.advance_mode (h : Hart) : h.advance.mode = h.mode := rfl
@[simp] theorem Hart.advance_quantumCount (h : Hart) : h.advance.quantumCount = h.quantumCount := rfl
@[simp] theorem Hart.advance_quantumSince (h : Hart) : h.advance.quantumSince = h.quantumSince := rfl
@[simp] theorem Hart.advance_exitVal (h : Hart) : h.advance.exitVal = h.exitVal := rfl
@[simp] theorem Hart.advance_ended (h : Hart) : h.advance.ended = h.ended := rfl
@[simp] theorem Hart.advance_resv (h : Hart) : h.advance.resv = h.resv := rfl
@[simp] theorem Hart.advance_ports (h : Hart) : h.advance.ports = h.ports := rfl
@[simp] theorem Hart.advance_seq (h : Hart) : h.advance.seq = h.seq := rfl
@[simp] theorem Hart.advance_ring (h : Hart) : h.advance.ring = h.ring := rfl
@[simp] theorem Hart.advance_flights (h : Hart) : h.advance.flights = h.flights := rfl
@[simp] theorem Hart.advance_arrived (h : Hart) : h.advance.arrived = h.arrived := rfl
@[simp] theorem Hart.advance_pending (h : Hart) : h.advance.pending = h.pending := rfl
@[simp] theorem Hart.advance_upcalls (h : Hart) : h.advance.upcalls = h.upcalls := rfl
@[simp] theorem Hart.advance_upReserved (h : Hart) : h.advance.upReserved = h.upReserved := rfl
@[simp] theorem Hart.advance_holdAll (h : Hart) : h.advance.holdAll = h.holdAll := rfl
@[simp] theorem Hart.advance_holdWrites (h : Hart) : h.advance.holdWrites = h.holdWrites := rfl
@[simp] theorem Hart.advance_lines (h : Hart) : h.advance.lines = h.lines := rfl
@[simp] theorem Hart.advance_fetching (h : Hart) : h.advance.fetching = h.fetching := rfl
@[simp] theorem Hart.advance_windowsUsed (h : Hart) : h.advance.windowsUsed = h.windowsUsed := rfl
@[simp] theorem Hart.advance_lr (h : Hart) : h.advance.lr = h.lr := rfl
@[simp] theorem Hart.advance_loaded (h : Hart) : h.advance.loaded = h.loaded := rfl
@[simp] theorem Hart.advance_gbars (h : Hart) : h.advance.gbars = h.gbars := rfl
@[simp] theorem Hart.advance_fetched (h : Hart) : h.advance.fetched = h.fetched := rfl
@[simp] theorem Hart.advance_upsets (h : Hart) : h.advance.upsets = h.upsets := rfl

/-! `Hart.fill`. -/
@[simp] theorem Hart.fill_st (h : Hart) (r : Reg) (v : Word) : (h.fill r v).st = h.st := by
  unfold Hart.fill; split <;> rfl
@[simp] theorem Hart.fill_heldFrom (h : Hart) (r : Reg) (v : Word) : (h.fill r v).heldFrom = h.heldFrom := by
  unfold Hart.fill; split <;> rfl
@[simp] theorem Hart.fill_wait (h : Hart) (r : Reg) (v : Word) : (h.fill r v).wait = h.wait := by
  unfold Hart.fill; split <;> rfl
@[simp] theorem Hart.fill_job (h : Hart) (r : Reg) (v : Word) : (h.fill r v).job = h.job := by
  unfold Hart.fill; split <;> rfl
@[simp] theorem Hart.fill_issueFrom (h : Hart) (r : Reg) (v : Word) : (h.fill r v).issueFrom = h.issueFrom := by
  unfold Hart.fill; split <;> rfl
@[simp] theorem Hart.fill_jobDue (h : Hart) (r : Reg) (v : Word) : (h.fill r v).jobDue = h.jobDue := by
  unfold Hart.fill; split <;> rfl
@[simp] theorem Hart.fill_q (h : Hart) (r : Reg) (v : Word) : (h.fill r v).q = h.q := by
  unfold Hart.fill; split <;> rfl
@[simp] theorem Hart.fill_qFull (h : Hart) (r : Reg) (v : Word) : (h.fill r v).qFull = h.qFull := by
  unfold Hart.fill; split <;> rfl
@[simp] theorem Hart.fill_pc (h : Hart) (r : Reg) (v : Word) : (h.fill r v).pc = h.pc := by
  unfold Hart.fill; split <;> rfl
@[simp] theorem Hart.fill_mode (h : Hart) (r : Reg) (v : Word) : (h.fill r v).mode = h.mode := by
  unfold Hart.fill; split <;> rfl
@[simp] theorem Hart.fill_csr (h : Hart) (r : Reg) (v : Word) : (h.fill r v).csr = h.csr := by
  unfold Hart.fill; split <;> rfl
@[simp] theorem Hart.fill_quantumCount (h : Hart) (r : Reg) (v : Word) : (h.fill r v).quantumCount = h.quantumCount := by
  unfold Hart.fill; split <;> rfl
@[simp] theorem Hart.fill_quantumSince (h : Hart) (r : Reg) (v : Word) : (h.fill r v).quantumSince = h.quantumSince := by
  unfold Hart.fill; split <;> rfl
@[simp] theorem Hart.fill_exitVal (h : Hart) (r : Reg) (v : Word) : (h.fill r v).exitVal = h.exitVal := by
  unfold Hart.fill; split <;> rfl
@[simp] theorem Hart.fill_ended (h : Hart) (r : Reg) (v : Word) : (h.fill r v).ended = h.ended := by
  unfold Hart.fill; split <;> rfl
@[simp] theorem Hart.fill_resv (h : Hart) (r : Reg) (v : Word) : (h.fill r v).resv = h.resv := by
  unfold Hart.fill; split <;> rfl
@[simp] theorem Hart.fill_ports (h : Hart) (r : Reg) (v : Word) : (h.fill r v).ports = h.ports := by
  unfold Hart.fill; split <;> rfl
@[simp] theorem Hart.fill_seq (h : Hart) (r : Reg) (v : Word) : (h.fill r v).seq = h.seq := by
  unfold Hart.fill; split <;> rfl
@[simp] theorem Hart.fill_ring (h : Hart) (r : Reg) (v : Word) : (h.fill r v).ring = h.ring := by
  unfold Hart.fill; split <;> rfl
@[simp] theorem Hart.fill_flights (h : Hart) (r : Reg) (v : Word) : (h.fill r v).flights = h.flights := by
  unfold Hart.fill; split <;> rfl
@[simp] theorem Hart.fill_arrived (h : Hart) (r : Reg) (v : Word) : (h.fill r v).arrived = h.arrived := by
  unfold Hart.fill; split <;> rfl
@[simp] theorem Hart.fill_pending (h : Hart) (r : Reg) (v : Word) : (h.fill r v).pending = h.pending := by
  unfold Hart.fill; split <;> rfl
@[simp] theorem Hart.fill_upcalls (h : Hart) (r : Reg) (v : Word) : (h.fill r v).upcalls = h.upcalls := by
  unfold Hart.fill; split <;> rfl
@[simp] theorem Hart.fill_upReserved (h : Hart) (r : Reg) (v : Word) : (h.fill r v).upReserved = h.upReserved := by
  unfold Hart.fill; split <;> rfl
@[simp] theorem Hart.fill_holdAll (h : Hart) (r : Reg) (v : Word) : (h.fill r v).holdAll = h.holdAll := by
  unfold Hart.fill; split <;> rfl
@[simp] theorem Hart.fill_holdWrites (h : Hart) (r : Reg) (v : Word) : (h.fill r v).holdWrites = h.holdWrites := by
  unfold Hart.fill; split <;> rfl
@[simp] theorem Hart.fill_lines (h : Hart) (r : Reg) (v : Word) : (h.fill r v).lines = h.lines := by
  unfold Hart.fill; split <;> rfl
@[simp] theorem Hart.fill_fetching (h : Hart) (r : Reg) (v : Word) : (h.fill r v).fetching = h.fetching := by
  unfold Hart.fill; split <;> rfl
@[simp] theorem Hart.fill_windowsUsed (h : Hart) (r : Reg) (v : Word) : (h.fill r v).windowsUsed = h.windowsUsed := by
  unfold Hart.fill; split <;> rfl
@[simp] theorem Hart.fill_lr (h : Hart) (r : Reg) (v : Word) : (h.fill r v).lr = h.lr := by
  unfold Hart.fill; split <;> rfl
@[simp] theorem Hart.fill_loaded (h : Hart) (r : Reg) (v : Word) : (h.fill r v).loaded = h.loaded := by
  unfold Hart.fill; split <;> rfl
@[simp] theorem Hart.fill_gbars (h : Hart) (r : Reg) (v : Word) : (h.fill r v).gbars = h.gbars := by
  unfold Hart.fill; split <;> rfl
@[simp] theorem Hart.fill_fetched (h : Hart) (r : Reg) (v : Word) : (h.fill r v).fetched = h.fetched := by
  unfold Hart.fill; split <;> rfl
@[simp] theorem Hart.fill_upsets (h : Hart) (r : Reg) (v : Word) : (h.fill r v).upsets = h.upsets := by
  unfold Hart.fill; split <;> rfl

/-! `Hart.empty`. -/
@[simp] theorem Hart.empty_st (h : Hart) (r : Reg) : (h.empty r).st = h.st := by
  unfold Hart.empty; split <;> rfl
@[simp] theorem Hart.empty_heldFrom (h : Hart) (r : Reg) : (h.empty r).heldFrom = h.heldFrom := by
  unfold Hart.empty; split <;> rfl
@[simp] theorem Hart.empty_wait (h : Hart) (r : Reg) : (h.empty r).wait = h.wait := by
  unfold Hart.empty; split <;> rfl
@[simp] theorem Hart.empty_job (h : Hart) (r : Reg) : (h.empty r).job = h.job := by
  unfold Hart.empty; split <;> rfl
@[simp] theorem Hart.empty_issueFrom (h : Hart) (r : Reg) : (h.empty r).issueFrom = h.issueFrom := by
  unfold Hart.empty; split <;> rfl
@[simp] theorem Hart.empty_jobDue (h : Hart) (r : Reg) : (h.empty r).jobDue = h.jobDue := by
  unfold Hart.empty; split <;> rfl
@[simp] theorem Hart.empty_x (h : Hart) (r : Reg) : (h.empty r).x = h.x := by
  unfold Hart.empty; split <;> rfl
@[simp] theorem Hart.empty_q (h : Hart) (r : Reg) : (h.empty r).q = h.q := by
  unfold Hart.empty; split <;> rfl
@[simp] theorem Hart.empty_qFull (h : Hart) (r : Reg) : (h.empty r).qFull = h.qFull := by
  unfold Hart.empty; split <;> rfl
@[simp] theorem Hart.empty_pc (h : Hart) (r : Reg) : (h.empty r).pc = h.pc := by
  unfold Hart.empty; split <;> rfl
@[simp] theorem Hart.empty_mode (h : Hart) (r : Reg) : (h.empty r).mode = h.mode := by
  unfold Hart.empty; split <;> rfl
@[simp] theorem Hart.empty_csr (h : Hart) (r : Reg) : (h.empty r).csr = h.csr := by
  unfold Hart.empty; split <;> rfl
@[simp] theorem Hart.empty_quantumCount (h : Hart) (r : Reg) : (h.empty r).quantumCount = h.quantumCount := by
  unfold Hart.empty; split <;> rfl
@[simp] theorem Hart.empty_quantumSince (h : Hart) (r : Reg) : (h.empty r).quantumSince = h.quantumSince := by
  unfold Hart.empty; split <;> rfl
@[simp] theorem Hart.empty_exitVal (h : Hart) (r : Reg) : (h.empty r).exitVal = h.exitVal := by
  unfold Hart.empty; split <;> rfl
@[simp] theorem Hart.empty_ended (h : Hart) (r : Reg) : (h.empty r).ended = h.ended := by
  unfold Hart.empty; split <;> rfl
@[simp] theorem Hart.empty_resv (h : Hart) (r : Reg) : (h.empty r).resv = h.resv := by
  unfold Hart.empty; split <;> rfl
@[simp] theorem Hart.empty_ports (h : Hart) (r : Reg) : (h.empty r).ports = h.ports := by
  unfold Hart.empty; split <;> rfl
@[simp] theorem Hart.empty_seq (h : Hart) (r : Reg) : (h.empty r).seq = h.seq := by
  unfold Hart.empty; split <;> rfl
@[simp] theorem Hart.empty_ring (h : Hart) (r : Reg) : (h.empty r).ring = h.ring := by
  unfold Hart.empty; split <;> rfl
@[simp] theorem Hart.empty_flights (h : Hart) (r : Reg) : (h.empty r).flights = h.flights := by
  unfold Hart.empty; split <;> rfl
@[simp] theorem Hart.empty_arrived (h : Hart) (r : Reg) : (h.empty r).arrived = h.arrived := by
  unfold Hart.empty; split <;> rfl
@[simp] theorem Hart.empty_pending (h : Hart) (r : Reg) : (h.empty r).pending = h.pending := by
  unfold Hart.empty; split <;> rfl
@[simp] theorem Hart.empty_upcalls (h : Hart) (r : Reg) : (h.empty r).upcalls = h.upcalls := by
  unfold Hart.empty; split <;> rfl
@[simp] theorem Hart.empty_upReserved (h : Hart) (r : Reg) : (h.empty r).upReserved = h.upReserved := by
  unfold Hart.empty; split <;> rfl
@[simp] theorem Hart.empty_holdAll (h : Hart) (r : Reg) : (h.empty r).holdAll = h.holdAll := by
  unfold Hart.empty; split <;> rfl
@[simp] theorem Hart.empty_holdWrites (h : Hart) (r : Reg) : (h.empty r).holdWrites = h.holdWrites := by
  unfold Hart.empty; split <;> rfl
@[simp] theorem Hart.empty_lines (h : Hart) (r : Reg) : (h.empty r).lines = h.lines := by
  unfold Hart.empty; split <;> rfl
@[simp] theorem Hart.empty_fetching (h : Hart) (r : Reg) : (h.empty r).fetching = h.fetching := by
  unfold Hart.empty; split <;> rfl
@[simp] theorem Hart.empty_windowsUsed (h : Hart) (r : Reg) : (h.empty r).windowsUsed = h.windowsUsed := by
  unfold Hart.empty; split <;> rfl
@[simp] theorem Hart.empty_lr (h : Hart) (r : Reg) : (h.empty r).lr = h.lr := by
  unfold Hart.empty; split <;> rfl
@[simp] theorem Hart.empty_loaded (h : Hart) (r : Reg) : (h.empty r).loaded = h.loaded := by
  unfold Hart.empty; split <;> rfl
@[simp] theorem Hart.empty_gbars (h : Hart) (r : Reg) : (h.empty r).gbars = h.gbars := by
  unfold Hart.empty; split <;> rfl
@[simp] theorem Hart.empty_fetched (h : Hart) (r : Reg) : (h.empty r).fetched = h.fetched := by
  unfold Hart.empty; split <;> rfl
@[simp] theorem Hart.empty_upsets (h : Hart) (r : Reg) : (h.empty r).upsets = h.upsets := by
  unfold Hart.empty; split <;> rfl

/-! `Hart.fillQ`. -/
@[simp] theorem Hart.fillQ_st (h : Hart) (q : BitVec 3) (v : Word) : (h.fillQ q v).st = h.st := rfl
@[simp] theorem Hart.fillQ_heldFrom (h : Hart) (q : BitVec 3) (v : Word) : (h.fillQ q v).heldFrom = h.heldFrom := rfl
@[simp] theorem Hart.fillQ_wait (h : Hart) (q : BitVec 3) (v : Word) : (h.fillQ q v).wait = h.wait := rfl
@[simp] theorem Hart.fillQ_job (h : Hart) (q : BitVec 3) (v : Word) : (h.fillQ q v).job = h.job := rfl
@[simp] theorem Hart.fillQ_issueFrom (h : Hart) (q : BitVec 3) (v : Word) : (h.fillQ q v).issueFrom = h.issueFrom := rfl
@[simp] theorem Hart.fillQ_jobDue (h : Hart) (q : BitVec 3) (v : Word) : (h.fillQ q v).jobDue = h.jobDue := rfl
@[simp] theorem Hart.fillQ_x (h : Hart) (q : BitVec 3) (v : Word) : (h.fillQ q v).x = h.x := rfl
@[simp] theorem Hart.fillQ_xFull (h : Hart) (q : BitVec 3) (v : Word) : (h.fillQ q v).xFull = h.xFull := rfl
@[simp] theorem Hart.fillQ_pc (h : Hart) (q : BitVec 3) (v : Word) : (h.fillQ q v).pc = h.pc := rfl
@[simp] theorem Hart.fillQ_mode (h : Hart) (q : BitVec 3) (v : Word) : (h.fillQ q v).mode = h.mode := rfl
@[simp] theorem Hart.fillQ_csr (h : Hart) (q : BitVec 3) (v : Word) : (h.fillQ q v).csr = h.csr := rfl
@[simp] theorem Hart.fillQ_quantumCount (h : Hart) (q : BitVec 3) (v : Word) : (h.fillQ q v).quantumCount = h.quantumCount := rfl
@[simp] theorem Hart.fillQ_quantumSince (h : Hart) (q : BitVec 3) (v : Word) : (h.fillQ q v).quantumSince = h.quantumSince := rfl
@[simp] theorem Hart.fillQ_exitVal (h : Hart) (q : BitVec 3) (v : Word) : (h.fillQ q v).exitVal = h.exitVal := rfl
@[simp] theorem Hart.fillQ_ended (h : Hart) (q : BitVec 3) (v : Word) : (h.fillQ q v).ended = h.ended := rfl
@[simp] theorem Hart.fillQ_resv (h : Hart) (q : BitVec 3) (v : Word) : (h.fillQ q v).resv = h.resv := rfl
@[simp] theorem Hart.fillQ_ports (h : Hart) (q : BitVec 3) (v : Word) : (h.fillQ q v).ports = h.ports := rfl
@[simp] theorem Hart.fillQ_seq (h : Hart) (q : BitVec 3) (v : Word) : (h.fillQ q v).seq = h.seq := rfl
@[simp] theorem Hart.fillQ_ring (h : Hart) (q : BitVec 3) (v : Word) : (h.fillQ q v).ring = h.ring := rfl
@[simp] theorem Hart.fillQ_flights (h : Hart) (q : BitVec 3) (v : Word) : (h.fillQ q v).flights = h.flights := rfl
@[simp] theorem Hart.fillQ_arrived (h : Hart) (q : BitVec 3) (v : Word) : (h.fillQ q v).arrived = h.arrived := rfl
@[simp] theorem Hart.fillQ_pending (h : Hart) (q : BitVec 3) (v : Word) : (h.fillQ q v).pending = h.pending := rfl
@[simp] theorem Hart.fillQ_upcalls (h : Hart) (q : BitVec 3) (v : Word) : (h.fillQ q v).upcalls = h.upcalls := rfl
@[simp] theorem Hart.fillQ_upReserved (h : Hart) (q : BitVec 3) (v : Word) : (h.fillQ q v).upReserved = h.upReserved := rfl
@[simp] theorem Hart.fillQ_holdAll (h : Hart) (q : BitVec 3) (v : Word) : (h.fillQ q v).holdAll = h.holdAll := rfl
@[simp] theorem Hart.fillQ_holdWrites (h : Hart) (q : BitVec 3) (v : Word) : (h.fillQ q v).holdWrites = h.holdWrites := rfl
@[simp] theorem Hart.fillQ_lines (h : Hart) (q : BitVec 3) (v : Word) : (h.fillQ q v).lines = h.lines := rfl
@[simp] theorem Hart.fillQ_fetching (h : Hart) (q : BitVec 3) (v : Word) : (h.fillQ q v).fetching = h.fetching := rfl
@[simp] theorem Hart.fillQ_windowsUsed (h : Hart) (q : BitVec 3) (v : Word) : (h.fillQ q v).windowsUsed = h.windowsUsed := rfl
@[simp] theorem Hart.fillQ_lr (h : Hart) (q : BitVec 3) (v : Word) : (h.fillQ q v).lr = h.lr := rfl
@[simp] theorem Hart.fillQ_loaded (h : Hart) (q : BitVec 3) (v : Word) : (h.fillQ q v).loaded = h.loaded := rfl
@[simp] theorem Hart.fillQ_gbars (h : Hart) (q : BitVec 3) (v : Word) : (h.fillQ q v).gbars = h.gbars := rfl
@[simp] theorem Hart.fillQ_fetched (h : Hart) (q : BitVec 3) (v : Word) : (h.fillQ q v).fetched = h.fetched := rfl
@[simp] theorem Hart.fillQ_upsets (h : Hart) (q : BitVec 3) (v : Word) : (h.fillQ q v).upsets = h.upsets := rfl

/-! `Hart.emptyQ`. -/
@[simp] theorem Hart.emptyQ_st (h : Hart) (q : BitVec 3) : (h.emptyQ q).st = h.st := rfl
@[simp] theorem Hart.emptyQ_heldFrom (h : Hart) (q : BitVec 3) : (h.emptyQ q).heldFrom = h.heldFrom := rfl
@[simp] theorem Hart.emptyQ_wait (h : Hart) (q : BitVec 3) : (h.emptyQ q).wait = h.wait := rfl
@[simp] theorem Hart.emptyQ_job (h : Hart) (q : BitVec 3) : (h.emptyQ q).job = h.job := rfl
@[simp] theorem Hart.emptyQ_issueFrom (h : Hart) (q : BitVec 3) : (h.emptyQ q).issueFrom = h.issueFrom := rfl
@[simp] theorem Hart.emptyQ_jobDue (h : Hart) (q : BitVec 3) : (h.emptyQ q).jobDue = h.jobDue := rfl
@[simp] theorem Hart.emptyQ_x (h : Hart) (q : BitVec 3) : (h.emptyQ q).x = h.x := rfl
@[simp] theorem Hart.emptyQ_xFull (h : Hart) (q : BitVec 3) : (h.emptyQ q).xFull = h.xFull := rfl
@[simp] theorem Hart.emptyQ_q (h : Hart) (q : BitVec 3) : (h.emptyQ q).q = h.q := rfl
@[simp] theorem Hart.emptyQ_pc (h : Hart) (q : BitVec 3) : (h.emptyQ q).pc = h.pc := rfl
@[simp] theorem Hart.emptyQ_mode (h : Hart) (q : BitVec 3) : (h.emptyQ q).mode = h.mode := rfl
@[simp] theorem Hart.emptyQ_csr (h : Hart) (q : BitVec 3) : (h.emptyQ q).csr = h.csr := rfl
@[simp] theorem Hart.emptyQ_quantumCount (h : Hart) (q : BitVec 3) : (h.emptyQ q).quantumCount = h.quantumCount := rfl
@[simp] theorem Hart.emptyQ_quantumSince (h : Hart) (q : BitVec 3) : (h.emptyQ q).quantumSince = h.quantumSince := rfl
@[simp] theorem Hart.emptyQ_exitVal (h : Hart) (q : BitVec 3) : (h.emptyQ q).exitVal = h.exitVal := rfl
@[simp] theorem Hart.emptyQ_ended (h : Hart) (q : BitVec 3) : (h.emptyQ q).ended = h.ended := rfl
@[simp] theorem Hart.emptyQ_resv (h : Hart) (q : BitVec 3) : (h.emptyQ q).resv = h.resv := rfl
@[simp] theorem Hart.emptyQ_ports (h : Hart) (q : BitVec 3) : (h.emptyQ q).ports = h.ports := rfl
@[simp] theorem Hart.emptyQ_seq (h : Hart) (q : BitVec 3) : (h.emptyQ q).seq = h.seq := rfl
@[simp] theorem Hart.emptyQ_ring (h : Hart) (q : BitVec 3) : (h.emptyQ q).ring = h.ring := rfl
@[simp] theorem Hart.emptyQ_flights (h : Hart) (q : BitVec 3) : (h.emptyQ q).flights = h.flights := rfl
@[simp] theorem Hart.emptyQ_arrived (h : Hart) (q : BitVec 3) : (h.emptyQ q).arrived = h.arrived := rfl
@[simp] theorem Hart.emptyQ_pending (h : Hart) (q : BitVec 3) : (h.emptyQ q).pending = h.pending := rfl
@[simp] theorem Hart.emptyQ_upcalls (h : Hart) (q : BitVec 3) : (h.emptyQ q).upcalls = h.upcalls := rfl
@[simp] theorem Hart.emptyQ_upReserved (h : Hart) (q : BitVec 3) : (h.emptyQ q).upReserved = h.upReserved := rfl
@[simp] theorem Hart.emptyQ_holdAll (h : Hart) (q : BitVec 3) : (h.emptyQ q).holdAll = h.holdAll := rfl
@[simp] theorem Hart.emptyQ_holdWrites (h : Hart) (q : BitVec 3) : (h.emptyQ q).holdWrites = h.holdWrites := rfl
@[simp] theorem Hart.emptyQ_lines (h : Hart) (q : BitVec 3) : (h.emptyQ q).lines = h.lines := rfl
@[simp] theorem Hart.emptyQ_fetching (h : Hart) (q : BitVec 3) : (h.emptyQ q).fetching = h.fetching := rfl
@[simp] theorem Hart.emptyQ_windowsUsed (h : Hart) (q : BitVec 3) : (h.emptyQ q).windowsUsed = h.windowsUsed := rfl
@[simp] theorem Hart.emptyQ_lr (h : Hart) (q : BitVec 3) : (h.emptyQ q).lr = h.lr := rfl
@[simp] theorem Hart.emptyQ_loaded (h : Hart) (q : BitVec 3) : (h.emptyQ q).loaded = h.loaded := rfl
@[simp] theorem Hart.emptyQ_gbars (h : Hart) (q : BitVec 3) : (h.emptyQ q).gbars = h.gbars := rfl
@[simp] theorem Hart.emptyQ_fetched (h : Hart) (q : BitVec 3) : (h.emptyQ q).fetched = h.fetched := rfl
@[simp] theorem Hart.emptyQ_upsets (h : Hart) (q : BitVec 3) : (h.emptyQ q).upsets = h.upsets := rfl

/-! `Hart.moveTo`. -/
@[simp] theorem Hart.moveTo_heldFrom (h : Hart) (st : HartState) (n : Nat) : (h.moveTo st n).heldFrom = h.heldFrom := rfl
@[simp] theorem Hart.moveTo_wait (h : Hart) (st : HartState) (n : Nat) : (h.moveTo st n).wait = h.wait := rfl
@[simp] theorem Hart.moveTo_job (h : Hart) (st : HartState) (n : Nat) : (h.moveTo st n).job = h.job := rfl
@[simp] theorem Hart.moveTo_issueFrom (h : Hart) (st : HartState) (n : Nat) : (h.moveTo st n).issueFrom = h.issueFrom := rfl
@[simp] theorem Hart.moveTo_jobDue (h : Hart) (st : HartState) (n : Nat) : (h.moveTo st n).jobDue = h.jobDue := rfl
@[simp] theorem Hart.moveTo_x (h : Hart) (st : HartState) (n : Nat) : (h.moveTo st n).x = h.x := rfl
@[simp] theorem Hart.moveTo_xFull (h : Hart) (st : HartState) (n : Nat) : (h.moveTo st n).xFull = h.xFull := rfl
@[simp] theorem Hart.moveTo_q (h : Hart) (st : HartState) (n : Nat) : (h.moveTo st n).q = h.q := rfl
@[simp] theorem Hart.moveTo_qFull (h : Hart) (st : HartState) (n : Nat) : (h.moveTo st n).qFull = h.qFull := rfl
@[simp] theorem Hart.moveTo_pc (h : Hart) (st : HartState) (n : Nat) : (h.moveTo st n).pc = h.pc := rfl
@[simp] theorem Hart.moveTo_mode (h : Hart) (st : HartState) (n : Nat) : (h.moveTo st n).mode = h.mode := rfl
@[simp] theorem Hart.moveTo_csr (h : Hart) (st : HartState) (n : Nat) : (h.moveTo st n).csr = h.csr := rfl
@[simp] theorem Hart.moveTo_exitVal (h : Hart) (st : HartState) (n : Nat) : (h.moveTo st n).exitVal = h.exitVal := rfl
@[simp] theorem Hart.moveTo_ended (h : Hart) (st : HartState) (n : Nat) : (h.moveTo st n).ended = h.ended := rfl
@[simp] theorem Hart.moveTo_resv (h : Hart) (st : HartState) (n : Nat) : (h.moveTo st n).resv = h.resv := rfl
@[simp] theorem Hart.moveTo_ports (h : Hart) (st : HartState) (n : Nat) : (h.moveTo st n).ports = h.ports := rfl
@[simp] theorem Hart.moveTo_seq (h : Hart) (st : HartState) (n : Nat) : (h.moveTo st n).seq = h.seq := rfl
@[simp] theorem Hart.moveTo_ring (h : Hart) (st : HartState) (n : Nat) : (h.moveTo st n).ring = h.ring := rfl
@[simp] theorem Hart.moveTo_flights (h : Hart) (st : HartState) (n : Nat) : (h.moveTo st n).flights = h.flights := rfl
@[simp] theorem Hart.moveTo_arrived (h : Hart) (st : HartState) (n : Nat) : (h.moveTo st n).arrived = h.arrived := rfl
@[simp] theorem Hart.moveTo_pending (h : Hart) (st : HartState) (n : Nat) : (h.moveTo st n).pending = h.pending := rfl
@[simp] theorem Hart.moveTo_upcalls (h : Hart) (st : HartState) (n : Nat) : (h.moveTo st n).upcalls = h.upcalls := rfl
@[simp] theorem Hart.moveTo_upReserved (h : Hart) (st : HartState) (n : Nat) : (h.moveTo st n).upReserved = h.upReserved := rfl
@[simp] theorem Hart.moveTo_holdAll (h : Hart) (st : HartState) (n : Nat) : (h.moveTo st n).holdAll = h.holdAll := rfl
@[simp] theorem Hart.moveTo_holdWrites (h : Hart) (st : HartState) (n : Nat) : (h.moveTo st n).holdWrites = h.holdWrites := rfl
@[simp] theorem Hart.moveTo_lines (h : Hart) (st : HartState) (n : Nat) : (h.moveTo st n).lines = h.lines := rfl
@[simp] theorem Hart.moveTo_fetching (h : Hart) (st : HartState) (n : Nat) : (h.moveTo st n).fetching = h.fetching := rfl
@[simp] theorem Hart.moveTo_windowsUsed (h : Hart) (st : HartState) (n : Nat) : (h.moveTo st n).windowsUsed = h.windowsUsed := rfl
@[simp] theorem Hart.moveTo_lr (h : Hart) (st : HartState) (n : Nat) : (h.moveTo st n).lr = h.lr := rfl
@[simp] theorem Hart.moveTo_loaded (h : Hart) (st : HartState) (n : Nat) : (h.moveTo st n).loaded = h.loaded := rfl
@[simp] theorem Hart.moveTo_gbars (h : Hart) (st : HartState) (n : Nat) : (h.moveTo st n).gbars = h.gbars := rfl
@[simp] theorem Hart.moveTo_fetched (h : Hart) (st : HartState) (n : Nat) : (h.moveTo st n).fetched = h.fetched := rfl
@[simp] theorem Hart.moveTo_upsets (h : Hart) (st : HartState) (n : Nat) : (h.moveTo st n).upsets = h.upsets := rfl

/-! `Hart.setLatch`. -/
@[simp] theorem Hart.setLatch_st (h : Hart) (p : BitVec 6) (l : Latch) : (h.setLatch p l).st = h.st := rfl
@[simp] theorem Hart.setLatch_heldFrom (h : Hart) (p : BitVec 6) (l : Latch) : (h.setLatch p l).heldFrom = h.heldFrom := rfl
@[simp] theorem Hart.setLatch_wait (h : Hart) (p : BitVec 6) (l : Latch) : (h.setLatch p l).wait = h.wait := rfl
@[simp] theorem Hart.setLatch_job (h : Hart) (p : BitVec 6) (l : Latch) : (h.setLatch p l).job = h.job := rfl
@[simp] theorem Hart.setLatch_issueFrom (h : Hart) (p : BitVec 6) (l : Latch) : (h.setLatch p l).issueFrom = h.issueFrom := rfl
@[simp] theorem Hart.setLatch_jobDue (h : Hart) (p : BitVec 6) (l : Latch) : (h.setLatch p l).jobDue = h.jobDue := rfl
@[simp] theorem Hart.setLatch_x (h : Hart) (p : BitVec 6) (l : Latch) : (h.setLatch p l).x = h.x := rfl
@[simp] theorem Hart.setLatch_xFull (h : Hart) (p : BitVec 6) (l : Latch) : (h.setLatch p l).xFull = h.xFull := rfl
@[simp] theorem Hart.setLatch_q (h : Hart) (p : BitVec 6) (l : Latch) : (h.setLatch p l).q = h.q := rfl
@[simp] theorem Hart.setLatch_qFull (h : Hart) (p : BitVec 6) (l : Latch) : (h.setLatch p l).qFull = h.qFull := rfl
@[simp] theorem Hart.setLatch_pc (h : Hart) (p : BitVec 6) (l : Latch) : (h.setLatch p l).pc = h.pc := rfl
@[simp] theorem Hart.setLatch_mode (h : Hart) (p : BitVec 6) (l : Latch) : (h.setLatch p l).mode = h.mode := rfl
@[simp] theorem Hart.setLatch_csr (h : Hart) (p : BitVec 6) (l : Latch) : (h.setLatch p l).csr = h.csr := rfl
@[simp] theorem Hart.setLatch_quantumCount (h : Hart) (p : BitVec 6) (l : Latch) : (h.setLatch p l).quantumCount = h.quantumCount := rfl
@[simp] theorem Hart.setLatch_quantumSince (h : Hart) (p : BitVec 6) (l : Latch) : (h.setLatch p l).quantumSince = h.quantumSince := rfl
@[simp] theorem Hart.setLatch_exitVal (h : Hart) (p : BitVec 6) (l : Latch) : (h.setLatch p l).exitVal = h.exitVal := rfl
@[simp] theorem Hart.setLatch_ended (h : Hart) (p : BitVec 6) (l : Latch) : (h.setLatch p l).ended = h.ended := rfl
@[simp] theorem Hart.setLatch_resv (h : Hart) (p : BitVec 6) (l : Latch) : (h.setLatch p l).resv = h.resv := rfl
@[simp] theorem Hart.setLatch_seq (h : Hart) (p : BitVec 6) (l : Latch) : (h.setLatch p l).seq = h.seq := rfl
@[simp] theorem Hart.setLatch_ring (h : Hart) (p : BitVec 6) (l : Latch) : (h.setLatch p l).ring = h.ring := rfl
@[simp] theorem Hart.setLatch_flights (h : Hart) (p : BitVec 6) (l : Latch) : (h.setLatch p l).flights = h.flights := rfl
@[simp] theorem Hart.setLatch_arrived (h : Hart) (p : BitVec 6) (l : Latch) : (h.setLatch p l).arrived = h.arrived := rfl
@[simp] theorem Hart.setLatch_pending (h : Hart) (p : BitVec 6) (l : Latch) : (h.setLatch p l).pending = h.pending := rfl
@[simp] theorem Hart.setLatch_upcalls (h : Hart) (p : BitVec 6) (l : Latch) : (h.setLatch p l).upcalls = h.upcalls := rfl
@[simp] theorem Hart.setLatch_upReserved (h : Hart) (p : BitVec 6) (l : Latch) : (h.setLatch p l).upReserved = h.upReserved := rfl
@[simp] theorem Hart.setLatch_holdAll (h : Hart) (p : BitVec 6) (l : Latch) : (h.setLatch p l).holdAll = h.holdAll := rfl
@[simp] theorem Hart.setLatch_holdWrites (h : Hart) (p : BitVec 6) (l : Latch) : (h.setLatch p l).holdWrites = h.holdWrites := rfl
@[simp] theorem Hart.setLatch_lines (h : Hart) (p : BitVec 6) (l : Latch) : (h.setLatch p l).lines = h.lines := rfl
@[simp] theorem Hart.setLatch_fetching (h : Hart) (p : BitVec 6) (l : Latch) : (h.setLatch p l).fetching = h.fetching := rfl
@[simp] theorem Hart.setLatch_windowsUsed (h : Hart) (p : BitVec 6) (l : Latch) : (h.setLatch p l).windowsUsed = h.windowsUsed := rfl
@[simp] theorem Hart.setLatch_lr (h : Hart) (p : BitVec 6) (l : Latch) : (h.setLatch p l).lr = h.lr := rfl
@[simp] theorem Hart.setLatch_loaded (h : Hart) (p : BitVec 6) (l : Latch) : (h.setLatch p l).loaded = h.loaded := rfl
@[simp] theorem Hart.setLatch_gbars (h : Hart) (p : BitVec 6) (l : Latch) : (h.setLatch p l).gbars = h.gbars := rfl
@[simp] theorem Hart.setLatch_fetched (h : Hart) (p : BitVec 6) (l : Latch) : (h.setLatch p l).fetched = h.fetched := rfl
@[simp] theorem Hart.setLatch_upsets (h : Hart) (p : BitVec 6) (l : Latch) : (h.setLatch p l).upsets = h.upsets := rfl

/-! `Hart.writePort`. -/
@[simp] theorem Hart.writePort_st (h : Hart) (p : BitVec 6) (v : Wide) : (h.writePort p v).st = h.st := by
  unfold Hart.writePort; split <;> rfl
@[simp] theorem Hart.writePort_heldFrom (h : Hart) (p : BitVec 6) (v : Wide) : (h.writePort p v).heldFrom = h.heldFrom := by
  unfold Hart.writePort; split <;> rfl
@[simp] theorem Hart.writePort_wait (h : Hart) (p : BitVec 6) (v : Wide) : (h.writePort p v).wait = h.wait := by
  unfold Hart.writePort; split <;> rfl
@[simp] theorem Hart.writePort_job (h : Hart) (p : BitVec 6) (v : Wide) : (h.writePort p v).job = h.job := by
  unfold Hart.writePort; split <;> rfl
@[simp] theorem Hart.writePort_issueFrom (h : Hart) (p : BitVec 6) (v : Wide) : (h.writePort p v).issueFrom = h.issueFrom := by
  unfold Hart.writePort; split <;> rfl
@[simp] theorem Hart.writePort_jobDue (h : Hart) (p : BitVec 6) (v : Wide) : (h.writePort p v).jobDue = h.jobDue := by
  unfold Hart.writePort; split <;> rfl
@[simp] theorem Hart.writePort_x (h : Hart) (p : BitVec 6) (v : Wide) : (h.writePort p v).x = h.x := by
  unfold Hart.writePort; split <;> rfl
@[simp] theorem Hart.writePort_xFull (h : Hart) (p : BitVec 6) (v : Wide) : (h.writePort p v).xFull = h.xFull := by
  unfold Hart.writePort; split <;> rfl
@[simp] theorem Hart.writePort_q (h : Hart) (p : BitVec 6) (v : Wide) : (h.writePort p v).q = h.q := by
  unfold Hart.writePort; split <;> rfl
@[simp] theorem Hart.writePort_qFull (h : Hart) (p : BitVec 6) (v : Wide) : (h.writePort p v).qFull = h.qFull := by
  unfold Hart.writePort; split <;> rfl
@[simp] theorem Hart.writePort_pc (h : Hart) (p : BitVec 6) (v : Wide) : (h.writePort p v).pc = h.pc := by
  unfold Hart.writePort; split <;> rfl
@[simp] theorem Hart.writePort_mode (h : Hart) (p : BitVec 6) (v : Wide) : (h.writePort p v).mode = h.mode := by
  unfold Hart.writePort; split <;> rfl
@[simp] theorem Hart.writePort_csr (h : Hart) (p : BitVec 6) (v : Wide) : (h.writePort p v).csr = h.csr := by
  unfold Hart.writePort; split <;> rfl
@[simp] theorem Hart.writePort_quantumCount (h : Hart) (p : BitVec 6) (v : Wide) : (h.writePort p v).quantumCount = h.quantumCount := by
  unfold Hart.writePort; split <;> rfl
@[simp] theorem Hart.writePort_quantumSince (h : Hart) (p : BitVec 6) (v : Wide) : (h.writePort p v).quantumSince = h.quantumSince := by
  unfold Hart.writePort; split <;> rfl
@[simp] theorem Hart.writePort_exitVal (h : Hart) (p : BitVec 6) (v : Wide) : (h.writePort p v).exitVal = h.exitVal := by
  unfold Hart.writePort; split <;> rfl
@[simp] theorem Hart.writePort_ended (h : Hart) (p : BitVec 6) (v : Wide) : (h.writePort p v).ended = h.ended := by
  unfold Hart.writePort; split <;> rfl
@[simp] theorem Hart.writePort_resv (h : Hart) (p : BitVec 6) (v : Wide) : (h.writePort p v).resv = h.resv := by
  unfold Hart.writePort; split <;> rfl
@[simp] theorem Hart.writePort_seq (h : Hart) (p : BitVec 6) (v : Wide) : (h.writePort p v).seq = h.seq := by
  unfold Hart.writePort; split <;> rfl
@[simp] theorem Hart.writePort_ring (h : Hart) (p : BitVec 6) (v : Wide) : (h.writePort p v).ring = h.ring := by
  unfold Hart.writePort; split <;> rfl
@[simp] theorem Hart.writePort_flights (h : Hart) (p : BitVec 6) (v : Wide) : (h.writePort p v).flights = h.flights := by
  unfold Hart.writePort; split <;> rfl
@[simp] theorem Hart.writePort_arrived (h : Hart) (p : BitVec 6) (v : Wide) : (h.writePort p v).arrived = h.arrived := by
  unfold Hart.writePort; split <;> rfl
@[simp] theorem Hart.writePort_pending (h : Hart) (p : BitVec 6) (v : Wide) : (h.writePort p v).pending = h.pending := by
  unfold Hart.writePort; split <;> rfl
@[simp] theorem Hart.writePort_upcalls (h : Hart) (p : BitVec 6) (v : Wide) : (h.writePort p v).upcalls = h.upcalls := by
  unfold Hart.writePort; split <;> rfl
@[simp] theorem Hart.writePort_upReserved (h : Hart) (p : BitVec 6) (v : Wide) : (h.writePort p v).upReserved = h.upReserved := by
  unfold Hart.writePort; split <;> rfl
@[simp] theorem Hart.writePort_holdAll (h : Hart) (p : BitVec 6) (v : Wide) : (h.writePort p v).holdAll = h.holdAll := by
  unfold Hart.writePort; split <;> rfl
@[simp] theorem Hart.writePort_holdWrites (h : Hart) (p : BitVec 6) (v : Wide) : (h.writePort p v).holdWrites = h.holdWrites := by
  unfold Hart.writePort; split <;> rfl
@[simp] theorem Hart.writePort_lines (h : Hart) (p : BitVec 6) (v : Wide) : (h.writePort p v).lines = h.lines := by
  unfold Hart.writePort; split <;> rfl
@[simp] theorem Hart.writePort_fetching (h : Hart) (p : BitVec 6) (v : Wide) : (h.writePort p v).fetching = h.fetching := by
  unfold Hart.writePort; split <;> rfl
@[simp] theorem Hart.writePort_windowsUsed (h : Hart) (p : BitVec 6) (v : Wide) : (h.writePort p v).windowsUsed = h.windowsUsed := by
  unfold Hart.writePort; split <;> rfl
@[simp] theorem Hart.writePort_lr (h : Hart) (p : BitVec 6) (v : Wide) : (h.writePort p v).lr = h.lr := by
  unfold Hart.writePort; split <;> rfl
@[simp] theorem Hart.writePort_loaded (h : Hart) (p : BitVec 6) (v : Wide) : (h.writePort p v).loaded = h.loaded := by
  unfold Hart.writePort; split <;> rfl
@[simp] theorem Hart.writePort_gbars (h : Hart) (p : BitVec 6) (v : Wide) : (h.writePort p v).gbars = h.gbars := by
  unfold Hart.writePort; split <;> rfl
@[simp] theorem Hart.writePort_fetched (h : Hart) (p : BitVec 6) (v : Wide) : (h.writePort p v).fetched = h.fetched := by
  unfold Hart.writePort; split <;> rfl
@[simp] theorem Hart.writePort_upsets (h : Hart) (p : BitVec 6) (v : Wide) : (h.writePort p v).upsets = h.upsets := by
  unfold Hart.writePort; split <;> rfl

/-! `Hart.writeLane`. -/
@[simp] theorem Hart.writeLane_st (h : Hart) (p : BitVec 6) (w l x : Nat) : (h.writeLane p w l x).st = h.st := by
  unfold Hart.writeLane; split <;> rfl
@[simp] theorem Hart.writeLane_heldFrom (h : Hart) (p : BitVec 6) (w l x : Nat) : (h.writeLane p w l x).heldFrom = h.heldFrom := by
  unfold Hart.writeLane; split <;> rfl
@[simp] theorem Hart.writeLane_wait (h : Hart) (p : BitVec 6) (w l x : Nat) : (h.writeLane p w l x).wait = h.wait := by
  unfold Hart.writeLane; split <;> rfl
@[simp] theorem Hart.writeLane_job (h : Hart) (p : BitVec 6) (w l x : Nat) : (h.writeLane p w l x).job = h.job := by
  unfold Hart.writeLane; split <;> rfl
@[simp] theorem Hart.writeLane_issueFrom (h : Hart) (p : BitVec 6) (w l x : Nat) : (h.writeLane p w l x).issueFrom = h.issueFrom := by
  unfold Hart.writeLane; split <;> rfl
@[simp] theorem Hart.writeLane_jobDue (h : Hart) (p : BitVec 6) (w l x : Nat) : (h.writeLane p w l x).jobDue = h.jobDue := by
  unfold Hart.writeLane; split <;> rfl
@[simp] theorem Hart.writeLane_x (h : Hart) (p : BitVec 6) (w l x : Nat) : (h.writeLane p w l x).x = h.x := by
  unfold Hart.writeLane; split <;> rfl
@[simp] theorem Hart.writeLane_xFull (h : Hart) (p : BitVec 6) (w l x : Nat) : (h.writeLane p w l x).xFull = h.xFull := by
  unfold Hart.writeLane; split <;> rfl
@[simp] theorem Hart.writeLane_q (h : Hart) (p : BitVec 6) (w l x : Nat) : (h.writeLane p w l x).q = h.q := by
  unfold Hart.writeLane; split <;> rfl
@[simp] theorem Hart.writeLane_qFull (h : Hart) (p : BitVec 6) (w l x : Nat) : (h.writeLane p w l x).qFull = h.qFull := by
  unfold Hart.writeLane; split <;> rfl
@[simp] theorem Hart.writeLane_pc (h : Hart) (p : BitVec 6) (w l x : Nat) : (h.writeLane p w l x).pc = h.pc := by
  unfold Hart.writeLane; split <;> rfl
@[simp] theorem Hart.writeLane_mode (h : Hart) (p : BitVec 6) (w l x : Nat) : (h.writeLane p w l x).mode = h.mode := by
  unfold Hart.writeLane; split <;> rfl
@[simp] theorem Hart.writeLane_csr (h : Hart) (p : BitVec 6) (w l x : Nat) : (h.writeLane p w l x).csr = h.csr := by
  unfold Hart.writeLane; split <;> rfl
@[simp] theorem Hart.writeLane_quantumCount (h : Hart) (p : BitVec 6) (w l x : Nat) : (h.writeLane p w l x).quantumCount = h.quantumCount := by
  unfold Hart.writeLane; split <;> rfl
@[simp] theorem Hart.writeLane_quantumSince (h : Hart) (p : BitVec 6) (w l x : Nat) : (h.writeLane p w l x).quantumSince = h.quantumSince := by
  unfold Hart.writeLane; split <;> rfl
@[simp] theorem Hart.writeLane_exitVal (h : Hart) (p : BitVec 6) (w l x : Nat) : (h.writeLane p w l x).exitVal = h.exitVal := by
  unfold Hart.writeLane; split <;> rfl
@[simp] theorem Hart.writeLane_ended (h : Hart) (p : BitVec 6) (w l x : Nat) : (h.writeLane p w l x).ended = h.ended := by
  unfold Hart.writeLane; split <;> rfl
@[simp] theorem Hart.writeLane_resv (h : Hart) (p : BitVec 6) (w l x : Nat) : (h.writeLane p w l x).resv = h.resv := by
  unfold Hart.writeLane; split <;> rfl
@[simp] theorem Hart.writeLane_seq (h : Hart) (p : BitVec 6) (w l x : Nat) : (h.writeLane p w l x).seq = h.seq := by
  unfold Hart.writeLane; split <;> rfl
@[simp] theorem Hart.writeLane_ring (h : Hart) (p : BitVec 6) (w l x : Nat) : (h.writeLane p w l x).ring = h.ring := by
  unfold Hart.writeLane; split <;> rfl
@[simp] theorem Hart.writeLane_flights (h : Hart) (p : BitVec 6) (w l x : Nat) : (h.writeLane p w l x).flights = h.flights := by
  unfold Hart.writeLane; split <;> rfl
@[simp] theorem Hart.writeLane_arrived (h : Hart) (p : BitVec 6) (w l x : Nat) : (h.writeLane p w l x).arrived = h.arrived := by
  unfold Hart.writeLane; split <;> rfl
@[simp] theorem Hart.writeLane_pending (h : Hart) (p : BitVec 6) (w l x : Nat) : (h.writeLane p w l x).pending = h.pending := by
  unfold Hart.writeLane; split <;> rfl
@[simp] theorem Hart.writeLane_upcalls (h : Hart) (p : BitVec 6) (w l x : Nat) : (h.writeLane p w l x).upcalls = h.upcalls := by
  unfold Hart.writeLane; split <;> rfl
@[simp] theorem Hart.writeLane_upReserved (h : Hart) (p : BitVec 6) (w l x : Nat) : (h.writeLane p w l x).upReserved = h.upReserved := by
  unfold Hart.writeLane; split <;> rfl
@[simp] theorem Hart.writeLane_holdAll (h : Hart) (p : BitVec 6) (w l x : Nat) : (h.writeLane p w l x).holdAll = h.holdAll := by
  unfold Hart.writeLane; split <;> rfl
@[simp] theorem Hart.writeLane_holdWrites (h : Hart) (p : BitVec 6) (w l x : Nat) : (h.writeLane p w l x).holdWrites = h.holdWrites := by
  unfold Hart.writeLane; split <;> rfl
@[simp] theorem Hart.writeLane_lines (h : Hart) (p : BitVec 6) (w l x : Nat) : (h.writeLane p w l x).lines = h.lines := by
  unfold Hart.writeLane; split <;> rfl
@[simp] theorem Hart.writeLane_fetching (h : Hart) (p : BitVec 6) (w l x : Nat) : (h.writeLane p w l x).fetching = h.fetching := by
  unfold Hart.writeLane; split <;> rfl
@[simp] theorem Hart.writeLane_windowsUsed (h : Hart) (p : BitVec 6) (w l x : Nat) : (h.writeLane p w l x).windowsUsed = h.windowsUsed := by
  unfold Hart.writeLane; split <;> rfl
@[simp] theorem Hart.writeLane_lr (h : Hart) (p : BitVec 6) (w l x : Nat) : (h.writeLane p w l x).lr = h.lr := by
  unfold Hart.writeLane; split <;> rfl
@[simp] theorem Hart.writeLane_loaded (h : Hart) (p : BitVec 6) (w l x : Nat) : (h.writeLane p w l x).loaded = h.loaded := by
  unfold Hart.writeLane; split <;> rfl
@[simp] theorem Hart.writeLane_gbars (h : Hart) (p : BitVec 6) (w l x : Nat) : (h.writeLane p w l x).gbars = h.gbars := by
  unfold Hart.writeLane; split <;> rfl
@[simp] theorem Hart.writeLane_fetched (h : Hart) (p : BitVec 6) (w l x : Nat) : (h.writeLane p w l x).fetched = h.fetched := by
  unfold Hart.writeLane; split <;> rfl
@[simp] theorem Hart.writeLane_upsets (h : Hart) (p : BitVec 6) (w l x : Nat) : (h.writeLane p w l x).upsets = h.upsets := by
  unfold Hart.writeLane; split <;> rfl

/-! `Hart.setRing`. -/
@[simp] theorem Hart.setRing_st (h : Hart) (q : BitVec 8) (v : BitVec 16) : (h.setRing q v).st = h.st := rfl
@[simp] theorem Hart.setRing_heldFrom (h : Hart) (q : BitVec 8) (v : BitVec 16) : (h.setRing q v).heldFrom = h.heldFrom := rfl
@[simp] theorem Hart.setRing_wait (h : Hart) (q : BitVec 8) (v : BitVec 16) : (h.setRing q v).wait = h.wait := rfl
@[simp] theorem Hart.setRing_job (h : Hart) (q : BitVec 8) (v : BitVec 16) : (h.setRing q v).job = h.job := rfl
@[simp] theorem Hart.setRing_issueFrom (h : Hart) (q : BitVec 8) (v : BitVec 16) : (h.setRing q v).issueFrom = h.issueFrom := rfl
@[simp] theorem Hart.setRing_jobDue (h : Hart) (q : BitVec 8) (v : BitVec 16) : (h.setRing q v).jobDue = h.jobDue := rfl
@[simp] theorem Hart.setRing_x (h : Hart) (q : BitVec 8) (v : BitVec 16) : (h.setRing q v).x = h.x := rfl
@[simp] theorem Hart.setRing_xFull (h : Hart) (q : BitVec 8) (v : BitVec 16) : (h.setRing q v).xFull = h.xFull := rfl
@[simp] theorem Hart.setRing_q (h : Hart) (q : BitVec 8) (v : BitVec 16) : (h.setRing q v).q = h.q := rfl
@[simp] theorem Hart.setRing_qFull (h : Hart) (q : BitVec 8) (v : BitVec 16) : (h.setRing q v).qFull = h.qFull := rfl
@[simp] theorem Hart.setRing_pc (h : Hart) (q : BitVec 8) (v : BitVec 16) : (h.setRing q v).pc = h.pc := rfl
@[simp] theorem Hart.setRing_mode (h : Hart) (q : BitVec 8) (v : BitVec 16) : (h.setRing q v).mode = h.mode := rfl
@[simp] theorem Hart.setRing_csr (h : Hart) (q : BitVec 8) (v : BitVec 16) : (h.setRing q v).csr = h.csr := rfl
@[simp] theorem Hart.setRing_quantumCount (h : Hart) (q : BitVec 8) (v : BitVec 16) : (h.setRing q v).quantumCount = h.quantumCount := rfl
@[simp] theorem Hart.setRing_quantumSince (h : Hart) (q : BitVec 8) (v : BitVec 16) : (h.setRing q v).quantumSince = h.quantumSince := rfl
@[simp] theorem Hart.setRing_exitVal (h : Hart) (q : BitVec 8) (v : BitVec 16) : (h.setRing q v).exitVal = h.exitVal := rfl
@[simp] theorem Hart.setRing_ended (h : Hart) (q : BitVec 8) (v : BitVec 16) : (h.setRing q v).ended = h.ended := rfl
@[simp] theorem Hart.setRing_resv (h : Hart) (q : BitVec 8) (v : BitVec 16) : (h.setRing q v).resv = h.resv := rfl
@[simp] theorem Hart.setRing_ports (h : Hart) (q : BitVec 8) (v : BitVec 16) : (h.setRing q v).ports = h.ports := rfl
@[simp] theorem Hart.setRing_seq (h : Hart) (q : BitVec 8) (v : BitVec 16) : (h.setRing q v).seq = h.seq := rfl
@[simp] theorem Hart.setRing_flights (h : Hart) (q : BitVec 8) (v : BitVec 16) : (h.setRing q v).flights = h.flights := rfl
@[simp] theorem Hart.setRing_arrived (h : Hart) (q : BitVec 8) (v : BitVec 16) : (h.setRing q v).arrived = h.arrived := rfl
@[simp] theorem Hart.setRing_pending (h : Hart) (q : BitVec 8) (v : BitVec 16) : (h.setRing q v).pending = h.pending := rfl
@[simp] theorem Hart.setRing_upcalls (h : Hart) (q : BitVec 8) (v : BitVec 16) : (h.setRing q v).upcalls = h.upcalls := rfl
@[simp] theorem Hart.setRing_upReserved (h : Hart) (q : BitVec 8) (v : BitVec 16) : (h.setRing q v).upReserved = h.upReserved := rfl
@[simp] theorem Hart.setRing_holdAll (h : Hart) (q : BitVec 8) (v : BitVec 16) : (h.setRing q v).holdAll = h.holdAll := rfl
@[simp] theorem Hart.setRing_holdWrites (h : Hart) (q : BitVec 8) (v : BitVec 16) : (h.setRing q v).holdWrites = h.holdWrites := rfl
@[simp] theorem Hart.setRing_lines (h : Hart) (q : BitVec 8) (v : BitVec 16) : (h.setRing q v).lines = h.lines := rfl
@[simp] theorem Hart.setRing_fetching (h : Hart) (q : BitVec 8) (v : BitVec 16) : (h.setRing q v).fetching = h.fetching := rfl
@[simp] theorem Hart.setRing_windowsUsed (h : Hart) (q : BitVec 8) (v : BitVec 16) : (h.setRing q v).windowsUsed = h.windowsUsed := rfl
@[simp] theorem Hart.setRing_lr (h : Hart) (q : BitVec 8) (v : BitVec 16) : (h.setRing q v).lr = h.lr := rfl
@[simp] theorem Hart.setRing_loaded (h : Hart) (q : BitVec 8) (v : BitVec 16) : (h.setRing q v).loaded = h.loaded := rfl
@[simp] theorem Hart.setRing_gbars (h : Hart) (q : BitVec 8) (v : BitVec 16) : (h.setRing q v).gbars = h.gbars := rfl
@[simp] theorem Hart.setRing_fetched (h : Hart) (q : BitVec 8) (v : BitVec 16) : (h.setRing q v).fetched = h.fetched := rfl
@[simp] theorem Hart.setRing_upsets (h : Hart) (q : BitVec 8) (v : BitVec 16) : (h.setRing q v).upsets = h.upsets := rfl

/-! `Hart.startTrigger`. -/
@[simp] theorem Hart.startTrigger_st (h : Hart) (u : EngineUnit) (n : BitVec 8) (d : Nat) (r : Wide) (g : BitVec 5) (l : LsAccess) : (h.startTrigger u n d r g l).st = h.st := rfl
@[simp] theorem Hart.startTrigger_heldFrom (h : Hart) (u : EngineUnit) (n : BitVec 8) (d : Nat) (r : Wide) (g : BitVec 5) (l : LsAccess) : (h.startTrigger u n d r g l).heldFrom = h.heldFrom := rfl
@[simp] theorem Hart.startTrigger_wait (h : Hart) (u : EngineUnit) (n : BitVec 8) (d : Nat) (r : Wide) (g : BitVec 5) (l : LsAccess) : (h.startTrigger u n d r g l).wait = h.wait := rfl
@[simp] theorem Hart.startTrigger_job (h : Hart) (u : EngineUnit) (n : BitVec 8) (d : Nat) (r : Wide) (g : BitVec 5) (l : LsAccess) : (h.startTrigger u n d r g l).job = h.job := rfl
@[simp] theorem Hart.startTrigger_issueFrom (h : Hart) (u : EngineUnit) (n : BitVec 8) (d : Nat) (r : Wide) (g : BitVec 5) (l : LsAccess) : (h.startTrigger u n d r g l).issueFrom = h.issueFrom := rfl
@[simp] theorem Hart.startTrigger_jobDue (h : Hart) (u : EngineUnit) (n : BitVec 8) (d : Nat) (r : Wide) (g : BitVec 5) (l : LsAccess) : (h.startTrigger u n d r g l).jobDue = h.jobDue := rfl
@[simp] theorem Hart.startTrigger_x (h : Hart) (u : EngineUnit) (n : BitVec 8) (d : Nat) (r : Wide) (g : BitVec 5) (l : LsAccess) : (h.startTrigger u n d r g l).x = h.x := rfl
@[simp] theorem Hart.startTrigger_xFull (h : Hart) (u : EngineUnit) (n : BitVec 8) (d : Nat) (r : Wide) (g : BitVec 5) (l : LsAccess) : (h.startTrigger u n d r g l).xFull = h.xFull := rfl
@[simp] theorem Hart.startTrigger_q (h : Hart) (u : EngineUnit) (n : BitVec 8) (d : Nat) (r : Wide) (g : BitVec 5) (l : LsAccess) : (h.startTrigger u n d r g l).q = h.q := rfl
@[simp] theorem Hart.startTrigger_qFull (h : Hart) (u : EngineUnit) (n : BitVec 8) (d : Nat) (r : Wide) (g : BitVec 5) (l : LsAccess) : (h.startTrigger u n d r g l).qFull = h.qFull := rfl
@[simp] theorem Hart.startTrigger_pc (h : Hart) (u : EngineUnit) (n : BitVec 8) (d : Nat) (r : Wide) (g : BitVec 5) (l : LsAccess) : (h.startTrigger u n d r g l).pc = h.pc := rfl
@[simp] theorem Hart.startTrigger_mode (h : Hart) (u : EngineUnit) (n : BitVec 8) (d : Nat) (r : Wide) (g : BitVec 5) (l : LsAccess) : (h.startTrigger u n d r g l).mode = h.mode := rfl
@[simp] theorem Hart.startTrigger_csr (h : Hart) (u : EngineUnit) (n : BitVec 8) (d : Nat) (r : Wide) (g : BitVec 5) (l : LsAccess) : (h.startTrigger u n d r g l).csr = h.csr := rfl
@[simp] theorem Hart.startTrigger_quantumCount (h : Hart) (u : EngineUnit) (n : BitVec 8) (d : Nat) (r : Wide) (g : BitVec 5) (l : LsAccess) : (h.startTrigger u n d r g l).quantumCount = h.quantumCount := rfl
@[simp] theorem Hart.startTrigger_quantumSince (h : Hart) (u : EngineUnit) (n : BitVec 8) (d : Nat) (r : Wide) (g : BitVec 5) (l : LsAccess) : (h.startTrigger u n d r g l).quantumSince = h.quantumSince := rfl
@[simp] theorem Hart.startTrigger_exitVal (h : Hart) (u : EngineUnit) (n : BitVec 8) (d : Nat) (r : Wide) (g : BitVec 5) (l : LsAccess) : (h.startTrigger u n d r g l).exitVal = h.exitVal := rfl
@[simp] theorem Hart.startTrigger_ended (h : Hart) (u : EngineUnit) (n : BitVec 8) (d : Nat) (r : Wide) (g : BitVec 5) (l : LsAccess) : (h.startTrigger u n d r g l).ended = h.ended := rfl
@[simp] theorem Hart.startTrigger_resv (h : Hart) (u : EngineUnit) (n : BitVec 8) (d : Nat) (r : Wide) (g : BitVec 5) (l : LsAccess) : (h.startTrigger u n d r g l).resv = h.resv := rfl
@[simp] theorem Hart.startTrigger_arrived (h : Hart) (u : EngineUnit) (n : BitVec 8) (d : Nat) (r : Wide) (g : BitVec 5) (l : LsAccess) : (h.startTrigger u n d r g l).arrived = h.arrived := rfl
@[simp] theorem Hart.startTrigger_pending (h : Hart) (u : EngineUnit) (n : BitVec 8) (d : Nat) (r : Wide) (g : BitVec 5) (l : LsAccess) : (h.startTrigger u n d r g l).pending = h.pending := rfl
@[simp] theorem Hart.startTrigger_upcalls (h : Hart) (u : EngineUnit) (n : BitVec 8) (d : Nat) (r : Wide) (g : BitVec 5) (l : LsAccess) : (h.startTrigger u n d r g l).upcalls = h.upcalls := rfl
@[simp] theorem Hart.startTrigger_upReserved (h : Hart) (u : EngineUnit) (n : BitVec 8) (d : Nat) (r : Wide) (g : BitVec 5) (l : LsAccess) : (h.startTrigger u n d r g l).upReserved = h.upReserved := rfl
@[simp] theorem Hart.startTrigger_holdAll (h : Hart) (u : EngineUnit) (n : BitVec 8) (d : Nat) (r : Wide) (g : BitVec 5) (l : LsAccess) : (h.startTrigger u n d r g l).holdAll = h.holdAll := rfl
@[simp] theorem Hart.startTrigger_holdWrites (h : Hart) (u : EngineUnit) (n : BitVec 8) (d : Nat) (r : Wide) (g : BitVec 5) (l : LsAccess) : (h.startTrigger u n d r g l).holdWrites = h.holdWrites := rfl
@[simp] theorem Hart.startTrigger_lines (h : Hart) (u : EngineUnit) (n : BitVec 8) (d : Nat) (r : Wide) (g : BitVec 5) (l : LsAccess) : (h.startTrigger u n d r g l).lines = h.lines := rfl
@[simp] theorem Hart.startTrigger_fetching (h : Hart) (u : EngineUnit) (n : BitVec 8) (d : Nat) (r : Wide) (g : BitVec 5) (l : LsAccess) : (h.startTrigger u n d r g l).fetching = h.fetching := rfl
@[simp] theorem Hart.startTrigger_windowsUsed (h : Hart) (u : EngineUnit) (n : BitVec 8) (d : Nat) (r : Wide) (g : BitVec 5) (l : LsAccess) : (h.startTrigger u n d r g l).windowsUsed = h.windowsUsed := rfl
@[simp] theorem Hart.startTrigger_lr (h : Hart) (u : EngineUnit) (n : BitVec 8) (d : Nat) (r : Wide) (g : BitVec 5) (l : LsAccess) : (h.startTrigger u n d r g l).lr = h.lr := rfl
@[simp] theorem Hart.startTrigger_loaded (h : Hart) (u : EngineUnit) (n : BitVec 8) (d : Nat) (r : Wide) (g : BitVec 5) (l : LsAccess) : (h.startTrigger u n d r g l).loaded = h.loaded := rfl
@[simp] theorem Hart.startTrigger_gbars (h : Hart) (u : EngineUnit) (n : BitVec 8) (d : Nat) (r : Wide) (g : BitVec 5) (l : LsAccess) : (h.startTrigger u n d r g l).gbars = h.gbars := rfl
@[simp] theorem Hart.startTrigger_fetched (h : Hart) (u : EngineUnit) (n : BitVec 8) (d : Nat) (r : Wide) (g : BitVec 5) (l : LsAccess) : (h.startTrigger u n d r g l).fetched = h.fetched := rfl
@[simp] theorem Hart.startTrigger_upsets (h : Hart) (u : EngineUnit) (n : BitVec 8) (d : Nat) (r : Wide) (g : BitVec 5) (l : LsAccess) : (h.startTrigger u n d r g l).upsets = h.upsets := rfl

@[simp] theorem Hart.advance_pc (h : Hart) : h.advance.pc = h.pc + 4 := rfl
@[simp] theorem Hart.moveTo_st (h : Hart) (st : HartState) (n : Nat) : (h.moveTo st n).st = st := rfl

/-! What an update reads back. -/

@[simp] theorem State.core_setCore_same (s : State) (c : Nat) (v : Core) : (s.setCore c v).core c = v := by
  simp [State.core, State.setCore]

theorem State.core_setCore_other (s : State) {c d : Nat} (v : Core) (h : d ≠ c) : (s.setCore c v).core d = s.core d := by
  simp [State.core, State.setCore, tableGet_tableSet_other _ _ h]

@[simp] theorem State.setCore_setCore (s : State) (c : Nat) (v w : Core) : (s.setCore c v).setCore c w = s.setCore c w := by
  simp [State.setCore]

@[simp] theorem State.hart_setHart_same (s : State) (h : HartRef) (v : Hart) : (s.setHart h v).hart h = v := by
  simp [State.hart, State.setHart]

theorem State.hart_setHart_other (s : State) {h g : HartRef} (v : Hart) (hg : g ≠ h) : (s.setHart h v).hart g = s.hart g := by
  unfold State.hart State.setHart
  by_cases hc : g.core = h.core
  · rw [hc, State.core_setCore_same]
    have : (g.hart : Nat) ≠ h.hart := fun e => hg (by cases g; cases h; simp_all [Fin.ext_iff])
    exact Vector.getElem_set_ne h.hart.isLt _ (Ne.symm this)
  · rw [State.core_setCore_other _ _ hc]

@[simp] theorem State.setHart_setHart (s : State) (h : HartRef) (v w : Hart) : (s.setHart h v).setHart h w = s.setHart h w := by
  simp [State.setHart]

@[simp] theorem State.me_setMe (s : State) (v : Hart) : (s.setMe v).me = v := State.hart_setHart_same s s.cur v

@[simp] theorem State.setMe_setMe (s : State) (v w : Hart) : (s.setMe v).setMe w = s.setMe w :=
  State.setHart_setHart s s.cur v w

@[simp] theorem State.die_setDie_same (s : State) (d : DieId) (v : Die) : (s.setDie d v).die d = v := by
  simp [State.die, State.setDie]

theorem State.die_setDie_other (s : State) {d e : DieId} (v : Die) (h : e ≠ d) : (s.setDie d v).die e = s.die e := by
  have : (e : Nat) ≠ d := fun x => h (Fin.ext x)
  simp [State.die, State.setDie, Vector.getElem_set_ne _ _ (Ne.symm this)]

@[simp] theorem State.slot_setSlot_same (s : State) (i : SlotId) (v : Slot) : (s.setSlot i v).slot i = v := by
  simp [State.slot, State.setSlot]

theorem State.slot_setSlot_other (s : State) {i j : SlotId} (v : Slot) (h : j ≠ i) : (s.setSlot i v).slot j = s.slot j := by
  have : (j : Nat) ≠ i := fun x => h (Fin.ext x)
  simp [State.slot, State.setSlot, Vector.getElem_set_ne _ _ (Ne.symm this)]

@[simp] theorem State.desc_setDesc_same (s : State) (n : Nat) (v : Desc) : (s.setDesc n v).desc n = v := by
  simp [State.desc, State.setDesc]

theorem State.desc_setDesc_other (s : State) {n m : Nat} (v : Desc) (h : m ≠ n) : (s.setDesc n v).desc m = s.desc m := by
  simp [State.desc, State.setDesc, tableGet_tableSet_other _ _ h]

@[simp] theorem State.ctx_setCtx_same (s : State) (c : BitVec 8) (v : Ctx) : (s.setCtx c v).ctx? c = some v := by
  simp [State.ctx?, State.setCtx]

/-! Registers of a hart (R137, R168). -/

/-- A register just filled reads as its value, but x0. -/
theorem Hart.readX_fill_same (h : Hart) (r : Reg) (v : Word) : (h.fill r v).readX r = if r = 0 then 0 else v := by
  unfold Hart.readX Hart.fill; split <;> simp_all

/-- Filling a register leaves every other register's value. -/
theorem Hart.readX_fill_other (h : Hart) {r q : Reg} (v : Word) (hq : q ≠ r) : (h.fill r v).readX q = h.readX q := by
  have : r.toNat ≠ q.toNat := fun e => hq (BitVec.eq_of_toNat_eq e.symm)
  unfold Hart.fill
  split
  · rfl
  · unfold Hart.readX
    split
    · rfl
    · exact Vector.getElem_set_ne r.isLt _ this

/-- A filled register reads as full. -/
theorem Hart.isFull_fill_same (h : Hart) (r : Reg) (v : Word) : (h.fill r v).isFull r = true := by
  have hb := r.isLt
  unfold Hart.isFull Hart.fill
  split
  · next hr => rw [hr]; rfl
  · show (r == 0 || (h.xFull ||| 1#32 <<< r.toNat).getLsbD r.toNat) = true
    simp [BitVec.getLsbD_or, BitVec.getLsbD_shiftLeft]
    right; right; omega

/-- An emptied register reads as empty, but x0. -/
theorem Hart.isFull_empty_same (h : Hart) (r : Reg) : (h.empty r).isFull r = (r == 0) := by
  have hb := r.isLt
  unfold Hart.isFull Hart.empty
  split
  · next hr => rw [hr]; rfl
  · show (r == 0 || (h.xFull &&& ~~~ (1#32 <<< r.toNat)).getLsbD r.toNat) = (r == 0)
    simp [BitVec.getLsbD_and, BitVec.getLsbD_shiftLeft]

/-- A latch just set reads back. -/
@[simp] theorem Hart.latch_setLatch_same (h : Hart) (p : BitVec 6) (l : Latch) : (h.setLatch p l).latch p = l := by
  simp [Hart.latch, Hart.setLatch]

theorem Hart.latch_setLatch_other (h : Hart) {p q : BitVec 6} (l : Latch) (hq : q ≠ p) :
    (h.setLatch p l).latch q = h.latch q := by
  have : p.toNat ≠ q.toNat := fun e => hq (BitVec.eq_of_toNat_eq e.symm)
  simp [Hart.latch, Hart.setLatch, Vector.getElem_set_ne _ _ this]

/-! The three ends of an instruction (R31, R35, R361). -/

theorem State.complete_eq (s : State) (h : Hart) : s.complete h = s.setMe h.advance := rfl

/-- A hart that parks keeps its PC and registers, and nothing outside it changes. -/
theorem State.me_park (s : State) (w : Wait) :
    (s.park w).me = { s.me.moveTo .parked s.refTime with wait := w } := State.me_setMe s _

/-- A precise trap changes the issuing hart alone, as `takeTrap` says. -/
theorem State.me_trap (s : State) (cause : Nat) (v : Word) :
    (s.trap cause v).me = s.me.takeTrap false cause v s.me.pc s.refTime := State.me_setMe s _

end Sys2Proof.Machine
end

