-- ==== Sys2Proof/Laws/Triggers.lean ====
section
/-! SUPPORT. What a trigger does in its slot, once for every unit (R203, R206, R209). -/

namespace Sys2Proof.Machine

/-- No port of a list is the lowest of those that fail a test on each. -/
theorem lowestPort_none (l : List (BitVec 6)) (f : BitVec 6 → Bool) (h : ∀ p ∈ l, f p = false) : lowestPort l f = none := by
  unfold lowestPort
  have : l.filter f = [] := by rw [List.filter_eq_nil_iff]; intro a ha; simp [h a ha]
  rw [this]; rfl

/-- When the ports of an instruction without pushes decide that it performs (R203, R414): every source, every required and
every optional latch is as the instruction needs it, and the queue holds the entries that it pops. -/
theorem State.checkPorts_ok (s : State) (h : HartRef) (sources required optional : List (BitVec 6))
    (hl : ∀ p ∈ sources ++ required ++ optional, ((s.hart h).latch p).st ≠ .lost)
    (hs : ∀ p ∈ sources, p ≠ 0x2A → p ≠ 0x2C → ((s.hart h).latch p).st = .full)
    (hr : ∀ p ∈ required, ((s.hart h).latch p).st = .full)
    (hq : 0x2A ∈ sources → s.hasUpstream h.core = true ∧ (sources.filter (· == 0x2A)).length ≤ s.poppable h.core) :
    s.checkPorts h sources [] required optional = .ok := by
  have special (b : Bool) : (s.hart h).emptyResult b 0x2A = false ∧ (s.hart h).emptyResult b 0x2C = false := ⟨rfl, rfl⟩
  have hempty (b : Bool) : ∀ p ∈ sources, (s.hart h).emptyResult b p = false := by
    intro p hp
    by_cases h1 : p = 0x2A
    · rw [h1]; exact (special b).1
    · by_cases h2 : p = 0x2C
      · rw [h2]; exact (special b).2
      · unfold Hart.emptyResult
        split
        · rw [hs p hp h1 h2]; rfl
        · rfl
  have e1 : lowestPort (sources ++ required ++ optional) (fun p => ((s.hart h).latch p).st == .lost) = none :=
    lowestPort_none _ _ fun p hp => by simpa using hl p hp
  have e2 : lowestPort (sources.filter ((s.hart h).emptyResult false) ++ required)
      (fun p => ((s.hart h).latch p).st == .empty) = none := by
    refine lowestPort_none _ _ fun p hp => ?_
    rcases List.mem_append.1 hp with hp | hp
    · have := List.mem_filter.1 hp
      rw [hempty false p this.1] at this; simp at this
    · simp [hr p hp]
  have e3 : sources.find? ((s.hart h).emptyResult true) = none := by
    rw [List.find?_eq_none]; intro p hp; simp [hempty true p hp]
  unfold State.checkPorts
  simp only [e1, e2, e3, List.filter_nil, List.length_nil, ne_eq, not_true_eq_false, false_and, or_false]
  by_cases hm : 0x2A ∈ sources
  · obtain ⟨h1, h2⟩ := hq hm
    rw [if_neg (by simp [h1]), if_neg (by omega)]; rfl
  · have h0 : sources.filter (· == 0x2A) = [] := by
      rw [List.filter_eq_nil_iff]; intro a ha; simp; rintro rfl; exact hm ha
    rw [h0]; simp

/-- The issuing hart after a pop is as it was. -/
theorem State.me_popQueue (s : State) (n : Nat) : (s.popQueue s.cur.core n).me = s.me := by
  unfold State.popQueue State.me State.hart; simp

/-- The hart after the source move of a trigger: its operand latch takes the source's value (R206). -/
theorem State.me_sourceMove (s : State) (u : EngineUnit) (p : BitVec 6) (hp : p ≠ operandPort u) :
    (s.sourceMove u p).me = s.me.writePort (operandPort u) (s.readSource p 0) := by
  unfold State.sourceMove; simp [hp]

/-- A trigger whose latches are as it needs them performs after its source move (R203, R206, R414). -/
theorem State.trigger_fires (s : State) (g : Trig) (u : EngineUnit) (n : TriggerNeeds)
    (tile : Option Wide → Option (BitVec 6)) (perform : State → State)
    (ha : armed s g u n.required n.optional)
    (htile : tile (s.triggerOperand u g.port) = none) (hop : n.operand (s.triggerOperand u g.port) = none) :
    s.trigger g u n tile perform = perform (s.sourceMove u g.port) := by
  obtain ⟨hsrc, hreq, hopt, hlim⟩ := ha
  unfold sourceReady at hsrc
  have hpark : (!(g.port == operandPort u) && s.me.emptyResult true g.port) = false := by
    by_cases hp : g.port = operandPort u
    · simp [hp]
    · simp only [beq_eq_false_iff_ne.2 hp, Bool.not_false, Bool.true_and]
      rw [if_neg hp] at hsrc
      rcases hsrc.2 with h | ⟨h, -⟩ | ⟨-, h⟩
      · rw [h]; rfl
      · rw [h]; rfl
      · unfold Hart.emptyResult; split
        · rw [h]; rfl
        · rfl
  have hck : s.checkPorts s.cur (if (g.port == operandPort u) = true then [] else [g.port]) []
      (if (g.port == operandPort u) = true then n.required else n.required.filter (· != operandPort u)) n.optional = .ok := by
    by_cases hp : g.port = operandPort u
    · rw [if_pos (by simp [hp]), if_pos (by simp [hp])]
      rw [if_pos hp] at hsrc
      have hall : ∀ q ∈ n.required, (s.me.latch q).st = .full := by
        intro q hq; by_cases h : q = operandPort u
        · rw [h, ← hp]; exact hsrc
        · exact hreq q hq h
      refine s.checkPorts_ok s.cur [] _ _ ?_ (by simp) hall (by simp)
      intro q hq
      rcases List.mem_append.1 hq with h | h
      · rw [show (s.hart s.cur) = s.me from rfl, hall q (by simpa using h)]; decide
      · exact hopt q h
    · rw [if_neg (by simp [hp]), if_neg (by simp [hp])]
      rw [if_neg hp] at hsrc
      have hall : ∀ q ∈ n.required.filter (· != operandPort u), (s.me.latch q).st = .full := by
        intro q hq; have := List.mem_filter.1 hq; exact hreq q this.1 (by simpa using this.2)
      refine s.checkPorts_ok s.cur [g.port] _ _ ?_ ?_ hall ?_
      · intro q hq
        rcases List.mem_append.1 hq with h | h
        · rcases List.mem_append.1 h with h | h
          · rw [List.mem_singleton.1 h]; exact hsrc.1
          · rw [show (s.hart s.cur) = s.me from rfl, hall q h]; decide
        · exact hopt q h
      · intro q hq h1 h2
        rw [List.mem_singleton.1 hq] at h1 h2 ⊢
        rcases hsrc.2 with h | h | h
        · exact absurd h h2
        · exact absurd h.1 h1
        · exact h.2
      · intro hm
        have hm := (List.mem_singleton.1 hm).symm
        rcases hsrc.2 with h | h | h
        · rw [hm] at h; exact absurd h (by decide)
        · refine ⟨h.2.1, ?_⟩
          rw [hm]; exact h.2.2
        · exact absurd hm h.1
  unfold State.trigger
  simp only [hpark, htile, hop, hck, if_neg (Nat.not_le.2 hlim)]
  rfl

/-- The latches of a hart after the source move of a trigger that fires (R200, R206). -/
theorem State.me_sourceMove_latch (s : State) (u : EngineUnit) (p q : BitVec 6) (hq : q ≠ operandPort u) :
    (s.sourceMove u p).me.latch q = s.me.latch q := by
  by_cases hp : p = operandPort u
  · unfold State.sourceMove; simp [hp]
  · rw [State.me_sourceMove s u p hp]
    unfold Hart.writePort
    split
    · rfl
    · exact Hart.latch_setLatch_other _ _ hq

theorem State.me_setMyCore (s : State) (c : Core) : (s.setMyCore c).me = c.harts[s.cur.hart] := by
  unfold State.setMyCore State.me State.hart; simp

theorem State.setMe_eq (s : State) (v : Hart) :
    s.setMe v = s.setMyCore { s.myCore with harts := s.myCore.harts.set s.cur.hart v } := rfl

@[simp] theorem State.myCore_setMyCore (s : State) (c : Core) : (s.setMyCore c).myCore = c := by
  unfold State.setMyCore State.myCore; simp

@[simp] theorem State.setMyCore_setMyCore (s : State) (c d : Core) : (s.setMyCore c).setMyCore d = s.setMyCore d := by
  unfold State.setMyCore; simp

/-- The latches of a trigger that fires read as `triggerValue` says (R200, R206). -/
theorem State.latch_sourceMove (s : State) (g : Trig) (u : EngineUnit) (q : BitVec 6) :
    (s.sourceMove u g.port).me.latch q =
      if q = operandPort u ∧ g.port ≠ operandPort u then ⟨.full, triggerValue s g u⟩ else s.me.latch q := by
  by_cases hp : g.port = operandPort u
  · unfold State.sourceMove; simp [hp]
  · by_cases hq : q = operandPort u
    · rw [State.me_sourceMove s u g.port hp, hq, if_pos ⟨rfl, hp⟩]
      have : operandPort u ≠ 0x2C ∧ operandPort u ≠ 0x2B := by cases u <;> decide
      unfold Hart.writePort triggerValue State.readSource
      rw [if_neg (not_or.2 this), if_neg hp, Hart.latch_setLatch_same]
    · rw [State.me_sourceMove_latch s u _ _ hq, if_neg (fun h => hq h.1)]

/-- The hart of a trigger that fires differs in its ports alone. -/
theorem State.me_sourceMove_with (s : State) (u : EngineUnit) (p : BitVec 6) :
    (s.sourceMove u p).me = { s.me with ports := (s.sourceMove u p).me.ports } := by
  by_cases hp : p = operandPort u
  · unfold State.sourceMove; simp [hp]
  · rw [State.me_sourceMove s u p hp]
    unfold Hart.writePort
    split <;> rfl

/-- The state of a trigger that fires differs in the issuing core alone. -/
theorem State.setMyCore_sourceMove (s : State) (u : EngineUnit) (p : BitVec 6) (c : Core) :
    (s.sourceMove u p).setMyCore c = s.setMyCore c := by
  unfold State.sourceMove
  split
  · rfl
  · show ((State.popQueue _ _ _).setMe _).setMyCore c = _
    rw [State.setMe_eq, State.setMyCore_setMyCore]
    exact State.setCore_setCore _ _ _ _

/-- The issuing core of a trigger that fires (R206). -/
theorem State.myCore_sourceMove (s : State) (u : EngineUnit) (p : BitVec 6) (v : Vector Hart 16) :
    { (s.sourceMove u p).myCore with harts := v } =
      { s.myCore with harts := v, qn := if p = 0x2A then s.myCore.qn.drop 1 else s.myCore.qn } := by
  have h2 : operandPort u ≠ 0x2A := by cases u <;> decide
  unfold State.sourceMove
  split
  · next hp => rw [if_neg (by rw [hp]; exact h2)]
  · show { ((State.popQueue _ _ _).setMe _).myCore with harts := v } = _
    rw [State.setMe_eq, State.myCore_setMyCore]
    have h1 : ∀ n, (s.popQueue s.cur.core n).myCore = { s.myCore with qn := s.myCore.qn.drop n } :=
      fun n => State.core_setCore_same _ _ _
    split <;> simp [h1]

theorem State.harts_sourceMove (s : State) (u : EngineUnit) (p : BitVec 6) (v : Hart) :
    (s.sourceMove u p).myCore.harts.set s.cur.hart v = s.myCore.harts.set s.cur.hart v := by
  unfold State.sourceMove
  split
  · rfl
  · show ((State.popQueue _ _ _).setMe _).myCore.harts.set _ v = _
    rw [State.setMe_eq, State.myCore_setMyCore]
    have h1 : ∀ n, (s.popQueue s.cur.core n).myCore = { s.myCore with qn := s.myCore.qn.drop n } :=
      fun n => State.core_setCore_same _ _ _
    rw [h1]
    exact Vector.set_set _ _

@[simp] theorem State.sourceMove_cur (s : State) (u : EngineUnit) (p : BitVec 6) : (s.sourceMove u p).cur = s.cur := by
  unfold State.sourceMove; split <;> rfl

/-- The slot of a trigger from its parts: the hart and the core that its source move leaves, but for the count of events. -/
theorem triggerSlot_of (s : State) (g : Trig) (u : EngineUnit) (fn : BitVec 8) (due : Nat) (r : Wide) (fl : BitVec 5)
    (acc : LsAccess) (n : Word) :
    let s' := s.sourceMove u g.port
    triggerSlot s (s.setMyCore { s'.myCore with
      numevt := n, harts := s'.myCore.harts.set s.cur.hart (s'.me.startTrigger u fn due r fl acc).advance })
      g u fn ⟨u, s.me.seq, fn, due, r, fl, acc, true⟩ := by
  intro s'
  have hw : s'.me = { s.me with ports := s'.me.ports } := s.me_sourceMove_with u g.port
  have hl : ∀ q, s'.me.latch q = _ := s.latch_sourceMove g u
  have hh : ∀ x, s'.myCore.harts.set s.cur.hart x = s.myCore.harts.set s.cur.hart x := s.harts_sourceMove u g.port
  have hcore : ∀ x, { s'.myCore with harts := x } = _ := s.myCore_sourceMove u g.port
  generalize s'.me = v at *
  have hme : ∀ c : Core, (s.setMyCore c).me = c.harts[s.cur.hart] := s.me_setMyCore
  have hseq : v.seq = s.me.seq := by rw [hw]
  have hme' : (s.setMyCore { s'.myCore with
      numevt := n, harts := s'.myCore.harts.set s.cur.hart (v.startTrigger u fn due r fl acc).advance }).me
      = (v.startTrigger u fn due r fl acc).advance := by
    rw [hme]; simp
  refine ⟨?_, ⟨rfl, rfl, rfl, rfl⟩, ?_, ?_, ?_, ?_⟩
  · rw [hme', hw]; rfl
  · intro p
    rw [hme']
    show (v.setLatch (resultPort u) Latch.empty).latch p = _
    unfold latchAfter
    by_cases hp : p = resultPort u
    · rw [if_pos hp, hp]; exact Hart.latch_setLatch_same _ _ _
    · rw [if_neg hp]
      exact (Hart.latch_setLatch_other _ _ hp).trans (hl p)
  · rw [hme', hw]; rfl
  · simp
  · rw [hme', State.myCore_setMyCore, hh]
    have := hcore (s.myCore.harts.set s.cur.hart (v.startTrigger u fn due r fl acc).advance)
    exact congrArg (fun c : Core => { c with numevt := n }) this

/-- A trigger of VA, VS or CV whose latches are as it needs them takes its slot as `triggerSlot` says, with the result, the
flags and the die cycle that its function and its operands give (R206, R208). -/
theorem State.compute_slot (s : State) (g : Trig) (u : EngineUnit) (fn : BitVec 8) (required optional : List (BitVec 6))
    (latency : Nat) (f : Hart → Wide × FFlags × Events) (ha : armed s g u required optional) (ho : g.ord = 0 ∧ g.scope = 0) :
    triggerSlot s (s.compute g u fn required optional latency f) g u fn
      ⟨u, s.me.seq, fn, s.coreCycle s.cur.core + latency, (f (s.sourceMove u g.port).me).1, (f (s.sourceMove u g.port).me).2.1,
        .none, true⟩ := by
  have hf : s.compute g u fn required optional latency f = _ :=
    s.trigger_fires g u ⟨required, optional, fun _ => unorderedOnly g⟩ (fun _ => none) _ ha rfl (by simp [unorderedOnly, ho])
  have hc : ∀ c, (s.sourceMove u g.port).setMyCore c = s.setMyCore c := s.setMyCore_sourceMove u g.port
  rw [hf]
  generalize hr : f (s.sourceMove u g.port).me = r
  obtain ⟨r, fl, ev⟩ := r
  have hcc : ∀ c, (s.setMyCore c).coreCycle s.cur.core = s.coreCycle s.cur.core := fun _ => rfl
  have hm : (((s.sourceMove u g.port).setMyCore ((s.sourceMove u g.port).myCore.countEvents ev)).me)
      = (s.sourceMove u g.port).me := by rw [State.me_setMyCore]; rfl
  show triggerSlot s (State.complete _ (Hart.startTrigger (State.me _) _ _ _ _ _ _)) _ _ _ _
  have h := triggerSlot_of s g u fn (s.coreCycle s.cur.core + latency) r fl .none
    (((s.sourceMove u g.port).myCore.countEvents ev).numevt)
  rw [hm, hc, State.complete_eq, State.setMe_eq]
  simp only [State.setMyCore_setMyCore, State.myCore_setMyCore]
  exact h

/-- An instruction whose meaning is a computing trigger triggers its unit, with what its function gives on the latches that
the source move leaves. -/
theorem triggers_of_compute {i : Instr} {s : State} {g : Trig} {u : EngineUnit} {fn : BitVec 8}
    {required optional : List (BitVec 6)} {latency : Nat} {f : Hart → Wide × FFlags × Events} {result : Wide → BitVec 5 → Prop}
    (he : exec i s = .next (s.compute g u fn required optional latency f)) (ha : armed s g u required optional)
    (ho : g.ord = 0 ∧ g.scope = 0)
    (hr : result (f (s.sourceMove u g.port).me).1 (f (s.sourceMove u g.port).me).2.1) :
    triggers i s g u fn latency result :=
  ⟨_, _, _, he, hr, s.compute_slot g u fn required optional latency f ha ho⟩

/-- A latch that the source move does not fill reads as before (R200, R206). -/
theorem State.readPort_sourceMove (s : State) (g : Trig) (u : EngineUnit) (q : BitVec 6) (hq : q ≠ operandPort u)
    (h0 : q ≠ 0x2C) : (s.sourceMove u g.port).me.readPort q = operandLatch s q := by
  unfold Hart.readPort operandLatch
  rw [if_neg h0, State.latch_sourceMove, if_neg (fun h => hq h.1)]

/-- The trigger operand after the source move (R200, R206). -/
theorem State.readPort_sourceMove_operand (s : State) (g : Trig) (u : EngineUnit) :
    (s.sourceMove u g.port).me.readPort (operandPort u) = triggerValue s g u := by
  have h0 : operandPort u ≠ 0x2C := by cases u <;> decide
  unfold Hart.readPort
  rw [if_neg h0, State.latch_sourceMove]
  by_cases hp : g.port = operandPort u
  · rw [if_neg (fun h => h.2 hp)]; unfold triggerValue; rw [if_pos hp, hp]
  · rw [if_pos ⟨rfl, hp⟩]

/-- The control registers and the sequence number after the source move. -/
theorem State.csr_sourceMove (s : State) (u : EngineUnit) (p : BitVec 6) : (s.sourceMove u p).me.csr = s.me.csr := by
  rw [State.me_sourceMove_with]

/-- The mask of VA after the source move (R210). -/
theorem State.vaMask_sourceMove (s : State) (g : Trig) {l : Nat} (hl : l < 64) :
    (s.sourceMove .va g.port).me.vaMask.testBit l = vaEnabled s l := by
  have h : (s.sourceMove .va g.port).me.latch 0x13 = s.me.latch 0x13 := by
    rw [State.latch_sourceMove, if_neg (fun h => absurd h.1 (by decide))]
  unfold Hart.vaMask vaEnabled Hart.fullLatch
  rw [h]
  cases (s.me.latch 0x13).st with
  | full => rfl
  | empty => rw [Nat.testBit_two_pow_sub_one]; simpa using hl
  | lost => rw [Nat.testBit_two_pow_sub_one]; simpa using hl

/-- ORing the flags of all lanes is ORing those of the lanes that raise any. -/
theorem foldl_flags (f : Nat → BitVec 5) (e : Nat → Bool) (l : List Nat) (a : BitVec 5) :
    (l.map fun i => if e i then f i else 0).foldl (fun x y => x ||| y) a
      = (l.filter e).foldl (fun x y => x ||| f y) a := by
  induction l generalizing a with
  | nil => rfl
  | cons x r ih =>
    rw [List.map_cons, List.foldl_cons, List.filter_cons]
    cases h : e x
    · rw [if_neg (by decide), if_neg (by decide), ih, show a ||| 0 = a from BitVec.or_zero]
    · rw [if_pos rfl, if_pos rfl, ih, List.foldl_cons]

/-- A lane operation of VA, lane by lane (R210). -/
theorem vaResult_vaLanes (s : State) (g : Trig) (w : Nat) (hw : 8 ≤ w) (op : Nat → Nat → Nat → Nat × FFlags) :
    vaResult s g w (fun x y z => (op x y z).1) ((s.sourceMove .va g.port).me.vaLanes w op).1 ∧
    vaFlags s g w (fun x y z => (op x y z).2) ((s.sourceMove .va g.port).me.vaLanes w op).2.1 := by
  have hx := s.readPort_sourceMove_operand g .va
  have hy := s.readPort_sourceMove g .va 0x11 (by decide) (by decide)
  have hz := s.readPort_sourceMove g .va 0x12 (by decide) (by decide)
  have hm : ∀ l, l < 512 / w → (s.sourceMove .va g.port).me.vaMask.testBit l = vaEnabled s l := fun l hl =>
    s.vaMask_sourceMove g (Nat.lt_of_lt_of_le hl (Nat.div_le_of_le_mul (by omega)))
  constructor
  · intro l hl
    unfold Hart.vaLanes
    simp only [List.map_map]
    rw [lane_ofLanes_map w _ l hl]
    simp only [Function.comp_apply, hm l hl]
    rw [show operandPort .va = 0x10 from rfl] at hx
    rw [hx, hy, hz]
    cases vaEnabled s l <;> simp
  · unfold vaFlags Hart.vaLanes
    rw [show operandPort .va = 0x10 from rfl] at hx
    rw [← foldl_flags, List.foldl_map]
    dsimp only
    rw [List.foldl_map]
    refine List.foldl_ext _ _ _ fun a l hl => ?_
    rw [List.mem_range] at hl
    rw [hm l hl, hx, hy, hz]
    cases vaEnabled s l <;> simp

/-- A bit of a number laid out bit by bit. -/
theorem bits_foldr (l : List Bool) (i : Nat) :
    (l.foldr (fun (x : Bool) (acc : Nat) => (if x then 1 else 0) + 2 * acc) 0).testBit i = l.getD i false := by
  induction l generalizing i with
  | nil => simp
  | cons x r ih =>
    cases i with
    | zero => cases x <;> simp [Nat.testBit_zero]
    | succ i =>
      rw [List.foldr_cons, Nat.testBit_succ]
      have (n : Nat) : ((if x then 1 else 0) + 2 * n) / 2 = n := by cases x <;> (simp; try omega)
      rw [this, ih]; simp

/-- A compare of VA, bit by bit (R213). -/
theorem vaRelation_vaCompare (s : State) (g : Trig) (w : Nat) (hw : 8 ≤ w) (op : Nat → Nat → Bool × FFlags) :
    vaRelation s g w (fun x y => (op x y).1) ((s.sourceMove .va g.port).me.vaCompare w op).1 ∧
    vaFlags s g w (fun x y _ => (op x y).2) ((s.sourceMove .va g.port).me.vaCompare w op).2.1 := by
  have hx := s.readPort_sourceMove_operand g .va
  rw [show operandPort .va = 0x10 from rfl] at hx
  have hy := s.readPort_sourceMove g .va 0x11 (by decide) (by decide)
  have hm : ∀ l, l < 512 / w → (s.sourceMove .va g.port).me.vaMask.testBit l = vaEnabled s l := fun l hl =>
    s.vaMask_sourceMove g (Nat.lt_of_lt_of_le hl (Nat.div_le_of_le_mul (by omega)))
  constructor
  · intro l hl
    unfold Hart.vaCompare
    have e (r : List (Bool × FFlags)) : r.foldr (fun (x : Bool × FFlags) (acc : Nat) => (if x.1 then 1 else 0) + 2 * acc) 0
        = (r.map (·.1)).foldr (fun (x : Bool) (acc : Nat) => (if x then 1 else 0) + 2 * acc) 0 := by rw [List.foldr_map]
    simp only [e]
    rw [BitVec.getLsbD_ofNat, bits_foldr]
    by_cases hn : l < 512 / w
    · simp only [hl, hn, decide_true, Bool.true_and, List.map_map, List.getD, List.getElem?_map, List.getElem?_range hn,
        Option.map_some, Option.getD_some, Function.comp_apply, hm l hn, hx, hy]
      cases vaEnabled s l <;> simp
    · have : ((List.range (512 / w)).map (fun i => if (s.sourceMove .va g.port).me.vaMask.testBit i then
          op (lane w ((s.sourceMove .va g.port).me.readPort 0x10) i) (lane w ((s.sourceMove .va g.port).me.readPort 0x11) i)
          else (false, 0))).length ≤ l := by simp; omega
      simp only [hl, hn, decide_true, decide_false, Bool.true_and, Bool.false_and, List.getD]
      rw [List.getElem?_eq_none (by simpa using this)]; rfl
  · unfold vaFlags Hart.vaCompare
    rw [← foldl_flags, List.foldl_map]
    dsimp only
    rw [List.foldl_map]
    refine List.foldl_ext _ _ _ fun a l hl => ?_
    rw [List.mem_range] at hl
    rw [hm l hl, hx, hy]
    cases vaEnabled s l <;> simp

end Sys2Proof.Machine
end

