-- ==== Sys2Proof/Tests/Slice0.lean ====
section
/-! SUPPORT. Tests of the model, each one step on a small state or a word of the spec, and the witnesses of the statements'
hypotheses: for every statement a state and operands that meet them, for each of its clauses. -/

namespace Sys2Proof.Tests

set_option maxRecDepth 8000
set_option Elab.async false

open Sys2Proof.Machine

/-! ### Small states -/

/-- Hart 0 of core 0, RUNNING in M mode. -/
def base : State := State.reset.setHart ⟨0, 0⟩ { Hart.reset with st := .running }

/-- The state after an instruction, or the same one where it stops. -/
def after (i : Instr) (s : State) : State :=
  match exec i s with
  | .next t => t
  | _ => s

/-- The issuing hart with values in its latches. -/
def latched (s : State) (l : List (BitVec 6 × Wide)) : State :=
  s.setMe (l.foldl (fun (h : Hart) (x : BitVec 6 × Wide) => h.writePort x.1 x.2) s.me)

/-- The issuing hart with values in its registers. -/
def withX (s : State) (l : List (Reg × Word)) : State :=
  s.setMe (l.foldl (fun (h : Hart) (x : Reg × Word) => h.fill x.1 x.2) s.me)

/-- The issuing hart in a mode. -/
def inMode (s : State) (m : Mode) : State := s.setMe { s.me with mode := m }

/-- Core 0 changed. -/
def core0 (s : State) (f : Core → Core) : State := s.setCore 0 (f (s.core 0))

/-! ### VA, VS, CV and LS -/

def vaState : State := latched base [(0x10, 5), (0x11, 3), (0x12, 7)]
def gVa : Trig := ⟨0, 0, 0x10⟩

theorem witness_VaIntegerLanes : armed vaState gVa .va [0x10, 0x11] [] ∧ gVa.ord = 0 ∧ gVa.scope = 0 := by
  unfold armed sourceReady; decide +kernel
theorem witness_VaIntegerLanes_lacks : lacks (latched base [(0x10, 5)]) gVa .va 0x10 0x11 0x11 ∧
    lacks (latched base [(0x11, 5)]) gVa .va 0x10 0x11 0x10 := by unfold lacks; decide +kernel
theorem witness_VaFloatFunctions : armed vaState gVa .va [0x10, 0x11] [] ∧ armed vaState gVa .va [0x10, 0x11, 0x12] [] ∧
    armed vaState gVa .va [0x10] [] ∧ gVa.ord = 0 ∧ gVa.scope = 0 := by
  refine ⟨?_, ?_, ?_, ?_⟩ <;> (try unfold armed sourceReady) <;> decide +kernel
theorem witness_VaLogicSelectAndCompares : armed vaState gVa .va [0x10, 0x11] [] ∧ gVa.ord = 0 ∧ gVa.scope = 0 := by
  unfold armed sourceReady; decide +kernel
theorem witness_VaLogicSelectAndCompares_nan : ((Val.nan false 0).isNan ∨ (Val.fin false 1 0).isNan) := by decide
theorem witness_VsShuffles : armed (latched base [(0x15, 9), (0x16, 1)]) ⟨0, 0, 0x15⟩ .vs [0x15, 0x16] [] ∧ (0 : BitVec 2) ≠ 3 := by
  unfold armed sourceReady; decide +kernel
theorem witness_VsShuffles_lacks : lacks (latched base [(0x15, 5)]) ⟨0, 0, 0x15⟩ .vs 0x15 0x16 0x16 ∧
    lacks (latched base [(0x16, 5)]) ⟨0, 0, 0x15⟩ .vs 0x15 0x16 0x15 := by unfold lacks; decide +kernel
theorem witness_VsReductions : armed (latched base [(0x15, 9)]) ⟨0, 0, 0x15⟩ .vs [0x15] [0x16] ∧
    armed (latched base [(0x15, 9), (0x16, 0)]) ⟨0, 0, 0x15⟩ .vs [0x15] [0x16] := by
  unfold armed sourceReady; decide +kernel
theorem witness_CvRoundedConversions : armed (latched base [(0x18, 9)]) ⟨0, 0, 0x18⟩ .cv [0x18] [] ∧ (2 : BitVec 2) ≠ 3 := by
  unfold armed sourceReady; decide +kernel
theorem witness_CvWidenings : armed (latched base [(0x18, 9)]) ⟨0, 0, 0x18⟩ .cv [0x18] [] := by
  unfold armed sourceReady; decide +kernel
theorem witness_CvEncodes : armed (latched base [(0, 9)]) ⟨0, 0, 0⟩ .cv [0x18] [] := by
  unfold armed sourceReady; decide +kernel

/-- ls.a at an offset of the own scratchpad through a window, with its AUX, and ls.d. -/
def lsState (win off aux : Nat) : State :=
  latched base [(0x1B, BitVec.ofNat 512 (0x8000000000000000 + win * 2 ^ 18 + off + aux * 2 ^ 64)), (0x1C, 77)]
def gLs : Trig := ⟨0, 0, 0x1B⟩

/-- Functions with the window, offset and AUX of an access they admit: the last places of the scratchpad, the shortest and the
longest counted load, and masks of one byte and of 64. -/
def lsOperands : List (BitVec 8 × Nat × Nat × Nat) :=
  [(0, 0, 0, 0), (0, 0, 0x3FFC0, 0), (0, 1, 0x3FFE0, 0), (0, 3, 0x3FFDF, 0), (0, 6, 0x3FFF0, 0), (1, 5, 0, 0), (2, 5, 0x3FFD8, 0), (3, 0, 0x3FFFF, 1),
   (3, 0, 0x3FFC0, 64), (8, 0, 0x3FFC0, 0), (8, 4, 0, 0), (8, 7, 0, 0), (9, 0, 0x3FFFF, 1), (9, 0, 0x3FFC0, 2 ^ 64 - 1)]

theorem witness_LsTriggers :
    (∀ x ∈ lsOperands, let s := lsState x.2.1 x.2.2.1 x.2.2.2
      s.lsPlace x.1 (triggerValue s gLs .ls) = some (x.2.2.1, x.2.1) ∧ s.me.latch 0x1B = ⟨.full, (s.me.latch 0x1B).val⟩) ∧
    armed (lsState 0 0 0) gLs .ls [0x1B] [] ∧ armed (lsState 0 0 0) gLs .ls [0x1B, 0x1C] [] := by
  refine ⟨?_, ?_, ?_⟩ <;> (try unfold armed sourceReady) <;> decide +kernel

/-- A trigger in flight whose time has come. -/
def flying (u : EngineUnit) (a : LsAccess) : State :=
  { base.setMe { base.me with issueFrom := 1, flights := [⟨u, 0, 0, 0, 5, 0, a, true⟩] } with arg := .unit ⟨0, 0⟩ u }

theorem witness_FixedLatencyResults : ∀ x ∈ ([(.va, .none), (.vs, .none), (.cv, .none), (.ls, .store [(spadKey 0 0, 7)]),
      (.ls, .load 0 0 0 64 0x3F80 0)] : List (EngineUnit × LsAccess)),
    ((flying x.1 x.2).hart ⟨0, 0⟩).flights.filter (fun y => y.unit == x.1) = [⟨x.1, 0, 0, 0, 5, 0, x.2, true⟩] ∧
    0 ≤ (flying x.1 x.2).coreCycle 0 ∧ (flying x.1 x.2).slotPending 0 = false ∧ (flying x.1 x.2).anyPoisoned ((List.range 64).map fun i => spadKey 0 (0 + i)) = false := by
  decide +kernel

/-- R211: byte lanes wrap. -/
theorem test_va_add_wraps : ((after (.vaAdd gVa 0) (latched base [(0x10, 0xFF), (0x11, 2)])).me.flights.map (·.result)) = [1] := by
  decide +kernel
/-- R211: the signed minimum of 0x80 and 1 in a byte is 0x80. -/
theorem test_va_min_signed : ((after (.vaMin gVa 0) (latched base [(0x10, 0x80), (0x11, 1)])).me.flights.map (·.result)) = [0x80] := by
  decide +kernel
/-- R211: a shift by the lane's width is one by 0. -/
theorem test_va_sll_width : ((after (.vaSll gVa 2) (latched base [(0x10, 3), (0x11, 32)])).me.flights.map (·.result)) = [3] := by
  decide +kernel
/-- R212: 1.0 + 2.0 in FP32 is 3.0 in lane 0. -/
theorem test_va_fadd : ((after (.vaFadd gVa 1) (latched base [(0x10, 0x3F800000), (0x11, 0x40000000)])).me.flights.map
    (fun f => f.result % 2 ^ 32)) = [0x40400000] := by decide +kernel
/-- R213: `fceq` of a NaN is false. -/
theorem test_va_fceq_nan : ((after (.vaFceqS gVa) (latched base [(0x10, 0x7FC00000), (0x11, 0x7FC00000)])).me.flights.map
    (fun f => f.result % 2)) = [0] := by decide +kernel
/-- R217: the sum of 16 words. -/
theorem test_vs_irsum : ((after (.vsIrsumW ⟨0, 0, 0x15⟩) (latched base [(0x15, 0x0000000500000003)])).me.flights.map (·.result)) = [8] := by
  decide +kernel
/-- R215: the first 16-bit lanes of both sources, x below y. -/
theorem test_vs_zip : ((after (.vsZiplo ⟨0, 0, 0x15⟩ 0) (latched base [(0x15, 0x1111), (0x16, 0x2222)])).me.flights.map (·.result))
    = [0x22221111] := by decide +kernel
/-- R218, R97: 1.00390625 as FP32 rounds to even BF16 1.0. -/
theorem test_cv_bf16 : ((after (.cvBf16F32 ⟨0, 0, 0x18⟩ 0) (latched base [(0x18, 0x3F808000)])).me.flights.map (·.result)) = [0x3F80] := by
  decide +kernel
/-- R208: the result latch of a finished trigger fills. -/
theorem test_result_fills : ((after .unitResultFill (flying .va .none)).me.latch 0x14) = ⟨.full, 5⟩ := by decide +kernel

/-! ### MX, WB, CE and NI triggers -/

/-- Tile 0 READY with the operands of MX for tile, slot and accumulator 0. -/
def mxState : State := latched (core0 base fun c => { c with tiles := c.tiles.set 0 { Tile.reset with st := .ready, lines := 64 } })
  [(0x1E, 64 <<< 32), (0x1F, 0), (0x20, 1)]
def gMx : Trig := ⟨0, 0, 0x1E⟩
def gWb : Trig := ⟨0, 0, 0x22⟩
def gCe : Trig := ⟨0, 0, 0x24⟩
def gNi : Trig := ⟨0, 0, 0x26⟩
def wbState : State := latched base [(0x22, 0x8000000000000000 + (64 <<< 80))]
def ceState (a : Wide) : State := latched base [(0x24, a)]
/-- The operands of NI for the doorplate of core 1: address 0, a flag of the own core, data 3. -/
def niState (a : Wide) : State := latched base [(0x26, a), (0x27, 0xA000000000000000), (0x28, 3)]

theorem witness_EngineTriggersQueue_mx : armed mxState gMx .mx [0x1E, 0x1F] [0x20] ∧
    (mxState.myCore.tile (mxTile ((triggerValue mxState gMx .mx).extractLsb' 0 128))).st = .ready ∧
    ∀ fn ∈ ([0, 1, 2, 3, 8, 9, 10] : List (BitVec 8)), mxState.mxCheck fn (some (triggerValue mxState gMx .mx)) = none := by
  refine ⟨?_, ?_, ?_⟩ <;> (try unfold armed sourceReady) <;> decide +kernel
theorem witness_EngineTriggersQueue_wb : armed wbState gWb .wb [0x22] [] ∧
    ∀ fn ∈ ([0, 1, 2] : List (BitVec 8)), wbCheck fn (some (triggerValue wbState gWb .wb)) = none := by
  refine ⟨?_, ?_⟩ <;> (try unfold armed sourceReady) <;> decide +kernel
theorem witness_EngineTriggersQueue_ce :
    armed (ceState 0x8000000000000000) gCe .ce [0x24] [] ∧ ceCheck 0 (some (triggerValue (ceState 0x8000000000000000) gCe .ce)) = none ∧
    armed (ceState 0x1000) gCe .ce [0x24] [] ∧ ceCheck 1 (some (triggerValue (ceState 0x1000) gCe .ce)) = none := by
  refine ⟨?_, ?_, ?_, ?_⟩ <;> (try unfold armed sourceReady) <;> decide +kernel
/-- Operations of NI with a TAG and an address that they admit: counts of one line and of 64 where they have one. -/
def niOperands : List (Nat × BitVec 2 × Wide) :=
  let own : Wide := 0x8000000000001000
  [(0, 0, 0x1000), (0, 1, 0x1000), (0, 2, own), (1, 1, own + (1 <<< 82)), (1, 2, own + (64 <<< 82)), (2, 0, 0x1000), (3, 1, 0x1000), (4, 0, 0x1000), (5, 0, 0x1000),
   (6, 0, 0x1000), (7, 0, own + (1 <<< 82)), (8, 0, own + (1 <<< 82)), (9, 1, own + (64 <<< 82)), (10, 0, 0x1000 + (1 <<< 82)), (10, 1, 0x1000 + (1 <<< 82)),
   (11, 0, 0), (12, 0, 64), (13, 0, 1)]
theorem witness_EngineTriggersQueue_ni : armed (niState 0x1000) gNi .ni [0x26, 0x28, 0x27] [] ∧ (niState 64).me.mode ≠ .user ∧
    ∀ x ∈ niOperands, let s := if x.2.1 = 2 then latched (niState x.2.2) [(0x27, 0)] else niState x.2.2
      s.niCheck (BitVec.ofNat 8 (4 * x.1 + x.2.1.toNat)) (some (triggerValue s gNi .ni)) = none := by
  refine ⟨?_, ?_, ?_⟩ <;> (try unfold armed sourceReady) <;> decide +kernel
theorem witness_EngineTriggersQueue_user : (inMode (niState 64) .user).me.mode = .user ∧
    (after (.niWin gNi) (inMode (niState 64) .user)).me.csr.mcause = 24 := by decide +kernel

/-- R206, R232: a trigger of CE enters the queue of its core. -/
theorem test_ce_queues : ((after (.ceRun gCe) (ceState 0x8000000000000040)).myCore.ceq.map (·.fn)) = [0] := by decide +kernel
/-- R235: a row outside the tile is an OPERAND trap naming port 0x1E. -/
theorem test_mx_operand_trap : (after (.mxMm gMx) (latched mxState [(0x1E, 4096 <<< 8)])).me.csr.mtval.extractLsb' 0 16 = 0x1E01 := by decide +kernel
/-! ### Moves and scalar computation -/

def movState : State := latched base [(3, 5), (0x14, 9)]
/-- Core 1 with two entries in its queue, between cores 0 and 2 of its context. -/
def queueState : State :=
  let bound (c : Core) : Core := { c with ctx := some 3 }
  let s := { State.reset with ctxs := [(3, ⟨0, [0, 1, 2], [], 2, [], [], []⟩)], time := 10000000, cur := ⟨1, 0⟩ }
  let s := (s.setCore 0 (bound (s.core 0))).setCore 2 (bound (s.core 2))
  (s.setCore 1 { bound (s.core 1) with qn := [(7, 0), (8, 0)] }).setHart ⟨1, 0⟩ { Hart.reset with st := .running }
theorem witness_MovesBetweenPortsAndRegisters_queue : movable queueState [0x2A, 0x2A] [0x2B, 0x2B] := by
  unfold movable; decide +kernel

theorem witness_MovesBetweenPortsAndRegisters : movable movState [3, 0x14] [0x11, 0x12] ∧ movable movState [3, 0x2C] [0x11, 0x2C] ∧
    movable movState [0x14] [] ∧ (0x14 : BitVec 6) ≠ 0x2A ∧ movState.me.isFull 0 = true := by
  refine ⟨?_, ?_, ?_, ?_⟩ <;> (try unfold movable) <;> decide +kernel
theorem witness_IntegerInstructions : base.me.isFull 0 = true ∧ branchTaken .beq (base.me.readX 0) (base.me.readX 0) ∧
    ¬ branchTaken .bne (base.me.readX 0) (base.me.readX 0) := by
  refine ⟨?_, ?_, ?_⟩ <;> (try unfold branchTaken) <;> decide +kernel

/-- The issuing hart with a register empty. -/
def withEmpty (s : State) (r : Reg) : State := s.setMe (s.me.empty r)

theorem witness_EmptySourceParks : (withEmpty base 5).me.isFull 5 = false ∧ (withEmpty base 5).me.isFull 0 = true ∧ base.cur.hart = 0 ∧
    base.me.mode = .machine ∧ (∀ r ∈ ([10, 11, 12] : List Reg), (withEmpty base 13).me.isFull r = true) := by decide +kernel
/-- R30: `callat` parks on the last register that it reads. -/
theorem test_callat_parks : (after (.callat 6 5 1 1) (withEmpty base 13)).me.wait = .xreg 13 := by decide +kernel

/-- R204: the second pair of `mov2` writes what its source held. -/
theorem test_mov2 : ((after (.mov2 0x14 3 3 0x10) movState).me.latch 0x10).val = 5 ∧
    ((after (.mov2 0x14 3 3 0x10) movState).me.latch 3).val = 9 := by decide +kernel
/-- R205: a word out of a port is sign-extended. -/
theorem test_mvpx_w : (after (.mvpxW 0x14 0 5) (latched base [(0x14, 0x80000000)])).me.readX 5 = 0xFFFFFFFF80000000 := by decide +kernel
/-- R205: `mvxp` of lane 1 of a full latch keeps lane 0. -/
theorem test_mvxp : ((after (.mvxpW 3 1 5) (withX movState [(5, 3)])).me.latch 3).val = 0x300000005 := by decide +kernel
/-- R159: division by zero gives all ones, and the remainder the dividend. -/
theorem test_div_zero : (after (.integerOp (.op .div 5 6 0)) (withX base [(6, 7)])).me.readX 5 = 0xFFFFFFFFFFFFFFFF ∧
    (after (.integerOp (.op .rem 5 6 0)) (withX base [(6, 7)])).me.readX 5 = 7 := by decide +kernel
/-- R159: a backward jump links the next word. -/
theorem test_jal : (after (.integerOp (.jal 1 0xFFFFE)) (base.setMe { base.me with pc := 0x100 })).me.pc = 0xFC ∧
    (after (.integerOp (.jal 1 0xFFFFE)) (base.setMe { base.me with pc := 0x100 })).me.readX 1 = 0x104 := by decide +kernel
/-- R361, R417: a jump to a target that is no multiple of 4 traps with it. -/
theorem test_jump_misaligned : (after (.integerOp (.jal 1 1)) base).me.csr.mtval = base.me.pc + 2 := by decide +kernel

/-! ### Scalar accesses -/

/-- Register 5 with an address, and 6 with a value. -/
def accessState (a v : Word) : State := withX base [(5, a), (6, v)]
def spadAddress (off win : Nat) : Word := BitVec.ofNat 64 (0x8000000000000000 + win * 2 ^ 18 + off)

theorem witness_LoadsFillOrEmpty :
    (∀ off ∈ ([0, 0x3FFF8] : List Nat), let s := accessState (spadAddress off 0) 0
      s.checkScalar s.cur .read (s.me.readX 5 + (0 : BitVec 12).signExtend 64) 8 true = .ok (.spad 0 off 0) ∧
      field (spadAddress off 0) 60 4 = 8 ∧ s.me.breaks 2 (spadAddress off 0) = false ∧
      s.anyPoisoned ((List.range 8).map fun i => spadKey 0 (off + i)) = false) ∧
    (let s := accessState 0x1000 0
     s.checkScalar s.cur .read (s.me.readX 5 + (0 : BitVec 12).signExtend 64) 8 true = .ok (.virt 0x1000) ∧
     s.niFull s.cur.core = false) := by decide +kernel
theorem witness_LoadsFillOrEmpty_throughNi : throughNi 0x1000 (.virt 0x1000) := by unfold throughNi; trivial
theorem witness_StoresWriteOrPost :
    (∀ off ∈ ([0, 0x3FFFC] : List Nat), let s := accessState (spadAddress off 0) 7
      s.checkScalar s.cur .write (s.me.readX 5 + (0 : BitVec 12).signExtend 64) 4 true = .ok (.spad 0 off 0) ∧
      s.me.breaks 3 (spadAddress off 0) = false) ∧
    (let s := accessState (spadAddress 6 1) 7
     s.checkScalar s.cur .write (s.me.readX 5 + (0 : BitVec 12).signExtend 64) 4 true = .ok (.spad 0 6 1)) ∧
    (let s := accessState 0x1000 0
     s.checkScalar s.cur .write (s.me.readX 5 + (0 : BitVec 12).signExtend 64) 4 true = .ok (.virt 0x1000) ∧
     s.niFull s.cur.core = false) := by decide +kernel

/-- R68: a signed byte of the own scratchpad. -/
theorem test_lb : (after (.scalarLoad .lb 7 5 1) { accessState (spadAddress 0x40 0) 0 with
      mem := Memory.writeBytes [] (spadKey 0 0x40) [1#8, 0x80#8] }).me.readX 7 = 0xFFFFFFFFFFFFFF80 := by decide +kernel
/-- R68: a store is little-endian. -/
theorem test_sw : Memory.readBytes (after (.scalarStore .sw 5 6 0) (accessState (spadAddress 0x40 0) 0x11223344)).mem (spadKey 0 0x40) 5
    = [0x44#8, 0x33#8, 0x22#8, 0x11#8, 0#8] := by decide +kernel
/-- R119: a load elsewhere empties its register and leaves. -/
theorem test_ld_virtual : (after (.scalarLoad .ld 7 5 0) (accessState 0x1000 0)).me.isFull 7 = false ∧
    ((after (.scalarLoad .ld 7 5 0) (accessState 0x1000 0)).reqs.map (·.addr)) = [0x1000] := by decide +kernel
/-- R62: a misaligned access in virtual space traps with cause 4. -/
theorem test_ld_misaligned : (after (.scalarLoad .ld 7 5 0) (accessState 0x1001 0)).me.csr.mcause = 4 ∧
    (after (.scalarLoad .ld 7 5 0) (accessState 0x1001 0)).me.csr.mtval = 0x1001 := by decide +kernel
theorem witness_CoreTablesAndRegisters :
    (∀ off ∈ ([0, 0x3F8, 0x400, 4] : List Nat), let s := accessState (BitVec.ofNat 64 (0x8000000000200000 + off)) 0
      s.me.isFull 5 = true ∧ s.place s.cur.core (s.me.readX 5 + (0 : BitVec 12).signExtend 64) = some (.tileTable off) ∧
      s.me.breaks 2 (s.me.readX 5) = false ∧ s.me.breaks 3 (s.me.readX 5) = false) ∧
    (∀ off ∈ ([0, 0xF8, 0x100, 4] : List Nat), let s := accessState (BitVec.ofNat 64 (0x8000000000600000 + off)) 0
      s.place s.cur.core (s.me.readX 5 + (0 : BitVec 12).signExtend 64) = some (.watchTable off)) ∧
    (∀ off ∈ ([0, 0x10, 0x3FFF8] : List Nat), let s := accessState (BitVec.ofNat 64 (0x8000000000400000 + off)) 0
      s.place s.cur.core (s.me.readX 5 + (0 : BitVec 12).signExtend 64) = some (.coreReg off)) ∧
    (coreRegisterExists 0 = true ∧ coreRegisterExists 0x3FFF8 = false) := by decide +kernel

/-- Another hart than hart 0. -/
def hart1 : State := { base.setHart ⟨0, 1⟩ { Hart.reset with st := .running } with cur := ⟨0, 1⟩ }

theorem witness_CoreTablesAndRegisters_hart1 : let s := withX hart1 [(5, 0x8000000000400000)]
    s.cur.hart ≠ 0 ∧ s.place s.cur.core (s.me.readX 5 + (0 : BitVec 12).signExtend 64) = some (.coreReg 0) := by decide +kernel

/-! ### Atomics and traps of accesses -/

theorem witness_AtomicsInMemory : let s := accessState (spadAddress 8 0) 3
    s.me.isFull 5 = true ∧ s.me.isFull 6 = true ∧ s.me.breaks 2 (s.me.readX 5) = false ∧ s.me.breaks 3 (s.me.readX 5) = false ∧
    (∀ k ∈ ([.read, .write, .readWrite] : List Kind), s.checkScalar s.cur k (s.me.readX 5) 8 false = .ok (.spad 0 8 0) ∧
      s.checkScalar s.cur k (s.me.readX 5) 4 false = .ok (.spad 0 8 0)) ∧
    s.anyPoisoned ((List.range 8).map (spadKey 0 8 + ·)) = false := by decide +kernel
theorem witness_AtomicsInMemory_virtual : let s := accessState 0x1008 3
    (AmoOp.maxu, AtomOp.maxu) ∈ ([(.add, .add), (.swap, .swap), (.xor, .xor), (.or, .or), (.and, .and), (.min, .min), (.max, .max),
      (.minu, .minu), (.maxu, .maxu)] : List (AmoOp × AtomOp)) ∧
    s.place s.cur.core (s.me.readX 5) = some (.virt 0x1008) ∧ (s.me.readX 5).toNat % 8 = 0 ∧ s.niFull s.cur.core = false ∧
    s.me.breaks 2 (s.me.readX 5) = false ∧ s.me.breaks 3 (s.me.readX 5) = false := by decide +kernel
/-- A data breakpoint on loads and stores at an address. -/
def watched (s : State) (a : Word) : State :=
  s.setMe { s.me with csr := { s.me.csr with bpctl := s.me.csr.bpctl.set 0 0xD, bpaddr := s.me.csr.bpaddr.set 0 a } }
theorem witness_AccessesTrap : let s := accessState 0x1001 3
    let u := accessState 0x4000000000000000 3
    s.place s.cur.core (s.me.readX 5) = some (.virt 0x1001) ∧ (s.me.readX 5).toNat % 2 ≠ 0 ∧ (s.me.readX 5).toNat % 8 ≠ 0 ∧
    u.place u.cur.core (u.me.readX 5) = none ∧ (u.me.readX 5).toNat % 8 = 0 ∧
    field (u.me.readX 5) 60 4 ≠ 0 ∧ field (u.me.readX 5) 60 4 ≠ 8 ∧
    (watched (accessState 0x1000 3) 0x1000).me.breaks 2 0x1000 = true ∧
    (watched (accessState 0x1000 3) 0x1000).me.breaks 3 0x1000 = true := by decide +kernel

/-- An own scratchpad address through W0 that is misaligned, and core-region addresses without a register. -/
theorem witness_AccessesTrap_own : let s := accessState (spadAddress 0x41 0) 3
    s.place s.cur.core (s.me.readX 5) = some (.spad s.cur.core 0x41 0) ∧ (s.me.readX 5).toNat % 8 ≠ 0 := by decide +kernel
theorem witness_AccessesTrap_regions : coreRegionBad 0x8000000000200404 8 = true ∧ coreRegionBad 0x8000000000400001 8 = true ∧
    coreRegionBad 0x8000000000600100 8 = true := by decide +kernel
theorem witness_AccessesTrap_nowhere : let a : Word := 0x8000000000800000
    (accessState a 3).place 0 a = none ∧ a.toNat % 8 = 0 ∧ coreRegionBad a 8 = false := by decide +kernel
/-- R62, R413: a misaligned access through W0 traps with cause 4. -/
theorem test_spad_misaligned : (after (.scalarLoad .ld 7 5 0) (accessState (spadAddress 1 0) 0)).me.csr.mcause = 4 := by decide +kernel
/-- R64: a store to a core register that does not exist takes code 0x0D. -/
theorem test_no_core_register : (after (.scalarStore .sd 5 6 0) (accessState 0x8000000000600100 0)).me.csr.mtval = 0x0D := by decide +kernel
/-- R159: `amoadd.w` in the own scratchpad gives the old word, and adds. -/
theorem test_amoadd : (after (.amo .add false false false 7 5 6) (accessState (spadAddress 8 0) 3)).me.readX 7 = 0 ∧
    Memory.readBytes (after (.amo .add false false false 7 5 6) (accessState (spadAddress 8 0) 3)).mem (spadKey 0 8) 4
      = [3#8, 0#8, 0#8, 0#8] := by decide +kernel
/-- R159: a store-conditional without a reservation returns 1, and stores nothing. -/
theorem test_sc_fails : (after (.sc true false false 7 5 6) (accessState (spadAddress 8 0) 3)).me.readX 7 = 1 ∧
    (after (.sc true false false 7 5 6) (accessState (spadAddress 8 0) 3)).mem = [] := by decide +kernel
/-- R159: and with it returns 0. -/
theorem test_sc_succeeds : let s := after (.lr true false false 7 5) (accessState (spadAddress 8 0) 3)
    (after (.sc true false false 7 5 6) s).me.readX 7 = 0 ∧ (after (.sc true false false 7 5 6) s).mem.length = 1 := by decide +kernel

/-! ### The system instructions -/

theorem witness_EnvironmentTrapsAndReturns : (inMode base .user).me.mode = .user ∧ (inMode base .supervisor).me.mode = .supervisor ∧
    base.me.mode = .machine ∧ (inMode base .supervisor).me.csr.mstatus.getLsbD 22 = false := by decide +kernel
/-- S mode with TSR and TVM. -/
def sTrapping : State := inMode (base.setMe { base.me with csr := { base.me.csr with mstatus := 0x500000 } }) .supervisor
theorem witness_EnvironmentTrapsAndReturns_tsr : sTrapping.me.mode = .supervisor ∧ sTrapping.me.csr.mstatus.getLsbD 22 = true ∧
    sTrapping.me.csr.mstatus.getLsbD 20 = true := by decide +kernel
theorem witness_CsrAccessesAndPrivilege : base.me.mode = .machine ∧ base.me.isFull 0 = true ∧
    heldCsrs.any (fun x => x.1 == 0x340) = true := by decide +kernel
theorem witness_CsrAccessesAndPrivilege_illegal : (inMode base .user).me.mode = .user ∧ (0x180#12).getLsbD 8 = true ∧ (0x340#12).getLsbD 9 = true ∧
    (0xC00#12).extractLsb' 10 2 = 3 ∧ (inMode base .supervisor).me.mode = .supervisor := by decide +kernel
theorem witness_FencesAndWaits : (base.interruptPending base.cur = false) ∧ base.me.mode = .machine ∧ base.me.isFull 0 = true ∧
    (inMode base .supervisor).me.csr.mstatus.getLsbD 20 = false := by decide +kernel
theorem witness_FencesAndWaits_pending : let s := base.setMe { base.me with csr := { base.me.csr with mip := 0x10000, mie := 0x10000 } }
    s.interruptPending s.cur = true := by decide +kernel

/-- R159: `ecall` in U mode has cause 8. -/
theorem test_ecall : (after .ecall (inMode base .user)).me.csr.mcause = 8 ∧ (after .ecall (inMode base .user)).me.mode = .machine := by
  decide +kernel
/-- R161: a trap that is delegated goes to S mode. -/
theorem test_ecall_delegated : let s := inMode (base.setMe { base.me with csr := { base.me.csr with medeleg := 0x100, stvec := 0x40 } }) .user
    (after .ecall s).me.mode = .supervisor ∧ (after .ecall s).me.pc = 0x40 ∧ (after .ecall s).me.csr.scause = 8 := by decide +kernel
/-- R161: `mret` goes to mepc in the mode of MPP. -/
theorem test_mret : let s := base.setMe { base.me with csr := { base.me.csr with mepc := 0x80, mstatus := 0x880 } }
    (after .mret s).me.pc = 0x80 ∧ (after .mret s).me.mode = .supervisor ∧ (after .mret s).me.csr.mstatus.getLsbD 3 = true := by
  decide +kernel
/-- R162: a CSR swap gives the old value. -/
theorem test_csrrw : (after (.csrAccess .rw false 5 6 0x340) (withX base [(6, 9)])).me.csr.mscratch = 9 ∧
    (after (.csrAccess .rw false 5 6 0x340) (withX base [(6, 9)])).me.readX 5 = 0 := by decide +kernel
/-- R162: a write of a read-only number is illegal. -/
theorem test_csr_read_only : (after (.csrAccess .rw false 5 6 0xC01) (withX base [(6, 9)])).me.csr.mcause = 2 := by decide +kernel
/-! ### Flags, tiles and posted accesses -/

/-- Register 5 with a flag of the own scratchpad and 6 with a target; the flag's word is 2. -/
def flagState (target : Word) : State :=
  { accessState (spadAddress 0x40 0) target with mem := Memory.writeBytes [] (spadKey 0 0x40) [2#8] }

theorem witness_FlagAndTileInstructions_flag : ∀ x ∈ ([2, 3] : List Nat), let s := flagState (BitVec.ofNat 64 x)
    s.me.isFull 5 = true ∧ s.me.isFull 6 = true ∧ s.place s.cur.core (s.me.readX 5) = some (.spad s.cur.core 0x40 0) ∧
    (s.me.readX 5).toNat % 8 = 0 ∧
    s.checkSpad s.cur s.me.mode .read (s.me.readX 5) s.device.toNat s.cur.core 0x40 0 8 = true ∧
    s.anyPoisoned ((List.range 8).map (spadKey s.cur.core 0x40 + ·)) = false ∧ s.me.breaks 2 (s.me.readX 5) = false ∧
    (watched s (s.me.readX 5)).me.breaks 2 (s.me.readX 5) = true := by decide +kernel
theorem witness_FlagAndTileInstructions_misaligned : let s := accessState (spadAddress 0x41 0) 0
    s.place s.cur.core (s.me.readX 5) = some (.spad s.cur.core 0x41 0) ∧ (s.me.readX 5).toNat % 8 ≠ 0 := by decide +kernel
/-- Tile 63 in a state, with register 5 naming it and 6 holding a value. -/
def tileState (st : TileState) (v : Word) : State :=
  core0 (accessState 63 v) fun c => { c with tiles := c.tiles.set 63 { Tile.reset with st := st } }
theorem witness_FlagAndTileInstructions_tile : ∀ st ∈ ([.empty, .filling, .ready, .draining] : List TileState),
    let s := tileState st 0x100000000000
    s.me.isFull 5 = true ∧ (s.me.readX 5).toNat = 63 ∧ s.me.isFull 6 = true ∧ s.myCore.tiles[(63 : Fin 64)].st = st ∧
    let d := s.me.readX 6
    d.extractLsb' 0 6 = 0 ∧ d.extractLsb' 21 11 = 0 ∧ d.extractLsb' 45 19 = 0 ∧ 1 ≤ (d.extractLsb' 32 13).toNat ∧
    (d.extractLsb' 32 13).toNat ≤ 4096 ∧ (d.extractLsb' 0 18).toNat + 64 * (d.extractLsb' 32 13).toNat ≤ 0x40000 := by decide +kernel
theorem witness_FlagAndTileInstructions_undescribed : ((tileState .empty 0x100000000001).me.readX 6).extractLsb' 0 6 ≠ 0 := by decide +kernel
theorem witness_FlagAndTileInstructions_arm : ∀ v ∈ ([0, 0xFFFF] : List Nat), let s := tileState .empty (BitVec.ofNat 64 v)
    (s.me.readX 6).extractLsb' 16 48 = 0 := by decide +kernel

theorem witness_PostedAtomicsReleasesAndAcquires : let s := withX (accessState 0x1008 3) [(7, 0xA000000000000000)]
    s.me.isFull 5 = true ∧ s.me.isFull 6 = true ∧ s.me.isFull 7 = true ∧ s.place s.cur.core (s.me.readX 5) = some (.virt 0x1008) ∧
    (s.me.readX 7).toNat % 8 = 0 ∧ (s.flagPlace s.cur (s.me.readX 7)).isSome = true ∧ (s.me.readX 5).toNat % 8 = 0 ∧
    s.niFull s.cur.core = false ∧ s.me.breaks 3 (s.me.readX 5) = false ∧ s.me.breaks 3 (s.me.readX 7) = false ∧
    (watched s 0x1008).me.breaks 3 0x1008 = true ∧ (watched s 0xA000000000000000).me.breaks 3 0xA000000000000000 = true := by decide +kernel
theorem witness_PostedAtomics_misaligned : let s := accessState 0x1004 3
    s.place s.cur.core (s.me.readX 5) = some (.virt 0x1004) ∧ (s.me.readX 5).toNat % 8 ≠ 0 := by decide +kernel

/-- R34: a flag reached goes on, and one not reached parks the hart. -/
theorem test_fwait : (after (.fwait 6 5) (flagState 2)).me.st = .running ∧ (after (.fwait 6 5) (flagState 3)).me.st = .parked := by
  decide +kernel
/-- R165: a data breakpoint on the flag's word comes before the wait. -/
theorem test_fwait_breaks : (after (.fwait 6 5) (watched (flagState 3) (spadAddress 0x40 0))).me.csr.mcause = 3 := by decide +kernel
/-- R385: a tile that is not EMPTY takes code 0x04 of `tdef`, with its index. -/
theorem test_tdef_ready : (after (.tdef 6 5) (tileState .ready 0x100000000000)).me.csr.mtval = 0x3F04 := by decide +kernel
/-- R73: an EMPTY tile armed with an expectation fills. -/
theorem test_tarm : ((after (.tarm 6 5) (tileState .empty 4)).myCore.tiles[(63 : Fin 64)]).st = .filling ∧
    ((after (.tarm 6 5) (tileState .empty 4)).myCore.tiles[(63 : Fin 64)]).expect = 4 := by decide +kernel
/-- R73: a tile armed with 0 is READY at once, with a new generation. -/
theorem test_tarm_zero : ((after (.tarm 6 5) (tileState .empty 0)).myCore.tiles[(63 : Fin 64)]).st = .ready ∧
    ((after (.tarm 6 5) (tileState .empty 0)).myCore.tiles[(63 : Fin 64)]).gen = 1 := by decide +kernel
/-- R177: a posted store leaves with its bytes, and keeps its registers full. -/
theorem test_pstf : ((after (.pstf 0 1 6 5) (accessState 0x1008 0x1234)).reqs.map (·.data)) = [[0x34#8, 0x12#8]] ∧
    (after (.pstf 0 1 6 5) (accessState 0x1008 0x1234)).me.isFull 5 = true := by decide +kernel

/-! ### Messages, ownership and barriers -/

theorem witness_MessagesAndRemoteTasks : let s := accessState 8 0
    s.me.isFull 5 = true ∧ s.me.isFull 6 = true ∧ (s.me.readX 5).extractLsb' 0 3 = 0 ∧ (s.me.readX 5).extractLsb' 33 31 = 0 ∧
    (s.me.readX 5).extractLsb' 57 7 = 0 ∧ (s.me.readX 6).extractLsb' 0 2 = 0 ∧
    (∀ r ∈ ([10, 11, 12, 13] : List Reg), s.me.isFull r = true) ∧ s.cur.hart = 0 ∧ s.niFull s.cur.core = false := by decide +kernel
theorem witness_MessagesAndRemoteTasks_operand : ((accessState 1 0).me.readX 5).extractLsb' 0 3 ≠ 0 := by decide +kernel
/-- Hart 1 hops with registers 16 to 31 live, which all are full. -/
theorem witness_MessagesAndRemoteTasks_hop : let s := withX hart1 [(5, 0x1000), (6, 0xFFFF0000)]
    s.cur.hart ≠ 0 ∧ (s.me.readX 5).extractLsb' 57 7 = 0 ∧ s.me.csr.upstat.getLsbD 0 = false ∧ (s.me.readX 6).getLsbD 0 = false ∧
    (s.me.readX 6).extractLsb' 32 32 = 0 ∧
    ((List.range 32).filter fun i => (s.me.readX 6).getLsbD i).length + (if s.me.csr.taskret.getLsbD 63 then 1 else 0) ≤ 16 ∧
    (∀ r : Reg, (s.me.readX 6).getLsbD r.toNat = true → s.me.isFull r = true) ∧ s.me.flights = [] := by decide +kernel
theorem witness_OwnershipAndSharedRegisters : let s := accessState 0x40000000 0
    s.me.isFull 5 = true ∧ s.me.isFull 6 = true ∧ (s.me.readX 5).extractLsb' 57 7 = 0 ∧ (s.me.readX 6).extractLsb' 0 5 = 0 ∧
    (s.me.readX 6).extractLsb' 32 32 = 0 ∧ ((s.me.readX 6).extractLsb' 23 2).toNat ≤ 2 ∧
    ((s.me.readX 6).extractLsb' 25 2).toNat ≤ 2 ∧ ((s.me.readX 6).extractLsb' 21 2).toNat < s.dieCount ∧
    s.niFull s.cur.core = false := by decide +kernel
/-- Core 0 in group 3 with PART 1, and register 5 naming the group. -/
def groupState (part : Nat) : State :=
  core0 (accessState 3 9) fun c => { c with cgrp := c.cgrp.set 0 (BitVec.ofNat 64 (2 ^ 63 + part * 2 ^ 34 + 3)) }
theorem witness_BarriersAndReductions : ∀ part ∈ ([1, 16] : List Nat), let s := groupState part
    s.me.isFull 5 = true ∧ s.me.isFull 6 = true ∧ s.me.readX 5 = (3 : BitVec 8).zeroExtend 64 ∧
    s.myCore.membership 3 = some (BitVec.ofNat 64 (2 ^ 63 + part * 2 ^ 34 + 3)) ∧ (∀ r ∈ s.reqs, r.id < s.nextId) ∧
    s.me.arrived = none ∧ s.me.gbars = [] ∧ (s.myCore.arrivalsOf 3).reported = false := by decide +kernel
theorem witness_BarriersAndReductions_none : (accessState 4 9).myCore.membership 4 = none ∧
    (accessState 4 9).me.readX 5 = (4 : BitVec 8).zeroExtend 64 := by decide +kernel
theorem witness_BarriersAndReductions_over : let s := groupState 1
    let u := s.setMe { s.me with arrived := some ⟨3, none, 0, 0, some 0⟩ }
    u.myCore.membership 3 = some 0x8000000400000003 ∧ u.me.arrived = some ⟨3, none, 0, 0, some 0⟩ ∧ u.me.gbars = [] ∧
    (s.setMe { s.me with gbars := [(3, s.me.pc)] }).myCore.membership 3 = some 0x8000000400000003 := by decide +kernel

/-- R191: `gsum` leaves with its register empty and goes on. -/
theorem test_gsum : (after (.gsum 6 5 7) (groupState 2)).me.isFull 7 = false ∧
    ((after (.gsum 6 5 7) (groupState 2)).myCore.arrivalsOf 3).sum = some 9 := by decide +kernel
/-- R32: a `gbar` whose generation has completed goes on as it re-executes. -/
theorem test_gbar_again : let s := groupState 1
    let t := after (.gbar 5) (s.setMe { s.me with gbars := [(3, s.me.pc)] })
    t.me.pc = 4 ∧ t.me.gbars = [] := by decide +kernel
/-- R190: `gbar` parks the hart. -/
theorem test_gbar : (after (.gbar 5) (groupState 2)).me.wait = .barrier := by decide +kernel
/-- R47: `hop` is not for hart 0. -/
theorem test_hop_hart0 : (after (.hop 6 5) (accessState 8 0)).me.csr.mcause = 24 := by decide +kernel
/-- R183: `qmov` of an empty q-register parks. -/
theorem test_qmov : (after (.qmov 3 5) base).me.wait = .qreg 3 := by decide +kernel
/-! ### Hart control, the task queue and transfers -/

/-- Register 5 with a value and 6 with a place of the own scratchpad; hart 1 in a state. -/
def controlState (a off : Nat) (st : HartState) : State :=
  (accessState (BitVec.ofNat 64 a) (spadAddress off 0)).setHart ⟨0, 1⟩ { Hart.reset with st := st }

theorem witness_HartControl : ∀ st ∈ ([.off, .running, .saving] : List HartState), ∀ off ∈ ([0, 0x3FFF0] : List Nat),
    let s := controlState 1 off st
    let record (n : Nat) := Memory.readBytes s.mem (spadKey s.cur.core off) n
    s.cur.hart = 0 ∧ s.me.isFull 5 = true ∧ s.me.isFull 6 = true ∧ s.me.readX 5 = BitVec.ofNat 64 (1 : HartId).val ∧
    s.ownSpan s.cur.core (s.me.readX 6) 8 16 = some off ∧ leNat (record 16) = 0 ∧
    recordOk (record (min 144 (0x40000 - off))) = true ∧
    s.protects s.cur s.me.mode .read s.device.toNat s.cur.core off 16 = true ∧
    s.anyPoisoned ((List.range 16).map fun i => spadKey s.cur.core (off + i)) = false ∧ (s.hart ⟨0, 1⟩).st = st := by decide +kernel
theorem witness_HartControl_image : let s := controlState 1 0x3F880 .running
    s.ownSpan s.cur.core (s.me.readX 6) 64 1920 = some 0x3F880 ∧
    (∀ k ∈ ([.read, .write] : List Kind), s.protects s.cur s.me.mode k s.device.toNat s.cur.core 0x3F880 1920 = true) ∧
    s.anyPoisoned ((List.range 1920).map fun i => spadKey s.cur.core (0x3F880 + i)) = false ∧
    imageOk (Memory.readBytes s.mem (spadKey s.cur.core 0x3F880) 1920) = true ∧ (s.hart ⟨0, 1⟩).job = .none ∧
    (s.hart ⟨0, 1⟩).wait ≠ .flag := by decide +kernel
theorem witness_HartControl_image_states : ∀ st ∈ ([.off, .parked, .saving, .loading] : List HartState),
    let s := controlState 1 0 st
    s.ownSpan s.cur.core (s.me.readX 6) 64 1920 = some 0 ∧ (s.hart ⟨0, 1⟩).st = st ∧ (s.hart ⟨0, 1⟩).job = .none := by decide +kernel
theorem witness_HartControl_ended : let s := (base.setHart ⟨0, 15⟩ { Hart.reset with ended := true }).setHart ⟨0, 1⟩ { Hart.reset with ended := false }
    (s.hart ⟨0, 15⟩).ended = true ∧ (s.hart ⟨0, 1⟩).ended = false := by decide +kernel
theorem witness_HartControl_operand : hart1.cur.hart ≠ 0 ∧ ((controlState 0 0 .off).me.readX 5).toNat = 0 ∧
    15 < ((controlState 16 0 .off).me.readX 5).toNat := by decide +kernel

/-- Core 0 with entries of priorities 2 and 0 that came before the present die cycle. -/
def taskState (a b : Word) : State :=
  core0 { accessState a b with time := 1000000 } fun c => { c with
    tasks := [⟨List.replicate 16 0, 2, .stream, 0, none⟩, ⟨List.replicate 16 0, 0, .stream, 0, none⟩] }
theorem witness_TaskQueueInstructions_push : ∀ prio ∈ ([0, 3] : List Nat),
    let s := accessState (spadAddress 0x3FFF0 0) (BitVec.ofNat 64 prio)
    s.me.isFull 5 = true ∧ s.me.isFull 6 = true ∧ s.ownSpan s.cur.core (s.me.readX 5) 8 16 = some 0x3FFF0 ∧ (s.me.readX 6).toNat < 4 ∧
    recordOk (Memory.readBytes s.mem (spadKey s.cur.core 0x3FFF0) 16) = true ∧
    s.protects s.cur s.me.mode .read s.device.toNat s.cur.core 0x3FFF0 16 = true ∧
    s.anyPoisoned ((List.range 16).map fun i => spadKey s.cur.core (0x3FFF0 + i)) = false := by decide +kernel
theorem witness_TaskQueueInstructions_pop : let s := taskState 0xF (spadAddress 0x3FF70 0)
    (s.me.readX 5).toNat < 16 ∧ s.ownSpan s.cur.core (s.me.readX 6) 8 144 = some 0x3FF70 ∧
    s.protects s.cur s.me.mode .write s.device.toNat s.cur.core 0x3FF70 144 = true ∧
    s.myCore.tasks = [⟨List.replicate 16 0, 2, .stream, 0, none⟩] ++ ⟨List.replicate 16 0, 0, .stream, 0, none⟩ :: [] ∧
    (s.myCore.tasks.all fun f => decide (f.cycle < s.coreCycle s.cur.core)) = true ∧
    (s.me.readX 5).getLsbD (0 : BitVec 2).toNat = true := by decide +kernel
theorem witness_TaskQueueInstructions_empty : let s := taskState 2 (spadAddress 0 0)
    ∀ e ∈ s.myCore.tasks, (s.me.readX 5).getLsbD e.prio.toNat = false := by decide +kernel
theorem witness_TransfersAndEnds_images : let s := accessState (spadAddress 0x3FB00 0) 0
    let off := 0x3FB00
    s.ownSpan s.cur.core (s.me.readX 5) 64 1280 = some off ∧
    (∀ k ∈ ([.read, .write, .readWrite] : List Kind), s.protects s.cur s.me.mode k s.device.toNat s.cur.core off 1280 = true) ∧
    portImageOk (Memory.readBytes s.mem (spadKey s.cur.core off) 1280) = true ∧
    s.anyPoisoned ((List.range 1280).map fun i => spadKey s.cur.core (off + i)) = false := by decide +kernel
theorem witness_TransfersAndEnds : let s := accessState 0x10000 0x20000
    s.me.mode = .machine ∧ (s.me.readX 5).extractLsb' 57 7 = 0 ∧ (s.me.readX 5).extractLsb' 0 16 = 0 ∧ s.overlays.length < 16 ∧
    (s.me.readX 6).extractLsb' 57 7 = 0 ∧ (s.me.readX 6).extractLsb' 0 16 = 0 ∧ hart1.cur.hart ≠ 0 ∧ hart1.me.isFull 10 = true ∧
    (inMode s .user).me.mode = .user ∧ (inMode s .user).me.csr.upstat.getLsbD 0 = false := by decide +kernel
theorem witness_TransfersAndEnds_cmig : let s := accessState 0xA000000000200000 0
    s.me.mode ≠ .user ∧ s.cur.hart = 0 ∧ s.place s.cur.core (s.me.readX 5) = some (.spad 1 0 0) ∧
    (s.me.readX 5).extractLsb' 60 4 = 10 := by decide +kernel
/-- A U-mode hart in an upcall. -/
def upcallState : State := inMode (base.setMe { base.me with csr := { base.me.csr with upstat := 1 } }) .user
theorem witness_TransfersAndEnds_upret : upcallState.me.mode = .user ∧ upcallState.me.csr.upstat.getLsbD 0 = true ∧
    (∀ i : HartId, (upcallState.hart ⟨upcallState.cur.core, i⟩).st ≠ .held) := by decide +kernel

/-- R192: `hstart` of an OFF hart gives 0, and the hart is LOADING. -/
theorem test_hstart : (after (.hstart 6 5 7) (controlState 1 0 .off)).me.readX 7 = 0 ∧
    ((after (.hstart 6 5 7) (controlState 1 0 .off)).hart ⟨0, 1⟩).st = .loading := by decide +kernel
/-- R192: of a RUNNING one it gives 1. -/
theorem test_hstart_running : (after (.hstart 6 5 7) (controlState 1 0 .running)).me.readX 7 = 1 := by decide +kernel
/-- R186: `tqpop` takes the lowest priority of its mask, 0 before 2. -/
theorem test_tqpop : (after (.tqpop 6 5 7) (taskState 0xF (spadAddress 0 0))).me.readX 7 = 16 ∧
    (after (.tqpop 6 5 7) (taskState 0xE (spadAddress 0 0))).me.readX 7 = 0x210 := by decide +kernel
/-- R185: `tqpush` of a record. -/
theorem test_tqpush : ((after (.tqpush 6 5 7) (accessState (spadAddress 0 0) 3)).myCore.tasks.map (·.prio)) = [3] := by decide +kernel
/-- R195: `hstop` is not for hart 0. -/
theorem test_hstop_hart0 : (after .hstop base).me.csr.mcause = 24 := by decide +kernel
/-! ### Steps of the harts -/

/-- Hart 1 of core 0 as given, with a turn for it. -/
def hartTurn (v : Hart) : State := { base.setHart ⟨0, 1⟩ v with arg := .hart ⟨0, 1⟩ }
/-- A hart in a state with a transfer. -/
def busyHart (st : HartState) (j : Job) (due : Nat) : Hart := { Hart.reset with st := st, job := j, jobDue := due }

/-- Whether a state has a hart's turn, with the hart in a state and a transfer, its triggers done. -/
def busyTurn (s : State) (st : HartState) (j : Job) : Bool :=
  s.arg == .hart ⟨0, 1⟩ && (s.hart ⟨0, 1⟩).st == st && (s.hart ⟨0, 1⟩).job == j && (s.hart ⟨0, 1⟩).flights.isEmpty
    && decide ((s.hart ⟨0, 1⟩).jobDue ≤ s.coreCycle 0)

theorem witness_HartTransfers :
    busyTurn (hartTurn (busyHart .loading (.loadRecord (List.replicate 16 0) 0 0 none) 0)) .loading (.loadRecord (List.replicate 16 0) 0 0 none) = true ∧
    (hartTurn (busyHart .loading .none 0)).outstanding [0] = [] ∧
    busyTurn (hartTurn (busyHart .loading (.loadImage 0) 0)) .loading (.loadImage 0) = true ∧
    busyTurn (hartTurn (busyHart .running (.save 0x3F880) 0)) .running (.save 0x3F880) = true ∧
    busyTurn (hartTurn (busyHart .parked (.save 0) 0)) .parked (.save 0) = true ∧ (hartTurn (busyHart .running (.save 0) 0)).myCore.lists = [] ∧
    busyTurn (hartTurn (busyHart .saving (.save 0) 0)) .saving (.save 0) = true ∧
    busyTurn (hartTurn (busyHart .running (.portSave 0x40000) 0)) .running (.portSave 0x40000) = true ∧
    busyTurn (hartTurn (busyHart .running (.portLoad 0) 0)) .running (.portLoad 0) = true := by decide +kernel
/-- Some time after reset, so that a die cycle has gone by. -/
def later (s : State) : State := { s with time := 1000000 }
theorem witness_HartTransfers_done : let s := later (hartTurn (busyHart .running (.portSave 0) 1))
    busyTurn s .running (.portSave 0) = true ∧ (s.hart ⟨0, 1⟩).jobDue ≠ 0 := by decide +kernel
/-- Slots of a transfer of 30 slots: the first and the last. -/
theorem witness_HartTransfers_slots : ∀ k ∈ ([0, 29] : List Nat), ∀ j ∈ ([.loadImage 0x3F880, .save 0x3F880] : List Job),
    let s := { hartTurn (busyHart .loading j (0 + 1 + 16 * (29 - k))) with cur := ⟨0, 1⟩ }
    k < 30 ∧ (s.hart ⟨0, 1⟩).jobDue = s.coreCycle 0 + 1 + 16 * (29 - k) ∧ (s.hart ⟨0, 1⟩).job = j ∧ 0x3F880 + 1920 ≤ 0x40000 := by
  decide +kernel
/-- R34, R50: the last slot of a load reads the last 64 bytes of the image. -/
theorem test_transfer_slot :
    let s := { hartTurn (busyHart .loading (.loadImage 0) 1) with
      cur := ⟨0, 1⟩, mem := Memory.writeBytes [] (spadKey 0 1856) [7#8] }
    ((s.transferSlot.hart ⟨0, 1⟩).loaded.headD 0) = 7 ∧ (s.transferSlot.hart ⟨0, 1⟩).loaded.length = 64 := by decide +kernel
/-- Core 0 drained for a migration to core 7. -/
def migrating : State :=
  { core0 (base.setMe { base.me with st := .saving, job := .migrate }) (fun c => { c with migration := some ⟨7, 5⟩ }) with arg := .core 0 }
theorem witness_HartTransfers_core : migrating.arg = .core 0 ∧ (migrating.core 0).migration = some ⟨7, 5⟩ ∧ (migrating.core 0).lists = [] ∧
    migrating.coreDrained 0 = true ∧ migrating.freeStub (dieOf 0) = some 0 ∧
    (∀ i : HartId, (migrating.hart ⟨0, i⟩).st = .off ∨ (migrating.hart ⟨0, i⟩).job = .migrate) := by decide +kernel

theorem witness_HartEndsWakesAndTraps_ends : let s := hartTurn (busyHart .running (.stopping 0) 0)
    busyTurn s .running (.stopping 0) = true ∧ s.outstanding [0] = [] ∧ (s.hart ⟨0, 1⟩).upReserved = false ∧ s.reqs = [] ∧
    busyTurn (hartTurn (busyHart .running (.hopping 0x1000 0 0) 0)) .running (.hopping 0x1000 0 0) = true ∧ s.niFull 0 = false ∧
    (s.hart ⟨0, 1⟩).csr.upstat.getLsbD 0 = false := by decide +kernel
/-- A hart PARKED on a q-register. -/
def parkedOn (full : BitVec 8) : State := hartTurn { Hart.reset with st := .parked, wait := .qreg 2, qFull := full }
theorem witness_HartEndsWakesAndTraps_parked : (parkedOn 4).waitHolds ⟨0, 1⟩ = true ∧ (parkedOn 0).waitHolds ⟨0, 1⟩ = false ∧
    ((parkedOn 4).hart ⟨0, 1⟩).st = .parked ∧ ((parkedOn 4).hart ⟨0, 1⟩).job = .none ∧ (parkedOn 4).interruptDue ⟨0, 1⟩ = none ∧
    (parkedOn 4).faultPending ⟨0, 1⟩ = none ∧ (parkedOn 4).upcallDue ⟨0, 1⟩ = none := by decide +kernel
theorem witness_HartEndsWakesAndTraps_quantum :
    let s := hartTurn { Hart.reset with st := .running, quantumCount := 5, csr := { Hart.reset.csr with quantumLimit := 5 } }
    (s.hart ⟨0, 1⟩).csr.quantumLimit ≠ 0 ∧ (s.hart ⟨0, 1⟩).csr.quantumLimit.toNat ≤ (s.hart ⟨0, 1⟩).ticksCounted s.refTime := by
  decide +kernel
/-- Hart 0 in its slot in U mode with things due: a deferred fault, an interrupt of mip bit 16, an upcall. -/
def slotState (fault : Option Nat) (mip : Word) (up : List Upcall) : State :=
  let s := inMode base .user
  { s.setMe { s.me with
      pending := fault.toList.map (fun c => ⟨c, 3, 0, none⟩), upcalls := up
      csr := { s.me.csr with mip := mip, mie := 0x10000, upvec := 0x40 } } with
    arg := .hart ⟨0, 0⟩, time := 13400000 }
/-- The state's hart 0 is in its slot. -/
def inSlot (s : State) : Bool :=
  s.me.st == .running && s.me.job == .none && decide (s.me.issueFrom ≤ s.coreCycle 0) && s.coreCycle 0 % 16 == 0 &&
    !(s.die 0).halted && s.me.wait == .none && !((s.core 0).watch[(0 : HartId)]).valid
theorem witness_HartEndsWakesAndTraps_slot :
    inSlot (slotState (some 24) 0 []) = true ∧ ((slotState (some 24) 0 []).faultDue ⟨0, 0⟩).map (·.cause) = some 24 ∧
    inSlot (slotState none 0x10000 []) = true ∧ (slotState none 0x10000 []).interruptDue ⟨0, 0⟩ = some 16 ∧
    (slotState none 0x10000 []).faultDue ⟨0, 0⟩ = none ∧
    inSlot (slotState none 0 [⟨0x20, 0x1000, 1⟩]) = true ∧ (slotState none 0 [⟨0x20, 0x1000, 1⟩]).upcallDue ⟨0, 0⟩ = some ⟨0x20, 0x1000, 1⟩ ∧
    (slotState none 0 [⟨0x20, 0x1000, 1⟩]).interruptDue ⟨0, 0⟩ = none := by decide +kernel

/-- R44: a live register takes the record's value, and every other 0. -/
theorem test_load_record : let r := leBytes 0x100 8 ++ leBytes 0x10000000400 8 ++ leBytes 77 8
    let s := after .hartLoadComplete (hartTurn { busyHart .loading (.loadRecord r 0 0 none) 0 with x := Hart.reset.x.set 5 9 })
    (s.hart ⟨0, 1⟩).pc = 0x100 ∧ (s.hart ⟨0, 1⟩).readX 10 = 77 ∧ (s.hart ⟨0, 1⟩).readX 5 = 0 := by decide +kernel
/-- R195: the exit value is a0. -/
theorem test_hstop_complete : let s := after .hstopComplete (hartTurn { busyHart .running (.stopping 0) 0 with x := Hart.reset.x.set 10 9 })
    (s.hart ⟨0, 1⟩).st = .off ∧ (s.hart ⟨0, 1⟩).exitVal = 9 := by decide +kernel
/-- R367: an upcall enters at xupvec, and its PC is saved. -/
theorem test_upcall : (after .upcallEntry (slotState none 0 [⟨0x20, 0x1000, 1⟩])).me.pc = 0x40 ∧
    (after .upcallEntry (slotState none 0 [⟨0x20, 0x1000, 1⟩])).me.csr.upval = 0x1000 := by decide +kernel
/-- R161: an interrupt's cause has bit 63. -/
theorem test_interrupt : (after .interruptTrap (slotState none 0x10000 [])).me.csr.mcause = 0x8000000000000010 := by decide +kernel
/-! ### Requests -/

/-- A request of hart 0 of core 0 to its own scratchpad by selector 0xA, at 0x40. -/
def request (op : ReqOp) (st : Stage) : Req :=
  { base.hartReq ⟨0, 0⟩ with
    id := 5, kind := .access, mapped := true, addr := 0xA000000000000040, op := op, stage := st, route := some (0, 0) }
/-- A state with a request, its turn, and a value of 2 in the word it names; hart 0 has issued in its slot of this die cycle. -/
def requestTurn (r : Req) : State :=
  { base.setMe { base.me with issueFrom := 1 } with reqs := [r], arg := .request r.id, nextId := 10, mem := Memory.writeBytes [] (spadKey 0 0x40) [2#8] }
/-- The request and its turn, as the statements want them. -/
def turned (s : State) (r : Req) : Bool := s.arg == .request r.id && s.req? r.id == some r && r.kind == .access && r.src == .hart ⟨0, 0⟩
/-- It has come to this device. -/
def here (s : State) (r : Req) : Bool :=
  turned s r && s.arrivedHere r && r.seq.isNone

/-- Autostart of core 0 with tasks of some priorities and hart 1 OFF, in a die cycle whose slot is not hart 0's. -/
def claimState (l : List (BitVec 2)) : State :=
  { core0 base (fun c => { c with
      autostart := true, automask := 2, tasks := l.map fun p => ⟨List.replicate 16 0, p, .remote, 0, none⟩ }) with arg := .core 0, time := 1000000 }
theorem witness_ClaimsAndArrivals_claim : ∀ l ∈ ([[3], [2, 1, 1]] : List (List (BitVec 2))), let s := claimState l
    let c := s.core 0
    s.arg = .core 0 ∧ c.autostart = true ∧ c.migration = none ∧ c.lastClaim ≤ s.coreCycle 0 ∧ s.slotPending 0 = false ∧
    (s.hart ⟨0, 1⟩).st = .off ∧ c.automask.getLsbD (1 : HartId).val = true ∧ (∀ f ∈ c.tasks, f.cycle < s.coreCycle 0 ∧ f.part ≠ .resume) ∧
    c.autoprio = 3 := by decide +kernel
theorem witness_ClaimsAndArrivals_above : let s := core0 (claimState [3, 2]) fun c => { c with autoprio := 1 }
    ∀ f ∈ (s.core 0).tasks, f.cycle < s.coreCycle 0 ∧ (s.core 0).autoprio < f.prio := by decide +kernel
/-- R41: the first of the tasks of the smallest PRIO is claimed. -/
theorem test_claim_order : ((after .autostartClaim (claimState [2, 1, 1])).core 0).tasks.map (·.prio) = [2, 1] := by decide +kernel
/-- A record on its way to core 0, which holds some already. -/
def recordState (n : Nat) : State :=
  core0 (requestTurn (request (.record 1 false) .sent)) fun c => { c with tasks := List.replicate n ⟨List.replicate 16 0, 0, .remote, 0, none⟩ }
theorem witness_ClaimsAndArrivals_record : ∀ n ∈ ([39, 40] : List Nat), let s := recordState n
    here s (request (.record 1 false) .sent) = true ∧ s.homeCore (request (.record 1 false) .sent) = .inr 0 ∧
    s.recordAway (request (.record 1 false) .sent) = .keys [] ∧
    s.recordStub (request (.record 1 false) .sent) = none ∧ (s.core 0).migration = none ∧
    ((s.core 0).tasks.filter fun t => t.part == .remote).length = n := by decide +kernel
/-- A message to q-register 7 of hart 15 of core 0. -/
def message : Req := { request (.message 0x7F 9) .sent with addr := 0x7F }
def messageState (st : HartState) (full : BitVec 8) : State :=
  (requestTurn message).setHart ⟨0, 15⟩ { Hart.reset with st := st, qFull := full }
theorem witness_ClaimsAndArrivals_message :
    ∀ x ∈ ([(.running, 0), (.parked, 0x7F), (.running, 0x80), (.off, 0)] : List (HartState × BitVec 8)), let s := messageState x.1 x.2
      here s message = true ∧ s.coreStub message 0 = none ∧ s.coreRefuses message 0 = none ∧ (s.core 0).migration = none ∧
      (s.hart ⟨0, 15⟩).st = x.1 ∧ (s.hart ⟨0, 15⟩).job = .none ∧ (s.hart ⟨0, 15⟩).qFull = x.2 := by decide +kernel

/-- Core 7, of context 3, and its barrier group 2 of cores 0 and 7. -/
def groupTurn (reported : List Nat) (body : MsgBody) : State :=
  { base with
    ctxs := [(3, ⟨0, [0, 7], [], 2, [⟨2, 1, [0, 1], reported, none, none, none⟩], [(0x10000, 0x20000)], []⟩)]
    msgs := [⟨5, 0, body⟩], arg := .request 5, nextId := 10 }
theorem witness_BarrierAndRecordSteps_report : ∀ l ∈ ([[], [0]] : List (List Nat)),
    let s := groupTurn l (.barrierReport 3 2 7 none none none [])
    s.arg = .request 5 ∧ s.msg? 5 = some (.barrierReport 3 2 7 none none none []) ∧ s.outstanding [] = [] ∧
    s.routeOpen (dieOf 7) (s.rootDie 3 2 7) = true ∧ (s.ctx? 3).map (·.window.idxOf? 7) = some (some 1) ∧ 1 ∉ l ∧ (∀ x ∈ s.msgs, x.id < s.nextId) ∧
    (s.ctx? 3).map (fun c => (c.groups.find? (fun x => x.gid == 2)).map (·.members)) = some (some [0, 1]) := by decide +kernel
theorem witness_BarrierAndRecordSteps_done :
    let s := (groupTurn [] (.barrierDone 3 2 0 none none none)).setHart ⟨0, 1⟩
      { Hart.reset with st := .parked, wait := .barrier, arrived := some ⟨2, none, 0, 0, some 0⟩ }
    s.msg? 5 = some (.barrierDone 3 2 0 none none none) ∧ (s.hart ⟨0, 1⟩).arrived = some ⟨2, none, 0, 0, some 0⟩ ∧
    s.routeOpen (s.rootDie 3 2 0) (dieOf 0) = true ∧ (s.hart ⟨0, 1⟩).st = .parked ∧ (s.hart ⟨0, 1⟩).wait = .barrier ∧ (s.hart ⟨0, 1⟩).job = .none ∧
    (∀ i : HartId, i ≠ 1 → (s.hart ⟨0, i⟩).arrived = none) := by decide +kernel
theorem witness_BarrierAndRecordSteps_overlay :
    let s := { core0 ((groupTurn [] (.mapUpdateAck 0 0)).setHart ⟨0, 1⟩ (busyHart .running (.overlay 0x10000 none) 0)) (fun c => { c with ctx := some 3 }) with
      arg := .hart ⟨0, 1⟩ }
    (s.hart ⟨0, 1⟩).job = .overlay 0x10000 none ∧ (s.hart ⟨0, 1⟩).st = .running ∧ (s.core 0).ctx = some 3 ∧
    (s.ctx? 3).isSome = true := by decide +kernel
/-- A fault found on die 0, at hart 0 of core 0. -/
def foundState : State :=
  { base.setDie 0 { base.die 0 with found := [⟨0x20, 1, 2, 3, some ⟨0, 0⟩, 24, none, none⟩] } with arg := .die 0 }
theorem witness_BarrierAndRecordSteps_record : (foundState.die 0).lastWrite ≤ foundState.cycle 0 ∧ foundState.bufferFull 0 = false ∧
    (foundState.die 0).holding = [] ∧ (foundState.die 0).found = [⟨0x20, 1, 2, 3, some ⟨0, 0⟩, 24, none, none⟩] := by decide +kernel

theorem witness_RequestsPerform_send : ∀ op ∈ ([.read 8, .write] : List ReqOp), let r := { request op .queued with route := none }
    let s := requestTurn r
    turned s r = true ∧ s.ready r = true ∧ s.maySend r = true ∧ s.wayOf r = .go 0 0 ∧ s.routeHeld r = false ∧ r.seq = none ∧
    s.numbersOf r.core = [] := by decide +kernel
/-- The keys of the 8 bytes that `request` names. -/
def wordKeys : List Nat := (List.range 8).map fun i => spadKey 0 0x40 + i
theorem witness_RequestsPerform : ∀ op ∈ ([.read 8, .lr true, .atomic .cas true 1 2] : List ReqOp), let r := request op .sent
    let s := requestTurn r
    here s r = true ∧ r.parts = [] ∧ s.locate r = .keys wordKeys ∧ (∀ k ∈ wordKeys, k < 2 ^ 45) ∧ s.anyPoisoned wordKeys = false := by
  decide +kernel
theorem witness_RequestsPerform_lr : let s := requestTurn (request (.lr true) .sent)
    (s.setMe { s.me with lr := some 5 }).me.lr = some (request (.lr true) .sent).id ∧
    here (s.setMe { s.me with lr := some 5 }) (request (.lr true) .sent) = true := by decide +kernel
/-- A write of 8 bytes with an arrival. -/
def writeTo (a : Arrival) : Req := { request .write .sent with data := List.replicate 8 7, arrival := a }
theorem witness_RequestsPerform_write : ∀ a ∈ ([.none, .flag 0xA000000000000048, .tile 0xA000000000000040 63] : List Arrival),
    let s := requestTurn (writeTo a)
    here s (writeTo a) = true ∧ s.locate (writeTo a) = .keys wordKeys ∧ s.namesRegister (writeTo a) = false ∧
    s.place 0 (writeTo a).addr = some (.spad 0 0x40 0) ∧ (s.core 0).nextTile ≤ s.coreCycle 0 ∧ s.coreTurn 0 = true := by decide +kernel
theorem witness_RequestsPerform_tile : ∀ st ∈ ([.filling, .empty, .draining] : List TileState),
    let s := core0 (requestTurn (writeTo (.tile 0xA000000000000040 63))) fun c => { c with tiles := c.tiles.set 63 { Tile.reset with st := st, expect := 1 } }
    ((s.core 0).tile 63).st = st := by decide +kernel
theorem witness_RequestsPerform_flag : let r := request .arrivalOnly .sent
    let s := requestTurn r
    here s r = true ∧ r.arrival = .none ∧ s.place r.core r.addr = some (.spad 0 0x40 0) ∧ s.coreRefuses r 0 = none ∧
    (s.core 0).migration = none ∧ s.coreStub r 0 = none ∧ s.coreTurn 0 = true ∧ (s.core 0).nextFlag ≤ s.coreCycle 0 ∧ s.anyPoisoned [spadKey 0 0x40] = false ∧
    spadKey 0 0x40 < 2 ^ 45 := by decide +kernel

/-- A request of hart 0 with a destination. -/
def filling (d : Dest) (st : Stage) : Req := { request (.read 8) st with dest := d }
theorem witness_RequestsComplete : ∀ d ∈ ([.xreg 5 true, .load 5 ⟨.ld, 0⟩] : List Dest), let r := filling d (.answered (.done (List.replicate 8 1)))
    let s := requestTurn r
    turned s r = true ∧ s.answerHere r = true ∧ r.windows = [] ∧ r.image = none ∧ s.me.st = .running ∧ s.me.job = .none := by decide +kernel
theorem witness_RequestsComplete_ack : let r := { request .write (.answered (.done [])) with dest := .none }
    turned (requestTurn r) r = true ∧ (requestTurn r).answerHere r = true ∧ r.arrival = .none := by decide +kernel
theorem witness_RequestsComplete_refused : ∀ n ∈ ([0, 15, 16] : List Nat), let r := { request .write (.answered .refused) with retries := n }
    turned (requestTurn r) r = true ∧ (requestTurn r).answerHere r = true ∧ (requestTurn r).retriesOf r.core < 32 := by decide +kernel
theorem witness_RequestsComplete_fetch : let r := { request (.read 64) (.answered .refused) with retries := 16, dest := .fetch 0 }
    turned (requestTurn r) r = true ∧ (requestTurn r).answerHere r = true := by decide +kernel
theorem witness_RequestsComplete_retry : let r := request .write (.retry 0)
    let s := requestTurn r
    turned s r = true ∧ 0 ≤ s.coreCycle r.core ∧ (s.die (dieOf r.core)).halted = false ∧ s.wayOf r = .go s.device.toNat 0 := by decide +kernel
theorem witness_RequestsComplete_fault : let r := { filling (.xreg 5 true) (.answered (.faulted 0x40 0x1000 0)) with user := true }
    let s := requestTurn r
    let u := s.setMe { s.me with csr := { s.me.csr with upvec := 0x40 } }
    turned s r = true ∧ s.answerHere r = true ∧ s.me.csr.upvec = 0 ∧ u.me.csr.upvec ≠ 0 ∧ u.me.st = .running := by decide +kernel
theorem witness_RequestsComplete_fences : ∀ k ∈ ([.release 3, .acquire] : List ReqKind), let r := { filling (.xreg 5 true) .queued with kind := k }
    let s := requestTurn r
    s.req? r.id = some r ∧ s.ready r = true ∧ s.answerHere r = true ∧ r.id ∉ r.waits := by decide +kernel

/-- R75: a flag arrival adds 1 to the word. -/
theorem test_flag_arrival : Memory.read (after .flagArrival (requestTurn (request .arrivalOnly .sent))).mem (spadKey 0 0x40) = 3#8 := by decide +kernel
/-- R177: a compare and swap that differs leaves the word. -/
theorem test_cas_differs : (after .remoteAtomicPerform (requestTurn (request (.atomic .cas true 9 3) .sent))).mem = [(spadKey 0 0x40, 2#8)] := by
  decide +kernel
/-- And one that agrees replaces it. -/
theorem test_cas_agrees : (after .remoteAtomicPerform (requestTurn (request (.atomic .cas true 9 2) .sent))).mem = [(spadKey 0 0x40, 9#8)] := by
  decide +kernel
/-- R265: the first retry comes after 64 die cycles. -/
theorem test_retry_time : ((after .negativeAcknowledgement (requestTurn (request .write (.answered .refused)))).reqs.map (·.stage)) = [.retry 64] := by
  decide +kernel
/-- R181: a message fills its q-register. -/
theorem test_message : ((after .messageArrival (messageState .running 0)).hart ⟨0, 15⟩).qFull = 0x80 := by decide +kernel
/-! ### Translation and ownership -/

/-- Tables of ASID 0 on die 0 that lead the first region to a level-1 entry. -/
def tabled (s : State) (level1 : Nat) : State :=
  let m := Memory.writeBytes s.mem (hbmKey 0 0x10000) (leBytes (1 + 0x20000 * 2 ^ 64) 16)
  let m := Memory.writeBytes m (hbmKey 0 0x20000) (leBytes (1 + 0x30000 * 2 ^ 64) 16)
  let m := Memory.writeBytes m (hbmKey 0 0x30000) (leBytes level1 16)
  { s.setDie 0 { s.die 0 with roots := [(0, ⟨0, true, 0, 0x10000, 0⟩)] } with mem := m }
/-- A 2 MiB leaf of frame 0 at home on die 0 that permits everything, already touched. -/
def leafEntry : Nat := 0x17F
/-- A request for 0x40 of virtual space. -/
def virtualRequest (op : ReqOp) (st : Stage) : Req := { request op st with addr := 0x40 }
def unrouted (op : ReqOp) : Req := { virtualRequest op .queued with route := none }

theorem witness_TranslationSteps_lookup :
    (∀ x ∈ ([(leafEntry, .home 0), (0x201 + 7 * 2 ^ 64, .remote 7 0), (0, .fault cNotMapped)] : List (Nat × Walk)),
      let s := tabled (requestTurn (unrouted (.read 8))) x.1
      turned s (unrouted (.read 8)) = true ∧ (unrouted (.read 8)).ni = true ∧ s.routeOf (unrouted (.read 8)) = none ∧
      s.place 0 0x40 = some (.virt 0x40) ∧ s.walk (dieOf 0) true 0 0x40 = x.2) ∧ (unrouted (.read 8)).mapped = true := by decide +kernel
theorem witness_TranslationSteps_walk : let r := virtualRequest (.read 8) .sent
    let s := tabled (requestTurn r) leafEntry
    here s r = true ∧ r.namesMemory = true ∧ s.place r.core r.addr = some (.virt 0x40) ∧ s.locate r = .walk := by decide +kernel
theorem witness_TranslationSteps_invalidate : let s := { groupTurn [] (.invalidate ⟨0, 0⟩ none none [0, 1]) with arg := .requestAt 5 1 }
    s.arg = .requestAt 5 1 ∧ s.msg? 5 = some (.invalidate ⟨0, 0⟩ none none [0, 1]) ∧ s.routeOpen (s.msgDie 5) 1 = true ∧
    (groupTurn [] (.invalidate ⟨0, 0⟩ none none [])).msg? 5 = some (.invalidate ⟨0, 0⟩ none none []) ∧
    (groupTurn [] (.redirect 0 0 3 7 1)).msg? 5 = some (.redirect 0 0 3 7 1) := by decide +kernel
theorem witness_TranslationSteps_bounce : let r := virtualRequest (.read 8) (.answered (.bounced 7 3 [(4, [1#8])]))
    turned (requestTurn r) r = true ∧ r.ni = true := by decide +kernel

/-- A request to own the region of 0x40, from this device or from device 9. -/
def ownRequest (src : Source) : Req := { virtualRequest (.own 0) .sent with src := src }
theorem witness_OwnershipSteps_own : ∀ src ∈ ([.hart ⟨0, 0⟩, .foreign 9 0 0 1] : List Source), let r := ownRequest src
    let s := tabled (requestTurn r) leafEntry
    s.arg = .request r.id ∧ s.req? r.id = some r ∧ s.arrivedHere r = true ∧ r.seq = none ∧
    s.place r.core r.addr = some (.virt 0x40) ∧ r.mapped = true ∧ stubFor (s.die r.die).stubs r.asid (regionOf 0x40) = none ∧
    s.walk r.die true r.asid 0x40 = .home 0 ∧ r.die = 0 ∧ (s.chunkLeaves r.die r.asid (regionOf 0x40)).any (·.isSome) = true ∧
    s.freeStub r.die = some 0 := by decide +kernel
/-- A stub of die 0 for the first region and a device, with its turn; a path to other devices is live. -/
def stubTurn (st : StubState) (copied : BitVec 5) (acks : BitVec 13) (time : Nat) (ndev : BitVec 13) (sending : Bool) : State :=
  { base.setDie 0 { base.die 0 with stubs := [(0, ⟨st, false, copied, 0, 0, ndev, 0, acks, 0, 0, none, sending⟩)] } with
    arg := .stub 0 0, time := time, paths := 1, ports := Vector.replicate 18 { Port.reset with st := .active } }
theorem witness_OwnershipSteps_stub : (∀ k ∈ ([0, 31] : List Nat), ∀ b : Bool,
      let s := stubTurn .copying (BitVec.ofNat 5 k) 0 0 9 b
      (tableGet (s.die 0).stubs 0).map (fun x => (x.st, x.sending)) = some (.copying, b) ∧ s.livePaths 9 ≠ [] ∧ (∀ y : DieId, (s.die y).halted = false) ∧
      (stubFor (s.die 0).stubs 0 0).map (·.1) = some 0) ∧
    (tableGet ((stubTurn .quiet 0 0 1000000000000 9 false).die 0).stubs 0).map (fun x => (x.st, x.fwdAt)) = some (.quiet, 0) ∧
    100000 ≤ (stubTurn .quiet 0 0 1000000000000 9 false).refTime ∧ (stubTurn .quiet 0 0 0 9 false).refTime < 100000 := by decide +kernel
theorem witness_OwnershipSteps_forward : ∀ hops ∈ ([0, 2, 3] : List Nat), let r := { virtualRequest (.read 8) .sent with hops := hops }
    let s := { (stubTurn .forwarding 0 0 0 0 false).setMe { base.me with issueFrom := 1 } with reqs := [r], arg := .request r.id }
    here s r = true ∧ s.place r.core r.addr = some (.virt 0x40) ∧ s.regionState r.die r.asid 0x40 = some (.forward s.device.toNat 0 true) ∧ r.hops = hops := by decide +kernel
theorem witness_OwnershipSteps_messages : (groupTurn [] (.mapUpdate 0 3 7 1 0 0 0)).msg? 5 = some (.mapUpdate 0 3 7 1 (base.device.toNat) 0 0) ∧
    ({ stubTurn .forwarding 0 1 0 9 false with msgs := [⟨5, 0, .mapUpdateAck 0 0⟩], arg := .request 5 }).msg? 5 = some (.mapUpdateAck 0 0) ∧
    (∀ x : DieId, (groupTurn [] (.mapUpdate 0 3 7 1 0 0 0)).routeOpen ((groupTurn [] (.mapUpdate 0 3 7 1 0 0 0)).msgDie 5) x = true) ∧
    (groupTurn [] (.flushMarker 9 0 1 0 1)).msg? 5 = some (.flushMarker 9 0 1 0 1) ∧ (groupTurn [] (.flushMarker 9 0 1 0 1)).markers = [] ∧
    (groupTurn [] (.flushMarker 9 0 1 0 1)).reqs = [] := by decide +kernel
theorem witness_OwnershipSteps_marker : let s := { stubTurn .forwarding 0 0 0 9 false with
      msgs := [⟨5, 0, .flushMarker 9 0 1 0 1⟩], arg := .request 5 }
    s.msg? 5 = some (.flushMarker 9 0 1 0 1) ∧ s.markers = [] ∧ s.replyPaths 9 ≠ [] ∧ (∀ y : DieId, (s.die y).halted = false) ∧
    ∃ m ∈ (after .flushMarker s).fabricOut, m.device = 9 ∧ m.msg = .collectiveCompletion s.device.toNat 0 1 := by decide +kernel
theorem witness_OwnershipSteps_copied : ∀ k ∈ ([0, 31] : List (BitVec 5)), let s := stubTurn .copying k 0 0 9 true
    (stubFor (s.die 0).stubs 0 0).map (fun x => (x.1, x.2.copied, x.2.sending)) = some (0, k, true) := by decide +kernel
theorem witness_OwnershipSteps_collective : let r := { request .write .queued with kind := .release 3 }
    let s := { requestTurn r with msgs := [⟨6, 0, .collective 9 0 r.id⟩], arg := .request 6 }
    s.msg? 6 = some (.collective 9 0 r.id) ∧ s.req? r.id = some r := by decide +kernel

/-- R390: a walk that meets an entry with V = 0 answers NOTMAPPED. -/
theorem test_not_mapped : ((after .ownerLookup (tabled (requestTurn (unrouted (.read 8))) 0)).reqs.map (·.stage))
    = [.answered (.faulted cNotMapped 0x40 0)] := by decide +kernel
/-- R187: a device asked for a region it owns answers 1. -/
theorem test_own_answer : ((after .ownRequestArrival (tabled (requestTurn (ownRequest (.hart ⟨0, 0⟩))) leafEntry)).reqs.map (·.stage))
    = [.answered (.done (leBytes 1 8))] := by decide +kernel
/-- R83, R84: a walk enters the leaf it finds. -/
theorem test_walk_enters : (((after .pageWalk (tabled (requestTurn (virtualRequest (.read 8) .sent)) leafEntry)).die 0).tlb.map (·.large)) = [true] := by
  decide +kernel

/-! ### The engines at work -/

/-- A queued trigger of hart 0 of core 0. -/
def trig (fn : BitVec 8) (a b : BitVec 128) (c : BitVec 64) : Trigger :=
  { h := ⟨0, 0⟩, seq := 3, fn := fn, a := a, b := b, c := c, d := 0, f := 0, ord := 0, scope := 0, rm := 0, compat := 0, bandsc := 0,
    mode := .machine, readsAfter := [], writesAfter := [], after := [], born := 1, earlier := [], entered := 0, cycle := 0, macroOp := none }
/-- An INT8 step over the tile 63, the slot 0 and the accumulator 15, with ZA. -/
def mmTrigger : Trigger := trig 0 (63 + (64 <<< 32)) 15 1
/-- Core 0 with that step queued: row 0 of the tile starts 2, and column 0 of the weights 3. -/
def mmState : State :=
  let s := core0 base fun c => { c with
    mxq := [mmTrigger], tiles := c.tiles.set 63 { Tile.reset with st := .ready, lines := 64, win := 6 }
    weights := c.weights.set 0 { c.weights[(0 : Fin 64)] with swin := 6, data := 3 } }
  { s with arg := .core 0, time := 20000000, mem := [(spadKey 0 0, 2)] }
theorem witness_MatrixSteps : let c := mmState.core 0
    mmState.arg = .core 0 ∧ c.mxq = [mmTrigger] ∧ mmState.mxMayStart 0 mmTrigger = true ∧ mmTrigger.macroOp = none ∧ mmTrigger.h.core = 0 ∧ mmTrigger.fn = 0 ∧
    (mmTrigger.a.extractLsb' 0 6).toNat = (63 : Fin 64).val ∧ (mmTrigger.a.extractLsb' 64 6).toNat = (0 : Fin 64).val ∧
    (mmTrigger.b.extractLsb' 0 4).toNat = (15 : Fin 16).val ∧ c.tiles[(63 : Fin 64)].win = 6 ∧ c.weights[(0 : Fin 64)].swin = 6 ∧
    mmTrigger.c.getLsbD 0 = true ∧ (∀ i, i < 16 → mmState.protects mmTrigger.h mmTrigger.mode .read mmState.device.toNat 0 (64 * i) 64 = true ∧
      mmState.anyPoisoned ((List.range 64).map fun k => spadKey 0 (64 * i + k)) = false) := by decide +kernel
/-- Core 0 with a floating step queued over the tile 63, with windows, and the slots 0 and 1. -/
def floatTrigger (fn : BitVec 8) : Trigger := trig fn (63 + (256 <<< 32)) 15 1
def floatState (fn : BitVec 8) (win : BitVec 3) : State :=
  let s := core0 base fun c => { c with
    mxq := [floatTrigger fn], tiles := c.tiles.set 63 { Tile.reset with st := .ready, lines := 64, win := win }
    weights := (c.weights.set 0 { c.weights[(0 : Fin 64)] with swin := win, data := 0x40400000 }).set 1 { c.weights[(1 : Fin 64)] with swin := win } }
  { s with arg := .core 0, time := 20000000, mem := Memory.writeBytes [] (spadKey 0 0) (leBytes 0x40000000 4) }
theorem witness_MatrixSteps_float : ∀ x ∈ ([(0, 0), (1, 2), (2, 0), (3, 5), (0, 4), (0, 7)] : List (BitVec 8 × BitVec 3)),
    let s := floatState x.1 x.2
    let c := s.core 0
    let q := floatTrigger x.1
    c.mxq = [q] ∧ s.mxMayStart 0 q = true ∧ q.macroOp = none ∧ q.fn.toNat < 4 ∧ (q.a.extractLsb' 0 6).toNat = (63 : Fin 64).val ∧
    (q.b.extractLsb' 0 4).toNat = (15 : Fin 16).val ∧ c.tiles[(63 : Fin 64)].win = x.2 ∧
    (∀ k ∈ ([0, 1] : List Nat), (c.weight k).swin = x.2 ∧ (c.weight k).poisoned = false) ∧ q.c.getLsbD 0 = true ∧
    (∀ i, i < 16 → s.protects q.h q.mode .read s.device.toNat 0 (256 * i) 160 = true ∧
      s.anyPoisoned ((List.range 160).map fun k => spadKey 0 (256 * i + k)) = false) := by decide +kernel
/-- R239: the element 0 of an FP32 product of 2.0 and 3.0 is 6.0. -/
theorem test_mm_float : (((after .mxTriggerStart (floatState 0 0)).core 0).accs[(15 : Fin 16)].data.extractLsb' 0 32) = 0x40C00000 := by
  decide +kernel
/-- R239: the element 0 of the accumulator is 2 × 3. -/
theorem test_mm : (((after .mxTriggerStart mmState).core 0).accs[(15 : Fin 16)].data.extractLsb' 0 64) = 6 := by decide +kernel

/-- Core 0 with queued and running triggers, and their flights. -/
def engineState (f : Core → Core) (u : EngineUnit) (fn : BitVec 8) : State :=
  let s := (core0 base f).setMe { (core0 base f).me with flights := [⟨u, 3, fn, 0, 0, 0, .none, true⟩] }
  { s with arg := .core 0, time := 20000000 }
theorem witness_EngineResults_mx : let s := engineState (fun c => { c with mxq := [trig 8 0 15 0] }) .mx 8
    (s.core 0).mxq = [trig 8 0 15 0] ∧ s.mxMayStart 0 (trig 8 0 15 0) = true := by decide +kernel
/-- Core 0 with `mx.st` or `mx.ld` of accumulator 15 and the tile 63 queued. -/
def moveState (fn : BitVec 8) (win : BitVec 3) (tag : BitVec 2) : State :=
  engineState (fun c => { c with
    mxq := [trig fn (63 + (64 <<< 32)) (15 + (tag.zeroExtend 128 <<< 4)) 0], accs := c.accs.set 15 ⟨5, tag, false⟩
    tiles := c.tiles.set 63 { Tile.reset with st := .ready, lines := 64, win := win } }) .mx fn
theorem witness_EngineResults_moves : ∀ x ∈ ([(9, 0, 0, 16, 64), (9, 5, 0, 4, 40), (10, 2, 0, 16, 32), (10, 6, 1, 16, 16), (10, 0, 2, 8, 64)] :
      List (BitVec 8 × BitVec 3 × BitVec 2 × Nat × Nat)), let s := moveState x.1 x.2.1 x.2.2.1
    let q := trig x.1 (63 + (64 <<< 32)) (15 + (x.2.2.1.zeroExtend 128 <<< 4)) 0
    (s.core 0).mxq = [q] ∧ s.mxMayStart 0 q = true ∧ q.b.extractLsb' 4 2 = x.2.2.1 ∧ (s.core 0).accs[(15 : Fin 16)].tag = x.2.2.1 ∧
    (s.core 0).tiles[(63 : Fin 64)].win = x.2.1 ∧ ∀ i, i < x.2.2.2.1 → 0 + i * 64 + x.2.2.2.2 ≤ 64 * 64 ∧
      s.protects q.h q.mode (if q.fn = 9 then .write else .read) s.device.toNat 0 (64 * i) x.2.2.2.2 = true ∧
      s.anyPoisoned ((List.range x.2.2.2.2).map fun k => spadKey 0 (64 * i + k)) = false := by decide +kernel
/-- R240: `mx.st` writes element 0 of the accumulator to row 0. -/
theorem test_mx_store : Memory.read (after .mxTriggerStart (moveState 9 0 0)).mem (spadKey 0 0) = 5#8 := by decide +kernel
/-- Sixteen compressed columns of INT8, each group of four with two kept; the first four values are 7, the others 0. -/
def compressed : List Host.Cell := ((List.range 4).map fun k => (spadKey 0 k, 7#8)) ++
  (List.range 16).flatMap fun j => (List.range 8).map fun k => (spadKey 0 (64 * j + 32 + k), 0x33#8)
def compressedState : State :=
  let q := trig 1 (0x8000000000000000 + (6 <<< 18) + (63 <<< 64) + (64 <<< 80)) 0 0
  { engineState (fun c => { c with wbq := [q] }) .wb 1 with mem := compressed }
theorem witness_EngineResults_wb_compressed : ∀ j, j < 16 → ∀ g, g < 16 →
    let mask := leNat (((Memory.readBytes compressedState.mem (spadKey 0 (64 * j)) 40).drop 32).take 8) / 16 ^ g % 16
    ((List.range 4).filter fun i => mask.testBit i).length = 2 := by decide +kernel
/-- R246: the two kept values of a group stand at the places that its mask names. -/
theorem test_wb_compressed : ((after .wbTriggerStart compressedState).core 0).weights[(63 : Fin 64)].data.extractLsb' 0 64 = 0x0000070700000707 := by
  decide +kernel
theorem witness_EngineResults_wb : ∀ fn ∈ ([0, 2] : List Nat), let q := trig (BitVec.ofNat 8 fn) (0x8000000000000000 + (63 <<< 64) + (64 <<< 80)) 0 0
    let s := engineState (fun c => { c with wbq := [q] }) .wb q.fn
    (s.core 0).wbq = [q] ∧ (s.core 0).wb = none ∧ s.coreTurn 0 = true ∧ s.mayRead q = true ∧ s.sourceHolds 0 1 (some .wb) = false ∧
    (s.core 0).mxq = [] ∧ q.a.extractLsb' 60 4 = 8 ∧ q.a.extractLsb' 18 42 = 0 ∧ (q.a.extractLsb' 0 18).toNat = 0 ∧
    (q.a.extractLsb' 80 16).toNat = 64 ∧
    (∀ j, j < 16 → s.protects q.h q.mode .read s.device.toNat 0 (64 * j) 64 = true ∧
      s.anyPoisoned ((List.range 64).map fun k => spadKey 0 (64 * j + k)) = false) := by decide +kernel
theorem witness_EngineResults_ends : let q := trig 8 0 15 0
    let s := engineState (fun c => { c with wb := some ⟨q, 0⟩ }) .wb 8
    let u := engineState (fun c => { c with mx := [⟨q, 0⟩] }) .mx 8
    (s.core 0).wb = some ⟨q, 0⟩ ∧ (s.hart q.h).flights.find? (fun x => x.unit == .wb && x.seq == q.seq) = some ⟨.wb, 3, 8, 0, 0, 0, .none, true⟩ ∧
    (u.core 0).mx = [⟨q, 0⟩] ∧ u.edgeFrom (dieOf 0) 0 + 3 ≤ u.coreCycle 0 := by decide +kernel
theorem witness_EngineResults_ni : let q := trig 52 1 0 0
    let s := engineState (fun c => { c with niq := [q] }) .ni 52
    (s.core 0).niq = [q] ∧ q.cycle < s.coreCycle 0 ∧ s.mayWrite q = true := by decide +kernel
/-- A bound core 0 whose put window 0 is acknowledged. -/
def windowState : State :=
  { engineState (fun c => { c with niq := [trig 48 0 0 0], ctx := some 3 }) .ni 48 with
    ctxs := [(3, ⟨0, [0], [], 2, [], [], [(0, ⟨4, 4, none⟩)]⟩)] }
theorem witness_EngineResults_window : (windowState.core 0).niq = [trig 48 0 0 0] ∧ (windowState.core 0).ctx = some 3 ∧
    (windowState.ctx? 3).map (fun x => tableGet x.windows 0) = some (some ⟨4, 4, none⟩) ∧
    windowState.mayWrite (trig 48 0 0 0) = true := by decide +kernel
/-! ### The copy engine -/

/-- A copy command of the own scratchpad. -/
def copyOperands (src dst len : Word) (rows : BitVec 16) : CFields :=
  { ord := 0, scope := 0, tag := 0, rows := rows, src := src, dst := dst, len := len, sstride := 64, dstride := 64, tagw := 0,
    idx := spadAddress 0x800 0 }
/-- Core 0 with an active list of trigger 3 of hart 0. -/
def copyState (cmds : List CeCommand) (ended : Bool) : State :=
  let s := engineState (fun c => { c with lists := [⟨trig 0 0x8000000000000000 0 0, 0x8000000000000040, 1, 0, cmds, false, ended, false, none, none, 0⟩] }) .ce 0
  { s with ceCur := (0, 0, 0) }
theorem witness_CopyEngineSteps_reach : let s := copyState [] false
    let t := trig 0 0x8000000000000000 0 0
    let c := copyOperands (spadAddress 0 0) (spadAddress 0x400 0) 64 2
    s.ceCur = (0, 0, 0) ∧ (s.core 0).lists.length = 1 ∧ s.tagOk 0 c 1 = true ∧ s.tagSpan t c = none ∧ s.copyCheck t c 1 false = none ∧
    s.copyCheck t c c.rows.toNat false = none ∧ s.fillCheck t c 64 1 = none ∧ s.copyCheck t c c.rows.toNat true = none ∧
    s.waitCheck t { c with dst := 1 } = none ∧ s.flagWord 0 c.dst = true ∧ s.absentDie c.dst = false ∧ s.targetProtects t .write c.dst 8 = true ∧
    s.fillCheck t c 8 8 = none ∧ c.src.extractLsb' 0 6 = 0 := by decide +kernel
theorem witness_CopyEngineSteps_ends : let s := copyState [] false
    let t := trig 0 0x8000000000000000 0 0
    let c := copyOperands (spadAddress 1 0) (spadAddress 0x3FFFF 0) 0 0
    s.tagOk 0 { c with tag := 1, tagw := 1 } 1 = false ∧ s.copyCheck t c 1 false ≠ none ∧ s.fillCheck t { c with dst := 1 <<< 63 ||| 0x40000 } 64 1 ≠ none ∧
    s.copyCheck t c c.rows.toNat true ≠ none ∧ s.waitCheck t c ≠ none ∧ s.fillCheck t c 8 8 ≠ none ∧ c.src.extractLsb' 0 6 ≠ 0 := by decide +kernel
theorem witness_CopyEngineSteps_activate : let s := engineState (fun c => { c with ceq := [trig 0 0x8000000000000000 0 0] }) .ce 0
    (s.core 0).ceq = [trig 0 0x8000000000000000 0 0] ∧ (s.core 0).lists.length < 8 ∧ (trig 0 0x8000000000000000 0 0).cycle < s.coreCycle 0 ∧
    s.sourceHolds 0 1 (some .ce) = false := by
  decide +kernel
/-- A FILL of 72 bytes with its first bytes stored, or all of them. -/
def fillCommand (first row : Nat) : CeCommand :=
  ⟨0, 3, copyOperands 0x1122334455667788 (spadAddress 0x400 0) 72 0, 0x8000000000000040, row, first, 1, [], false, [], none⟩
theorem witness_CopyEngineSteps_fill : ∀ n ∈ ([0, 64, 71] : List Nat), let s := copyState [fillCommand n 0] false
    let x := fillCommand n 0
    s.arg = .core 0 ∧ ((s.core 0).lists.map (fun l => (l.cmds, l.waiting, l.from_))) = [([x], false, 0)] ∧ n < x.f.len.toNat ∧
    (s.core 0).ceNext ≤ s.coreCycle 0 ∧ s.coreTurn 0 = true ∧ x.f.ord = 0 ∧ x.f.tag = 0 ∧
    s.mayWrite (trig 0 0x8000000000000000 0 0) = true ∧ s.sourceHolds 0 1 (some .ce) = false ∧ s.copyWindow 0 x.f.dst = 0 ∧
    (x.f.dst + BitVec.ofNat 64 n).extractLsb' 60 4 = 8 := by decide +kernel
theorem witness_CopyEngineSteps_complete : ∀ ended ∈ ([false, true] : List Bool),
    let x := fillCommand 0 1
    let s := { copyState [x] ended with arg := .command 0 0 0 }
    ((s.core 0).lists.map (·.cmds)) = [[x]] ∧ x.n = 0 ∧ x.rows ≤ x.row ∧
    s.outstanding x.open_ = [] ∧ x.kind ≠ 5 ∧ x.f.tag = 0 ∧
    ((s.core 0).lists.map (·.ended)) = [ended] := by decide +kernel

/-- R252, R254: a command in progress counts its rows. -/
theorem test_copy_rows : ((after (.ccCopy2d (copyOperands (spadAddress 0 0) (spadAddress 0x400 0) 65 2)) (copyState [] false)).core 0).lists.map
    (fun l => l.cmds.map (·.rows)) = [[2]] := by decide +kernel
/-- R254: the second transfer of a FILL of 72 bytes stores 8. -/
theorem test_fill_rest : (after .ceTransfer (copyState [fillCommand 64 0] false)).mem.length = 8 ∧
    Memory.read (after .ceTransfer (copyState [fillCommand 64 0] false)).mem (spadKey 0 0x440) = 0x88#8 := by decide +kernel

/-! ### Streams -/

/-- A tensor of a name: its address, shape and format. -/
def tensor (name : BitVec 6) (addr : Word) (rows cols rstride : Nat) (fmt : BitVec 8) : Operand :=
  ⟨name, 5, addr, 0, ⟨addr, 0, rows, cols, rstride, fmt, 1, 0, 0⟩, false⟩
/-- Operand fields of a stream word. -/
def fields (imm : Word) (aux : BitVec 16) (mode : BitVec 8) : SFields := ⟨imm, aux, mode, 0, 0, 0, 0, 0, 0, 0, 0, 0, 0⟩
/-- A window entry, issued and not started. -/
def entry (f : SFields) (op : BitVec 8) (dst : Option Operand) (srcs : List Operand) : Entry :=
  { blankEntry 0 0x1000 (streamWord f op) (decodeStream (streamWord f op)) with st := .issued, dst := dst, srcs := srcs }
/-- Slot 0 RUNNING on die 0 for context 3, which has cores 0 and 1, with a window and its turn. The first region is mapped. -/
def streamState (window : List Entry) : State :=
  let s := tabled base leafEntry
  let s := core0 s fun c => { c with ctx := some 3 }
  let s := s.setCore 1 { s.core 1 with ctx := some 3 }
  { s.setSlot 0 { Slot.reset with st := .running, ctx := 3, window := window, spc := 0x1010, slimit := 0x2000, next := 1 } with
    ctxs := [(3, ⟨0, [0, 1], [], 2, [], [], []⟩)], strCur := (0, 0), stackMask := 0xFF }
/-- The same conditions as `startsEntry`, with nothing started. -/
def startable (s : State) (e : Entry) : Bool :=
  s.strCur == (0, e.n) && (s.slot 0).st == .running && (s.slot 0).entry? e.n == some e && e.st == .issued && !e.started && !e.discarded &&
    e.undeclared.isNone && (s.slot 0).drain.isEmpty
theorem startable_starts (s : State) (e : Entry) (h : startable s e = true) : startsEntry s 0 e := by
  simp only [startable, Bool.and_eq_true, beq_iff_eq, Bool.not_eq_true', Option.isNone_iff_eq_none,
    List.isEmpty_iff] at h
  exact ⟨h.1.1.1.1.1.1.1, h.1.1.1.1.1.1.2, h.1.1.1.1.1.2, .inl ⟨h.1.1.1.1.2, h.1.1.1.2, h.1.1.2⟩, h.1.2, by simp [h.2]⟩

/-- An entry whose destination and sources are tensors of one shape. -/
def like (op : BitVec 8) (mode : BitVec 8) (fmt : BitVec 8) (n : Nat) : Entry :=
  entry (fields 0x1000 0 mode) op (some (tensor 1 0x2000 16 16 64 fmt)) (List.replicate n (tensor 2 0x3000 16 16 64 fmt))
theorem witness_BuiltInsStart : ∀ x ∈ ([(0x10, 0, 0), (0x11, 0, 1), (0x20, 0, 2), (0x21, 5, 2), (0x21, 12, 2), (0x22, 2, 1), (0x22, 0x12, 1), (0x23, 0, 1)] : List (Nat × Nat × Nat)),
    let e := like (BitVec.ofNat 8 x.1) (BitVec.ofNat 8 x.2.1) 1 x.2.2
    startable (streamState [e]) e = true ∧ e.tensors.2.length = x.2.2 ∧ e.tensors.1.rows = 16 ∧ e.tensors.1.cols = 16 ∧ e.tensors.1.fmt = 1 := by
  decide +kernel
theorem witness_BuiltInsStart_spaces : addressIn [0, 8, 10, 13] 64 0x1FFFFFFFFFFFFC0 ∧ addressIn [0, 8, 10, 13] 64 0x80000000001FFFC0 ∧
    ¬ addressIn [0, 8, 10, 13] 64 0x8000000000200000 ∧ ¬ addressIn [0, 8, 10, 13] 64 0x200000000000000 ∧
    addressIn [0, 11] 64 0xB000000000000040 ∧ ¬ addressIn [0, 11] 64 0xA000000000000040 := by
  refine ⟨?_, ?_, ?_, ?_, ?_, ?_⟩ <;> unfold addressIn <;> decide +kernel

/-- An entry of a table instruction on the table of 2^12 bytes at 0: 2 rows of data, whose index stands at 0x40000. -/
def tableEntry (op : Nat) (mode : BitVec 8) : Entry :=
  let data := tensor 1 0x50000 2 16 64 1
  let index := tensor 2 0x40000 2 1 64 2
  if op = 0x30 then entry (fields 0 0 mode) 0x30 (some data) [index]
  else entry (fields 0 0 mode) (BitVec.ofNat 8 op) none [data, index]
/-- What the reader of an entry reads of an index. -/
def pulled (s : State) (e : Entry) (spans : List (Word × Nat)) : State × Option (List (List Byte)) :=
  match s.pullSpans (s.leadReader 0 e.n) spans with
  | (s', .ready b) => (s', some b)
  | (s', _) => (s', none)
theorem witness_CellarInstructionsStart : ∀ op ∈ ([0x30, 0x31, 0x32] : List Nat), let e := tableEntry op 12
    let s := streamState [e]
    let index := if op = 0x30 then e.tensors.2.headD e.tensors.1 else e.tensors.2.getD 1 e.tensors.1
    let data := if op = 0x30 then e.tensors.1 else e.tensors.2.headD e.tensors.1
    let r := pulled s e ((List.range 2).map fun r => (rowAt index r, 4))
    startable s e = true ∧ e.op = BitVec.ofNat 8 op ∧ index.fmt = 2 ∧ index.cols = 1 ∧ index.rows = data.rows ∧ data.fmt.toNat ≤ 3 ∧
    r.2.map (·.map leNat) = some [0, 0] ∧
    (r.1.splitRows (r.1.slot 0).lead true false { r.1.workOf 0 e data data with rows := [(0, 0), (1, 0)] }).2 =
      ⟨[(0, [(0, 0), (1, 0)])], [], [], none⟩ ∧
    r.1.engineLoad 0 .gather = 0 ∧ r.1.engineLoad 0 .reduction = 0 := by decide +kernel
theorem witness_CellarInstructionsStart_row : let e := tableEntry 0x30 6
    let s := { streamState [e] with mem := Memory.writeBytes (streamState [e]).mem (hbmKey 0 0x40000) [1#8] }
    let r := pulled s e [(rowAt (e.tensors.2.headD e.tensors.1) 0, 4)]
    startable s e = true ∧ r.2.map (·.map leNat) = some [1] ∧ 2 ^ 6 < 1 * 64 + rowSize e.tensors.1 := by decide +kernel
theorem witness_CellarInstructionsStart_limits : addressIn [0] 64 0 ∧ ¬ addressIn [0] 64 0x20 := by
  constructor <;> unfold addressIn <;> decide +kernel
theorem witness_CellarInstructionsStart_scvt : let e := entry (fields 0 0 0) 0x24 (some (tensor 1 0x50000 1 128 256 1)) [tensor 2 0x60000 1 128 256 3]
    let s := streamState [e]
    let rows := (List.range 1).flatMap (fun r => (List.range 2).map fun g => (r, g))
    startable s e = true ∧ e.op = 0x24 ∧ (e.tensors.1.fmt = 9 ↔ (e.tensors.2.headD e.tensors.1).fmt = 9) ∧
    (s.splitRows 0 true false { s.workOf 0 e e.tensors.1 (e.tensors.2.headD e.tensors.1) with rows := rows }).2 = ⟨[(1, rows)], [], [], none⟩ ∧
    s.engineLoad 1 .conversion < 8 := by decide +kernel

/-- Control instructions in slot 0, with loop levels. -/
def controlTurn (f : SFields) (op : BitVec 8) (loops : List Loop) : State :=
  let s := streamState [entry f op none []]
  s.setSlot 0 { s.slot 0 with decodeLoops := loops }
theorem witness_StreamControlFlow : ∀ x ∈ ([(0x60, 0, 0), (0x60, 0, 1), (0x60, 0, 2), (0x61, 1, 0), (0x61, 1, 1), (0x61, 2, 1), (0x63, 1, 0)] : List (Nat × Nat × Nat)),
    let f := fields 0xA000000000000040 (BitVec.ofNat 16 x.2.1) (BitVec.ofNat 8 x.2.2)
    let s := controlTurn f (BitVec.ofNat 8 x.1) []
    startable s (entry f (BitVec.ofNat 8 x.1) none []) = true ∧
    (match s.pull (s.leadReader 0 0) f.imm64 8 with
     | (s', .ready b) => s'.slot 0 == s.slot 0 && leNat b == 0
     | _ => false) = true := by decide +kernel
theorem witness_StreamControlFlow_words : addressIn [0, 10, 11, 13] 8 0xA000000000000040 ∧ ¬ addressIn [0, 10, 11, 13] 8 0xA000000000000044 := by
  constructor <;> unfold addressIn <;> decide +kernel
theorem witness_StreamControlFlow_loops : ∀ n ∈ ([0, 3, 4] : List Nat), let f := fields 3 2 1
    let s := controlTurn f 0x61 (List.replicate n ⟨0, 2⟩)
    startable s (entry f 0x61 none []) = true ∧ (s.slot 0).decodeLoops.length = n ∧ f.mode.getLsbD 0 = true ∧ f.aux ≠ 0 ∧ f.imm64 ≠ 0 ∧
    f.imm64.toNat < 2 ^ 32 := by decide +kernel
theorem witness_StreamControlFlow_end : ∀ n ∈ ([1, 2] : List Nat), let f := fields 0 0 0
    let s := controlTurn f 0x62 [⟨0x900, BitVec.ofNat 32 n⟩]
    startable s (entry f 0x62 none []) = true ∧ (s.slot 0).decodeLoops = [] ++ [⟨0x900, BitVec.ofNat 32 n⟩] := by decide +kernel
/-- A declaration of one row of 16 words at 0x70000, and its record at 0x40000. -/
def declRecord : List Byte := leBytes 0x70000 8 ++ leBytes 0 8 ++ leBytes 1 4 ++ leBytes 16 4 ++ leBytes 64 8 ++ leBytes 0x101 2 ++ List.replicate 30 0
theorem witness_StreamControlFlow_decl : let f := { fields 0x40000 0 0 with dst := 4 }
    let s0 := controlTurn f 0x01 []
    let s := { s0 with mem := Memory.writeBytes s0.mem (hbmKey 0 0x40000) declRecord }
    startable s (entry f 0x01 none []) = true ∧
    (match s.pull (s.leadReader 0 0) f.imm64 64 with
     | (s', .ready b) => (declOf b (s'.tensorHome (s'.slot 0) 0x70000)).isSome && ((s'.slot 0).name f.dst).decl.isNone && s'.freeDescriptor.isSome
     | _ => false) = true := by decide +kernel

theorem witness_StreamWorkStarts : ∀ x ∈ ([(0x64, 0, 0), (0x65, 0, 0), (0x66, 0, 0), (0x67, 0, 0)] : List (Nat × Nat × Nat)),
    let f := fields 0xA000000000000040 0 0
    let s := controlTurn f (BitVec.ofNat 8 x.1) []
    startable s (entry f (BitVec.ofNat 8 x.1) none []) = true ∧ (s.slot 0).decodeLoops = [] := by decide +kernel
theorem witness_StreamWorkStarts_own : let f := fields 0x200000 3 0
    let s := controlTurn f 0x70 []
    startable s (entry f 0x70 none []) = true ∧ f.imm64.extractLsb' 57 7 = 0 ∧ f.imm64.extractLsb' 0 5 = 0 ∧ f.aux.extractLsb' 11 5 = 0 ∧
    (f.aux.extractLsb' 0 2).toNat < s.dieCount ∧ f.aux.extractLsb' 2 2 ≠ 3 ∧ f.aux.extractLsb' 4 2 ≠ 3 := by decide +kernel
theorem witness_StreamWorkStarts_kernel : let f := fields 0 0 0
    let s0 := controlTurn f 0x40 []
    let s := s0.setSlot 0 { s0.slot 0 with kernels := [0x8000] }
    startable s (entry f 0x40 none []) = true ∧ (f.aux.extractLsb' 0 6).toNat < (s.slot 0).kernels.length ∧ f.aux.getLsbD 8 = false ∧
    f.aux.getLsbD 9 = false := by decide +kernel
/-- A descriptor of group 5 with PART 2 and the two cores of the context, at 0x40000. -/
theorem witness_StreamWorkStarts_group : let f := fields 0x40000 1 1
    let s0 := controlTurn f 0x41 []
    let s := { s0 with mem := Memory.writeBytes s0.mem (hbmKey 0 0x40000) (leBytes (5 + 2 * 2 ^ 8 + 2 * 2 ^ 13) 8 ++ leBytes (1 * 2 ^ 16) 8) }
    startable s (entry f 0x41 none []) = true ∧
    (match s.readGroups (s.leadReader 0 0) f.imm64 1 with
     | (s', .ready [g]) => g.members == [0, 1] && g.part == 2 && (s'.ctx? 3).isSome
     | _ => false) = true := by decide +kernel
/-- A host write of a device register of die 0. -/
def hostTurn (s : State) (off : Nat) (w : Word) : State := { s with arg := .write (.host (BitVec.ofNat 30 off) w) }
/-- The write of a state's turn reaches the register. -/
def writesHere (s : State) (off : Nat) (w : Word) : Bool := s.registerWrite? (.host (BitVec.ofNat 30 off) w) == some (0, off, w)
/-- Slot 0 changed. -/
def slot0 (s : State) (f : Slot → Slot) : State := s.setSlot 0 (f (s.slot 0))
/-- SFENCE of slot 0. -/
def fence : Entry := entry (fields 0 0 0) 0x66 none []

theorem witness_StreamSlotSteps_open : let s := slot0 (streamState []) fun v => { v with
      st := .free, blocks := v.blocks.set 0 ⟨3, 0x1000, 0, 0, 0, 0⟩ }
    writesHere s 0x100000 0x10 = true ∧ (0x10 : Word).getLsbD 4 = true ∧ (s.slot 0).st = .free ∧
    (s.ctx? (s.slot 0).blocks[(0 : DieId)].ctx).isSome = true := by decide +kernel
theorem witness_StreamSlotSteps_opened : let s := later (slot0 (streamState []) fun v => { v with st := .opening })
    (s.slot 0).st = .opening ∧ (s.slot 0).opened < s.cycle (s.slot 0).lead ∧ (s.slot 0).nkern = 0 := by decide +kernel
theorem witness_StreamSlotSteps_limit : ∀ st ∈ ([.running, .halted] : List SlotState), let s := slot0 (streamState []) fun v => { v with st := st }
    writesHere s 0x100018 0x3000 = true ∧ (s.slot 0).lead = 0 ∧ (s.slot 0).st = st ∧ (s.slot 0).spc < (0x3000 : Word) := by decide +kernel
theorem witness_StreamSlotSteps_raise : let e := { fence with st := .marked 0x50 (some 7) }
    (streamState [e]).slot 0 = (streamState [e]).slot 0 ∧ ((streamState [e]).slot 0).window = [e] ∧ e.st = .marked 0x50 (some 7) ∧
    ((streamState [e]).slot 0).st = .running := by decide +kernel
theorem witness_StreamSlotSteps_close : ∀ st ∈ ([.running, .halted, .fenced] : List SlotState), let s := slot0 (streamState [fence]) fun v => { v with st := st }
    writesHere s 0x100000 0x20 = true ∧ (0x20 : Word).getLsbD 5 = true ∧ (s.slot 0).st = st ∧ (s.slot 0).fencedOpening = false := by
  decide +kernel
/-- R269: a CLOSE in the die cycle of a fence that found the slot OPENING does nothing. -/
theorem test_close_opening : let s := slot0 (streamState [fence]) fun v => { v with st := .fenced, fencedOpening := true }
    ((after .sctlClose (hostTurn s 0x100000 0x20)).slot 0).st = .fenced := by decide +kernel
theorem witness_StreamSlotSteps_closed : let s := slot0 (streamState []) fun v => { v with st := .closing }
    (s.slot 0).st = .closing ∧ (s.slot 0).window = [] ∧ (s.slot 0).drain = [] ∧ s.descs = [] := by decide +kernel

/-- Slot 0 with a line of text that holds a word at SPC, 1 ms after reset. -/
def textState (w : BitVec 128) : State :=
  { slot0 (streamState []) (fun v => { v with lines := [⟨0x1000, w.setWidth 512 <<< 128, 0, 0x2000, none⟩] }) with time := 1000000000, arg := .slot 0 }
theorem witness_StreamWindowSteps_fetch : let s := { slot0 (streamState []) (fun v => { v with spc := 0x40010, slimit := 0x50000 }) with arg := .slot 0 }
    s.fetches 0 = true ∧ (s.slot 0).lines = [] ∧
    (match s.pull (s.leadReader 0 textReader) 0x40000 64 with | (_, .ready _) => true | _ => false) = true := by decide +kernel
/-- The operands of SFENCE at core scope. -/
def fenceFields : SFields := { fields 0 0 0 with scope := 1 }
/-- The first word of the slot decodes. -/
def decodesHere (s : State) : Bool :=
  s.fetches 0 && decide (12 ≤ s.cycle (s.slot 0).lead) && decide ((s.slot 0).lastDecode ≤ s.cycle (s.slot 0).lead)
theorem witness_StreamWindowSteps_decode : decodesHere (textState (streamWord fenceFields 0x66)) = true ∧
    decodeStream (streamWord fenceFields 0x66) = some (.sfence fenceFields) ∧ tensorUses 0x66 fenceFields = (false, 0) ∧
    decodeStream 0xFF = none := by decide +kernel
/-- R276: a branch without a condition is resolved as it is decoded. -/
theorem witness_StreamWindowSteps_branch : let f := { fields 0 0xFFFF 0 with scope := 0 }
    decodesHere (textState (streamWord f 0x60)) = true ∧ decodeStream (streamWord f 0x60) = some (.sbr f) ∧ f.mode = 0 ∧
    resolves 0x60 f = true ∧ resolves 0x66 fenceFields = false := by decide +kernel
theorem test_decode_branch : let t := after .streamDecode (textState (streamWord (fields 0 0xFFFF 0) 0x60))
    (t.slot 0).spc = 0x1000 ∧ (t.slot 0).stopped = false ∧ ((t.slot 0).window.map (·.st)) = [.done] := by decide +kernel
theorem witness_StreamWindowSteps_rename :
    let s := slot0 (textState (streamWord { fields 0 0 0 with dst := 4 } 0x12)) fun v => v.setName 4 ⟨0, 0, some ⟨0x70000, 0x100, 1, 16, 64, 1, 2, 0, 0⟩, 0⟩
    decodesHere s = true ∧ tensorUses 0x12 { fields 0 0 0 with dst := 4 } = (true, 0) ∧ freeVersion ((s.slot 0).name 4).vbusy 2 = some 0 ∧
    s.freeDescriptor = some 0 := by decide +kernel
theorem witness_StreamWindowSteps_issue : let e := { fence with st := .held }
    let y := { fence with n := 1, st := .held }
    let s := { streamState [e, y] with arg := .entry 0 0 }
    (s.slot 0).window = [e, y] ∧ s.slotHeld 0 = false ∧ s.mayIssue 0 e = true ∧ (s.slot 0).issued < 2 ∧ e.op = 0x66 ∧
    e.takesRoom = false := by decide +kernel
/-- A table instruction that may issue finds the place of its rows, at the engine of stack 0. -/
theorem witness_StreamWindowSteps_room : let e := { tableEntry 0x30 12 with st := .held }
    let s := { streamState [e] with arg := .entry 0 0 }
    e.takesRoom = true ∧ s.mayIssue 0 e = true ∧ (s.slot 0).issued < 2 ∧ (s.cellarPlaces 0 e).2 = some [0] ∧ s.slotHeld 0 = false := by
  decide +kernel
theorem witness_StreamWindowSteps_done : ∀ op ∈ ([0x10, 0x24, 0x40, 0x66, 0x70] : List Nat),
    let e := { entry (fields 0 0 0) (BitVec.ofNat 8 op) none [] with started := true, placed := 1, ended := 1 }
    let s := { streamState [e] with arg := .entry 0 0 }
    (s.slot 0).entry? 0 = some e ∧ e.st = .issued ∧ e.step = e.steps ∧ e.parts = [] ∧ s.reqs = [] ∧ (s.slot 0).drain = [] ∧
    e.fields.mode.toNat + 1 ≤ e.placed := by decide +kernel
theorem witness_StreamWindowSteps_poll : let e := { entry (fields 0xA000000000000040 1 0) 0x64 none [] with started := true }
    let s := { streamState [e] with arg := .entry 0 0 }
    (s.slot 0).entry? 0 = some e ∧ e.op = 0x64 ∧ e.poll ≤ s.cycle (s.slot 0).lead ∧
    (match s.pull (s.leadReader 0 0) e.fields.imm64 8 with | (_, .ready _) => true | _ => false) = true := by decide +kernel
theorem witness_StreamWindowSteps_retire : let e := { fence with st := .done }
    let s := { streamState [e] with arg := .slot 0 }
    (s.slot 0).st = .running ∧ (s.slot 0).window = [e] ∧ s.slotHeld 0 = false ∧ (s.slot 0).retired < 4 ∧ (s.slot 0).drain.length < 32 := by
  decide +kernel
theorem witness_StreamWindowSteps_leave : let e := { entry (fields 0xA000000000000040 0 0) 0x65 none [] with step := 1, steps := 1 }
    let s := { slot0 (streamState []) (fun v => { v with drain := [⟨e⟩] }) with arg := .entry 0 0 }
    (s.slot 0).drain.find? (fun z => z.e.n == 0) = some ⟨e⟩ ∧ e.step = e.steps ∧ s.reqs = [] := by decide +kernel

/-- An SKERN of one task on the cores of the context. -/
def kernel : Entry := { entry (fields 0 0 0) 0x40 none [] with started := true }
theorem witness_StreamAgentSteps_place : let s := { streamState [kernel] with arg := .slot 0 }
    (s.die (s.slot 0).lead).lastPlace ≠ s.cycle (s.slot 0).lead + 1 ∧ s.slotHeld 0 = false ∧ kernel.gang = false ∧
    (s.slot 0).drain = [] ∧ s.routeOpen (s.slot 0).lead 0 = true ∧
    (s.nextPlacement [] (s.unplaced (s.slot 0).lead)).map (fun x => x.2.2.length) = some 1 := by decide +kernel
theorem witness_StreamAgentSteps_end : let e := { kernel with placed := 1 }
    let s := { streamState [e] with msgs := [⟨5, 0, .taskEnd 0 0 3 true 0x52 0 0⟩], arg := .request 5 }
    s.msg? 5 = some (.taskEnd 0 0 3 true 0x52 0 0) ∧ (s.slot 0).window.find? (fun x => x.n % 256 == 0 && x.op == 0x40) = some e ∧
    s.routeOpen (s.msgDie 5) (s.slot 0).lead = true ∧ (s.slot 0).ctx = 3 ∧ e.ended < e.placed ∧ e.st = .issued := by decide +kernel
/-- An SLOAD of one unit from an address, whose tile step is in progress on core 0. -/
def unitState (addr : Word) (x : TileStep) : State :=
  let e := { entry (fields addr 0 0) 0x10 (some (tensor 1 0x50000 1 16 64 1)) [] with started := true, steps := 1, units := [⟨0, 0, 0, 0⟩] }
  let s := streamState [e]
  let s := core0 (s.setMe { s.me with issueFrom := 1 }) fun c => { c with tileStep := some x }
  { s.setDie 0 { s.die 0 with expansion := [(0, 0)] } with arg := .core 0 }
/-- The step of unit 0, as it begins or when it has read. -/
def tileStep (reading : Bool) (emit : List MacroOp) (fault : Option (BitVec 8 × Word)) : TileStep := ⟨0, 0, 0, reading, emit, 0, [], fault⟩
/-- What the step of core 0 reads: all of it, or a fault. -/
def unitReads (s : State) : Option (Option (BitVec 8)) :=
  match (s.slot 0).entry? 0 with
  | some e =>
    let (d, src) := e.tensors
    let (raw, pitch) := s.rawSide 0 e d
    (match s.pullSpans (s.tileReader 0 e 0) (stepReads e.op e.fields d src raw pitch 0) with
     | (_, .ready _) => some none
     | (_, .fault c _) => some (some c)
     | _ => none)
  | none => none
theorem witness_StreamAgentSteps_read : let x := tileStep true [] none
    unitReads (unitState 0x50000 x) = some none ∧ unitReads (unitState 0x100000000 x) = some (some cNotMapped) ∧
    (unitState 0x50000 x).coreTurn 0 = true ∧ ((unitState 0x50000 x).core 0).tileStep = some x ∧
    (((unitState 0x50000 x).slot 0).entry? 0).map (fun e => (e.unit? 0, e.op)) = some (some ⟨0, 0, 0, 0⟩, 0x10) := by decide +kernel
theorem witness_StreamAgentSteps_emit : ∀ op ∈ ([.copy, .zero 8 1, .weights 32 WeightSlot.reset] : List MacroOp),
    let x := tileStep false [op] none
    let s := unitState 0x50000 x
    s.coreTurn 0 = true ∧ (s.core 0).tileStep = some x ∧ s.mayEmit 0 x op = true := by decide +kernel
/-- The tile step of a state's core 0 has read, its entry is undisturbed, and it has faulted or not. -/
def finishes (s : State) (faulted : Bool) : Bool :=
  s.coreTurn 0 && (s.slot 0).drain.isEmpty && (s.slot 0).st == .running && ((s.slot 0).entry? 0).map (·.st) == some .issued &&
    ((s.slot 0).entry? 0).map (·.unit? 0) == some (some ⟨0, 0, 0, 0⟩) &&
    (s.core 0).tileStep.map (fun x => (x.reading, x.emit, x.open_, x.fault.isSome)) == some (false, [], 0, faulted)
theorem witness_StreamAgentSteps_finish : finishes (unitState 0x50000 (tileStep false [] none)) false = true ∧
    finishes (unitState 0x50000 (tileStep false [] (some (0x20, 0x50000)))) true = true := by decide +kernel
theorem witness_StreamAgentSteps_signal : let e := { entry (fields 0xA000000000000040 0 0) 0x65 none [] with steps := 1 }
    let s := { slot0 (streamState []) (fun v => { v with drain := [⟨e⟩] }) with arg := .entry 0 0 }
    (s.slot 0).drain.find? (fun z => z.e.n == 0) = some ⟨e⟩ ∧ e.step < e.steps ∧ s.drainReady 0 e = true ∧ e.op = 0x65 := by decide +kernel
/-- A gather of one row at the engine of stack 0. -/
def partState (done : Bool) : State :=
  let e := tableEntry 0x30 12
  let s := streamState [{ e with started := true, parts := [9] }]
  let w := { s.workOf 0 e e.tensors.1 e.tensors.1 with rows := [(0, 0)] }
  { s with cellar := [(0, .gather, ⟨9, .entry 0 0, w, done, 1, 0⟩)], arg := .cellar 0 .gather }
/-- Its work, and whether it is done at once. -/
def partDone (s : State) : Bool :=
  match s.cellar with
  | (k, _, p) :: _ =>
    decide ((s.splitRows (Fin.ofNat 4 (k.val / 2)) false true p.work).2 = ⟨[(k, p.work.rows)], [], [], none⟩) &&
      (match (s.setPart p.id (some p)).performPart ⟨.part p.id, 1280 * (k.val / 2), p.work.asid, p.work.ctx, false⟩ p.work with
       | (_, .done) => true
       | _ => false)
  | [] => false
theorem witness_StreamAgentSteps_part : partDone (partState false) = true ∧ (partState true).reqs = [] ∧ (partState true).staged = [] ∧
    ((partState true).slot 0).entry? 0 = ((partState true).slot 0).window.head? := by decide +kernel
theorem witness_StreamAgentSteps_remote : let w := { (streamState []).workOf 0 (tableEntry 0x30 12) (tableEntry 0x30 12).tensors.1 (tableEntry 0x30 12).tensors.1 with rows := [(0, 0)] }
    let s := { streamState [] with msgs := [⟨5, 0, .remotePart 9 1 w 0⟩], arg := .request 5 }
    s.msg? 5 = some (.remotePart 9 1 w 0) ∧ (s.ctx? w.ctx).isSome = true ∧ (s.splitRows 0 false false w).2 = ⟨[(0, [(0, 0)])], [], [], none⟩ ∧
    s.engineLoad 0 (partEngine w) < 8 ∧ s.routeOpen (s.msgDie 5) 0 = true := by decide +kernel

/-- R276: SFENCE enters the window and moves SPC on. -/
theorem test_decode_word : ((after .streamDecode (textState (streamWord fenceFields 0x66))).slot 0).spc = 0x1020 ∧
    (((after .streamDecode (textState (streamWord fenceFields 0x66))).slot 0).window.map (·.op)) = [0x66] := by decide +kernel
/-- R301: a taken SLOOP enters its body with a level. -/
theorem test_sloop : ((after (.sloop (fields 3 2 1)) (controlTurn (fields 3 2 1) 0x61 [])).slot 0).decodeLoops = [⟨0x1010, 3⟩] := by decide +kernel
/-- R300: SBR jumps by 16 AUX words. -/
theorem test_sbr : ((after (.sbr (fields 0 0xFFFF 0)) (controlTurn (fields 0 0xFFFF 0) 0x60 [])).slot 0).spc = 0xFF0 := by decide +kernel
/-- R297: a task's record goes to a core of the context. -/
theorem test_place : ((after .skernTaskPlacement { streamState [kernel] with arg := .slot 0 }).slot 0).window.map (·.placed) = [1] := by decide +kernel
/-! ### Resets, bring-up and the mailbox -/

theorem witness_ResetsAndPhases : ∀ p ∈ ([.rom, .verify, .memory, .config, .links, .ready] : List Phase), ({ State.reset with phase := p }).phase = p := by
  decide +kernel
theorem witness_ResetsAndPhases_links : ({ State.reset with phase := .links }).untrained 0 = true ∧
    (let s := { State.reset with phase := .links, ports := Vector.replicate 18 { Port.reset with st := .dead, since := 5 } }
     ∀ p : PortId, s.untrained p = false ∧ s.ports[p].st ≠ .training) := by decide +kernel

/-- A mailbox command with its arguments, in phase READY: context 1, one core, entries at 0x100 and a template at 0x400 of the window. -/
def mailState (w : Word) (a : Nat) : State :=
  let s := (List.finRange 4).foldl (fun (s : State) (d : DieId) => s.setDie d { s.die d with roots := [(0, ⟨0, true, 0, 0x10000, 0⟩)] }) base
  { s with mailCommand := some w, phase := .ready, mailPayload := Memory.writeBytes [] 0x40 (leBytes a 8 ++ leBytes 0x100 8 ++ leBytes 0x400 8) }
theorem witness_MailboxCommands : ∀ w ∈ ([1, 2, 5] : List Nat), let s := mailState (BitVec.ofNat 64 w) 1
    Memory.wf s.mailArea = true ∧ s.mailCommand = some (BitVec.ofNat 64 w) ∧ s.phase = .ready := by decide +kernel
/-- What binding answers, as the statement computes it. -/
def bindAnswer (s : State) : Nat :=
  let a := s.mailAt 0x40
  let entries := (List.range (a / 2 ^ 24 % 2 ^ 13)).map fun j => leNat (Memory.readBytes s.mem (windowKey (s.mailAt 0x48 + 2 * j)) 2)
  s.bindCode (BitVec.ofNat 8 a) (BitVec.ofNat 16 (a / 2 ^ 8)) (a / 2 ^ 24 % 2 ^ 13) (decide (a < 2 ^ 37 ∧ s.mailAt 0x48 < 2 ^ 22 ∧ s.mailAt 0x50 < 2 ^ 22))
    (s.mailAt 0x48) (s.mailAt 0x50) entries (Memory.readBytes s.mem (windowKey (s.mailAt 0x50)) 768)
theorem witness_MailboxCommands_bind : bindAnswer (mailState 3 (1 + 2 ^ 24)) = 0 ∧ bindAnswer (mailState 3 1) ≠ 0 ∧
    (mailState 4 1).ctx? 1 = none ∧ ({ mailState 4 3 with ctxs := (streamState []).ctxs }.ctx? 3).isSome = true ∧
    ((base.hart ⟨0, 0⟩).st ≠ .held ∧ (base.hart ⟨0, 0⟩).upcalls = []) ∧ base.reqs = [] := by decide +kernel
/-- R344: a command keeps the payload that it was written with. -/
theorem test_mail_payload : let s := { base with phase := .ready, mailStatus := true, mailArea := Memory.writeBytes [] 0x40 [7#8] }
    let t := after .registerWrite { s with arg := .write (.host 0x50000 1) }
    Memory.read (after .registerWrite { t with arg := .write (.host 0x50040 9) }).mailPayload 0x40 = 7#8 := by decide +kernel

/-- The registers of the statement with an offset in each clause, and a value. -/
def registerOffsets : List Nat :=
  [0x10000, 0x40000, 0x40010, 0x110000, 0x310000, 0x30008, 0x30010, 0x30018, 0x30020, 0x30028, 0x30030, 0x50000, 0x50008, 0x50100, 0x100010, 0x10F010, 0x130000, 0x1303F8, 0x140000, 0x148FF8, 0x200000, 0x23FFF8,
   0x302008, 0x302010, 0x40018, 0x10008]
theorem witness_RegisterWrites : ∀ off ∈ registerOffsets, ({ base with phase := .ready }).registerWrite? (.host (BitVec.ofNat 30 off) 0xA00) = some (0, off, 0xA00) := by
  decide +kernel
theorem witness_RegisterWrites_reads : let s := { base with phase := .ready }
    s.barRegister? false 0x30008 = some (0, 0x30008) ∧ s.routeOpen 0 0 = true ∧ ({ s with dies := s.dies.set 1 { s.dies[1] with halted := true } }).routeOpen 0 1 = false ∧
    s.barRegister? true 8 = some (0, 0x50008) ∧ s.barRegister? false 0x30038 = none := by
  decide +kernel
/-- R313: a read of an offset that holds no register returns all ones. -/
theorem test_bar_read : (after .registerWrite { base with phase := .ready, arg := .barRead false 0x30038 8 }).hostRead = List.replicate 8 0xFF#8 ∧
    (after .registerWrite { base with phase := .ready, hflAddr := 5, arg := .barRead false 0x30008 8 }).hostRead = leBytes 5 8 := by
  decide +kernel
theorem witness_RegisterWrites_windows : (windowState.ctx? 3).map (fun x => tableGet x.windows 0) = some (some ⟨4, 4, none⟩) := by decide +kernel
/-- R434: a word of a domain-set map holds what was written. -/
theorem test_domain_set : let t := after .registerWrite (hostTurn { base with phase := .ready } 0x148FF8 0xA00)
    (t.readRegister 0 0x148FF8, t.readRegister 0 0x148FF0) = (0xA00, 0) := by decide +kernel
/-- R358: a read of a register of a halted die waits. -/
theorem test_bar_waits : let s := base.setDie 1 { base.die 1 with halted := true }
    (after .registerWrite { s with phase := .ready, hostRead := [9], arg := .barRead false 0x10010008 8 }).hostRead = [9] := by decide +kernel
theorem witness_RegisterWrites_hostWrites : hostWrites (hostTurn { base with phase := .ready } 0x30008 5) 0 0x30008 5 :=
  ⟨_, rfl, by decide +kernel⟩

/-! ### Clocks, heat and errors -/

/-- Die 0 changed, with a turn for it. -/
def dieTurn (f : Die → Die) (a : EventArg) (time : Nat) : State :=
  { base.setDie 0 (f (base.die 0)) with arg := a, time := time }
theorem witness_ClockSteps_halt : let s := dieTurn (fun v => { v with haltAfter := some 15 }) (.die 0) 20000000
    (s.die 0).haltAfter = some 15 ∧ (s.die 0).halted = false ∧ s.cycleTime 0 16 ≤ s.time := by decide +kernel
theorem witness_ClockSteps_relock : ∀ t ∈ ([1500 * ticksUnit, 1501 * ticksUnit, 2000 * ticksUnit] : List Nat),
    let s := dieTurn (fun v => { v with halted := true, target := 16 }) (.die 0) t
    (s.die 0).halted = true ∧ (s.die 0).anchorTime = 0 ∧ (s.die 0).anchorTime + 1500 * ticksUnit ≤ s.time ∧ ¬ ((s.die 0).hot = true ∧ 10 < (s.die 0).target.toNat) := by decide +kernel
theorem witness_ClockSteps_power : ∀ x ∈ ([(600, 15, 0), (100, 15, 1)] : List (Nat × Nat × Nat)),
    let w : Vector (BitVec 16) 4 := #v[BitVec.ofNat 16 x.1, 500, 500, 500]
    let s := { dieTurn (fun v => { v with cur := BitVec.ofNat 5 x.2.1, lowered := x.2.2 }) (.power w) 0 with pwrLimit := 2000 }
    let sum := w[0].toNat + w[1].toNat + w[2].toNat + w[3].toNat
    let log := (sum :: s.pwrLog).take 10
    ((¬ log.sum * 100 ≤ s.pwrLimit.toNat * 100 * log.length ∧ (0 : DieId).val < s.dieCount ∧ (∀ d : DieId, d ≠ 0 → w[d].toNat < w[(0 : DieId)].toNat)) ∨
      (log.sum * 100 ≤ s.pwrLimit.toNat * 95 * log.length ∧ 0 < (s.die 0).lowered)) ∧
    (s.die 0).busy = false ∧ (s.die 0).stopped = false ∧ 10 < (s.die 0).cur.toNat ∧ (s.die 0).cur.toNat < 18 ∧ (s.die 0).hot = false ∧
    (∀ d : DieId, d ≠ 0 → (s.die d).lowered = 0) := by decide +kernel
theorem witness_ThermalSplitsAndScrubs_heat : ∀ c ∈ ([0, 94, 95, 104, 105, 114, 115, 255] : List Nat), let s := dieTurn id (.heat 0 (BitVec.ofNat 8 c)) 0
    s.arg = .heat 0 (BitVec.ofNat 8 c) ∧ (0 : DieId).val < s.dieCount ∧ (s.die 0).hot = false ∧ (s.die 0).stopped = false ∧ 10 < (s.die 0).cur.toNat ∧
    (s.hart ⟨0, 0⟩).upcalls = [] ∧ s.reqs = [] := by
  decide +kernel
theorem witness_ThermalSplitsAndScrubs_cool : let s := dieTurn (fun v => { v with hot := true, coolSince := some 0 }) (.heat 0 94) (100000000 * ticksUnit)
    (s.die 0).coolSince = some 0 ∧ (s.die 0).stopped = false ∧ 0 + 100000000 * ticksUnit ≤ s.time := by decide +kernel
theorem witness_ThermalSplitsAndScrubs_boundary : ∀ l ∈ ([#v[true, true, true, true], #v[false, true, true, true]] : List (Vector Bool 4)),
    let s := { base with boundaries := l, arg := .boundary 2 }
    s.dieCount = 4 ∧ s.boundaries[(2 : Fin 4)] = true ∧ (∀ x : DieId, (s.die x).stopped = false) := by decide +kernel
theorem witness_ThermalSplitsAndScrubs_scrub : let s := { base with arg := .place 3 (2 ^ 37 - 1) }
    s.arg = .place 3 (2 ^ 37 - 1) ∧ (3 : DieId).val < s.dieCount ∧ (s.die 3).stopped = false := by decide +kernel

/-! ### The host and the links -/

/-- The host link up and the device READY, with context 3 for the aperture. -/
def hostState (a : EventArg) : State := { streamState [] with phase := .ready, cxlUp := true, hapCtx := 3, hapBase := 0, arg := a }
theorem witness_HostSteps : (hostState (.hostWrite 0xFFFFFFC0 (List.replicate 64 1))).phase = .ready ∧ (hostState .none).cxlUp = true ∧
    ((hostState .none).ctx? (hostState .none).hapCtx).isSome = true ∧ 0xFFFFFFC0 % 64 + 64 ≤ 64 ∧ 0xFFFFFFC0 + 64 ≤ 2 ^ 32 ∧
    (hostState .none).anyPoisoned ((List.range 64).map fun i => windowKey (0x3FFFC0 + i)) = false ∧ 0x3FFFC0 + 64 ≤ 2 ^ 22 ∧
    ({ hostState .none with hapCtx := 9 }.ctx? 9) = none ∧ Memory.wf (hostState .none).mem = true := by decide +kernel
theorem witness_HostSteps_return : ∀ a ∈ ([.none, .line 0] : List EventArg), ({ hostState a with cxlUp := false }).phase = .ready ∧
    (hostState a).arg = a := by decide +kernel
theorem witness_HostSteps_flush : ∀ w ∈ ([1, 2] : List Nat), let s := hostTurn (hostState .none) 0x30000 (BitVec.ofNat 64 w)
    writesHere s 0x30000 (BitVec.ofNat 64 w) = true ∧ s.hflBusy = false := by decide +kernel
theorem witness_HostSteps_flushed : let s := { hostState .none with hflBusy := true }
    s.hflWaits = [] ∧ 8 * s.hflFlag.toNat / 64 ∉ s.hostLines ∧ s.anyPoisoned [windowKey (8 * s.hflFlag.toNat)] = false ∧ Memory.wf s.mem = true := by
  decide +kernel

/-- Port 0 in a state, with a turn. -/
def portTurn (st : PortState) (a : EventArg) : State :=
  { base.setPort 0 { Port.reset with st := st, lanes := 4, good := 4 } with arg := a, time := 10000000 * ticksUnit }
theorem witness_PortSteps : ∀ st ∈ ([.down, .training, .active, .degraded, .quiesced, .dead] : List PortState), let s := portTurn st (.port 0)
    s.ports[(0 : PortId)].st = st ∧ portDie 0 < s.dieCount ∧ s.ports[(0 : PortId)].since + 10000000 * ticksUnit ≤ s.time ∧
    s.ports[(0 : PortId)].txAcked = s.ports[(0 : PortId)].txNext ∧ (s.die (Fin.ofNat 4 (portDie 0))).stopped = false ∧
    (let u := { s with time := 10000000 * ticksUnit - 1 }
     u.time < u.ports[(0 : PortId)].since + 10000000 * ticksUnit) := by decide +kernel
theorem witness_PortSteps_stopped : ((portTurn .down (.port 0)).setDie (Fin.ofNat 4 (portDie 0)) { base.die 0 with stopped := true }).ports[(0 : PortId)].st = .down := by
  decide +kernel
theorem witness_PortSteps_path : ({ portTurn .active (.path 9 0) with paths := 1 }).pathDead 9 0 = false := by decide +kernel
theorem witness_PortSteps_cut : let s := { requestTurn (request .write .sent) with cuts := [(5, 0)], arg := .boundary 2, time := 25000 * ticksUnit }
    (5, 0) ∈ s.cuts ∧ 0 + 25000 * ticksUnit ≤ s.time ∧ (s.reqs.map (·.id)) = [5] ∧ ∀ q ∈ s.reqs, q.src = .hart ⟨0, 0⟩ := by decide +kernel
theorem witness_PortSteps_repeats : let v := { Port.reset with st := .active, lanes := 4, good := 4, recent := List.replicate 256 1 }
    let s := { base.setPort 0 v with arg := .port 0 }
    256 ≤ (v.recent.filter fun x => decide (s.time < x + 1000000 * ticksUnit)).length := by decide +kernel
theorem witness_PortSteps_lanes : ∀ n ∈ ([1, 2, 3] : List Nat), let s := portTurn .active (.lanes 0 n)
    s.arg = .lanes 0 n ∧ 2 ≤ s.ports[(0 : PortId)].good.toNat ∧ n < s.ports[(0 : PortId)].good.toNat := by decide +kernel
theorem witness_PortSteps_dead : (portTurn .active (.death 0 .noLane)).vc2Sent = [] ∧
    (let s := { portTurn .active (.death 0 .silent) with time := 0 }
     s.time < s.ports[(0 : PortId)].lastFlit + 10000 * ticksUnit) := by decide +kernel
theorem witness_PortSteps_settle : let r := { request .write .sent with route := some (9, 0), path := 0 }
    let s := { requestTurn r with deadPaths := [(0, 0)], arg := .path 9 0, time := 25000 * ticksUnit }
    r ∈ s.reqs ∧ r.stage = .sent ∧ r.route.map (·.1) = some 9 ∧ 9 ≠ s.device.toNat ∧ (s.portOf 9 0).val = 0 ∧ (0, 0) ∈ s.deadPaths ∧ 0 + 25000 * ticksUnit ≤ s.time ∧
    r.sentAt ≤ 0 := by decide +kernel
/-- A flit of a virtual channel without messages, its CRC right or not. -/
def flit (good : Bool) (seq : BitVec 12) (vc : BitVec 2) : Flit :=
  let f : Flit := { seq := seq, vc := vc, acked := 0, repeatOf := none, credits := 0, payload := [], crc := 0, corrected := true, messages := [] }
  { f with crc := if good then crc32 (flitBytes f) else crc32 (flitBytes f) + 1 }
/-- R307: the check value of CRC-32 (IEEE 802.3) over the digits 1 to 9. -/
theorem test_crc : crc32 ((List.range 9).map fun i => BitVec.ofNat 8 (0x31 + i)) = 0xCBF43926 := by decide +kernel
theorem witness_PortSteps_quiesced : let f := flit true 3 0
    let s := portTurn .quiesced (.flit 0 f)
    s.ports[(0 : PortId)].st = .quiesced ∧ f.vc ≠ 1 ∧ f.seq ∉ s.ports[(0 : PortId)].asked := by decide +kernel
theorem witness_PortSteps_flits : ∀ x ∈ ([(false, 0), (true, 0), (true, 2048)] : List (Bool × Nat)),
    let f := flit x.1 (BitVec.ofNat 12 x.2) 0
    let s := portTurn .active (.flit 0 f)
    flitGood f = x.1 ∧ f.repeatOf = none ∧ f.messages = [] ∧ s.arg = .flit 0 f ∧ s.ports[(0 : PortId)].rxWaiting = [] ∧ s.ports[(0 : PortId)].rxNext = 0 := by decide +kernel
theorem witness_PortSteps_reply : let r := { request .write .sent with route := some (9, 0) }
    let s := { requestTurn r with ports := (portTurn .active .none).ports }
    s.req? 5 = some r ∧ r.stage = .sent ∧ r.route.map (·.1) = some 9 ∧ s.routeOpen (Fin.ofNat 4 (portDie 0)) (dieOf r.core) = true ∧ s.ports[(0 : PortId)].st = .active := by decide +kernel
theorem witness_PortSteps_repeat : let m : Departed := { device := 9, path := 0, time := 0, number := none, msg := .reply 5 .refused }
    let s := { base.setPort 0 { Port.reset with st := .active, lanes := 4, good := 4, store := [(7, m)] } with arg := .repeatOf 0 7 }
    s.ports[(0 : PortId)].store.find? (fun x => x.1 == 7) = some (7, m) ∧ s.ports[(0 : PortId)].store.find? (fun x => x.1 == 8) = none := by decide +kernel

/-! ### Steps -/

theorem witness_DecodeUndoesEncode : (Instr.mov2 4 0x11 3 0x10).wellFormed = true ∧ encode (.mov2 4 0x11 3 0x10) ≠ .none := by decide +kernel
theorem witness_StepsKeepMemoryCanonical : State.reset.safe ∧
    (match step State.reset with | .next _ => true | _ => false) = true := by
  constructor
  · unfold State.safe; decide +kernel
  · decide +kernel

/-- The bytes at the issuing hart's PC, in the state that the fetch leaves. -/
def fetchKeys (c : State) : Option (State × List Nat) :=
  match c.ownerFor c.cur.core c.me.asid c.me.pc.toNat with
  | (g, .inr (device, die)) =>
    if device ≠ g.device.toNat ∨ (g.regionState die c.me.asid c.me.pc.toNat).isSome ∨ !g.routeOpen (dieOf c.cur.core) die
      ∨ g.routeHeld { g.hartReq c.cur with addr := BitVec.ofNat 64 (c.me.pc.toNat / 64 * 64), op := .read 64 } then none
    else (match g.agentTranslate die c.me.asid c.me.pc.toNat 4 ⟨c.me.mode == .user, false, false, true⟩ (clusterRow c.cur.core) with
      | (f, .keys k) => some (f, k)
      | _ => none)
  | _ => none
/-- Whether the slot that a schedule asks for issues a word, under the conditions of the statement. -/
def issuesWord (u : State) : Bool :=
  match u.nextIssue with
  | none => false
  | some q =>
    let g := q.catchUp
    let c := g.setMe { g.me.rewritten with issueFrom := g.coreCycle g.cur.core + 1 }
    let pc := c.me.pc
    match fetchKeys c with
    | some (f, k) =>
      u.forced.isNone && (u.until q.time).time == q.time && g.me.issues && f.me.upsets.isEmpty && f.myCore.kUpset == 0 && (c.faultDue c.cur).isNone && (c.interruptDue c.cur).isNone && (c.upcallDue c.cur).isNone && !c.upcallHeld c.cur && !c.fetchHeld c.me && c.me.fetching.isNone &&
        c.me.lines.isEmpty && c.me.mapped && pc.extractLsb' 57 7 == 0 && pc.toNat % 4 == 0 && c.overlaid c.cur.core pc == pc &&
        !f.anyPoisoned ((List.range 64).map fun j => k.headD 0 - pc.toNat % 64 + j) && f.cur == c.cur && decide (pc.toNat % 64 ≤ k.headD 0) && !f.me.breaks 1 f.me.pc &&
        (decodeCore (BitVec.ofNat 32 (leNat (Memory.readBytes f.mem (k.headD 0) 4)))).isSome
    | none => false
theorem witness_StepRunsDecoded_slot : (State.reset.withCoreWord 0x0888680B).schedule.take 1 = [.slot] ∧
    issuesWord { (State.reset.withCoreWord 0x0888680B).catchUp with schedule := [] } = true := by decide +kernel
theorem witness_StepRunsDecoded_stream : let s := State.reset.withStreamWord 0x00000100000000000000000000010010
    s.schedule.take 1 = [.stream 0 0] ∧ s.catchUp.forced = none ∧ ((s.catchUp.slot 0).entry? 0).map (fun e => e.instr.isSome) = some true := by decide +kernel
theorem witness_StepRunsDecoded_copy : let s := State.reset.withCopyCommand 0
    s.schedule.take 1 = [.copy 0 0] ∧ s.catchUp.forced = none ∧ s.catchUp.sourceHolds 0 1 (some .ce) = false ∧
    (decodeCopy (BitVec.ofNat 512 (leNat (Memory.readBytes s.catchUp.mem (spadKey 0 0) 64)))).isSome = true ∧ ((s.catchUp.core 0).lists.map fun l => (l.closed, l.waiting, l.t.fn, l.pc)) = [(false, false, 0, 0x8000000000000000)] := by
  decide +kernel
theorem witness_StepRunsDecoded_event : isAgentStep .phaseRom = true ∧ isAgentStep .ecall = false ∧ isAgentStep .hartWake = true ∧
    (({ hartTurn { Hart.reset with st := .parked, wait := .none } with schedule := [] }).catchUp.forced) = some (.hartWake, .hart ⟨0, 1⟩) := by
  decide +kernel
theorem witness_StepRunsDecoded_idle : State.reset.nextIssue = none ∧ (base.nextIssue).isSome = true ∧ base.forced = none := by decide +kernel

/-- The first turns of the device: its firmware goes through its phases. -/
theorem test_first_step : (match step State.reset with | .next t => t.phase | _ => .rom) = .verify := by decide +kernel
/-! ### Words of the encoding tables (R137 to R148, R159, R251, R287) -/

/-- Whether words decode to instructions. -/
def reads (l : List (Nat × Instr)) : Bool := l.all fun x => decodeCore (BitVec.ofNat 32 x.1) == some x.2

theorem test_words_custom1 : reads
    [(0x0E40648B, .mov2 7 8 3 9), (0x5960648B, .mov 3 9), (0x8A30048B, .mvpxD 5 3 9), (0x8A30148B, .mvpxW 5 3 9),
   (0x8A33200B, .mvxpD 5 3 6), (0x8A33300B, .mvxpW 5 3 6), (0x8A03400B, .mvbxD 5 6), (0x8A03500B, .mvbxW 5 6),
   (0x8B50600B, .mvip 5 21), (0x0073005B, .fwait 7 6), (0x0203005B, .fbump 6), (0x0473005B, .tdef 7 6),
   (0x0673005B, .tarm 7 6), (0x0803005B, .trel 6), (0x0A03005B, .twait 6), (0x4273105B, .pstf 8 1 7 6),
   (0x4273205B, .raddfInt 8 1 7 6), (0x4673205B, .raddfFloat 8 1 7 6), (0x027334DB, .rfadd 1 7 6 9),
   (0x067334DB, .rfswap 1 7 6 9), (0x0A7334DB, .rfand 1 7 6 9), (0x0E7334DB, .rfor 1 7 6 9), (0x127334DB, .rfxor 1 7 6 9),
   (0x167334DB, .rfmin 1 7 6 9), (0x1A7334DB, .rfmax 1 7 6 9), (0x1E7334DB, .rfminu 1 7 6 9), (0x227334DB, .rfmaxu 1 7 6 9),
   (0x267334DB, .rfaddf 1 7 6 9), (0x427344DB, .rcas 8 1 7 6 9), (0x002054DB, .rfenceRel 2 9)] = true := by decide +kernel
theorem test_words_custom2 : reads
    [(0x006054DB, .rfenceAcq 2 9), (0x007362DB, .msend 7 6 5), (0x0202E4DB, .qmov 5 9), (0x047366DB, .callat 7 6 1 5),
   (0x0673605B, .hop 7 6), (0x087364DB, .own 7 6 9), (0x0A03605B, .ocinv 6), (0x0002F4DB, .kget 5 9), (0x020372DB, .kset 6 5),
   (0x0603705B, .gbar 6), (0x087374DB, .gsum 7 6 9), (0x0A7374DB, .gmax 7 6 9), (0x0C7374DB, .gmin 7 6 9),
   (0x007304FB, .hstart 7 6 9), (0x020304FB, .hreap 6 9), (0x0473007B, .hsave 7 6), (0x0673007B, .hload 7 6),
   (0x0800007B, .hstop), (0x0A7304FB, .tqpush 7 6 9), (0x0C7304FB, .tqpop 7 6 9), (0x0003107B, .psave 6),
   (0x0203107B, .pload 6), (0x0400107B, .upret), (0x060314FB, .cmig 6 9), (0x0073207B, .ovmap 7 6), (0x0203207B, .ovunmap 6)] = true := by decide +kernel
theorem test_words_va1 : reads
    [(0xE140802B, .vaAdd ⟨3, 2, 5⟩ 2), (0xE141802B, .vaSub ⟨3, 2, 5⟩ 2), (0xE142802B, .vaMul ⟨3, 2, 5⟩ 2),
   (0xE143802B, .vaMin ⟨3, 2, 5⟩ 2), (0xE144802B, .vaMax ⟨3, 2, 5⟩ 2), (0xE145802B, .vaSll ⟨3, 2, 5⟩ 2),
   (0xE146802B, .vaSra ⟨3, 2, 5⟩ 2), (0xE147802B, .vaSrl ⟨3, 2, 5⟩ 2), (0xE148802B, .vaFadd ⟨3, 2, 5⟩ 2),
   (0xE149802B, .vaFsub ⟨3, 2, 5⟩ 2), (0xE14A802B, .vaFmul ⟨3, 2, 5⟩ 2), (0xE14B802B, .vaFma ⟨3, 2, 5⟩ 2),
   (0xE14C802B, .vaFnma ⟨3, 2, 5⟩ 2), (0xE14D802B, .vaFmin ⟨3, 2, 5⟩ 2), (0xE14E802B, .vaFmax ⟨3, 2, 5⟩ 2),
   (0xE14F802B, .vaSgnj ⟨3, 2, 5⟩ 2), (0xE150002B, .vaAnd ⟨3, 2, 5⟩), (0xE150402B, .vaOr ⟨3, 2, 5⟩),
   (0xE150802B, .vaXor ⟨3, 2, 5⟩), (0xE150C02B, .vaSelW ⟨3, 2, 5⟩), (0xE151002B, .vaSelD ⟨3, 2, 5⟩),
   (0xE151402B, .vaCeqW ⟨3, 2, 5⟩), (0xE151802B, .vaCltW ⟨3, 2, 5⟩), (0xE151C02B, .vaCltuW ⟨3, 2, 5⟩),
   (0xE152002B, .vaCeqD ⟨3, 2, 5⟩), (0xE152402B, .vaCltD ⟨3, 2, 5⟩), (0xE152802B, .vaFceqS ⟨3, 2, 5⟩),
   (0xE152C02B, .vaFcltS ⟨3, 2, 5⟩), (0xE153002B, .vaFcleS ⟨3, 2, 5⟩), (0xE153402B, .vaFceqD ⟨3, 2, 5⟩)] = true := by decide +kernel
theorem test_words_va2 : reads
    [(0xE153802B, .vaFcltD ⟨3, 2, 5⟩), (0xE153C02B, .vaFcleD ⟨3, 2, 5⟩), (0xE154002B, .vaExp2S ⟨3, 2, 5⟩),
   (0xE154402B, .vaLog2S ⟨3, 2, 5⟩), (0xE154802B, .vaRcpS ⟨3, 2, 5⟩), (0xE154C02B, .vaRsqrtS ⟨3, 2, 5⟩)] = true := by decide +kernel
theorem test_words_vs : reads
    [(0xE14080AB, .vsPerm ⟨3, 2, 5⟩ 2), (0xE14180AB, .vsBcast ⟨3, 2, 5⟩ 2), (0xE14300AB, .vsZiplo ⟨3, 2, 5⟩ 2),
   (0xE14340AB, .vsZiphi ⟨3, 2, 5⟩ 2), (0xE14380AB, .vsRotb ⟨3, 2, 5⟩), (0xE14480AB, .vsCompress ⟨3, 2, 5⟩ 2),
   (0xE14580AB, .vsExpand ⟨3, 2, 5⟩ 2), (0xE14600AB, .vsRsumD ⟨3, 2, 5⟩), (0xE14640AB, .vsRmaxD ⟨3, 2, 5⟩),
   (0xE14680AB, .vsRminD ⟨3, 2, 5⟩), (0xE146C0AB, .vsRsumS ⟨3, 2, 5⟩), (0xE14700AB, .vsRmaxS ⟨3, 2, 5⟩),
   (0xE14740AB, .vsRminS ⟨3, 2, 5⟩), (0xE14780AB, .vsRsumBf ⟨3, 2, 5⟩), (0xE147C0AB, .vsRmaxBf ⟨3, 2, 5⟩),
   (0xE14800AB, .vsRminBf ⟨3, 2, 5⟩), (0xE14840AB, .vsRsumHf ⟨3, 2, 5⟩), (0xE14880AB, .vsRmaxHf ⟨3, 2, 5⟩),
   (0xE148C0AB, .vsRminHf ⟨3, 2, 5⟩), (0xE14900AB, .vsIrsumW ⟨3, 2, 5⟩), (0xE14940AB, .vsIrsumD ⟨3, 2, 5⟩),
   (0xE14980AB, .vsIrmaxW ⟨3, 2, 5⟩), (0xE149C0AB, .vsIrminW ⟨3, 2, 5⟩), (0xE14A00AB, .vsIrmaxuW ⟨3, 2, 5⟩),
   (0xE14A40AB, .vsIrminuW ⟨3, 2, 5⟩), (0xE14A80AB, .vsIrmaxD ⟨3, 2, 5⟩), (0xE14AC0AB, .vsIrminD ⟨3, 2, 5⟩),
   (0xE14B00AB, .vsIrmaxuD ⟨3, 2, 5⟩), (0xE14B40AB, .vsIrminuD ⟨3, 2, 5⟩)] = true := by decide +kernel
theorem test_words_cv : reads
    [(0xE148012B, .cvBf16F32 ⟨3, 2, 5⟩ 2), (0xE148412B, .cvF16F32 ⟨3, 2, 5⟩ 2), (0xE148812B, .cvF32F64 ⟨3, 2, 5⟩ 2),
   (0xE148C12B, .cvI32F32 ⟨3, 2, 5⟩ 2), (0xE149012B, .cvI64F64 ⟨3, 2, 5⟩ 2), (0xE149412B, .cvF32I32 ⟨3, 2, 5⟩ 2),
   (0xE149812B, .cvF64I64 ⟨3, 2, 5⟩ 2), (0xE149C12B, .cvE4m3F32 ⟨3, 2, 5⟩ 2), (0xE14A012B, .cvE5m2F32 ⟨3, 2, 5⟩ 2),
   (0xE142412B, .cvI8I32 ⟨3, 2, 5⟩), (0xE146812B, .cvF32Bf16 ⟨3, 2, 5⟩ 1), (0xE146C12B, .cvF32F16 ⟨3, 2, 5⟩ 1),
   (0xE147012B, .cvF64F32 ⟨3, 2, 5⟩ 1), (0xE14B412B, .cvF32E4m3 ⟨3, 2, 5⟩ 2), (0xE14B812B, .cvF32E5m2 ⟨3, 2, 5⟩ 2),
   (0xE14BC12B, .cvI32I8 ⟨3, 2, 5⟩ 2), (0xE150012B, .cvMxencE4m3 ⟨3, 2, 5⟩), (0xE150412B, .cvMxencE5m2 ⟨3, 2, 5⟩),
   (0xE150812B, .cvF4encLo ⟨3, 2, 5⟩), (0xE150C12B, .cvF4encHi ⟨3, 2, 5⟩)] = true := by decide +kernel
theorem test_words_ls : reads
    [(0xE14001AB, .lsLd ⟨3, 2, 5⟩), (0xE14041AB, .lsLdlo ⟨3, 2, 5⟩), (0xE14081AB, .lsLdhi ⟨3, 2, 5⟩),
   (0xE140C1AB, .lsLdn ⟨3, 2, 5⟩), (0xE14201AB, .lsSt ⟨3, 2, 5⟩), (0xE14241AB, .lsStm ⟨3, 2, 5⟩)] = true := by decide +kernel
theorem test_words_mx : reads
    [(0xE140022B, .mxMm ⟨3, 2, 5⟩), (0xE140422B, .mxMmw ⟨3, 2, 5⟩), (0xE140822B, .mxMmd ⟨3, 2, 5⟩),
   (0xE140C22B, .mxMmn ⟨3, 2, 5⟩), (0xE142022B, .mxZero ⟨3, 2, 5⟩), (0xE142422B, .mxSt ⟨3, 2, 5⟩),
   (0xE142822B, .mxLd ⟨3, 2, 5⟩)] = true := by decide +kernel
theorem test_words_wb : reads
    [(0xE14002AB, .wbLd ⟨3, 2, 5⟩), (0xE14042AB, .wbLdc ⟨3, 2, 5⟩), (0xE14082AB, .wbClr ⟨3, 2, 5⟩)] = true := by decide +kernel
theorem test_words_ce : reads
    [(0xE140032B, .ceRun ⟨3, 2, 5⟩), (0xE140432B, .ceRunv ⟨3, 2, 5⟩)] = true := by decide +kernel
theorem test_words_ni : reads
    [(0xE14083AB, .niSt ⟨3, 2, 5⟩ 2), (0xE14183AB, .niTst ⟨3, 2, 5⟩ 2), (0xE14283AB, .niVaddI32 ⟨3, 2, 5⟩ 2),
   (0xE14383AB, .niVaddI64 ⟨3, 2, 5⟩ 2), (0xE14483AB, .niVaddF32 ⟨3, 2, 5⟩ 2), (0xE14583AB, .niVaddF64 ⟨3, 2, 5⟩ 2),
   (0xE14683AB, .niVaddBf16 ⟨3, 2, 5⟩ 2), (0xE14783AB, .niTaddI32 ⟨3, 2, 5⟩ 2), (0xE14883AB, .niTaddF32 ⟨3, 2, 5⟩ 2),
   (0xE14983AB, .niTaddF64 ⟨3, 2, 5⟩ 2), (0xE14A83AB, .niGet ⟨3, 2, 5⟩ 2), (0xE14B03AB, .niMsg ⟨3, 2, 5⟩),
   (0xE14C03AB, .niWin ⟨3, 2, 5⟩), (0xE14D03AB, .niCap ⟨3, 2, 5⟩)] = true := by decide +kernel
theorem test_words_scalar : reads
    [(0x123452B7, .integerOp (.lui 5 0x12345)), (0x12345297, .integerOp (.auipc 5 0x12345)), (0xFFDFF0EF, .integerOp (.jal 1 0xFFFFE)),
     (0x004100E7, .integerOp (.jalr 1 2 4)), (0x00208463, .integerOp (.branch .beq 1 2 4)), (0xFFF10093, .integerOp (.opImm .addi 1 2 0xFFF)),
     (0x03F31293, .integerOp (.shiftImm .sll 5 6 63)), (0x4053529B, .integerOp (.shiftImmW .sra 5 6 5)), (0x027302B3, .integerOp (.op .mul 5 6 7)),
     (0x007302BB, .integerOp (.opW .addw 5 6 7)), (0x01033283, .scalarLoad .ld 5 6 16), (0x00533823, .scalarStore .sd 6 5 16),
     (0x007322AF, .amo .add false false false 5 6 7), (0x100332AF, .lr true false false 5 6), (0x1E7332AF, .sc true true true 5 6 7),
     (0x340312F3, .csrAccess .rw false 5 6 0x340), (0x3442B073, .csrAccess .rc false 0 5 0x344), (0xC0102373, .csrAccess .rs false 6 0 0xC01),
     (0x0FF0000F, .fence 0 15 15 0 0), (0x0000100F, .fenceI 0 0 0), (0x12730073, .sfenceVma 6 7), (0x00000073, .ecall), (0x00100073, .ebreak),
     (0x30200073, .mret), (0x10200073, .sret), (0x10500073, .wfi)] = true := by decide +kernel
/-- Operands of a stream word with a scope. -/
def withScope (f : SFields) (scope : BitVec 2) : SFields := { f with scope := scope }
theorem test_words_stream :
    ([(0x01, .tdecl), (0x10, .sload), (0x11, .sstore), (0x12, .sfill), (0x20, .smm), (0x21, .sew), (0x22, .sred), (0x23, .sxpose), (0x24, .scvt), (0x30, .sgather),
      (0x31, .sscatter), (0x32, .sreduce), (0x40, .skern), (0x41, .sgroup), (0x50, .sput), (0x51, .sget), (0x60, .sbr), (0x61, .sloop), (0x62, .sendloop),
      (0x63, .sswitch), (0x65, .ssignal), (0x67, .shalt), (0x70, .sown)] : List (Nat × (SFields → Instr))).all
      (fun x => decodeStream (BitVec.ofNat 128 x.1) == some (x.2 (fields 0 0 0))) = true ∧
    decodeStream 0x2064 = some (.swait (withScope (fields 0 0 0) 2)) ∧ decodeStream 0x1066 = some (.sfence (withScope (fields 0 0 0) 1)) := by decide +kernel
theorem test_words_stream_fields :
    decodeStream 0x00430F0001C68440 = some (.skern ⟨0, 0x43, 0xF, 0, 0, 7, 6, 2, 0, 0, 1, 0, 0⟩) ∧
    decodeStream 0x0000000020432220 = some (.smm ⟨0, 0, 0, 0, 2, 1, 3, 0, 2, 0, 0, 1, 0⟩) ∧
    decodeStream 0x00000C0000C40030 = some (.sgather ⟨0, 0, 12, 0, 0, 3, 4, 0, 0, 0, 0, 0, 0⟩) ∧
    decodeStream 0x00800100000000410000000000000000 = none := by decide +kernel
theorem test_words_copy :
    ([(0, .ccEnd), (1, .ccCopy), (2, .ccCopy2d), (3, .ccFill), (4, .ccGather), (5, .ccWait), (6, .ccBump), (7, .ccWrite), (8, .ccLink)] :
      List (Nat × (CFields → Instr))).all (fun x => decodeCopy (BitVec.ofNat 512 x.1) == some (x.2 ⟨0, 0, 0, 0, 0, 0, 0, 0, 0, 0, 0⟩)) = true ∧
    decodeCopy (1 + (2 <<< 8) + (3 <<< 10) + (1 <<< 12) + (4 <<< 64) + (5 <<< 128) + (6 <<< 192) + (7 <<< 384)) =
      some (.ccCopy ⟨2, 3, 1, 0, 4, 5, 6, 0, 0, 7, 0⟩) ∧ decodeCopy (0x20000 + 2 + (9 <<< 256) + (10 <<< 320)) = some (.ccCopy2d ⟨0, 0, 0, 2, 0, 0, 0, 9, 10, 0, 0⟩) ∧
    decodeCopy (4 + (11 <<< 448)) = some (.ccGather ⟨0, 0, 0, 0, 0, 0, 0, 0, 0, 0, 11⟩) := by decide +kernel

/-! ### Terms that are no instruction -/

/-- Each term breaks one check of `wellFormed`. -/
theorem test_ill_formed : ([
    -- a source that is none, a destination that is none, one destination twice, and `mov` written as `mov2`
    .mov 0x2B 0x10, .mov 0x10 5, .mov 3 0x14, .mov2 3 5 4 5, .mov2 0x2C 0x2C 3 5, .mov2 0x2B 5 3 6, .mov2 3 0x14 3 6,
    -- the queue ports are for moves
    .mvpxD 0x2A 0 5, .mvpxW 0x2A 0 5, .mvxpD 0x2B 0 5, .mvxpW 0x2B 0 5, .mvbxD 0x2B 5, .mvbxW 0x2B 5, .mvip 0x2B 1, .mvpxD 0x2B 0 5, .mvxpD 0x14 0 5,
    -- a fence without a scope
    .rfenceRel 0 5, .rfenceAcq 0 5,
    -- another unit's operand port, and an order and a scope that do not go together
    .vaAdd ⟨0, 0, 0x2B⟩ 0, .vsRotb ⟨1, 0, 0x15⟩, .cvI8I32 ⟨0, 1, 0x18⟩, .lsLd ⟨0, 0, 0x1C⟩, .mxMm ⟨0, 0, 0x2B⟩, .wbLd ⟨3, 0, 0x22⟩, .ceRun ⟨0, 3, 0x24⟩, .niMsg ⟨2, 0, 0x26⟩,
    -- a width, a mode or a TAG of 3
    .vsZiplo ⟨0, 0, 0x15⟩ 3, .vsZiphi ⟨0, 0, 0x15⟩ 3, .cvBf16F32 ⟨0, 0, 0x18⟩ 3, .niSt ⟨0, 0, 0x26⟩ 3,
    -- stream fields that the OP does not name, or beyond those it names, and flags
    .sstore { fields 0 0 0 with dst := 1 }, .tdecl { fields 0 0 0 with s1 := 1 }, .sload { fields 0 0 0 with s2 := 1 }, .sred { fields 0 0 0 with s3 := 1 },
    .sload (fields 0 0 1), .smm (fields 0 0 4), .sbr (fields 0 0 3), .sload (fields 0 1 0), .smm (fields 0 2 0), .sreduce (fields 0 3 0), .smm (fields 1 0 0),
    .sbr (fields 1 0 0), .sbr { fields 0 0 0 with acq := 1 }, .sload (withScope (fields 0 0 0) 1), .swait (fields 0 0 0), .sload { fields 0 0 0 with rel := 1 },
    -- copy fields that the kind does not use, a TAG of 3, a tag word without a TAG, and the order
    .ccCopy ⟨0, 0, 0, 1, 0, 0, 0, 0, 0, 0, 0⟩, .ccFill ⟨0, 0, 0, 0, 0, 0, 0, 1, 0, 0, 0⟩, .ccLink ⟨0, 0, 0, 0, 0, 1, 0, 0, 0, 0, 0⟩, .ccEnd ⟨0, 0, 0, 0, 1, 0, 0, 0, 0, 0, 0⟩,
    .ccWait ⟨0, 0, 0, 0, 0, 0, 1, 0, 0, 0, 0⟩, .ccCopy ⟨0, 0, 0, 0, 0, 0, 0, 0, 0, 0, 1⟩, .ccBump ⟨0, 0, 1, 0, 0, 0, 0, 0, 0, 0, 0⟩, .ccCopy ⟨0, 0, 3, 0, 0, 0, 0, 0, 0, 0, 0⟩,
    .ccCopy ⟨0, 0, 0, 0, 0, 0, 0, 0, 0, 1, 0⟩, .ccCopy ⟨1, 0, 0, 0, 0, 0, 0, 0, 0, 0, 0⟩, .ccWait ⟨2, 2, 0, 0, 0, 0, 0, 0, 0, 0, 0⟩] : List Instr).all
    (fun i => !i.wellFormed) = true := by decide +kernel
/-- And a term beside each that is one. -/
theorem test_well_formed : ([.mov 3 0x10, .mov2 3 5 3 6, .mvpxD 0x14 0 5, .mvxpW 0x10 1 5, .rfenceRel 3 5, .vaAdd ⟨0, 0, 0x10⟩ 3, .vsZiplo ⟨0, 0, 0x15⟩ 2,
    .niSt ⟨0, 0, 0x26⟩ 2, .smm (fields 0 1 3), .swait (withScope (fields 0 0 0) 1), .ccGather ⟨0, 0, 0, 1, 1, 1, 1, 1, 1, 0, 1⟩, .ccWait ⟨0, 0, 0, 0, 1, 1, 0, 0, 0, 0, 0⟩] :
    List Instr).all (·.wellFormed) = true := by decide +kernel

end Sys2Proof.Tests
end

section
/-! SUPPORT. What a fold over the parts of a vector leaves in each of them, what the parts of a device hold after a reset, and what
each phase of bring-up does; then the statements ResetValues and ResetsAndPhases (R10, R309, R320 to R322). -/

namespace Sys2Proof.Machine

/-! ### Updates of the parts of a vector, one after the other -/

/-- A fold that replaces each listed part of a vector once. -/
theorem getElem_foldl_set {α : Type} {n : Nat} (f : Fin n → α → α) (l : List (Fin n)) (hl : l.Nodup) (v : Vector α n) (i : Fin n) :
    (l.foldl (fun (v : Vector α n) (j : Fin n) => v.set j (f j v[j])) v)[i] = if i ∈ l then f i v[i] else v[i] := by
  induction l generalizing v with
  | nil => simp
  | cons j r ih =>
    obtain ⟨hj, hr⟩ := List.nodup_cons.1 hl
    rw [List.foldl_cons, ih hr]
    by_cases hij : i = j
    · subst hij; simp [hj]
    · have hne : j.val ≠ i.val := fun e => hij (Fin.ext e.symm)
      simp [hij, Vector.getElem_set_ne _ _ hne]

/-- A fold that replaces every part of a vector once. -/
theorem getElem_foldl_set_finRange {α : Type} {n : Nat} (f : Fin n → α → α) (v : Vector α n) (i : Fin n) :
    ((List.finRange n).foldl (fun (v : Vector α n) (j : Fin n) => v.set j (f j v[j])) v)[i] = f i v[i] := by
  rw [getElem_foldl_set f _ (List.nodup_finRange n), if_pos (List.mem_finRange i)]

/-- Replacing dies one after the other, by what the die and the flash give, changes the dies alone. -/
theorem State.foldl_setDie (f : Flash → DieId → Die → Die) (l : List DieId) (s : State) :
    l.foldl (fun (s : State) (d : DieId) => s.setDie d (f s.flash d (s.die d))) s =
      { s with dies := l.foldl (fun (v : Vector Die 4) (d : DieId) => v.set d (f s.flash d v[d])) s.dies } := by
  induction l generalizing s with
  | nil => rfl
  | cons d r ih => exact ih _

/-- Every die is replaced once, and nothing but the dies is changed. -/
theorem State.foldl_setDie_finRange (f : Flash → DieId → Die → Die) (s : State) :
    ∃ v, (List.finRange 4).foldl (fun (s : State) (d : DieId) => s.setDie d (f s.flash d (s.die d))) s = { s with dies := v } ∧
      ∀ d : DieId, v[d] = f s.flash d (s.die d) :=
  ⟨_, s.foldl_setDie f _, fun d => getElem_foldl_set_finRange (f s.flash) s.dies d⟩

/-- Replacing ports one after the other, by what the port and the time give, changes the ports alone. -/
theorem State.foldl_setPort (f : Nat → Port → Port) (l : List PortId) (s : State) :
    l.foldl (fun (s : State) (p : PortId) => s.setPort p (f s.time s.ports[p])) s =
      { s with ports := l.foldl (fun (v : Vector Port 18) (p : PortId) => v.set p (f s.time v[p])) s.ports } := by
  induction l generalizing s with
  | nil => rfl
  | cons p r ih => exact ih _

/-! ### What a cold reset leaves (R10) -/

@[simp] theorem State.core_reset (n : Nat) : State.reset.core n = Core.reset := rfl

@[simp] theorem State.desc_reset (n : Nat) : State.reset.desc n = Desc.reset := rfl

@[simp] theorem State.die_reset (d : DieId) : State.reset.die d = Die.reset := Vector.getElem_replicate d.isLt

@[simp] theorem State.slot_reset (i : SlotId) : State.reset.slot i = Slot.reset := Vector.getElem_replicate i.isLt

theorem State.ports_reset (p : PortId) : State.reset.ports[p] = Port.reset := Vector.getElem_replicate p.isLt

@[simp] theorem State.hart_reset (h : HartRef) : State.reset.hart h = Hart.reset := Vector.getElem_replicate h.hart.isLt

theorem Core.tiles_reset (t : Fin 64) : Core.reset.tiles[t] = Tile.reset := Vector.getElem_replicate t.isLt

theorem Core.accs_reset (a : Fin 16) : Core.reset.accs[a] = Acc.reset := Vector.getElem_replicate a.isLt

theorem Core.weights_reset (i : Fin 64) : Core.reset.weights[i] = WeightSlot.reset := Vector.getElem_replicate i.isLt

/-- The die cycle counts from 0 (R316). -/
@[simp] theorem State.cycle_reset (d : DieId) : State.reset.cycle d = 0 := by
  have htime : State.reset.time = 0 := rfl
  simp [State.cycle, Die.reset, htime]

/-- Settles O56: every core, hart, die, slot, descriptor and port reads as its reset value, field by field. -/
theorem resetValues : Obligations.ResetValues := by
  refine ⟨rfl, rfl, rfl, rfl, ?_, rfl, rfl, rfl, fun d => ?_, fun n => ?_, fun h => ?_, fun i => ?_, fun n => rfl, fun p => ?_⟩
  · exact Nat.zero_div _
  · rw [State.cycle_reset, State.die_reset]
    exact ⟨rfl, rfl, rfl, rfl, rfl, rfl, rfl, rfl, rfl, rfl, rfl, rfl, rfl⟩
  · rw [State.core_reset]
    refine ⟨rfl, rfl, rfl, rfl, rfl, rfl, fun t => ?_, fun a => ?_⟩
    · rw [Core.tiles_reset]; exact ⟨rfl, rfl⟩
    · rw [Core.accs_reset]; exact ⟨rfl, rfl⟩
  · rw [State.hart_reset]; exact ⟨rfl, rfl, rfl, rfl, rfl⟩
  · rw [State.slot_reset]; exact ⟨rfl, rfl, rfl⟩
  · rw [State.ports_reset]; exact ⟨rfl, rfl⟩

/-! ### What a warm reset leaves of a core (R10) -/

/-- A core at reset, but for the contents of its accumulators and weight slots (R10; log 15). -/
structure Core.ResetButContents (v : Core) : Prop where
  frame : v = { Core.reset with accs := v.accs, weights := v.weights }
  accs : ∀ i : Fin 16, { v.accs[i] with data := 0 } = Core.reset.accs[i]
  weights : ∀ i : Fin 64, { v.weights[i] with data := 0 } = Core.reset.weights[i]

theorem Core.resetButContents_reset : Core.reset.ResetButContents where
  frame := rfl
  accs i := by rw [Core.accs_reset]; rfl
  weights i := by rw [Core.weights_reset]; rfl

theorem scrambledCore_accs (draw : Nat) (i : Fin 16) :
    (scrambledCore draw).accs[i] = { Core.reset.accs[i] with data := Config.freeBlock (draw + i.val) } := by
  unfold scrambledCore
  dsimp only
  rw [getElem_foldl_set_finRange fun i (a : Acc) => { a with data := Config.freeBlock (draw + i.val) }]

theorem scrambledCore_weights (draw : Nat) (i : Fin 64) :
    (scrambledCore draw).weights[i] = { Core.reset.weights[i] with data := Config.freeBlock (draw + 16 + i.val) } := by
  unfold scrambledCore
  dsimp only
  rw [getElem_foldl_set_finRange fun i (w : WeightSlot) => { w with data := Config.freeBlock (draw + 16 + i.val) }]

/-- Scrambling writes the data of accumulators and weight slots alone. -/
theorem Core.resetButContents_scrambledCore (draw : Nat) : (scrambledCore draw).ResetButContents where
  frame := rfl
  accs i := by rw [scrambledCore_accs]; exact Core.resetButContents_reset.accs i
  weights i := by rw [scrambledCore_weights]; exact Core.resetButContents_reset.weights i

/-- The table of touched cores is scrambled entry by entry, and a core that it does not list is at reset. -/
theorem Core.resetButContents_tableGet (draw : Nat) (l : List (Nat × Core)) (c : Nat) :
    ((tableGet (scrambledCores draw l) c).getD Core.reset).ResetButContents := by
  induction l generalizing draw with
  | nil => exact Core.resetButContents_reset
  | cons x r ih =>
    unfold scrambledCores tableGet
    split
    · exact Core.resetButContents_scrambledCore draw
    · exact ih _

/-- R10: beside the flash, the fuses and the poison, a warm reset leaves open only the contents of memory, accumulators and weight
slots. -/
theorem exec_warmReset (s : State) :
    ∃ t, exec .warmReset s = .next t ∧
      t = { State.reset with
        flash := s.flash, fuses := s.fuses, schedule := s.schedule, freeCtr := t.freeCtr, warmResets := s.warmResets + 1,
        mem := t.mem, cores := t.cores, poison := s.poison } ∧
      ∀ c, (t.core c).ResetButContents :=
  ⟨_, rfl, rfl, fun c => Core.resetButContents_tableGet _ _ c⟩

/-! ### The phases of bring-up (R320 to R322) -/

/-- A phase's step stays where the device is in another phase (log 16). -/
theorem exec_phase_stays (s : State) :
    (s.phase ≠ .rom → exec .phaseRom s = .next s) ∧ (s.phase ≠ .verify → exec .firmwareVerify s = .next s) ∧
    (s.phase ≠ .memory → exec .phaseMemory s = .next s) ∧ (s.phase ≠ .config → exec .phaseConfig s = .next s) ∧
    (s.phase ≠ .links → exec .phaseLinks s = .next s) :=
  ⟨fun h => if_neg h, fun h => if_neg h, fun h => if_neg h, fun h => if_neg h, fun h => if_neg h⟩

/-- R321: ROM hands over to the verification. -/
theorem exec_phaseRom (s : State) (h : s.phase = .rom) : exec .phaseRom s = .next { s with phase := .verify } := if_pos h

/-- R322: both signatures decide between MEMORY and RECOVERY. -/
theorem exec_firmwareVerify (s : State) (h : s.phase = .verify) :
    let ed := decide (s.flash.edKeyDigest = s.fuses.1) && Config.ed25519Verifies s.flash.edKeyDigest s.flash.image
    let ml := decide (s.flash.mlKeyDigest = s.fuses.2) && Config.mldsaVerifies s.flash.mlKeyDigest s.flash.image
    exec .firmwareVerify s = .next { s with
      edOk := ed, mlOk := ml, phase := if ed && ml then .memory else .recovery, mailStatus := !(ed && ml) } := if_pos h

/-- R320: the stacks that are attached, on an OL-D 0 and 1 alone. -/
theorem stackMask_of_form (m : BitVec 8) (form : Form) :
    m &&& (if form = .olD then 3 else 0xFF) = if form = .olD then m &&& 3 else m := by
  split
  · rfl
  · exact BitVec.and_allOnes

/-- R320, R321: the stacks that the flash names are attached, and every die takes its harvest. -/
theorem exec_phaseMemory (s : State) (h : s.phase = .memory) :
    ∃ t, exec .phaseMemory s = .next t ∧
      t = { s with
        dies := t.dies, phase := .config
        stackMask := if s.flash.form = .olD then s.flash.stackMask &&& 3 else s.flash.stackMask } ∧
      ∀ d : DieId, t.die d = { s.die d with harvest := s.flash.harvest[d] } := by
  have hexec : exec .phaseMemory s = execPhaseMemory s := rfl
  obtain ⟨v, hfold, hv⟩ := s.foldl_setDie_finRange fun flash d x => { x with harvest := flash.harvest[d] }
  rw [hexec, execPhaseMemory, if_pos h]
  simp only [hfold, stackMask_of_form]
  exact ⟨_, rfl, rfl, hv⟩

/-- R320, R321, R379: the package registers take the values of the flash, and every die its threshold of corrected errors. -/
theorem exec_phaseConfig (s : State) (h : s.phase = .config) :
    ∃ t, exec .phaseConfig s = .next t ∧
      t = { s with
        dies := t.dies, phase := .links, device := s.flash.device, linkMode := s.flash.linkMode, paths := s.flash.paths
        domSize := s.flash.domSize, pwrLimit := s.flash.pwrLimit, caps := s.flash.caps } ∧
      ∀ d : DieId, t.die d = { s.die d with softThresh := s.flash.softThresh } := by
  have hexec : exec .phaseConfig s = execPhaseConfig s := rfl
  obtain ⟨v, hfold, hv⟩ := s.foldl_setDie_finRange fun flash _ x => { x with softThresh := flash.softThresh }
  rw [hexec, execPhaseConfig, if_pos h]
  simp only [hfold]
  exact ⟨_, rfl, rfl, hv⟩

/-- R309, R321: the ports that have never been enabled start to train, while there is one. -/
theorem exec_phaseLinks_enables (s : State) (h : s.phase = .links) (hport : ∃ p, s.untrained p = true) :
    ∃ t, exec .phaseLinks s = .next t ∧ t = { s with ports := t.ports } ∧
      ∀ p : PortId, t.ports[p] =
        if s.untrained p then { s.ports[p] with st := .training, since := max 1 s.time } else s.ports[p] := by
  have hexec : exec .phaseLinks s = execPhaseLinks s := rfl
  have hnew : (!((List.finRange 18).filter s.untrained).isEmpty) = true := by
    obtain ⟨p, hp⟩ := hport
    simpa using ⟨p, hp⟩
  have hnodup : ((List.finRange 18).filter s.untrained).Nodup := (List.nodup_finRange 18).filter _
  have hfold := s.foldl_setPort (fun time x => { x with st := .training, since := max 1 time })
    ((List.finRange 18).filter s.untrained)
  rw [hexec, execPhaseLinks, if_pos h]
  simp only [hnew, if_true]
  refine ⟨_, congrArg _ hfold, rfl, fun p => ?_⟩
  refine (getElem_foldl_set (fun _ x => { x with st := .training, since := max 1 s.time }) _ hnodup s.ports p).trans ?_
  simp

/-- R309, R321: once every port has been enabled and none trains any longer, the device is READY. -/
theorem exec_phaseLinks_ready (s : State) (h : s.phase = .links)
    (hports : ∀ p : PortId, s.untrained p = false ∧ s.ports[p].st ≠ .training) :
    exec .phaseLinks s = .next { s with phase := .ready, mailStatus := true, cxlUp := true } := by
  have hexec : exec .phaseLinks s = execPhaseLinks s := rfl
  have hnew : (List.finRange 18).filter s.untrained = [] := List.filter_eq_nil_iff.2 fun p _ => by simp [(hports p).1]
  have htraining : ((List.finRange 18).any fun (p : PortId) => s.ports[p].st == .training) = false :=
    List.any_eq_false.2 fun p _ => by simpa using (hports p).2
  rw [hexec, execPhaseLinks, if_pos h]
  simp only [hnew, htraining]
  rfl

/-- Settles O47: the resets, then each phase of bring-up as it comes. -/
theorem resetsAndPhases : Obligations.ResetsAndPhases := by
  intro s _ _ _ _
  obtain ⟨hrom, hverify, hmemory, hconfig, hlinks⟩ := exec_phase_stays s
  obtain ⟨t, hexec, hframe, hcores⟩ := exec_warmReset s
  exact ⟨rfl, ⟨t, hexec, hframe, fun c => (hcores c).frame, fun c => (hcores c).accs, fun c => (hcores c).weights⟩,
    exec_phaseRom s, hrom, exec_firmwareVerify s, hverify, exec_phaseMemory s, hmemory, exec_phaseConfig s, hconfig,
    exec_phaseLinks_enables s, exec_phaseLinks_ready s, hlinks⟩

end Sys2Proof.Machine
end

section
/-! SUPPORT. Instructions that find a register empty (R30, R31), and the statement EmptySourceParks. -/

namespace Sys2Proof.Machine

/-! ### What an instruction does on an empty register (R30, R31) -/

/-- The first empty register of a list is the one before which all are full. -/
theorem Hart.firstEmpty_append (h : Hart) {before : List Reg} (after : List Reg) {r : Reg} (hr : h.isFull r = false)
    (hb : ∀ y ∈ before, h.isFull y = true) : h.firstEmpty (before ++ r :: after) = some r := by
  induction before with
  | nil => simp [Hart.firstEmpty, hr]
  | cons y l ih =>
    rw [List.cons_append, Hart.firstEmpty, if_pos (hb y List.mem_cons_self)]
    exact ih fun z hz => hb z (List.mem_cons_of_mem _ hz)

/-- An instruction that reads registers in an order has no effect where one is empty: the hart parks on the first such. -/
def parksOnEmpty (s : State) (x : Instr × List Reg) : Prop :=
  ∀ r, s.me.firstEmpty x.2 = some r → exec x.1 s = .next (s.park (.xreg r))

theorem State.reading_of_firstEmpty {s : State} {rs : List Reg} {r : Reg} (h : s.me.firstEmpty rs = some r) (t : State) :
    s.reading rs t = s.park (.xreg r) := by
  unfold State.reading; rw [h]

/-- A meaning that starts by reading its registers parks on an empty one. -/
theorem parksOnEmpty_of_reading {s t : State} {i : Instr} {rs : List Reg} (he : exec i s = .next (s.reading rs t)) :
    parksOnEmpty s (i, rs) := fun r hr => by rw [he, State.reading_of_firstEmpty hr]

/-- A meaning that first asks for the first empty register parks on it. -/
theorem parksOnEmpty_of_match {s : State} {i : Instr} {rs : List Reg} {k : Host.Outcome State Fault Refusal}
    (he : exec i s = match s.me.firstEmpty rs with | some r => .next (s.park (.xreg r)) | none => k) :
    parksOnEmpty s (i, rs) := fun r hr => by rw [he, hr]

/-- Parking keeps the PC and the registers: the hart is PARKED on its wait, and nothing else changes (R31). -/
theorem parks_frame {s : State} {x : Instr × List Reg} (h : parksOnEmpty s x) (before after : List Reg) (r : Reg)
    (hx : x.2 = before ++ r :: after) (hr : s.me.isFull r = false) (hb : ∀ y ∈ before, s.me.isFull y = true) :
    ∃ t, exec x.1 s = .next t ∧ t = s.setMe t.me ∧
      t.me = { s.me with st := .parked, wait := .xreg r, quantumCount := t.me.quantumCount, quantumSince := t.me.quantumSince } := by
  refine ⟨_, h r (hx ▸ s.me.firstEmpty_append after hr hb), ?_, ?_⟩
  · rw [State.me_park]; rfl
  · rw [State.me_park]; rfl

theorem parksOnEmpty_integerOp (s : State) (o : IntOp) : parksOnEmpty s (.integerOp o, intReads o) :=
  parksOnEmpty_of_match rfl

theorem parksOnEmpty_moveIn {s : State} {i : Instr} {a : Reg} {w : Hart → Word → Hart} (he : exec i s = .next (s.moveIn a w)) :
    parksOnEmpty s (i, [a]) := fun r hr => by rw [he]; unfold State.moveIn; dsimp only at hr; rw [hr]

/-- A CSR held as written can be read. -/
theorem State.isSome_csrRead (s : State) (h : HartRef) {n : Nat} (hc : (csrCell n).isSome = true) :
    (s.csrRead h n).isSome = true := by
  unfold State.csrRead
  simp only [apply_ite Option.isSome, Option.isSome_some, Option.isSome_map, hc, ite_self]

/-- The numbers of `heldCsrs` are those of CSRs held as written, and none is read-only (R162). -/
theorem heldCsrs_numbers : ∀ n ∈ heldCsrs.map (·.1), n < 0xC00 ∧ (csrCell n).isSome = true ∧ bits n 8 2 ≤ 3 ∧
    bits n 10 2 ≠ 3 ∧ n ≠ 0x804 := by decide

/-- M mode may write every CSR of `heldCsrs`. -/
theorem csrPermitted_heldCsrs {s : State} (hm : s.me.mode = .machine) {num : Nat} {mask : Word} {get : Csrs → Word}
    (h : (num, mask, get) ∈ heldCsrs) : s.csrPermitted s.cur (BitVec.ofNat 12 num).toNat true = true := by
  obtain ⟨hlt, hcell, hmode, hro, hid⟩ := heldCsrs_numbers num (List.mem_map_of_mem h)
  have hn : (BitVec.ofNat 12 num).toNat = num := by rw [BitVec.toNat_ofNat]; omega
  have hread := s.isSome_csrRead s.cur hcell
  have hm' : (s.hart s.cur).mode = .machine := hm
  rw [hn, State.csrPermitted]
  simp [hread, hm', hmode, hro, hid, hlt, Mode.code]

/-- A write of a CSR of `heldCsrs` in M mode reads its register first. -/
theorem parksOnEmpty_csrAccess {s : State} (hm : s.me.mode = .machine) (oc : CsrOp) (d a : Reg) {num : Nat} {mask : Word}
    {get : Csrs → Word} (h : (num, mask, get) ∈ heldCsrs) :
    parksOnEmpty s (.csrAccess oc false d a (BitVec.ofNat 12 num), [a]) := by
  intro r hr
  have ha : a ≠ 0 := by rintro rfl; simp [Hart.firstEmpty, Hart.isFull] at hr
  have he : exec (.csrAccess oc false d a (BitVec.ofNat 12 num)) s = execCsrAccess oc false d a (BitVec.ofNat 12 num) s := rfl
  have hw : (oc == .rw || a != 0) = true := by rw [bne_iff_ne.2 ha, Bool.or_true]
  dsimp only at hr
  rw [he, execCsrAccess]
  simp only [hw, csrPermitted_heldCsrs hm h, hr]
  rfl

/-- An invalidation in M mode reads its registers first (R161). -/
theorem parksOnEmpty_sfenceVma {s : State} (hm : s.me.mode = .machine) (a b : Reg) : parksOnEmpty s (.sfenceVma a b, [a, b]) := by
  intro r hr
  have he : exec (.sfenceVma a b) s = execSfenceVma a b s := rfl
  dsimp only at hr
  rw [he, execSfenceVma]
  simp [hm, hr]

/-- The instructions of hart 0 alone read their registers first at hart 0 (R38). -/
theorem parksOnEmpty_of_onHart {s : State} {i : Instr} {a : Reg} {rs : List Reg} {f : HartRef → State} (h0 : s.cur.hart = 0)
    (he : exec i s = .next (s.onHart a rs f)) : parksOnEmpty s (i, a :: rs) :=
  parksOnEmpty_of_reading (he.trans (congrArg _ (if_neg (not_not.2 h0))))

/-- The instructions of M mode alone read their registers first there (R199). -/
theorem parksOnEmpty_of_machineOnly {s t : State} {i : Instr} {rs : List Reg} (hm : s.me.mode = .machine)
    (he : exec i s = .next (s.machineOnly rs t)) : parksOnEmpty s (i, rs) :=
  parksOnEmpty_of_reading (he.trans (congrArg _ (if_neg (not_not.2 hm))))

/-- Settles O14: each form reads its registers before anything else, and parks on the first empty one. -/
theorem emptySourceParks : Obligations.EmptySourceParks := by
  intro s d a b c imm k k' cond o ow oi os op dbl aq rl p l lw q w n sh shw oc parks
  have lift {x} (h : parksOnEmpty s x) : parks x := parks_frame h
  have reading {i rs t} (he : exec i s = .next (s.reading rs t)) : parks (i, rs) := lift (parksOnEmpty_of_reading he)
  refine ⟨?_, ?_, ?_, ?_, ?_, reading rfl, fun h0 => ?_, fun h0 => ?_, fun hm => ?_⟩
  · simp only [List.forall_mem_cons]
    exact ⟨lift (parksOnEmpty_integerOp s _), lift (parksOnEmpty_integerOp s _), lift (parksOnEmpty_integerOp s _),
      lift (parksOnEmpty_integerOp s _), lift (parksOnEmpty_integerOp s _), lift (parksOnEmpty_integerOp s _),
      lift (parksOnEmpty_integerOp s _), lift (parksOnEmpty_integerOp s _), by simp⟩
  · simp only [List.forall_mem_cons]
    exact ⟨lift (parksOnEmpty_of_match rfl), lift (parksOnEmpty_of_match rfl), lift (parksOnEmpty_of_match rfl),
      lift (parksOnEmpty_of_match rfl), lift (parksOnEmpty_of_match rfl), reading rfl, reading rfl, reading rfl, reading rfl,
      by simp⟩
  · simp only [List.forall_mem_cons]
    exact ⟨reading rfl, reading rfl, reading rfl, reading rfl, reading rfl, reading rfl, reading rfl, reading rfl, reading rfl,
      reading rfl, by simp⟩
  · simp only [List.forall_mem_cons]
    exact ⟨lift (parksOnEmpty_moveIn rfl), lift (parksOnEmpty_moveIn rfl), lift (parksOnEmpty_moveIn rfl),
      lift (parksOnEmpty_moveIn rfl), reading rfl, reading rfl, reading rfl, reading rfl, reading rfl, reading rfl, reading rfl,
      reading rfl, by simp⟩
  · simp only [List.forall_mem_cons]
    exact ⟨reading rfl, reading rfl, reading rfl, reading rfl, reading rfl, reading rfl, reading rfl, reading rfl, reading rfl,
      reading rfl, by simp⟩
  · refine ⟨lift (parksOnEmpty_of_onHart h0 rfl), lift (parksOnEmpty_of_onHart h0 rfl), lift (parksOnEmpty_of_onHart h0 rfl),
      lift (parksOnEmpty_of_onHart h0 rfl), fun hu => ?_⟩
    exact reading ((congrArg _ (if_neg hu)).trans (congrArg _ (if_neg (not_not.2 h0))))
  · exact ⟨reading (congrArg _ (if_neg h0)), reading (congrArg _ (if_neg h0))⟩
  · exact ⟨lift (parksOnEmpty_of_machineOnly hm rfl), lift (parksOnEmpty_of_machineOnly hm rfl),
      lift (parksOnEmpty_sfenceVma hm a b), fun num mask get h => lift (parksOnEmpty_csrAccess hm oc d a h)⟩

end Sys2Proof.Machine
end

section
/-! SUPPORT. What the steps that time alone brings leave of the schedule, what each kind of turn comes to, and the statement
StepRunsDecoded (log 2). -/

namespace Sys2Proof.Machine

/-! ### What a fold and the finding of a fault leave as it was -/

/-- A fold whose every step keeps a part of the state keeps it. -/
theorem foldl_keeps {σ α β : Type} (g : σ → β) (f : σ → α → σ) (h : ∀ s a, g (f s a) = g s) (l : List α) (s : σ) :
    g (l.foldl f s) = g s := by
  induction l generalizing s with
  | nil => rfl
  | cons a r ih => exact (ih _).trans (h s a)

/-- Holding a hart changes the cores alone (R374). -/
theorem State.hold_eq (s : State) (h : HartRef) : ∃ cores, s.hold h = { s with cores := cores } := by
  unfold State.hold
  dsimp only
  split <;> exact ⟨_, rfl⟩

/-- Finding a fault changes the dies and, where it is held, the cores (R373). -/
theorem State.raise_eq (s : State) (d : DieId) (f : FaultRec) :
    ∃ dies cores, s.raise d f = { s with dies := dies, cores := cores } := by
  unfold State.raise
  dsimp only
  split
  · split
    · obtain ⟨cores, hc⟩ := State.hold_eq (s.setDie d _) _
      exact ⟨_, cores, hc⟩
    · exact ⟨_, _, rfl⟩
  · exact ⟨_, _, rfl⟩

@[simp] theorem State.raise_schedule (s : State) (d : DieId) (f : FaultRec) : (s.raise d f).schedule = s.schedule := by
  obtain ⟨_, _, h⟩ := s.raise_eq d f
  rw [h]

/-- A write of bytes changes memory, poison and reservations alone (R160, R377). -/
theorem State.writeKeys_eq (s : State) (c : List (Nat × Byte)) :
    ∃ poison cores resv, s.writeKeys c = { s with
      mem := Memory.writeKeys s.mem c, poison := poison, cores := cores, foreignResv := resv } := by
  unfold State.writeKeys
  dsimp only
  split <;> exact ⟨_, _, _, rfl⟩

/-- A test of the watch entries changes the cores alone (R78). -/
theorem State.evalWatch_eq (s : State) (core : Nat) : ∃ cores, s.evalWatch core = { s with cores := cores } := by
  unfold State.evalWatch
  dsimp only
  split <;> exact ⟨_, rfl⟩

@[simp] theorem State.writeKeys_schedule (s : State) (c : List (Nat × Byte)) : (s.writeKeys c).schedule = s.schedule := by
  obtain ⟨_, _, _, h⟩ := s.writeKeys_eq c
  rw [h]

@[simp] theorem State.evalWatch_schedule (s : State) (core : Nat) : (s.evalWatch core).schedule = s.schedule := by
  obtain ⟨_, h⟩ := s.evalWatch_eq core
  rw [h]

@[simp] theorem State.writeCells_schedule (s : State) (cores : List Nat) (c : List (Nat × Byte)) :
    (s.writeCells cores c).schedule = s.schedule :=
  (foldl_keeps State.schedule _ State.evalWatch_schedule cores _).trans (s.writeKeys_schedule c)

/-! ### What time alone brings leaves the schedule -/

@[simp] theorem State.faultTrigger_schedule (s : State) (h : HartRef) (u : EngineUnit) (seq fn code : BitVec 8) (source : Nat)
    (a : Word) (d : BitVec 16) : (s.faultTrigger h u seq fn code source a d).schedule = s.schedule := State.raise_schedule _ _ _

theorem State.fillFlight_schedule (s : State) (h : HartRef) (f : Flight) : (s.fillFlight h f).schedule = s.schedule := by
  unfold State.fillFlight
  split
  · rfl
  · exact s.writeCells_schedule _ _
  · dsimp only; split
    · exact s.faultTrigger_schedule ..
    · rfl

theorem State.issueReq_schedule (s : State) (h : HartRef) (r : Req) : (s.issueReq h r).schedule = s.schedule := by
  unfold State.issueReq
  dsimp only [State.addReq]
  split <;> rfl

theorem State.takeTrigger_schedule (s : State) (core : Nat) : (s.takeTrigger core).schedule = s.schedule := by
  unfold State.takeTrigger
  dsimp only
  generalize (if s.slotPending core then s.coreCycle core - 1 else s.coreCycle core) = cycle
  cases (s.core core).niq with
  | nil => rfl
  | cons t rest =>
    dsimp only
    generalize (if niOp t.fn = 10 then niCount t.a else 1) = n
    split
    · rfl
    · split
      · exact State.faultTrigger_schedule ..
      · exact foldl_keeps State.schedule _ (fun s r => s.issueReq_schedule _ r) _ _

/-- Neither the results that fill nor what the NIs take changes the schedule. -/
@[simp] theorem State.catchUp_schedule (s : State) : s.catchUp.schedule = s.schedule := by
  have htake (s : State) (c : Nat × Core) : (if c.2.niq.isEmpty then s else s.takeTriggers c.1).schedule = s.schedule := by
    split
    · rfl
    · exact foldl_keeps State.schedule _ (fun s _ => s.takeTrigger_schedule c.1) _ _
  exact (foldl_keeps State.schedule _ htake _ _).trans (foldl_keeps State.schedule _ (fun s x => s.fillFlight_schedule _ _) _ _)

/-! ### What a turn comes to -/

/-- What a turn comes to, as the outcome of a step. -/
def TurnResult.outcome : TurnResult → Host.Outcome State Fault Refusal
  | .done t => .next t
  | .run t i => exec i t
  | .fault f => .fault f

theorem step_eq_outcome (s : State) : step s = (s.catchUp.nextTurn.2.takeTurn s.catchUp.nextTurn.1).outcome := by
  unfold step TurnResult.outcome; rfl

/-- What is due now comes before the schedule. -/
theorem step_forced {s : State} {x : Instr} {a : EventArg} (h : s.catchUp.forced = some (x, a)) (hx : isAgentStep x = true) :
    step s = exec x { s.catchUp with arg := a } := by
  have hn : s.catchUp.nextTurn = (.event x a, s.catchUp) := by unfold State.nextTurn; rw [h]
  rw [step_eq_outcome, hn, State.takeTurn, if_pos hx]; rfl

/-- With nothing due, a step is the head of the schedule in the state without it. -/
theorem step_turn {s : State} {t : Turn} {rest : List Turn} (h : s.catchUp.forced = none) (hs : s.schedule = t :: rest) :
    step s = ({ s.catchUp with schedule := rest }.takeTurn t).outcome := by
  have hn : s.catchUp.nextTurn = (t, { s.catchUp with schedule := rest }) := by
    unfold State.nextTurn; rw [h, s.catchUp_schedule, hs]
  rw [step_eq_outcome, hn]

/-- The turn of a window entry runs the instruction of its word. -/
theorem State.streamTurn_of_entry {s : State} {i : SlotId} {n : Nat} {e : Entry} {x : Instr} (he : (s.slot i).entry? n = some e)
    (hx : e.instr = some x) : s.streamTurn i n = .run { s with strCur := (i, n) } x := by
  unfold State.streamTurn; rw [he]; dsimp only; rw [hx]

/-- Bits of a word as a number and as a field. -/
theorem field_eq_extract (a : Word) (lo len : Nat) : field a lo len = (a.extractLsb' lo len).toNat := by
  rw [BitVec.extractLsb'_toNat, Nat.shiftRight_eq_div_pow]; rfl

/-- A field is 0 where its bits are. -/
theorem field_eq_zero {a : Word} {lo len : Nat} (h : a.extractLsb' lo len = 0) : field a lo len = 0 := by
  rw [field_eq_extract, h]; rfl

/-- The command that an active list in the own scratchpad reaches (R250, R254). -/
theorem State.reachCommand_spad {s : State} {core off : Nat} {l : CeList}
    (hclosed : l.closed = false) (hwait : l.waiting = false) (hread : s.mayRead l.t = true)
    (hhold : s.sourceHolds core 1 (some .ce) = false) (hfn : l.t.fn = 0) (hplace : s.place core l.pc = some (.spad core off 0))
    (hlocal : l.pc.extractLsb' 60 4 = 8) (hoff : off + 64 ≤ 0x40000) (hprot : s.engineProtects l.t .read off 64 = true)
    (hpoison : s.anyPoisoned (spadKeys core off 64) = false) :
    s.reachCommand core l = .command s (BitVec.ofNat 512 (leNat (Memory.readBytes s.mem (spadKey core off) 64))) := by
  have hsel : field l.pc 60 4 = 8 := by rw [field_eq_extract, hlocal]; rfl
  have hbound : ¬ 0x40000 < off + 64 := by omega
  unfold State.reachCommand
  simp [hclosed, hwait, hread, hhold, hfn, hplace, hsel, hbound, hprot, hpoison]

/-- The turn of a copy list runs the command that it reaches. -/
theorem State.listTurn_of_command {s : State} {core i : Nat} {l : CeList} {w : BitVec 512} {x : Instr}
    (hl : (s.core core).lists[i]? = some l) (hreach : s.reachCommand core l = .command s w) (hw : decodeCopy w = some x) :
    s.listTurn core i = .run { s with ceCur := (core, i, l.reached) } x := by
  obtain ⟨hlen, -⟩ := List.getElem?_eq_some_iff.1 hl
  unfold State.listTurn State.copyTurn
  rw [if_neg (Nat.not_le.2 hlen), hl]; dsimp only
  rw [hreach]; dsimp only
  rw [hw]

/-! ### The slot of a hart (R63, R361, R410) -/

/-- The bytes of a span read from its middle on. -/
theorem Memory.readBytes_drop (m : List Host.Cell) (k i n : Nat) :
    (Memory.readBytes m k n).drop i = Memory.readBytes m (k + i) (n - i) := by
  induction i generalizing k n with
  | zero => rfl
  | succ i ih =>
    cases n with
    | zero => simp [Memory.readBytes]
    | succ n => rw [Memory.readBytes, List.drop_succ_cons, ih, Nat.add_sub_add_right, Nat.add_assoc, Nat.add_comm 1]

theorem Memory.readBytes_take (m : List Host.Cell) (k : Nat) {i n : Nat} (h : i ≤ n) :
    (Memory.readBytes m k n).take i = Memory.readBytes m k i := by
  induction i generalizing k n with
  | zero => rfl
  | succ i ih =>
    obtain ⟨n, rfl⟩ : ∃ j, n = j + 1 := ⟨n - 1, by omega⟩
    rw [Memory.readBytes, List.take_succ_cons, ih _ (by omega), Memory.readBytes]

@[simp] theorem Memory.length_readBytes (m : List Host.Cell) (k n : Nat) : (Memory.readBytes m k n).length = n := by
  induction n generalizing k with
  | zero => rfl
  | succ n ih => rw [Memory.readBytes, List.length_cons, ih]

theorem leNat_lt (b : List Byte) : leNat b < 256 ^ b.length := by
  induction b with
  | nil => decide
  | cons x r ih =>
    have hx : x.toNat < 256 := x.isLt
    rw [leNat, List.length_cons, Nat.pow_succ]
    omega

/-- The bytes from a place on, as a number. -/
theorem leNat_drop (b : List Byte) (i : Nat) : leNat (b.drop i) = leNat b / 256 ^ i := by
  induction i generalizing b with
  | zero => simp
  | succ i ih =>
    cases b with
    | nil => simp [leNat]
    | cons x r =>
      have hx : x.toNat < 256 := x.isLt
      have hd : (x.toNat + 256 * leNat r) / 256 = leNat r := by omega
      rw [List.drop_succ_cons, ih, leNat, Nat.pow_succ', ← Nat.div_div_eq_div_mul, hd]

/-- The first bytes, as a number. -/
theorem leNat_take (b : List Byte) (n : Nat) : leNat (b.take n) = leNat b % 256 ^ n := by
  induction n generalizing b with
  | zero => simp [leNat, Nat.mod_one]
  | succ n ih =>
    cases b with
    | nil => simp [leNat]
    | cons x r =>
      have hx : x.toNat < 256 := x.isLt
      have hm : (x.toNat + 256 * leNat r) % 256 = x.toNat := by omega
      have hd : (x.toNat + 256 * leNat r) / 256 = leNat r := by omega
      rw [List.take_succ_cons, leNat, ih, leNat, Nat.pow_succ', Nat.mod_mul, hm, hd]

/-- The word of a line at an aligned address is that of its four bytes. -/
theorem lineWord_readBytes (m : List Host.Cell) (base a : Nat) (h : a % 4 = 0) :
    lineWord (BitVec.ofNat 512 (leNat (Memory.readBytes m base 64))) a =
      BitVec.ofNat 32 (leNat (Memory.readBytes m (base + a % 64) 4)) := by
  have hlt : leNat (Memory.readBytes m base 64) < 2 ^ 512 := by
    have h := leNat_lt (Memory.readBytes m base 64)
    rwa [Memory.length_readBytes, show (256 : Nat) = 2 ^ 8 from rfl, ← Nat.pow_mul] at h
  have hpow : 2 ^ (32 * (a % 64 / 4)) = 256 ^ (a % 64) := by
    rw [show (256 : Nat) = 2 ^ 8 from rfl, ← Nat.pow_mul]
    exact congrArg _ (by omega)
  unfold lineWord lane
  rw [BitVec.toNat_ofNat, Nat.mod_eq_of_lt hlt, hpow, ← leNat_drop, show 2 ^ 32 = 256 ^ 4 from rfl, ← leNat_take,
    Memory.readBytes_drop, Memory.readBytes_take _ _ (by omega)]

/-- A fetch of which this device owns the region, with an open way to it and nothing on the move, reads its line from memory (R63,
R85). -/
theorem State.fetch_home {c g f : State} {h : HartRef} {die : DieId} {k : List Nat}
    (hzero : (c.hart h).pc.extractLsb' 57 7 = 0) (halign : (c.hart h).pc.toNat % 4 = 0) (hlines : (c.hart h).lines = [])
    (hmapped : (c.hart h).mapped = true) (hover : c.overlaid h.core (c.hart h).pc = (c.hart h).pc)
    (howner : c.ownerFor h.core (c.hart h).asid (c.hart h).pc.toNat = (g, .inr (g.device.toNat, die)))
    (hregion : g.regionState die (c.hart h).asid (c.hart h).pc.toNat = none)
    (hroute : g.routeHeld { g.hartReq h with
      addr := BitVec.ofNat 64 ((c.hart h).pc.toNat / 64 * 64), op := .read 64 } = false)
    (hopen : g.routeOpen (dieOf h.core) die = true)
    (hkeys : g.agentTranslate die (c.hart h).asid (c.hart h).pc.toNat 4 ⟨(c.hart h).mode == .user, false, false, true⟩
      (clusterRow h.core) = (f, .keys k))
    (hpoison : f.anyPoisoned ((List.range 64).map fun j => k.headD 0 - (c.hart h).pc.toNat % 64 + j) = false)
    (hbase : (c.hart h).pc.toNat % 64 ≤ k.headD 0) :
    ∃ lines, c.fetch h = (f.setHart h { f.hart h with lines := lines },
      .word (BitVec.ofNat 32 (leNat (Memory.readBytes f.mem (k.headD 0) 4)))) := by
  have hword := lineWord_readBytes f.mem (k.headD 0 - (c.hart h).pc.toNat % 64) _ halign
  rw [Nat.sub_add_cancel hbase] at hword
  unfold State.fetch
  simp only [field_eq_zero hzero, hlines, hover, List.find?_nil, State.fetchLine, hmapped, howner, hregion, hroute, hopen, hkeys,
    hpoison, hword, ne_eq, not_true_eq_false, Option.isSome_none, Bool.not_true, Bool.false_eq_true, or_self, if_false]
  exact ⟨_, rfl⟩

/-- A slot in which no trap, interrupt or upcall is due runs what its fetch gives, where no breakpoint stops it (R364, R414). -/
theorem State.slotOf_of_fetch {s c f : State} {w : BitVec 32} {i : Instr}
    (hc : c = s.setMe { s.me.rewritten with issueFrom := s.coreCycle s.cur.core + 1 })
    (hfault : c.faultDue c.cur = none) (hint : c.interruptDue c.cur = none) (hup : c.upcallDue c.cur = none)
    (hheld : c.upcallHeld c.cur = false) (hfence : c.fetchHeld c.me = false) (hfetching : c.me.fetching = none)
    (hfetch : c.fetch c.cur = (f, .word w)) (hbreak : f.me.breaks 1 f.me.pc = false) (hdecode : decodeCore w = some i) :
    s.slotOf = .run { f with insn := w } i := by
  have hcur : s.cur = c.cur := by rw [hc]; rfl
  unfold State.slotOf
  dsimp only
  rw [← hc, hcur]
  simp [hfault, hint, hup, hheld, hfence, hfetching, hfetch, hbreak, hdecode]

/-- An instruction whose hart and core have no soft error runs unless it reads a register that a fault has filled (R377, R420). -/
theorem TurnResult.throughUpsets_run {s : State} (i : Instr) (hme : s.me.upsets = []) (hk : s.myCore.kUpset = 0) :
    (TurnResult.run s i).throughUpsets.outcome = if s.readsSettled i then .next s else exec i s := by
  have hnone : s.throughUpsets i = .inr s := by
    unfold State.throughUpsets; rw [if_pos ⟨by rw [hme]; rfl, hk⟩]
  unfold TurnResult.throughUpsets
  dsimp only
  rw [hnone]
  split <;> rfl

/-- A field of the issuing hart that a new line leaves. -/
theorem State.myCore_setMe_kUpset (s : State) (v : Hart) : (s.setMe v).myCore.kUpset = s.myCore.kUpset := by
  rw [State.setMe_eq, State.myCore_setMyCore]

/-- The turn of a slot runs the instruction that the slot comes to. -/
theorem State.slotTurn_outcome {g f : State} {i : Instr} (hissues : g.me.issues = true) (hslot : g.slotOf = .run f i)
    (hme : f.me.upsets = []) (hk : f.myCore.kUpset = 0) :
    g.slotTurn.outcome = if f.readsSettled i then .next f else exec i f := by
  unfold State.slotTurn
  rw [if_pos hissues, hslot]
  exact TurnResult.throughUpsets_run i hme hk

/-- Settles O58: what is due first, then the turn at the head of the schedule, kind by kind. -/
theorem stepRunsDecoded : Obligations.StepRunsDecoded := by
  intro s rest u
  refine ⟨fun x a h hx => step_forced h hx, fun hnone => ?_⟩
  have hturn {t : Turn} (hs : s.schedule = t :: rest) : step s = (u.takeTurn t).outcome := step_turn hnone hs
  refine ⟨?_, ?_, ?_, ?_, ?_⟩
  · intro q g' f die k i hs hnext huntil g c pc line w hfault hint hup hheld hfence hissues hfetching hlines hmapped hzero
      halign hover howner hregion hroute hopen hkeys hpoison hupsets hkUpset hcur hbase hbreak hdecode
    obtain ⟨lines, hfetch⟩ := State.fetch_home hzero halign hlines hmapped hover howner hregion hroute hopen hkeys hpoison hbase
    have hword : c.fetch c.cur = (f.setMe { f.me with lines := lines }, .word w) := by
      rw [State.setMe, State.me, hcur]; exact hfetch
    have hslot : g.slotOf = .run { f.setMe { f.me with lines := lines } with insn := w } i :=
      State.slotOf_of_fetch rfl hfault hint hup hheld hfence hfetching hword (by rw [State.me_setMe]; exact hbreak) hdecode
    have hme : (f.setMe { f.me with lines := lines }).me = { f.me with lines := lines } := State.me_setMe _ _
    refine ⟨{ f.setMe { f.me with lines := lines } with insn := w }, ?_, rfl, ?_, ?_⟩
    · rw [hturn hs, State.takeTurn]
      dsimp only
      rw [hnext]
      dsimp only
      rw [if_pos huntil]
      refine State.slotTurn_outcome hissues hslot ?_ ?_
      · exact (congrArg Hart.upsets hme).trans hupsets
      · exact (State.myCore_setMe_kUpset _ _).trans hkUpset
    · exact congrArg (fun v => { f.setMe v with insn := w }) hme.symm
    · exact hme.trans (congrArg (fun l => { f.me with lines := l }) (congrArg Hart.lines hme).symm)
  · intro i n e x hs he hx
    rw [hturn hs, State.takeTurn, State.streamTurn_of_entry he hx]; rfl
  · intro core i off l x hs c w hl hclosed hwait hread hhold hfn hplace hlocal hoff hprot hpoison hw
    have hreach := State.reachCommand_spad hclosed hwait hread hhold hfn hplace hlocal hoff hprot hpoison
    rw [hturn hs, State.takeTurn, State.listTurn_of_command hl hreach hw]; rfl
  · intro x a hs hx
    rw [hturn hs, State.takeTurn, if_pos hx]; rfl
  · intro n hs
    refine ⟨fun hnext => ?_, fun q hnext => ?_⟩
    · rw [hturn hs, State.takeTurn, hnext]; rfl
    · rw [hturn hs, State.takeTurn, hnext]; rfl

end Sys2Proof.Machine
end

section
/-! SUPPORT. What the instructions of harts share: full registers, precise traps, releases, and posted requests (R30, R120, R125,
R161, R361, R362). -/

namespace Sys2Proof.Machine

/-! ### Full registers and completion (R30, R35) -/

theorem Hart.firstEmpty_eq_none {h : Hart} {rs : List Reg} (hf : ∀ r ∈ rs, h.isFull r = true) : h.firstEmpty rs = none := by
  induction rs with
  | nil => rfl
  | cons r l ih =>
    rw [Hart.firstEmpty, if_pos (hf r List.mem_cons_self)]
    exact ih fun q hq => hf q (List.mem_cons_of_mem _ hq)

/-- An instruction whose registers are full performs. -/
theorem State.reading_full {s : State} {rs : List Reg} (hf : ∀ r ∈ rs, s.me.isFull r = true) (t : State) : s.reading rs t = t := by
  unfold State.reading; rw [Hart.firstEmpty_eq_none hf]

theorem State.reading_one {s : State} {a : Reg} (ha : s.me.isFull a = true) (t : State) : s.reading [a] t = t :=
  State.reading_full (by simpa using ha) t

theorem State.reading_two {s : State} {a b : Reg} (ha : s.me.isFull a = true) (hb : s.me.isFull b = true) (t : State) :
    s.reading [a, b] t = t :=
  State.reading_full (by simpa using ⟨ha, hb⟩) t

/-- What parking leaves: the hart with its wait, and nothing outside it (R31). -/
theorem State.park_frame (s : State) (w : Wait) :
    s.park w = s.setMe (s.park w).me ∧ (s.park w).me.st = .parked ∧ (s.park w).me.wait = w ∧ (s.park w).me.pc = s.me.pc ∧
      (s.park w).me.x = s.me.x ∧ (s.park w).me.xFull = s.me.xFull := by
  rw [State.me_park]; exact ⟨rfl, rfl, rfl, rfl, rfl, rfl⟩

@[simp] theorem State.me_complete (s : State) (v : Hart) : (s.complete v).me = v.next := by
  rw [State.complete, State.me_setMe]; rfl

@[simp] theorem State.complete_reqs (s : State) (v : Hart) : (s.complete v).reqs = s.reqs := rfl
@[simp] theorem State.complete_nextId (s : State) (v : Hart) : (s.complete v).nextId = s.nextId := rfl
@[simp] theorem State.complete_mem (s : State) (v : Hart) : (s.complete v).mem = s.mem := rfl
@[simp] theorem State.complete_msgs (s : State) (v : Hart) : (s.complete v).msgs = s.msgs := rfl

/-- An instruction that changes its core and goes on. -/
theorem State.complete_setMyCore (s : State) (c : Core) (v : Hart) :
    (s.setMyCore c).complete v = s.setMyCore { c with harts := c.harts.set s.cur.hart v.next } := by
  rw [State.complete, State.setMe_eq, State.myCore_setMyCore, State.setMyCore_setMyCore]; rfl

/-! ### Precise traps (R161, R361, R362) -/

theorem setBit_bit (w : Word) {n : Nat} (b : Bool) (hn : n < 64) (k : Nat) :
    (setBit w n b).getLsbD k = if k = n then b else w.getLsbD k := by
  have hone : (1#64 <<< n).getLsbD k = decide (k = n) := by
    rw [BitVec.getLsbD_shiftLeft]
    by_cases h : k = n
    · simp [h, hn]
    · by_cases hk : k < n
      · simp [h, hk]
      · have : k - n ≠ 0 := by omega
        simp [h, BitVec.getLsbD_one, this]
  cases b with
  | true =>
    rw [setBit, if_pos rfl, BitVec.getLsbD_or, hone]
    by_cases h : k = n <;> simp [h]
  | false =>
    rw [setBit, if_neg (by decide), BitVec.getLsbD_and, BitVec.getLsbD_not, hone]
    by_cases h : k = n
    · simp [h]
    · by_cases hk : k < 64
      · simp [h, hk]
      · simp [h, BitVec.getLsbD_of_ge w k (by omega)]

/-- The cause word of an exception is its code. -/
theorem causeWord_exception {cause : Nat} (h : cause < 2 ^ 63) : causeWord false cause = BitVec.ofNat 64 cause := by
  refine BitVec.eq_of_getLsbD_eq fun k hk => ?_
  rw [causeWord, setBit_bit _ _ (by decide)]
  by_cases h63 : k = 63
  · subst h63
    rw [if_pos rfl, BitVec.getLsbD_ofNat, Nat.testBit_lt_two_pow h, Bool.and_false]
  · rw [if_neg h63]

/-- mstatus on entry to S mode, bit by bit. -/
theorem mstatusOnS_bit (st : Word) (m : Mode) (n : Nat) : (mstatusOnS st m).getLsbD n =
    if n = 5 then st.getLsbD 1 else if n = 1 then false else if n = 8 then m != .user else st.getLsbD n := by
  unfold mstatusOnS bitOf
  rw [setBit_bit _ _ (by decide), setBit_bit _ _ (by decide), setBit_bit _ _ (by decide)]
  by_cases h5 : n = 5
  · subst h5; rfl
  · by_cases h1 : n = 1
    · subst h1; rfl
    · simp only [if_neg h5, if_neg h1]

/-- The bits of a mode's code: whether it is above U, and whether it is M (R167). -/
theorem Mode.code_shifted_bit (m : Mode) (n : Nat) : ((m.code.zeroExtend 64) <<< 11 : Word).getLsbD n =
    if n = 11 then m != .user else if n = 12 then m == .machine else false := by
  by_cases hn : n < 13
  · interval_cases n <;> cases m <;> decide
  · have h2 : m.code.getLsbD (n - 11) = false := BitVec.getLsbD_of_ge _ _ (by omega)
    rw [if_neg (by omega), if_neg (by omega)]
    simp [BitVec.getLsbD_shiftLeft, h2]

/-- mstatus on entry to M mode, bit by bit. -/
theorem mstatusOnM_bit (st : Word) (m : Mode) (n : Nat) : (mstatusOnM st m).getLsbD n =
    if n = 7 then st.getLsbD 3 else if n = 3 then false else if n = 11 then m != .user
      else if n = 12 then m == .machine else st.getLsbD n := by
  have hmask : (~~~ (0x1800#64)).getLsbD n = (decide (n < 64) && !(decide (n = 11) || decide (n = 12))) := by
    by_cases hn : n < 64
    · interval_cases n <;> decide
    · rw [BitVec.getLsbD_of_ge _ _ (by omega)]; simp [hn]
  unfold mstatusOnM bitOf
  dsimp only
  rw [BitVec.getLsbD_or, BitVec.getLsbD_and, Mode.code_shifted_bit, hmask, setBit_bit _ _ (by decide), setBit_bit _ _ (by decide)]
  by_cases h7 : n = 7
  · subst h7; simp
  · by_cases h3 : n = 3
    · subst h3; simp
    · by_cases h11 : n = 11
      · subst h11; simp
      · by_cases h12 : n = 12
        · subst h12; simp
        · by_cases hn : n < 64
          · simp [h7, h3, h11, h12, hn]
          · simp [h7, h3, h11, h12, hn, BitVec.getLsbD_of_ge st n (by omega)]

/-- A precise trap is what R361 says (R161, R363). -/
theorem State.trap_entersTrap (s : State) {cause : Nat} (tval : Word) (hc : cause < 2 ^ 63) :
    entersTrap s (s.trap cause tval) cause tval := by
  have hme : (s.trap cause tval).me = s.me.takeTrap false cause tval s.me.pc s.refTime := State.me_setMe _ _
  unfold entersTrap
  rw [hme]
  have hword := causeWord_exception hc
  generalize hold : s.me = v
  have hdel {q : Nat} {n : Nat} : Hart.delegated { v with
      st := .running, quantumCount := q, quantumSince := n, wait := .none, resv := none, lr := none, lines := [], fetching := none
      fetched := none, rewrites := none } false cause = true ↔ v.mode ≠ .machine ∧ v.csr.medeleg.getLsbD cause = true := by
    simp [Hart.delegated, bitOf]
  refine ⟨by rw [State.trap, hold], ?_, ?_⟩
  · unfold Hart.takeTrap
    dsimp only [Hart.moveTo]
    split <;> rfl
  · unfold Hart.takeTrap
    dsimp only [Hart.moveTo]
    simp only [hdel]
    split
    · refine ⟨rfl, by simp [trapVector], by rw [hword], fun n => mstatusOnS_bit _ _ n⟩
    · refine ⟨rfl, by simp [trapVector], by rw [hword], fun n => mstatusOnM_bit _ _ n⟩

/-- An instruction whose meaning is a precise trap traps. -/
theorem traps_of_exec {s : State} {i : Instr} {cause : Nat} {tval : Word} (he : exec i s = .next (s.trap cause tval))
    (hc : cause < 2 ^ 63) : traps i s cause tval := ⟨_, he, s.trap_entersTrap tval hc⟩

/-- An instruction whose meaning is cause 24 with a code traps with it (R362). -/
theorem trapsWith_of_trapCode {s : State} {i : Instr} {code detail : BitVec 8} (he : exec i s = .next (s.trapCode code detail)) :
    trapsWith i s code detail := traps_of_exec he (by decide)

/-- OPERAND on a register (R362). -/
theorem trapsWith_of_operand {s : State} {i : Instr} {r : Reg} (he : exec i s = .next (s.operand r)) :
    trapsWith i s 0x01 (r.zeroExtend 8) := trapsWith_of_trapCode he

/-! ### What is outstanding (R125) -/

theorem State.mem_outstanding {s : State} {ids : List Nat} {n : Nat} :
    n ∈ s.outstanding ids ↔ n ∈ ids ∧ ((∃ r ∈ s.reqs, r.id = n) ∨ ∃ m ∈ s.msgs, m.id = n) := by
  simp [State.outstanding, State.req?, List.find?_isSome]

/-- What is outstanding stays so as requests and messages join. -/
theorem State.outstanding_mono {s t : State} {ids : List Nat} (hr : ∀ r ∈ s.reqs, r ∈ t.reqs) (hm : s.msgs = t.msgs) {n : Nat}
    (h : n ∈ s.outstanding ids) : n ∈ t.outstanding ids := by
  rw [State.mem_outstanding] at h ⊢
  obtain ⟨hn, ⟨r, hin, hid⟩ | h⟩ := h
  · exact ⟨hn, .inl ⟨r, hr r hin, hid⟩⟩
  · exact ⟨hn, .inr (hm ▸ h)⟩

@[simp] theorem State.addReq_reqs (s : State) (r : Req) : (s.addReq r).reqs = s.reqs ++ [{ r with id := s.nextId }] := rfl
@[simp] theorem State.addReq_nextId (s : State) (r : Req) : (s.addReq r).nextId = s.nextId + 1 := rfl

theorem State.mem_addReq (s : State) (r : Req) : ∀ q ∈ s.reqs, q ∈ (s.addReq r).reqs :=
  fun _ h => List.mem_append_left _ h

@[simp] theorem State.addReq_hart (s : State) (r : Req) (h : HartRef) : (s.addReq r).hart h = s.hart h := rfl
@[simp] theorem State.addReq_core (s : State) (r : Req) (c : Nat) : (s.addReq r).core c = s.core c := rfl
@[simp] theorem State.addReq_me (s : State) (r : Req) : (s.addReq r).me = s.me := rfl
@[simp] theorem State.addReq_myCore (s : State) (r : Req) : (s.addReq r).myCore = s.myCore := rfl

/-! ### Releases (R125) -/

/-- What a release is: a request of its own kind that holds back the hart's later writes. -/
theorem State.release_eq (s : State) (h : HartRef) (scope : BitVec 2) (dest : Dest) :
    ∃ r : Req, s.release h scope dest = ((s.addReq r).holdLater h [] [s.nextId], s.nextId) ∧ r.kind = .release scope ∧
      r.src = .hart h ∧ r.dest = dest :=
  ⟨_, rfl, rfl, rfl, rfl⟩

@[simp] theorem State.holdLater_reqs (s : State) (h : HartRef) (l w : List Nat) : (s.holdLater h l w).reqs = s.reqs := rfl
@[simp] theorem State.holdLater_nextId (s : State) (h : HartRef) (l w : List Nat) : (s.holdLater h l w).nextId = s.nextId := rfl
@[simp] theorem State.holdLater_mem (s : State) (h : HartRef) (l w : List Nat) : (s.holdLater h l w).mem = s.mem := rfl
@[simp] theorem State.holdLater_msgs (s : State) (h : HartRef) (l w : List Nat) : (s.holdLater h l w).msgs = s.msgs := rfl
@[simp] theorem State.holdLater_cur (s : State) (h : HartRef) (l w : List Nat) : (s.holdLater h l w).cur = s.cur := rfl

theorem State.me_holdLater (s : State) (l w : List Nat) : (s.holdLater s.cur l w).me = { s.me with
    holdAll := s.outstanding s.me.holdAll ++ l, holdWrites := s.outstanding s.me.holdWrites ++ w } :=
  State.hart_setHart_same _ _ _

/-- A request of another kind than an access takes no room in the outbound queue (R264). -/
theorem State.niFull_addReq {s t : State} {r : Req} (hr : r.kind ≠ .access) (ht : t.reqs = (s.addReq r).reqs) (core : Nat) :
    t.niFull core = s.niFull core := by
  have hk : (r.kind == ReqKind.access) = false := beq_eq_false_iff_ne.2 hr
  unfold State.niFull State.queuedOf
  rw [ht, State.addReq_reqs, List.filter_append]
  simp [hk]

/-! ### Posted requests (R120, R125) -/

/-- A request of a hart's instruction that brings no arrival: one that waits for what holds it back joins the queue. -/
theorem State.issueReq_plain (s : State) (h : HartRef) {r : Req} (hsrc : r.src = .hart h) (harr : r.arrival = .none)
    (hop : r.op ≠ .arrivalOnly) :
    ∃ q : Req, s.issueReq h r = s.addReq q ∧ q = { r with born := q.born, waits := q.waits, after := q.after } ∧
      (∀ n ∈ s.outstanding (s.hart h).holdAll, n ∈ q.waits) ∧
      (r.isWrite = true → ∀ n ∈ s.outstanding (s.hart h).holdWrites, n ∈ q.waits) := by
  have hscalar : r.isScalar = true := by unfold Req.isScalar; rw [hsrc]
  have htag : (r.arrival != .none || r.op == .arrivalOnly) = false := by
    rw [harr, beq_eq_false_iff_ne.2 hop]; rfl
  unfold State.issueReq
  dsimp only
  simp only [htag, Bool.false_and, Bool.and_false, Bool.false_eq_true, if_false, hscalar, if_true]
  refine ⟨_, rfl, rfl, fun n hn => ?_, fun hw n hn => ?_⟩
  · refine List.mem_append_left _ ?_
    rw [State.mem_outstanding] at hn ⊢
    exact ⟨List.mem_append_left _ (List.mem_append_right _ hn.1), hn.2⟩
  · refine List.mem_append_left _ ?_
    rw [State.mem_outstanding] at hn ⊢
    exact ⟨List.mem_append_right _ (by rw [if_pos hw]; exact hn.1), hn.2⟩

/-- A posted request of the issuing hart: it leads the queue, and the hart goes on. -/
theorem State.post_posts {s : State} {r : Req} {clear : Hart → Hart} (hfull : s.niFull s.cur.core = false)
    {a : Word} {op : ReqOp} {data : List Byte} {dest : Dest}
    (hr : r = { s.hartReq s.cur with addr := a, op := op, data := data, dest := dest }) (hop : op ≠ .arrivalOnly) :
    ∃ q : Req, posts s (s.post r clear) a op data .none dest q ∧ (s.post r clear).me = (clear s.me).next ∧
      (s.post r clear).mem = s.mem ∧ q ∈ (s.post r clear).reqs := by
  have hrop : r.op = op := congrArg Req.op hr
  obtain ⟨q, he, hq, hall, hwrites⟩ := s.issueReq_plain s.cur (congrArg Req.src hr) (congrArg Req.arrival hr) (hrop ▸ hop)
  have hpost : s.post r clear = (s.addReq q).complete (clear s.me) := by
    unfold State.post
    rw [if_neg (by rw [hfull]; decide), he]
    rfl
  have hop' : q.op = op := (congrArg Req.op hq).trans hrop
  replace hq : q = { s.hartReq s.cur with
      addr := a, op := op, data := data, dest := dest, born := q.born, waits := q.waits, after := q.after } := by rw [hr] at hq; exact hq
  rw [hpost]
  refine ⟨{ q with id := s.nextId }, ?_, State.me_complete _ _, rfl, List.mem_append_right _ List.mem_cons_self⟩
  refine ⟨List.getLast?_concat, s.mem_addReq q, rfl, le_refl _, congrArg Req.kind hq, congrArg Req.src hq, congrArg Req.core hq,
    congrArg Req.user hq, congrArg Req.asid hq, congrArg Req.addr hq, hop', congrArg Req.data hq, congrArg Req.arrival hq,
    congrArg Req.dest hq, congrArg Req.stage hq, hall, fun hw => hwrites ?_⟩
  simpa only [Req.isWrite, hrop, hop'] using hw

/-- The hart has gone on where it is the next of a hart. -/
theorem goesOn_of_me {t : State} {v : Hart} (h : t.me = v.next) : goesOn t v := by
  unfold goesOn; rw [h]

end Sys2Proof.Machine
end

section
/-! SUPPORT. Ownership and the shared registers of a core (R36, R87, R187 to R189), and the statement OwnershipAndSharedRegisters. -/

namespace Sys2Proof.Machine

/-! ### Virtual addresses (R61, R80) -/

/-- The bits of a field lie in those of a wider one. -/
theorem field_eq_zero_of_high {a : Word} (h : a.extractLsb' 57 7 = 0) {lo len : Nat} (hlo : 57 ≤ lo) : field a lo len = 0 := by
  have hlt : a.toNat / 2 ^ 57 = 0 := by
    have := field_eq_zero h
    have hw := a.isLt
    unfold field at this
    omega
  have : a.toNat / 2 ^ lo = 0 := by
    rw [Nat.div_eq_zero_iff] at hlt ⊢
    exact .inr (lt_of_lt_of_le (hlt.resolve_left (by decide)) (Nat.pow_le_pow_right (by decide) hlo))
  rw [field, this, Nat.zero_mod]

/-- An address of space 0 with its zero field names virtual space (R61). -/
theorem State.place_virtual (s : State) (core : Nat) {a : Word} (h : a.extractLsb' 57 7 = 0) :
    s.place core a = some (.virt (field a 0 57)) := by
  unfold State.place
  simp only [field_eq_zero_of_high h (show 57 ≤ 60 by decide), field_eq_zero_of_high h (le_refl 57), if_true]

theorem State.isVirtualAddress_of_high (s : State) (core : Nat) {a : Word} (h : a.extractLsb' 57 7 = 0) :
    s.isVirtualAddress core a = true := by
  unfold State.isVirtualAddress; rw [s.place_virtual core h]

/-- The region of an address is its bits [56:21] (R85). -/
theorem regionOf_eq_extract (a : Word) : regionOf a.toNat = a.extractLsb' 21 36 := by
  rw [regionOf, BitVec.extractLsb', Nat.shiftRight_eq_div_pow]

/-! ### `own` (R87, R187) -/

/-- A descriptor within the limits of R187 is one that the model takes. -/
theorem State.migrationOk_of_fields {s : State} {d : Word} (h0 : d.extractLsb' 0 5 = 0) (h32 : d.extractLsb' 32 32 = 0)
    (h23 : (d.extractLsb' 23 2).toNat ≤ 2) (h25 : (d.extractLsb' 25 2).toNat ≤ 2) (h21 : (d.extractLsb' 21 2).toNat < s.dieCount) :
    s.migrationOk d = true := by
  unfold State.migrationOk
  simp only [field_eq_extract, h0, h32, h23, h25, h21]
  rfl

theorem exec_own_of_full {s : State} {a b d : Reg} (ha : s.me.isFull a = true) (hb : s.me.isFull b = true)
    (hx : (s.me.readX a).extractLsb' 57 7 = 0) (hm : s.migrationOk (s.me.readX b) = true) :
    exec (.own b a d) s = .next (s.post { s.hartReq s.cur with
      addr := s.me.readX a, op := .own (s.me.readX b), dest := .xreg d true } (fun (h : Hart) => h.empty d)) := by
  have he : exec (.own b a d) s = execOwn b a d s := rfl
  rw [he, execOwn, State.reading_two ha hb]
  simp [s.isVirtualAddress_of_high _ hx, hm]

/-! ### `ocinv` (R188, R368) -/

/-- What `ocinv` makes of a request: a FAULTED one of its core in the region is sent again. -/
def sentAgain (core : Nat) (asid : BitVec 16) (region : BitVec 36) (r : Req) : Req :=
  match r.stage with
  | .faulted _ _ =>
    if r.core = core ∧ r.asid = asid ∧ regionOf r.addr.toNat = region
    then { r with stage := .queued, retries := 0, route := none } else r
  | _ => r

theorem sentAgain_of_faulted {core : Nat} {asid : BitVec 16} {region : BitVec 36} {r : Req} {c : BitVec 8} {w : Word}
    (hs : r.stage = .faulted c w) (hc : r.core = core) (ha : r.asid = asid) (hr : regionOf r.addr.toNat = region) :
    sentAgain core asid region r = { r with stage := .queued, retries := 0, route := none } := by
  rw [sentAgain, hs]; exact if_pos ⟨hc, ha, hr⟩

theorem sentAgain_of_not_faulted {core : Nat} {asid : BitVec 16} {region : BitVec 36} {r : Req}
    (h : ∀ c w, r.stage ≠ .faulted c w) : sentAgain core asid region r = r := by
  unfold sentAgain
  split
  · exact absurd ‹_› (h _ _)
  · rfl

theorem mem_ownerDrop {l : List OwnerEntry} {asid : BitVec 16} {region : BitVec 36} {e : OwnerEntry} :
    e ∈ ownerDrop l asid region ↔ e ∈ l ∧ ¬ (e.asid = asid ∧ e.region = region) := by
  rw [ownerDrop, List.mem_filter, Bool.not_eq_true', ← Bool.not_eq_true, Bool.and_eq_true, beq_iff_eq, beq_iff_eq]

/-- `ocinv` drops the entry of its region, and its core's FAULTED requests to it are sent again. -/
theorem exec_ocinv_of_full {s : State} {a : Reg} (ha : s.me.isFull a = true) (hx : (s.me.readX a).extractLsb' 57 7 = 0) :
    ∃ t, exec (.ocinv a) s = .next t ∧ t.me = s.me.next ∧ t.mem = s.mem ∧
      t.myCore.owners = ownerDrop s.myCore.owners s.me.asid (regionOf (s.me.readX a).toNat) ∧
      t.reqs = s.reqs.map (sentAgain s.cur.core s.me.asid (regionOf (s.me.readX a).toNat)) := by
  have he : exec (.ocinv a) s = execOcinv a s := rfl
  rw [he, execOcinv, State.reading_one ha]
  simp only [s.isVirtualAddress_of_high _ hx, Bool.not_true, Bool.false_eq_true, if_false]
  refine ⟨_, rfl, ?_, rfl, ?_, rfl⟩
  · rw [State.me_complete]
    exact congrArg Hart.next (State.me_setMyCore s _)
  · rw [State.complete, State.setMe_eq, State.myCore_setMyCore]
    exact congrArg Core.owners (State.myCore_setMyCore s _)

/-! ### `kset` and `kget` (R36, R189) -/

/-- What a read of a k-register sees after a write: the old value up to the die cycle after it, then the new one; other registers
as before (R36). -/
theorem Core.readK_writeK (c : Core) (k j : Fin 8) (v : Word) {now at_ : Nat} (h : now ≤ at_) :
    (c.writeK k v now).readK j at_ = if j ≠ k then c.readK j at_ else if at_ ≤ now + 1 then c.k[j] else v := by
  by_cases hj : j = k
  · subst hj
    rw [if_neg (not_not.2 rfl)]
    unfold Core.writeK Core.readK
    by_cases hc : at_ ≤ now + 1
    · simp [hc]
    · have hnone : (c.kSettle.filter fun w => w.k != j.val && decide (now ≤ w.cycle + 1)).find?
          (fun w => w.k == j.val && decide (at_ ≤ w.cycle + 1)) = none := by
        rw [List.find?_eq_none]
        intro w hw
        have := (List.mem_filter.1 hw).2
        simp only [Bool.and_eq_true, bne_iff_ne] at this
        simp [this.1]
      simp [hc, hnone]
  · have hne : (k.val == j.val) = false := beq_eq_false_iff_ne.2 fun h => hj (Fin.ext h.symm)
    have hsame : (c.kSettle.filter fun w => w.k != k.val && decide (now ≤ w.cycle + 1)).find?
        (fun w => w.k == j.val && decide (at_ ≤ w.cycle + 1)) =
        c.kSettle.find? (fun w => w.k == j.val && decide (at_ ≤ w.cycle + 1)) := by
      rw [List.find?_filter]
      congr 1
      funext w
      by_cases hw : w.k = j.val
      · by_cases hc : at_ ≤ w.cycle + 1
        · have h1 : now ≤ w.cycle + 1 := by omega
          have h2 : w.k ≠ k.val := fun h => hj (Fin.ext (hw.symm.trans h))
          simp [hw ▸ h2, hw, hc, h1]
        · simp [hc]
      · simp [hw]
    have hkeep : (c.k.set k v)[j] = c.k[j] := Vector.getElem_set_ne _ _ fun h => hj (Fin.ext h.symm)
    rw [if_pos hj]
    unfold Core.writeK Core.readK
    simp only [List.find?_cons, hne, Bool.false_and, hsame, hkeep]

/-- `kset` writes its core's register, and its hart goes on. -/
theorem exec_kset_of_full {s : State} {a : Reg} (k : BitVec 3) (ha : s.me.isFull a = true) :
    exec (.kset a k) s = .next ((s.setMyCore (s.myCore.writeK ⟨k.toNat, k.isLt⟩ (s.me.readX a) (s.coreCycle s.cur.core))).complete
      s.me) := by
  have he : exec (.kset a k) s = execKset a k s := rfl
  rw [he, execKset, State.reading_one ha]
  dsimp only
  rw [State.me_setMyCore]
  rfl

/-- Settles O24: `own` through posted requests, `ocinv` by what it filters and sends again, `kset` by what its reads see. -/
theorem ownershipAndSharedRegisters : Obligations.OwnershipAndSharedRegisters := by
  intro s a b d k x y asid region now
  refine ⟨fun ha hb hx h0 h32 h23 h25 h21 => ?_, fun ha hx => ?_, rfl, fun ha => ?_⟩
  · rw [exec_own_of_full ha hb hx (State.migrationOk_of_fields h0 h32 h23 h25 h21)]
    split
    next hfull => rw [State.post, if_pos hfull]
    next hroom =>
      obtain ⟨q, hposts, hme, hmem, -⟩ := State.post_posts (s := s) (clear := fun h => h.empty d) (Bool.eq_false_iff.2 hroom) rfl
        (op := .own y) nofun
      exact ⟨_, q, rfl, hposts, goesOn_of_me hme, hmem⟩
  · obtain ⟨t, ht, hme, hmem, howners, hreqs⟩ := exec_ocinv_of_full ha hx
    rw [regionOf_eq_extract] at howners hreqs
    refine ⟨t, ht, hme, hmem, fun e => by rw [howners]; exact mem_ownerDrop, by rw [hreqs, List.length_map], fun i r hr => ?_⟩
    rw [hreqs, List.getElem?_map, hr]
    refine ⟨fun c w hst hc ha' hreg _ => ?_, fun hst => ?_⟩
    · exact congrArg some (sentAgain_of_faulted hst hc ha' ((regionOf_eq_extract _).trans hreg))
    · exact congrArg some (sentAgain_of_not_faulted hst)
  · have hcore : ((s.setMyCore (s.myCore.writeK ⟨k.toNat, k.isLt⟩ x now)).complete s.me).myCore =
        { s.myCore.writeK ⟨k.toNat, k.isLt⟩ x now with harts := s.myCore.harts.set s.cur.hart s.me.next } := by
      rw [State.complete_setMyCore, State.myCore_setMyCore]; rfl
    refine ⟨_, exec_kset_of_full k ha, State.me_complete _ _, ?_, ?_, fun j c hc => ?_⟩
    · rw [State.complete_setMyCore, State.myCore_setMyCore]
    · rw [hcore, State.me_complete]; rfl
    · rw [hcore]
      refine (Core.readK_writeK s.myCore ⟨k.toNat, k.isLt⟩ j x hc).trans ?_
      simp only [ne_eq, Fin.ext_iff]

end Sys2Proof.Machine
end

section
/-! SUPPORT. Messages and remote tasks (R43, R47, R181 to R184), and the statement MessagesAndRemoteTasks. -/

namespace Sys2Proof.Machine

/-! ### Requests after a release (R125) -/

/-- The issuing hart after a release: only what its later accesses wait for has changed. -/
theorem State.me_release (s : State) (scope : BitVec 2) (dest : Dest) : (s.release s.cur scope dest).1.me = { s.me with
    holdAll := (s.release s.cur scope dest).1.me.holdAll, holdWrites := (s.release s.cur scope dest).1.me.holdWrites } := by
  obtain ⟨r, hr, -⟩ := s.release_eq s.cur scope dest
  rw [hr]
  have := State.me_holdLater (s.addReq r) [] [s.nextId]
  rw [State.addReq_cur] at this
  rw [this]
  rfl

/-- A write that follows a release leads the queue of the state before it too, and waits for the release. -/
theorem posts_of_release {s t : State} {scope : BitVec 2} {d : Dest} {a : Word} {op : ReqOp} {data : List Byte} {arrival : Arrival}
    {dest : Dest} {q : Req} (h : posts (s.release s.cur scope d).1 t a op data arrival dest q) (hw : q.isWrite = true) :
    posts s t a op data arrival dest q ∧ ∃ l ∈ t.reqs, l.kind = .release scope ∧ l.id ∈ q.waits := by
  have hme := s.me_release scope d
  obtain ⟨r, hr, hkind, -, -⟩ := s.release_eq s.cur scope d
  have hheld := State.me_holdLater (s.addReq r) [] [s.nextId]
  rw [State.addReq_cur, State.addReq_me] at hheld
  generalize hs1 : (s.release s.cur scope d).1 = s₁ at h hme
  have hs1' : s₁ = (s.addReq r).holdLater s.cur [] [s.nextId] := by rw [← hs1, hr]
  have hreqs : s₁.reqs = s.reqs ++ [{ r with id := s.nextId }] := by rw [hs1']; rfl
  have hmsgs : s.msgs = s₁.msgs := by rw [hs1']; rfl
  have hcur : s₁.cur = s.cur := by rw [hs1']; rfl
  have hnext : s₁.nextId = s.nextId + 1 := by rw [hs1']; rfl
  have hsub : ∀ q ∈ s.reqs, q ∈ s₁.reqs := fun q hq => hreqs ▸ List.mem_append_left _ hq
  have hkept {l l' : List Nat} {n : Nat} (hn : n ∈ s.outstanding l) :
      n ∈ s₁.outstanding ((s.addReq r).outstanding l ++ l') := by
    have h1 : n ∈ (s.addReq r).outstanding l := State.outstanding_mono (s.mem_addReq r) rfl hn
    rw [State.mem_outstanding] at h1 ⊢
    refine ⟨List.mem_append_left _ (State.mem_outstanding.2 h1), ?_⟩
    rw [hs1']
    exact h1.2
  obtain ⟨hlast, hin, hid, hle, hk, hsrc, hcore, huser, hasid, haddr, hop, hdata, harr, hdest, hstage, hall, hwrites⟩ := h
  rw [← hs1'] at hheld
  have hholdAll : s₁.me.holdAll = (s.addReq r).outstanding s.me.holdAll ++ [] := congrArg Hart.holdAll hheld
  have hholdWrites : s₁.me.holdWrites = (s.addReq r).outstanding s.me.holdWrites ++ [s.nextId] := congrArg Hart.holdWrites hheld
  rw [hholdAll] at hall
  rw [hholdWrites] at hwrites
  refine ⟨⟨hlast, fun q hq => hin q (hsub q hq), hid, by omega, hk, hcur ▸ hsrc, hcur ▸ hcore, ?_, ?_, haddr, hop, hdata, harr, hdest,
    hstage, fun n hn => hall n (hkept hn), fun hw n hn => hwrites hw n (hkept hn)⟩, { r with id := s.nextId }, hin _ ?_, hkind, ?_⟩
  · rw [huser, hme]
  · rw [hasid, hme]
  · rw [hreqs]; exact List.mem_append_right _ List.mem_cons_self
  · refine hwrites hw _ (State.mem_outstanding.2 ⟨List.mem_append_right _ List.mem_cons_self, .inl ⟨{ r with id := s.nextId }, ?_, rfl⟩⟩)
    rw [hreqs]; exact List.mem_append_right _ List.mem_cons_self

/-! ### The record of `callat` (R43, R183) -/

/-- The word of a hart (R163) lies in 30 bits. -/
theorem State.hartWord_lt (s : State) (h : HartRef) : (s.hartWord h).toNat < 2 ^ 30 := by
  have h1 := h.hart.isLt
  have h2 := (dieOf h.core).isLt
  have h3 := s.device.isLt
  have h4 : clusterOf h.core < 80 := by unfold clusterOf; omega
  have h5 : coreInCluster h.core < 16 := Nat.mod_lt _ (by decide)
  unfold State.hartWord
  rw [BitVec.toNat_ofNat]
  omega

/-- The return word holds the hart's word above the number of the q-register (R43). -/
theorem State.returnWord_toNat (s : State) (h : HartRef) (q : BitVec 3) :
    (s.returnWord h q).toNat = 8 * (s.hartWord h).toNat + q.toNat := by
  have hlt := s.hartWord_lt h
  have hq := q.isLt
  unfold State.returnWord
  rw [BitVec.toNat_or, BitVec.toNat_shiftLeft, BitVec.toNat_setWidth, Nat.mod_eq_of_lt (a := q.toNat) (by omega), Nat.shiftLeft_eq,
    Nat.mod_eq_of_lt (by omega), ← Nat.shiftLeft_eq, ← Nat.shiftLeft_add_eq_or_of_lt hq, Nat.shiftLeft_eq]
  omega

/-- The record that `callat` sends: PC, header, return word and four values (R183). -/
theorem State.callatRecord (s : State) (h : HartRef) (q : BitVec 3) (pc v w x y : Word) :
    makeRecord pc 0x3C00 (some (s.returnWord h q)) 0 [v, w, x, y] =
      leBytes pc.toNat 8 ++ leBytes 0x0000040100003C00 8 ++ leBytes (8 * (s.hartWord h).toNat + q.toNat) 8 ++
        leBytes v.toNat 8 ++ leBytes w.toNat 8 ++ leBytes x.toNat 8 ++ leBytes y.toNat 8 := by
  have hh : 0x3C00 % 2 ^ 32 + (if (some (s.returnWord h q)).isSome then 2 ^ 32 else 0) + 2 ^ 40 * [v, w, x, y].length +
      2 ^ 47 * field 0 35 1 + 2 ^ 48 * field 0 36 4 + 2 ^ 52 * field 0 40 8 = 0x0000040100003C00 := by simp [field]
  unfold makeRecord
  dsimp only
  rw [hh, s.returnWord_toNat]
  simp only [List.flatMap_cons, List.flatMap_nil, List.append_nil, List.append_assoc]

/-! ### `hop` (R184) -/

theorem mem_setBits {n m i : Nat} : i ∈ setBits n m ↔ i < n ∧ m.testBit i = true := by
  rw [setBits, List.mem_filter, List.mem_range]

/-- A home address in virtual space passes (R170). -/
theorem State.checkHome_virtual (s : State) (core : Nat) {a : Word} (h : a.extractLsb' 57 7 = 0) : s.checkHome core a = .ok := by
  unfold State.checkHome
  rw [s.place_virtual core h, field_eq_zero_of_high h (show 57 ≤ 60 by decide)]
  rfl

/-- A one-bit field is its bit. -/
theorem field_one (w : Word) (n : Nat) : field w n 1 = if w.getLsbD n then 1 else 0 := by
  rw [field, ← Nat.shiftRight_eq_div_pow, BitVec.getLsbD, Nat.testBit]
  have h := Nat.mod_two_eq_zero_or_one (w.toNat >>> n)
  rw [Nat.one_and_eq_mod_two]
  rcases h with h | h <;> simp [h]

/-- A live mask within the limits of R184. -/
theorem liveMaskOk_of_fields {mask taskret : Word} (h0 : mask.getLsbD 0 = false) (h32 : mask.extractLsb' 32 32 = 0)
    (hn : ((List.range 32).filter fun i => mask.getLsbD i).length + (if taskret.getLsbD 63 then 1 else 0) ≤ 16) :
    liveMaskOk mask taskret = true := by
  have hbits : setBits 32 mask.toNat = (List.range 32).filter fun i => mask.getLsbD i := rfl
  unfold liveMaskOk bitOf
  rw [hbits, field_one, field_eq_zero h32, h0, decide_eq_true hn]
  rfl

/-- The registers that a mask names are full where every register whose bit is set is. -/
theorem Hart.liveRegisters_full {v : Hart} {mask : Word} (h : ∀ r : Reg, mask.getLsbD r.toNat = true → v.isFull r = true) :
    ∀ r ∈ (setBits 32 mask.toNat).map (BitVec.ofNat 5), v.isFull r = true := by
  intro r hr
  obtain ⟨i, hi, rfl⟩ := List.mem_map.1 hr
  obtain ⟨hlt, hbit⟩ := mem_setBits.1 hi
  refine h _ ?_
  rwa [BitVec.toNat_ofNat, Nat.mod_eq_of_lt (by omega)]

theorem exec_msend_of_full {s : State} {a b : Reg} (q : BitVec 3) (ha : s.me.isFull a = true) (hb : s.me.isFull b = true) :
    exec (.msend b a q) s = .next (
      if field (s.me.readX a) 0 3 ≠ 0 ∨ field (s.me.readX a) 33 31 ≠ 0 then s.operand a
      else s.post { s.messageReq s.cur (s.me.readX a ||| q.zeroExtend 64) (s.me.readX b) with addr := s.me.readX a } id) := by
  have he : exec (.msend b a q) s = execMsend b a q s := rfl
  rw [he, execMsend, State.reading_two ha hb]

/-- `callat` to a home in virtual space (R183). -/
theorem exec_callat_of_full {s : State} {a b : Reg} (p : BitVec 2) (q : BitVec 3)
    (hf : ∀ r ∈ [a, b, 10, 11, 12, 13], s.me.isFull r = true) (hx : (s.me.readX a).extractLsb' 57 7 = 0)
    (hy : (s.me.readX b).extractLsb' 0 2 = 0) :
    exec (.callat b a p q) s = .next (if s.niFull s.cur.core then s
      else (s.release s.cur 3 .none).1.post { (s.release s.cur 3 .none).1.hartReq s.cur with
      addr := s.me.readX a, op := .record p false, dest := .qreg q, data := makeRecord (s.me.readX b) 0x3C00
        (some (s.returnWord s.cur q)) 0 [s.me.readX 10, s.me.readX 11, s.me.readX 12, s.me.readX 13] }
      (fun (h : Hart) => h.emptyQ q)) := by
  have he : exec (.callat b a p q) s = execCallat b a p q s := rfl
  rw [he, execCallat, State.reading_full hf]
  simp only [s.checkHome_virtual _ hx, field_eq_zero hy]
  rfl

/-- `hop` of a hart with a free mask, a virtual home and full live registers (R184). -/
theorem exec_hop_of_full {s : State} {a b : Reg} (h0 : s.cur.hart ≠ 0) (ha : s.me.isFull a = true) (hb : s.me.isFull b = true)
    (hx : (s.me.readX a).extractLsb' 57 7 = 0) (hup : s.me.csr.upstat.getLsbD 0 = false)
    (hm : liveMaskOk (s.me.readX b) s.me.csr.taskret = true)
    (hlive : ∀ r ∈ (setBits 32 (s.me.readX b).toNat).map (BitVec.ofNat 5), s.me.isFull r = true) :
    exec (.hop b a) s = .next (if s.me.flights = [] then
        s.setMe { s.me with job := .hopping (s.me.readX a) ((s.me.readX b).extractLsb' 0 32) 0 } else s.park .drain) := by
  have he : exec (.hop b a) s = execHop b a s := rfl
  have hup' : bitOf s.me.csr.upstat 0 = false := hup
  rw [he, execHop, if_neg h0, State.reading_two ha hb]
  dsimp only
  rw [hup', s.checkHome_virtual _ hx, State.reading_full hlive, hm]
  simp

/-- `hop` of hart 0 takes code 0x02 (R184). -/
theorem exec_hop_of_hart0 {s : State} (a b : Reg) (h0 : s.cur.hart = 0) : exec (.hop b a) s = .next (s.trapCode 0x02 0) := by
  have he : exec (.hop b a) s = execHop b a s := rfl
  rw [he, execHop, if_pos h0]

/-- Settles O23: `msend` and `callat` as posted requests, the latter after a release; `qmov` and `hop` case by case. -/
theorem messagesAndRemoteTasks : Obligations.MessagesAndRemoteTasks := by
  intro s a b d q p x y sends target record
  refine ⟨fun ha hb => ⟨fun h0 h33 => ?_, fun hbad => ?_, fun hx hy hregs => ?_, fun h0 hx hup hm0 hm32 hn hlive => ?_⟩,
    fun h0 => trapsWith_of_trapCode (exec_hop_of_hart0 a b h0), ?_⟩
  · have hok : ¬ (field x 0 3 ≠ 0 ∨ field x 33 31 ≠ 0) := by simp [field_eq_zero h0, field_eq_zero h33]
    dsimp only [sends]
    rw [exec_msend_of_full q ha hb, if_neg hok]
    split
    next hfull => rw [State.post, if_pos hfull]
    next hroom =>
      obtain ⟨r, hposts, hme, hmem, -⟩ := State.post_posts (s := s) (clear := id) (Bool.eq_false_iff.2 hroom) rfl
        (op := .message target y) nofun
      exact ⟨_, r, rfl, hposts, goesOn_of_me hme, hmem, trivial⟩
  · have hbad' : field x 0 3 ≠ 0 ∨ field x 33 31 ≠ 0 := by
      rw [field_eq_extract, field_eq_extract]
      exact hbad.imp (fun h he => h (BitVec.eq_of_toNat_eq he)) (fun h he => h (BitVec.eq_of_toNat_eq he))
    exact trapsWith_of_operand (by rw [exec_msend_of_full q ha hb, if_pos hbad'])
  · have hf : ∀ r ∈ [a, b, 10, 11, 12, 13], s.me.isFull r = true := List.forall_mem_cons.2 ⟨ha, List.forall_mem_cons.2 ⟨hb, hregs⟩⟩
    dsimp only [sends]
    split
    next hfull => rw [exec_callat_of_full p q hf hx hy, if_pos hfull]
    next hroom =>
      rw [exec_callat_of_full p q hf hx hy, if_neg hroom]
      obtain ⟨l, hl, hkind, -⟩ := s.release_eq s.cur 3 .none
      have hcur : (s.release s.cur 3 .none).1.cur = s.cur := by rw [hl]; rfl
      have hroom' : (s.release s.cur 3 .none).1.niFull (s.release s.cur 3 .none).1.cur.core = false := by
        rw [hcur, State.niFull_addReq (s := s) (r := l) (by rw [hkind]; nofun) (by rw [hl]; rfl)]
        exact Bool.eq_false_iff.2 hroom
      obtain ⟨r, hposts, hme, hmem, -⟩ := State.post_posts (clear := fun h => h.emptyQ q) hroom' rfl (a := x) (op := .record p false)
        (data := record) (dest := .qreg q) nofun
      have hw : r.isWrite = true := by
        obtain ⟨-, -, -, -, -, -, -, -, -, -, hop, -⟩ := hposts
        rw [Req.isWrite, hop]
      obtain ⟨hposts', hrel⟩ := posts_of_release hposts hw
      rw [hcur] at hposts' hrel hme hmem
      refine ⟨_, r, ?_, hposts', ?_, ?_, hrel⟩
      · rw [s.callatRecord]
      · unfold goesOn
        rw [hme, s.me_release]
        rfl
      · rw [hmem, hl]; rfl
  · rw [exec_hop_of_full h0 ha hb hx hup (liveMaskOk_of_fields hm0 hm32 hn) (Hart.liveRegisters_full hlive)]
    split
    next hdone => rfl
    next hbusy =>
      obtain ⟨hframe, hst, hwait, hpc, -⟩ := s.park_frame .drain
      exact ⟨_, rfl, hframe, hst, hwait, hpc⟩
  · have he : exec (.qmov q d) s = execQmov q d s := rfl
    rw [he, execQmov, Hart.qIsFull]
    split
    next hq => rfl
    next hq =>
      obtain ⟨hframe, hst, hwait, hpc, hxs, -⟩ := s.park_frame (.qreg q)
      exact ⟨_, rfl, hframe, hst, hwait, hpc, hxs⟩

end Sys2Proof.Machine
end

section
/-! SUPPORT. Barriers and combining reductions at the hart (R54, R55, R129, R190, R191), and the statement BarriersAndReductions. -/

namespace Sys2Proof.Machine

/-! ### The arrivals of a core (R55) -/

@[simp] theorem Core.arrivalsOf_gid (c : Core) (gid : BitVec 8) : (c.arrivalsOf gid).gid = gid := by
  unfold Core.arrivalsOf
  cases h : c.arrivals.find? (fun a => a.gid == gid) with
  | none => rfl
  | some a => simpa using List.find?_some h

theorem Core.arrivalsOf_setArrivals (c : Core) {a : CoreArrivals} {gid : BitVec 8} (h : a.gid = gid) :
    (c.setArrivals a).arrivalsOf gid = a := by
  unfold Core.setArrivals Core.arrivalsOf
  simp [h]

theorem Core.arrivalsOf_congr {c d : Core} (h : c.arrivals = d.arrivals) (gid : BitVec 8) : c.arrivalsOf gid = d.arrivalsOf gid := by
  unfold Core.arrivalsOf; rw [h]

@[simp] theorem CoreArrivals.plus_gid (a : CoreArrivals) (kind : Option (Fin 3)) (v : Word) (n : Nat) :
    (a.plus kind v n).gid = a.gid := by
  unfold CoreArrivals.plus
  dsimp only
  split <;> rfl

@[simp] theorem CoreArrivals.plus_reported (a : CoreArrivals) (kind : Option (Fin 3)) (v : Word) (n : Nat) :
    (a.plus kind v n).reported = a.reported := by
  unfold CoreArrivals.plus
  dsimp only
  split <;> rfl

@[simp] theorem CoreArrivals.plus_count (a : CoreArrivals) (kind : Option (Fin 3)) (v : Word) (n : Nat) :
    (a.plus kind v n).count = a.count + 1 := by
  unfold CoreArrivals.plus
  dsimp only
  split <;> rfl

/-- A core whose harts stay keeps every hart. -/
theorem State.hart_setCore_of_harts (s : State) {core : Nat} {c : Core} (h : c.harts = (s.core core).harts) (g : HartRef) :
    (s.setCore core c).hart g = s.hart g := by
  unfold State.hart
  by_cases hc : g.core = core
  · subst hc; rw [State.core_setCore_same, h]
  · rw [State.core_setCore_other _ _ hc]

/-- The report of a core: the harts, the requests and memory stay; the group is reported as its PART harts have arrived (R55). -/
theorem State.reportArrivals_spec (s : State) (core : Nat) (gid : BitVec 8) (part : Nat) :
    (∀ h, (s.reportArrivals core gid part).hart h = s.hart h) ∧ (s.reportArrivals core gid part).mem = s.mem ∧
    (s.reportArrivals core gid part).reqs = s.reqs ∧ (s.reportArrivals core gid part).cur = s.cur ∧
    ((s.reportArrivals core gid part).core core).arrivalsOf gid = { (s.core core).arrivalsOf gid with
      reported := ((s.core core).arrivalsOf gid).reported || decide (part ≤ ((s.core core).arrivalsOf gid).count) } ∧
    (((s.core core).arrivalsOf gid).reported = false → part ≤ ((s.core core).arrivalsOf gid).count →
      ∃ m ∈ (s.reportArrivals core gid part).msgs, ∃ l, m.body = .barrierReport ((s.core core).ctx.getD 0) gid core
        ((s.core core).arrivalsOf gid).sum ((s.core core).arrivalsOf gid).max ((s.core core).arrivalsOf gid).min l) := by
  have hgid := (s.core core).arrivalsOf_gid gid
  unfold State.reportArrivals
  dsimp only
  generalize ha : (s.core core).arrivalsOf gid = a at hgid
  split
  next h =>
    refine ⟨fun g => s.hart_setCore_of_harts (by rfl) g, rfl, rfl, rfl, ?_, fun _ _ => ⟨_, List.mem_append_right _ List.mem_cons_self,
      _, rfl⟩⟩
    have hcore : ((s.setCore core ((s.core core).setArrivals { a with reported := true })).core core).arrivalsOf gid =
        { a with reported := true } := by
      rw [State.core_setCore_same]
      exact Core.arrivalsOf_setArrivals _ (a := { a with reported := true }) hgid
    refine hcore.trans ?_
    simp [h.1]
  next h =>
    refine ⟨fun _ => rfl, rfl, rfl, rfl, ?_, fun hr hp => absurd ⟨hp, by simp [hr]⟩ h⟩
    rw [ha]
    by_cases hp : part ≤ a.count
    · have hr : a.reported = true := by simpa [hp] using h
      rw [hr, Bool.true_or, ← hr]
    · simp [hp]

/-! ### The arrival of a hart (R55, R129, R191) -/

/-- The hart and the core of a state whose hart has only more to wait for (R124, R125). -/
def waitsMore (s t : State) : Prop :=
  t.cur = s.cur ∧ t.mem = s.mem ∧ t.msgs = s.msgs ∧
  t.me = { s.me with holdAll := t.me.holdAll, holdWrites := t.me.holdWrites } ∧
  t.myCore.arrivals = s.myCore.arrivals ∧ t.myCore.ctx = s.myCore.ctx

theorem waitsMore_trans {s t u : State} (h : waitsMore s t) (h' : waitsMore t u) : waitsMore s u := by
  obtain ⟨hcur, hmem, hmsgs, hme, harr, hctx⟩ := h
  obtain ⟨hcur', hmem', hmsgs', hme', harr', hctx'⟩ := h'
  exact ⟨hcur'.trans hcur, hmem'.trans hmem, hmsgs'.trans hmsgs, by rw [hme', hme], harr'.trans harr, hctx'.trans hctx⟩

theorem waitsMore_holdLater (s : State) (r : Req) (l w : List Nat) : waitsMore s ((s.addReq r).holdLater s.cur l w) := by
  have hme : ((s.addReq r).holdLater s.cur l w).me = _ := State.me_holdLater (s.addReq r) l w
  have hcore : ((s.addReq r).holdLater s.cur l w).myCore = _ := State.core_setCore_same _ _ _
  exact ⟨rfl, rfl, rfl, by rw [hme]; rfl, by rw [hcore]; rfl, by rw [hcore]; rfl⟩

theorem waitsMore_release (s : State) (scope : BitVec 2) (dest : Dest) : waitsMore s (s.release s.cur scope dest).1 := by
  obtain ⟨r, hr, -⟩ := s.release_eq s.cur scope dest
  rw [hr]
  exact waitsMore_holdLater s r _ _

/-- The state in which a hart counts its arrival: after its release, and with the request that fills rd (R129, R191). -/
def State.heldFor (s : State) (kind : Option (Fin 3)) (rd : Reg) : State :=
  let t := (s.release s.cur 2 .none).1
  match kind with
  | none => t
  | some _ => (t.addReq { t.hartReq t.cur with
      kind := .acquire, op := .arrivalOnly, waits := [t.nextId], dest := .xreg rd true }).holdLater t.cur [t.nextId] []

/-- What stands before an arrival counts: its release, and for a combining instruction the request that fills rd. -/
theorem State.heldFor_spec (s : State) (kind : Option (Fin 3)) (rd : Reg) :
    waitsMore s (s.heldFor kind rd) ∧
    (∃ q ∈ (s.heldFor kind rd).reqs, q.kind = .release 2 ∧ q.src = .hart s.cur ∧ q.id = s.nextId) ∧
    (kind ≠ none → ∃ r ∈ (s.heldFor kind rd).reqs, r.id = s.nextId + 1 ∧ r.kind = .acquire ∧ r.dest = .xreg rd true ∧
      r.id ∈ (s.heldFor kind rd).me.holdAll) := by
  have hw := waitsMore_release s 2 .none
  obtain ⟨q, hq, hkind, hsrc, -⟩ := s.release_eq s.cur 2 .none
  have hreqs : (s.release s.cur 2 .none).1.reqs = s.reqs ++ [{ q with id := s.nextId }] := by rw [hq]; rfl
  have hnext : (s.release s.cur 2 .none).1.nextId = s.nextId + 1 := by rw [hq]; rfl
  have hin : { q with id := s.nextId } ∈ (s.release s.cur 2 .none).1.reqs := by
    rw [hreqs]; exact List.mem_append_right _ List.mem_cons_self
  unfold State.heldFor
  generalize (s.release s.cur 2 .none).1 = t at hw hnext hin
  cases kind with
  | none => exact ⟨hw, ⟨_, hin, hkind, hsrc, rfl⟩, fun h => absurd rfl h⟩
  | some k =>
    dsimp only
    refine ⟨waitsMore_trans hw (waitsMore_holdLater t _ _ _), ⟨_, State.mem_addReq _ _ _ hin, hkind, hsrc, rfl⟩,
      fun _ => ⟨_, List.mem_append_right _ List.mem_cons_self, hnext, rfl, rfl, ?_⟩⟩
    have hme := State.me_holdLater (t.addReq { t.hartReq t.cur with
      kind := .acquire, op := .arrivalOnly, waits := [t.nextId], dest := .xreg rd true }) [t.nextId] []
    rw [State.addReq_cur] at hme
    rw [hme]
    exact List.mem_append_right _ List.mem_cons_self

/-- An arrival as it counts: from the state that its release leaves. -/
theorem State.arrive_eq (s : State) (gid : BitVec 8) (part : Nat) (kind : Option (Fin 3)) (v : Word) (rd : Reg) :
    s.arrive gid part kind v rd =
      (((s.heldFor kind rd).setMyCore ((s.heldFor kind rd).myCore.setArrivals
        (((s.heldFor kind rd).myCore.arrivalsOf gid).plus kind v s.nextId))).setMe
        { (s.heldFor kind rd).me with
          arrived := some ⟨gid, kind, rd, if kind.isNone then 0 else s.nextId + 1, if kind.isNone then some s.me.pc else none⟩
        }).reportArrivals s.cur.core gid part := by
  obtain ⟨hcur, -, -, hme, -, -⟩ := (s.heldFor_spec kind rd).1
  have hpc : (s.heldFor kind rd).me.pc = s.me.pc := by rw [hme]
  have hme' (a : CoreArrivals) : ((s.heldFor kind rd).setMyCore ((s.heldFor kind rd).myCore.setArrivals a)).me =
    (s.heldFor kind rd).me := State.me_setMyCore _ _
  have he : s.arrive gid part kind v rd = (((s.heldFor kind rd).setMyCore ((s.heldFor kind rd).myCore.setArrivals
        (((s.heldFor kind rd).myCore.arrivalsOf gid).plus kind v s.nextId))).setMe
        { ((s.heldFor kind rd).setMyCore ((s.heldFor kind rd).myCore.setArrivals
            (((s.heldFor kind rd).myCore.arrivalsOf gid).plus kind v s.nextId))).me with
          arrived := some ⟨gid, kind, rd, if kind.isNone then 0 else s.nextId + 1,
            if kind.isNone then some ((s.heldFor kind rd).setMyCore ((s.heldFor kind rd).myCore.setArrivals
              (((s.heldFor kind rd).myCore.arrivalsOf gid).plus kind v s.nextId))).me.pc else none⟩
        }).reportArrivals (s.heldFor kind rd).cur.core gid part := by
    cases kind <;> rfl
  rw [he, hme', hpc, hcur]

/-- What an arrival does (R55, R129): its release stands, the hart names it, and its core counts it and reports once PART harts
have arrived. -/
theorem State.arrive_spec (s : State) (gid : BitVec 8) (part : Nat) (kind : Option (Fin 3)) (v : Word) (rd : Reg) :
    let t := s.arrive gid part kind v rd
    let new := (s.myCore.arrivalsOf gid).plus kind v s.nextId
    t.cur = s.cur ∧ t.mem = s.mem ∧
    (∃ q ∈ t.reqs, q.kind = .release 2 ∧ q.src = .hart s.cur ∧ q.id = s.nextId) ∧
    t.me = { s.me with
      holdAll := t.me.holdAll, holdWrites := t.me.holdWrites
      arrived := some ⟨gid, kind, rd, if kind.isNone then 0 else s.nextId + 1, if kind.isNone then some s.me.pc else none⟩ } ∧
    t.myCore.arrivalsOf gid = { new with reported := new.reported || decide (part ≤ new.count) } ∧
    (kind ≠ none → ∃ r ∈ t.reqs, r.id = s.nextId + 1 ∧ r.kind = .acquire ∧ r.dest = .xreg rd true ∧ r.id ∈ t.me.holdAll) ∧
    (new.reported = false → part ≤ new.count → ∃ m ∈ t.msgs, ∃ l,
      m.body = .barrierReport (s.myCore.ctx.getD 0) gid s.cur.core new.sum new.max new.min l) := by
  intro t new
  obtain ⟨⟨hcur, hmem, -, hme, harr, hctx⟩, hq, hr⟩ := s.heldFor_spec kind rd
  have ht : t = _ := s.arrive_eq gid part kind v rd
  clear_value t
  rw [Core.arrivalsOf_congr harr gid] at ht
  change t = (((s.heldFor kind rd).setMyCore ((s.heldFor kind rd).myCore.setArrivals new)).setMe _).reportArrivals _ _ _ at ht
  generalize s.heldFor kind rd = u at *
  generalize hv : ({ u.me with
    arrived := some ⟨gid, kind, rd, if kind.isNone then 0 else s.nextId + 1, if kind.isNone then some s.me.pc else none⟩ } : Hart) = v' at ht
  have hcore : (((u.setMyCore (u.myCore.setArrivals new)).setMe v').core s.cur.core) =
      { u.myCore.setArrivals new with harts := (u.myCore.setArrivals new).harts.set u.cur.hart v' } := by
    rw [← hcur, State.setMe_eq, State.myCore_setMyCore]
    exact State.myCore_setMyCore _ _
  obtain ⟨hhart, htmem, htreqs, htcur, hnew, hreport⟩ :=
    ((u.setMyCore (u.myCore.setArrivals new)).setMe v').reportArrivals_spec s.cur.core gid part
  rw [← ht] at hhart htmem htreqs htcur hnew hreport
  have hof : (((u.setMyCore (u.myCore.setArrivals new)).setMe v').core s.cur.core).arrivalsOf gid = new := by
    rw [hcore]
    exact Core.arrivalsOf_setArrivals u.myCore (by simp [new])
  have hctx' : (((u.setMyCore (u.myCore.setArrivals new)).setMe v').core s.cur.core).ctx = s.myCore.ctx := by
    rw [hcore]; exact hctx
  rw [hof] at hnew hreport
  rw [hctx'] at hreport
  have htcur' : t.cur = s.cur := htcur.trans hcur
  have htme : t.me = v' := by
    rw [State.me, htcur, hhart]
    exact State.me_setMe _ _
  refine ⟨htcur', htmem.trans hmem, by rw [htreqs]; exact hq, ?_, ?_, fun h => ?_, hreport⟩
  · rw [htme, ← hv, hme]
  · rw [State.myCore, htcur']; exact hnew
  · obtain ⟨r, hin, h1, h2, h3, h4⟩ := hr h
    exact ⟨r, htreqs ▸ hin, h1, h2, h3, by rw [htme, ← hv]; exact h4⟩

/-! ### The instructions (R190, R191) -/

/-- A word that holds a group number alone. -/
theorem groupNumber_fields (gid : BitVec 8) :
    field (gid.zeroExtend 64) 8 56 = 0 ∧ (gid.zeroExtend 64).extractLsb' 0 8 = gid := by
  have := gid.isLt
  refine ⟨by rw [field, BitVec.toNat_setWidth]; omega, BitVec.eq_of_toNat_eq ?_⟩
  rw [BitVec.extractLsb'_toNat, BitVec.toNat_setWidth, Nat.shiftRight_zero]; omega

/-- A barrier or combining instruction of a group that its core belongs to performs. -/
theorem State.onGroup_member {s : State} {a : Reg} {rs : List Reg} {gid : BitVec 8} {w : Word} (perform : BitVec 8 → Nat → State)
    (hf : ∀ r ∈ a :: rs, s.me.isFull r = true) (hg : s.me.readX a = gid.zeroExtend 64) (hw : s.myCore.membership gid = some w) :
    s.onGroup a rs perform = perform gid (groupPart w) := by
  obtain ⟨hhigh, hlow⟩ := groupNumber_fields gid
  unfold State.onGroup
  rw [State.reading_full hf, hg]
  simp only [hhigh, hlow, hw, ne_eq, not_true_eq_false, if_false]

/-- One of a group that its core does not belong to takes code 0x06. -/
theorem State.onGroup_foreign {s : State} {a : Reg} {rs : List Reg} {gid : BitVec 8} (perform : BitVec 8 → Nat → State)
    (hf : ∀ r ∈ a :: rs, s.me.isFull r = true) (hg : s.me.readX a = gid.zeroExtend 64) (hw : s.myCore.membership gid = none) :
    s.onGroup a rs perform = s.trapCode 0x06 gid := by
  obtain ⟨hhigh, hlow⟩ := groupNumber_fields gid
  unfold State.onGroup
  rw [State.reading_full hf, hg]
  simp only [hhigh, hlow, hw, ne_eq, not_true_eq_false, if_false]

/-- A core reads the same arrivals whatever its issuing hart is. -/
theorem State.arrivalsOf_setMe (s : State) (v : Hart) (gid : BitVec 8) :
    (s.setMe v).myCore.arrivalsOf gid = s.myCore.arrivalsOf gid := by
  rw [State.setMe_eq, State.myCore_setMyCore]
  exact Core.arrivalsOf_congr rfl gid

theorem exec_gbar_of_member {s : State} {a : Reg} {gid : BitVec 8} {w : Word} (ha : s.me.isFull a = true)
    (hg : s.me.readX a = gid.zeroExtend 64) (hw : s.myCore.membership gid = some w) :
    exec (.gbar a) s = .next (
      if (gid, s.me.pc) ∈ s.me.gbars then s.complete { s.me with gbars := s.me.gbars.erase (gid, s.me.pc) }
      else match s.me.arrived with
        | some r => if r.gid = gid ∧ r.gbar = some s.me.pc then s.park .barrier else s.park .arrival
        | none => (s.arrive gid (groupPart w) none 0 0).park .barrier) := by
  have he : exec (.gbar a) s = execGbar a s := rfl
  rw [he, execGbar, State.onGroup_member _ (by simpa using ha) hg hw]
  simp only [List.contains_iff_mem] <;> rfl

/-- A combining instruction of a hart with no arrival outstanding counts its arrival and goes on, rd empty. -/
theorem State.combining_member {s : State} (kind : Fin 3) {a b : Reg} (d : Reg) {gid : BitVec 8} {w : Word}
    (ha : s.me.isFull a = true) (hb : s.me.isFull b = true) (hg : s.me.readX a = gid.zeroExtend 64)
    (hw : s.myCore.membership gid = some w) (harr : s.me.arrived = none) :
    s.combining kind b a d = (s.arrive gid (groupPart w) (some kind) (s.me.readX b) d).complete
      ((s.arrive gid (groupPart w) (some kind) (s.me.readX b) d).me.empty d) := by
  unfold State.combining
  rw [State.onGroup_member _ (by simpa using ⟨ha, hb⟩) hg hw]
  simp only [harr, Option.isSome_none, Bool.false_eq_true, if_false]

/-- The registers of a hart and what is outstanding do not matter to what is full after an `empty` (R168). -/
theorem Hart.xFull_empty {v w : Hart} (h : v.xFull = w.xFull) (d : Reg) : (v.empty d).xFull = (w.empty d).xFull := by
  unfold Hart.empty
  split
  · exact h
  · exact congrArg (· &&& _) h

/-- Settles O25: each instruction counts its arrival as `State.arrive_spec` says. -/
theorem barriersAndReductions : Obligations.BarriersAndReductions := by
  intro s a b d gid w c old here arrives joined ha hg
  have hpart : groupPart w = (w.extractLsb' 34 5).toNat := field_eq_extract w 34 5
  have hfresh (hids : ∀ r ∈ s.reqs, r.id < s.nextId) : s.nextId ∉ s.reqs.map (·.id) := by
    intro h
    obtain ⟨r, hr, hid⟩ := List.mem_map.1 h
    have := hids r hr
    omega
  refine ⟨fun hw hids harr => ⟨fun hhere => ?_, fun hb => ?_⟩, fun hw hhere => ?_, fun hw hhere o ho => ?_, fun hw => ⟨?_, fun hb => ?_⟩⟩
  · have he : exec (.gbar a) s = .next ((s.arrive gid (groupPart w) none 0 0).park .barrier) := by
      rw [exec_gbar_of_member ha hg hw, if_neg hhere, harr]
    obtain ⟨-, hmem, ⟨q, hq, hkind, hsrc, hid⟩, hme, hnew, -, hreport⟩ := s.arrive_spec gid (groupPart w) none 0 0
    obtain ⟨hframe, hst, hwait, hpc, hx, hxFull⟩ := (s.arrive gid (groupPart w) none 0 0).park_frame .barrier
    refine ⟨_, q, he, hmem, ⟨hq, hkind, hsrc, hid ▸ hfresh hids⟩, ?_, ?_, fun _ => ⟨hst, hwait, ?_, ?_, ?_⟩, fun h => absurd rfl h,
      fun hr hp => ?_⟩
    · rw [State.me_park]; exact congrArg Hart.arrived hme
    · refine (State.arrivalsOf_setMe _ _ _).trans (hnew.trans ?_)
      simp [CoreArrivals.plus, old, c, hid, hpart]
    · rw [hpc, hme]
    · rw [hx, hme]
    · rw [hxFull, hme]
    · exact hreport hr (hpart ▸ hp)
  · have hcomb (i : Instr) (k : Fin 3) (new : CoreArrivals) (he : exec i s = .next (s.combining k b a d))
        (hplus : (old.plus (some k) (s.me.readX b) s.nextId) = { new with
          gid := gid, count := old.count + 1, releases := s.nextId :: old.releases, reported := old.reported }) :
        arrives i (some k) new := by
      obtain ⟨-, hmem, ⟨q, hq, hkind, hsrc, hid⟩, hme, hnew, hfill, hreport⟩ :=
        s.arrive_spec gid (groupPart w) (some k) (s.me.readX b) d
      rw [State.combining_member k d ha hb hg hw harr] at he
      generalize s.arrive gid (groupPart w) (some k) (s.me.readX b) d = t at *
      obtain ⟨hpc, hx, hxFull⟩ : (t.me.empty d).pc = s.me.pc ∧ (t.me.empty d).x = s.me.x ∧ t.me.xFull = s.me.xFull := by
        rw [Hart.empty_pc, Hart.empty_x, hme]; exact ⟨rfl, rfl, rfl⟩
      obtain ⟨r, hr, hrid, hrkind, hrdest, hrhold⟩ := hfill nofun
      change _ = _ at hplus
      rw [hplus] at hnew hreport
      refine ⟨_, q, he, hmem, ⟨hq, hkind, hsrc, hid ▸ hfresh hids⟩, ?_, ?_, nofun, fun _ => ⟨?_, ?_, ?_, r, hr, by rw [hrid, hid],
        hrkind, hrdest, ?_⟩, fun hr hp => ?_⟩
      · rw [State.me_complete, hid]
        exact (Hart.empty_arrived _ _).trans (congrArg Hart.arrived hme)
      · refine (State.arrivalsOf_setMe _ _ _).trans (hnew.trans ?_)
        rw [hid, hpart]
      · rw [State.me_complete]; exact congrArg (· + 4) hpc
      · rw [State.me_complete]; exact hx
      · rw [State.me_complete]; exact Hart.xFull_empty hxFull d
      · rw [State.me_complete]; exact (Hart.empty_holdAll _ _).symm ▸ hrhold
      · exact hreport hr (hpart ▸ hp)
    have hgid : old.gid = gid := c.arrivalsOf_gid gid
    have hjoined (k : Fin 3) (x : Option Word) : combineOpt k x (some (s.me.readX b)) = joined (combineWord k) x := by
      cases x <;> rfl
    refine ⟨hcomb _ 0 _ rfl ?_, hcomb _ 1 _ rfl ?_, hcomb _ 2 _ rfl ?_⟩
    · simp only [CoreArrivals.plus, hjoined, hgid]; rfl
    · simp only [CoreArrivals.plus, hjoined, hgid]; rfl
    · simp only [CoreArrivals.plus, hjoined, hgid]; rfl
  · rw [exec_gbar_of_member ha hg hw, if_pos hhere]; rfl
  · have hpark (x : Wait) : s.park x = s.setMe (s.park x).me ∧ (s.park x).me.st = .parked ∧ (s.park x).me.pc = s.me.pc ∧
        (s.park x).me.arrived = some o := by
      obtain ⟨hframe, hst, -, hpc, -⟩ := s.park_frame x
      exact ⟨hframe, hst, hpc, by rw [State.me_park]; exact ho⟩
    rw [exec_gbar_of_member ha hg hw, if_neg hhere, ho]
    dsimp only
    split
    · exact ⟨_, rfl, hpark _⟩
    · exact ⟨_, rfl, hpark _⟩
  · refine trapsWith_of_trapCode (?_ : execGbar a s = _)
    rw [execGbar, State.onGroup_foreign _ (by simpa using ha) hg hw]
  · have htrap (k : Fin 3) : s.combining k b a d = s.trapCode 0x06 gid := State.onGroup_foreign _ (by simpa using ⟨ha, hb⟩) hg hw
    exact ⟨trapsWith_of_trapCode (congrArg _ (htrap 0)), trapsWith_of_trapCode (congrArg _ (htrap 1)),
      trapsWith_of_trapCode (congrArg _ (htrap 2))⟩

end Sys2Proof.Machine
end

section
/-! SUPPORT. What a write of memory does to the harts and cores: reservations are lost and watch entries cleared, and nothing else
(R78, R160, R171). -/

namespace Sys2Proof.Machine

/-! ### Reservations (R160) -/

/-- A core but for the reservations of its harts. -/
def sameButReservations (c d : Core) : Prop :=
  d = { c with harts := d.harts } ∧ ∀ i : HartId, d.harts[i] = { c.harts[i] with resv := d.harts[i].resv }

theorem sameButReservations_refl (c : Core) : sameButReservations c c := ⟨rfl, fun _ => rfl⟩

theorem sameButReservations_mapHarts (c : Core) {f : Hart → Hart} (hf : ∀ v, f v = { v with resv := (f v).resv }) :
    sameButReservations c (c.mapHarts f) := by
  refine ⟨rfl, fun i => ?_⟩
  have hi : (c.mapHarts f).harts[i] = f c.harts[i] := getElem_foldl_set_finRange (fun _ => f) c.harts i
  rw [hi]
  exact hf _

theorem tableGet_map {α β : Type} (f : α → β) (l : List (Nat × α)) (k : Nat) :
    tableGet (l.map fun p => (p.1, f p.2)) k = (tableGet l k).map f := by
  induction l with
  | nil => rfl
  | cons p r ih =>
    rw [List.map_cons, tableGet, tableGet]
    split
    · rfl
    · exact ih

/-- A hart after a write at keys: its reservation is lost where its granule is among them. -/
def Hart.reservationAfter (keys : List Nat) (h : Hart) : Hart :=
  match h.resv with
  | some r => if keys.any (fun k => k / 8 * 8 == r.key) then { h with resv := none } else h
  | none => h

theorem Hart.reservationAfter_eq (keys : List Nat) (h : Hart) :
    h.reservationAfter keys = { h with resv := (h.reservationAfter keys).resv } := by
  unfold Hart.reservationAfter
  split
  · split <;> rfl
  · rfl

theorem State.core_breakReservations (s : State) (keys : List Nat) (c : Nat) :
    sameButReservations (s.core c) ((s.breakReservations keys).core c) := by
  have hcore : (s.breakReservations keys).core c =
      (tableGet (s.cores.map fun p => (p.1, p.2.mapHarts (Hart.reservationAfter keys))) c).getD Core.reset := rfl
  rw [hcore, tableGet_map (fun v : Core => v.mapHarts (Hart.reservationAfter keys)), State.core]
  cases tableGet s.cores c with
  | none => exact sameButReservations_refl _
  | some v => exact sameButReservations_mapHarts v (Hart.reservationAfter_eq keys)

/-- A write changes no core but for reservations. -/
theorem State.core_writeKeys (s : State) (cells : List (Nat × Byte)) (c : Nat) :
    sameButReservations (s.core c) ((s.writeKeys cells).core c) := by
  unfold State.writeKeys
  dsimp only
  split
  · exact State.core_breakReservations _ _ c
  · exact sameButReservations_refl _

theorem State.core_writeAt (s : State) (key : Nat) (b : List Byte) (c : Nat) :
    sameButReservations (s.core c) ((s.writeAt key b).core c) := s.core_writeKeys _ c

/-- A write changes no hart but for its reservation. -/
theorem State.hart_writeAt (s : State) (key : Nat) (b : List Byte) (h : HartRef) :
    (s.writeAt key b).hart h = { s.hart h with resv := ((s.writeAt key b).hart h).resv } :=
  (s.core_writeAt key b h.core).2 h.hart

@[simp] theorem State.writeAt_cur (s : State) (key : Nat) (b : List Byte) : (s.writeAt key b).cur = s.cur := by
  obtain ⟨_, _, _, h⟩ := s.writeKeys_eq (b.zipIdx.map fun (x, i) => (key + i, x))
  rw [State.writeAt, h]

/-! ### Bytes from a key on -/

theorem Memory.writeKeys_zipIdx (m : List Host.Cell) (k i : Nat) (b : List Byte) :
    Memory.writeKeys m ((b.zipIdx i).map fun (x, j) => (k + j, x)) = Memory.writeBytes m (k + i) b := by
  induction b generalizing m i with
  | nil => rfl
  | cons x r ih => exact ih (m := Memory.write m (k + i) x) (i := i + 1)

theorem State.writeAt_mem (s : State) (key : Nat) (b : List Byte) : (s.writeAt key b).mem = Memory.writeBytes s.mem key b := by
  obtain ⟨_, _, _, h⟩ := s.writeKeys_eq (b.zipIdx.map fun (x, i) => (key + i, x))
  rw [State.writeAt, h]
  exact Memory.writeKeys_zipIdx s.mem key 0 b

/-! ### Watch entries (R78, R171) -/

/-- Testing the watch entries of a core changes them and its lists alone. -/
theorem State.core_evalWatch (s : State) (core c : Nat) :
    ∃ watch lists, (s.evalWatch core).core c = { s.core c with watch := watch, lists := lists } := by
  unfold State.evalWatch
  dsimp only
  split
  · by_cases h : c = core
    · subst h; rw [State.core_setCore_same]; exact ⟨_, _, rfl⟩
    · rw [State.core_setCore_other _ _ h]; exact ⟨_, _, rfl⟩
  · exact ⟨_, _, rfl⟩

theorem State.hart_evalWatch (s : State) (core : Nat) (h : HartRef) : (s.evalWatch core).hart h = s.hart h := by
  obtain ⟨_, _, he⟩ := s.core_evalWatch core h.core
  unfold State.hart
  rw [he]

@[simp] theorem State.evalWatch_cur (s : State) (core : Nat) : (s.evalWatch core).cur = s.cur := by
  obtain ⟨_, h⟩ := s.evalWatch_eq core; rw [h]

@[simp] theorem State.evalWatch_mem (s : State) (core : Nat) : (s.evalWatch core).mem = s.mem := by
  obtain ⟨_, h⟩ := s.evalWatch_eq core; rw [h]

/-- A write into a scratchpad changes no hart but for its reservation. -/
theorem State.hart_writeSpad (s : State) (core off : Nat) (b : List Byte) (h : HartRef) :
    (s.writeSpad core off b).hart h = { s.hart h with resv := ((s.writeSpad core off b).hart h).resv } := by
  rw [State.writeSpad, State.hart_evalWatch]
  exact s.hart_writeAt _ b h

/-- A write into a scratchpad leaves of a core all but reservations, watch entries and lists. -/
theorem State.core_writeSpad (s : State) (core off : Nat) (b : List Byte) (c : Nat) :
    ∃ harts watch lists, (s.writeSpad core off b).core c = { s.core c with harts := harts, watch := watch, lists := lists } := by
  obtain ⟨watch, lists, h⟩ := (s.writeAt (spadKey core off) b).core_evalWatch core c
  have hc := (s.core_writeAt (spadKey core off) b c).1
  rw [State.writeSpad, h, hc]
  exact ⟨_, watch, lists, rfl⟩

@[simp] theorem State.writeSpad_cur (s : State) (core off : Nat) (b : List Byte) : (s.writeSpad core off b).cur = s.cur := by
  rw [State.writeSpad, State.evalWatch_cur, State.writeAt_cur]

@[simp] theorem State.writeSpad_mem (s : State) (core off : Nat) (b : List Byte) :
    (s.writeSpad core off b).mem = Memory.writeBytes s.mem (spadKey core off) b := by
  rw [State.writeSpad, State.evalWatch_mem, State.writeAt_mem]

/-- Clearing the watch entry of a hart changes no hart. -/
theorem State.hart_unwatch (s : State) (h g : HartRef) : (s.unwatch h).hart g = s.hart g := by
  unfold State.unwatch
  dsimp only
  split
  · exact s.hart_setCore_of_harts (by rfl) g
  · rfl

/-! ### A hart's registers and its reservation -/

theorem Hart.fill_withResv (v : Hart) (r : Option Reservation) (d : Reg) (x : Word) :
    ({ v with resv := r } : Hart).fill d x = { v.fill d x with resv := r } := by
  unfold Hart.fill
  split <;> rfl

theorem Hart.fill_withHolds (v : Hart) (l w : List Nat) (d : Reg) (x : Word) :
    ({ v with holdAll := l, holdWrites := w } : Hart).fill d x = { v.fill d x with holdAll := l, holdWrites := w } := by
  unfold Hart.fill
  split <;> rfl

theorem Hart.empty_withHolds (v : Hart) (l w : List Nat) (d : Reg) :
    ({ v with holdAll := l, holdWrites := w } : Hart).empty d = { v.empty d with holdAll := l, holdWrites := w } := by
  unfold Hart.empty
  split <;> rfl

end Sys2Proof.Machine
end

section
/-! SUPPORT. Operands in the own scratchpad, and hart control (R38, R39, R43, R168, R192 to R194, R421), with the statement
HartControl. -/

namespace Sys2Proof.Machine

/-! ### Spans and records of the own scratchpad (R43, R168) -/

/-- A span of the own scratchpad ends within it. -/
theorem State.ownSpan_bound {s : State} {core : Nat} {a : Word} {align len off : Nat}
    (h : s.ownSpan core a align len = some off) : off + len ≤ 0x40000 := by
  unfold State.ownSpan at h
  split at h
  · split at h
    · next hc =>
        obtain ⟨-, -, hlen, -⟩ := hc
        simp only [Option.some.injEq] at h
        omega
    · simp at h
  · simp at h

/-- What a hart needs for an access of n bytes of its scratchpad: the protection unit's leave, and of a read sound bytes (R71, R377). -/
def State.usableSpan (s : State) (k : Kind) (off n : Nat) : Prop :=
  s.protects s.cur s.me.mode k s.device.toNat s.cur.core off n = true ∧
  (k = .read → s.anyPoisoned ((List.range n).map fun i => spadKey s.cur.core (off + i)) = false)

/-- An instruction on a span that it may use performs. -/
theorem State.ownBytes_usable {s : State} {r : Reg} {align len off : Nat} {k : Kind} (outside : State)
    {bad : Nat → Option (BitVec 8)} (perform : Nat → State)
    (hspan : s.ownSpan s.cur.core (s.me.readX r) align len = some off) (hbad : bad off = none) (huse : s.usableSpan k off len) :
    s.ownBytes r align len k outside bad perform = perform off := by
  obtain ⟨hprot, hsound⟩ := huse
  unfold State.ownBytes
  rw [hspan]
  dsimp only
  rw [hbad]
  dsimp only
  rw [hprot]
  by_cases hk : k = .read
  · rw [hsound hk]; simp
  · simp [hk]

theorem Memory.wordAt_readBytes (m : List Host.Cell) (k : Nat) {n : Nat} (h : 16 ≤ n) :
    wordAt (Memory.readBytes m k n) 8 = leNat (Memory.readBytes m (k + 8) 8) := by
  rw [wordAt, Memory.readBytes_drop, Memory.readBytes_take _ _ (by omega)]

/-- The size of a record by its header's fields NLIVE and RET (R43). -/
theorem recordSize_eq (h : Nat) : recordSize h = 16 + 8 * (h / 2 ^ 40 % 32 + h / 2 ^ 32 % 2) := rfl

/-- A record that keeps R43 has all of its bytes. -/
theorem recordSize_le_of_recordOk {b : List Byte} (h : recordOk b = true) : recordSize (wordAt b 8) ≤ b.length := by
  simp only [recordOk, Bool.and_eq_true, decide_eq_true_eq] at h
  tauto

/-- An instruction on a record of its scratchpad that keeps R43 performs on its bytes. -/
theorem State.ownRecord_usable {s : State} {r : Reg} {off header : Nat} (perform : List Byte → State)
    (hheader : header = leNat (Memory.readBytes s.mem (spadKey s.cur.core (off + 8)) 8))
    (hhead : s.ownSpan s.cur.core (s.me.readX r) 8 16 = some off)
    (hok : recordOk (Memory.readBytes s.mem (spadKey s.cur.core off) (min 144 (0x40000 - off))) = true)
    (hspan : s.ownSpan s.cur.core (s.me.readX r) 8 (recordSize header) = some off) (huse : s.usableSpan .read off (recordSize header)) :
    s.ownRecord r perform = perform (Memory.readBytes s.mem (spadKey s.cur.core off) (recordSize header)) := by
  have hbound := State.ownSpan_bound hhead
  have hword : wordAt (Memory.readBytes s.mem (spadKey s.cur.core off) (min 144 (0x40000 - off))) 8 = header := by
    rw [Memory.wordAt_readBytes _ _ (by omega), hheader, spadKey, spadKey, Nat.add_assoc]
  have hle := recordSize_le_of_recordOk hok
  rw [hword, Memory.length_readBytes] at hle
  unfold State.ownRecord State.spadBytes
  rw [hhead]
  dsimp only
  rw [hok, hword, State.ownBytes_usable _ _ hspan rfl huse, Memory.readBytes_take _ _ hle]
  rfl

/-- The header of a record in the scratchpad is that of its bytes alone. -/
theorem State.wordAt_record (s : State) (off header : Nat)
    (hheader : header = leNat (Memory.readBytes s.mem (spadKey s.cur.core (off + 8)) 8)) :
    wordAt (Memory.readBytes s.mem (spadKey s.cur.core off) (recordSize header)) 8 = header := by
  rw [Memory.wordAt_readBytes _ _ (by unfold recordSize; omega), hheader, spadKey, spadKey, Nat.add_assoc]

/-! ### Operands that name a hart (R38, R421) -/

/-- Hart 0 performs on the hart that its register numbers. -/
theorem State.onHart_perform {s : State} {a : Reg} {rs : List Reg} {h : HartRef} (perform : HartRef → State) (h0 : s.cur.hart = 0)
    (hf : ∀ r ∈ a :: rs, s.me.isFull r = true) (hcore : h.core = s.cur.core) (hne : h.hart ≠ 0)
    (hval : s.me.readX a = BitVec.ofNat 64 h.hart.val) : s.onHart a rs perform = perform h := by
  have hlt := h.hart.isLt
  have hn : (s.me.readX a).toNat = h.hart.val := by rw [hval, BitVec.toNat_ofNat]; omega
  have hpos : h.hart.val ≠ 0 := fun hz => hne (Fin.ext hz)
  have hfin : Fin.ofNat 16 h.hart.val = h.hart := Fin.ext (Nat.mod_eq_of_lt hlt)
  have hin : ¬ (h.hart.val = 0 ∨ 15 < h.hart.val) := by omega
  unfold State.onHart
  rw [if_neg (not_not.2 h0), State.reading_full hf]
  dsimp only
  rw [hn, if_neg hin, hfin, ← hcore]

/-- A number that is none of 1 to 15 is OPERAND. -/
theorem State.onHart_operand {s : State} {a : Reg} {rs : List Reg} (perform : HartRef → State) (h0 : s.cur.hart = 0)
    (hf : ∀ r ∈ a :: rs, s.me.isFull r = true) (hn : (s.me.readX a).toNat = 0 ∨ 15 < (s.me.readX a).toNat) :
    s.onHart a rs perform = s.operand a := by
  unfold State.onHart
  rw [if_neg (not_not.2 h0), State.reading_full hf]
  exact if_pos hn

/-- Any other hart takes HARTCTL. -/
theorem State.onHart_other {s : State} (a : Reg) (rs : List Reg) (perform : HartRef → State) (h0 : s.cur.hart ≠ 0) :
    s.onHart a rs perform = s.trapCode 0x02 0 := by
  unfold State.onHart
  rw [if_pos h0]

/-! ### What a change of another hart leaves -/

theorem State.me_setHart_other (s : State) {h : HartRef} (v : Hart) (hne : h ≠ s.cur) : (s.setHart h v).me = s.me := by
  unfold State.me
  rw [State.setHart_cur, State.hart_setHart_other _ _ hne.symm]

theorem State.hart_complete_other (s : State) (v : Hart) {g : HartRef} (hne : g ≠ s.cur) : (s.complete v).hart g = s.hart g := by
  rw [State.complete, State.setMe, State.hart_setHart_other _ _ hne]

theorem State.hart_holdLater_other (s : State) (l w : List Nat) {h g : HartRef} (hne : g ≠ h) :
    (s.holdLater h l w).hart g = s.hart g := State.hart_setHart_other s _ hne

/-- A drain that begins changes its hart, and of another hart its reservation. -/
theorem State.hart_beginDrain_other (s : State) {h g : HartRef} (job : Job) (hne : g ≠ h) :
    (s.beginDrain h job).hart g = { s.hart g with resv := ((s.beginDrain h job).hart g).resv } := by
  unfold State.beginDrain
  dsimp only
  rw [State.hart_setHart_other _ _ hne]
  split
  · rw [State.hart_unwatch]; exact s.hart_writeAt _ _ g
  · rfl

@[simp] theorem State.unwatch_cur (s : State) (h : HartRef) : (s.unwatch h).cur = s.cur := by
  unfold State.unwatch
  dsimp only
  split <;> rfl

@[simp] theorem State.beginDrain_cur (s : State) (h : HartRef) (job : Job) : (s.beginDrain h job).cur = s.cur := by
  unfold State.beginDrain
  dsimp only
  split
  · exact (State.unwatch_cur _ h).trans (State.writeAt_cur _ _ _)
  · rfl

/-- The drain of a hart that waits for no flag. -/
theorem State.beginDrain_of_not_flag (s : State) {h : HartRef} (job : Job) (hw : (s.hart h).wait ≠ .flag) :
    s.beginDrain h job = s.setHart h { s.hart h with job := job, jobDue := s.coreCycle h.core + 1 } := by
  unfold State.beginDrain
  dsimp only
  split
  · exact absurd ‹_› hw
  · rfl

/-! ### The harts that take up work (R34, R39, R44, R192) -/

/-- A hart that takes up a record: LOADING for one own slot each 64 bytes, its task begun (R39, R192). -/
theorem State.startRecord_eq (s : State) (h : HartRef) (record : List Byte) (prio : BitVec 2) (release : Nat)
    (line : Option (Nat × Wide)) : ∃ v, s.startRecord h record prio release line = s.setHart h v ∧ v.st = .loading ∧
      v.job = .loadRecord record prio release line ∧ v.ended = false ∧ v.exitVal = (s.hart h).exitVal ∧
      v.jobDue = firstSlot h.hart (s.coreCycle h.core + 1) + 16 * ((record.length + 63) / 64 - 1) + 1 := by
  unfold State.startRecord
  dsimp only
  unfold State.transfer
  dsimp only
  rw [State.setHart_setHart, State.hart_setHart_same]
  exact ⟨_, rfl, rfl, rfl, rfl, rfl, rfl⟩

/-- `hstart` of an OFF hart, after its operands (R192). -/
theorem State.hstart_starts (s : State) {h : HartRef} (record : List Byte) (prio : BitVec 2) (d : Reg) (hne : h ≠ s.cur) :
    let u := (s.release s.cur 1 .none).1.startRecord h record prio s.nextId none
    let t := u.complete (u.me.fill d 0)
    goesOn t (s.me.fill d 0) ∧ t.mem = s.mem ∧ (t.hart h).st = .loading ∧ (t.hart h).job = .loadRecord record prio s.nextId none ∧
    (t.hart h).ended = false ∧ (t.hart h).exitVal = (s.hart h).exitVal ∧
    (t.hart h).jobDue = firstSlot h.hart (s.coreCycle h.core + 1) + 16 * ((record.length + 63) / 64 - 1) + 1 ∧
    (∃ r ∈ t.reqs, r.id = s.nextId ∧ r.kind = .release 1) ∧ ∀ g : HartRef, g ≠ h → g ≠ s.cur → t.hart g = s.hart g := by
  intro u t
  have hme := s.me_release 1 .none
  obtain ⟨r, hr, hkind, -⟩ := s.release_eq s.cur 1 .none
  obtain ⟨v, hu, hst, hjob, hended, hexit, hdue⟩ :=
    (s.release s.cur 1 .none).1.startRecord_eq h record prio s.nextId none
  change u = _ at hu
  have hother {g : HartRef} (hg : g ≠ s.cur) : (s.release s.cur 1 .none).1.hart g = s.hart g := by
    rw [hr]; exact State.hart_holdLater_other _ _ _ hg
  have hcur : (s.release s.cur 1 .none).1.cur = s.cur := by rw [hr]; rfl
  have htime : (s.release s.cur 1 .none).1.coreCycle h.core = s.coreCycle h.core := by rw [hr]; rfl
  have hreqs : (s.release s.cur 1 .none).1.reqs = s.reqs ++ [{ r with id := s.nextId }] := by rw [hr]; rfl
  have hmem : (s.release s.cur 1 .none).1.mem = s.mem := by rw [hr]; rfl
  clear_value u
  generalize (s.release s.cur 1 .none).1 = w at *
  have hucur : u.cur = s.cur := by rw [hu]; exact hcur
  have hume : u.me = w.me := by rw [hu]; exact State.me_setHart_other _ _ (hcur ▸ hne)
  have hth : t.hart h = v := by
    rw [State.hart_complete_other _ _ (hucur ▸ hne), hu, State.hart_setHart_same]
  rw [hth, hst, hjob, hended, hexit, hdue, htime, hother hne]
  refine ⟨?_, ?_, rfl, rfl, rfl, rfl, rfl, ⟨{ r with id := s.nextId }, ?_, rfl, hkind⟩, fun g hg hgc => ?_⟩
  · unfold goesOn
    rw [State.me_complete, hume, hme, Hart.fill_withHolds]
    rfl
  · rw [State.complete_mem, hu]; exact hmem
  · rw [State.complete_reqs, hu]
    exact hreqs ▸ List.mem_append_right _ List.mem_cons_self
  · rw [State.hart_complete_other _ _ (hucur ▸ hgc), hu, State.hart_setHart_other _ _ hg, hother hgc]

/-- What an instruction leaves that empties rd and holds later accesses until a request of its own completes (R124, R193). -/
theorem State.emptyHeld (s : State) (r : Req) (d : Reg) :
    let u := (s.addReq r).holdLater s.cur [s.nextId] []
    goesOn (u.complete (u.me.empty d)) (s.me.empty d) ∧ s.nextId ∈ (u.complete (u.me.empty d)).me.holdAll := by
  intro u
  have hme : u.me = { s.me with
      holdAll := (s.addReq r).outstanding s.me.holdAll ++ [s.nextId]
      holdWrites := (s.addReq r).outstanding s.me.holdWrites ++ [] } := State.me_holdLater (s.addReq r) [s.nextId] []
  unfold goesOn
  rw [State.me_complete, hme, Hart.empty_withHolds]
  exact ⟨rfl, List.mem_append_right _ List.mem_cons_self⟩

/-- What `hsave` does to the hart that it names (R50, R194, R374). -/
def State.saveBegun (s : State) (h : HartRef) (off : Nat) : State :=
  let v := s.hart h
  match v.st with
  | .running | .parked => if v.drainable then s.beginDrain h (.save off) else s
  | .held => if v.drainable then s.setHart h { v with job := .save off, jobDue := 0 } else s
  | _ => s

/-- The issuing hart loses at most its reservation. -/
theorem State.saveBegun_me (s : State) {h : HartRef} (off : Nat) (hne : h ≠ s.cur) :
    (s.saveBegun h off).cur = s.cur ∧ (s.saveBegun h off).me = { s.me with resv := (s.saveBegun h off).me.resv } := by
  have hdrain : (s.beginDrain h (.save off)).me = { s.me with resv := (s.beginDrain h (.save off)).me.resv } := by
    rw [State.me, State.beginDrain_cur]
    exact s.hart_beginDrain_other _ hne.symm
  have hheld (v : Hart) : (s.setHart h v).me = { s.me with resv := (s.setHart h v).me.resv } := by
    rw [State.me_setHart_other _ _ hne]
  have hdone : (if (s.hart h).drainable then s.beginDrain h (.save off) else s).cur = s.cur ∧
      (if (s.hart h).drainable then s.beginDrain h (.save off) else s).me =
        { s.me with resv := (if (s.hart h).drainable then s.beginDrain h (.save off) else s).me.resv } := by
    split
    · exact ⟨State.beginDrain_cur _ _ _, hdrain⟩
    · exact ⟨rfl, rfl⟩
  unfold State.saveBegun
  dsimp only
  cases (s.hart h).st with
  | running => exact hdone
  | parked => exact hdone
  | held =>
    dsimp only
    split
    · exact ⟨rfl, hheld _⟩
    · exact ⟨rfl, rfl⟩
  | _ => exact ⟨rfl, rfl⟩

/-- Of a RUNNING or PARKED hart with no job the drain begins (R50). -/
theorem State.saveBegun_drains (s : State) {h : HartRef} (off : Nat) (hst : (s.hart h).st = .running ∨ (s.hart h).st = .parked)
    (hjob : (s.hart h).job = .none) (hwait : (s.hart h).wait ≠ .flag) :
    s.saveBegun h off = s.setHart h { s.hart h with job := .save off, jobDue := s.coreCycle h.core + 1 } := by
  have hdrain : (s.hart h).drainable = true := by rw [Hart.drainable, hjob]
  unfold State.saveBegun
  rw [← s.beginDrain_of_not_flag (.save off) hwait]
  rcases hst with hst | hst
  · simp only [hst, hdrain, if_true]
  · simp only [hst, hdrain, if_true]

/-- Of an OFF, SAVING or LOADING hart nothing does. -/
theorem State.saveBegun_idle (s : State) {h : HartRef} (off : Nat)
    (hst : (s.hart h).st = .off ∨ (s.hart h).st = .saving ∨ (s.hart h).st = .loading) : s.saveBegun h off = s := by
  unfold State.saveBegun
  rcases hst with hst | hst | hst
  · simp only [hst]
  · simp only [hst]
  · simp only [hst]

/-- A hart whose load of an image begins: LOADING over 30 own slots (R194). -/
theorem State.loadBegun_eq (s : State) (h : HartRef) (off : Nat) : ∃ v,
    (s.transfer h .loading (.loadImage off) 30).setHart h
      { (s.transfer h .loading (.loadImage off) 30).hart h with ended := false } = s.setHart h v ∧ v.st = .loading ∧
    v.job = .loadImage off ∧ v.jobDue = firstSlot h.hart (s.coreCycle h.core + 1) + 16 * 29 + 1 ∧ v.ended = false := by
  unfold State.transfer
  dsimp only
  rw [State.setHart_setHart, State.hart_setHart_same]
  exact ⟨_, rfl, rfl, rfl, rfl, rfl⟩

/-- Settles O26: the operands of each instruction, then what it does to the hart that it names. -/
theorem hartControl : Obligations.HartControl := by
  intro s a b d h off addr v header record size usable
  refine ⟨fun h0 ha hcore hne hval => ?_, fun h0 => ?_, fun h0 ha hb hn => ?_⟩
  · have hcur : h ≠ s.cur := fun he => hne (he ▸ h0)
    have hon1 (perform : HartRef → State) : s.onHart a [] perform = perform h :=
      State.onHart_perform perform h0 (by simpa using ha) hcore hne hval
    refine ⟨fun hb hhead hok hspan huse => ?_, fun hd => ?_, fun hd hended => ?_, fun hd hended => ?_, fun hb hspan => ?_⟩
    · have hsize : recordSize header = size := recordSize_eq header
      have he : exec (.hstart b a d) s = .next (if v.st ≠ .off then s.complete (s.me.fill d 1) else
          let u := (s.release s.cur 1 .none).1.startRecord h (record size) (BitVec.ofNat 2 (bits header 45 2)) s.nextId none
          u.complete (u.me.fill d 0)) := by
        have he : exec (.hstart b a d) s = execHstart b a d s := rfl
        rw [he, execHstart, State.onHart_perform _ h0 (by simpa using ⟨ha, hb⟩) hcore hne hval,
          State.ownRecord_usable _ rfl hhead hok hspan huse, s.wordAt_record off _ rfl]
        rfl
      rw [fillsRegister, he]
      refine ⟨fun hst => by rw [if_pos hst]; rfl, fun hst => ?_⟩
      rw [if_neg (not_not.2 hst)]
      have hlen : (record size).length = size := Memory.length_readBytes _ _ _
      have hprio : BitVec.ofNat 2 (bits header 45 2) = BitVec.ofNat 2 (header / 2 ^ 45) := by
        apply BitVec.eq_of_toNat_eq
        simp [bits]
      have := s.hstart_starts (record size) (BitVec.ofNat 2 (bits header 45 2)) d hcur
      rw [hlen, hprio] at this
      exact ⟨_, by rw [hprio], this⟩
    · have he : exec (.hreap a d) s = execHreap a d s := rfl
      rw [he, execHreap, hon1, if_pos hd]; rfl
    · have he : exec (.hreap a d) s = execHreap a d s := rfl
      rw [fillsRegister, he, execHreap, hon1, if_neg hd, if_pos hended]; rfl
    · have he : exec (.hreap a d) s = execHreap a d s := rfl
      rw [he, execHreap, hon1, if_neg hd, if_neg (by rw [show (s.hart h).ended = false from hended]; decide)]
      obtain ⟨hgoes, hheld⟩ := s.emptyHeld { s.hartReq s.cur with
        kind := .acquire, op := .read h.hart.val, waits := [s.nextId], dest := .xreg d true } d
      exact ⟨_, _, rfl, hgoes, rfl, rfl, rfl, rfl, hheld⟩
    · have htwo : ∀ r ∈ [a, b], s.me.isFull r = true := by simpa using ⟨ha, hb⟩
      refine ⟨fun huse => ?_, fun huse himage => ?_⟩
      · have he : exec (.hsave b a) s = .next ((s.saveBegun h off).complete (s.saveBegun h off).me) := by
          have he : exec (.hsave b a) s = execHsave b a s := rfl
          rw [he, execHsave, State.onHart_perform _ h0 htwo hcore hne hval, State.ownBytes_usable _ _ hspan rfl huse]
          rfl
        obtain ⟨hscur, hsme⟩ := s.saveBegun_me off hcur
        refine ⟨_, he, ?_, fun hst hjob hwait => ?_, fun hst => ?_⟩
        · rw [State.me_complete, hsme]; rfl
        · have hs := s.saveBegun_drains off hst hjob hwait
          refine ⟨by rw [State.complete_mem, hs]; rfl, ?_⟩
          rw [State.hart_complete_other _ _ (hscur ▸ hcur), hs, State.hart_setHart_same]
        · rw [s.saveBegun_idle off hst]; rfl
      · have he : exec (.hload b a) s = .next (if v.st ≠ .off then s.complete s.me else
            let u := s.transfer h .loading (.loadImage off) 30
            (u.setHart h { u.hart h with ended := false }).complete (u.setHart h { u.hart h with ended := false }).me) := by
          have he : exec (.hload b a) s = execHload b a s := rfl
          rw [he, execHload]
          dsimp only
          rw [State.onHart_perform _ h0 htwo hcore hne hval, State.ownBytes_usable _ _ hspan (if_pos himage) huse]
        by_cases hst : v.st = .off
        · rw [if_neg (not_not.2 hst)] at he
          dsimp only at he
          obtain ⟨w, hw, hwst, hwjob, hwdue, hwended⟩ := s.loadBegun_eq h off
          rw [hw, State.me_setHart_other _ _ hcur] at he
          refine ⟨_, he, State.me_complete _ _, rfl, fun _ => ?_, fun h => absurd hst h⟩
          rw [State.hart_complete_other (s.setHart h w) _ hcur, State.hart_setHart_same]
          exact ⟨hwst, hwjob, hwdue, hwended⟩
        · rw [if_pos hst] at he
          exact ⟨_, he, State.me_complete _ _, rfl, fun h => absurd h hst, fun _ => rfl⟩
  · have htrap (rs : List Reg) (perform : HartRef → State) : s.onHart a rs perform = s.trapCode 0x02 0 :=
      State.onHart_other a rs perform h0
    exact ⟨trapsWith_of_trapCode (congrArg _ (htrap _ _)), trapsWith_of_trapCode (congrArg _ (htrap _ _)),
      trapsWith_of_trapCode (congrArg _ (htrap _ _)), trapsWith_of_trapCode (congrArg _ (htrap _ _))⟩
  · have htrap (rs : List Reg) (hf : ∀ r ∈ a :: rs, s.me.isFull r = true) (perform : HartRef → State) :
        s.onHart a rs perform = s.operand a := State.onHart_operand perform h0 hf hn
    have hone : ∀ r ∈ [a], s.me.isFull r = true := by simpa using ha
    have htwo : ∀ r ∈ [a, b], s.me.isFull r = true := by simpa using ⟨ha, hb⟩
    exact ⟨trapsWith_of_operand (congrArg _ (htrap _ htwo _)), trapsWith_of_operand (congrArg _ (htrap _ hone _)),
      trapsWith_of_operand (congrArg _ (htrap _ htwo _)), trapsWith_of_operand (congrArg _ (htrap _ htwo _))⟩

end Sys2Proof.Machine
end

section
/-! SUPPORT. The task queue (R45, R46, R185, R186), and the statement TaskQueueInstructions. -/

namespace Sys2Proof.Machine

/-! ### Which entry a taker takes (R45, R49) -/

/-- A taker takes nothing where it admits no entry present before the die cycle. -/
theorem takeIndex_none {tasks : List Task} {admits : BitVec 2 → Bool} {now : Nat}
    (h : ∀ e ∈ tasks, e.cycle < now → admits e.prio = false) : takeIndex tasks admits now = none := by
  unfold takeIndex
  rw [List.findSome?_eq_none_iff]
  intro p _
  split
  next hp =>
    rw [List.findIdx?_eq_none_iff]
    intro e he
    by_cases hc : e.cycle < now
    · have hne : e.prio ≠ p := fun heq => by
        have := h e he hc
        rw [heq, hp] at this
        exact absurd this (by decide)
      simp [hne]
    · simp [hc]
  next => rfl

/-- A taker takes the oldest entry of the lowest priority that it admits. -/
theorem takeIndex_some {before after : List Task} {e : Task} {admits : BitVec 2 → Bool} {now : Nat} (hc : e.cycle < now)
    (hadm : admits e.prio = true) (hfirst : ∀ f ∈ before, f.cycle < now → f.prio ≠ e.prio)
    (hlow : ∀ f ∈ before ++ e :: after, f.cycle < now → f.prio < e.prio → admits f.prio = false) :
    takeIndex (before ++ e :: after) admits now = some before.length := by
  have hfind : (before ++ e :: after).findIdx? (fun t => t.prio == e.prio && decide (t.cycle < now)) = some before.length := by
    rw [List.findIdx?_append]
    have hnone : before.findIdx? (fun t => t.prio == e.prio && decide (t.cycle < now)) = none := by
      rw [List.findIdx?_eq_none_iff]
      intro f hf
      by_cases hfc : f.cycle < now
      · simp [hfirst f hf hfc]
      · simp [hfc]
    simp [hnone, List.findIdx?_cons, hc]
  have hskip {p : BitVec 2} (hp : p < e.prio) :
      (if admits p then (before ++ e :: after).findIdx? (fun t => t.prio == p && decide (t.cycle < now)) else none) = none := by
    split
    next hadm' =>
      rw [List.findIdx?_eq_none_iff]
      intro f hf
      by_cases hfc : f.cycle < now
      · have hne : f.prio ≠ p := fun heq => by
          have := hlow f hf hfc (heq ▸ hp)
          rw [heq, hadm'] at this
          exact absurd this (by decide)
        simp [hne]
      · simp [hfc]
    next => rfl
  have hdo : (if admits e.prio then (before ++ e :: after).findIdx? (fun t => t.prio == e.prio && decide (t.cycle < now)) else none) =
      some before.length := by rw [if_pos hadm, hfind]
  have hprio : ∀ q : BitVec 2, ∃ l r, [0, 1, 2, 3].map (BitVec.ofNat 2) = l ++ q :: r ∧ ∀ p ∈ l, p < q := by
    intro q
    have hq : q = 0 ∨ q = 1 ∨ q = 2 ∨ q = 3 := by revert q; decide
    rcases hq with rfl | rfl | rfl | rfl
    · exact ⟨[], [1, 2, 3], rfl, by decide⟩
    · exact ⟨[0], [2, 3], rfl, by decide⟩
    · exact ⟨[0, 1], [3], rfl, by decide⟩
    · exact ⟨[0, 1, 2], [], rfl, by decide⟩
  obtain ⟨l, r, hl, hlt⟩ := hprio e.prio
  unfold takeIndex
  rw [List.findSome?_eq_some_iff]
  exact ⟨l, e.prio, r, hl, hdo, fun p hp => hskip (hlt p hp)⟩

/-- An entry that is taken leaves the queue, and nothing else does where it is not of the resumption partition (R46). -/
theorem State.takeTask_of_not_resume (s : State) (core : Nat) {before after : List Task} {e : Task}
    (h : (s.core core).tasks = before ++ e :: after) (hp : e.part ≠ .resume) :
    s.takeTask core before.length = s.setCore core { s.core core with tasks := before ++ after } := by
  have hget : (before ++ e :: after)[before.length]? = some e := by simp
  have herase : (before ++ e :: after).eraseIdx before.length = before ++ after := by simp [List.eraseIdx_append_of_length_le]
  unfold State.takeTask
  dsimp only
  rw [h, hget, herase, if_neg (by simpa using hp)]

/-! ### The instructions (R185, R186) -/

/-- A record that joins the queue of its core, and a hart that goes on with rd 0 (R185). -/
theorem State.enqueue_complete (s : State) (record : List Byte) (prio : BitVec 2) (p : Partition) (d : Reg) :
    let u := s.enqueue s.cur.core record prio p
    let t := u.complete (u.me.fill d 0)
    t.me = (s.me.fill d 0).next ∧ t = s.setMyCore t.myCore ∧ t.myCore = { s.myCore with
      harts := s.myCore.harts.set s.cur.hart t.me
      tasks := s.myCore.tasks ++ [⟨record, prio, p, s.coreCycle s.cur.core, none⟩] } := by
  intro u t
  have hume : u.me = s.me := State.me_setMyCore s _
  have htme : t.me = (s.me.fill d 0).next := by rw [State.me_complete, hume]
  have ht : t = s.setMyCore { s.myCore with
      harts := s.myCore.harts.set s.cur.hart (s.me.fill d 0).next
      tasks := s.myCore.tasks ++ [⟨record, prio, p, s.coreCycle s.cur.core, none⟩] } := by
    rw [show t = u.complete (s.me.fill d 0) by rw [← hume]]
    exact s.complete_setMyCore _ _
  refine ⟨htme, ?_, ?_⟩
  · rw [ht, State.myCore_setMyCore]
  · rw [htme, ht, State.myCore_setMyCore]

/-- `tqpop` of the entry that it takes (R186). -/
theorem State.takeTask_complete (s : State) {before after : List Task} {e : Task} (off : Nat) (b : List Byte) (d : Reg) (v : Word)
    (h : s.myCore.tasks = before ++ e :: after) (hp : e.part ≠ .resume) :
    let u := (s.takeTask s.cur.core before.length).writeSpad s.cur.core off b
    let t := u.complete (u.me.fill d v)
    t.myCore.tasks = before ++ after ∧ t.myCore.reservations = s.myCore.reservations ∧
    t.me = { (s.me.fill d v).next with resv := t.me.resv } ∧ t.mem = Memory.writeBytes s.mem (spadKey s.cur.core off) b := by
  intro u t
  have htake := s.takeTask_of_not_resume s.cur.core h hp
  obtain ⟨harts, watch, lists, hcore⟩ := (s.takeTask s.cur.core before.length).core_writeSpad s.cur.core off b s.cur.core
  have hucur : u.cur = s.cur := by rw [State.writeSpad_cur, htake]; rfl
  have hucore : u.myCore = { s.myCore with tasks := before ++ after, harts := harts, watch := watch, lists := lists } := by
    rw [State.myCore, hucur, hcore, htake, State.core_setCore_same]
    rfl
  have htcore : t.myCore = { u.myCore with harts := u.myCore.harts.set u.cur.hart (u.me.fill d v).next } := by
    rw [show t = u.complete (u.me.fill d v) from rfl, State.complete, State.setMe_eq, State.myCore_setMyCore]
    rfl
  have hume : u.me = { s.me with resv := u.me.resv } := by
    have hhart := (s.takeTask s.cur.core before.length).hart_writeSpad s.cur.core off b s.cur
    have hs : (s.takeTask s.cur.core before.length).hart s.cur = s.me := by
      rw [htake]; exact State.hart_setCore_of_harts s (by rfl) s.cur
    rw [hs] at hhart
    rw [State.me, hucur]
    exact hhart
  refine ⟨?_, ?_, ?_, ?_⟩
  · rw [htcore, hucore]
  · rw [htcore, hucore]
  · rw [State.me_complete, hume, Hart.fill_withResv]; rfl
  · rw [State.complete_mem, State.writeSpad_mem, htake]; rfl

/-- Settles O27: `tqpush` by its record and the room of its partition, `tqpop` by the entry that `takeIndex` finds. -/
theorem taskQueueInstructions : Obligations.TaskQueueInstructions := by
  intro s a b d off c now header record size usable ha hb
  have htqpop (hmask : (s.me.readX a).toNat < 16) (hspan : s.ownSpan s.cur.core (s.me.readX b) 8 144 = some off)
      (huse : s.usableSpan .write off 144) : exec (.tqpop b a d) s = .next (
        match takeIndex s.myCore.tasks (fun p => bitOf (s.me.readX a) p.toNat) (s.coreCycle s.cur.core) with
        | none => s.complete (s.me.fill d 0)
        | some i => match s.myCore.tasks[i]? with
          | none => s.complete (s.me.fill d 0)
          | some t =>
            let u := (s.takeTask s.cur.core i).writeSpad s.cur.core off (withPrio t.record t.prio)
            u.complete (u.me.fill d (BitVec.ofNat 64 (256 * t.prio.toNat + t.record.length)))) := by
    have he : exec (.tqpop b a d) s = execTqpop b a d s := rfl
    have hm0 : field (s.me.readX a) 4 60 = 0 := by unfold field; omega
    rw [he, execTqpop, State.reading_two ha hb]
    dsimp only
    rw [hm0, State.ownBytes_usable _ _ hspan rfl huse]
    rfl
  refine ⟨fun hhead hspan hprio hok huse => ?_, fun hmask hspan huse => ⟨fun hnone => ?_, fun before after e hq hc hadm hfirst hlow => ?_⟩⟩
  · have hp0 : field (s.me.readX b) 2 62 = 0 := by unfold field; omega
    have hp2 : (s.me.readX b).extractLsb' 0 2 = BitVec.ofNat 2 (s.me.readX b).toNat := by
      rw [BitVec.extractLsb', Nat.shiftRight_zero]
    have he : exec (.tqpush b a d) s = .next (
        if !(s.outstanding s.me.holdWrites).isEmpty then s
        else if s.myCore.roomFor .remote then
          let u := s.enqueue s.cur.core (record size) (BitVec.ofNat 2 (s.me.readX b).toNat) .remote
          u.complete (u.me.fill d 0)
        else s.complete (s.me.fill d 1)) := by
      have he : exec (.tqpush b a d) s = execTqpush b a d s := rfl
      rw [he, execTqpush, State.reading_two ha hb]
      dsimp only
      rw [State.ownRecord_usable _ rfl hhead hok hspan huse, hhead, hp0, hp2]
      rfl
    by_cases hout : s.outstanding s.me.holdWrites = []
    · have hroom : s.myCore.roomFor .remote = decide ((c.tasks.filter fun t => t.part == .remote).length < 40) := rfl
      rw [hout, hroom] at he
      rw [if_neg (not_not.2 hout)]
      by_cases hlt : (c.tasks.filter fun t => t.part == .remote).length < 40
      · rw [decide_eq_true hlt] at he
        rw [if_pos hlt]
        exact ⟨_, he, s.enqueue_complete _ _ _ d⟩
      · rw [decide_eq_false hlt] at he
        rw [if_neg hlt]
        exact he
    · rw [if_pos hout]
      rw [if_pos (by simpa using hout)] at he
      exact he
  · rw [fillsRegister, htqpop hmask hspan huse, takeIndex_none hnone]; rfl
  · have hq' : s.myCore.tasks = before ++ e :: after := hq
    have hindex := takeIndex_some (admits := fun p => bitOf (s.me.readX a) p.toNat) hc hadm hfirst (hq' ▸ hlow)
    have hget : (before ++ e :: after)[before.length]? = some e := by simp
    rw [htqpop hmask hspan huse, hq', hindex]
    dsimp only
    rw [hget]
    exact ⟨_, rfl, s.takeTask_complete off _ d _ hq'⟩

end Sys2Proof.Machine
end

section
/-! SUPPORT. The port file and the registers that a transfer brings (R44, R167, R229, R230). -/

namespace Sys2Proof.Machine

/-! ### Steps on a hart -/

theorem State.atHart_of_arg {s : State} {h : HartRef} (harg : s.arg = .hart h) (f : HartRef → State) : s.atHart f = .next (f h) := by
  unfold State.atHart; rw [harg]

/-! ### Latches written one after another (R229, R230) -/

section
variable {α : Type} (port : α → BitVec 6) (val : α → Latch)

/-- Writes of latches change the port file alone. -/
theorem Hart.foldl_setLatch_eq (l : List α) (h : Hart) :
    ∃ ports, l.foldl (fun h x => Hart.setLatch h (port x) (val x)) h = { h with ports := ports } := by
  induction l generalizing h with
  | nil => exact ⟨_, rfl⟩
  | cons x r ih =>
    obtain ⟨ports, hr⟩ := ih (h.setLatch (port x) (val x))
    exact ⟨ports, hr⟩

theorem Hart.latch_foldl_setLatch_other (l : List α) (h : Hart) {p : BitVec 6} (hp : ∀ x ∈ l, port x ≠ p) :
    (l.foldl (fun h x => Hart.setLatch h (port x) (val x)) h).latch p = h.latch p := by
  induction l generalizing h with
  | nil => rfl
  | cons x r ih =>
    refine (ih _ fun y hy => hp y (List.mem_cons_of_mem _ hy)).trans ?_
    exact Hart.latch_setLatch_other _ _ (Ne.symm (hp x List.mem_cons_self))

theorem Hart.latch_foldl_setLatch_mem (l : List α) (h : Hart) (hl : (l.map port).Nodup) {x : α} (hx : x ∈ l) :
    (l.foldl (fun h x => Hart.setLatch h (port x) (val x)) h).latch (port x) = val x := by
  induction l generalizing h with
  | nil => exact absurd hx List.not_mem_nil
  | cons y r ih =>
    obtain ⟨hy, hr⟩ := List.nodup_cons.1 (List.map_cons ▸ hl)
    rcases List.mem_cons.1 hx with rfl | hin
    · refine (Hart.latch_foldl_setLatch_other port val r _ fun z hz he => hy (by rw [← he]; exact List.mem_map_of_mem hz)).trans ?_
      exact Hart.latch_setLatch_same _ _ _
    · exact ih _ hr hin

end

/-- The bins, the narrow latches and the wide latches that a port image gives (R229). -/
def binOf (b : List Byte) (i : Nat) : Latch := ⟨.full, BitVec.ofNat 512 (leNat ((b.drop (64 * i)).take 64))⟩
def narrowOf (b : List Byte) (x : (BitVec 6 × Nat × Nat) × Nat) : Latch :=
  if (wordAt b 1024).testBit (8 + x.2) then ⟨.full, BitVec.ofNat 512 (leNat ((b.drop x.1.2.1).take x.1.2.2))⟩ else Latch.empty
def wideOf (b : List Byte) (x : BitVec 6 × Nat) : Latch := if (wordAt b 1024).testBit (24 + x.2) then ⟨.lost, 0⟩ else Latch.empty

/-- Every latch that a port image gives, with its port (R228, R229). -/
def latchesOf (b : List Byte) : List (BitVec 6 × Latch) :=
  (List.range 16).map (fun i => (BitVec.ofNat 6 i, binOf b i)) ++ narrowLayout.zipIdx.map (fun x => (x.1.1, narrowOf b x)) ++
    wideLayout.zipIdx.map fun x => (x.1, wideOf b x)

theorem nodup_latchesOf (b : List Byte) : ((latchesOf b).map Prod.fst).Nodup := by
  unfold latchesOf
  rw [List.map_append, List.map_append, List.map_map, List.map_map, List.map_map]
  exact (by decide : ((List.range 16).map (BitVec.ofNat 6) ++ narrowLayout.zipIdx.map (·.1.1) ++ wideLayout.zipIdx.map (·.1)).Nodup)

/-- A hart that takes a port image takes its latches one after another, with SEQ and the ring (R229, R230). -/
theorem Hart.loadPorts_eq_foldl (h : Hart) (b : List Byte) : ∃ ring,
    h.loadPorts b = { (latchesOf b).foldl (fun h x => h.setLatch x.1 x.2) h with
      ring := ring, seq := BitVec.ofNat 8 (wordAt b 1024) } := by
  unfold latchesOf
  rw [List.foldl_append, List.foldl_append, List.foldl_map, List.foldl_map, List.foldl_map]
  exact ⟨_, rfl⟩

/-- A hart that takes a port image changes its ports, SEQ and ring alone (R229, R230). -/
theorem Hart.loadPorts_eq (h : Hart) (b : List Byte) : ∃ ports ring,
    h.loadPorts b = { h with ports := ports, ring := ring, seq := BitVec.ofNat 8 (wordAt b 1024) } := by
  obtain ⟨ring, hr⟩ := h.loadPorts_eq_foldl b
  obtain ⟨ports, hp⟩ := Hart.foldl_setLatch_eq Prod.fst Prod.snd (latchesOf b) h
  rw [hr, hp]
  exact ⟨_, _, rfl⟩

theorem Hart.latch_withRing (h : Hart) (ring : Vector (BitVec 16) 32) (seq : BitVec 8) (p : BitVec 6) :
    ({ h with ring := ring, seq := seq } : Hart).latch p = h.latch p := rfl

/-- Each bin holds its 64 bytes of a port image (R229). -/
theorem Hart.latch_loadPorts (h : Hart) (b : List Byte) (i : Fin 16) :
    (h.loadPorts b).latch (BitVec.ofNat 6 i.val) = binOf b i.val := by
  obtain ⟨ring, hr⟩ := h.loadPorts_eq_foldl b
  have hin : (BitVec.ofNat 6 i.val, binOf b i.val) ∈ latchesOf b := by
    unfold latchesOf
    exact List.mem_append_left _ (List.mem_append_left _ (List.mem_map.2 ⟨i.val, List.mem_range.2 i.isLt, rfl⟩))
  have hbin := Hart.latch_foldl_setLatch_mem Prod.fst Prod.snd _ h (nodup_latchesOf b) hin
  rw [hr]
  exact (Hart.latch_withRing _ _ _ _).trans hbin

/-! ### Registers that a transfer brings (R44, R167) -/

/-- The registers of a hart that takes up a record: its values, all full, and 0 in every other (R44). -/
theorem Hart.readX_takeUp (h : Hart) (t record : List Byte) (prio : BitVec 2) (now : Nat) {r : Reg} (hr : r ≠ 0) :
    (h.takeUp t record prio now).readX r = recordValue record r.toNat := by
  have hx : (h.takeUp t record prio now).x[r.toNat]'(r.isLt) = recordValue record r.toNat :=
    getElem_foldl_set_finRange (fun i _ => recordValue record i.val) _ ⟨r.toNat, r.isLt⟩
  rw [Hart.readX, if_neg hr, hx]

/-- The registers of a hart that takes up an image (R167). -/
theorem Hart.readX_loadPrefix (h : Hart) (b : List Byte) (now : Nat) {r : Reg} (hr : r ≠ 0) :
    (h.loadPrefix b now).readX r = BitVec.ofNat 64 (wordAt b (8 * r.toNat)) := by
  have hne : (⟨r.toNat, r.isLt⟩ : Fin 32) ≠ 0 := fun h0 => hr (BitVec.eq_of_toNat_eq (congrArg Fin.val h0))
  have hstep (v : Vector Word 32) (i : Fin 32) : (if i = 0 then v else v.set i (BitVec.ofNat 64 (wordAt b (8 * i.val)))) =
      v.set i (if i = 0 then v[i] else BitVec.ofNat 64 (wordAt b (8 * i.val))) := by
    split
    · exact (Vector.set_getElem_self _).symm
    · rfl
  have hx : (h.loadPrefix b now).x[r.toNat]'(r.isLt) = BitVec.ofNat 64 (wordAt b (8 * r.toNat)) := by
    unfold Hart.loadPrefix
    simp only [hstep]
    refine (getElem_foldl_set_finRange (fun i (w : Word) => if i = 0 then w else BitVec.ofNat 64 (wordAt b (8 * i.val))) _
      ⟨r.toNat, r.isLt⟩).trans ?_
    exact if_neg hne
  rw [Hart.readX, if_neg hr, hx]

/-- Which registers are full in an image (R167). -/
theorem Hart.isFull_loadPrefix (h : Hart) (b : List Byte) (now : Nat) {r : Reg} (hr : r ≠ 0) :
    (h.loadPrefix b now).isFull r = (wordAt b 320).testBit r.toNat := by
  have h0 : r.toNat ≠ 0 := fun he => hr (BitVec.eq_of_toNat_eq he)
  have hfull : (h.loadPrefix b now).xFull = BitVec.ofNat 32 (wordAt b 320) ||| 1 := rfl
  rw [Hart.isFull, hfull, beq_eq_false_iff_ne.2 hr, Bool.false_or, BitVec.getLsbD_or, BitVec.getLsbD_ofNat]
  have hone : (1 : BitVec 32).getLsbD r.toNat = false := by
    rw [show (1 : BitVec 32) = 1#32 from rfl, BitVec.getLsbD_one]; simp [h0]
  rw [hone, Bool.or_false, decide_eq_true r.isLt, Bool.true_and]

/-- The port file at take-up (R44). -/
theorem latch_portsReset {h : Hart} (hp : h.ports = portsReset) (p : BitVec 6) :
    h.latch p = if p.toNat < 16 then ⟨.full, 0⟩ else ⟨.empty, 0⟩ := by
  rw [Hart.latch, hp]
  unfold portsReset
  rw [Vector.getElem_append]
  split
  · exact Vector.getElem_replicate _
  · exact Vector.getElem_replicate _

/-! ### Harts that go on (R30, R44) -/

/-- The CSRs of a hart of a device of one die differ from others in satp and the bases alone (R1). -/
theorem State.ownDies_eq (s : State) (v : Hart) : ∃ satp spbase,
    s.ownDies v = { v with csr := { v.csr with satp := satp, spbase := spbase } } := by
  unfold State.ownDies
  split <;> exact ⟨_, _, rfl⟩

/-- A hart that enters RUNNING on a core that no `cmig` vacates (R44, R426). -/
theorem State.enterRunning_eq (s : State) (h : HartRef) (v : Hart) (hm : (s.core h.core).migration = none) :
    ∃ satp spbase count from_, s.enterRunning h v = s.setHart h { v with
      csr := { v.csr with satp := satp, spbase := spbase }, st := .running, job := .none, jobDue := 0, loaded := [], issueFrom := from_
      quantumCount := count, quantumSince := s.refTime } := by
  obtain ⟨satp, spbase, hv⟩ := s.ownDies_eq v
  unfold State.enterRunning
  dsimp only
  rw [hv, hm, if_neg (by simp)]
  exact ⟨satp, spbase, _, _, rfl⟩

/-! ### Loads (R44, R50, R167) -/

/-- A LOADING hart whose record is there is RUNNING with it (R44). -/
theorem State.hartLoadComplete_record {s : State} {h : HartRef} {record : List Byte} {prio : BitVec 2} {release : Nat}
    (harg : s.arg = .hart h) (hst : (s.hart h).st = .loading) (hdue : (s.hart h).jobDue ≤ s.coreCycle h.core)
    (hm : (s.core h.core).migration = none) (hjob : (s.hart h).job = .loadRecord record prio release none)
    (hout : s.outstanding [release] = []) :
    ∃ t, exec .hartLoadComplete s = .next t ∧ (∀ g : HartRef, g ≠ h → t.hart g = s.hart g) ∧ t.mem = s.mem ∧
      let w := t.hart h
      w.st = .running ∧ w.job = .none ∧ w.pc = BitVec.ofNat 64 (wordAt record 0) ∧ w.xFull = BitVec.allOnes 32 ∧ w.qFull = 0 ∧
      (∀ r : Reg, r ≠ 0 → w.readX r = recordValue record r.toNat) ∧ w.csr.taskret = taskretOf record prio ∧
      (∀ p, w.latch p = if p.toNat < 16 then ⟨.full, 0⟩ else ⟨.empty, 0⟩) ∧ w.seq = 0 ∧ w.ended = false := by
  have he : exec .hartLoadComplete s = .next (s.enterRunning h
      { (s.hart h).takeUp (s.templateOf h.core) record prio s.refTime with lines := [] }) := by
    have he : exec .hartLoadComplete s = execHartLoadComplete s := rfl
    rw [he, execHartLoadComplete, State.atHart_of_arg harg]
    dsimp only
    rw [if_pos ⟨hst, hdue⟩, hjob]
    dsimp only
    rw [hout]
    rfl
  obtain ⟨satp, spbase, count, from_, hrun⟩ := s.enterRunning_eq h
    { (s.hart h).takeUp (s.templateOf h.core) record prio s.refTime with lines := [] } hm
  rw [hrun] at he
  refine ⟨_, he, fun g hg => State.hart_setHart_other _ _ hg, rfl, ?_⟩
  rw [State.hart_setHart_same]
  exact ⟨rfl, rfl, rfl, rfl, rfl, fun r hr => Hart.readX_takeUp _ _ record prio _ hr, rfl, latch_portsReset rfl, rfl, rfl⟩

/-- A LOADING hart whose image has been read is RUNNING with it (R167, R194). -/
theorem State.hartLoadComplete_image {s : State} {h : HartRef} {off : Nat} (harg : s.arg = .hart h)
    (hst : (s.hart h).st = .loading) (hdue : (s.hart h).jobDue ≤ s.coreCycle h.core) (hm : (s.core h.core).migration = none)
    (hjob : (s.hart h).job = .loadImage off) :
    ∃ t, exec .hartLoadComplete s = .next t ∧ (∀ g : HartRef, g ≠ h → t.hart g = s.hart g) ∧ t.mem = s.mem ∧
      let w := t.hart h
      w.st = .running ∧ w.job = .none ∧ w.pc = BitVec.ofNat 64 (wordAt (s.hart h).loaded 0) ∧
      (∀ r : Reg, r ≠ 0 → w.readX r = BitVec.ofNat 64 (wordAt (s.hart h).loaded (8 * r.toNat)) ∧
        w.isFull r = (wordAt (s.hart h).loaded 320).testBit r.toNat) := by
  obtain ⟨ports, ring, hports⟩ := ((s.hart h).loadPrefix (s.hart h).loaded s.refTime).loadPorts_eq ((s.hart h).loaded.drop 640)
  have he : exec .hartLoadComplete s = .next (s.enterRunning h
      (((s.hart h).loadPrefix (s.hart h).loaded s.refTime).loadPorts ((s.hart h).loaded.drop 640))) := by
    have he : exec .hartLoadComplete s = execHartLoadComplete s := rfl
    rw [he, execHartLoadComplete, State.atHart_of_arg harg]
    dsimp only
    rw [if_pos ⟨hst, hdue⟩, hjob]
  rw [hports] at he
  obtain ⟨satp, spbase, count, from_, hrun⟩ := s.enterRunning_eq h { (s.hart h).loadPrefix (s.hart h).loaded s.refTime with
    ports := ports, ring := ring, seq := BitVec.ofNat 8 (wordAt ((s.hart h).loaded.drop 640) 1024) } hm
  rw [hrun] at he
  refine ⟨_, he, fun g hg => State.hart_setHart_other _ _ hg, rfl, ?_⟩
  rw [State.hart_setHart_same]
  exact ⟨rfl, rfl, rfl, fun r hr => ⟨Hart.readX_loadPrefix (s.hart h) _ s.refTime hr, Hart.isFull_loadPrefix (s.hart h) _ s.refTime hr⟩⟩

/-! ### Slots that carry an image (R34, R50) -/

/-- The piece of an image of 30 slots that slot k carries. -/
theorem pieceOf_slot {now due k : Nat} (hk : k < 30) (hdue : due = now + 1 + 16 * (29 - k)) :
    64 * (30 - 1 - (due - 1 - now) / 16) = 64 * k := by omega

/-- A slot of a load reads the next 64 bytes of the image. -/
theorem State.transferSlot_load {s : State} {off k : Nat} (hk : k < 30)
    (hdue : s.me.jobDue = s.coreCycle s.cur.core + 1 + 16 * (29 - k)) (hjob : s.me.job = .loadImage off) :
    s.transferSlot = s.setMe { s.me with
      issueFrom := s.coreCycle s.cur.core + 1
      loaded := s.me.loaded ++ Memory.readBytes s.mem (spadKey s.cur.core (off + 64 * k)) 64 } := by
  unfold State.transferSlot
  dsimp only
  rw [hjob]
  dsimp only
  rw [pieceOf_slot hk hdue, State.me_setMe, State.setMe_setMe]
  rfl

/-- A slot of a save writes the next 64 bytes of the image. -/
theorem State.transferSlot_save {s : State} {off k : Nat} (hk : k < 30)
    (hdue : s.me.jobDue = s.coreCycle s.cur.core + 1 + 16 * (29 - k)) (hjob : s.me.job = .save off) :
    ∃ pending, s.transferSlot.mem = Memory.writeBytes s.mem (spadKey s.cur.core (off + 64 * k))
      (((s.me.prefixImage s.refTime ++ s.me.portImage pending).drop (64 * k)).take 64) := by
  unfold State.transferSlot
  dsimp only
  rw [hjob]
  dsimp only
  rw [pieceOf_slot hk hdue, State.writeSpad_mem]
  exact ⟨_, rfl⟩

/-! ### Saves (R50, R227, R375) -/

/-- Repairs leave what a hart is doing (R377). -/
theorem Hart.repaired_job (v : Hart) : v.repaired.st = v.st ∧ v.repaired.job = v.job ∧ v.repaired.jobDue = v.jobDue := by
  have hstep (w : Hart) (e : BitVec 4 × BitVec 12) :
      ((w.repair e).st, (w.repair e).job, (w.repair e).jobDue) = (w.st, w.job, w.jobDue) := by
    unfold Hart.repair
    dsimp only
    split
    · simp
    · rfl
    · split <;> rfl
    · rfl
    · rfl
  have hrewritten : (v.rewritten.st, v.rewritten.job, v.rewritten.jobDue) = (v.st, v.job, v.jobDue) := by
    unfold Hart.rewritten
    split <;> rfl
  have hall := (foldl_keeps (fun (w : Hart) => (w.st, w.job, w.jobDue)) Hart.repair hstep v.rewritten.upsets v.rewritten).trans
    hrewritten
  simp only [Prod.mk.injEq] at hall
  exact hall

/-- A drained hart with no list of its core active enters SAVING over 30 slots (R50). -/
theorem State.enterSaving_spec {s : State} {h : HartRef} (job : Job) (hf : (s.hart h).flights = []) (hl : (s.core h.core).lists = []) :
    (∀ g : HartRef, g ≠ h → (s.enterSaving h job).hart g = s.hart g) ∧ (s.enterSaving h job).mem = s.mem ∧
    ((s.enterSaving h job).hart h).st = .saving ∧ ((s.enterSaving h job).hart h).job = job ∧
    ((s.enterSaving h job).hart h).jobDue = firstSlot h.hart (s.coreCycle h.core + 1) + 16 * 29 + 1 := by
  have hstop : s.stopLists h = s.setCore h.core { s.core h.core with lists := [] } := by
    unfold State.stopLists
    dsimp only
    rw [hl]
    rfl
  have hhart (g : HartRef) : (s.stopLists h).hart g = s.hart g := by rw [hstop]; exact s.hart_setCore_of_harts (by rfl) g
  have hcycle : (s.stopLists h).coreCycle h.core = s.coreCycle h.core := by rw [hstop]; rfl
  have hmem : (s.stopLists h).mem = s.mem := by rw [hstop]; rfl
  unfold State.enterSaving
  dsimp only
  rw [hhart h, hf, if_pos List.isEmpty_nil]
  generalize s.stopLists h = u at *
  unfold State.transfer
  dsimp only
  rw [State.setHart_setHart, State.hart_setHart_same, State.hart_setHart_same]
  refine ⟨fun g hg => (State.hart_setHart_other _ _ hg).trans (hhart g), hmem, ?_⟩
  obtain ⟨hst, hjob, hdue⟩ := Hart.repaired_job { (u.hart h).moveTo .saving u.refTime with
    wait := .none, job := job, jobDue := transferEnd h.hart (u.coreCycle h.core) 30, loaded := [], issueFrom := u.coreCycle h.core + 1 }
  exact ⟨hst, hjob, hdue.trans (by rw [hcycle]; rfl)⟩

/-! ### A scratchpad that moves (R198) -/

/-- The keys of memory in its canonical form rise from a bound. -/
theorem Memory.keys_of_wfFrom {m : List Host.Cell} {lo : Nat} (h : Memory.wfFrom lo m = true) :
    (∀ k ∈ m.map Prod.fst, lo ≤ k) ∧ (m.map Prod.fst).Nodup := by
  induction m generalizing lo with
  | nil => simp
  | cons c r ih =>
    simp only [Memory.wfFrom, Bool.and_eq_true, decide_eq_true_eq] at h
    obtain ⟨hle, hnd⟩ := ih h.2
    rw [List.map_cons]
    refine ⟨List.forall_mem_cons.2 ⟨h.1.1, fun k hk => ?_⟩, List.nodup_cons.2 ⟨fun hin => ?_, hnd⟩⟩
    · have := hle k hk; omega
    · have := hle _ hin; omega

/-- A byte that memory lists reads as it is listed, where each key is listed once. -/
theorem Memory.read_of_mem {m : List Host.Cell} (hnd : (m.map Prod.fst).Nodup) {k : Nat} {b : Byte} (h : (k, b) ∈ m) :
    Memory.read m k = b := by
  induction m with
  | nil => exact absurd h List.not_mem_nil
  | cons c r ih =>
    obtain ⟨hc, hr⟩ := List.nodup_cons.1 (List.map_cons ▸ hnd)
    rcases List.mem_cons.1 h with rfl | hin
    · exact if_pos rfl
    · have hne : c.1 ≠ k := fun he => hc (by rw [he]; exact List.mem_map_of_mem (f := Prod.fst) hin)
      exact (if_neg hne).trans (ih hr hin)

/-- A byte that memory does not list. -/
theorem Memory.read_of_not_mem {m : List Host.Cell} {k : Nat} (h : k ∉ m.map Prod.fst) : Memory.read m k = Memory.unlisted := by
  induction m with
  | nil => rfl
  | cons c r ih =>
    rw [List.map_cons, List.mem_cons, not_or] at h
    exact (if_neg fun he => h.1 he.symm).trans (ih h.2)

/-- A byte written by its key reads as written, where each key is written once. -/
theorem Memory.read_writeKeys_mem {m : List Host.Cell} {cells : List (Nat × Byte)} (hm : Memory.wf m = true)
    (hnd : (cells.map Prod.fst).Nodup) {k : Nat} {b : Byte} (h : (k, b) ∈ cells) : Memory.read (Memory.writeKeys m cells) k = b := by
  induction cells generalizing m with
  | nil => exact absurd h List.not_mem_nil
  | cons c r ih =>
    obtain ⟨hc, hr⟩ := List.nodup_cons.1 (List.map_cons ▸ hnd)
    rcases List.mem_cons.1 h with rfl | hin
    · refine (Memory.read_writeKeys_other (m := Memory.write m k b) r fun p hp he => ?_).trans (Memory.read_write_same b hm)
      exact hc (List.mem_map.2 ⟨p, hp, he⟩)
    · exact ih (Memory.wf_write c.1 c.2 hm) hr hin

/-- The scratchpad of a core replaces that of another (R198). -/
theorem State.moveScratchpad_read (s : State) (core target : Nat) (hwf : Memory.wf s.mem = true) {o : Nat}
    (ho : o < 2 ^ 18) :
    Memory.read (s.moveScratchpad core target).mem (spadKey target o) = Memory.read s.mem (spadKey core o) := by
  have hnd := (Memory.keys_of_wfFrom hwf).2
  have hfilter : Memory.wf (s.mem.filter fun c => !(decide (spadKey target 0 ≤ c.1) && decide (c.1 < spadKey target 0 + 2 ^ 18))) = true :=
    Memory.wfFrom_filter _ hwf
  unfold State.moveScratchpad
  dsimp only
  generalize hcells : (s.mem.filter fun c => decide (spadKey core 0 ≤ c.1) && decide (c.1 < spadKey core 0 + 2 ^ 18)).map
    (fun c => (c.1 - spadKey core 0 + spadKey target 0, c.2)) = cells
  have hcellsnd : (cells.map Prod.fst).Nodup := by
    have hmap : cells.map Prod.fst = ((s.mem.filter fun c => decide (spadKey core 0 ≤ c.1) &&
        decide (c.1 < spadKey core 0 + 2 ^ 18)).map Prod.fst).map (fun k => k - spadKey core 0 + spadKey target 0) := by
      rw [← hcells, List.map_map, List.map_map]; rfl
    rw [hmap]
    refine List.Nodup.map_on (fun x hx y hy hxy => ?_) (hnd.sublist (List.filter_sublist.map _))
    obtain ⟨c, hc, rfl⟩ := List.mem_map.1 hx
    obtain ⟨d, hd, rfl⟩ := List.mem_map.1 hy
    have hc' := (List.mem_filter.1 hc).2
    have hd' := (List.mem_filter.1 hd).2
    simp only [Bool.and_eq_true, decide_eq_true_eq] at hc' hd'
    omega
  have hfrom : spadKey core 0 ≤ spadKey core o ∧ spadKey core o < spadKey core 0 + 2 ^ 18 := by unfold spadKey; omega
  have hto : spadKey core o - spadKey core 0 + spadKey target 0 = spadKey target o := by unfold spadKey; omega
  by_cases hin : spadKey core o ∈ s.mem.map Prod.fst
  · obtain ⟨⟨k, b⟩, hb, hk⟩ := List.mem_map.1 hin
    dsimp only at hk
    subst hk
    rw [Memory.read_of_mem hnd hb]
    refine Memory.read_writeKeys_mem hfilter hcellsnd ?_
    rw [← hcells]
    refine List.mem_map.2 ⟨_, List.mem_filter.2 ⟨hb, ?_⟩, ?_⟩
    · simp only [Bool.and_eq_true, decide_eq_true_eq]; exact hfrom
    · dsimp only; rw [hto]
  · rw [Memory.read_of_not_mem hin, Memory.read_writeKeys_other]
    · refine Memory.read_of_not_mem fun hk => ?_
      obtain ⟨c, hc, hck⟩ := List.mem_map.1 hk
      have hout := (List.mem_filter.1 hc).2
      have hwithin : spadKey target 0 ≤ c.1 ∧ c.1 < spadKey target 0 + 2 ^ 18 := by rw [hck]; unfold spadKey; omega
      simp only [hwithin, decide_true, Bool.and_self, Bool.not_true, Bool.false_eq_true] at hout
    · intro p hp he
      rw [← hcells] at hp
      obtain ⟨c, hc, rfl⟩ := List.mem_map.1 hp
      obtain ⟨hmem, hc'⟩ := List.mem_filter.1 hc
      simp only [Bool.and_eq_true, decide_eq_true_eq] at hc'
      dsimp only at he
      refine hin (List.mem_map.2 ⟨c, hmem, ?_⟩)
      omega

/-! ### Core contexts that move (R198) -/

theorem foldl_fixed {σ α : Type} (f : σ → α → σ) {l : List α} {s : σ} (h : ∀ a ∈ l, f s a = s) : l.foldl f s = s := by
  induction l with
  | nil => rfl
  | cons a r ih =>
    rw [List.foldl_cons, h a List.mem_cons_self]
    exact ih fun b hb => h b (List.mem_cons_of_mem _ hb)

/-- Nothing more drains on a core whose harts are OFF or drain for its `cmig`. -/
theorem State.drainCore_of_drained {s : State} {core : Nat}
    (h : ∀ i : HartId, (s.hart ⟨core, i⟩).st = .off ∨ (s.hart ⟨core, i⟩).job = .migrate) : s.drainCore core = s := by
  unfold State.drainCore
  refine foldl_fixed _ fun i _ => ?_
  dsimp only
  split
  · rfl
  · next hd =>
      rcases h i with hoff | hjob
      · rw [hoff]
      · have : (s.hart ⟨core, i⟩).drainable = false := by rw [Hart.drainable, hjob]
        simp [this] at hd

/-- The harts of a vacated core are OFF. -/
theorem Core.vacated_st (c : Core) (i : HartId) : c.vacated.harts[i].st = .off := by
  have hi : c.vacated.harts[i] = { c.harts[i].fresh with
      st := .off, arrived := none, gbars := [], pending := [], upcalls := [] } :=
    getElem_foldl_set_finRange (fun _ (v : Hart) => { v.fresh with
      st := .off, arrived := none, gbars := [], pending := [], upcalls := [] }) c.harts i
  rw [hi]

/-- The last of the move of a core context: the vacated core, its doorplate, and what travels named anew (R86, R198). -/
def State.vacate (s : State) (core target : Nat) (old : Core) (stub : Nat) (plate : Stub) : State :=
  { (s.setCore core old).setStub (dieOf core) stub plate with
    reqs := s.reqs.map fun (r : Req) => { r with
      src := r.src.moved core target, image := r.image.map fun i => if i.1 = core then (target, i.2) else i }
    msgs := s.msgs.map fun (m : Msg) => { m with body := m.body.moved core target } }

theorem State.moveCore_eq (s : State) (core target : Nat) (rd : Reg) (stub : Nat) :
    let u := s.setHart ⟨core, 0⟩ ((s.hart ⟨core, 0⟩).fill rd 0).advance
    ∃ ctxs, s.moveCore core target rd stub =
      ({ (u.setCore target (u.movedCore core target)).moveScratchpad core target with ctxs := ctxs } : State).vacate core target
        (u.core core).vacated stub (u.contextStub core target) := by
  unfold State.moveCore
  dsimp only
  split
  · split
    · exact ⟨_, rfl⟩
    · exact ⟨_, rfl⟩
  · exact ⟨_, rfl⟩

theorem State.vacate_cores (s : State) (core target : Nat) (old : Core) (stub : Nat) (plate : Stub) :
    (s.vacate core target old stub plate).core core = old ∧
    (∀ c, c ≠ core → (s.vacate core target old stub plate).core c = s.core c) ∧
    tableGet ((s.vacate core target old stub plate).die (dieOf core)).stubs stub = some plate := by
  refine ⟨State.core_setCore_same s core old, fun c hc => State.core_setCore_other s old hc, ?_⟩
  have hdie : (s.vacate core target old stub plate).die (dieOf core) = { s.die (dieOf core) with
      stubs := tableSet (s.die (dieOf core)).stubs stub plate } := State.die_setDie_same (s.setCore core old) _ _
  rw [hdie]
  exact tableGet_tableSet_same _ _ _

theorem Core.vacated_ctx (c : Core) : c.vacated.ctx = none := rfl
theorem State.movedCore_ctx (s : State) (core target : Nat) : (s.movedCore core target).ctx = (s.core core).ctx := by
  simp only [State.movedCore]
theorem State.movedCore_tasks (s : State) (core target : Nat) :
    (s.movedCore core target).tasks.length = (s.core core).tasks.length := List.length_map _

/-- What the move of a core context leaves (R86, R92, R198). -/
theorem State.moveCore_spec (s : State) {core target : Nat} (rd : Reg) (stub : Nat) (hne : core ≠ target) :
    ((s.moveCore core target rd stub).core core).ctx = none ∧
    (∀ i, ((s.moveCore core target rd stub).hart ⟨core, i⟩).st = .off) ∧
    ((s.moveCore core target rd stub).core target).ctx = (s.core core).ctx ∧
    ((s.moveCore core target rd stub).core target).tasks.length = (s.core core).tasks.length ∧
    (∀ o, o < 2 ^ 18 → Memory.wf s.mem = true →
      Memory.read (s.moveCore core target rd stub).mem (spadKey target o) = Memory.read s.mem (spadKey core o)) ∧
    ∃ p, tableGet ((s.moveCore core target rd stub).die (dieOf core)).stubs stub = some p ∧ p.st = .quiet ∧ p.ctx = true ∧
      p.region = BitVec.ofNat 36 core ∧ p.request = some target := by
  obtain ⟨hctx, htasks⟩ : ((s.setHart ⟨core, 0⟩ ((s.hart ⟨core, 0⟩).fill rd 0).advance).core core).ctx = (s.core core).ctx ∧
      ((s.setHart ⟨core, 0⟩ ((s.hart ⟨core, 0⟩).fill rd 0).advance).core core).tasks = (s.core core).tasks := by
    rw [State.setHart, State.core_setCore_same]; exact ⟨rfl, rfl⟩
  have hmem : (s.setHart ⟨core, 0⟩ ((s.hart ⟨core, 0⟩).fill rd 0).advance).mem = s.mem := rfl
  obtain ⟨ctxs, ht⟩ := s.moveCore_eq core target rd stub
  dsimp only at ht
  generalize s.setHart ⟨core, 0⟩ ((s.hart ⟨core, 0⟩).fill rd 0).advance = u at hctx htasks hmem ht
  obtain ⟨hcore, hother, hstub⟩ :=
    ({ (u.setCore target (u.movedCore core target)).moveScratchpad core target with ctxs := ctxs } : State).vacate_cores core target
      (u.core core).vacated stub (u.contextStub core target)
  rw [← ht] at hcore hother hstub
  have htarget : (s.moveCore core target rd stub).core target = u.movedCore core target :=
    (hother target hne.symm).trans (State.core_setCore_same u target _)
  refine ⟨by rw [hcore, Core.vacated_ctx], fun i => ?_, by rw [htarget, State.movedCore_ctx, hctx],
    by rw [htarget, State.movedCore_tasks, htasks], fun o ho hwf => ?_, _, hstub, rfl, rfl, rfl, rfl⟩
  · rw [State.hart, hcore]; exact Core.vacated_st _ i
  · rw [ht, ← hmem]
    exact State.moveScratchpad_read (u.setCore target (u.movedCore core target)) core target (hmem ▸ hwf) ho

theorem Hart.advance_eq_next (v : Hart) : v.advance = v.next := rfl

/-- A port image transfer of a RUNNING hart with nothing in flight: its 20 slots begin, or it has ended (R196, R228). -/
theorem exec_portImage {s : State} {h : HartRef} {off : Nat} {done : Hart} (harg : s.arg = .hart h) (hst : (s.hart h).st = .running)
    (hf : (s.hart h).flights = []) (hjob : (s.hart h).job = .portSave off ∧ done = s.hart h ∨
      (s.hart h).job = .portLoad off ∧ done = (s.hart h).loadPorts (s.hart h).loaded) :
    exec .portImageTransferComplete s = .next (
      if (s.hart h).jobDue = 0 then s.setHart h { s.hart h with
        jobDue := transferEnd h.hart (s.coreCycle h.core) 20, loaded := [], issueFrom := s.coreCycle h.core + 1 }
      else if s.coreCycle h.core < (s.hart h).jobDue then s
      else s.setHart h { done.next with job := .none, jobDue := 0, loaded := [] }) := by
  have he : exec .portImageTransferComplete s = execPortImageTransferComplete s := rfl
  have hgo : ¬ ((s.hart h).st ≠ .running ∨ (!(s.hart h).flights.isEmpty) = true) := by simp [hst, hf]
  rw [he, execPortImageTransferComplete, State.atHart_of_arg harg]
  rcases hjob with ⟨hjob, rfl⟩ | ⟨hjob, hdone⟩
  · dsimp only
    rw [hjob]
    dsimp only
    rw [if_neg hgo, Hart.advance_eq_next]
  · dsimp only
    rw [hjob]
    dsimp only
    rw [← hdone, if_neg hgo, Hart.advance_eq_next]

/-- Settles O29: each transfer by the step that ends it. -/
theorem hartTransfers : Obligations.HartTransfers := by
  intro s h v now others loaded
  refine ⟨fun harg hst hdue hm => ⟨fun record prio release hjob hout => ?_, fun off hjob => ?_⟩,
    fun off k hcur hk hdue hoff => ⟨fun hjob => ?_, fun hjob => ?_⟩, fun off harg hjob hst hdue hf hl => ?_,
    fun off harg hjob hst hdue => ?_, fun off harg hst hf => ⟨fun hjob h0 => ?_, fun hjob h0 hdue => ?_, fun hjob h0 hdue => ?_⟩,
    fun core target rd stub harg hne hmig hl hdrained hstub hharts => ?_⟩
  · exact State.hartLoadComplete_record harg hst hdue hm hjob hout
  · exact State.hartLoadComplete_image harg hst hdue hm hjob
  · subst hcur
    rw [State.transferSlot_load hk hdue hjob]
    exact ⟨fun g hg => State.hart_setHart_other _ _ hg, rfl, State.me_setMe _ _⟩
  · subst hcur
    exact State.transferSlot_save hk hdue hjob
  · have he : exec .hsaveDrainComplete s = .next (s.enterSaving h (.save off)) := by
      have he : exec .hsaveDrainComplete s = execHsaveDrainComplete s := rfl
      rw [he, execHsaveDrainComplete, State.atHart_of_arg harg]
      rw [if_neg (Nat.not_lt.2 hdue), show (s.hart h).job = .save off from hjob]
      rcases hst with hst | hst
      · rw [show (s.hart h).st = .running from hst]
      · rw [show (s.hart h).st = .parked from hst]
    exact ⟨_, he, State.enterSaving_spec (.save off) hf hl⟩
  · have he : exec .hartSaveComplete s = execHartSaveComplete s := rfl
    rw [he, execHartSaveComplete, State.atHart_of_arg harg]
    dsimp only
    rw [show (s.hart h).job = .save off from hjob]
    dsimp only
    rw [if_pos ⟨hst, hdue⟩]
    refine ⟨_, rfl, fun g hg => State.hart_setHart_other _ _ hg, ?_, ?_, rfl⟩
    · rw [State.hart_setHart_same]; rfl
    · rw [State.hart_setHart_same]; rfl
  · rcases hjob with hjob | hjob
    · rw [exec_portImage harg hst hf (.inl ⟨hjob, rfl⟩), if_pos h0]; rfl
    · obtain ⟨done, hdone⟩ : ∃ d, d = (s.hart h).loadPorts (s.hart h).loaded := ⟨_, rfl⟩
      rw [exec_portImage harg hst hf (.inr ⟨hjob, hdone⟩), if_pos h0]; rfl
  · rw [exec_portImage harg hst hf (.inl ⟨hjob, rfl⟩), if_neg h0, if_neg (Nat.not_lt.2 hdue)]
  · obtain ⟨w, hw⟩ : ∃ d, d = (s.hart h).loadPorts (s.hart h).loaded := ⟨_, rfl⟩
    have he := exec_portImage harg hst hf (.inr ⟨hjob, hw⟩)
    rw [if_neg h0, if_neg (Nat.not_lt.2 hdue)] at he
    obtain ⟨ports, ring, hports⟩ := (s.hart h).loadPorts_eq (s.hart h).loaded
    have hpc : ((s.hart h).loadPorts (s.hart h).loaded).pc = v.pc := by rw [hports]
    have hseq : ((s.hart h).loadPorts (s.hart h).loaded).seq = BitVec.ofNat 8 (wordAt loaded 1024) := by rw [hports]
    have hbins := (s.hart h).latch_loadPorts (s.hart h).loaded
    rw [← hw] at hpc hseq hbins
    refine ⟨_, he, ?_, ?_, rfl, fun g hg => State.hart_setHart_other _ _ hg, ?_, fun i => ?_⟩
    · rw [State.hart_setHart_same]; exact congrArg (· + 4) hpc
    · rw [State.hart_setHart_same]
    · rw [State.hart_setHart_same]; exact hseq
    · rw [State.hart_setHart_same]; exact hbins i
  · have he : exec .cmigComplete s = .next (s.moveCore core target rd stub) := by
      have he : exec .cmigComplete s = execCmigComplete s := rfl
      rw [he, execCmigComplete, harg]
      dsimp only
      rw [hmig]
      dsimp only
      rw [State.drainCore_of_drained hharts, hdrained, hstub]
    exact ⟨_, he, s.moveCore_spec rd stub hne⟩

end Sys2Proof.Machine
end

section
/-! SUPPORT. Ends of tasks, wakes, quanta and what a hart takes in a slot of its own (R30 to R32, R39, R47, R52, R363, R364, R367),
with the statement HartEndsWakesAndTraps. -/

namespace Sys2Proof.Machine

/-! ### The end of a task (R39, R195) -/

/-- A hart whose task has ended with a value (R39). -/
def endedWith (s : State) (h : HartRef) (exit : Word) : Prop :=
  (s.hart h).st = .off ∧ (s.hart h).exitVal = exit ∧ (s.hart h).ended = true

theorem endedWith_of_hart {s t : State} {h : HartRef} {exit : Word} (hs : endedWith s h exit) (ht : t.hart h = s.hart h) :
    endedWith t h exit := by
  unfold endedWith
  rw [ht]
  exact hs

theorem endedWith_setHart {s : State} {h g : HartRef} {exit : Word} {v : Hart} (hs : endedWith s h exit)
    (hv : g = h → v.st = (s.hart h).st ∧ v.exitVal = (s.hart h).exitVal ∧ v.ended = (s.hart h).ended) :
    endedWith (s.setHart g v) h exit := by
  by_cases hg : g = h
  · subst hg
    obtain ⟨hst, hexit, hended⟩ := hv rfl
    unfold endedWith
    rw [State.hart_setHart_same, hst, hexit, hended]
    exact hs
  · exact endedWith_of_hart hs (State.hart_setHart_other _ _ (Ne.symm hg))

theorem endedWith_hold {s : State} {h : HartRef} {exit : Word} (hs : endedWith s h exit) (g : HartRef) :
    endedWith (s.hold g) h exit := by
  have hother (v : Hart) (hst : (s.hart g).st ≠ .off) : endedWith (s.setHart g v) h exit :=
    endedWith_setHart hs fun he => absurd (he ▸ hs.1) hst
  unfold State.hold
  dsimp only
  split
  · next hst => exact hother _ (by rw [hst]; nofun)
  · next hst => exact hother _ (by rw [hst]; nofun)
  · exact hs

theorem endedWith_raise {s : State} {h : HartRef} {exit : Word} (hs : endedWith s h exit) (d : DieId) (f : FaultRec) :
    endedWith (s.raise d f) h exit := by
  unfold State.raise
  dsimp only
  split
  · split
    · exact endedWith_hold (s := s.setDie d _) hs _
    · exact hs
  · exact hs

/-- A fault that goes to a record changes its request, the die's queue, and perhaps a hart that becomes HELD (R366, R374). -/
theorem State.recordFault_eq (s : State) (r : Req) (code : BitVec 8) (addr : Word) (detail : BitVec 16) (source : Nat) :
    ∃ dies cores, s.recordFault r code addr detail source = { s with
      reqs := s.reqs.map (fun q => if q.id = r.id then { r with stage := .recorded code } else q), dies := dies, cores := cores } := by
  unfold State.recordFault
  dsimp only
  exact State.raise_eq _ _ _

theorem endedWith_recordFault {s : State} {h : HartRef} {exit : Word} (hs : endedWith s h exit) (r : Req) (code : BitVec 8)
    (addr : Word) (detail : BitVec 16) (source : Nat) : endedWith (s.recordFault r code addr detail source) h exit :=
  endedWith_raise (s := s.setReq { r with stage := .recorded code }) hs _ _

/-- What stays of a state as a task ends: memory, messages, and requests that are for no image (R195, R231). -/
def endFrame (mem : List Host.Cell) (msgs : List Msg) (s : State) : Prop :=
  s.mem = mem ∧ s.msgs = msgs ∧ ∀ r ∈ s.reqs, r.image = none

/-- A property of a request that the end of its hart's task does not touch. -/
structure OutlivesTask (G : Req → Prop) : Prop where
  stage : ∀ r x, G r → G { r with stage := x }
  dest : ∀ r, G r → G { r with dest := .none }
  kind : ∀ r, G r → r.kind ≠ .acquire
  waits : ∀ r, G r → r.waits ≠ [r.id]

/-- The requests of an identifier have a property, and there is one. -/
def holdsRequest (G : Req → Prop) (n : Nat) (s : State) : Prop :=
  (∀ r ∈ s.reqs, r.id = n → G r) ∧ (∃ r ∈ s.reqs, r.id = n) ∧ n < s.nextId

/-- A change of each request that keeps its identifier. -/
theorem holdsRequest_map {G : Req → Prop} {n : Nat} {s t : State} {f : Req → Req} (hs : holdsRequest G n s)
    (hreqs : t.reqs = s.reqs.map f) (hnext : t.nextId = s.nextId) (hid : ∀ r, (f r).id = r.id)
    (hG : ∀ r ∈ s.reqs, r.id = n → G (f r)) : holdsRequest G n t := by
  obtain ⟨-, ⟨q, hq, hqn⟩, hlt⟩ := hs
  refine ⟨fun r hr hrn => ?_, ⟨f q, hreqs ▸ List.mem_map_of_mem hq, (hid q).trans hqn⟩, hnext ▸ hlt⟩
  rw [hreqs] at hr
  obtain ⟨p, hp, rfl⟩ := List.mem_map.1 hr
  exact hG p hp ((hid p).symm.trans hrn)

theorem holdsRequest_filter {G : Req → Prop} {n : Nat} {s t : State} {f : Req → Bool} (hs : holdsRequest G n s)
    (hreqs : t.reqs = s.reqs.filter f) (hnext : t.nextId = s.nextId) (hf : ∀ r ∈ s.reqs, r.id = n → f r = true) :
    holdsRequest G n t := by
  obtain ⟨hG, ⟨q, hq, hqn⟩, hlt⟩ := hs
  exact ⟨fun r hr => hG r (List.mem_filter.1 (hreqs ▸ hr)).1, ⟨q, hreqs ▸ List.mem_filter.2 ⟨hq, hf q hq hqn⟩, hqn⟩, hnext ▸ hlt⟩

theorem holdsRequest_addReq {G : Req → Prop} {n : Nat} {s : State} (hs : holdsRequest G n s) (r : Req) :
    holdsRequest G n (s.addReq r) := by
  obtain ⟨hG, ⟨q, hq, hqn⟩, hlt⟩ := hs
  refine ⟨fun p hp hpn => ?_, ⟨q, s.mem_addReq r q hq, hqn⟩, Nat.lt_succ_of_lt hlt⟩
  rcases List.mem_append.1 hp with hp | hp
  · exact hG p hp hpn
  · rw [List.mem_singleton.1 hp] at hpn
    exact absurd hpn (Nat.ne_of_gt hlt)

theorem State.req?_mem {s : State} {n : Nat} {r : Req} (h : s.req? n = some r) : r ∈ s.reqs ∧ r.id = n :=
  ⟨List.mem_of_find?_eq_some h, by simpa using List.find?_some h⟩

/-! Faults that wait for an upcall of the task are recorded. -/

theorem endFrame_recordFault {mem : List Host.Cell} {msgs : List Msg} {s : State} (hs : endFrame mem msgs s) {r : Req}
    (hr : r ∈ s.reqs) (code : BitVec 8) (addr : Word) (detail : BitVec 16) (source : Nat) :
    endFrame mem msgs (s.recordFault r code addr detail source) := by
  obtain ⟨_, _, he⟩ := s.recordFault_eq r code addr detail source
  obtain ⟨hmem, hmsgs, himg⟩ := hs
  rw [he]
  refine ⟨hmem, hmsgs, fun q hq => ?_⟩
  obtain ⟨p, hp, rfl⟩ := List.mem_map.1 hq
  split
  · exact himg r hr
  · exact himg p hp

theorem holdsRequest_recordFault {G : Req → Prop} (hG : OutlivesTask G) {n : Nat} {s : State} (hs : holdsRequest G n s) {r : Req}
    (hr : r ∈ s.reqs) (code : BitVec 8) (addr : Word) (detail : BitVec 16) (source : Nat) :
    holdsRequest G n (s.recordFault r code addr detail source) := by
  obtain ⟨_, _, he⟩ := s.recordFault_eq r code addr detail source
  rw [he]
  refine holdsRequest_map hs rfl rfl (fun q => ?_) fun q hq hqn => ?_
  · split
    · next h => exact h.symm
    · rfl
  · split
    · next h => exact hG.stage r _ (hs.1 r hr (h.symm.trans hqn))
    · exact hs.1 q hq hqn

/-- Everything that the recording of waiting faults keeps. -/
theorem recordUpcalls_keeps {P : State → Prop} {s : State} {h : HartRef} {l : List Upcall}
    (hset : P (s.setHart h { s.hart h with upcalls := [] }))
    (hrec : ∀ (s : State) (r : Req) (code : BitVec 8) (addr : Word), P s → r ∈ s.reqs → P (s.recordFault r code addr 0 3)) :
    P (s.recordUpcalls h l) := by
  unfold State.recordUpcalls
  refine List.foldlRecOn l _ hset fun t ht u _ => ?_
  split
  · next r hr => exact hrec t r u.code u.addr ht (State.req?_mem hr).1
  · exact ht

/-! Fills of `hreap`. -/

/-- Everything that the fills of waiting `hreap`s keep. -/
theorem fillReaps_keeps {P : State → Prop} {s : State} {h : HartRef} {exit : Word} (hs : P s)
    (himg : ∀ r ∈ s.reqs, r.image = none)
    (hadd : ∀ (s : State) (r : Req), P s → r.image = none → P (s.addReq r))
    (hset : ∀ (s : State) (g : HartRef) (x : Reg), P s → P (s.setHart g ((s.hart g).fill x exit)))
    (hdrop : ∀ (t : State) (r : Req), P t → r ∈ s.reqs → r.kind = .acquire → P (t.dropReq r.id)) : P (s.fillReaps h exit) := by
  unfold State.fillReaps
  dsimp only
  refine List.foldlRecOn _ _ hs fun t ht r hr => ?_
  obtain ⟨hin, hkind⟩ := List.mem_filter.1 hr
  simp only [Bool.and_eq_true, beq_iff_eq] at hkind
  have hacq : r.kind = .acquire := by tauto
  split
  · next rd _ g _ _ =>
      refine hdrop _ r ?_ hin hacq
      unfold State.fillRegister
      rw [himg r hin]
      dsimp only
      split
      · exact hadd t _ ht rfl
      · exact hset t g rd ht
  · exact hdrop t r ht hin hacq

/-! The end itself. -/

theorem State.withoutTask_ended (s : State) (h : HartRef) (exit : Word) :
    endedWith (s.setHart h { ((s.hart h).moveTo .off s.refTime).withoutTask with exitVal := exit, ended := true }) h exit := by
  unfold endedWith
  rw [State.hart_setHart_same]
  exact ⟨rfl, rfl, rfl⟩

/-- The state in which the fills of waiting `hreap`s begin as a task ends. -/
def State.taskGone (s : State) (h : HartRef) (exit : Word) : State :=
  let v := (s.hart h).moveTo .off s.refTime
  let s := (s.setHart h { v.withoutTask with exitVal := exit, ended := true }).recordUpcalls h v.upcalls
  { s with reqs := (s.reqs.filter fun r => !(r.src.hart? == some h && r.image.isNone && r.waits == [r.id])).map (Req.orphaned h) }

theorem State.endTask_eq (s : State) (h : HartRef) (exit : Word) (hup : (s.hart h).upReserved = false) :
    s.endTask h exit = (s.taskGone h exit).fillReaps h exit := by
  have hup' : ((s.hart h).moveTo .off s.refTime).upReserved = false := hup
  unfold State.endTask State.taskGone
  dsimp only
  rw [hup']
  rfl

theorem Req.orphaned_eq (h : HartRef) (r : Req) : r.orphaned h = r ∨ r.orphaned h = { r with dest := .none } := by
  unfold Req.orphaned
  split
  · split
    · exact .inr rfl
    · exact .inl rfl
  · exact .inl rfl

theorem Req.orphaned_id (h : HartRef) (r : Req) : (r.orphaned h).id = r.id := by
  rcases r.orphaned_eq h with he | he <;> rw [he]

/-- The task has ended, memory and messages are as before, and no request is for an image (R39, R195). -/
theorem State.taskGone_spec (s : State) (h : HartRef) (exit : Word) (himg : ∀ r ∈ s.reqs, r.image = none) :
    endedWith (s.taskGone h exit) h exit ∧ endFrame s.mem s.msgs (s.taskGone h exit) := by
  have hended := recordUpcalls_keeps (P := fun t => endedWith t h exit) (h := h) (l := ((s.hart h).moveTo .off s.refTime).upcalls)
    (endedWith_setHart (g := h) (s.withoutTask_ended h exit) fun _ => ⟨rfl, rfl, rfl⟩)
    fun _ r code addr ht _ => endedWith_recordFault ht r code addr 0 3
  have hframe := recordUpcalls_keeps (P := endFrame s.mem s.msgs) (h := h) (l := ((s.hart h).moveTo .off s.refTime).upcalls)
    (s := s.setHart h { ((s.hart h).moveTo .off s.refTime).withoutTask with exitVal := exit, ended := true }) ⟨rfl, rfl, himg⟩
    fun _ r code addr ht hr => endFrame_recordFault ht hr code addr 0 3
  obtain ⟨hmem, hmsgs, himg'⟩ := hframe
  refine ⟨hended, hmem, hmsgs, fun r hr => ?_⟩
  obtain ⟨q, hq, rfl⟩ := List.mem_map.1 hr
  have := himg' q (List.mem_filter.1 hq).1
  rcases q.orphaned_eq h with he | he <;> rw [he] <;> exact this

/-- A request that its task's end does not touch stays. -/
theorem State.taskGone_holds {G : Req → Prop} (hG : OutlivesTask G) {n : Nat} {s : State} (hs : holdsRequest G n s) (h : HartRef)
    (exit : Word) : holdsRequest G n (s.taskGone h exit) := by
  have hrec := recordUpcalls_keeps (P := holdsRequest G n) (h := h) (l := ((s.hart h).moveTo .off s.refTime).upcalls)
    (s := s.setHart h { ((s.hart h).moveTo .off s.refTime).withoutTask with exitVal := exit, ended := true }) hs
    fun _ r code addr ht hr => holdsRequest_recordFault hG ht hr code addr 0 3
  generalize hu : (s.setHart h { ((s.hart h).moveTo .off s.refTime).withoutTask with
    exitVal := exit, ended := true }).recordUpcalls h ((s.hart h).moveTo .off s.refTime).upcalls = u at hrec
  have hfiltered := holdsRequest_filter (t := { u with
      reqs := u.reqs.filter fun r => !(r.src.hart? == some h && r.image.isNone && r.waits == [r.id]) }) hrec rfl rfl
    fun r hr hrn => by
      have := hG.waits r (hrec.1 r hr hrn)
      simp [this]
  have hmapped := holdsRequest_map (t := { u with
      reqs := (u.reqs.filter fun r => !(r.src.hart? == some h && r.image.isNone && r.waits == [r.id])).map (Req.orphaned h) })
    hfiltered rfl rfl (Req.orphaned_id h) fun r hr hrn => by
      have hr' := hfiltered.1 r hr hrn
      rcases r.orphaned_eq h with he | he
      · rw [he]; exact hr'
      · rw [he]; exact hG.dest r hr'
  subst hu
  exact hmapped

/-- What the end of a task leaves (R39, R195). -/
theorem State.endTask_spec (s : State) (h : HartRef) (exit : Word) (hup : (s.hart h).upReserved = false)
    (himg : ∀ r ∈ s.reqs, r.image = none) :
    endedWith (s.endTask h exit) h exit ∧ (s.endTask h exit).mem = s.mem ∧ (s.endTask h exit).msgs = s.msgs := by
  obtain ⟨hended, hmem, hmsgs, himg'⟩ := s.taskGone_spec h exit himg
  rw [s.endTask_eq h exit hup]
  refine ⟨fillReaps_keeps (P := fun t => endedWith t h exit) hended himg' (fun _ _ ht _ => ht) (fun t g x ht => ?_)
    fun _ _ ht _ _ => ht, ?_⟩
  · exact endedWith_setHart ht fun hg => by subst hg; simp
  · exact fillReaps_keeps (P := fun t => t.mem = s.mem ∧ t.msgs = s.msgs) ⟨hmem, hmsgs⟩ himg' (fun _ _ ht _ => ht)
      (fun _ _ _ ht => ht) fun _ _ ht _ _ => ht

/-- A request that the end of a task does not touch stays. -/
theorem State.endTask_holds {G : Req → Prop} (hG : OutlivesTask G) {n : Nat} {s : State} (hs : holdsRequest G n s) (h : HartRef)
    (exit : Word) (hup : (s.hart h).upReserved = false) (himg : ∀ r ∈ s.reqs, r.image = none) :
    ∃ r ∈ (s.endTask h exit).reqs, G r := by
  have hgone := State.taskGone_holds hG hs h exit
  have hend : holdsRequest G n (s.endTask h exit) := by
    rw [s.endTask_eq h exit hup]
    refine fillReaps_keeps hgone (s.taskGone_spec h exit himg).2.2.2 (fun _ r ht _ => holdsRequest_addReq ht r)
      (fun _ _ _ ht => ht) fun t r ht hr hacq => holdsRequest_filter ht rfl rfl fun q _ hqn => ?_
    refine bne_iff_ne.2 fun he => ?_
    exact hG.kind r (hgone.1 r hr (he.symm.trans hqn)) hacq
  obtain ⟨hall, ⟨r, hr, hrn⟩, -⟩ := hend
  exact ⟨r, hr, hall r hr hrn⟩

end Sys2Proof.Machine
end

section
/-! SUPPORT. `hstop` and `hop` at their end, wakes, quanta, and the traps of a hart's own slot (R30 to R32, R39, R47, R52, R184, R363,
R364, R367), with the statement HartEndsWakesAndTraps. -/

namespace Sys2Proof.Machine

/-! ### Requests that outlive their task -/

/-- A request that joins, where identifiers so far lie below the next. -/
theorem holdsRequest_fresh {G : Req → Prop} {s : State} (hids : ∀ r ∈ s.reqs, r.id < s.nextId) {r : Req}
    (hG : G { r with id := s.nextId }) : holdsRequest G s.nextId (s.addReq r) := by
  refine ⟨fun p hp hpn => ?_, ⟨_, List.mem_append_right _ List.mem_cons_self, rfl⟩, Nat.lt_succ_self _⟩
  rcases List.mem_append.1 hp with hp | hp
  · exact absurd hpn (Nat.ne_of_lt (hids p hp))
  · rw [List.mem_singleton.1 hp]
    exact hG

/-- An access with a given address, operation and bytes. -/
def isAccess (addr : Word) (op : ReqOp) (data : List Byte) (r : Req) : Prop :=
  r.addr = addr ∧ r.op = op ∧ r.data = data ∧ r.kind = .access

/-- An access that waits for nothing. -/
def freeAccess (addr : Word) (op : ReqOp) (data : List Byte) (r : Req) : Prop := isAccess addr op data r ∧ r.waits = []

/-- The access after the request of a number, which it waits for. -/
def accessAfter (n : Nat) (addr : Word) (op : ReqOp) (data : List Byte) (r : Req) : Prop :=
  isAccess addr op data r ∧ r.id = n + 1 ∧ n ∈ r.waits

/-- An access that waits for nothing outlives its task. -/
theorem outlivesTask_freeAccess (addr : Word) (op : ReqOp) (data : List Byte) : OutlivesTask (freeAccess addr op data) where
  stage _ _ h := h
  dest _ h := h
  kind r h := by
    obtain ⟨⟨-, -, -, hkind⟩, -⟩ := h
    rw [hkind]; nofun
  waits r h := by rw [h.2]; nofun

/-- An access that waits for an earlier request outlives its task. -/
theorem outlivesTask_accessAfter (n : Nat) (addr : Word) (op : ReqOp) (data : List Byte) :
    OutlivesTask (accessAfter n addr op data) where
  stage _ _ h := h
  dest _ h := h
  kind r h := by
    obtain ⟨⟨-, -, -, hkind⟩, -⟩ := h
    rw [hkind]; nofun
  waits r h he := by
    obtain ⟨-, hid, hn⟩ := h
    rw [he, hid, List.mem_singleton] at hn
    omega

/-! ### `hstop` (R39, R195, R297) -/

/-- The report of a task's end adds at most a message. -/
theorem State.reportEnd_eq (s : State) (h : HartRef) (ctx : BitVec 8) (w : Word) (faulted : Bool) (code : BitVec 8) (addr : Word) :
    ∃ msgs nextId, s.reportEnd h ctx w faulted code addr = { s with msgs := msgs, nextId := nextId } ∧ s.nextId ≤ nextId ∧
      (w.getLsbD 35 = true → ∃ m ∈ msgs, m.body = .taskEnd (Fin.ofNat 16 (w.extractLsb' 36 4).toNat) (w.extractLsb' 40 8).toNat
        ctx faulted code addr (s.hartWord h)) := by
  have hst : taskSt w = w.getLsbD 35 := rfl
  unfold State.reportEnd
  rw [hst]
  split
  · refine ⟨_, _, rfl, Nat.le_succ _, fun _ => ⟨_, List.mem_append_right _ List.mem_cons_self, ?_⟩⟩
    simp only [taskSlot, taskEntry, field_eq_extract]
  · next hw => exact ⟨_, _, rfl, le_refl _, fun h => absurd h hw⟩

/-- The word of a message is what xtaskret holds in bits 32:0 (R181). -/
theorem and_low33 (w : Word) : w &&& 0x1FFFFFFFF#64 = (w.extractLsb' 0 33).zeroExtend 64 := by
  refine BitVec.eq_of_toNat_eq ?_
  rw [BitVec.toNat_and, BitVec.toNat_setWidth, BitVec.extractLsb'_toNat, Nat.shiftRight_zero]
  exact (Nat.and_two_pow_sub_one_eq_mod w.toNat 33).trans (Nat.mod_eq_of_lt (by omega)).symm

/-- The return message of a task that has ended, where it returns one (R39). -/
def State.sendReturn (s : State) (h : HartRef) : State :=
  let word := (s.hart h).csr.taskret &&& 0x1FFFFFFFF#64
  if taskValid (s.hart h).csr.taskret then
    s.addReq { s.hartReq h with addr := word &&& ~~~ 7#64, op := .message word ((s.hart h).readX 10) }
  else s

theorem State.sendReturn_frame (s : State) (h : HartRef) (himg : ∀ r ∈ s.reqs, r.image = none) :
    (s.sendReturn h).hart h = s.hart h ∧ (s.sendReturn h).mem = s.mem ∧ ∀ r ∈ (s.sendReturn h).reqs, r.image = none := by
  unfold State.sendReturn
  dsimp only
  split
  · refine ⟨rfl, rfl, fun r hr => ?_⟩
    rcases List.mem_append.1 hr with hr | hr
    · exact himg r hr
    · rw [List.mem_singleton.1 hr]; rfl
  · exact ⟨rfl, rfl, himg⟩

theorem exec_hstopComplete {s : State} {h : HartRef} {release : Nat} (harg : s.arg = .hart h)
    (hjob : (s.hart h).job = .stopping release) (hst : (s.hart h).st = .running) (hdue : (s.hart h).jobDue ≤ s.coreCycle h.core)
    (hflights : (s.hart h).flights = []) (hout : s.outstanding [release] = []) : ∃ ctx faulted code addr,
    exec .hstopComplete s = .next (((s.sendReturn h).reportEnd h ctx (s.hart h).csr.taskret faulted code addr).endTask h
      ((s.hart h).readX 10)) := by
  have he : exec .hstopComplete s = execHstopComplete s := rfl
  rw [he, execHstopComplete, State.atHart_of_arg harg]
  dsimp only
  rw [hjob]
  dsimp only
  rw [if_pos ⟨hst, hdue, List.isEmpty_iff.2 hflights, List.isEmpty_iff.2 hout⟩]
  exact ⟨_, _, _, _, rfl⟩

/-- The end of a task by `hstop`. -/
theorem hstopComplete_ends {s : State} {h : HartRef} {release : Nat} (harg : s.arg = .hart h)
    (hjob : (s.hart h).job = .stopping release) (hst : (s.hart h).st = .running) (hdue : (s.hart h).jobDue ≤ s.coreCycle h.core)
    (hflights : (s.hart h).flights = []) (hout : s.outstanding [release] = []) (hup : (s.hart h).upReserved = false)
    (himg : ∀ r ∈ s.reqs, r.image = none) :
    ∃ t, exec .hstopComplete s = .next t ∧ endedWith t h ((s.hart h).readX 10) ∧ t.mem = s.mem ∧
      ((s.hart h).csr.taskret.getLsbD 63 = true → (∀ r ∈ s.reqs, r.id < s.nextId) →
        ∃ r ∈ t.reqs, r.op = .message ((s.hart h).csr.taskret.extractLsb' 0 33 |>.zeroExtend 64) ((s.hart h).readX 10)) ∧
      ((s.hart h).csr.taskret.getLsbD 35 = true → ∃ m ∈ t.msgs, ∃ ctx faulted code addr who,
        m.body = .taskEnd (Fin.ofNat 16 ((s.hart h).csr.taskret.extractLsb' 36 4).toNat)
          ((s.hart h).csr.taskret.extractLsb' 40 8).toNat ctx faulted code addr who) := by
  obtain ⟨ctx, faulted, code, addr, he⟩ := exec_hstopComplete harg hjob hst hdue hflights hout
  obtain ⟨hhart, hmem, himg'⟩ := s.sendReturn_frame h himg
  obtain ⟨msgs, nextId, hreport, hle, hsent⟩ :=
    (s.sendReturn h).reportEnd_eq h ctx (s.hart h).csr.taskret faulted code addr
  rw [he, hreport]
  obtain ⟨hended, hmem', hmsgs'⟩ := State.endTask_spec { s.sendReturn h with msgs := msgs, nextId := nextId } h ((s.hart h).readX 10)
    ((congrArg Hart.upReserved hhart).trans hup) himg'
  refine ⟨_, rfl, hended, hmem'.trans hmem, fun hvalid hids => ?_, fun hreported => ?_⟩
  · have hadd : s.sendReturn h = s.addReq { s.hartReq h with
        addr := ((s.hart h).csr.taskret &&& 0x1FFFFFFFF#64) &&& ~~~ 7#64
        op := .message ((s.hart h).csr.taskret &&& 0x1FFFFFFFF#64) ((s.hart h).readX 10) } := if_pos hvalid
    have hG := outlivesTask_freeAccess (((s.hart h).csr.taskret &&& 0x1FFFFFFFF#64) &&& ~~~ 7#64)
      (.message ((s.hart h).csr.taskret &&& 0x1FFFFFFFF#64) ((s.hart h).readX 10)) []
    have hjoined := holdsRequest_fresh hids (G := freeAccess _ _ _) (r := { s.hartReq h with
        addr := ((s.hart h).csr.taskret &&& 0x1FFFFFFFF#64) &&& ~~~ 7#64
        op := .message ((s.hart h).csr.taskret &&& 0x1FFFFFFFF#64) ((s.hart h).readX 10) }) ⟨⟨rfl, rfl, rfl, rfl⟩, rfl⟩
    rw [← hadd] at hjoined
    obtain ⟨hall, hex, hlt⟩ := hjoined
    obtain ⟨r, hr, ⟨-, hop, -⟩, -⟩ := State.endTask_holds hG
      (s := { s.sendReturn h with msgs := msgs, nextId := nextId }) ⟨hall, hex, lt_of_lt_of_le hlt hle⟩ h ((s.hart h).readX 10)
      ((congrArg Hart.upReserved hhart).trans hup) himg'
    exact ⟨r, hr, by rw [hop, and_low33]⟩
  · obtain ⟨m, hm, hbody⟩ := hsent hreported
    exact ⟨m, hmsgs' ▸ hm, _, _, _, _, _, hbody⟩

/-! ### `hop` (R47, R184) -/

/-- A state in which the record of a hart that hops has joined the queue, after its release (R184). -/
def State.hopped (s : State) (h : HartRef) (home : Word) (prio : BitVec 2) (record : List Byte) : State :=
  let u := (s.release h 3 .none).1
  let u := u.issueReq h { u.hartReq h with addr := home, op := .record prio false, data := record }
  u.setHart h { u.hart h with upReserved := false, upcalls := [] }

/-- A release is for no image. -/
theorem State.release_image (s : State) (h : HartRef) (scope : BitVec 2) (dest : Dest) :
    ∃ r : Req, s.release h scope dest = ((s.addReq r).holdLater h [] [s.nextId], s.nextId) ∧ r.image = none := ⟨_, rfl, rfl⟩

/-- The record follows the release, and waits for it. -/
theorem State.hopped_spec (s : State) (h : HartRef) (home : Word) (prio : BitVec 2) (record : List Byte)
    (hids : ∀ r ∈ s.reqs, r.id < s.nextId ∧ r.image = none) :
    holdsRequest (accessAfter s.nextId home (.record prio false) record) (s.nextId + 1) (s.hopped h home prio record) ∧
      (s.hopped h home prio record).mem = s.mem ∧ (∀ r ∈ (s.hopped h home prio record).reqs, r.image = none) ∧
      ((s.hopped h home prio record).hart h).upReserved = false := by
  obtain ⟨l, hl, hlimg⟩ := s.release_image h 3 .none
  unfold State.hopped
  rw [hl]
  dsimp only
  generalize hu : (s.addReq l).holdLater h [] [s.nextId] = u
  have hureqs : u.reqs = s.reqs ++ [{ l with id := s.nextId }] := by rw [← hu]; rfl
  have hnext : u.nextId = s.nextId + 1 := by rw [← hu]; rfl
  have humem : u.mem = s.mem := by rw [← hu]; rfl
  have huids : ∀ r ∈ u.reqs, r.id < u.nextId ∧ r.image = none := by
    intro r hr
    rw [hureqs, List.mem_append, List.mem_singleton] at hr
    rw [hnext]
    rcases hr with hr | rfl
    · exact ⟨Nat.lt_succ_of_lt (hids r hr).1, (hids r hr).2⟩
    · exact ⟨Nat.lt_succ_self _, hlimg⟩
  have hheld : s.nextId ∈ u.outstanding (u.hart h).holdWrites := by
    have hw : (u.hart h).holdWrites = (s.addReq l).outstanding (s.hart h).holdWrites ++ [s.nextId] := by
      rw [← hu, State.holdLater, State.hart_setHart_same]; rfl
    rw [State.mem_outstanding, hw]
    exact ⟨List.mem_append_right _ List.mem_cons_self,
      .inl ⟨{ l with id := s.nextId }, hureqs ▸ List.mem_append_right _ List.mem_cons_self, rfl⟩⟩
  obtain ⟨q, hq, hfields, -, hwaits⟩ := u.issueReq_plain h (r := { u.hartReq h with
    addr := home, op := .record prio false, data := record }) rfl rfl nofun
  rw [hq]
  have hq_access : isAccess home (.record prio false) record q := by rw [hfields]; exact ⟨rfl, rfl, rfl, rfl⟩
  have hjoined := holdsRequest_fresh (fun r hr => (huids r hr).1) (r := q)
    (G := accessAfter s.nextId home (.record prio false) record) ⟨hq_access, hnext, hwaits rfl _ hheld⟩
  rw [hnext] at hjoined
  refine ⟨hjoined, humem, fun r hr => ?_, ?_⟩
  · rcases List.mem_append.1 hr with hr | hr
    · exact (huids r hr).2
    · rw [List.mem_singleton.1 hr]; exact congrArg Req.image hfields
  · rw [State.hart_setHart_same]

theorem exec_hopSend {s : State} {h : HartRef} {home : Word} {mask : BitVec 32} {n : Nat} (harg : s.arg = .hart h)
    (hjob : (s.hart h).job = .hopping home mask n) (hst : (s.hart h).st = .running) (hflights : (s.hart h).flights = [])
    (hfull : s.niFull h.core = false) (hup : (s.hart h).upReserved = false) (hstat : (s.hart h).csr.upstat.getLsbD 0 = false) :
    ∃ live ret values csr upcalls, exec .hopSend s = .next (
      let u := (s.hopped h home (taskPrio (s.hart h).csr.taskret)
        (makeRecord ((s.hart h).pc + 4) live ret (s.hart h).csr.taskret values)).endTask h 0
      u.setHart h { u.hart h with upcalls := upcalls, csr := csr }) := by
  have he : exec .hopSend s = execHopSend s := rfl
  have hstat' : bitOf (s.hart h).csr.upstat 0 = false := hstat
  rw [he, execHopSend, State.atHart_of_arg harg]
  dsimp only
  rw [hjob]
  dsimp only
  rw [if_pos ⟨hst, List.isEmpty_iff.2 hflights, by rw [hfull]; rfl⟩, hstat', hup]
  exact ⟨_, _, _, _, _, rfl⟩

/-- The first 8 bytes of a record are its PC (R43). -/
theorem makeRecord_take (pc : Word) (live : Nat) (ret : Option Word) (identity : Word) (values : List Word) :
    (makeRecord pc live ret identity values).take 8 = leBytes pc.toNat 8 := by
  have hlen : (leBytes pc.toNat 8).length = 8 := by simp [leBytes]
  unfold makeRecord
  dsimp only
  rw [List.append_assoc, List.append_assoc, List.take_left' hlen]

/-- The end of a task by `hop`. -/
theorem hopSend_leaves {s : State} {h : HartRef} {home : Word} {mask : BitVec 32} {n : Nat} (harg : s.arg = .hart h)
    (hjob : (s.hart h).job = .hopping home mask n) (hst : (s.hart h).st = .running) (hflights : (s.hart h).flights = [])
    (hfull : s.niFull h.core = false) (hup : (s.hart h).upReserved = false) (hstat : (s.hart h).csr.upstat.getLsbD 0 = false)
    (hids : ∀ r ∈ s.reqs, r.id < s.nextId ∧ r.image = none) :
    ∃ t r, exec .hopSend s = .next t ∧ endedWith t h 0 ∧ t.mem = s.mem ∧ r ∈ t.reqs ∧
      r.op = .record ((s.hart h).csr.taskret.extractLsb' 33 2) false ∧ r.addr = home ∧
      r.data.take 8 = leBytes ((s.hart h).pc + 4).toNat 8 := by
  obtain ⟨live, ret, values, csr, upcalls, he⟩ := exec_hopSend harg hjob hst hflights hfull hup hstat
  obtain ⟨hjoined, hmem, himg, hup'⟩ := s.hopped_spec h home (taskPrio (s.hart h).csr.taskret)
    (makeRecord ((s.hart h).pc + 4) live ret (s.hart h).csr.taskret values) hids
  generalize s.hopped h home (taskPrio (s.hart h).csr.taskret)
    (makeRecord ((s.hart h).pc + 4) live ret (s.hart h).csr.taskret values) = u at *
  obtain ⟨hended, hmem', -⟩ := u.endTask_spec h 0 hup' himg
  obtain ⟨r, hr, ⟨haddr, hop, hdata, -⟩, -⟩ := State.endTask_holds (outlivesTask_accessAfter _ _ _ _) hjoined h 0 hup' himg
  exact ⟨_, r, he, endedWith_setHart hended fun _ => ⟨rfl, rfl, rfl⟩, hmem'.trans hmem, hr, hop, haddr,
    by rw [hdata, makeRecord_take]⟩

/-! ### Wakes and quanta (R30, R31, R52) -/

@[simp] theorem State.unwatch_mem (s : State) (h : HartRef) : (s.unwatch h).mem = s.mem := by
  unfold State.unwatch
  dsimp only
  split <;> rfl

theorem State.unwatch_of_invalid {s : State} {h : HartRef} (hw : ((s.core h.core).watch[h.hart]).valid = false) : s.unwatch h = s := by
  unfold State.unwatch
  dsimp only
  rw [if_neg (by rw [hw]; decide)]

/-- A hart that leaves a park of another instruction than `wfi` keeps its PC (R31). -/
theorem Hart.leavePark_of_ne {v : Hart} (hw : v.wait ≠ .interrupt) : v.leavePark = { v with wait := .none } := by
  unfold Hart.leavePark
  split
  · next h => exact absurd h hw
  · rfl

/-- Only the named hart differs, and memory is as it was. -/
theorem State.setHart_unwatch_frame (s : State) (h : HartRef) (v : Hart) :
    (∀ g, g ≠ h → ((s.unwatch h).setHart h v).hart g = s.hart g) ∧ ((s.unwatch h).setHart h v).mem = s.mem :=
  ⟨fun g hg => by rw [State.hart_setHart_other _ _ hg, State.hart_unwatch], s.unwatch_mem h⟩

/-- The wake of a parked hart (R31). -/
theorem State.wake_spec {s : State} {h : HartRef} (hw : (s.hart h).wait ≠ .interrupt) :
    (∀ g, g ≠ h → (s.wake h).hart g = s.hart g) ∧ (s.wake h).mem = s.mem ∧ (s.wake h).hart h = { s.hart h with
      st := .running, wait := .none, issueFrom := s.coreCycle h.core + 2, quantumCount := ((s.wake h).hart h).quantumCount
      quantumSince := ((s.wake h).hart h).quantumSince } := by
  unfold State.wake
  dsimp only
  rw [Hart.leavePark_of_ne (by exact hw), if_neg fun h => hw h.1]
  obtain ⟨hothers, hmem⟩ := s.setHart_unwatch_frame h _
  refine ⟨hothers, hmem, ?_⟩
  rw [State.hart_setHart_same]
  rfl

theorem exec_hartWake {s : State} {h : HartRef} (harg : s.arg = .hart h) (hst : (s.hart h).st = .parked) (hjob : (s.hart h).job = .none)
    (hint : s.interruptDue h = none) (hfault : s.faultPending h = none) (hupcall : s.upcallDue h = none) :
    exec .hartWake s = .next (if s.waitHolds h = true then s.wake h else s) := by
  have he : exec .hartWake s = execHartWake s := rfl
  have hwakes : s.wakes h = s.waitHolds h := by
    rw [State.wakes, hint, hfault, hupcall]
    exact (Bool.or_false _).trans ((Bool.or_false _).trans (Bool.or_false _))
  rw [he, execHartWake, State.atHart_of_arg harg]
  dsimp only
  rw [hwakes, hst, hjob]
  simp only [true_and]

theorem exec_quantumExpiry {s : State} {h : HartRef} (harg : s.arg = .hart h)
    (hst : (s.hart h).st = .running ∨ (s.hart h).st = .parked) (hlimit : (s.hart h).csr.quantumLimit ≠ 0)
    (hout : (s.hart h).csr.quantumLimit.toNat ≤ (s.hart h).ticksCounted s.refTime) :
    exec .quantumExpiry s = .next (s.setHart h { s.hart h with
      quantumCount := (s.hart h).ticksCounted s.refTime % (s.hart h).csr.quantumLimit.toNat, quantumSince := s.refTime
      csr := { (s.hart h).csr with mip := (s.hart h).csr.mip ||| 0x10000 } }) := by
  have he : exec .quantumExpiry s = execQuantumExpiry s := rfl
  rw [he, execQuantumExpiry, State.atHart_of_arg harg]
  dsimp only
  rw [if_pos ⟨hst, fun h => hlimit (BitVec.eq_of_toNat_eq h), hout⟩]
  rfl

/-! ### Traps in a hart's own slot (R161, R363, R364) -/

/-- What a trap saves and where it goes, by its cause (R161). -/
theorem Hart.takeTrap_spec (v : Hart) (isInterrupt : Bool) (cause : Nat) (tval epc : Word) (now : Nat) {w : Hart}
    (hw : w = v.takeTrap isInterrupt cause tval epc now) :
    w.pending = v.pending ∧
      if v.mode ≠ .machine ∧ (if isInterrupt then v.csr.mideleg else v.csr.medeleg).getLsbD cause = true then
        w.mode = .supervisor ∧ w.csr.sepc = epc ∧ w.csr.stval = tval ∧ w.csr.scause = causeWord isInterrupt cause
      else w.mode = .machine ∧ w.csr.mepc = epc ∧ w.csr.mtval = tval ∧ w.csr.mcause = causeWord isInterrupt cause := by
  subst hw
  unfold Hart.takeTrap
  dsimp only [Hart.moveTo]
  have hdel {q n : Nat} : Hart.delegated { v with
      st := .running, quantumCount := q, quantumSince := n, wait := .none, resv := none, lr := none, lines := [], fetching := none
      fetched := none, rewrites := none } isInterrupt cause = true ↔
      v.mode ≠ .machine ∧ (if isInterrupt then v.csr.mideleg else v.csr.medeleg).getLsbD cause = true := by
    simp [Hart.delegated, bitOf]
  by_cases hd : v.mode ≠ .machine ∧ (if isInterrupt then v.csr.mideleg else v.csr.medeleg).getLsbD cause = true
  · rw [if_pos hd, if_pos (hdel.2 hd)]
    exact ⟨rfl, rfl, rfl, rfl, rfl⟩
  · rw [if_neg hd, if_neg (mt hdel.1 hd)]
    exact ⟨rfl, rfl, rfl, rfl, rfl⟩

/-- What a hart keeps as its slot is used by a trap. -/
def keepsTask (v w : Hart) : Prop :=
  w.pc = v.pc ∧ w.mode = v.mode ∧ w.csr = v.csr ∧ w.pending = v.pending ∧ w.x = v.x

theorem State.useSlot_hart (s : State) (h : HartRef) (hwait : (s.hart h).wait = .none) :
    ∃ v, ((s.useSlot h).hart h).leavePark = v ∧ keepsTask (s.hart h) v := by
  refine ⟨_, rfl, ?_⟩
  rw [State.useSlot, State.hart_setHart_same, Hart.leavePark_of_ne (by rw [hwait]; nofun)]
  exact ⟨rfl, rfl, rfl, rfl, rfl⟩

theorem State.useSlot_others (s : State) {h g : HartRef} (hg : g ≠ h) : (s.useSlot h).hart g = s.hart g :=
  State.hart_setHart_other _ _ hg

theorem State.useSlot_unwatch {s : State} {h : HartRef} (hw : ((s.core h.core).watch[h.hart]).valid = false) :
    (s.useSlot h).unwatch h = s.useSlot h := by
  refine State.unwatch_of_invalid ?_
  rw [State.useSlot, State.setHart, State.core_setCore_same]
  exact hw

theorem inOwnSlot_of_slot {s : State} {h : HartRef} (hst : (s.hart h).st = .running) (hjob : (s.hart h).job = .none)
    (hfrom : (s.hart h).issueFrom ≤ s.coreCycle h.core) (hslot : s.coreCycle h.core % 16 = h.hart.val)
    (hhalt : (s.die (dieOf h.core)).halted = false) : s.inOwnSlot h = true := by
  simp [State.inOwnSlot, Hart.issues, hst, hjob, hfrom, hslot, hhalt]

/-- A hart changes, and its core counts a reservation more unless it has one (R367). -/
theorem State.reserve_spec (s : State) (h : HartRef) (w : Hart) (reserved : Bool) {t : State}
    (ht : t = if reserved then s.setHart h w
      else (s.setHart h w).setCore h.core { (s.setHart h w).core h.core with
        reservations := ((s.setHart h w).core h.core).reservations + 1 }) :
    t.hart h = w ∧ (∀ g, g ≠ h → t.hart g = s.hart g) ∧ t.mem = s.mem := by
  have hharts (g : HartRef) : t.hart g = (s.setHart h w).hart g := by
    rw [ht]
    split
    · rfl
    · exact State.hart_setCore_of_harts _ (by rfl) g
  refine ⟨by rw [hharts, State.hart_setHart_same], fun g hg => by rw [hharts, State.hart_setHart_other _ _ hg], ?_⟩
  rw [ht]
  split <;> rfl

section
variable {s : State} {h : HartRef} (harg : s.arg = .hart h) (hslot : s.inOwnSlot h = true) (hwait : (s.hart h).wait = .none)
  (hwatch : ((s.core h.core).watch[h.hart]).valid = false)
include harg hslot hwait hwatch

/-- The oldest deferred fault is taken as a trap (R363). -/
theorem deferredFaultTrap_takes {f : PendingFault} (hf : s.faultDue h = some f) : ∃ t, exec .deferredFaultTrap s = .next t ∧
    (∀ g, g ≠ h → t.hart g = s.hart g) ∧ t.mem = s.mem ∧ ∃ v : Hart,
      v.pending = (s.hart h).pending.drop 1 ∧ v.mode = (s.hart h).mode ∧ v.csr = (s.hart h).csr ∧
      t.hart h = v.takeTrap false f.cause (recordAddress (dieOf h.core) f.record) (s.hart h).pc s.refTime := by
  have he : exec .deferredFaultTrap s = execDeferredFaultTrap s := rfl
  rw [he, execDeferredFaultTrap, State.atHart_of_arg harg, hslot, hf]
  dsimp only
  obtain ⟨v, hv, hpc, hmode, hcsr, hpending, -⟩ := s.useSlot_hart h hwait
  unfold State.takeDeferred
  rw [State.useSlot_unwatch hwatch]
  dsimp only
  rw [hv, hpc]
  refine ⟨_, rfl, fun g hg => ?_, rfl, { v with pending := v.pending.drop 1 }, congrArg (List.drop 1) hpending, hmode, hcsr,
    State.hart_setHart_same _ _ _⟩
  rw [State.hart_setHart_other _ _ hg]
  exact s.useSlot_others hg

/-- An interrupt is taken as a trap (R161, R364). -/
theorem interruptTrap_takes {c : Nat} (hf : s.faultDue h = none) (hc : s.interruptDue h = some c) :
    ∃ t, exec .interruptTrap s = .next t ∧ (∀ g, g ≠ h → t.hart g = s.hart g) ∧ t.mem = s.mem ∧ ∃ v : Hart,
      v.mode = (s.hart h).mode ∧ v.csr = (s.hart h).csr ∧ t.hart h = v.takeTrap true c 0 (s.hart h).pc s.refTime := by
  have he : exec .interruptTrap s = execInterruptTrap s := rfl
  rw [he, execInterruptTrap, State.atHart_of_arg harg, hslot, hf, hc]
  dsimp only
  obtain ⟨v, hv, hpc, hmode, hcsr, -⟩ := s.useSlot_hart h hwait
  unfold State.takeInterrupt
  rw [State.useSlot_unwatch hwatch]
  dsimp only
  rw [hv, hpc]
  refine ⟨_, rfl, fun g hg => ?_, rfl, v, hmode, hcsr, State.hart_setHart_same _ _ _⟩
  rw [State.hart_setHart_other _ _ hg]
  exact s.useSlot_others hg

/-- The upcall handler is entered (R367). -/
theorem upcallEntry_enters {u : Upcall} (hf : s.faultDue h = none) (hc : s.interruptDue h = none) (hu : s.upcallDue h = some u) :
    ∃ t, exec .upcallEntry s = .next t ∧ (∀ g, g ≠ h → t.hart g = s.hart g) ∧ t.mem = s.mem ∧
      let v := s.hart h
      let w := t.hart h
      w.pc = v.csr.upvec &&& ~~~ 3#64 ∧ w.csr.upepc = v.pc ∧ w.csr.upcause = u.code.zeroExtend 64 ∧ w.csr.upval = u.addr ∧
      w.csr.upstat.getLsbD 0 = true ∧ w.upReserved = true ∧ w.mode = v.mode ∧ w.x = v.x := by
  have he : exec .upcallEntry s = execUpcallEntry s := rfl
  rw [he, execUpcallEntry, State.atHart_of_arg harg, hslot, hf, hc, hu]
  dsimp only
  obtain ⟨v, hv, hpc, hmode, hcsr, -, hx⟩ := s.useSlot_hart h hwait
  unfold State.enterUpcall
  rw [State.useSlot_unwatch hwatch]
  dsimp only
  rw [hv]
  obtain ⟨hw, hothers, hmem⟩ := State.reserve_spec (s.useSlot h) h _ _ rfl
  refine ⟨_, rfl, fun g hg => (hothers g hg).trans (s.useSlot_others hg), hmem, ?_⟩
  rw [hw]
  exact ⟨by rw [← hcsr]; rfl, hpc, rfl, rfl, setBit_bit _ _ (by decide) 0, rfl, hmode, hx⟩

end

/-- An interrupt that is due is 16 or 17, and its cause word has bit 63 set (R161). -/
theorem State.interruptDue_causeWord {s : State} {h : HartRef} {c : Nat} (hc : s.interruptDue h = some c) :
    causeWord true c = BitVec.ofNat 64 (2 ^ 63 + c) := by
  have hmem := List.mem_of_find?_eq_some hc
  simp only [List.mem_cons, List.not_mem_nil, or_false] at hmem
  rcases hmem with rfl | rfl <;> decide

/-- Settles O30: each end, wake and trap by the lemma about its step. -/
theorem hartEndsWakesAndTraps : Obligations.HartEndsWakesAndTraps := by
  intro s h harg v now others slot toS
  refine ⟨fun release hjob hst hdue hflights hout hup himg => ?_, fun home mask n hjob hst hflights hfull hup hstat hids => ?_,
    fun hst hjob hint hfault hupcall => ⟨fun hholds hwait => ?_, fun hholds => ?_⟩, fun hst hlimit hout => ?_,
    fun hslot hwait hwatch => ?_⟩
  · obtain ⟨t, he, ⟨hoff, hexit, hended⟩, hmem, hreturn, hreport⟩ :=
      hstopComplete_ends harg hjob hst hdue hflights hout hup himg
    exact ⟨t, he, hoff, hexit, hended, hmem, hreturn, hreport⟩
  · obtain ⟨t, r, he, ⟨hoff, hexit, hended⟩, hmem, hr, hop, haddr, hdata⟩ :=
      hopSend_leaves harg hjob hst hflights hfull hup hstat hids
    exact ⟨t, r, he, hoff, hended, hexit, hmem, hr, hop, haddr, hdata⟩
  · rw [exec_hartWake harg hst hjob hint hfault hupcall, if_pos hholds]
    obtain ⟨hothers, hmem, hhart⟩ := State.wake_spec hwait
    exact ⟨_, rfl, hothers, hmem, hhart⟩
  · rw [exec_hartWake harg hst hjob hint hfault hupcall, if_neg (by rw [hholds]; decide)]
  · exact ⟨_, exec_quantumExpiry harg hst hlimit hout, fun g hg => State.hart_setHart_other _ _ hg, rfl,
      State.hart_setHart_same _ _ _⟩
  · obtain ⟨hst, hjob, hfrom, hmod, hhalt⟩ := hslot
    have hin := inOwnSlot_of_slot hst hjob hfrom hmod hhalt
    refine ⟨fun f hf hcause => ?_, fun hf c hc => ?_, fun hf hc u hu => upcallEntry_enters harg hin hwait hwatch hf hc hu⟩
    · obtain ⟨t, he, hothers, hmem, w, hpending, hmode, hcsr, hhart⟩ := deferredFaultTrap_takes harg hin hwait hwatch hf
      obtain ⟨hpending', htrap⟩ := w.takeTrap_spec false f.cause _ _ _ hhart
      rw [hmode, hcsr, causeWord_exception (by omega)] at htrap
      exact ⟨t, he, hothers, hmem, hpending'.trans hpending, htrap⟩
    · obtain ⟨t, he, hothers, hmem, w, hmode, hcsr, hhart⟩ := interruptTrap_takes harg hin hwait hwatch hf hc
      obtain ⟨-, htrap⟩ := w.takeTrap_spec true c _ _ _ hhart
      rw [hmode, hcsr, State.interruptDue_causeWord hc] at htrap
      refine ⟨t, he, hothers, hmem, ?_⟩
      by_cases hs : (s.hart h).mode ≠ .machine ∧ (s.hart h).csr.mideleg.getLsbD c = true
      · obtain ⟨hm, hepc, htval, hcode⟩ := (if_pos hs).mp htrap
        exact (if_pos hs).mpr ⟨hm, hepc, hcode, htval⟩
      · obtain ⟨hm, hepc, htval, hcode⟩ := (if_neg hs).mp htrap
        exact (if_neg hs).mpr ⟨hm, hepc, hcode, htval⟩

end Sys2Proof.Machine
end

section
/-! SUPPORT. Autostart claims, arrivals of records and messages, and stores to CORECTL and FWSTAT (R40, R41, R45, R46, R49, R51, R79,
R170, R181), with the statement ClaimsAndArrivals. -/

namespace Sys2Proof.Machine

theorem State.atRequest_of_arg {s : State} {n : Nat} (harg : s.arg = .request n) (f : Nat → State) : s.atRequest f = .next (f n) := by
  unfold State.atRequest
  rw [harg]

/-! ### Answers at a home (R118, R403) -/

/-- A request that no deduplication tracks, of no word performed, of a hart or an engine of this device. -/
structure Req.untracked (r : Req) : Prop where
  seq : r.seq = none
  parts : r.parts = []
  local_ : ∀ d a b e, r.src ≠ .foreign d a b e

/-- The requests of a state in which one has been answered. -/
def State.answered (s : State) (r : Req) (a : Answer) : List Req :=
  s.reqs.map fun q => if q.id = r.id then { r with stage := .answered a } else q

theorem State.answer_of_local (s : State) {r : Req} (h : r.untracked) (a : Answer) :
    s.answer r a = { s with reqs := s.answered r a } := by
  have hsrc := h.local_
  unfold State.answer
  split
  · next d a b e heq => exact absurd heq (hsrc d a b e)
  · rfl

/-- A refusal answers, and changes at most what the die has met of its source. -/
theorem State.refuse_of_untracked (s : State) {r : Req} (h : r.untracked) : ∃ dies, s.refuse r = { s with
    dies := dies, reqs := s.answered r .refused } := by
  unfold State.refuse State.turnAway
  rw [h.parts, h.seq]
  exact ⟨_, State.answer_of_local _ h _⟩

theorem State.deduped_of_untracked (s : State) {r : Req} (h : r.untracked) (die : DieId) (perform : State → State) :
    s.deduped r die perform = perform s := by
  unfold State.deduped
  rw [h.seq]

/-! ### Claims (R40, R45, R49) -/

/-- The lowest OFF hart that the mask admits (R40). -/
theorem Core.eligible_of_lowest {c : Core} {i : HartId} (hst : c.harts[i].st = .off) (h0 : i ≠ 0) (hmask : c.automask.getLsbD i.val = true)
    (hlow : ∀ j : HartId, j ≠ 0 → j < i → c.automask.getLsbD j.val = true → c.harts[j].st ≠ .off) : c.eligible = some i := by
  refine List.find?_eq_some_iff_getElem.2 ⟨by simp [h0, hmask]; exact hst, i.val, by simp, by simp, fun j hj => ?_⟩
  have hj16 : j < 16 := lt_trans hj i.isLt
  have hget : (List.finRange 16)[j]'(by simpa using hj16) = ⟨j, hj16⟩ := List.getElem_finRange _
  rw [hget]
  by_contra hfree
  simp only [Bool.not_eq_true, Bool.not_eq_false', Bool.and_eq_true, bne_iff_ne, beq_iff_eq] at hfree
  obtain ⟨⟨hj0, hjmask⟩, hjst⟩ := hfree
  exact hlow ⟨j, hj16⟩ hj0 hj hjmask hjst

section
variable {s : State} {core : Nat} {i : HartId} (harg : s.arg = .core core) (hauto : (s.core core).autostart = true)
  (hmig : (s.core core).migration = none) (hlast : (s.core core).lastClaim ≤ s.coreCycle core)
  (hslot : s.slotPending core = false) (helig : (s.core core).eligible = some i)
include harg hauto hmig hlast hslot helig

/-- The lowest hart takes up the entry that the queue gives (R40, R45). -/
theorem exec_autostartClaim_of_taken {before after : List Task} {e : Task} (htasks : (s.core core).tasks = before ++ e :: after)
    (htake : takeIndex (s.core core).tasks (fun p => decide (p ≤ (s.core core).autoprio)) (s.coreCycle core) = some before.length)
    (hpart : e.part ≠ .resume) :
    exec .autostartClaim s = .next ((s.setCore core { s.core core with
      tasks := before ++ after, lastClaim := s.coreCycle core + 1 }).startRecord ⟨core, i⟩ e.record e.prio 0 e.line) := by
  have he : exec .autostartClaim s = execAutostartClaim s := rfl
  have hget : (before ++ e :: after)[before.length]? = some e := by simp
  rw [he, execAutostartClaim, harg]
  dsimp only
  rw [if_pos ⟨hauto, by rw [hmig]; rfl, hlast, by rw [hslot]; rfl⟩, helig, htake]
  dsimp only
  rw [s.takeTask_of_not_resume core htasks hpart, htasks, hget]
  dsimp only
  rw [State.setCore_setCore, State.core_setCore_same]

theorem exec_autostartClaim_of_none
    (htake : takeIndex (s.core core).tasks (fun p => decide (p ≤ (s.core core).autoprio)) (s.coreCycle core) = none) :
    exec .autostartClaim s = .next s := by
  have he : exec .autostartClaim s = execAutostartClaim s := rfl
  rw [he, execAutostartClaim, harg]
  dsimp only
  rw [if_pos ⟨hauto, by rw [hmig]; rfl, hlast, by rw [hslot]; rfl⟩, helig, htake]

end

/-- A claim of autostart, as its core and its harts see it (R40). -/
theorem State.claim_spec (s : State) (core : Nat) (i : HartId) (tasks : List Task) (last : Nat) (e : Task) :
    let t := (s.setCore core { s.core core with tasks := tasks, lastClaim := last }).startRecord ⟨core, i⟩ e.record e.prio 0 e.line
    (t.core core).tasks = tasks ∧ (t.core core).lastClaim = last ∧ (t.hart ⟨core, i⟩).st = .loading ∧
      (t.hart ⟨core, i⟩).job = .loadRecord e.record e.prio 0 e.line ∧ (t.hart ⟨core, i⟩).ended = false ∧ t.mem = s.mem ∧
      ∀ g : HartRef, g ≠ ⟨core, i⟩ → t.hart g = s.hart g := by
  intro t
  obtain ⟨v, ht, hst, hjob, hended, -⟩ := (s.setCore core { s.core core with tasks := tasks, lastClaim := last }).startRecord_eq
    ⟨core, i⟩ e.record e.prio 0 e.line
  change t = _ at ht
  clear_value t
  subst ht
  rw [State.hart_setHart_same]
  refine ⟨?_, ?_, hst, hjob, hended, rfl, fun g hg => ?_⟩
  · rw [State.setHart, State.core_setCore_same, State.core_setCore_same]
  · rw [State.setHart, State.core_setCore_same, State.core_setCore_same]
  · rw [State.hart_setHart_other _ _ hg]
    exact s.hart_setCore_of_harts (by rfl) g

/-! ### Records (R45, R46, R170) -/

/-- A record that has come to its home core (R170). -/
theorem exec_taskRecordArrival {s : State} {r : Req} {prio : BitVec 2} {core : Nat} (harg : s.arg = .request r.id)
    (hreq : s.req? r.id = some r) (hhere : s.arrivedHere r = true) (hr : r.untracked) (hop : r.op = .record prio false)
    {k : List Nat} (haway : s.recordAway r = .keys k) (hhome : s.homeCore r = .inr core) (hstub : s.recordStub r = none) :
    exec .taskRecordArrival s = .next (if s.vacating core = true ∨ (s.core core).roomFor .remote = false then s.refuse r
      else (s.enqueue core r.data prio .remote).answer r (.done [])) := by
  have he : exec .taskRecordArrival s = execTaskRecordArrival s := rfl
  rw [he, execTaskRecordArrival, State.atRequest_of_arg harg, hreq]
  dsimp only
  rw [hop, hhere]
  dsimp only
  rw [haway]
  dsimp only
  rw [hhome]
  dsimp only
  rw [hstub, s.deduped_of_untracked hr]
  simp

/-! ### Messages (R51, R181) -/

/-- The hart that a message names (R43, R181). -/
def messageHart (target : Word) : HartRef :=
  ⟨1280 * (target.extractLsb' 18 2).toNat + 16 * (target.extractLsb' 11 7).toNat + (target.extractLsb' 7 4).toNat,
    Fin.ofNat 16 (target.extractLsb' 3 4).toNat⟩

theorem exec_messageArrival {s : State} {r : Req} {target val : Word} (harg : s.arg = .request r.id)
    (hreq : s.req? r.id = some r) (hhere : s.arrivedHere r = true) (hr : r.untracked) (hop : r.op = .message target val)
    (hcluster : (target.extractLsb' 11 7).toNat < 80) (hstub : s.coreStub r (messageHart target).core = none)
    (hopen : s.coreRefuses r (messageHart target).core = none) (hmig : (s.core (messageHart target).core).migration = none) :
    exec .messageArrival s = .next (
      if (s.hart (messageHart target)).takesMessages = false ∨ (s.hart (messageHart target)).qIsFull (target.extractLsb' 0 3) = true then
        s.refuse r
      else (s.setHart (messageHart target) ((s.hart (messageHart target)).fillQ (target.extractLsb' 0 3) val)).answer r (.done [])) := by
  have he : exec .messageArrival s = execMessageArrival s := rfl
  have hcore : wordCore target = (messageHart target).core := by simp only [wordCore, messageHart, field_eq_extract]
  have hhart : wordHart target = (messageHart target).hart := by simp only [wordHart, messageHart, field_eq_extract]
  rw [he, execMessageArrival, State.atRequest_of_arg harg, hreq]
  dsimp only
  rw [hop, hhere]
  dsimp only
  rw [field_eq_extract, if_neg (by omega), hcore, hhart, hstub, hopen, s.deduped_of_untracked hr, State.vacating, hmig]
  simp

/-- A hart that runs or is parked, with no transfer or drain, takes messages; one without a task does not (R51, R181). -/
theorem Hart.takesMessages_of_idle {v : Hart} (hst : v.st = .running ∨ v.st = .parked) (hjob : v.job = .none) :
    v.takesMessages = true := by
  unfold Hart.takesMessages
  rw [hjob]
  rcases hst with hst | hst <;> rw [hst] <;> rfl

theorem Hart.takesMessages_of_absent {v : Hart} (hst : v.st = .off ∨ v.st = .saving ∨ v.st = .loading) : v.takesMessages = false := by
  unfold Hart.takesMessages
  rcases hst with hst | hst | hst <;> rw [hst] <;> rfl

/-- Settles O31: each step by the lemma about it; requests that no table tracks are answered where they are. -/
theorem claimsAndArrivals : Obligations.ClaimsAndArrivals := by
  intro s core i r val c now answers here
  refine ⟨fun harg hauto hmig hlast hslot hst h0 hmask hlow => ?_, fun hhere prio hop haway hhome hstub => ?_, ?_, fun harg => ?_,
    fun harg => ?_⟩
  · have helig := Core.eligible_of_lowest hst h0 hmask hlow
    refine ⟨fun before after e htasks hcycle hprio hfirst hleast hpart => ?_, fun hnone => ?_⟩
    · have htake : takeIndex c.tasks (fun p => decide (p ≤ c.autoprio)) now = some before.length := by
        rw [htasks] at hleast ⊢
        exact takeIndex_some hcycle (decide_eq_true hprio) hfirst fun f hf hfc hlt => absurd (hleast f hf hfc) (BitVec.not_le.2 hlt)
      exact ⟨_, exec_autostartClaim_of_taken harg hauto hmig hlast hslot helig htasks htake hpart, s.claim_spec core i _ _ e⟩
    · exact exec_autostartClaim_of_none harg hauto hmig hlast hslot helig
        (takeIndex_none fun f hf hfc => decide_eq_false (BitVec.not_le.2 (hnone f hf hfc)))
  · obtain ⟨harg, hreq, harr, hseq, hparts, hlocal⟩ := hhere
    have hr : r.untracked := ⟨hseq, hparts, hlocal⟩
    obtain ⟨k, haway⟩ := haway
    have he := exec_taskRecordArrival harg hreq harr hr hop haway hhome hstub
    refine ⟨fun hmig hroom => ?_, fun hfull => ?_⟩
    · have hmoving : s.vacating core = false := by rw [State.vacating]; exact congrArg Option.isSome hmig
      have hroomy : (s.core core).roomFor .remote = true := decide_eq_true hroom
      rw [he, if_neg (by simp [hmoving, hroomy]), State.answer_of_local _ hr]
      exact ⟨_, rfl, rfl, rfl, State.core_setCore_same s core _⟩
    · have hno : (s.core core).roomFor .remote = false := decide_eq_false (Nat.not_lt.2 hfull)
      obtain ⟨dies, hrefuse⟩ := s.refuse_of_untracked hr
      rw [he, if_pos (.inr hno), hrefuse]
      exact ⟨_, rfl, rfl, rfl, rfl⟩
  · intro hhere target hop hcluster home h q v hstub hopen hmig
    obtain ⟨harg, hreq, harr, hseq, hparts, hlocal⟩ := hhere
    have hr : r.untracked := ⟨hseq, hparts, hlocal⟩
    have he := exec_messageArrival harg hreq harr hr hop hcluster hstub hopen hmig
    refine ⟨fun hst hjob hempty => ?_, fun hbusy => ?_⟩
    · have htakes : v.takesMessages = true := Hart.takesMessages_of_idle hst hjob
      have htaken : ¬ (v.takesMessages = false ∨ v.qIsFull q = true) :=
        not_or.2 ⟨ne_of_eq_of_ne htakes (by decide), ne_of_eq_of_ne hempty (by decide)⟩
      exact ⟨_, he.trans (congrArg _ ((if_neg htaken).trans (State.answer_of_local _ hr _))), rfl, rfl,
        State.hart_setHart_same s h _, fun g hg => State.hart_setHart_other _ _ hg⟩
    · have hrefused : v.takesMessages = false ∨ v.qIsFull q = true := by
        rcases hbusy with hst | hst | hst | hfull
        · exact .inl (Hart.takesMessages_of_absent (.inl hst))
        · exact .inl (Hart.takesMessages_of_absent (.inr (.inl hst)))
        · exact .inl (Hart.takesMessages_of_absent (.inr (.inr hst)))
        · exact .inr hfull
      obtain ⟨dies, hrefuse⟩ := s.refuse_of_untracked hr
      exact ⟨_, he.trans (congrArg _ ((if_pos hrefused).trans hrefuse)), rfl, rfl, rfl⟩
  · have he : exec .corectlWrite s = .next ({ s with cur := ⟨core, 0⟩ }.setCore core ((s.core core).writeCorectl val)) := by
      have he : exec .corectlWrite s = execCorectlWrite s := rfl
      rw [he, execCorectlWrite]
      split
      · next g w heq =>
          obtain ⟨rfl, rfl⟩ := EventArg.store.inj (harg.symm.trans heq)
          exact congrArg Host.Outcome.next (if_pos rfl)
      · next hne => exact absurd harg (hne _ _)
    exact ⟨_, he, rfl, State.core_setCore_same s core _⟩
  · have he : exec .fwstatWrite s = .next (s.setCore core ((s.core core).writeFwstat val)) := by
      have he : exec .fwstatWrite s = execFwstatWrite s := rfl
      rw [he, execFwstatWrite, harg]
    exact ⟨_, he, rfl, State.core_setCore_same s core _⟩

end Sys2Proof.Machine
end

section
/-! SUPPORT. Completion of barriers, updates of the debug overlay, and the writing of fault records (R55, R129, R190, R191, R199, R371 to
R375), with the statement BarrierAndRecordSteps. -/

namespace Sys2Proof.Machine

/-! ### Messages -/

/-- Messages that a step sends one after another: each has a number that no earlier message had. -/
theorem State.foldl_send_eq (d : DieId) (body : Nat → MsgBody) (l : List Nat) (s : State) :
    ∃ new nextId, l.foldl (fun s m => s.send d (body m)) s = { s with msgs := s.msgs ++ new, nextId := nextId } ∧
      (∀ x ∈ new, s.nextId ≤ x.id) ∧ ∀ k ∈ l, ∃ x ∈ new, x.body = body k := by
  induction l generalizing s with
  | nil => exact ⟨[], s.nextId, by rw [List.foldl_nil, List.append_nil], nofun, nofun⟩
  | cons a l ih =>
    obtain ⟨new, nextId, he, hids, hall⟩ := ih (s.send d (body a))
    refine ⟨⟨s.nextId, d, body a⟩ :: new, nextId, ?_, fun x hx => ?_, fun k hk => ?_⟩
    · rw [List.foldl_cons, he, List.append_cons]; rfl
    · rcases List.mem_cons.1 hx with rfl | hx
      · exact le_refl _
      · exact Nat.le_of_succ_le (hids x hx)
    · rcases List.mem_cons.1 hk with rfl | hk
      · exact ⟨_, List.mem_cons_self, rfl⟩
      · obtain ⟨x, hx, hb⟩ := hall k hk
        exact ⟨x, List.mem_cons_of_mem _ hx, hb⟩

/-- A message that has been taken is gone, whatever later ones join. -/
theorem State.msg?_of_dropped {s t : State} {n : Nat} {new : List Msg} (ht : t.msgs = s.msgs.filter (·.id != n) ++ new)
    (hnew : ∀ x ∈ new, x.id ≠ n) : t.msg? n = none := by
  unfold State.msg?
  rw [ht, Option.map_eq_none_iff, List.find?_eq_none]
  intro x hx
  rcases List.mem_append.1 hx with hx | hx
  · simpa using (List.mem_filter.1 hx).2
  · simpa using hnew x hx

/-- A message that a step takes has a number below the next. -/
theorem State.msg?_lt {s : State} {n : Nat} {b : MsgBody} (hn : s.msg? n = some b) (hids : ∀ x ∈ s.msgs, x.id < s.nextId) :
    n < s.nextId := by
  unfold State.msg? at hn
  obtain ⟨x, hx, -⟩ := Option.map_eq_some_iff.1 hn
  have hid : x.id = n := by simpa using List.find?_some hx
  exact hid ▸ hids x (List.mem_of_find?_eq_some hx)

/-! ### The root of a group (R55, R129, R191) -/

/-- A group of a context is replaced. -/
theorem Ctx.mem_setGroup {c : Ctx} {gid : BitVec 8} {g g' : Group} (h : c.groups.find? (fun x => x.gid == gid) = some g)
    (hg' : g'.gid = gid) : g' ∈ (c.setGroup g').groups := by
  have hgid : g.gid = gid := by simpa using List.find?_some h
  refine List.mem_map.2 ⟨g, List.mem_of_find?_eq_some h, ?_⟩
  rw [if_pos (hgid.trans hg'.symm)]

/-- A member's report that is the first of its core counts (R55). -/
theorem exec_barrierArrivalReport {s : State} {n core m : Nat} {ctx gid : BitVec 8} {sum max min : Option Word} {waits : List Nat}
    {c : Ctx} {g : Group} (harg : s.arg = .request n) (hn : s.msg? n = some (.barrierReport ctx gid core sum max min waits))
    (hwaits : s.outstanding waits = []) (hc : s.ctx? ctx = some c) (hg : c.groups.find? (fun x => x.gid == gid) = some g)
    (hm : c.window.idxOf? core = some m) (hmem : m ∈ g.members) (hnew : m ∉ g.reported)
    (hopen : s.routeOpen (dieOf core) (s.rootDie ctx gid core) = true) :
    exec .barrierArrivalReport s = .next (if ∀ k ∈ g.members, k = m ∨ k ∈ g.reported then
        (s.dropMsg n).completeGroup ctx c (g.count m sum max min)
      else (s.dropMsg n).setCtx ctx (c.setGroup (g.count m sum max min))) := by
  have he : exec .barrierArrivalReport s = execBarrierArrivalReport s := rfl
  have hall : (g.members.all (g.count m sum max min).reported.contains = true) ↔ ∀ k ∈ g.members, k = m ∨ k ∈ g.reported := by
    simp [Group.count]
  rw [he, execBarrierArrivalReport, State.atRequest_of_arg harg, hn]
  dsimp only
  rw [if_neg (by rw [hwaits, hopen]; decide), show (s.dropMsg n).ctx? ctx = some c from hc]
  dsimp only
  rw [hg, show c.logical core = some m from hm]
  dsimp only
  rw [if_neg (by simp [hmem, hnew])]
  simp only [show (g.count m sum max min).members = g.members from rfl, hall]

/-- The completion of a generation: the group begins anew, and every member is told (R55). -/
theorem State.completeGroup_spec (s : State) (ctx : BitVec 8) (c : Ctx) (g : Group) :
    ∃ new, (s.completeGroup ctx c g).msgs = s.msgs ++ new ∧ (∀ x ∈ new, s.nextId ≤ x.id) ∧
      (∀ k ∈ g.members, ∃ x ∈ new, x.body = .barrierDone ctx g.gid (c.window.getD k 0) g.sum g.max g.min) ∧
      (s.completeGroup ctx c g).mem = s.mem ∧ (s.completeGroup ctx c g).ctx? ctx =
        some (c.setGroup { g with reported := [], sum := none, max := none, min := none }) := by
  unfold State.completeGroup
  obtain ⟨new, nextId, he, hids, hall⟩ := State.foldl_send_eq (dieOf (c.window.getD (g.members.headD 0) 0))
    (fun m => .barrierDone ctx g.gid (c.window.getD m 0) g.sum g.max g.min) g.members
    (s.setCtx ctx (c.setGroup { g with reported := [], sum := none, max := none, min := none }))
  dsimp only
  rw [he]
  exact ⟨new, rfl, hids, hall, rfl, State.ctx_setCtx_same s ctx _⟩

/-! ### A member (R32, R55, R190) -/

theorem State.completeArrival_of_none {s : State} {h : HartRef} (ha : (s.hart h).arrived = none) (gid : BitVec 8)
    (sum max min : Option Word) : s.completeArrival h gid sum max min = s := by
  unfold State.completeArrival
  dsimp only
  rw [ha]

/-- A hart that is parked in its `gbar` goes on past it (R190). -/
theorem State.completeArrival_parked {s : State} {h : HartRef} {gid : BitVec 8} {pc : Option Word} {rd : Reg} {hold : Nat}
    (ha : (s.hart h).arrived = some ⟨gid, none, rd, hold, pc⟩) (hst : (s.hart h).st = .parked) (hwait : (s.hart h).wait = .barrier)
    (hjob : (s.hart h).job = .none) (sum max min : Option Word) :
    s.completeArrival h gid sum max min = s.setHart h { ((s.hart h).advance.moveTo .running s.refTime) with
      wait := .none, arrived := none, issueFrom := s.coreCycle h.core + 2 } := by
  unfold State.completeArrival
  dsimp only
  rw [ha]
  dsimp only
  rw [if_neg (not_not.2 rfl), if_pos ⟨hst, hwait, hjob⟩]

/-- Where one hart of a core alone has an arrival outstanding, a completion changes that hart alone. -/
theorem State.foldl_completeArrival {s : State} {core : Nat} {i : HartId} {gid : BitVec 8} {sum max min : Option Word}
    (hothers : ∀ j : HartId, j ≠ i → (s.hart ⟨core, j⟩).arrived = none) {v : Hart} (hv : v.arrived = none)
    (hstep : s.completeArrival ⟨core, i⟩ gid sum max min = s.setHart ⟨core, i⟩ v) :
    (List.finRange 16).foldl (fun s j => s.completeArrival ⟨core, j⟩ gid sum max min) s = s.setHart ⟨core, i⟩ v := by
  obtain ⟨before, after, hsplit, hnot⟩ := List.eq_append_cons_of_mem (List.mem_finRange i)
  rw [hsplit, List.foldl_append, List.foldl_cons, foldl_fixed (l := before), hstep, foldl_fixed]
  · intro j _
    refine State.completeArrival_of_none ?_ gid sum max min
    by_cases hj : j = i
    · subst hj; rw [State.hart_setHart_same, hv]
    · rw [State.hart_setHart_other _ _ (by simpa using hj)]
      exact hothers j hj
  · intro j hj
    exact State.completeArrival_of_none (hothers j fun he => hnot (he ▸ hj)) gid sum max min

theorem exec_barrierCompletionArrival {s : State} {n core : Nat} {ctx gid : BitVec 8} {sum max min : Option Word}
    (harg : s.arg = .request n) (hn : s.msg? n = some (.barrierDone ctx gid core sum max min))
    (hopen : s.routeOpen (s.rootDie ctx gid core) (dieOf core) = true) :
    exec .barrierCompletionArrival s = .next ((List.finRange 16).foldl (fun s j => s.completeArrival ⟨core, j⟩ gid sum max min)
      ((s.dropMsg n).setCore core { s.core core with arrivals := (s.core core).arrivals.filter (fun a => a.gid != gid) })) := by
  have he : exec .barrierCompletionArrival s = execBarrierCompletionArrival s := rfl
  rw [he, execBarrierCompletionArrival, State.atRequest_of_arg harg, hn]
  dsimp only
  rw [if_neg (by rw [hopen]; decide)]
  rfl

/-! ### The debug overlay (R199) -/

theorem overlayUpdate_full {table : List (Word × Word)} {page : Word} {target : Option Word}
    (hfull : 16 ≤ (table.filter (·.1 ≠ page)).length) (ht : target ≠ none) : overlayUpdate table page target = table := by
  obtain ⟨t, rfl⟩ := Option.ne_none_iff_exists'.1 ht
  have hrest : table.filter (fun o => o.1 != page) = table.filter (·.1 ≠ page) := by simp [bne, Bool.beq_eq_decide_eq]
  unfold overlayUpdate
  dsimp only
  rw [hrest, if_neg (by omega)]

theorem mem_overlayUpdate {table : List (Word × Word)} {page : Word} {target : Option Word}
    (hroom : (table.filter (·.1 ≠ page)).length < 16 ∨ target = none) (o : Word × Word) :
    o ∈ overlayUpdate table page target ↔ (o ∈ table ∧ o.1 ≠ page) ∨ (o.1 = page ∧ target = some o.2) := by
  have hrest : table.filter (fun o => o.1 != page) = table.filter (·.1 ≠ page) := by simp [bne, Bool.beq_eq_decide_eq]
  unfold overlayUpdate
  rw [hrest]
  cases target with
  | none => simp
  | some t =>
    have hlt := hroom.resolve_right nofun
    dsimp only
    rw [if_pos hlt]
    simp only [List.mem_append, List.mem_filter, List.mem_singleton, decide_eq_true_eq, Prod.ext_iff, Option.some.injEq,
      eq_comm (a := t)]

theorem exec_overlayUpdateComplete {s : State} {h : HartRef} {page : Word} {target : Option Word} {n : BitVec 8} {x : Ctx}
    (harg : s.arg = .hart h) (hjob : (s.hart h).job = .overlay page target) (hst : (s.hart h).st = .running)
    (hc : (s.core h.core).ctx = some n) (hx : s.ctx? n = some x) :
    exec .overlayUpdateComplete s = .next ((s.setCtx n { x with overlays := overlayUpdate x.overlays page target }).setHart h
      { (s.hart h).advance with job := .none, issueFrom := max (s.hart h).issueFrom (s.coreCycle h.core) }) := by
  have he : exec .overlayUpdateComplete s = execOverlayUpdateComplete s := rfl
  rw [he, execOverlayUpdateComplete, State.atHart_of_arg harg]
  dsimp only
  rw [hjob, hst, hc]
  dsimp only
  rw [hx]
  rfl

/-! ### Fault records (R363, R371 to R374) -/

/-- The clock of a die does not depend on the rest of it (R316, R317). -/
theorem State.cycle_setDie {s : State} {d : DieId} {v : Die} (hanchor : v.anchorCycle = (s.die d).anchorCycle)
    (htime : v.anchorTime = (s.die d).anchorTime) (hcur : v.cur = (s.die d).cur) (hhalted : v.halted = (s.die d).halted)
    (hafter : v.haltAfter = (s.die d).haltAfter) (e : DieId) : (s.setDie d v).cycle e = s.cycle e := by
  unfold State.cycle
  by_cases he : e = d
  · subst he
    dsimp only
    rw [State.die_setDie_same, hanchor, htime, hcur, hhalted, hafter]
    rfl
  · rw [State.die_setDie_other _ _ he]
    rfl

theorem State.setDie_setDie (s : State) (d : DieId) (v w : Die) : (s.setDie d v).setDie d w = s.setDie d w := by
  unfold State.setDie
  simp

/-- A record that becomes pending changes its hart alone. -/
theorem State.makePending_eq (s : State) (f : FaultRec) (index : Nat) : ∃ cores, s.makePending f index = { s with cores := cores } := by
  unfold State.makePending
  split
  · exact ⟨_, rfl⟩
  · dsimp only
    split <;> exact ⟨_, rfl⟩

theorem State.makePending_hart {s : State} {f : FaultRec} {h : HartRef} (hf : f.hart = some h) (hsettles : f.settles = none)
    (hst : (s.hart h).st = .running ∨ (s.hart h).st = .parked) (index : Nat) :
    ((s.makePending f index).hart h).pending = (s.hart h).pending ++ [⟨f.cause, index, s.coreCycle h.core, none⟩] := by
  have hfill : s.filledBy f = none := by rw [State.filledBy, hsettles]; rfl
  unfold State.makePending
  rw [hf]
  dsimp only
  rw [hfill]
  rcases hst with hst | hst <;> rw [hst, State.hart_setHart_same]

/-- The die as the oldest fault found is written (R371, R372). -/
def Die.withRecord (v : Die) (f : FaultRec) (time cycle : Nat) : Die :=
  { v with
    records := tableSet v.records (v.fbHead.toNat % 256) (f.w0 ||| 0x1000, f.w1, f.w2, f.detail ++ BitVec.ofNat 48 time)
    fbHead := v.fbHead + 1, fbNew := true, lastWrite := cycle + 1, found := [] }

/-- A record that settles nothing is written (R371, R372). -/
theorem State.writeRecord_eq {s : State} {d : DieId} {f : FaultRec} (hfound : (s.die d).found = []) (hsettles : f.settles = none)
    (hslot : f.slot = none) : s.writeRecord d f =
      (s.setDie d ((s.die d).withRecord f s.refTime (s.cycle d))).makePending f ((s.die d).fbHead.toNat % 256) := by
  have hdie : { s.die d with
      records := tableSet (s.die d).records ((s.die d).fbHead.toNat % 256)
        (setBit f.w0 12 true, f.w1, f.w2, f.detail ++ BitVec.ofNat 48 s.refTime)
      fbHead := (s.die d).fbHead + 1, fbNew := true, lastWrite := s.cycle d + 1 } =
      (s.die d).withRecord f s.refTime (s.cycle d) := by
    rw [Die.withRecord, ← hfound]; rfl
  unfold State.writeRecord
  dsimp only
  rw [hsettles, State.indexEntry, hslot, hdie]
  dsimp only
  obtain ⟨cores, hpending⟩ := (s.setDie d ((s.die d).withRecord f s.refTime (s.cycle d))).makePending_eq f
    ((s.die d).fbHead.toNat % 256)
  rw [hpending]
  unfold State.holdFound
  dsimp only
  rw [if_neg]
  rw [show ∀ cores, State.die { s.setDie d ((s.die d).withRecord f s.refTime (s.cycle d)) with cores := cores } d =
    (s.die d).withRecord f s.refTime (s.cycle d) from fun _ => State.die_setDie_same s d _]
  simp [Die.withRecord]

theorem exec_faultRecordWrite {s : State} {d : DieId} {f : FaultRec} (harg : s.arg = .die d) (hlast : (s.die d).lastWrite ≤ s.cycle d)
    (hroom : s.bufferFull d = false) (hheld : (s.die d).holding = []) (hfound : (s.die d).found = [f]) (hsettles : f.settles = none)
    (hslot : f.slot = none) :
    exec .faultRecordWrite s = .next ((s.setDie d ((s.die d).withRecord f s.refTime (s.cycle d))).makePending f
      ((s.die d).fbHead.toNat % 256)) := by
  have he : exec .faultRecordWrite s = execFaultRecordWrite s := rfl
  have hcycle : (s.setDie d { s.die d with found := [] }).cycle d = s.cycle d :=
    State.cycle_setDie (v := { s.die d with found := [] }) rfl rfl rfl rfl rfl d
  have hwrite : (s.setDie d { s.die d with found := [] }).writeRecord d f =
      (s.setDie d ((s.die d).withRecord f s.refTime (s.cycle d))).makePending f ((s.die d).fbHead.toNat % 256) := by
    rw [State.writeRecord_eq (by rw [State.die_setDie_same]) hsettles hslot, hcycle, State.die_setDie_same, State.setDie_setDie]
    rfl
  rw [he, execFaultRecordWrite, harg]
  dsimp only
  rw [if_pos ⟨hlast, by rw [hroom]; decide⟩]
  split
  · next hg => exact absurd (hheld.symm.trans hg) nofun
  · next g rest _ hg =>
      obtain ⟨rfl, rfl⟩ := List.cons.inj (hfound.symm.trans hg)
      exact congrArg _ hwrite
  · next hg => exact absurd (hfound.symm.trans hg) nofun

/-- Settles O32: each step by the lemma about it. -/
theorem barrierAndRecordSteps : Obligations.BarrierAndRecordSteps := by
  intro s n h v
  refine ⟨fun ctx gid core sum max min waits c g m harg hn hwaits hc hg hm hmem hnew hids hopen => ?_,
    fun ctx gid sum max min pc harg hn hopen ha hst hwait hjob hothers => ?_,
    fun page target c x harg hjob hst hc hx => ?_, fun d f harg hlast hroom hheld hfound hsettles hslot => ?_⟩
  · have hgid : g.gid = gid := by simpa using List.find?_some hg
    rw [exec_barrierArrivalReport harg hn hwaits hc hg hm hmem hnew hopen]
    split
    next hall =>
      obtain ⟨new, hmsgs, hnewids, hbodies, hmem', hctx⟩ := (s.dropMsg n).completeGroup_spec ctx c (g.count m sum max min)
      refine ⟨_, _, rfl, hmem', hctx, State.msg?_of_dropped hmsgs fun x hx => Nat.ne_of_gt ?_,
        ⟨_, Ctx.mem_setGroup hg hgid, hgid, rfl, rfl, rfl, rfl⟩, fun k hk => ?_⟩
      · exact lt_of_lt_of_le (State.msg?_lt hn hids) (hnewids x hx)
      · obtain ⟨x, hx, hbody⟩ := hbodies k hk
        exact ⟨x, hmsgs ▸ List.mem_append_right _ hx, _, _, _, hgid ▸ hbody⟩
    next =>
      exact ⟨_, _, rfl, rfl, State.ctx_setCtx_same _ ctx _, State.msg?_of_dropped (new := []) (List.append_nil _).symm nofun,
        ⟨_, Ctx.mem_setGroup hg hgid, hgid, rfl⟩, rfl⟩
  · rw [exec_barrierCompletionArrival harg hn hopen]
    generalize hu : (s.dropMsg n).setCore h.core { s.core h.core with
      arrivals := (s.core h.core).arrivals.filter (fun a => a.gid != gid) } = u
    have hhart (g : HartRef) : u.hart g = s.hart g := by
      rw [← hu]; exact State.hart_setCore_of_harts (s.dropMsg n) (by rfl) g
    have harrivals : (u.core h.core).arrivals = (s.core h.core).arrivals.filter (fun a => a.gid != gid) := by
      rw [← hu, State.core_setCore_same]
    have hmem : u.mem = s.mem := by rw [← hu]; rfl
    have hcycle : u.coreCycle h.core = s.coreCycle h.core := by rw [← hu]; rfl
    have hstep := State.completeArrival_parked ((congrArg Hart.arrived (hhart h)).trans ha) ((congrArg Hart.st (hhart h)).trans hst)
      ((congrArg Hart.wait (hhart h)).trans hwait) ((congrArg Hart.job (hhart h)).trans hjob) sum max min
    rw [State.foldl_completeArrival (fun j hj => (congrArg Hart.arrived (hhart ⟨h.core, j⟩)).trans (hothers j hj)) rfl hstep]
    refine ⟨_, rfl, hmem, ?_⟩
    rw [State.hart_setHart_same, hhart, State.setHart, State.core_setCore_same, hcycle]
    exact ⟨rfl, rfl, rfl, rfl, rfl, harrivals⟩
  · rw [exec_overlayUpdateComplete harg hjob hst hc hx]
    refine ⟨_, _, rfl, rfl, State.ctx_setCtx_same s c _, ?_, ?_, overlayUpdate_full, mem_overlayUpdate⟩
    · rw [State.hart_setHart_same]; rfl
    · rw [State.hart_setHart_same]
  · rw [exec_faultRecordWrite harg hlast hroom hheld hfound hsettles hslot]
    generalize hu : s.setDie d ((s.die d).withRecord f s.refTime (s.cycle d)) = u
    have hdie : u.die d = (s.die d).withRecord f s.refTime (s.cycle d) := by rw [← hu, State.die_setDie_same]
    have hmem : u.mem = s.mem := by rw [← hu]; rfl
    have hhart (g : HartRef) : u.hart g = s.hart g := by rw [← hu]; rfl
    have hcycle : u.coreCycle h.core = s.coreCycle h.core := by
      rw [← hu]; exact State.cycle_setDie (v := (s.die d).withRecord f s.refTime (s.cycle d)) rfl rfl rfl rfl rfl _
    obtain ⟨cores, hpending⟩ := u.makePending_eq f ((s.die d).fbHead.toNat % 256)
    have hdie' : (u.makePending f ((s.die d).fbHead.toNat % 256)).die d = (s.die d).withRecord f s.refTime (s.cycle d) := by
      rw [hpending]; exact hdie
    refine ⟨_, _, rfl, by rw [hpending]; exact hmem, ?_, rfl, ?_⟩
    · rw [hdie']; exact tableGet_tableSet_same _ _ _
    · rw [hdie']
      refine ⟨rfl, rfl, rfl, fun hf hst => ?_⟩
      rw [State.makePending_hart hf hsettles (by rw [hhart]; exact hst), hhart, hcycle]

end Sys2Proof.Machine
end

section
/-! SUPPORT. Tasks of kernels, tile steps, signals of the store drain, and Cellar parts (R58, R281 to R286, R297, R303, R383, R392), with
the statement StreamAgentSteps. -/

namespace Sys2Proof.Machine

/-! ### Entries of a slot (R276, R281, R369) -/

theorem Slot.setEntry_setEntry (v : Slot) {e f : Entry} (h : e.n = f.n) : (v.setEntry e).setEntry f = v.setEntry f := by
  have hmap : (v.window.map fun x => if x.n = e.n then e else x).map (fun x => if x.n = f.n then f else x) =
      v.window.map fun x => if x.n = f.n then f else x := by
    rw [List.map_map]
    refine List.map_congr_left fun x _ => ?_
    by_cases hx : x.n = e.n
    · simp [hx, h]
    · simp [hx]
  unfold Slot.setEntry
  dsimp only
  rw [hmap]

theorem State.setSlot_self (s : State) (i : SlotId) : s.setSlot i (s.slot i) = s := by
  unfold State.setSlot State.slot
  simp

/-- An entry that the store drain does not hold is replaced in the window alone. -/
theorem State.putEntry_of_alone {s : State} {i : SlotId} {e : Entry} (h : ∀ y ∈ (s.slot i).drain, y.e.n ≠ e.n) :
    s.putEntry i e = s.setSlot i ((s.slot i).setEntry e) := by
  have hdrain : (s.slot i).drain.map (fun d => if d.e.n == e.n then ⟨e⟩ else d) = (s.slot i).drain :=
    (List.map_congr_left fun d hd => if_neg (by simpa using h d hd)).trans (List.map_id _)
  unfold State.putEntry
  dsimp only [Slot.setEntry]
  rw [hdrain]

/-- An entry that stands in the window once, and not in the store drain, put back as it is changes nothing. -/
theorem State.putEntry_self {s : State} {i : SlotId} {e : Entry} {n : Nat} (he : (s.slot i).entry? n = some e)
    (hdrain : ∀ y ∈ (s.slot i).drain, y.e.n ≠ n) (hnodup : ((s.slot i).window.map (·.n)).Nodup) : s.putEntry i e = s := by
  have hn : e.n = n := by simpa using List.find?_some he
  have hmem := List.mem_of_find?_eq_some he
  have hwindow : (s.slot i).window.map (fun x => if x.n = e.n then e else x) = (s.slot i).window := by
    refine (List.map_congr_left fun x hx => ?_).trans (List.map_id _)
    by_cases hxn : x.n = e.n
    · rw [if_pos hxn]; exact (List.inj_on_of_nodup_map hnodup hx hmem hxn).symm
    · rw [if_neg hxn]; rfl
  rw [State.putEntry_of_alone (by rw [hn]; exact hdrain), Slot.setEntry, hwindow]
  exact s.setSlot_self i

/-- A fault of no hart changes its die alone (R373). -/
theorem State.raise_of_none (s : State) (d : DieId) {f : FaultRec} (h : f.hart = none) : ∃ dies, s.raise d f = { s with dies := dies } := by
  unfold State.raise
  dsimp only
  rw [h]
  split <;> exact ⟨_, rfl⟩

/-- A fault of an issued entry of a slot that runs marks it (R369, R397). -/
theorem State.markEntry_issued {s : State} {i : SlotId} {e : Entry} (hst : (s.slot i).st = .running) (he : e.st = .issued)
    (code : BitVec 8) (source : Nat) (addr : Word) (detail : BitVec 16) (who : Word) :
    ∃ dies, s.markEntry i e code source addr detail who =
      { s with dies := dies }.setSlot i ((s.slot i).setEntry { e with st := .marked code none, room := [] }) := by
  obtain ⟨dies, hraise⟩ := s.raise_of_none (s.slot i).lead (f := s.streamRecord i e code source addr detail who) rfl
  refine ⟨dies, ?_⟩
  unfold State.markEntry
  dsimp only
  rw [hst, he, hraise]

/-! ### Tasks of kernels (R58, R297, R383) -/

theorem bits_eq_extract {w : Nat} (a : BitVec w) (lo len : Nat) : bits a.toNat lo len = (a.extractLsb' lo len).toNat := by
  rw [bits, BitVec.extractLsb'_toNat, Nat.shiftRight_eq_div_pow]

theorem State.atSlot_of_arg {s : State} {i : SlotId} (harg : s.arg = .slot i) (f : SlotId → State) : s.atSlot f = .next (f i) := by
  unfold State.atSlot
  rw [harg]

/-- A task joins the queue of the core that the dispatcher finds for it, and its entry counts it (R58, R297). -/
theorem State.placeTasks_one (s : State) (i : SlotId) {e : Entry} (core : Nat) (halone : ∀ y ∈ (s.slot i).drain, y.e.n ≠ e.n) :
    (s.placeTasks i e [core]).mem = s.mem ∧ (s.placeTasks i e [core]).dies = s.dies ∧
    (s.placeTasks i e [core]).slot i = (s.slot i).setEntry { e with placed := e.placed + 1, lastCore := core } ∧
    ((s.placeTasks i e [core]).core core).tasks = (s.core core).tasks ++ [⟨taskRecord i (s.slot i) e e.placed, e.fields.prio, .stream,
      s.coreCycle core, (tableGet (s.slot i).entryLines (64 * (dieOf core).val + (e.fields.aux.extractLsb' 0 6).toNat)).map fun b =>
        (lineOf ((s.slot i).kernels.getD (e.fields.aux.extractLsb' 0 6).toNat 0), b)⟩] := by
  have halone' : ∀ y ∈ (s.slot i).drain, y.e.n ≠ ({ e with placed := e.placed + 1, lastCore := core } : Entry).n := halone
  rw [← bits_eq_extract]
  unfold State.placeTasks
  dsimp only [List.zipIdx_cons, List.zipIdx_nil, List.foldl_cons, List.foldl_nil, List.length_cons, List.length_nil, List.getLastD_cons,
    List.getLastD_nil, Nat.add_zero, Nat.zero_add]
  rw [State.putEntry_of_alone (by exact halone')]
  split
  · exact ⟨rfl, rfl, State.slot_setSlot_same _ i _, congrArg Core.tasks (State.core_setCore_same s core _)⟩
  · exact ⟨rfl, rfl, State.slot_setSlot_same _ i _, congrArg Core.tasks (State.core_setCore_same s core _)⟩

/-! ### Tile steps (R281 to R284) -/

/-- The turn of the sequencer at a core with a tile step in progress. -/
theorem exec_macroTileStep_core {s : State} {core : Nat} {x : TileStep} {e : Entry} {u : UnitAt} (harg : s.arg = .core core)
    (hturn : s.coreTurn core = true) (htile : (s.core core).tileStep = some x) (he : (s.slot x.slot).entry? x.entry = some e)
    (hu : e.unit? x.unit = some u) : exec .macroTileStep s = .next (s.tileGoes core none x e false u) := by
  have hexec : exec .macroTileStep s = execMacroTileStep s := rfl
  have hworking : (s.slot x.slot).working? x.entry = some (e, false) := by unfold Slot.working?; rw [he]
  rw [hexec, execMacroTileStep, harg]
  dsimp only
  unfold State.sequence
  dsimp only
  rw [if_neg (by rw [hturn]; decide), htile]
  dsimp only
  rw [hworking]
  dsimp only
  rw [hu]

@[simp] theorem State.core_setTile (s : State) (core : Nat) (t : Option TileStep) :
    (s.setTile core t).core core = { s.core core with tileStep := t } :=
  State.core_setCore_same s core _

section
variable {s s' : State} {core : Nat} {x : TileStep} {e : Entry} {u : UnitAt} {d : TensorForm} {src : List TensorForm} {raw : Word}
  {pitch : Nat} (hreading : x.reading = true) (hten : e.tensors = (d, src)) (hraw : s.rawSide x.slot e d = (raw, pitch))
include hreading hten hraw

/-- A step that has all that it reads has what it writes (R284). -/
theorem State.tileGoes_ready {b : List (List Byte)} (hop : e.op ≠ 0x20) (drained : Bool)
    (hpull : s.pullSpans (s.tileReader x.slot e core)
      (stepReads e.op e.fields d src raw pitch (u.unit * e.unitSteps + u.done)) = (s', .ready b)) :
    ∃ emit fault, ((s.tileGoes core none x e drained u).core core).tileStep = some { x with
      reading := false, emit := emit, fault := fault
      writes := (stepResult e.op e.fields (s'.streamCompat (s'.slot x.slot).ctx) d src raw pitch
        (u.unit * e.unitSteps + u.done) b).writes } := by
  unfold State.tileGoes State.readTile
  rw [if_pos hreading, hten]
  dsimp only
  rw [hraw]
  dsimp only
  rw [hpull]
  dsimp only
  rw [if_neg hop, State.core_setTile]
  exact ⟨_, _, rfl⟩

/-- A step whose reads fault holds the fault (R397). -/
theorem State.tileGoes_readFault {c : BitVec 8} {y : Word} (drained : Bool)
    (hpull : s.pullSpans (s.tileReader x.slot e core)
      (stepReads e.op e.fields d src raw pitch (u.unit * e.unitSteps + u.done)) = (s', .fault c y)) :
    (s.tileGoes core none x e drained u).mem = s'.mem ∧
    ((s.tileGoes core none x e drained u).core core).tileStep = some { x with reading := false, fault := some (c, y) } := by
  unfold State.tileGoes State.readTile
  rw [if_pos hreading, hten]
  dsimp only
  rw [hraw]
  dsimp only
  rw [hpull]
  dsimp only
  rw [State.core_setTile]
  exact ⟨rfl, rfl⟩

end

/-- A trigger of the sequencer joins the queue of its unit (R37, R283). -/
theorem State.emitTile_spec (s : State) (core : Nat) (x : TileStep) (op : MacroOp) (more : List MacroOp) :
    ∃ q : Trigger, q.macroOp = some op ∧ (s.emitTile core x op more).mem = s.mem ∧
      ((s.emitTile core x op more).core core).tileStep = some { x with emit := more, open_ := x.open_ + 1 } ∧
      (match op with
        | .copy => ((s.emitTile core x op more).core core).ceq = (s.core core).ceq ++ [q]
        | .weights _ _ => ((s.emitTile core x op more).core core).wbq = (s.core core).wbq ++ [q]
        | _ => ((s.emitTile core x op more).core core).mxq = (s.core core).mxq ++ [q]) := by
  unfold State.emitTile
  dsimp only
  rw [State.core_setCore_same]
  cases op <;> exact ⟨_, rfl, rfl, rfl, rfl⟩

/-- A tile step with nothing to write is at its boundary (R284). -/
theorem State.tileGoes_end {s : State} {core : Nat} {x : TileStep} {e : Entry} {u : UnitAt} (hreading : x.reading = false)
    (hfault : x.fault = none) (hemit : x.emit = []) (hopen : x.open_ = 0) (hwrites : x.writes = []) (drained : Bool) :
    s.tileGoes core none x e drained u = s.endTile core x.slot { e with wrote := true } u 1 := by
  unfold State.tileGoes
  rw [if_neg (by rw [hreading]; decide), hfault, hemit]
  dsimp only
  rw [if_neg (not_not.2 hopen), hwrites]
  rfl

/-- A step that has read emits its next trigger (R284). -/
theorem State.tileGoes_emit {s : State} {core : Nat} {x : TileStep} {op : MacroOp} {more : List MacroOp} (hreading : x.reading = false)
    (hfault : x.fault = none) (hemit : x.emit = op :: more) (hmay : s.mayEmit core x op = true) (e : Entry) (drained : Bool) (u : UnitAt) :
    s.tileGoes core none x e drained u = s.emitTile core x op more := by
  unfold State.tileGoes
  rw [if_neg (by rw [hreading]; decide), hfault, hemit]
  exact if_pos hmay

/-- A step that has faulted marks its entry (R397). -/
theorem State.tileGoes_fault {s : State} {core : Nat} {x : TileStep} {code : BitVec 8} {addr : Word} (hreading : x.reading = false)
    (hfault : x.fault = some (code, addr)) (hopen : x.open_ = 0) (e : Entry) (u : UnitAt) :
    s.tileGoes core none x e false u =
      (s.setTile core none).markEntry x.slot e 0x53 5 addr (code.zeroExtend 16) (s.agentWord (dieOf core)) := by
  unfold State.tileGoes
  rw [if_neg (by rw [hreading]; decide), hfault]
  exact if_pos hopen

/-- The flag arrival of a signal in the store drain (R281, R303). -/
theorem exec_macroTileStep_signal {s : State} {i : SlotId} {n : Nat} {y : Drain} (harg : s.arg = .entry i n)
    (hfind : (s.slot i).drain.find? (fun z => z.e.n == n) = some y) (hstep : y.e.step < y.e.steps)
    (hready : s.drainReady i y.e = true) (hop : y.e.op = 0x65) : exec .macroTileStep s = .next (s.drainSignal i y.e) := by
  have hexec : exec .macroTileStep s = execMacroTileStep s := rfl
  have hnot : expands y.e.op = false := by rw [hop]; rfl
  rw [hexec, execMacroTileStep, harg]
  dsimp only
  rw [hfind]
  dsimp only
  rw [if_pos (by simp [hstep, hready, hnot])]

/-! ### Cellar parts (R285, R286) -/

/-- Taking out a part. -/
theorem State.setPart_none_cellar (s : State) (id : Nat) : (s.setPart id none).cellar = s.cellar.filter fun x => x.2.2.id != id := by
  unfold State.setPart
  dsimp only
  rw [← List.filterMap_eq_filter]
  refine List.filterMap_congr fun x _ => ?_
  by_cases hx : x.2.2.id = id <;> simp [hx, Option.guard]

/-- Rows that all lie at the engine's own stack: nothing goes on to other devices (R286). -/
theorem State.sendOn_nil {s : State} {die : DieId} {p : Part}
    (h : ∀ j m, p.owner = .entry j m → (∀ y ∈ (s.slot j).drain, y.e.n ≠ m) ∧ ((s.slot j).window.map (·.n)).Nodup) :
    s.sendOn die p [] = s := by
  unfold State.sendOn
  split
  · next j m hown =>
      obtain ⟨hdrain, hnodup⟩ := h j m hown
      split
      · next e he =>
          dsimp only [State.sendParts, List.foldl_nil]
          rw [List.append_nil]
          exact State.putEntry_self he hdrain hnodup
      · rfl
  · rfl

/-- A part whose rows lie at its engine's stack does them all (R285). -/
theorem State.workPart_done {s s' : State} {k : Fin 8} {p : Part}
    (hsplit : s.splitRows (Fin.ofNat 4 (k.val / 2)) false true p.work = (s, ⟨[(k, p.work.rows)], [], [], none⟩)) (hrows : p.work.rows ≠ [])
    (hown : ∀ j m, p.owner = .entry j m → (∀ y ∈ (s.slot j).drain, y.e.n ≠ m) ∧ ((s.slot j).window.map (·.n)).Nodup)
    (hdone : (s.setPart p.id (some p)).performPart ⟨.part p.id, 1280 * (k.val / 2), p.work.asid, p.work.ctx, false⟩ p.work = (s', .done)) :
    s.workPart k p = (s'.dropStaged (.part p.id)).setPart p.id (some { p with work := { p.work with rows := [] }, performed := true }) := by
  have hdie : (Fin.ofNat 4 (k.val / 2) : DieId).val = k.val / 2 := Nat.mod_eq_of_lt (by omega)
  have hnow : [(k, p.work.rows)].flatMap (·.2) = p.work.rows := List.flatMap_singleton _ _
  unfold State.workPart
  dsimp only
  rw [hsplit]
  dsimp only
  rw [State.sendOn_nil hown, hnow, if_neg (by simpa using hrows), List.append_nil, hdie]
  split
  · next heq => exact absurd (hdone.symm.trans heq) (by simp)
  · next heq => exact absurd (hdone.symm.trans heq) (by simp)
  · next heq =>
      obtain ⟨rfl, -⟩ := Prod.mk.inj (hdone.symm.trans heq)
      rfl

/-- The task that the dispatcher places (R58). -/
theorem exec_skernTaskPlacement {s : State} {i : SlotId} {e : Entry} {core : Nat} (harg : s.arg = .slot i)
    (hst : (s.slot i).st = .running) (hlast : (s.die (s.slot i).lead).lastPlace ≠ s.cycle (s.slot i).lead + 1)
    (hheld : s.slotHeld i = false) (hnext : s.nextPlacement [] (s.unplaced (s.slot i).lead) = some (i, e, [core]))
    (hopen : s.routeOpen (s.slot i).lead (dieOf core) = true) :
    exec .skernTaskPlacement s = .next ((s.setDie (s.slot i).lead { s.die (s.slot i).lead with
      lastPlace := s.cycle (s.slot i).lead + 1 }).placeTasks i e [core]) := by
  have he : exec .skernTaskPlacement s = execSkernTaskPlacement s := rfl
  rw [he, execSkernTaskPlacement, State.atSlot_of_arg harg]
  dsimp only
  rw [if_neg (by simp [hst, hlast, hheld]), hnext]
  dsimp only
  rw [if_pos ⟨rfl, by simp [hopen]⟩]

/-- The report of a task's end counts (R297, R383). -/
theorem exec_taskEndReport {s : State} {i : SlotId} {n entry : Nat} {ctx code : BitVec 8} {faulted : Bool} {addr who : Word} {e : Entry}
    (harg : s.arg = .request n) (hn : s.msg? n = some (.taskEnd i entry ctx faulted code addr who))
    (hfind : (s.slot i).window.find? (fun x => x.n % 256 == entry && x.op == 0x40) = some e) (hctx : (s.slot i).ctx = ctx)
    (hst : (s.slot i).st = .running) (hended : e.ended < e.placed) (he : e.st = .issued)
    (hopen : s.routeOpen (s.msgDie n) (s.slot i).lead = true) :
    exec .taskEndReport s = .next (
      let t := (s.dropMsg n).putEntry i { e with ended := e.ended + 1 }
      if faulted then t.markEntry i { e with ended := e.ended + 1 } 0x52 4 addr (code.zeroExtend 16) who else t) := by
  have hexec : exec .taskEndReport s = execTaskEndReport s := rfl
  have hlive : ¬ ((s.slot i).ctx ≠ ctx ∨ (s.slot i).st = .free ∨ e.placed ≤ e.ended) := by
    rw [hst]
    simp [hctx, hended]
  rw [hexec, execTaskEndReport, State.atRequest_of_arg harg, hn]
  dsimp only
  rw [if_neg (by rw [hopen]; decide), hfind]
  dsimp only
  rw [if_neg hlive, he]
  cases faulted <;> rfl

/-- A part whose writes have completed leaves its engine and its entry (R285). -/
theorem exec_cellarPartComplete_performed {s : State} {i : SlotId} {e : Entry} {k : Fin 8} {g : CellarEngine} {p : Part}
    (harg : s.arg = .cellar k g) (hfind : s.cellar.find? (fun x => x.1 == k && x.2.1 == g) = some (k, g, p))
    (hperf : p.performed = true) (hreqs : ∀ r ∈ s.reqs, r.src ≠ .part p.id) (hstaged : ∀ x ∈ s.staged, x.1 ≠ .part p.id)
    (hown : p.owner = .entry i e.n) (he : (s.slot i).entry? e.n = some e) :
    exec .cellarPartComplete s = .next (((s.setPart p.id none).dropStaged (.part p.id)).putEntry i { e with
      parts := e.parts.filter fun x => x != p.id }) := by
  have hexec : exec .cellarPartComplete s = execCellarPartComplete s := rfl
  have hquiet : s.busy (.part p.id) = false := by
    unfold State.busy
    exact List.any_eq_false.2 fun r hr => by simpa using hreqs r hr
  have hclean (f : _ → Option (BitVec 8 × Word)) : (s.staged.findSome? fun x => if x.1 == .part p.id then f x else none) = none :=
    List.findSome?_eq_none_iff.2 fun x hx => if_neg (by simpa using hstaged x hx)
  rw [hexec, execCellarPartComplete, harg]
  dsimp only
  rw [hfind]
  dsimp only
  rw [if_neg (by rw [hperf]; decide), if_neg (by rw [hquiet]; decide), hclean]
  unfold State.leavePart
  dsimp only
  rw [hown]
  dsimp only
  unfold State.endPart
  rw [show ((s.setPart p.id none).dropStaged (.part p.id)).slot i = s.slot i from rfl, he]

/-- A part of another device joins the queue of its engine (R286, R392). -/
theorem exec_remotePartArrival {s : State} {n lead tag hops : Nat} {w : CellarWork} {k : Fin 8} {rows : List (Nat × Nat)}
    (harg : s.arg = .request n) (hn : s.msg? n = some (.remotePart lead tag w hops)) (hctx : s.ctx? w.ctx ≠ none)
    (hsplit : s.splitRows 0 false false w = (s, ⟨[(k, rows)], [], [], none⟩)) (hload : s.engineLoad k (partEngine w) < 8)
    (hopen : s.routeOpen (s.msgDie n) (Fin.ofNat 4 (k.val / 2)) = true) :
    exec .remotePartArrival s = .next { s.dropMsg n with
      cellar := s.cellar ++ [(k, partEngine w, ⟨s.nextId, .foreign lead tag, { w with rows := rows }, false, rows.length, hops⟩)]
      nextId := s.nextId + 1 } := by
  have hexec : exec .remotePartArrival s = execRemotePartArrival s := rfl
  have hroom : s.engineRoom w [(k, rows)] = true := by simp [State.engineRoom, hload]
  have hreach : ([(k, rows)].all fun x => s.routeOpen (s.msgDie n) (Fin.ofNat 4 (x.1.val / 2))) = true := by
    rw [List.all_cons, hopen]; rfl
  rw [hexec, execRemotePartArrival, State.atRequest_of_arg harg, hn]
  dsimp only
  rw [hsplit]
  dsimp only
  rw [if_neg (by simpa using hctx), if_neg (by rw [hroom, hreach]; decide)]
  rfl

/-- Settles O46: each step by the lemma about it. -/
theorem streamAgentSteps : Obligations.StreamAgentSteps := by
  intro s s' i e n core k g p v now line reader alone
  refine ⟨fun harg hst hlast hheld hgang hnext halone hopen => ?_,
    fun entry ctx faulted code addr who harg hn hfind hctx hst hended he halone hopen => ?_,
    fun x u harg hturn htile hslot hentry he hu hunit => ⟨fun b hreading hop => ?_, fun hreading hfault => ⟨fun op more hemit hmay => ?_,
      fun hemit hopen hwrites halone => ?_⟩, fun code addr hreading hfault hopen hst hissued => ?_⟩,
    fun y harg hfind hstep hready hop => ?_,
    fun harg hfind => ⟨fun hnew hsplit hrows hown hdone => ?_, fun hperf hreqs hstaged hown he halone => ?_⟩,
    fun lead tag w hops rows harg hn hctx hsplit hload hopen => ?_⟩
  · have halone' : ∀ y ∈ (s.slot i).drain, y.e.n ≠ e.n := halone
    obtain ⟨hmem, hdies, hslot, htasks⟩ := State.placeTasks_one (s.setDie (s.slot i).lead { s.die (s.slot i).lead with
      lastPlace := s.cycle (s.slot i).lead + 1 }) i core halone'
    have hcycle : (s.setDie (s.slot i).lead { s.die (s.slot i).lead with lastPlace := s.cycle (s.slot i).lead + 1 }).coreCycle core =
        s.coreCycle core := State.cycle_setDie (v := { s.die (s.slot i).lead with lastPlace := s.cycle (s.slot i).lead + 1 })
      rfl rfl rfl rfl rfl _
    refine ⟨_, exec_skernTaskPlacement harg hst hlast hheld hnext hopen, hmem, ?_, hslot, ?_⟩
    · rw [htasks, hcycle]
      rfl
    · rw [State.die, hdies]
      exact congrArg Die.lastPlace (State.die_setDie_same s _ _)
  · have halone' : ∀ y ∈ (s.slot i).drain, y.e.n ≠ e.n := halone
    have hput : (s.dropMsg n).putEntry i { e with ended := e.ended + 1 } =
        (s.dropMsg n).setSlot i ((s.slot i).setEntry { e with ended := e.ended + 1 }) := State.putEntry_of_alone halone'
    rw [exec_taskEndReport harg hn hfind hctx hst hended he hopen, hput]
    dsimp only
    cases faulted with
    | false => exact ⟨_, rfl, rfl, rfl, State.slot_setSlot_same _ i _⟩
    | true =>
      obtain ⟨dies, hmark⟩ := State.markEntry_issued (s := (s.dropMsg n).setSlot i ((s.slot i).setEntry { e with ended := e.ended + 1 }))
        (i := i) (e := { e with ended := e.ended + 1 }) (by rw [State.slot_setSlot_same]; exact hst) he 0x52 4 addr
        (code.zeroExtend 16) who
      refine ⟨_, congrArg _ ((if_pos rfl).trans hmark), rfl, rfl, ?_⟩
      rw [State.slot_setSlot_same, State.slot_setSlot_same, Slot.setEntry_setEntry _ (by rfl)]
      rfl
  · subst hslot
    rw [exec_macroTileStep_core harg hturn htile (hentry ▸ he) hu]
    dsimp only
    rcases hten : e.tensors with ⟨d, src⟩
    dsimp only
    rcases hraw : s.rawSide x.slot e d with ⟨raw, pitch⟩
    refine ⟨fun hpull => ?_, fun c y hpull => ?_⟩
    · obtain ⟨emit, fault, htile'⟩ := State.tileGoes_ready hreading hten hraw hop false hpull
      exact ⟨_, emit, fault, rfl, htile'⟩
    · obtain ⟨hmem, htile'⟩ := State.tileGoes_readFault hreading hten hraw false hpull
      exact ⟨_, rfl, hmem, htile'⟩
  · subst hslot
    rw [exec_macroTileStep_core harg hturn htile (hentry ▸ he) hu, State.tileGoes_emit hreading hfault hemit hmay]
    obtain ⟨q, hq, hmem, htile', hqueue⟩ := s.emitTile_spec core x op more
    refine ⟨_, q, rfl, hmem, hq, htile', ?_⟩
    cases op <;> exact hqueue
  · subst hslot
    have halone' : ∀ y ∈ (s.slot x.slot).drain, y.e.n ≠ e.n := halone
    rw [exec_macroTileStep_core harg hturn htile (hentry ▸ he) hu, State.tileGoes_end hreading hfault hemit hopen hwrites]
    unfold State.endTile
    dsimp only
    rw [State.putEntry_of_alone (by exact halone')]
    refine ⟨_, rfl, rfl, congrArg Core.tileStep (State.core_setTile s core none), ?_⟩
    rw [State.slot_setSlot_same]
    rfl
  · subst hslot
    rw [exec_macroTileStep_core harg hturn htile (hentry ▸ he) hu, State.tileGoes_fault hreading hfault hopen]
    obtain ⟨dies, hmark⟩ := State.markEntry_issued (s := s.setTile core none) (i := x.slot) (e := e) hst hissued 0x53 5 addr
      (code.zeroExtend 16) (s.agentWord (dieOf core))
    exact ⟨_, congrArg _ hmark, rfl, congrArg Core.tileStep (State.core_setTile s core none), State.slot_setSlot_same _ _ _⟩
  · rw [exec_macroTileStep_signal harg hfind hstep hready hop]
    refine ⟨_, _, rfl, rfl, rfl, rfl, rfl, rfl, rfl, ?_⟩
    exact congrArg Slot.drain (State.slot_setSlot_same s i _)
  · have hexec : exec .cellarPartComplete s = execCellarPartComplete s := rfl
    rw [hexec, execCellarPartComplete, harg]
    dsimp only
    rw [hfind]
    dsimp only
    rw [if_pos (by rw [hnew]; rfl), State.workPart_done hsplit hrows hown hdone]
  · have halone' : ∀ y ∈ (s.slot i).drain, y.e.n ≠ e.n := halone
    rw [exec_cellarPartComplete_performed harg hfind hperf hreqs hstaged hown he]
    refine ⟨_, rfl, rfl, s.setPart_none_cellar p.id, ?_⟩
    exact (congrArg (State.slot · i) (State.putEntry_of_alone (by exact halone'))).trans (State.slot_setSlot_same _ i _)
  · rw [exec_remotePartArrival harg hn hctx hsplit hload hopen]
    exact ⟨_, rfl, rfl, rfl, rfl⟩

end Sys2Proof.Machine
end

section
/-! SUPPORT. What leaves memory as it is: the functions of the model that write no byte. -/

namespace Sys2Proof.Machine

@[simp] theorem foldl_mem {α : Type} (f : State → α → State) (hf : ∀ s a, (f s a).mem = s.mem) (l : List α) (s : State) :
    (l.foldl f s).mem = s.mem := by
  induction l generalizing s with
  | nil => rfl
  | cons a l ih => rw [List.foldl_cons, ih, hf]

theorem foldl_fst_mem {α β : Type} (f : State × β → α → State × β) (hf : ∀ p a, (f p a).1.mem = p.1.mem)
    (l : List α) (p : State × β) : (l.foldl f p).1.mem = p.1.mem := by
  induction l generalizing p with
  | nil => rfl
  | cons a l ih => rw [List.foldl_cons, ih, hf]

@[simp] theorem State.park_mem (s : State) (w : Wait) : (s.park w).mem = s.mem := rfl

@[simp] theorem State.trap_mem (s : State) (cause : Nat) (tval : Word) : (s.trap cause tval).mem = s.mem := rfl

@[simp] theorem State.hold_mem (s : State) (h : HartRef) : (s.hold h).mem = s.mem := by
  unfold State.hold
  dsimp only
  split <;> simp

@[simp] theorem State.raise_mem (s : State) (d : DieId) (f : FaultRec) : (s.raise d f).mem = s.mem := by
  unfold State.raise
  repeat' split
  all_goals simp

@[simp] theorem State.popQueue_mem (s : State) (core n : Nat) : (s.popQueue core n).mem = s.mem := rfl

@[simp] theorem State.pushQueue_mem (s : State) (core : Nat) (v : Wide) : (s.pushQueue core v).mem = s.mem := by
  unfold State.pushQueue
  split <;> simp

@[simp] theorem State.trapCode_mem (s : State) (code : BitVec 8) (detail : BitVec 8) :
    (s.trapCode code detail).mem = s.mem := rfl

@[simp] theorem State.decided_mem {s t : State} {c : PortCheck} (h : t.mem = s.mem) : (s.decided c t).mem = s.mem := by
  unfold State.decided
  split <;> simp [h]

@[simp] theorem State.addPoison_mem (s : State) (key : Nat) : (s.addPoison key).mem = s.mem := rfl

@[simp] theorem State.breakReservations_mem (s : State) (keys : List Nat) : (s.breakReservations keys).mem = s.mem := rfl

@[simp] theorem State.releaseAt_mem (s : State) (h : HartRef) (scope : BitVec 2) (dest : Dest) (born : Nat)
    (after : List (BitVec 8)) :
    (s.releaseAt h scope dest born after).1.mem = s.mem := rfl

@[simp] theorem State.release_mem (s : State) (h : HartRef) (scope : BitVec 2) (dest : Dest) :
    (s.release h scope dest).1.mem = s.mem := rfl

@[simp] theorem State.acquire_mem (s : State) (h : HartRef) (dest : Dest) : (s.acquire h dest).1.mem = s.mem := rfl

@[simp] theorem State.issueReq_mem (s : State) (h : HartRef) (r : Req) : (s.issueReq h r).mem = s.mem := by
  unfold State.issueReq
  dsimp only
  split <;> simp

@[simp] theorem State.learnOwner_mem (s : State) (core : Nat) (e : OwnerEntry) : (s.learnOwner core e).mem = s.mem := rfl

@[simp] theorem State.useOwner_mem (s : State) (r : Req) : (s.useOwner r).mem = s.mem := by
  unfold State.useOwner
  dsimp only
  split <;> simp

@[simp] theorem State.ownerFor_mem (s : State) (core : Nat) (asid : BitVec 16) (va : Nat) :
    (s.ownerFor core asid va).1.mem = s.mem := by
  unfold State.ownerFor
  dsimp only
  cases ownerLookup (s.core core).owners asid (regionOf va) with
  | some e => rfl
  | none => cases s.agentOwner (dieOf core) asid va <;> rfl

@[simp] theorem State.sequencerOwner_mem (s : State) (die : DieId) (asid : BitVec 16) (va : Nat) :
    (s.sequencerOwner die asid va).1.mem = s.mem := by
  unfold State.sequencerOwner
  dsimp only
  cases ownerLookup (s.die die).owners asid (regionOf va) with
  | some e => rfl
  | none => cases s.agentOwner die asid va <;> rfl

@[simp] theorem State.spray_mem (s : State) (agent device : Nat) : (s.spray agent device).mem = s.mem := rfl

@[simp] theorem State.recordHome_mem (s : State) (cores : List Nat) : (s.recordHome cores).mem = s.mem := rfl

@[simp] theorem State.countWindow_mem (s : State) (ctx : Option (BitVec 8)) (w : Option Nat) (f : PutWindow → PutWindow) :
    (s.countWindow ctx w f).mem = s.mem := by
  unfold State.countWindow
  repeat' split
  all_goals rfl

@[simp] theorem State.depart1_mem (s : State) (m : Departed) : (s.depart1 m).mem = s.mem := rfl

@[simp] theorem State.sendNumbered_mem (s : State) (device : Nat) (m : FabricMsg) :
    (s.sendNumbered device m).mem = s.mem := by
  unfold State.sendNumbered
  dsimp only
  split <;> simp

@[simp] theorem State.toFabric_mem (s : State) (x : DieId) (device : Nat) (m : FabricMsg) :
    (s.toFabric x device m).mem = s.mem := by
  unfold State.toFabric
  split
  · split <;> simp
  · split
    · rfl
    · split <;> simp

@[simp] theorem State.answer_mem (s : State) (r : Req) (a : Answer) : (s.answer r a).mem = s.mem := by
  unfold State.answer
  split
  · split
    · dsimp only
      split <;> simp
    · simp
  · simp

@[simp] theorem State.launch_mem (s : State) (r : Req) (device : Nat) (die : DieId) :
    (s.launch r device die).mem = s.mem := by
  unfold State.launch
  dsimp only
  split
  · rfl
  · split
    · simp
    · split
      · simp
      · rw [State.depart1_mem]
        split <;> simp

@[simp] theorem State.meets_mem (s : State) (r : Req) (die : DieId) : (s.meets r die).mem = s.mem := rfl

@[simp] theorem State.turnAway_mem (s : State) (r : Req) (a : Answer) : (s.turnAway r a).mem = s.mem := by
  unfold State.turnAway
  dsimp only
  split <;> simp

@[simp] theorem State.faultAt_mem (s : State) (r : Req) (code : BitVec 8) (addr : Word) (detail : BitVec 16) :
    (s.faultAt r code addr detail).mem = s.mem := by simp [State.faultAt]

@[simp] theorem State.refuse_mem (s : State) (r : Req) : (s.refuse r).mem = s.mem := by
  unfold State.refuse
  split <;> simp

@[simp] theorem State.heldFill_mem (s : State) (h : HartRef) (dest : Dest) (v : Word) :
    (s.heldFill h dest v).mem = s.mem := rfl

@[simp] theorem State.finishReq_mem (s : State) (r : Req) : (s.finishReq r).mem = s.mem := by
  have hcount : (r.windows.foldl (fun (t : State) w => t.countWindow r.ctx (some w) fun x => { x with acked := x.acked + 1 })
      (s.dropReq r.id)).mem = s.mem := foldl_mem _ (fun t w => t.countWindow_mem _ _ _) _ _
  unfold State.finishReq
  dsimp only
  split
  · split
    · exact hcount
    · exact hcount
  · split
    · exact hcount
    · exact hcount
  · exact hcount

@[simp] theorem State.faultTrigger_mem (s : State) (h : HartRef) (u : EngineUnit) (seq fn code : BitVec 8)
    (source : Nat) (addr : Word) (detail : BitVec 16) :
    (s.faultTrigger h u seq fn code source addr detail).mem = s.mem := by simp [State.faultTrigger]

@[simp] theorem State.recordFault_mem (s : State) (r : Req) (code : BitVec 8) (addr : Word) (detail : BitVec 16)
    (source : Nat) :
    (s.recordFault r code addr detail source).mem = s.mem := by simp [State.recordFault]

@[simp] theorem State.storeCorectl_mem (s : State) (v : Word) : (s.storeCorectl v).mem = s.mem := by
  unfold State.storeCorectl
  split <;> simp

@[simp] theorem State.takeDeferred_mem (s : State) (h : HartRef) (f : PendingFault) : (s.takeDeferred h f).mem = s.mem := by
  simp [State.takeDeferred]

@[simp] theorem State.takeInterrupt_mem (s : State) (h : HartRef) (c : Nat) : (s.takeInterrupt h c).mem = s.mem := by
  simp [State.takeInterrupt]

@[simp] theorem State.enterUpcall_mem (s : State) (h : HartRef) (u : Upcall) : (s.enterUpcall h u).mem = s.mem := by
  unfold State.enterUpcall
  dsimp only
  split <;> simp

@[simp] theorem State.wake_mem (s : State) (h : HartRef) : (s.wake h).mem = s.mem := by simp [State.wake]

@[simp] theorem State.sendFetch_mem (s : State) (h : HartRef) (pc va : Nat) : (s.sendFetch h pc va).mem = s.mem := by
  unfold State.sendFetch
  split <;> simp

@[simp] theorem State.fetchWaits_mem (s : State) (h : HartRef) (id : Nat) : (s.fetchWaits h id).mem = s.mem := by
  unfold State.fetchWaits
  dsimp only
  repeat' split
  all_goals rfl

@[simp] theorem State.writeDest_mem (s : State) (p : BitVec 6) (v : Wide) : (s.writeDest p v).mem = s.mem := by
  unfold State.writeDest
  split <;> simp

@[simp] theorem State.move2_mem (s : State) (sa da sb db : BitVec 6) : (s.move2 sa da sb db).mem = s.mem := by simp
    [State.move2]

@[simp] theorem State.moveOut_mem (s : State) (p : BitVec 6) (w l : Nat) (rd : Reg) : (s.moveOut p w l rd).mem = s.mem :=
  State.decided_mem (s.complete_mem _)

@[simp] theorem State.moveIn_mem (s : State) (a : Reg) (write : Hart → Word → Hart) : (s.moveIn a write).mem = s.mem := by
  unfold State.moveIn
  split <;> simp

@[simp] theorem State.sourceMove_mem (s : State) (u : EngineUnit) (p : BitVec 6) : (s.sourceMove u p).mem = s.mem := by
  unfold State.sourceMove
  split <;> simp

@[simp] theorem State.orderRegister_mem (s : State) (p : Place) : (s.orderRegister p).mem = s.mem := by
  unfold State.orderRegister
  split <;> simp

@[simp] theorem State.sendOff_mem (s : State) (r : Req) (p : Place) (clear : Hart → Hart) :
    (s.sendOff r p clear).mem = s.mem := by
  unfold State.sendOff
  split <;> simp

@[simp] theorem State.localSoft_mem (s : State) (rd : Reg) (a : Word) : (s.localSoft rd a).mem = s.mem := by
  simp [State.localSoft]

@[simp] theorem State.loadLocal_mem (s : State) (rd : Reg) (f : LoadForm) (core off n : Nat) (a : Word) :
    (s.loadLocal rd f core off n a).mem = s.mem := by
  unfold State.loadLocal
  dsimp only
  split <;> simp

@[simp] theorem State.loadPlace_mem (s : State) (k : LoadKind) (rd : Reg) (a : Word) (p : Place) :
    (s.loadPlace k rd a p).mem = s.mem := by
  unfold State.loadPlace
  cases p with
  | spad core off win =>
    dsimp only
    split <;> simp
  | _ => simp

@[simp] theorem State.releaseIf_mem (s : State) (rl : Bool) : (s.releaseIf rl).mem = s.mem := by
  unfold State.releaseIf
  split <;> simp

@[simp] theorem State.acquireIf_mem (s : State) (aq : Bool) : (s.acquireIf aq).mem = s.mem := by
  unfold State.acquireIf
  split <;> simp

@[simp] theorem State.sendAtomic_mem (s : State) (r : Req) (aq rl : Bool) (rd : Reg) (mark : Option Nat → Nat → Option Nat) :
    (s.sendAtomic r aq rl rd mark).mem = s.mem := by
  unfold State.sendAtomic
  split <;> simp

@[simp] theorem State.operand_mem (s : State) (r : Reg) : (s.operand r).mem = s.mem := rfl

@[simp] theorem State.reading_mem {s t : State} {rs : List Reg} (h : t.mem = s.mem) : (s.reading rs t).mem = s.mem := by
  unfold State.reading
  split <;> simp [h]

@[simp] theorem State.targets_mem {s t : State} {k : Kind} {ts : List (Word × Nat × Option Place)} (h : t.mem = s.mem) :
    (s.targets k ts t).mem = s.mem := by
  unfold State.targets
  repeat' split
  all_goals simp [h]

@[simp] theorem State.post_mem (s : State) (r : Req) (clear : Hart → Hart) : (s.post r clear).mem = s.mem := by
  unfold State.post
  split <;> simp

@[simp] theorem State.remoteAtomic_mem (s : State) (a : Reg) (reads : List Reg) (flag : Reg) (op : AtomOp)
    (dbl : Bool) (v e : Reg) (dest : Dest) (clear : Hart → Hart) :
    (s.remoteAtomic a reads flag op dbl v e dest clear).mem = s.mem := by simp [State.remoteAtomic]

@[simp] theorem State.fetchAtomic_mem (s : State) (op : AtomOp) (w : BitVec 1) (b a d : Reg) :
    (s.fetchAtomic op w b a d).mem = s.mem := by simp [State.fetchAtomic]

@[simp] theorem State.reportArrivals_mem (s : State) (core : Nat) (gid : BitVec 8) (part : Nat) :
    (s.reportArrivals core gid part).mem = s.mem := by
  unfold State.reportArrivals
  dsimp only
  split <;> simp

@[simp] theorem State.arrive_mem (s : State) (gid : BitVec 8) (part : Nat) (kind : Option (Fin 3)) (v : Word) (rd : Reg) :
    (s.arrive gid part kind v rd).mem = s.mem := by
  unfold State.arrive
  dsimp only
  split <;> simp

@[simp] theorem State.queueTrigger_mem (s : State) (g : Trig) (u : EngineUnit) (fn : BitVec 8) (implicit : Option (BitVec 2))
    (put : Core → Trigger → Core) : (s.queueTrigger g u fn implicit put).mem = s.mem := by
  unfold State.queueTrigger
  dsimp only
  rw [State.complete_mem, State.setMyCore_mem]
  cases implicit <;> split <;> split <;> simp

@[simp] theorem State.macroEnd_mem (s : State) (core : Nat) (fault : Option (BitVec 8 × Word)) :
    (s.macroEnd core fault).mem = s.mem := by
  unfold State.macroEnd
  dsimp only
  split <;> simp

@[simp] theorem State.finishTrigger_mem (s : State) (u : EngineUnit) (t : Trigger) : (s.finishTrigger u t).mem = s.mem := by
  unfold State.finishTrigger
  split <;> simp

@[simp] theorem State.triggerEvents_mem (s : State) (t : Trigger) (e : Events) : (s.triggerEvents t e).mem = s.mem := rfl

@[simp] theorem State.engineFault_mem (s : State) (u : EngineUnit) (t : Trigger) (code : BitVec 8) (addr : Word)
    (detail : BitVec 16) :
    (s.engineFault u t code addr detail).mem = s.mem := by
  unfold State.engineFault
  split <;> simp

@[simp] theorem State.takeTrigger_mem (s : State) (core : Nat) : (s.takeTrigger core).mem = s.mem := by
  unfold State.takeTrigger
  dsimp only
  repeat' split
  all_goals simp

@[simp] theorem State.takeTriggers_mem (s : State) (core : Nat) : (s.takeTriggers core).mem = s.mem := by
  simp [State.takeTriggers]

@[simp] theorem State.takeAll_mem (s : State) : s.takeAll.mem = s.mem := by
  unfold State.takeAll
  refine foldl_mem _ (fun t c => ?_) _ _
  split <;> simp

@[simp] theorem State.impliedHold_mem (s : State) (h : HartRef) (t : Trigger) : (s.impliedHold h t).mem = s.mem := by
  unfold State.impliedHold
  split <;> simp

@[simp] theorem State.setList_mem (s : State) (core : Nat) (l : CeList) : (s.setList core l).mem = s.mem := rfl

@[simp] theorem State.impliedRelease_mem (s : State) (core : Nat) (l : CeList) (c : CeCommand) :
    (s.impliedRelease core l c).1.mem = s.mem := rfl

@[simp] theorem State.commandArrival_mem (s : State) (core : Nat) (l : CeList) (c : CeCommand) :
    (s.commandArrival core l c).mem = s.mem := by simp [State.commandArrival]

@[simp] theorem State.finishCommand_mem (s : State) (core : Nat) (l : CeList) (c : CeCommand) :
    (s.finishCommand core l c).mem = s.mem := by
  unfold State.finishCommand
  dsimp only
  split <;> simp

@[simp] theorem State.transfer_mem (s : State) (h : HartRef) (st : HartState) (job : Job) (n : Nat) :
    (s.transfer h st job n).mem = s.mem := rfl

@[simp] theorem State.startRecord_mem (s : State) (h : HartRef) (record : List Byte) (prio : BitVec 2) (release : Nat)
    (line : Option (Nat × Wide)) :
    (s.startRecord h record prio release line).mem = s.mem := rfl

@[simp] theorem State.recordUpcalls_mem (s : State) (h : HartRef) (l : List Upcall) : (s.recordUpcalls h l).mem = s.mem := by
  unfold State.recordUpcalls
  refine (foldl_mem _ (fun t u => ?_) _ _).trans (State.setHart_mem _ _ _)
  split <;> simp

@[simp] theorem State.reportEnd_mem (s : State) (h : HartRef) (ctx : BitVec 8) (taskret : Word) (faulted : Bool)
    (code : BitVec 8) (addr : Word) :
    (s.reportEnd h ctx taskret faulted code addr).mem = s.mem := by
  unfold State.reportEnd
  split <;> simp

@[simp] theorem State.notOwn_mem (s : State) (r : Reg) (k : Kind) : (s.notOwn r k).mem = s.mem := by
  unfold State.notOwn
  split <;> simp

@[simp] theorem State.enqueue_mem (s : State) (core : Nat) (record : List Byte) (prio : BitVec 2) (p : Partition) :
    (s.enqueue core record prio p).mem = s.mem := rfl

@[simp] theorem State.machineOnly_mem {s t : State} {rs : List Reg} (h : t.mem = s.mem) :
    (s.machineOnly rs t).mem = s.mem := by
  unfold State.machineOnly
  split <;> simp [h]

@[simp] theorem State.markEntry_mem (s : State) (i : SlotId) (e : Entry) (code : BitVec 8) (source : Nat) (addr : Word)
    (detail : BitVec 16) (who : Word) : (s.markEntry i e code source addr detail who).mem = s.mem := by
  unfold State.markEntry
  dsimp only
  repeat' split
  all_goals simp

@[simp] theorem State.drainRecord_mem (s : State) (i : SlotId) (e : Entry) (code : BitVec 8) (addr : Word) :
    (s.drainRecord i e code addr).mem = s.mem := by simp [State.drainRecord]

@[simp] theorem State.lostRecord_mem (s : State) (r : Req) (code : BitVec 8) : (s.lostRecord r code).mem = s.mem := by
  unfold State.lostRecord
  split
  · dsimp only
    split <;> rfl
  · rfl

@[simp] theorem State.holdFound_mem (s : State) (d : DieId) : (s.holdFound d).mem = s.mem := by
  unfold State.holdFound
  dsimp only
  split <;> simp

@[simp] theorem State.makePending_mem (s : State) (f : FaultRec) (index : Nat) : (s.makePending f index).mem = s.mem := by
  unfold State.makePending
  cases f.hart with
  | none => rfl
  | some h => dsimp only; cases (s.hart h).st <;> rfl

@[simp] theorem State.indexEntry_mem (s : State) (f : FaultRec) (index : Nat) : (s.indexEntry f index).mem = s.mem := by
  unfold State.indexEntry
  split <;> simp

@[simp] theorem State.enterRunning_mem (s : State) (h : HartRef) (v : Hart) : (s.enterRunning h v).mem = s.mem := rfl

@[simp] theorem State.stopLists_mem (s : State) (h : HartRef) : (s.stopLists h).mem = s.mem := by
  unfold State.stopLists
  dsimp only
  refine (foldl_mem _ (fun t l => ?_) _ _).trans (State.setCore_mem _ _ _)
  rfl

@[simp] theorem State.enterSaving_mem (s : State) (h : HartRef) (job : Job) : (s.enterSaving h job).mem = s.mem := by
  unfold State.enterSaving
  dsimp only
  split <;> simp

@[simp] theorem State.useSlot_mem (s : State) (h : HartRef) : (s.useSlot h).mem = s.mem := rfl

@[simp] theorem State.completeGroup_mem (s : State) (ctx : BitVec 8) (c : Ctx) (g : Group) :
    (s.completeGroup ctx c g).mem = s.mem := by
  unfold State.completeGroup
  exact (foldl_mem _ (fun t m => t.send_mem _ _) _ _).trans (State.setCtx_mem _ _ _)

@[simp] theorem State.setStub_mem (s : State) (d : DieId) (i : Nat) (t : Stub) : (s.setStub d i t).mem = s.mem := rfl

@[simp] theorem State.writeSlotBlock_mem (s : State) (d : DieId) (i : SlotId) (off : Nat) (w : Word) :
    (s.writeSlotBlock d i off w).mem = s.mem := by
  unfold State.writeSlotBlock
  dsimp only
  split <;> simp

@[simp] theorem State.changeRoot_mem (s : State) (d : DieId) (n : Nat) (f : Root → Root) :
    (s.changeRoot d n f).mem = s.mem := rfl

@[simp] theorem State.ackWrite_mem (s : State) (src : WriteSource) : (s.ackWrite src).mem = s.mem := by
  unfold State.ackWrite
  repeat' split
  all_goals simp

@[simp] theorem State.requestStep_mem (s : State) (d : DieId) (code : BitVec 5) : (s.requestStep d code).mem = s.mem := by
  unfold State.requestStep
  dsimp only
  split <;> simp

@[simp] theorem State.countIn_mem (s : State) (r : Req) (device : Nat) : (s.countIn r device).1.mem = s.mem := by
  unfold State.countIn
  repeat' split
  all_goals simp

@[simp] theorem State.putWindow_mem (s : State) (r : Req) (device : Nat) : (s.putWindow r device).1.mem = s.mem := by
  unfold State.putWindow
  split
  · rfl
  · dsimp only
    repeat' split
    all_goals simp

@[simp] theorem State.settleRoute_mem (s : State) (r : Req) : (s.settleRoute r).mem = s.mem := by
  unfold State.settleRoute
  dsimp only
  split <;> simp

theorem State.number_mem {s t : State} {r q : Req} (h : s.number r = some (t, q)) : t.mem = s.mem := by
  unfold State.number at h
  grind [State.setCore_mem]

@[simp] theorem State.depart_mem (s : State) (r : Req) : (s.depart r).mem = s.mem := by
  unfold State.depart
  split
  · rfl
  · simp
  · split
    · rfl
    · split
      · rfl
      · next h => simp [State.number_mem h]

@[simp] theorem State.departArrival_mem (s : State) (r : Req) : (s.departArrival r).mem = s.mem := by
  unfold State.departArrival
  split
  · split <;> simp
  · simp

@[simp] theorem State.backInvalidated_wf {s t : State} {r : Req} {keys : List Nat} (h : Memory.wf s.mem = true)
    (ht : Memory.wf t.mem = true) : Memory.wf (s.backInvalidated r keys t).mem = true := by
  unfold State.backInvalidated
  dsimp only
  split <;> simp [h, ht]

@[simp] theorem State.dataPerformed_mem (s : State) (r : Req) (answer : List Byte) :
    (s.dataPerformed r answer).mem = s.mem := by
  unfold State.dataPerformed
  split <;> simp

@[simp] theorem State.reserve_mem (s : State) (r : Req) (key : Nat) : (s.reserve r key).mem = s.mem := by
  unfold State.reserve
  repeat' split
  all_goals simp

@[simp] theorem State.dropReservation_mem (s : State) (r : Req) : (s.dropReservation r).mem = s.mem := by
  unfold State.dropReservation
  split <;> simp

@[simp] theorem State.completeWrite_mem (s : State) (r : Req) : (s.completeWrite r).mem = s.mem := by
  unfold State.completeWrite
  split <;> simp

@[simp] theorem State.fillCommand_mem (s : State) (r : Req) (data : List Byte) : (s.fillCommand r data).mem = s.mem := by
  unfold State.fillCommand
  repeat' split
  all_goals simp

@[simp] theorem State.streamAccessFault_mem (s : State) (i : SlotId) (n : Nat) (code : BitVec 8) (addr : Word) :
    (s.streamAccessFault i n code addr).mem = s.mem := by
  unfold State.streamAccessFault
  dsimp only
  repeat' split
  all_goals simp

@[simp] theorem State.faultNi_mem (s : State) (r : Req) (h : HartRef) (seq fn : BitVec 8) (code : BitVec 8)
    (addr : Word) (detail : BitVec 16) (source : Nat) :
    (s.faultNi r h seq fn code addr detail source).mem = s.mem := by
  unfold State.faultNi
  split <;> simp

@[simp] theorem State.waitUpcall_mem (s : State) (r : Req) (h : HartRef) (code : BitVec 8) (addr : Word) :
    (s.waitUpcall r h code addr).mem = s.mem := by
  unfold State.waitUpcall
  dsimp only
  split <;> simp

@[simp] theorem State.loseUpcall_mem (s : State) (r : Req) (h : HartRef) (code : BitVec 8) (addr : Word) :
    (s.loseUpcall r h code addr).mem = s.mem := by
  unfold State.loseUpcall
  repeat' split
  all_goals simp

@[simp] theorem State.sendMarkers_mem (s : State) (r : Req) : (s.sendMarkers r).mem = s.mem := by simp [State.sendMarkers]

@[simp] theorem State.streamMarkers_mem (s : State) (i : SlotId) (n : Nat) : (s.streamMarkers i n).mem = s.mem := by
  unfold State.streamMarkers
  dsimp only
  split <;> simp

@[simp] theorem State.startCopy_mem (s : State) (r : Req) (desc : Word) (va stub : Nat)
    (leaves : List (Option (Nat × Bool))) :
    (s.startCopy r desc va stub leaves).mem = s.mem := by
  unfold State.startCopy
  split <;> simp

@[simp] theorem State.dropRegionReservations_mem (s : State) (asid : BitVec 16) (region : BitVec 36)
    (leaves : List (Option (Nat × Bool))) :
    (s.dropRegionReservations asid region leaves).mem = s.mem := rfl

@[simp] theorem State.teach_mem (s : State) (r : Req) (asid : BitVec 16) (region : BitVec 36) (device : Nat) (die : DieId) :
    (s.teach r asid region device die).mem = s.mem := by
  unfold State.teach
  repeat' split
  all_goals simp

@[simp] theorem State.countForward_mem (s : State) (d : DieId) (asid : BitVec 16) (region : BitVec 36) :
    (s.countForward d asid region).mem = s.mem := by
  unfold State.countForward
  split <;> simp

@[simp] theorem State.countContext_mem (s : State) (r : Req) (core i : Nat) (t : Stub) :
    (s.countContext r core i t).mem = s.mem := by
  unfold State.countContext
  repeat' split
  all_goals simp

@[simp] theorem State.forwardMessage_mem (s : State) (r : Req) (target value : Word) (core i : Nat) (t : Stub) :
    (s.forwardMessage r target value core i t).mem = s.mem := by simp [State.forwardMessage]

@[simp] theorem State.forwardAccess_mem (s : State) (r : Req) (core off win i : Nat) (t : Stub) :
    (s.forwardAccess r core off win i t).mem = s.mem := by simp [State.forwardAccess]

@[simp] theorem State.forgetOwner_mem (s : State) (core : Nat) (asid : BitVec 16) (region : BitVec 36) (device : Nat)
    (die : DieId) :
    (s.forgetOwner core asid region device die).mem = s.mem := rfl

@[simp] theorem State.setIncoming_mem (s : State) (d : DieId) (i : Incoming) : (s.setIncoming d i).mem = s.mem := rfl

@[simp] theorem State.dropSpans_mem (s : State) (src : Source) (spans : List (Word × Nat)) :
    (s.dropSpans src spans).mem = s.mem := rfl

@[simp] theorem State.dropStaged_mem (s : State) (src : Source) : (s.dropStaged src).mem = s.mem := rfl

@[simp] theorem State.freeDesc_mem (s : State) (n : Nat) : (s.freeDesc n).mem = s.mem := rfl

@[simp] theorem State.sweep_mem (s : State) (i : SlotId) : (s.sweep i).mem = s.mem := by
  unfold State.sweep
  exact foldl_mem _ (fun t n => t.freeDesc_mem n) _ _

@[simp] theorem State.leaveExpansion_mem (s : State) (i : SlotId) (gone : Nat → Bool) :
    (s.leaveExpansion i gone).mem = s.mem := by
  unfold State.leaveExpansion
  exact foldl_mem _ (fun t d => t.setDie_mem _ _) _ _

@[simp] theorem State.discard_mem (s : State) (i : SlotId) (which : Entry → Bool) : (s.discard i which).mem = s.mem := by
  simp [State.discard]

@[simp] theorem State.openSlot_mem (s : State) (d : DieId) (i : SlotId) : (s.openSlot d i).mem = s.mem := by
  unfold State.openSlot
  dsimp only
  split <;> simp

@[simp] theorem State.dropOpening_mem (s : State) (i : SlotId) : (s.dropOpening i).mem = s.mem :=
  foldl_mem _ (fun t _ => t.dropStaged_mem _) _ _

@[simp] theorem State.runSlot_mem (s : State) (i : SlotId) (pcs : List Word) (lines : List (List Byte)) :
    (s.runSlot i pcs lines).mem = s.mem := by simp [State.runSlot]

@[simp] theorem State.closeSlot_mem (s : State) (i : SlotId) : (s.closeSlot i).mem = s.mem := by
  unfold State.closeSlot
  dsimp only
  repeat' split
  all_goals simp

@[simp] theorem State.enter_mem (s : State) (i : SlotId) (e : Entry) (halt : Bool) : (s.enter i e halt).mem = s.mem := rfl

@[simp] theorem State.enterMarked_mem (s : State) (i : SlotId) (e : Entry) (code : BitVec 8) (addr : Word)
    (detail : BitVec 16) :
    (s.enterMarked i e code addr detail).mem = s.mem := by simp [State.enterMarked]

@[simp] theorem State.commitDesc_mem (s : State) (i : SlotId) (e : Entry) : (s.commitDesc i e).mem = s.mem := by
  unfold State.commitDesc
  cases e.dst with
  | none => rfl
  | some o => dsimp only; split <;> rfl

@[simp] theorem State.retire_mem (s : State) (i : SlotId) (e : Entry) : (s.retire i e).mem = s.mem := by
  unfold State.retire
  dsimp only
  split <;> simp

@[simp] theorem State.putEntry_mem (s : State) (i : SlotId) (e : Entry) : (s.putEntry i e).mem = s.mem := rfl

@[simp] theorem State.anyOf_mem (s : State) (l : List Nat) : (s.anyOf l).1.mem = s.mem := rfl

@[simp] theorem State.setTile_mem (s : State) (core : Nat) (t : Option TileStep) : (s.setTile core t).mem = s.mem := rfl

@[simp] theorem State.beginTile_mem (s : State) (core : Nat) (i : SlotId) (e : Entry) (u : UnitAt) :
    (s.beginTile core i e u).mem = s.mem := by
  unfold State.beginTile
  repeat' split
  all_goals simp

@[simp] theorem State.emitTile_mem (s : State) (core : Nat) (t : TileStep) (op : MacroOp) (rest : List MacroOp) :
    (s.emitTile core t op rest).mem = s.mem := rfl

@[simp] theorem State.endTile_mem (s : State) (core : Nat) (i : SlotId) (e : Entry) (u : UnitAt) (steps : Nat) :
    (s.endTile core i e u steps).mem = s.mem := rfl

@[simp] theorem State.faultTile_mem (s : State) (core : Nat) (i : SlotId) (e : Entry) (u : UnitAt) (drained : Bool)
    (c : BitVec 8) (x : Word) :
    (s.faultTile core i e u drained c x).mem = s.mem := by
  unfold State.faultTile
  split <;> simp

@[simp] theorem State.drainSignal_mem (s : State) (i : SlotId) (e : Entry) : (s.drainSignal i e).mem = s.mem := rfl

@[simp] theorem State.badOperand_mem (s : State) (i : SlotId) (e : Entry) (code : BitVec 8) (field : Nat) :
    (s.badOperand i e code field).mem = s.mem := by simp [State.badOperand]

@[simp] theorem State.beginSteps_mem (s : State) (i : SlotId) (e : Entry) (n : Nat) : (s.beginSteps i e n).mem = s.mem := rfl

@[simp] theorem State.beginDrained_mem (s : State) (i : SlotId) (e : Entry) (n : Nat) :
    (s.beginDrained i e n).mem = s.mem := rfl

@[simp] theorem State.memoryMark_mem (s : State) (i : SlotId) (e : Entry) (code : BitVec 8) (addr : Word) :
    (s.memoryMark i e code addr).mem = s.mem := by simp [State.memoryMark]

@[simp] theorem State.doneAt_mem (s : State) (i : SlotId) (e : Entry) (goto : Word) : (s.doneAt i e goto).mem = s.mem := rfl

@[simp] theorem State.declare_mem (s : State) (i : SlotId) (n : BitVec 6) (d : Decl) (desc : Nat) :
    (s.declare i n d desc).mem = s.mem := rfl

@[simp] theorem State.resolve_mem (s : State) (i : SlotId) (e : Entry) (goto : Word) (count : BitVec 32) :
    (s.resolve i e goto count).mem = s.mem := rfl

@[simp] theorem State.placeTasks_mem (s : State) (i : SlotId) (e : Entry) (cores : List Nat) :
    (s.placeTasks i e cores).mem = s.mem := by
  unfold State.placeTasks
  cases e.dst with
  | none =>
    dsimp only
    rw [State.putEntry_mem]
    exact foldl_mem _ (fun t x => t.setCore_mem _ _) _ _
  | some o =>
    dsimp only
    rw [State.setDesc_mem, State.putEntry_mem]
    exact foldl_mem _ (fun t x => t.setCore_mem _ _) _ _

@[simp] theorem State.whereIs_mem (s : State) (at_ : DieId) (cached : Bool) (asid : BitVec 16) (va : Nat) :
    (s.whereIs at_ cached asid va).1.mem = s.mem := by
  have howner : (if cached then s.sequencerOwner at_ asid va else (s, s.agentOwner at_ asid va)).1.mem = s.mem := by
    split <;> simp
  unfold State.whereIs
  split
  all_goals
    next h => rw [h] at howner; exact howner

@[simp] theorem State.splitRows_mem (s : State) (at_ : DieId) (cached working : Bool) (w : CellarWork) :
    (s.splitRows at_ cached working w).1.mem = s.mem := by
  refine foldl_fst_mem _ (fun a x => ?_) _ _
  have hwhere := a.1.whereIs_mem at_ cached w.asid (partRow w x).toNat
  dsimp only
  split
  all_goals
    next h => rw [h] at hwhere; exact hwhere

@[simp] theorem State.queueParts_mem (s : State) (owner : PartOwner) (w : CellarWork) (hops : Nat)
    (here : List (Fin 8 × List (Nat × Nat))) : (s.queueParts owner w hops here).1.mem = s.mem := by
  unfold State.queueParts
  refine foldl_fst_mem _ (fun p x => ?_) _ _
  rfl

@[simp] theorem State.sendParts_mem (s : State) (lead : DieId) (w : CellarWork) (away : List (Nat × List (Nat × Nat))) :
    (s.sendParts lead w away).1.mem = s.mem :=
  foldl_fst_mem _ (fun _ _ => State.toFabric_mem _ _ _ _) _ _

@[simp] theorem State.cellarMark_mem (s : State) (i : SlotId) (e : Entry) (code : BitVec 8) (addr : Word) :
    (s.cellarMark i e code addr).mem = s.mem := by
  unfold State.cellarMark
  split <;> simp

@[simp] theorem State.startParts_mem (s : State) (i : SlotId) (e : Entry) (w : CellarWork) :
    (s.startParts i e w).mem = s.mem := by
  unfold State.startParts
  dsimp only
  repeat' split
  all_goals simp

@[simp] theorem State.endPart_mem (s : State) (i : SlotId) (n id : Nat) (fault : Option (BitVec 8 × Word)) :
    (s.endPart i n id fault).mem = s.mem := by
  unfold State.endPart
  repeat' split
  all_goals simp

@[simp] theorem State.setPart_mem (s : State) (id : Nat) (p : Option Part) : (s.setPart id p).mem = s.mem := rfl

@[simp] theorem State.partDone_mem (s : State) (tag rows : Nat) (fault : Option (BitVec 8 × Word)) :
    (s.partDone tag rows fault).mem = s.mem := by
  unfold State.partDone
  repeat' split
  all_goals simp

@[simp] theorem State.learnRows_mem (s : State) (lead : DieId) (w : CellarWork) (device : Nat) :
    (s.learnRows lead w device).mem = s.mem := by
  unfold State.learnRows
  exact foldl_mem _ (fun t x => t.setDie_mem _ _) _ _

@[simp] theorem State.partReturned_mem (s : State) (tag : Nat) (w : CellarWork) (device : Nat) :
    (s.partReturned tag w device).mem = s.mem := by
  unfold State.partReturned
  dsimp only
  repeat' split
  all_goals simp

@[simp] theorem State.tellDone_mem (s : State) (die : DieId) (lead tag rows : Nat) (fault : Option (BitVec 8 × Word)) :
    (s.tellDone die lead tag rows fault).mem = s.mem := by
  unfold State.tellDone
  repeat' split
  all_goals simp

@[simp] theorem State.leavePart_mem (s : State) (die : DieId) (p : Part) (fault : Option (BitVec 8 × Word)) :
    (s.leavePart die p fault).mem = s.mem := by
  unfold State.leavePart
  split <;> simp

@[simp] theorem State.sendOn_mem (s : State) (die : DieId) (p : Part) (away : List (Nat × List (Nat × Nat))) :
    (s.sendOn die p away).mem = s.mem := by
  unfold State.sendOn
  cases p.owner with
  | entry i n => dsimp only; split <;> simp
  | foreign lead tag =>
    refine foldl_mem _ (fun t x => ?_) _ _
    dsimp only
    repeat' split
    all_goals
      try simp only [State.toFabric_mem, State.partReturned_mem]
      refine foldl_mem _ (fun u r => ?_) _ _
      split <;> simp

@[simp] theorem State.setPort_mem (s : State) (p : PortId) (v : Port) : (s.setPort p v).mem = s.mem := rfl

@[simp] theorem State.enterPort_mem (s : State) (p : PortId) (v : Port) (st : PortState) :
    (s.enterPort p v st).mem = s.mem := rfl

@[simp] theorem State.portRecord_mem (s : State) (code : BitVec 8) (p : PortId) (good : Nat) :
    (s.portRecord code p good).mem = s.mem := by simp [State.portRecord]

@[simp] theorem State.resend_mem (s : State) (m : Departed) : (s.resend m).mem = s.mem := by
  unfold State.resend
  split <;> simp

@[simp] theorem State.leavePaths_mem (s before : State) (dead : Nat → Nat → Bool) :
    (s.leavePaths before dead).mem = s.mem := by
  unfold State.leavePaths
  refine (foldl_mem _ State.resend_mem _ _).trans (foldl_mem _ (fun t d => ?_) _ _)
  split <;> rfl

@[simp] theorem State.killPort_mem (s : State) (p : PortId) (good : Nat) : (s.killPort p good).mem = s.mem := by
  simp [State.killPort]

@[simp] theorem State.settleCuts_mem (s : State) : s.settleCuts.mem = s.mem := by simp [State.settleCuts]

@[simp] theorem State.badFlit_mem (s : State) (p : PortId) (f : Flit) : (s.badFlit p f).mem = s.mem := rfl

@[simp] theorem State.repeatFlit_mem (s : State) (p : PortId) (n : BitVec 12) : (s.repeatFlit p n).mem = s.mem := by
  unfold State.repeatFlit
  dsimp only
  repeat' split
  all_goals simp

@[simp] theorem State.bindCore_mem (s : State) (ctx : BitVec 8) (template : List Byte) (core n : Nat) :
    (s.bindCore ctx template core n).mem = s.mem := rfl

@[simp] theorem State.emptyQueue_mem (s : State) (core : Nat) (code : BitVec 8) : (s.emptyQueue core code).mem = s.mem := by
  simp [State.emptyQueue]

@[simp] theorem State.clearUpsets_mem (s : State) (l : List (BitVec 4 × BitVec 12)) : (s.clearUpsets l).mem = s.mem := rfl

@[simp] theorem State.findUpset_mem (s : State) (e : BitVec 4 × BitVec 12) : (s.findUpset e).mem = s.mem := by
  unfold State.findUpset
  split <;> simp

@[simp] theorem State.upset_mem (s : State) (h : HartRef) (file : BitVec 4) (n : BitVec 12) :
    (s.upset h file n).mem = s.mem := by
  unfold State.upset
  extract_lets v known live
  split
  · rfl
  · split <;> rfl

@[simp] theorem State.countCorrected_mem (s : State) (d : DieId) (hbm : Bool) : (s.countCorrected d hbm).mem = s.mem := by
  unfold State.countCorrected
  dsimp only
  repeat' split
  all_goals simp

@[simp] theorem State.readPower_mem (s : State) (w : Vector (BitVec 16) 4) : (s.readPower w).mem = s.mem := by
  unfold State.readPower
  exact foldl_mem _ (fun t d => t.setDie_mem _ _) _ _

@[simp] theorem State.readHeat_mem (s : State) (d : DieId) (degC : BitVec 8) : (s.readHeat d degC).mem = s.mem := rfl

@[simp] theorem State.overheat_mem (s : State) (d : DieId) : (s.overheat d).mem = s.mem := by
  unfold State.overheat
  dsimp only
  repeat' split
  all_goals simp

@[simp] theorem State.hostAccess_mem (s : State) (off : Nat) (op : ReqOp) (data : List Byte) :
    (s.hostAccess off op data).mem = s.mem := by
  unfold State.hostAccess
  repeat' split
  all_goals simp

@[simp] theorem State.holdLines_mem (s : State) (off n : Nat) : (s.holdLines off n).mem = s.mem := rfl

@[simp] theorem State.illegal_mem (s : State) : s.illegal.mem = s.mem := rfl

@[simp] theorem State.gather_mem (s : State) (h : HartRef) (text : Bool) : (s.gather h text).1.mem = s.mem := rfl

@[simp] theorem State.until_mem (s : State) (t : Nat) : (s.until t).mem = s.mem := by
  unfold State.until
  split <;> simp

/-! ### Triggers, and what performs under a check -/
theorem State.trigger_mem {s : State} {g : Trig} {u : EngineUnit} {n : TriggerNeeds} {tile : Option Wide → Option (BitVec 6)}
    {perform : State → State} (h : ∀ t, (perform t).mem = t.mem) : (s.trigger g u n tile perform).mem = s.mem := by
  unfold State.trigger
  dsimp only
  split
  · simp
  · split
    · simp
    · split
      · simp
      · exact State.decided_mem ((h _).trans (s.sourceMove_mem u g.port))

@[simp] theorem State.compute_mem (s : State) (g : Trig) (u : EngineUnit) (fn : BitVec 8)
    (required optional : List (BitVec 6))
    (latency : Nat) (f : Hart → Wide × FFlags × Events) : (s.compute g u fn required optional latency f).mem = s.mem :=
  State.trigger_mem fun t => (State.complete_mem _ _).trans (t.setMyCore_mem _)

@[simp] theorem State.vaInteger_mem (s : State) (g : Trig) (c : BitVec 2) (op : Nat) (f : Nat → Nat → Nat → Nat) :
    (s.vaInteger g c op f).mem = s.mem :=
  by simp [State.vaInteger]

@[simp] theorem State.vaFloat_mem (s : State) (g : Trig) (c : BitVec 2) (op latency : Nat) (z : Bool)
    (f : Hart → Fmt → Nat → Nat → Nat → Nat × FFlags) :
    (s.vaFloat g c op latency z f).mem = s.mem :=
  by simp [State.vaFloat]

@[simp] theorem State.vaLogic_mem (s : State) (g : Trig) (fn : BitVec 8) (f : Hart → Wide → Wide → Wide) :
    (s.vaLogic g fn f).mem = s.mem :=
  by simp [State.vaLogic]

@[simp] theorem State.vaIntCompare_mem (s : State) (g : Trig) (fn : BitVec 8) (w : Nat) (f : Nat → Nat → Bool) :
    (s.vaIntCompare g fn w f).mem = s.mem :=
  by simp [State.vaIntCompare]

@[simp] theorem State.vaFloatCompare_mem (s : State) (g : Trig) (fn : BitVec 8) (t : Fmt) (c : FCmp) :
    (s.vaFloatCompare g fn t c).mem = s.mem :=
  by simp [State.vaFloatCompare]

@[simp] theorem State.vaTranscendental_mem (s : State) (g : Trig) (fn : BitVec 8) (f : Rm → Bool → Val → Nat × FFlags) :
    (s.vaTranscendental g fn f).mem = s.mem :=
  by simp [State.vaTranscendental]

@[simp] theorem State.vsShuffle_mem (s : State) (g : Trig) (fn : BitVec 8) (latency : Nat) (f : Wide → Wide → Wide) :
    (s.vsShuffle g fn latency f).mem = s.mem :=
  by simp [State.vsShuffle]

@[simp] theorem State.vsFloatReduce_mem (s : State) (g : Trig) (fn : BitVec 8) (src t : Fmt) (k : Red) :
    (s.vsFloatReduce g fn src t k).mem = s.mem :=
  by simp [State.vsFloatReduce]

@[simp] theorem State.vsIntReduce_mem (s : State) (g : Trig) (fn : BitVec 8) (w : Nat) (isSigned : Bool) (k : Red) :
    (s.vsIntReduce g fn w isSigned k).mem = s.mem :=
  by simp [State.vsIntReduce]

@[simp] theorem State.cvLanes_mem (s : State) (g : Trig) (fn : BitVec 8) (src dst m part : Nat)
    (f : Hart → Nat → Nat × FFlags) :
    (s.cvLanes g fn src dst m part f).mem = s.mem :=
  by simp [State.cvLanes]

@[simp] theorem State.cvRounded_mem (s : State) (g : Trig) (c : BitVec 2) (pair src dst m : Nat)
    (f : Rm → Bool → Nat → Nat × FFlags) :
    (s.cvRounded g c pair src dst m f).mem = s.mem :=
  by simp [State.cvRounded]

@[simp] theorem State.cvWiden_mem (s : State) (g : Trig) (part pair m : Nat) (a b : Fmt) :
    (s.cvWiden g part pair m a b).mem = s.mem :=
  by simp [State.cvWiden]

@[simp] theorem State.cvEncode_mem (s : State) (g : Trig) (fn : BitVec 8) (f : Hart → List Byte × Events) :
    (s.cvEncode g fn f).mem = s.mem :=
  by simp [State.cvEncode]

@[simp] theorem State.lsLoad_mem (s : State) (g : Trig) (fn : BitVec 8) : (s.lsLoad g fn).mem = s.mem :=
  State.trigger_mem fun t => t.complete_mem _

@[simp] theorem State.lsStore_mem (s : State) (g : Trig) (fn : BitVec 8) : (s.lsStore g fn).mem = s.mem :=
  State.trigger_mem fun t => (State.complete_mem _ _).trans (t.setMyCore_mem _)

@[simp] theorem State.mxTrigger_mem (s : State) (g : Trig) (fn : BitVec 8) : (s.mxTrigger g fn).mem = s.mem :=
  State.trigger_mem fun t => t.queueTrigger_mem g _ fn _ _

@[simp] theorem State.wbTrigger_mem (s : State) (g : Trig) (fn : BitVec 8) : (s.wbTrigger g fn).mem = s.mem :=
  State.trigger_mem fun t => t.queueTrigger_mem g _ fn _ _

@[simp] theorem State.niTrigger_mem (s : State) (g : Trig) (fn : BitVec 8) : (s.niTrigger g fn).mem = s.mem :=
  State.trigger_mem fun t => t.queueTrigger_mem g _ fn _ _

@[simp] theorem State.ceTrigger_mem (s : State) (g : Trig) (fn : BitVec 8) : (s.ceTrigger g fn).mem = s.mem :=
  State.trigger_mem fun t => (State.impliedHold_mem _ _ _).trans (t.queueTrigger_mem g _ fn _ _)

theorem State.bindWindow_mem {s t : State} {ctx : Option (BitVec 8)} {w : Nat} {device : BitVec 13}
    (h : s.bindWindow ctx w device = some t) : t.mem = s.mem := by
  unfold State.bindWindow at h
  split at h
  · split at h
    · dsimp only at h
      split at h
      · cases h; rfl
      · cases h
    · cases h; rfl
  · cases h; rfl

theorem State.rename_mem {s t : State} {i : SlotId} {n : BitVec 6} {o p : Operand} (h : s.rename i n o = some (t, p)) :
    t.mem = s.mem := by
  unfold State.rename at h
  split at h
  · cases h; rfl
  · dsimp only at h
    split at h
    · cases h; rfl
    · cases h

theorem State.bindTensors_mem {s t : State} {i : SlotId} {op : BitVec 8} {f : SFields} {e x : Entry}
    (h : s.bindTensors i op f e = some (t, x)) : t.mem = s.mem := by
  unfold State.bindTensors at h
  dsimp only at h
  split at h
  · cases h; rfl
  · split at h
    · cases h; rfl
    · simp only [Option.bind_eq_some_iff, Option.map_eq_some_iff] at h
      obtain ⟨o, -, ⟨u, p⟩, hrename, heq⟩ := h
      cases heq
      exact State.rename_mem hrename

theorem State.nextIssue_mem {s t : State} (h : s.nextIssue = some t) : t.mem = s.mem := by
  unfold State.nextIssue at h
  simp only [Option.map_eq_some_iff] at h
  obtain ⟨x, -, rfl⟩ := h
  rfl

@[simp] theorem State.nextTurn_mem (s : State) : s.nextTurn.2.mem = s.mem := by
  unfold State.nextTurn
  split <;> rfl

theorem State.throughUpsets_mem {s t : State} {i : Instr} (h : s.throughUpsets i = .inl t ∨ s.throughUpsets i = .inr t) :
    t.mem = s.mem := by
  unfold State.throughUpsets at h
  split at h
  · rcases h with h | h <;> cases h
    rfl
  · split at h
    · rcases h with h | h <;> cases h
      simp
    · rcases h with h | h <;> cases h
      split <;> simp

end Sys2Proof.Machine
end

section
/-! SUPPORT. What writes memory keeps it in its canonical form (log 3). -/

namespace Sys2Proof.Machine

/-! ## What writes memory -/
theorem foldl_wf {α : Type} (f : State → α → State) (hf : ∀ s a, Memory.wf s.mem = true → Memory.wf (f s a).mem = true)
    (l : List α) {s : State} (h : Memory.wf s.mem = true) : Memory.wf (l.foldl f s).mem = true := by
  induction l generalizing s with
  | nil => exact h
  | cons a l ih => exact ih (hf s a h)

/-- The state of a pair whose other part a match names. -/
theorem wf_of_eq {α : Type} {p : State × α} {t : State} {x : α} (he : p = (t, x)) (h : Memory.wf p.1.mem = true) :
    Memory.wf t.mem = true := by
  subst he
  exact h

@[simp] theorem State.writeKeys_mem (s : State) (cells : List (Nat × Byte)) :
    (s.writeKeys cells).mem = Memory.writeKeys s.mem cells := by
  unfold State.writeKeys
  dsimp only
  split <;> simp

@[simp] theorem State.writeCells_mem (s : State) (cores : List Nat) (cells : List (Nat × Byte)) :
    (s.writeCells cores cells).mem = Memory.writeKeys s.mem cells := by
  unfold State.writeCells
  rw [foldl_mem _ State.evalWatch_mem, State.writeKeys_mem]

@[simp] theorem State.writeAt_wf {s : State} (h : Memory.wf s.mem = true) (key : Nat) (b : List Byte) :
    Memory.wf (s.writeAt key b).mem = true := by
  rw [State.writeAt_mem]
  exact Memory.wf_writeBytes key b h

@[simp] theorem State.writeCells_wf {s : State} (h : Memory.wf s.mem = true) (cores : List Nat) (cells : List (Nat × Byte)) :
    Memory.wf (s.writeCells cores cells).mem = true := by
  rw [State.writeCells_mem]
  exact Memory.wf_writeKeys cells h

@[simp] theorem State.writeSpad_wf {s : State} (h : Memory.wf s.mem = true) (core off : Nat) (b : List Byte) :
    Memory.wf (s.writeSpad core off b).mem = true := by
  rw [State.writeSpad_mem]
  exact Memory.wf_writeBytes _ b h

/-! ### Translation and requests at a home -/
@[simp] theorem State.agentLeaf_wf {s : State} (h : Memory.wf s.mem = true) (at_ : DieId) (asid : BitVec 16) (va : Nat)
    (n : Need) (row : Nat) : Memory.wf (s.agentLeaf at_ asid va n row).1.mem = true := by
  have htouched (p : Prop) [Decidable p] (key : Nat) (b : List Byte) :
      Memory.wf (if p then s else s.writeAt key b).mem = true := by
    split <;> simp [h]
  unfold State.agentLeaf
  extract_lets walked
  have hwalked : Memory.wf walked.1.mem = true := by
    unfold walked
    split
    all_goals try exact h
    split
    · exact h
    · exact htouched _ _ _
  split
  · split
    · exact h
    · split
      · exact hwalked
      · exact h
  · exact hwalked

@[simp] theorem State.agentTranslate_wf {s : State} (h : Memory.wf s.mem = true) (at_ : DieId) (asid : BitVec 16)
    (va n : Nat)
    (need : Need) (row : Nat) : Memory.wf (s.agentTranslate at_ asid va n need row).1.mem = true := by
  unfold State.agentTranslate
  split
  · next he => exact wf_of_eq he (State.agentLeaf_wf h _ _ _ _ _)
  · next he => split <;> exact wf_of_eq he (State.agentLeaf_wf h _ _ _ _ _)

@[simp] theorem State.translateAt_wf {s : State} (h : Memory.wf s.mem = true) (die : DieId) (asid : BitVec 16) (va n : Nat)
    (need : Need) (row : Nat) : Memory.wf (s.translateAt die asid va n need row).1.mem = true := by
  unfold State.translateAt
  split
  · next he =>
    have ht := wf_of_eq he (State.agentTranslate_wf h _ _ _ _ _ _)
    split
    · exact State.agentTranslate_wf ht _ _ _ _ _ _
    · exact ht
  · exact State.agentTranslate_wf h _ _ _ _ _ _

@[simp] theorem State.fillImage_wf {s : State} (h : Memory.wf s.mem = true) (core off slotOff bit : Nat) (v : Word)
    (counted : Bool) : Memory.wf (s.fillImage core off slotOff bit v counted).mem = true := by
  unfold State.fillImage
  dsimp only
  split <;> exact State.writeAt_wf (by simp [h]) _ _

@[simp] theorem State.fillRegister_wf {s : State} (h : Memory.wf s.mem = true) (r : Req) (g : HartRef) (x : Reg) (v : Word) :
    Memory.wf (s.fillRegister r g x v).mem = true := by
  unfold State.fillRegister
  split <;> split <;> simp [h]

@[simp] theorem State.fillDest_wf {s : State} (h : Memory.wf s.mem = true) (r : Req) (data : List Byte) :
    Memory.wf (s.fillDest r data).mem = true := by
  unfold State.fillDest
  split
  · simp [h]
  · simp [h]
  · split
    · simp [h]
    · split <;> simp [h]
  · dsimp only
    split <;> simp [h]
  all_goals exact h

@[simp] theorem State.fillFlight_wf {s : State} (h : Memory.wf s.mem = true) (g : HartRef) (f : Flight) :
    Memory.wf (s.fillFlight g f).mem = true := by
  unfold State.fillFlight
  split
  · simp [h]
  · simpa using Memory.wf_writeKeys _ h
  · dsimp only
    split <;> simp [h]

@[simp] theorem State.settle_wf {s : State} (h : Memory.wf s.mem = true) : Memory.wf s.settle.mem = true := by
  unfold State.settle
  exact foldl_wf _ (fun t x ht => State.fillFlight_wf ht _ _) _ h

/-! ### Fetch, stores and copy lists -/
@[simp] theorem State.fetchLine_wf {s : State} (h : Memory.wf s.mem = true) (g : HartRef) (pc va : Nat) :
    Memory.wf (s.fetchLine g pc va).1.mem = true := by
  unfold State.fetchLine
  dsimp only
  split
  · exact h
  · split
    · next he => exact wf_of_eq he (by simp [h])
    · next he =>
      have ht := wf_of_eq he (by simp [h])
      split
      · simp [ht]
      · split
        all_goals
          rename_i he'
          have hu := wf_of_eq he' (State.agentTranslate_wf ht _ _ _ _ _ _)
        · exact hu
        · simp [hu]
        · split
          · exact hu
          · simp [hu]

@[simp] theorem State.fetch_wf {s : State} (h : Memory.wf s.mem = true) (g : HartRef) : Memory.wf
    (s.fetch g).1.mem = true := by
  unfold State.fetch
  dsimp only
  split
  · exact h
  · split
    · split
      · exact h
      · split
        · exact h
        · exact State.fetchLine_wf (by exact h) _ _ _
    · exact State.fetchLine_wf h _ _ _

@[simp] theorem State.storePlace_wf {s : State} (h : Memory.wf s.mem = true) (size : Nat) (v a : Word) (p : Place) :
    Memory.wf (s.storePlace size v a p).mem = true := by
  unfold State.storePlace
  cases p with
  | spad core off win =>
    dsimp only
    split
    · simpa using Memory.wf_writeBytes _ _ h
    · split <;> simp [h]
  | tileTable | watchTable | coreReg => simp [h]
  | _ => dsimp only; split <;> simp [h]

@[simp] theorem State.faultList_wf {s : State} (h : Memory.wf s.mem = true) (core : Nat) (seq : BitVec 8) (g : HartRef)
    (code : BitVec 8) (source : Nat) (kind : BitVec 8) (addr : Word) (detail : BitVec 16) :
    Memory.wf (s.faultList core seq g code source kind addr detail).mem = true := by
  simp [State.faultList, h, Memory.wf_writeKeys]

@[simp] theorem State.endList_wf {s : State} (h : Memory.wf s.mem = true) (core : Nat) (l : CeList) (code : BitVec 8)
    (kind : BitVec 8) (addr : Word) :
    Memory.wf (s.endList core l code kind addr).mem = true := by simp [State.endList, h]

/-- Reading the next command of a list. -/
def Reached.state : Reached → State
  | .wait s => s
  | .command s _ => s

theorem State.reachCommand_wf {s : State} (h : Memory.wf s.mem = true) (core : Nat) (l : CeList) :
    Memory.wf (s.reachCommand core l).state.mem = true := by
  have hend (code : BitVec 8) :
      Memory.wf (if l.cmds.isEmpty then s.endList core l code 0 l.pc else s).mem = true := by
    split <;> simp [h]
  unfold State.reachCommand
  split
  · exact h
  · split
    · split
      · split
        · exact hend _
        · split
          · exact hend _
          · split
            · exact hend _
            · exact h
      · exact hend _
    · split
      · exact hend _
      · split
        · exact (State.setList_mem _ _ _).symm ▸ h
        · split
          · exact h
          · simp [Reached.state, h]

@[simp] theorem State.copyTurn_wf {s : State} (h : Memory.wf s.mem = true) (core i : Nat) :
    Memory.wf (s.copyTurn core i).1.mem = true := by
  unfold State.copyTurn
  split
  · exact h
  · next l _ =>
    have hreach := State.reachCommand_wf h core l
    split
    · next he => rwa [he] at hreach
    · next he =>
      rw [he] at hreach
      split
      · exact hreach
      · dsimp only
        split
        · exact State.endList_wf hreach _ _ _ _ _
        · exact hreach

@[simp] theorem State.reach_wf {s : State} (h : Memory.wf s.mem = true) (kind : BitVec 8) (f : CFields)
    (check : Trigger → Option (BitVec 8)) (rows : Nat) (change : CeList → CeList) :
    Memory.wf (s.reach kind f check rows change).mem = true := by
  unfold State.reach
  dsimp only
  split
  · exact h
  · split
    · split <;> simp [h]
    · rw [State.setList_mem]
      split <;> simp [h]

@[simp] theorem State.writeLocal_wf {s : State} (h : Memory.wf s.mem = true) (core : Nat) (c : CeCommand) (off : Nat)
    (words : Option Nat) (b : List Byte) :
    Memory.wf (s.writeLocal core c off words b).1.mem = true := by simp [State.writeLocal, h, Memory.wf_writeKeys]

@[simp] theorem State.writeTransfer_wf {s : State} (h : Memory.wf s.mem = true) (core : Nat) (l : CeList) (c : CeCommand)
    (dst : Word) (words : Option Nat) (b : List Byte) :
    Memory.wf (s.writeTransfer core l c dst words b).1.mem = true := by
  unfold State.writeTransfer
  split <;> simp [h]

@[simp] theorem State.issueTransfer_wf {s : State} (h : Memory.wf s.mem = true) (core : Nat) (l : CeList) (c : CeCommand)
    (words : Option Nat) : Memory.wf (s.issueTransfer core l c words).mem = true := by
  have hstop (b : Bool) (code : BitVec 8) (a : Word) : Memory.wf
      (if b then s.endList core l code c.kind a else s).mem = true := by
    split <;> simp [h]
  unfold State.issueTransfer
  dsimp only
  split
  · simp [h]
  · split
    · simp [h]
    · split
      · simp [h]
      · split
        · exact hstop _ _ _
        · split
          · exact hstop _ _ _
          · split
            · split
              · exact hstop _ _ _
              · simp [h]
            · simp [h]

@[simp] theorem State.copyGoes_wf {s : State} (h : Memory.wf s.mem = true) (n : Nat) (words : Option Nat) :
    Memory.wf (s.copyGoes n words).mem = true := by
  unfold State.copyGoes
  dsimp only
  split
  · exact h
  · split
    · rw [State.setCore_mem]
      exact State.issueTransfer_wf h _ _ _ _
    · exact h

/-! ### Hart control, tasks and faults -/
@[simp] theorem State.beginDrain_wf {s : State} (h : Memory.wf s.mem = true) (g : HartRef) (job : Job) :
    Memory.wf (s.beginDrain g job).mem = true := by
  unfold State.beginDrain
  dsimp only
  rw [State.setHart_mem]
  split <;> simp [h]

@[simp] theorem State.releaseHeld_wf {s : State} (h : Memory.wf s.mem = true) (g : HartRef) :
    Memory.wf (s.releaseHeld g).mem = true := by
  unfold State.releaseHeld
  dsimp only
  repeat' split
  all_goals simp [h]

@[simp] theorem State.freeReservation_wf {s : State} (h : Memory.wf s.mem = true) (core : Nat) :
    Memory.wf (s.freeReservation core).mem = true := by
  unfold State.freeReservation
  exact foldl_wf _ (fun t i ht => State.releaseHeld_wf ht _) _ (by simp [h])

@[simp] theorem State.fillReaps_wf {s : State} (h : Memory.wf s.mem = true) (g : HartRef) (exit : Word) :
    Memory.wf (s.fillReaps g exit).mem = true := by
  unfold State.fillReaps
  refine foldl_wf _ (fun t r ht => ?_) _ h
  split <;> simp [ht]

@[simp] theorem State.endTask_wf {s : State} (h : Memory.wf s.mem = true) (g : HartRef) (exit : Word) :
    Memory.wf (s.endTask g exit).mem = true := by
  unfold State.endTask
  dsimp only
  refine State.fillReaps_wf ?_ _ _
  dsimp only
  split <;> simp [h]

@[simp] theorem State.turnOff_wf {s : State} (h : Memory.wf s.mem = true) (g : HartRef) (code : BitVec 8) :
    Memory.wf (s.turnOff g code).mem = true := by
  unfold State.turnOff
  dsimp only
  split <;> simp [h]

@[simp] theorem State.turnOffHeld_wf {s : State} (h : Memory.wf s.mem = true) (g : HartRef) (code : BitVec 8) :
    Memory.wf (s.turnOffHeld g code).mem = true := by
  unfold State.turnOffHeld
  exact State.turnOff_wf (by simp [h]) _ _

@[simp] theorem State.takeTask_wf {s : State} (h : Memory.wf s.mem = true) (core i : Nat) :
    Memory.wf (s.takeTask core i).mem = true := by
  unfold State.takeTask
  dsimp only
  split <;> simp [h]

@[simp] theorem State.drainCore_wf {s : State} (h : Memory.wf s.mem = true) (core : Nat) :
    Memory.wf (s.drainCore core).mem = true := by
  unfold State.drainCore
  refine foldl_wf _ (fun t i ht => ?_) _ h
  dsimp only
  repeat' split
  all_goals simp [ht]

@[simp] theorem State.settleReq_wf {s : State} (h : Memory.wf s.mem = true) (r : Req) (code : BitVec 8) :
    Memory.wf (s.settleReq r code).mem = true := by
  unfold State.settleReq
  split <;> simp [h]

@[simp] theorem State.writeRecord_wf {s : State} (h : Memory.wf s.mem = true) (d : DieId) (f : FaultRec) :
    Memory.wf (s.writeRecord d f).mem = true := by
  unfold State.writeRecord
  dsimp only
  rw [State.holdFound_mem]
  split
  · split <;> simp [h]
  · simp [h]

@[simp] theorem State.transferSlot_wf {s : State} (h : Memory.wf s.mem = true) : Memory.wf s.transferSlot.mem = true := by
  unfold State.transferSlot
  dsimp only
  split
  · exact State.writeSpad_wf (by simp [h]) _ _ _
  · exact State.writeSpad_wf (by simp [h]) _ _ _
  all_goals simp [h]

@[simp] theorem State.fillArrived_wf {s : State} (h : Memory.wf s.mem = true) (g : HartRef) (a : Arrived) (v : Word) :
    Memory.wf (s.fillArrived g a v).mem = true := by
  unfold State.fillArrived
  repeat' split
  all_goals simp [h]

@[simp] theorem State.completeArrival_wf {s : State} (h : Memory.wf s.mem = true) (g : HartRef) (gid : BitVec 8)
    (sum max min : Option Word) : Memory.wf (s.completeArrival g gid sum max min).mem = true := by
  unfold State.completeArrival
  dsimp only
  repeat' split
  all_goals simp [h]

@[simp] theorem State.moveScratchpad_wf {s : State} (h : Memory.wf s.mem = true) (core target : Nat) :
    Memory.wf (s.moveScratchpad core target).mem = true :=
  Memory.wf_writeKeys _ (Memory.wfFrom_filter _ h)

@[simp] theorem State.moveCore_wf {s : State} (h : Memory.wf s.mem = true) (core target : Nat) (rd : Reg) (stub : Nat) :
    Memory.wf (s.moveCore core target rd stub).mem = true := by
  unfold State.moveCore
  dsimp only
  rw [State.setStub_mem, State.setCore_mem]
  split
  · split <;> simp [h]
  · simp [h]

@[simp] theorem State.writeMail_mem (s : State) (off : Nat) (w : Word) : (s.writeMail off w).mem = s.mem := by
  unfold State.writeMail
  repeat' split
  all_goals rfl

@[simp] theorem State.plainWrite_mem (s : State) (d : DieId) (off : Nat) (w : Word) :
    (s.plainWrite d off w).mem = s.mem := by
  simp [State.plainWrite, apply_ite State.mem]

@[simp] theorem State.storeReq_wf {s : State} (h : Memory.wf s.mem = true) (r : Req) (keys : List Nat) :
    Memory.wf (s.storeReq r keys).mem = true := by simp [State.storeReq, h, Memory.wf_writeKeys]

/-! ### At a home -/
@[simp] theorem State.performWord_wf {s : State} (h : Memory.wf s.mem = true) (r : Req) (data : List Byte) (keys : List Nat)
    (k : Nat) : Memory.wf (s.performWord r data keys k).mem = true := by
  unfold State.performWord
  dsimp only
  split
  · simpa using Memory.wf_writeKeys _ h
  · simp [h]

theorem State.atHome_wf {s : State} (h : Memory.wf s.mem = true) (r : Req) {perform : List Nat → State}
    (hp : ∀ k, Memory.wf (perform k).mem = true) : Memory.wf (s.atHome r perform).mem = true := by
  unfold State.atHome
  split <;> simp [h, hp]

@[simp] theorem State.wordStep_wf {s : State} (h : Memory.wf s.mem = true) (r : Req) (k : Nat)
    (data : List Nat → List Byte) :
    Memory.wf (s.wordStep r k data).mem = true := by
  unfold State.wordStep
  split
  · exact h
  · refine State.atHome_wf h r fun keys => ?_
    split <;> simp [h]

@[simp] theorem State.modify_wf {s : State} (h : Memory.wf s.mem = true) (r : Req) (keys : List Nat) :
    Memory.wf (s.modify r keys).mem = true := by
  unfold State.modify
  dsimp only
  split
  · rw [State.dataPerformed_mem]
    split
    all_goals split
    all_goals simp [h]
  · split <;> simp [h]
  all_goals simp [h]

@[simp] theorem State.countFlag_wf {s : State} (h : Memory.wf s.mem = true) (key : Nat) (core : Option (Nat × Nat)) :
    Memory.wf (s.countFlag key core).mem = true := by
  unfold State.countFlag
  dsimp only
  split
  · rw [State.evalWatch_mem]
    split <;> simp [h]
  · simp [h]

@[simp] theorem State.getLines_wf {s : State} (h : Memory.wf s.mem = true) (g : HartRef) (seq fn : BitVec 8)
    (arrival : Arrival)
    (after : List Nat) : Memory.wf (s.getLines g seq fn arrival after).mem = true := by
  have hlines (l : List Req) {t : State} (ht : Memory.wf t.mem = true) : Memory.wf (l.foldl (fun (s : State) (q : Req) =>
      s.writeCells [g.core] (q.lineCells (q.early ·))) t).mem = true :=
    foldl_wf _ (fun u q hu => State.writeCells_wf hu _ _) _ ht
  unfold State.getLines
  dsimp only
  split
  · exact h
  · cases arrival with
    | tile a i => simp [h]
    | flag f =>
      dsimp only
      rw [State.addReq_mem]
      exact hlines _ (by exact h)
    | none =>
      dsimp only
      rw [State.setHart_mem]
      exact hlines _ (by exact h)

@[simp] theorem State.getWord_wf {s : State} (h : Memory.wf s.mem = true) (r : Req) (k : Nat) :
    Memory.wf (s.getWord r k).mem = true := by
  unfold State.getWord
  split
  · exact h
  · split
    · exact h
    · simpa using Memory.wf_writeKeys _ h
  · exact h

@[simp] theorem State.fillCopied_wf {s : State} (h : Memory.wf s.mem = true) (r : Req) (row first : Nat) (words : Option Nat)
    (data : List Byte) : Memory.wf (s.fillCopied r row first words data).mem = true := by
  unfold State.fillCopied
  split
  · split
    · simp [h]
    · dsimp only
      split
      all_goals split
      all_goals simp [h]
  · exact h

@[simp] theorem State.completeAcquire_wf {s : State} (h : Memory.wf s.mem = true) (r : Req) :
    Memory.wf (s.completeAcquire r).mem = true := by simp [State.completeAcquire, h]

@[simp] theorem State.faultCopy_wf {s : State} (h : Memory.wf s.mem = true) (r : Req) (core : Nat) (seq : BitVec 8)
    (g : HartRef)
    (n : Nat) (code : BitVec 8) (addr : Word) (detail : BitVec 16) (source : Nat) :
    Memory.wf (s.faultCopy r core seq g n code addr detail source).mem = true := by
  unfold State.faultCopy
  split
  · simp [h]
  · rw [State.finishReq_mem]
    exact State.faultList_wf h _ _ _ _ _ _ _ _

@[simp] theorem State.faultReq_wf {s : State} (h : Memory.wf s.mem = true) (r : Req) (code : BitVec 8) (addr : Word)
    (detail : BitVec 16) (source : Nat) : Memory.wf (s.faultReq r code addr detail source).mem = true := by
  unfold State.faultReq
  split
  · split <;> simp [h]
  all_goals simp [h]

/-! ### Migration -/
@[simp] theorem State.finishCopy_wf {s : State} (h : Memory.wf s.mem = true) (d : DieId) (i : Nat) (t : Stub) :
    Memory.wf (s.finishCopy d i t).mem = true := by
  unfold State.finishCopy
  extract_lets va own leaves s1 v s2 targets s3 s4
  have h1 : Memory.wf s1.mem = true := by
    unfold s1
    split <;> simp [h]
  have h4 : Memory.wf s4.mem = true := by
    refine foldl_wf _ (fun u x hu => ?_) _ (by simp [s3, s2, h1])
    split <;> simp [hu]
  split
  · split <;> simp [h4]
  · exact h4

@[simp] theorem State.chunkCopied_wf {s : State} (h : Memory.wf s.mem = true) (asid : BitVec 16) (region : BitVec 36)
    (n : Nat) :
    Memory.wf (s.chunkCopied asid region n).mem = true := by
  unfold State.chunkCopied
  dsimp only
  repeat' split
  all_goals simp [h]

@[simp] theorem State.updateMap_wf {s : State} (h : Memory.wf s.mem = true) (d : DieId) (asid : BitVec 16)
    (region : BitVec 36)
    (device : Nat) (die : DieId) : Memory.wf (s.updateMap d asid region device die).mem = true := by
  unfold State.updateMap
  dsimp only
  rw [State.setDie_mem]
  split
  · split <;> simp [h]
  · exact h

@[simp] theorem State.receiveStart_wf {s : State} (h : Memory.wf s.mem = true) (tag device : Nat) (die : DieId)
    (permissions : BitVec 8) : Memory.wf (s.receiveStart tag device die permissions).mem = true := by
  unfold State.receiveStart
  split
  · split
    · dsimp only
      split
      · exact h
      · rw [State.setIncoming_mem, State.setDie_mem]
        split <;> simp [h]
    · exact h
  · exact h

@[simp] theorem State.receiveChunk_wf {s : State} (h : Memory.wf s.mem = true) (source : Nat) (asid : BitVec 16)
    (region : BitVec 36) (n : Nat) (data : List Byte) (bad : List Nat) :
    Memory.wf (s.receiveChunk source asid region n data bad).mem = true := by
  unfold State.receiveChunk
  dsimp only
  split
  · exact h
  · split
    · simp [h]
    · simpa using Memory.wf_writeKeys _ h

/-! ### What sequencers and engines read and write -/
@[simp] theorem State.near_wf {s : State} (h : Memory.wf s.mem = true) (a : Reader) (addr : Word) (n : Nat) (need : Need) :
    Memory.wf (s.near a addr n need).1.mem = true := by
  have howner (va : Nat) : (if a.ni then s.ownerFor a.core a.asid va else (s,
      s.agentOwner (dieOf a.core) a.asid va)).1.mem = s.mem := by
    split <;> simp
  unfold State.near
  split
  · exact h
  · split
    · split
      · next he => exact wf_of_eq he (by rw [howner]; exact h)
      · next he =>
        have ht := wf_of_eq he (by rw [howner]; exact h)
        split
        · exact ht
        · split
          all_goals next he' => exact wf_of_eq he' (State.translateAt_wf ht _ _ _ _ _ _)
    · split
      · exact h
      · split <;> exact h
    all_goals exact h

@[simp] theorem State.pullPiece_wf {s : State} (h : Memory.wf s.mem = true) (a : Reader) (exec : Bool) (addr : Word)
    (n : Nat) :
    Memory.wf (s.pullPiece a exec addr n).1.mem = true := by
  unfold State.pullPiece
  split
  · exact h
  · exact h
  · split
    all_goals
      rename_i he
      have ht := wf_of_eq he (State.near_wf h _ _ _ _)
    · exact ht
    · split <;> exact ht
    · split <;> exact ht

@[simp] theorem State.pullPieces_wf (a : Reader) (exec : Bool) (l : List (Word × Nat)) {s : State}
    (h : Memory.wf s.mem = true) :
    Memory.wf (s.pullPieces a exec l).1.mem = true := by
  induction l generalizing s with
  | nil => exact h
  | cons x rest ih =>
    unfold State.pullPieces
    split
    all_goals
      rename_i he
      have ht := wf_of_eq he (State.pullPiece_wf h _ _ _ _)
    · exact ht
    · split
      all_goals next he' => exact wf_of_eq he' (ih ht)
    · split
      · next he' => exact wf_of_eq he' (ih ht)
      · exact ih ht

@[simp] theorem State.pullSpans_wf (a : Reader) (l : List (Word × Nat)) {s : State} (h : Memory.wf s.mem = true) :
    Memory.wf (s.pullSpans a l).1.mem = true := by
  induction l generalizing s with
  | nil => exact h
  | cons x rest ih =>
    unfold State.pullSpans
    split
    · exact h
    · split
      all_goals
        rename_i he
        have ht := wf_of_eq he (State.pullPieces_wf _ _ _ h)
      · exact ht
      · split
        all_goals next he' => exact wf_of_eq he' (ih ht)
      · split
        · next he' => exact wf_of_eq he' (ih ht)
        · exact ih ht

@[simp] theorem State.pullLine_wf {s : State} (h : Memory.wf s.mem = true) (a : Reader) (addr : Word) :
    Memory.wf (s.pullLine a addr).1.mem = true := State.pullPieces_wf _ _ _ h

@[simp] theorem State.pull_wf {s : State} (h : Memory.wf s.mem = true) (a : Reader) (addr : Word) (n : Nat) :
    Memory.wf (s.pull a addr n).1.mem = true := State.pullPieces_wf _ _ _ h

@[simp] theorem State.pushPiece_wf {s : State} (h : Memory.wf s.mem = true) (a : Reader) (addr : Word) (b : List Byte) :
    Memory.wf (s.pushPiece a addr b).1.mem = true := by
  unfold State.pushPiece
  split
  all_goals
    rename_i he
    have ht := wf_of_eq he (State.near_wf h _ _ _ _)
  · exact ht
  · exact State.writeCells_wf ht _ _
  · exact ht

@[simp] theorem State.pushPieces_wf (a : Reader) (l : List (Word × List Byte)) {s : State} (h : Memory.wf s.mem = true) :
    Memory.wf (s.pushPieces a l).1.mem = true := by
  induction l generalizing s with
  | nil => exact h
  | cons x rest ih =>
    unfold State.pushPieces
    split
    · exact h
    · split
      all_goals
        rename_i he
        have ht := wf_of_eq he (State.pushPiece_wf h _ _ _)
      · exact ht
      · exact ih ht

@[simp] theorem State.push_wf {s : State} (h : Memory.wf s.mem = true) (a : Reader) (spans : List (Word × List Byte)) :
    Memory.wf (s.push a spans).1.mem = true := State.pushPieces_wf _ _ h

@[simp] theorem State.releaseTasks_wf {s : State} (h : Memory.wf s.mem = true) (i : SlotId) (code : BitVec 8) :
    Memory.wf (s.releaseTasks i code).mem = true := by
  unfold State.releaseTasks
  refine foldl_wf _ (fun t c ht => ?_) _ h
  split
  · exact ht
  · refine foldl_wf _ (fun u g hu => ?_) _ ht
    split <;> simp [hu]

@[simp] theorem State.fence_wf {s : State} (h : Memory.wf s.mem = true) (i : SlotId) (code : BitVec 8) (index : Option Nat)
    (which : Entry → Bool) :
    Memory.wf (s.fence i code index which).mem = true := by simp [State.fence, h]

@[simp] theorem State.fenceOutside_wf {s : State} (h : Memory.wf s.mem = true) (i : SlotId) (code : BitVec 8) :
    Memory.wf (s.fenceOutside i code).mem = true := by
  unfold State.fenceOutside
  split <;> simp [h]

@[simp] theorem State.loadLines_wf (a : Reader) (l : List Word) {s : State} (h : Memory.wf s.mem = true) :
    Memory.wf (s.loadLines a l).1.mem = true := by
  induction l generalizing s with
  | nil => exact h
  | cons x rest ih =>
    unfold State.loadLines
    dsimp only
    have hline (b : Bool) (line : Word) : Memory.wf (if b then s.pullLine a line else (s, .waiting)).1.mem = true := by
      split <;> simp [h]
    split
    all_goals
      rename_i he
      have ht := wf_of_eq he (hline _ _)
    · exact ht
    · split
      all_goals next he' => exact wf_of_eq he' (ih ht)
    · split
      · next he' => exact wf_of_eq he' (ih ht)
      · exact ih ht

@[simp] theorem State.loadAll_wf (i : SlotId) (pcs : List Word) (l : List DieId) {s : State} (h : Memory.wf s.mem = true) :
    Memory.wf (s.loadAll i pcs l).1.mem = true := by
  induction l generalizing s with
  | nil => exact h
  | cons x rest ih =>
    unfold State.loadAll
    split
    all_goals
      rename_i he
      have ht := wf_of_eq he (State.loadLines_wf _ _ h)
    · exact ht
    · split
      all_goals next he' => exact wf_of_eq he' (ih ht)
    · split
      · next he' => exact wf_of_eq he' (ih ht)
      · exact ih ht

@[simp] theorem State.openFault_wf {s : State} (h : Memory.wf s.mem = true) (i : SlotId) (code : BitVec 8) (addr : Word) :
    Memory.wf (s.openFault i code addr).mem = true := by simp [State.openFault, h]

theorem Memory.wfFrom_append {a b : List Host.Cell} {lo k : Nat} (ha : Memory.wfFrom lo a = true) (hk : ∀ c ∈ a, c.1 < k)
    (hlo : lo ≤ k) (hb : Memory.wfFrom k b = true) : Memory.wfFrom lo (a ++ b) = true := by
  induction a generalizing lo with
  | nil => exact Memory.wfFrom_mono hlo hb
  | cons c r ih =>
    simp only [Memory.wfFrom, Bool.and_eq_true] at ha
    obtain ⟨hc, hr⟩ := ha
    simp only [List.cons_append, Memory.wfFrom, Bool.and_eq_true]
    exact ⟨hc, ih hr (fun x hx => hk x (List.mem_cons_of_mem _ hx)) (hk c List.mem_cons_self)⟩

/-- A higher bound holds where no key is below it. -/
theorem Memory.wfFrom_of_le {m : List Host.Cell} {lo k : Nat} (hm : Memory.wfFrom lo m = true) (hk : ∀ c ∈ m, k ≤ c.1) :
    Memory.wfFrom k m = true := by
  cases m with
  | nil => rfl
  | cons c r =>
    simp only [Memory.wfFrom, Bool.and_eq_true, decide_eq_true_eq] at hm ⊢
    exact ⟨⟨hk c List.mem_cons_self, hm.1.2⟩, hm.2⟩

/-- Bytes listed from a key on, those left out that need no entry. -/
theorem Memory.wfFrom_listed (b : List Byte) (key i : Nat) :
    Memory.wfFrom (key + i) (((b.zipIdx i).map fun (x, j) => (key + j,
        x)).filter fun c => c.2 != Memory.unlisted) = true := by
  induction b generalizing i with
  | nil => rfl
  | cons x r ih =>
    have hrest := ih (i + 1)
    simp only [List.zipIdx_cons, List.map_cons, List.filter_cons]
    split
    · next hx =>
      simp only [Memory.wfFrom, Bool.and_eq_true, decide_eq_true_eq]
      exact ⟨⟨Nat.le_refl _, hx⟩, hrest⟩
    · exact Memory.wfFrom_mono (by omega) hrest

theorem Memory.wf_replaceSpan {m : List Host.Cell} (hm : Memory.wf m = true) (key : Nat) (b : List Byte) :
    Memory.wf (Memory.replaceSpan m key b) = true := by
  have hlisted : ∀ c ∈ (b.zipIdx.map fun (x, i) => (key + i, x)).filter fun c => c.2 != Memory.unlisted,
      c.1 < key + b.length := by
    intro c hc
    obtain ⟨⟨x, i⟩, hx, rfl⟩ := List.mem_map.mp (List.mem_filter.mp hc).1
    have := List.snd_lt_of_mem_zipIdx hx
    dsimp only
    omega
  have hbelow : ∀ c ∈ m.filter fun c => decide (c.1 < key), c.1 < key := fun c hc => by
    simpa using (List.mem_filter.mp hc).2
  have habove : ∀ c ∈ m.filter fun c => decide (key + b.length ≤ c.1), key + b.length ≤ c.1 := fun c hc => by
    simpa using (List.mem_filter.mp hc).2
  unfold Memory.replaceSpan
  rw [List.append_assoc]
  exact Memory.wfFrom_append (Memory.wfFrom_filter _ hm) hbelow (Nat.zero_le _)
    (Memory.wfFrom_append (Memory.wfFrom_listed b key 0) hlisted (Nat.le_add_right _ _)
      (Memory.wfFrom_of_le (Memory.wfFrom_filter _ hm) habove))

@[simp] theorem State.takeStaging_wf {s : State} (h : Memory.wf s.mem = true) (i : SlotId) (core : Nat) :
    Memory.wf (s.takeStaging i core).mem = true :=
  Memory.wf_replaceSpan h _ _

@[simp] theorem State.readTile_wf {s : State} (h : Memory.wf s.mem = true) (core : Nat) (t : TileStep) (e : Entry)
    (u : UnitAt) :
    Memory.wf (s.readTile core t e u).mem = true := by
  unfold State.readTile
  dsimp only
  split
  all_goals
    rename_i he
    have ht := wf_of_eq he (State.pullSpans_wf _ _ h)
  · exact ht
  · simp [ht]
  · split <;> simp [ht]

@[simp] theorem State.writeTile_wf {s : State} (h : Memory.wf s.mem = true) (a : Reader) (words : Option Nat)
    (l : List (Word × List Byte)) : Memory.wf (s.writeTile a words l).1.mem = true := by
  unfold State.writeTile
  split
  · exact State.pushPieces_wf _ _ h
  · exact h
  · dsimp only
    split
    all_goals
      rename_i he
      exact State.pushPieces_wf _ _ (wf_of_eq he (State.near_wf h _ _ _ _))

@[simp] theorem State.tileGoes_wf {s : State} (h : Memory.wf s.mem = true) (core : Nat) (words : Option Nat) (t : TileStep)
    (e : Entry) (drained : Bool) (u : UnitAt) : Memory.wf (s.tileGoes core words t e drained u).mem = true := by
  unfold State.tileGoes
  split
  · simp [h]
  · split
    · split <;> simp [h]
    · split <;> simp [h]
    · split
      · exact h
      · split
        all_goals
          rename_i he
          have ht := wf_of_eq he (State.writeTile_wf h _ _ _)
        · simp [ht]
        · simp [ht]
        · dsimp only
          rw [State.setTile_mem]
          split <;> simp [ht]

@[simp] theorem State.sequence_wf {s : State} (h : Memory.wf s.mem = true) (core : Nat) (words : Option Nat) :
    Memory.wf (s.sequence core words).mem = true := by
  unfold State.sequence
  extract_lets go
  have hgo {t : State} (ht : Memory.wf t.mem = true) : Memory.wf (go t).mem = true := by
    unfold go
    repeat' split
    all_goals simp [ht]
  split
  · exact h
  · split
    · exact hgo h
    · split
      · split
        · exact h
        · exact hgo (by simp [h])
      · exact h

theorem State.withBytes_wf {s : State} (h : Memory.wf s.mem = true) (i : SlotId) (e : Entry) (addr : Word) (n : Nat)
    {go : State → List Byte → State} (hgo : ∀ t b, Memory.wf t.mem = true → Memory.wf (go t b).mem = true) :
    Memory.wf (s.withBytes i e addr n go).mem = true := by
  unfold State.withBytes
  split
  all_goals
    rename_i he
    have ht := wf_of_eq he (State.pull_wf h _ _ _)
  · exact ht
  · simp [ht]
  · exact hgo _ _ ht

@[simp] theorem State.poll_wf {s : State} (h : Memory.wf s.mem = true) (i : SlotId) (e : Entry) :
    Memory.wf (s.poll i e).mem = true := by
  unfold State.poll
  refine State.withBytes_wf h _ _ _ _ fun t b ht => ?_
  split <;> simp [ht]

@[simp] theorem State.readGroups_wf (a : Reader) (n : Nat) {s : State} (h : Memory.wf s.mem = true) (addr : Word) :
    Memory.wf (s.readGroups a addr n).1.mem = true := by
  induction n generalizing s addr with
  | zero => exact h
  | succ n ih =>
    unfold State.readGroups
    split
    all_goals
      rename_i he
      have ht := wf_of_eq he (State.pull_wf h _ _ _)
    · exact ht
    · exact ht
    · dsimp only
      split
      · exact ht
      · split
        all_goals
          rename_i he'
          have hu := wf_of_eq he' (State.pull_wf ht _ _ _)
        · exact hu
        · exact hu
        · split
          · exact hu
          · split
            · next hr => exact wf_of_eq hr (ih hu _)
            · exact ih hu _

@[simp] theorem State.abandonHart_wf {s : State} (h : Memory.wf s.mem = true) (g : HartRef) (gid : BitVec 8) :
    Memory.wf (s.abandonHart g gid).mem = true := by
  unfold State.abandonHart
  dsimp only
  repeat' split
  all_goals simp [h]

@[simp] theorem State.abandonGroup_wf {s : State} (h : Memory.wf s.mem = true) (ctx : BitVec 8) (window : List Nat)
    (gid : BitVec 8) : Memory.wf (s.abandonGroup ctx window gid).mem = true := by
  unfold State.abandonGroup
  refine foldl_wf _ (fun t core ht => ?_) _ (by exact h)
  rw [State.setCore_mem]
  exact foldl_wf _ (fun u g hu => State.abandonHart_wf hu _ _) _ ht

@[simp] theorem State.setGroups_wf {s : State} (h : Memory.wf s.mem = true) (ctx : BitVec 8) (c : Ctx) (clear : Bool)
    (l : List GroupDesc) (regs : GroupRegs) : Memory.wf (s.setGroups ctx c clear l regs).mem = true := by
  unfold State.setGroups
  dsimp only
  rw [foldl_mem _ fun t x => t.setCore_mem _ _, State.setCtx_mem]
  exact foldl_wf _ (fun t g ht => State.abandonGroup_wf ht _ _ _) _ h

@[simp] theorem State.readWork_wf {s : State} (h : Memory.wf s.mem = true) (i : SlotId) (e : Entry) :
    Memory.wf (s.readWork i e).1.mem = true := by
  unfold State.readWork
  dsimp only
  split
  · exact h
  · split
    all_goals
      rename_i he
      have ht := wf_of_eq he (State.pullSpans_wf _ _ h)
    · exact ht
    · exact ht
    · split <;> exact ht

@[simp] theorem State.startCellar_wf {s : State} (h : Memory.wf s.mem = true) (i : SlotId) (e : Entry) :
    Memory.wf (s.startCellar i e).mem = true := by
  unfold State.startCellar
  split
  all_goals
    rename_i he
    have ht := wf_of_eq he (State.readWork_wf h _ _)
    simp [ht]

@[simp] theorem State.cellarPlaces_wf {s : State} (h : Memory.wf s.mem = true) (i : SlotId) (e : Entry) :
    Memory.wf (s.cellarPlaces i e).1.mem = true := by
  unfold State.cellarPlaces
  split
  all_goals
    rename_i he
    have ht := wf_of_eq he (State.readWork_wf h _ _)
  · exact ht
  · exact ht
  · dsimp only
    repeat' split
    all_goals simp [ht]

@[simp] theorem State.reduceElements_wf (a : Reader) (f : AddFormat) (op : BitVec 2) (l : List (Word × List Byte))
    {s : State}
    (h : Memory.wf s.mem = true) : Memory.wf (s.reduceElements a f op l).1.mem = true := by
  induction l generalizing s with
  | nil => exact h
  | cons x rest ih =>
    unfold State.reduceElements
    split
    all_goals
      rename_i he
      have ht := wf_of_eq he (State.near_wf h _ _ _ _)
    · exact ht
    · exact ih ht
    · split
      · exact ht
      · exact ih (State.writeCells_wf ht _ _)

@[simp] theorem State.performPart_wf {s : State} (h : Memory.wf s.mem = true) (a : Reader) (w : CellarWork) :
    Memory.wf (s.performPart a w).1.mem = true := by
  unfold State.performPart
  split
  all_goals
    rename_i he
    have ht := wf_of_eq he (State.pullSpans_wf _ _ h)
  · exact ht
  · exact ht
  · dsimp only
    split
    · exact State.reduceElements_wf _ _ _ _ ht
    · split
      all_goals
        rename_i he'
        refine wf_of_eq he' (State.push_wf ?_ _ _)
        split <;> exact ht

@[simp] theorem State.workPart_wf {s : State} (h : Memory.wf s.mem = true) (k : Fin 8) (p : Part) :
    Memory.wf (s.workPart k p).mem = true := by
  unfold State.workPart
  dsimp only
  split
  · simp [h]
  · split
    · simp [h]
    · split
      all_goals
        rename_i he
        have ht := wf_of_eq he (State.performPart_wf (by simp [h]) _ _)
        simp [ht]

/-! ### Links, resets and dies -/
@[simp] theorem State.takeNow_wf {s : State} (h : Memory.wf s.mem = true) (port source : Nat) (m : FabricMsg) :
    Memory.wf (s.takeNow port source m).mem = true := by
  unfold State.takeNow
  dsimp only
  split
  all_goals try simp [h]
  all_goals repeat' split
  all_goals simp [h]

@[simp] theorem State.takeMessage_wf {s : State} (h : Memory.wf s.mem = true) (port source : Nat) (m : FabricMsg) :
    Memory.wf (s.takeMessage port source m).mem = true := by
  unfold State.takeMessage
  split <;> simp [h]

@[simp] theorem State.deliver_wf {s : State} (h : Memory.wf s.mem = true) (port : Nat) (c : Carried) :
    Memory.wf (s.deliver port c).mem = true := by
  unfold State.deliver
  split
  · simp [h]
  · dsimp only
    rw [State.toFabric_mem]
    split <;> simp [h]

@[simp] theorem State.deliverFlit_wf {s : State} (h : Memory.wf s.mem = true) (port : Nat) (f : Flit) :
    Memory.wf (s.deliverFlit port f).mem = true := by
  unfold State.deliverFlit
  exact foldl_wf _ (fun t c ht => State.deliver_wf ht _ _) _ h

@[simp] theorem State.drainFlits_wf (p : PortId) (fuel : Nat) {s : State} (h : Memory.wf s.mem = true) :
    Memory.wf (s.drainFlits p fuel).mem = true := by
  induction fuel generalizing s with
  | zero => exact h
  | succ n ih =>
    unfold State.drainFlits
    dsimp only
    split
    · exact h
    · exact ih (by simp [h])

@[simp] theorem State.goodFlit_wf {s : State} (h : Memory.wf s.mem = true) (p : PortId) (f : Flit) :
    Memory.wf (s.goodFlit p f).mem = true := by
  unfold State.goodFlit
  extract_lets _ _ _ _ early _ s1 s2
  have h2 : Memory.wf s2.mem = true := by
    unfold s2
    split <;> simp [s1, h]
  split
  · simp [h]
  · exact State.drainFlits_wf _ _ h2

@[simp] theorem State.mailDone_mem (s : State) (response : List Byte) : (s.mailDone response).mem = s.mem := rfl

@[simp] theorem State.turnOffCore_wf {s : State} (h : Memory.wf s.mem = true) (core : Nat) (code : BitVec 8) :
    Memory.wf (s.turnOffCore core code).mem = true := by
  unfold State.turnOffCore
  dsimp only
  rw [State.setDie_mem, State.setCore_mem]
  exact foldl_wf _ (fun t g ht => State.turnOff_wf ht _ _) _ h

@[simp] theorem State.unbindCore_wf {s : State} (h : Memory.wf s.mem = true) (core : Nat) :
    Memory.wf (s.unbindCore core).mem = true := by simp [State.unbindCore, h]

@[simp] theorem State.tableError_wf {s : State} (h : Memory.wf s.mem = true) (d : DieId) (source : BitVec 4)
    (ctx : BitVec 8) :
    Memory.wf (s.tableError d source ctx).mem = true := by
  unfold State.tableError
  exact foldl_wf _ (fun t i ht => State.fenceOutside_wf ht _ _) _ (by simp [h])

@[simp] theorem State.softError_wf {s : State} (h : Memory.wf s.mem = true) (e : SoftError) :
    Memory.wf (s.softError e).mem = true := by
  unfold State.softError
  cases e <;> dsimp only
  case hbm | translation => split <;> simp [h]
  all_goals simp [h]

@[simp] theorem State.sendHeld_wf {s : State} (h : Memory.wf s.mem = true) : Memory.wf s.sendHeld.mem = true := by
  unfold State.sendHeld
  dsimp only
  rw [foldl_mem _ fun t x => t.toFabric_mem _ _ _]
  exact foldl_wf _ (fun t x ht => State.takeMessage_wf ht _ _ _) _ (by exact h)

@[simp] theorem State.stopDies_wf {s : State} (h : Memory.wf s.mem = true) (stop : List DieId) (code : BitVec 8) :
    Memory.wf (s.stopDies stop code).mem = true := by
  unfold State.stopDies
  extract_lets slots t1 gone t2 t3 cores t4 t5
  have h1 : Memory.wf t1.mem = true := by
    refine foldl_wf _ (fun t i ht => ?_) _ h
    dsimp only
    split
    · simp [ht]
    · refine foldl_wf _ (fun u e hu => ?_) _ ht
      split <;> simp [hu]
  have h2 : Memory.wf t2.mem = true := by
    refine foldl_wf _ (fun t x ht => ?_) _ h1
    split <;> simp [ht]
  have h4 : Memory.wf t4.mem = true := foldl_wf _ (fun t c ht => by simp [ht]) _ (by exact h2)
  have h5 : Memory.wf t5.mem = true := by
    refine foldl_wf _ (fun t p ht => ?_) _ h4
    dsimp only
    split <;> exact ht
  exact foldl_wf _ (fun t d ht => by simp [ht]) _ h5

@[simp] theorem State.split_wf {s : State} (h : Memory.wf s.mem = true) (stop : List DieId) (code : BitVec 8) :
    Memory.wf (s.split stop code).mem = true := by
  unfold State.split
  split <;> simp [h]

@[simp] theorem State.finishFlush_wf {s : State} (h : Memory.wf s.mem = true) : Memory.wf s.finishFlush.mem = true := by
  unfold State.finishFlush
  dsimp only
  split
  · exact h
  · split
    · simp [h]
    · exact State.countFlag_wf (by exact h) _ _

@[simp] theorem State.catchUp_wf {s : State} (h : Memory.wf s.mem = true) :
    Memory.wf s.catchUp.mem = true := by simp [State.catchUp, h]

end Sys2Proof.Machine
end

section
/-! SUPPORT. What an instruction or an event of an agent leaves is in canonical form where it was before. -/

namespace Sys2Proof.Machine

/-! ### Outcomes -/

/-- The next state of an outcome, if there is one, has memory in its canonical form. -/
def leavesSafe (o : Host.Outcome State Fault Refusal) : Prop :=
  match o with
  | .next t => Memory.wf t.mem = true
  | _ => True

theorem leavesSafe_next {t : State} (h : Memory.wf t.mem = true) : leavesSafe (.next t) := h

section
variable {s : State} (h : Memory.wf s.mem = true)
include h

theorem leavesSafe_atHart {f : HartRef → State} (hf : ∀ g, Memory.wf (f g).mem = true) : leavesSafe (s.atHart f) := by
  unfold State.atHart
  split
  · exact hf _
  · exact h

theorem leavesSafe_atRequest {f : Nat → State} (hf : ∀ n, Memory.wf (f n).mem = true) : leavesSafe (s.atRequest f) := by
  unfold State.atRequest
  split
  · exact hf _
  · exact h

theorem leavesSafe_atAnswer {f : Req → State} (hf : ∀ r, Memory.wf (f r).mem = true) : leavesSafe (s.atAnswer f) := by
  unfold State.atAnswer
  refine leavesSafe_atRequest h fun n => ?_
  split
  · split
    · exact h
    · split
      · exact hf _
      · exact h
  · exact h

theorem leavesSafe_atSlot {f : SlotId → State} (hf : ∀ i, Memory.wf (f i).mem = true) : leavesSafe (s.atSlot f) := by
  unfold State.atSlot
  split
  · exact hf _
  · exact h

theorem leavesSafe_atEntry {f : SlotId → Nat → State} (hf : ∀ i n, Memory.wf (f i n).mem = true) : leavesSafe
    (s.atEntry f) := by
  unfold State.atEntry
  split
  · exact hf _ _
  · exact h

theorem leavesSafe_atPort {f : PortId → Port → State} (hf : ∀ p v, Memory.wf (f p v).mem = true) : leavesSafe
    (s.atPort f) := by
  unfold State.atPort
  split
  · exact hf _ _
  · exact h

theorem leavesSafe_atDie {f : DieId → State} (hf : ∀ d, Memory.wf (f d).mem = true) : leavesSafe (s.atDie f) := by
  unfold State.atDie
  split
  · exact hf _
  · exact h

theorem leavesSafe_atHeat {f : State → DieId → Nat → State}
    (hf : ∀ t d n, Memory.wf t.mem = true → Memory.wf (f t d n).mem = true) : leavesSafe (s.atHeat f) := by
  unfold State.atHeat
  split
  · split
    · exact h
    · exact hf _ _ _ (by simp [h])
  · exact h

theorem leavesSafe_onCommand {accept : Word → Bool} {f : State → State} (hf : Memory.wf (f s).mem = true) :
    leavesSafe (s.onCommand accept f) := by
  unfold State.onCommand
  split
  · split
    · exact hf
    · exact h
  · exact h

theorem State.deduped_wf (r : Req) (die : DieId) {f : State → State}
    (hf : ∀ t, Memory.wf t.mem = true → Memory.wf (f t).mem = true) : Memory.wf (s.deduped r die f).mem = true := by
  unfold State.deduped
  split
  · exact hf _ h
  · split
    · exact hf _ (by simp [h])
    all_goals simp [h]

theorem leavesSafe_onWrite {accept : DieId → Nat → Word → Bool} {f : State → DieId → Nat → Word → State}
    (hf : ∀ t d off w, Memory.wf t.mem = true → Memory.wf (f t d off w).mem = true) : leavesSafe (s.onWrite accept f) := by
  unfold State.onWrite
  split
  · split
    · split
      · exact h
      · split
        · split
          · exact State.deduped_wf h _ _ fun t ht => by simp [hf _ _ _ _ ht]
          · exact h
        all_goals exact hf _ _ _ _ h
    · exact h
  · exact h

/-! ### Checks at issue -/
theorem State.reading_wf {rs : List Reg} {t : State} (ht : Memory.wf t.mem = true) :
    Memory.wf (s.reading rs t).mem = true := by
  unfold State.reading
  split <;> simp [h, ht]

theorem State.guarded_wf (k : Kind) (a : Word) (size : Nat) (words : Bool) {f : Place → State}
    (hf : ∀ p, Memory.wf (f p).mem = true) : Memory.wf (s.guarded k a size words f).mem = true := by
  unfold State.guarded
  split
  · simp [h]
  · simp [h]
  · split
    · simp [h]
    · exact hf _

theorem State.onTile_wf (a : Reg) (rs : List Reg) {f : Nat → Tile → State} (hf : ∀ n v, Memory.wf (f n v).mem = true) :
    Memory.wf (s.onTile a rs f).mem = true := by
  refine State.reading_wf h ?_
  dsimp only
  split
  · simp [h]
  · exact hf _ _

theorem State.onGroup_wf (a : Reg) (rs : List Reg) {f : BitVec 8 → Nat → State} (hf : ∀ g p, Memory.wf (f g p).mem = true) :
    Memory.wf (s.onGroup a rs f).mem = true := by
  refine State.reading_wf h ?_
  dsimp only
  split
  · simp [h]
  · split
    · simp [h]
    · exact hf _ _

@[simp] theorem State.combining_wf (kind : Fin 3) (b a d : Reg) : Memory.wf (s.combining kind b a d).mem = true := by
  refine State.onGroup_wf h _ _ fun g p => ?_
  split <;> simp [h]

theorem State.onHart_wf (a : Reg) (rs : List Reg) {f : HartRef → State} (hf : ∀ g, Memory.wf (f g).mem = true) :
    Memory.wf (s.onHart a rs f).mem = true := by
  unfold State.onHart
  split
  · simp [h]
  · refine State.reading_wf h ?_
    dsimp only
    split
    · simp [h]
    · exact hf _

theorem State.ownBytes_wf (r : Reg) (align len : Nat) (k : Kind) {outside : State} (bad : Nat → Option (BitVec 8))
    {f : Nat → State} (ho : Memory.wf outside.mem = true) (hf : ∀ off, Memory.wf (f off).mem = true) :
    Memory.wf (s.ownBytes r align len k outside bad f).mem = true := by
  unfold State.ownBytes
  split
  · exact ho
  · split
    · simp [h]
    · split
      · simp [h]
      · split
        · simp [h]
        · exact hf _

theorem State.ownRecord_wf (r : Reg) {f : List Byte → State} (hf : ∀ b, Memory.wf (f b).mem = true) :
    Memory.wf (s.ownRecord r f).mem = true := by
  unfold State.ownRecord
  split
  · simp [h]
  · dsimp only
    split
    · simp [h]
    · exact State.ownBytes_wf h _ _ _ _ _ (by simp [h]) fun _ => hf _

theorem State.startWork_wf (bad : SlotId → Entry → Option Nat) {go : SlotId → Entry → State}
    (hg : ∀ i e, Memory.wf (go i e).mem = true) : Memory.wf (s.startWork bad go).mem = true := by
  unfold State.startWork
  dsimp only
  split
  · exact h
  · split
    · exact h
    · split
      · simp [h]
      · split
        · simp [h]
        · exact hg _ _

theorem State.targets_wf (k : Kind) (ts : List (Word × Nat × Option Place)) {perform : State}
    (hp : Memory.wf perform.mem = true) : Memory.wf (s.targets k ts perform).mem = true := by
  unfold State.targets
  split
  · simp [h]
  · split
    · simp [h]
    · split
      · simp [h]
      · exact hp

theorem State.machineOnly_wf (rs : List Reg) {perform : State} (hp : Memory.wf perform.mem = true) :
    Memory.wf (s.machineOnly rs perform).mem = true := by
  unfold State.machineOnly
  split
  · simp [h]
  · exact State.reading_wf h hp

end

section
variable {s : State} (h : Memory.wf s.mem = true)
include h

theorem execTdecl_leavesSafe (f : SFields) : leavesSafe (execTdecl f s) := by
  refine State.startWork_wf h _ fun i e => State.withBytes_wf h i e _ _ fun t b ht => ?_
  dsimp only
  split
  · simp [ht]
  · split
    · exact ht
    · split <;> split <;> simp [ht]

theorem execSgroup_leavesSafe (f : SFields) : leavesSafe (execSgroup f s) := by
  refine State.startWork_wf h _ fun i e => ?_
  have hread := State.readGroups_wf (s.leadReader i e.n) f.aux.toNat h f.imm64
  dsimp only
  split
  all_goals rename_i he; have ht := wf_of_eq he hread
  · exact ht
  · simp [ht]
  · simp [ht]
  · split
    · simp [ht]
    · split
      · simp [ht]
      · split <;> simp [ht]

theorem execSbr_leavesSafe (f : SFields) : leavesSafe (execSbr f s) := by
  refine State.startWork_wf h _ fun i e => ?_
  dsimp only
  split
  · simp [h]
  · exact State.withBytes_wf h i e _ _ fun t b ht => by simp [ht]

theorem execSloop_leavesSafe (f : SFields) : leavesSafe (execSloop f s) := by
  refine State.startWork_wf h _ fun i e => ?_
  dsimp only
  split
  · simp [h]
  · refine State.withBytes_wf h i e _ _ fun t b ht => ?_
    split
    · simp [ht]
    · split <;> simp [ht]

theorem execSendloop_leavesSafe (f : SFields) : leavesSafe (execSendloop f s) := by
  refine State.startWork_wf h _ fun i e => ?_
  split <;> simp [h]

theorem execSswitch_leavesSafe (f : SFields) : leavesSafe (execSswitch f s) :=
  State.startWork_wf h _ fun i e => State.withBytes_wf h i e _ _ fun t b ht => by simp [ht]

theorem execScalarLoad_leavesSafe (k : LoadKind) (rd rs1 : Reg) (imm : BitVec 12) :
    leavesSafe (execScalarLoad k rd rs1 imm s) := by
  unfold execScalarLoad
  split
  · exact leavesSafe_next (by simp [h])
  · exact State.guarded_wf h _ _ _ _ fun p => by simp [h]

theorem execScalarStore_leavesSafe (k : StoreKind) (rs1 rs2 : Reg) (imm : BitVec 12) :
    leavesSafe (execScalarStore k rs1 rs2 imm s) := by
  unfold execScalarStore
  split
  · exact leavesSafe_next (by simp [h])
  · dsimp only
    split
    · exact leavesSafe_next (by simp [h])
    · exact State.guarded_wf h _ _ _ _ fun p => by simp [h]

theorem execLr_leavesSafe (dbl aq rl : Bool) (rd rs1 : Reg) : leavesSafe (execLr dbl aq rl rd rs1 s) := by
  unfold execLr
  split
  · exact leavesSafe_next (by simp [h])
  · refine State.guarded_wf h _ _ _ _ fun p => ?_
    split
    · dsimp only
      split <;> simp [h]
    · simp [h]

theorem execFwait_leavesSafe (b a : BitVec 5) : leavesSafe (execFwait b a s) := by
  refine State.reading_wf h ?_
  dsimp only
  split
  · split
    · simp [h]
    · refine State.targets_wf h _ _ ?_
      split
      · simp [h]
      · split <;> simp [h]
  · simp [h]

theorem execTdef_leavesSafe (b a : BitVec 5) : leavesSafe (execTdef b a s) := by
  refine State.onTile_wf h _ _ fun n t => ?_
  dsimp only
  split
  · simp [h]
  · split <;> simp [h]

theorem execTarm_leavesSafe (b a : BitVec 5) : leavesSafe (execTarm b a s) := by
  refine State.onTile_wf h _ _ fun n t => ?_
  dsimp only
  split
  · simp [h]
  · split <;> simp [h]

theorem execTrel_leavesSafe (a : BitVec 5) : leavesSafe (execTrel a s) := by
  refine State.onTile_wf h _ _ fun n t => ?_
  split <;> simp [h]

theorem execTwait_leavesSafe (a : BitVec 5) : leavesSafe (execTwait a s) := by
  refine State.onTile_wf h _ _ fun n t => ?_
  split <;> simp [h]

theorem execMsend_leavesSafe (b a : BitVec 5) (q : BitVec 3) : leavesSafe (execMsend b a q s) := by
  refine State.reading_wf h ?_
  dsimp only
  split <;> simp [h]

theorem execCallat_leavesSafe (b a : BitVec 5) (p : BitVec 2) (q : BitVec 3) : leavesSafe (execCallat b a p q s) := by
  refine State.reading_wf h ?_
  dsimp only
  split
  · simp [h]
  · split
    · simp [h]
    · split
      · simp [h]
      · split <;> simp [h]

theorem execOwn_leavesSafe (b a d : BitVec 5) : leavesSafe (execOwn b a d s) := by
  refine State.reading_wf h ?_
  dsimp only
  split
  · simp [h]
  · split <;> simp [h]

theorem execOcinv_leavesSafe (a : BitVec 5) : leavesSafe (execOcinv a s) := by
  refine State.reading_wf h ?_
  dsimp only
  split <;> simp [h]

theorem execKset_leavesSafe (a : BitVec 5) (k : BitVec 3) : leavesSafe (execKset a k s) :=
  State.reading_wf h (by simp [h])
end

section
variable {s : State} (h : Memory.wf s.mem = true)
include h

theorem execAmo_leavesSafe (op : AmoOp) (dbl aq rl : Bool) (rd rs1 rs2 : Reg) :
    leavesSafe (execAmo op dbl aq rl rd rs1 rs2 s) := by
  unfold execAmo
  split
  · exact leavesSafe_next (by simp [h])
  · refine State.guarded_wf h _ _ _ _ fun p => ?_
    split
    · dsimp only
      split <;> simp [h, Memory.wf_writeBytes]
    · simp [h]

theorem execSc_leavesSafe (dbl aq rl : Bool) (rd rs1 rs2 : Reg) : leavesSafe (execSc dbl aq rl rd rs1 rs2 s) := by
  unfold execSc
  split
  · exact leavesSafe_next (by simp [h])
  · refine State.guarded_wf h _ _ _ _ fun p => ?_
    split
    · dsimp only
      split <;> simp [h, Memory.wf_writeBytes]
    · split <;> simp [h]

theorem execHop_leavesSafe (b a : BitVec 5) : leavesSafe (execHop b a s) := by
  refine leavesSafe_next ?_
  split
  · simp [h]
  · refine State.reading_wf h ?_
    extract_lets v home mask resume c
    split
    · simp [h]
    · split
      · simp [h]
      · split
        · simp [h]
        · refine State.reading_wf h ?_
          split <;> simp [h]

theorem execGbar_leavesSafe (a : BitVec 5) : leavesSafe (execGbar a s) := by
  refine State.onGroup_wf h _ _ fun gid part => ?_
  dsimp only
  split
  · simp [h]
  · split
    · split <;> simp [h]
    · simp [h]

theorem execHstart_leavesSafe (b a d : BitVec 5) : leavesSafe (execHstart b a d s) := by
  refine State.onHart_wf h _ _ fun g => State.ownRecord_wf h _ fun record => ?_
  split
  · simp [h]
  · split
    rename_i he
    simp [wf_of_eq he (by simp [h])]

theorem execHreap_leavesSafe (a d : BitVec 5) : leavesSafe (execHreap a d s) := by
  refine State.onHart_wf h _ _ fun g => ?_
  split
  · simp [h]
  · split <;> simp [h]

theorem execHsave_leavesSafe (b a : BitVec 5) : leavesSafe (execHsave b a s) := by
  refine State.onHart_wf h _ _ fun g => State.ownBytes_wf h _ _ _ _ _ (by simp [h]) fun off => ?_
  dsimp only
  split
  · split <;> simp [h]
  · split <;> simp [h]
  · split <;> simp [h]
  · simp [h]

theorem execHload_leavesSafe (b a : BitVec 5) : leavesSafe (execHload b a s) := by
  refine State.onHart_wf h _ _ fun g => State.ownBytes_wf h _ _ _ _ _ (by simp [h]) fun off => ?_
  split <;> simp [h]

theorem execTqpush_leavesSafe (b a d : BitVec 5) : leavesSafe (execTqpush b a d s) := by
  refine State.reading_wf h ?_
  dsimp only
  split
  · simp [h]
  · split
    · simp [h]
    · refine State.ownRecord_wf h _ fun record => ?_
      split
      · exact h
      · split <;> simp [h]

theorem execTqpop_leavesSafe (b a d : BitVec 5) : leavesSafe (execTqpop b a d s) := by
  refine State.reading_wf h ?_
  dsimp only
  split
  · simp [h]
  · refine State.ownBytes_wf h _ _ _ _ _ (by simp [h]) fun off => ?_
    split
    · simp [h]
    · split <;> simp [h, Memory.wf_writeBytes]

theorem execPsave_leavesSafe (a : BitVec 5) : leavesSafe (execPsave a s) :=
  State.reading_wf h (State.ownBytes_wf h _ _ _ _ _ (by simp [h]) fun off => by simp [h])

theorem execPload_leavesSafe (a : BitVec 5) : leavesSafe (execPload a s) :=
  State.reading_wf h (State.ownBytes_wf h _ _ _ _ _ (by simp [h]) fun off => by simp [h])

theorem execCmig_leavesSafe (a d : BitVec 5) : leavesSafe (execCmig a d s) := by
  refine leavesSafe_next ?_
  split
  · simp [h]
  · split
    · simp [h]
    · refine State.reading_wf h ?_
      dsimp only
      split
      · simp [h]
      · split
        · simp [h]
        · split
          · simp [h]
          · split <;> simp [h]
          · simp [h]

theorem execOvmap_leavesSafe (b a : BitVec 5) : leavesSafe (execOvmap b a s) := by
  refine State.machineOnly_wf h _ ?_
  dsimp only
  split
  · simp [h]
  · split <;> simp [h]

theorem execOvunmap_leavesSafe (a : BitVec 5) : leavesSafe (execOvunmap a s) := by
  refine State.machineOnly_wf h _ ?_
  dsimp only
  split
  · simp [h]
  · split <;> simp [h]

theorem execHstop_leavesSafe : leavesSafe (execHstop s) := by
  refine leavesSafe_next ?_
  split
  · simp [h]
  · refine State.reading_wf h ?_
    split
    rename_i he
    simp [wf_of_eq he (by simp [h])]

omit h in

theorem execColdReset_leavesSafe : leavesSafe (execColdReset s) := rfl

theorem execPhaseMemory_leavesSafe : leavesSafe (execPhaseMemory s) := by
  unfold execPhaseMemory
  split
  · exact foldl_wf _ (fun t d ht => by simp [ht]) _ h
  · exact h

theorem execPhaseConfig_leavesSafe : leavesSafe (execPhaseConfig s) := by
  unfold execPhaseConfig
  split
  · exact foldl_wf _ (fun t d ht => by simp [ht]) _ h
  · exact h

theorem execPhaseLinks_leavesSafe : leavesSafe (execPhaseLinks s) := by
  unfold execPhaseLinks
  split
  · dsimp only
    split
    · exact foldl_wf _ (fun t d ht => by simp [ht]) _ h
    · split <;> exact h
  · exact h

theorem execBindContext_leavesSafe : leavesSafe (execBindContext s) := by
  refine leavesSafe_onCommand h ?_
  dsimp only
  split
  · simp [h]
  · rw [State.mailDone_mem]
    exact foldl_wf _ (fun t d ht => by simp [ht]) _ (by simp [h])

theorem execUnbindContext_leavesSafe : leavesSafe (execUnbindContext s) := by
  refine leavesSafe_onCommand h ?_
  dsimp only
  split
  · simp [h]
  · split
    · simp [h]
    · rw [State.mailDone_mem]
      refine foldl_wf _ (fun t d ht => by simp [ht]) _ (foldl_wf _ (fun t d ht => ?_) _ h)
      split <;> simp [ht]

theorem execRegisterWrite_leavesSafe : leavesSafe (execRegisterWrite s) := by
  unfold execRegisterWrite
  split
  · split <;> split <;> exact leavesSafe_next h
  · exact leavesSafe_onWrite h fun t d off w ht => by simp [ht]

theorem execDclkctlTargetWrite_leavesSafe : leavesSafe (execDclkctlTargetWrite s) := by
  refine leavesSafe_onWrite h fun t d off w ht => ?_
  split <;> simp [ht]

theorem execSctlOpen_leavesSafe : leavesSafe (execSctlOpen s) := by
  refine leavesSafe_onWrite h fun t d off w ht => ?_
  split <;> simp [ht]

theorem execSctlClose_leavesSafe : leavesSafe (execSctlClose s) := by
  refine leavesSafe_onWrite h fun t d off w ht => ?_
  split
  · split <;> simp [ht]
  · exact ht

theorem execSlotOpenComplete_leavesSafe : leavesSafe (execSlotOpenComplete s) := by
  refine leavesSafe_atSlot h fun i => ?_
  dsimp only
  split
  · exact h
  · split
    · simp [h]
    · split
      all_goals rename_i he; have ht := wf_of_eq he (State.pull_wf h _ _ _)
      · simp [ht]
      · exact ht
      · split
        all_goals rename_i he; have ht := wf_of_eq he (State.loadAll_wf _ _ _ ht)
        · simp [ht]
        · exact ht
        · simp [ht]

theorem execStreamLineFetch_leavesSafe : leavesSafe (execStreamLineFetch s) := by
  refine leavesSafe_atSlot h fun i => ?_
  dsimp only
  split
  · exact h
  · split
    · exact h
    · split
      all_goals rename_i he; have ht := wf_of_eq he (State.pull_wf h _ _ _)
      · exact ht
      · simp [ht]
      · simp [ht]

theorem execCmigComplete_leavesSafe : leavesSafe (execCmigComplete s) := by
  unfold execCmigComplete
  split
  · split
    · dsimp only
      split <;> exact leavesSafe_next (by simp [h])
    · exact h
  · exact h
end

end Sys2Proof.Machine
end

section
/-! SUPPORT. The outcome of each instruction and each event, and of a turn, with the statement StepsKeepMemoryCanonical. -/

namespace Sys2Proof.Machine

section

theorem Memory.wf_scrambled (n : Nat) {m : List Host.Cell} (hm : Memory.wf m = true) : Memory.wf (scrambled n m) = true := by
  suffices hk : ∀ (l : List Nat) (m : List Host.Cell), Memory.wf m = true →
      Memory.wf (l.foldl (fun (m : List Host.Cell) (k : Nat) => Memory.write m k (Config.afterWarmReset k n)) m) = true from
    hk _ m hm
  intro l
  induction l with
  | nil => exact fun _ hm => hm
  | cons k l ih => exact fun m hm => ih _ (Memory.wf_write _ _ hm)

/-- The state that an MX trigger leaves, if it runs, has memory in its canonical form. -/
def MxRun.canonical : MxRun → Prop
  | .fault _ _ _ => True
  | .done t _ => Memory.wf t.mem = true

variable {s : State} (h : Memory.wf s.mem = true)
include h

theorem execWarmReset_leavesSafe : leavesSafe (execWarmReset s) := Memory.wf_scrambled _ h

theorem State.mxStep_canonical (x : Trigger) : (s.mxStep x).canonical := by
  unfold State.mxStep
  dsimp only
  split
  · trivial
  · split
    · trivial
    · split
      · trivial
      · simp [MxRun.canonical, h]

theorem State.mxStoreRows_canonical (x : Trigger) : (s.mxStoreRows x).canonical := by
  unfold State.mxStoreRows
  dsimp only
  split
  · trivial
  · split
    · trivial
    · split
      · trivial
      · split
        · trivial
        · simp [MxRun.canonical, h, Memory.wf_writeKeys]

theorem State.mxLoadRows_canonical (x : Trigger) : (s.mxLoadRows x).canonical := by
  unfold State.mxLoadRows
  dsimp only
  split
  · trivial
  · split
    · trivial
    · split
      · trivial
      · split
        · trivial
        · simp [MxRun.canonical, h]

theorem State.macroRun_canonical (x : Trigger) (op : MacroOp) : (s.macroRun x op).canonical := by
  cases op with
  | zero | load => simp [State.macroRun, MxRun.canonical, h]
  | step =>
    simp only [State.macroRun]
    split
    · trivial
    · simp [MxRun.canonical, h]
  | store =>
    simp only [State.macroRun]
    split
    · trivial
    · split
      · trivial
      · split <;> simp [MxRun.canonical, h]
  | weights | copy => exact h

theorem State.mxRun_canonical (x : Trigger) : (s.mxRun x).canonical := by
  unfold State.mxRun
  split
  · exact State.macroRun_canonical h x _
  · split
    · simp [MxRun.canonical, h]
    · exact State.mxStoreRows_canonical h x
    · exact State.mxLoadRows_canonical h x
    · exact State.mxStep_canonical h x

theorem execMxTriggerStart_leavesSafe : leavesSafe (execMxTriggerStart s) := by
  unfold execMxTriggerStart
  split
  · split
    · split
      · extract_lets c u
        rename_i t rest _ _
        have hr : (u.mxRun t).canonical := State.mxRun_canonical (by simp [u, h]) t
        refine leavesSafe_next ?_
        split
        · simp [u, h]
        · rename_i he
          rw [he] at hr
          simpa [MxRun.canonical] using hr
      · exact h
    · exact h
  · exact h

theorem State.resolveNow_wf (i : SlotId) (e : Entry) : Memory.wf (s.resolveNow i e).mem = true := by
  have here : Memory.wf ({ s with strCur := (i, e.n) } : State).mem = true := h
  unfold State.resolveNow
  extract_lets u done
  have hdone (o : Host.Outcome State Fault Refusal) (ho : leavesSafe o) : Memory.wf (done o).mem = true := by
    cases o with
    | next t => exact ho
    | _ => exact h
  split
  · exact hdone _ (execSbr_leavesSafe here _)
  · exact hdone _ (execSloop_leavesSafe here _)
  · rename_i f _
    exact hdone _ (execSendloop_leavesSafe here f)
  · exact h

theorem execStreamDecode_leavesSafe : leavesSafe (execStreamDecode s) := by
  refine leavesSafe_atSlot h fun i => ?_
  dsimp only
  split
  · exact h
  · split
    · exact h
    · split
      · simp [h]
      · simp [h]
      · split
        · exact h
        · rename_i he
          have ht : Memory.wf (State.mem _) = true := (congrArg Memory.wf (State.bindTensors_mem he)).trans h
          split
          · exact State.resolveNow_wf (by simp [ht]) _ _
          · simp [ht]

theorem execMessageArrival_leavesSafe : leavesSafe (execMessageArrival s) := by
  refine leavesSafe_atRequest h fun n => ?_
  split
  · split
    · dsimp only
      split
      · simp [h]
      · split
        · exact h
        · split
          · simp [h]
          · split
            · simp [h]
            · exact State.deduped_wf h _ _ fun t ht => by simp [ht]
    · exact h
  · exact h

theorem execTaskRecordArrival_leavesSafe : leavesSafe (execTaskRecordArrival s) := by
  refine leavesSafe_atRequest h fun n => ?_
  split
  · split
    · split
      · simp [h]
      · simp [h]
      · simp [h]
      · exact h
      · exact h
      · split
        · simp [h]
        · extract_lets part
          split
          · exact h
          · split
            · simp [h]
            · exact State.deduped_wf h _ _ fun t ht => by simp [ht]
    · exact h
  · exact h

theorem execBarrierCompletionArrival_leavesSafe : leavesSafe (execBarrierCompletionArrival s) := by
  refine leavesSafe_atRequest h fun n => ?_
  split
  · split
    · exact h
    · exact foldl_wf _ (fun t i ht => by simp [ht]) _ (by simp [h])
  · exact h

theorem execRemoteStorePerform_leavesSafe : leavesSafe (execRemoteStorePerform s) := by
  refine leavesSafe_next ?_
  split
  · exact h
  · extract_lets tile stores
    split
    · exact h
    · split
      · simp [h]
      · split
        · exact State.atHome_wf h _ fun keys =>
            State.backInvalidated_wf h (State.deduped_wf h _ _ fun t ht => by simp [ht])
        · exact h

theorem execRemoteLoadPerform_leavesSafe : leavesSafe (execRemoteLoadPerform s) := by
  refine leavesSafe_next ?_
  split
  · exact h
  · split <;> simp [h]
  · split
    · exact h
    · split
      · simp [h]
      · refine State.atHome_wf h _ fun keys => ?_
        split
        · simp [h]
        · dsimp only
          split <;> simp [h]

theorem execRemoteAtomicPerform_leavesSafe : leavesSafe (execRemoteAtomicPerform s) := by
  refine leavesSafe_next ?_
  split
  · exact h
  · extract_lets tile
    split
    · exact h
    · split
      · simp [h]
      · simp [h]
      · simp [h]
      · exact h
      · refine State.atHome_wf h _ fun keys => ?_
        split
        · simp [h]
        · exact State.backInvalidated_wf h (State.deduped_wf h _ _ fun t ht => by simp [ht])

theorem execFlagArrival_leavesSafe : leavesSafe (execFlagArrival s) := by
  refine leavesSafe_atRequest h fun n => ?_
  split
  · rename_i r _
    have hcount (key : Nat) (core : Option (Nat × Nat)) (now : Nat) (t : State) (ht : Memory.wf t.mem = true) :
        Memory.wf ((State.countFlag (match core with
          | some (c, _) => t.setCore c { t.core c with nextFlag := now + 1 }
          | none => t) key core).answer r (.done [])).mem = true := by
      split <;> simp [ht]
    extract_lets tile here fresh
    split
    · exact h
    · split
      · split <;> simp [h]
      · split <;> simp [h]
      · exact h
      · extract_lets now busy
        split
        · exact h
        · split
          · split <;> simp [h]
          · refine State.backInvalidated_wf h ?_
            split
            · exact State.deduped_wf h _ _ fun t ht => hcount _ _ _ t ht
            · exact hcount _ _ _ s h
  · exact h

theorem execTileArrival_leavesSafe : leavesSafe (execTileArrival s) := by
  refine leavesSafe_next ?_
  split
  · exact h
  · split
    · split
      · simp [h]
      · refine State.atHome_wf h _ fun keys => ?_
        split
        · simp [h]
        · simp [h]
        · split
          · exact h
          · split
            · simp [h]
            · split
              · simp [h]
              · split
                · exact h
                · exact State.deduped_wf h _ _ fun t ht => by simp [ht, Memory.wf_writeKeys]
    · simp [h]
    · exact h

theorem execSplitPhaseFill_leavesSafe : leavesSafe (execSplitPhaseFill s) := by
  unfold execSplitPhaseFill
  split
  · refine leavesSafe_next ?_
    split
    · split <;> split <;> simp [h]
    · exact h
  · refine leavesSafe_atAnswer h fun r => ?_
    split
    · exact h
    · split
      · split <;> simp [h]
      · split <;> simp [h]
      · split <;> simp [h]
      · simp [h]
      · simp [h]
      · simp [h]
      · split <;> simp [h]
      · exact h

theorem execReleasePerform_leavesSafe : leavesSafe (execReleasePerform s) := by
  unfold execReleasePerform
  split
  · exact leavesSafe_next (by simp [h])
  · refine leavesSafe_atRequest h fun n => ?_
    split
    · split
      · split
        · dsimp only
          split <;> simp [h]
        · split <;> simp [h]
      · exact h
    · exact h

theorem execOwnerLookup_leavesSafe : leavesSafe (execOwnerLookup s) := by
  refine leavesSafe_atRequest h fun n => ?_
  split
  · split
    · exact h
    · split
      · split
        · simp [h]
        · split
          all_goals rename_i he; have ht := wf_of_eq he (by simp [h])
          · simp [ht]
          · exact ht
      · exact h
  · exact h

theorem execPageWalk_leavesSafe : leavesSafe (execPageWalk s) := by
  refine leavesSafe_atRequest h fun n => ?_
  split
  · split
    · split
      all_goals rename_i he; have ht := wf_of_eq he (State.agentLeaf_wf h _ _ _ _ _)
      · simp [ht]
      · simp [ht]
      · exact ht
    · exact h
  · exact h

theorem execOwnRequestArrival_leavesSafe : leavesSafe (execOwnRequestArrival s) := by
  refine leavesSafe_atRequest h fun n => ?_
  split
  · split
    · split
      · split <;> simp [h]
      · split
        · simp [h]
        · split
          · simp [h]
          · simp [h]
          · simp [h]
          · exact h
          · split
            · simp [h]
            · split
              · simp [h]
              · dsimp only
                split
                · simp [h]
                · split
                  · simp [h]
                  · exact State.deduped_wf h _ _ fun t ht => by simp [ht]
    · exact h
  · exact h

theorem execChunkCopy_leavesSafe : leavesSafe (execChunkCopy s) := by
  unfold execChunkCopy
  split
  · split
    · split
      · exact h
      · dsimp only
        refine leavesSafe_next ?_
        split <;> split <;> simp [h]
    · exact h
  · exact h

theorem execMapUpdate_leavesSafe : leavesSafe (execMapUpdate s) := by
  refine leavesSafe_atRequest h fun n => ?_
  split
  · extract_lets dies entry s1 s2 caching sending holders s3
    have h2 : Memory.wf s2.mem = true := foldl_wf _ (fun t d ht => by simp [ht]) _ (by simp [s1, h])
    have h3 : Memory.wf s3.mem = true := foldl_wf _ (fun t c ht => by simp [ht]) _ h2
    split
    · exact h
    · split <;> simp [h3]
  · exact h

theorem execPortTrained_leavesSafe : leavesSafe (execPortTrained s) := by
  unfold execPortTrained
  split
  · exact h
  · refine leavesSafe_atPort h fun p v => ?_
    split <;> simp [h]

theorem execThermalLimit_leavesSafe : leavesSafe (execThermalLimit s) := by
  refine leavesSafe_atHeat h fun t d n ht => ?_
  split <;> simp [ht]

theorem execNiLocalTriggerComplete_leavesSafe : leavesSafe (execNiLocalTriggerComplete s) := by
  unfold execNiLocalTriggerComplete
  split
  · dsimp only
    split
    · split
      · exact h
      · split
        · refine leavesSafe_next ?_
          split
          · rename_i he
            simp [State.bindWindow_mem he, h]
          · exact h
        · split <;> exact leavesSafe_next (by simp [h])
    · exact h
  · exact h

end

section
variable {s : State} (h : Memory.wf s.mem = true)
include h

theorem execIntegerOp_leavesSafe (op : IntOp) : leavesSafe (execIntegerOp op s) := by
  unfold execIntegerOp
  repeat' split
  all_goals (refine leavesSafe_next ?_; simp [h])

theorem execSfenceVma_leavesSafe (rs1 rs2 : Reg) : leavesSafe (execSfenceVma rs1 rs2 s) := by
  unfold execSfenceVma
  dsimp only
  repeat' split
  all_goals (refine leavesSafe_next ?_; simp [h])

theorem execCsrAccess_leavesSafe (op : CsrOp) (imm : Bool) (rd src : Reg) (csr : BitVec 12) :
    leavesSafe (execCsrAccess op imm rd src csr s) := by
  unfold execCsrAccess
  dsimp only
  repeat' split
  all_goals (refine leavesSafe_next ?_; simp [h])

theorem execNiWin_leavesSafe (g : Trig) : leavesSafe (execNiWin g s) := by
  unfold execNiWin
  split <;> (refine leavesSafe_next ?_; simp [h])

theorem execPstf_leavesSafe (c : BitVec 5) (w : BitVec 2) (b a : BitVec 5) : leavesSafe (execPstf c w b a s) := by
  unfold execPstf
  split <;> (refine leavesSafe_next ?_; simp [h])

theorem execQmov_leavesSafe (q : BitVec 3) (d : BitVec 5) : leavesSafe (execQmov q d s) := by
  unfold execQmov
  split <;> (refine leavesSafe_next ?_; simp [h])

theorem execPhaseRom_leavesSafe : leavesSafe (execPhaseRom s) := by
  unfold execPhaseRom
  split <;> (refine leavesSafe_next ?_; simp [h])

theorem execFirmwareVerify_leavesSafe : leavesSafe (execFirmwareVerify s) := by
  unfold execFirmwareVerify
  split <;> (refine leavesSafe_next ?_; simp [h])

theorem execMailboxReport_leavesSafe : leavesSafe (execMailboxReport s) := by
  unfold execMailboxReport
  refine leavesSafe_onCommand h ?_
  simp [h]

theorem execMailboxCert_leavesSafe : leavesSafe (execMailboxCert s) := by
  unfold execMailboxCert
  refine leavesSafe_onCommand h ?_
  simp [h]

theorem execMailboxUnknownCommand_leavesSafe : leavesSafe (execMailboxUnknownCommand s) := by
  unfold execMailboxUnknownCommand
  refine leavesSafe_onCommand h ?_
  simp [h]

theorem execCorectlWrite_leavesSafe : leavesSafe (execCorectlWrite s) := by
  unfold execCorectlWrite
  split <;> (refine leavesSafe_next ?_; simp [h])

theorem execFwstatWrite_leavesSafe : leavesSafe (execFwstatWrite s) := by
  unfold execFwstatWrite
  split <;> (refine leavesSafe_next ?_; simp [h])

theorem execFbtailWrite_leavesSafe : leavesSafe (execFbtailWrite s) := by
  unfold execFbtailWrite
  refine leavesSafe_onWrite h fun t d off w ht => ?_
  dsimp only
  repeat' split
  all_goals simp [ht]

theorem execSofterrClr_leavesSafe : leavesSafe (execSofterrClr s) := by
  unfold execSofterrClr
  refine leavesSafe_onWrite h fun t d off w ht => ?_
  simp [ht]

theorem execClockHalt_leavesSafe : leavesSafe (execClockHalt s) := by
  unfold execClockHalt
  refine leavesSafe_atDie h fun _ => ?_
  dsimp only
  repeat' split
  all_goals simp [h]

theorem execClockRelock_leavesSafe : leavesSafe (execClockRelock s) := by
  unfold execClockRelock
  refine leavesSafe_atDie h fun _ => ?_
  dsimp only
  repeat' split
  all_goals simp [h]

theorem execFlush_leavesSafe : leavesSafe (execFlush s) := by
  unfold execFlush
  refine leavesSafe_onWrite h fun t d off w ht => ?_
  dsimp only
  repeat' split
  all_goals simp [ht]

theorem execFlushrange_leavesSafe : leavesSafe (execFlushrange s) := by
  unfold execFlushrange
  refine leavesSafe_onWrite h fun t d off w ht => ?_
  dsimp only
  repeat' split
  all_goals simp [ht]

theorem execHostFlushComplete_leavesSafe : leavesSafe (execHostFlushComplete s) := by
  unfold execHostFlushComplete
  split <;> (refine leavesSafe_next ?_; simp [h])

theorem execHostApertureWrite_leavesSafe : leavesSafe (execHostApertureWrite s) := by
  unfold execHostApertureWrite
  repeat' split
  all_goals (refine leavesSafe_next ?_; simp [h])

theorem execHostApertureRead_leavesSafe : leavesSafe (execHostApertureRead s) := by
  unfold execHostApertureRead
  repeat' split
  all_goals (refine leavesSafe_next ?_; simp [h])

theorem execHostWindowWrite_leavesSafe : leavesSafe (execHostWindowWrite s) := by
  unfold execHostWindowWrite
  dsimp only
  repeat' split
  all_goals (refine leavesSafe_next ?_; simp [h])

theorem execCxlLinkDown_leavesSafe : leavesSafe (execCxlLinkDown s) := by
  unfold execCxlLinkDown
  split <;> (refine leavesSafe_next ?_; simp [h])

theorem execSlotCloseComplete_leavesSafe : leavesSafe (execSlotCloseComplete s) := by
  unfold execSlotCloseComplete
  refine leavesSafe_atSlot h fun _ => ?_
  dsimp only
  repeat' split
  all_goals simp [h]

theorem execSlimitWrite_leavesSafe : leavesSafe (execSlimitWrite s) := by
  unfold execSlimitWrite
  refine leavesSafe_onWrite h fun t d off w ht => ?_
  dsimp only
  repeat' split
  all_goals simp [ht]

theorem execStreamIssue_leavesSafe : leavesSafe (execStreamIssue s) := by
  unfold execStreamIssue
  refine leavesSafe_atEntry h fun _ _ => ?_
  dsimp only
  repeat' split
  all_goals simp [h]

theorem execStreamEntryDone_leavesSafe : leavesSafe (execStreamEntryDone s) := by
  unfold execStreamEntryDone
  refine leavesSafe_atEntry h fun _ _ => ?_
  dsimp only
  repeat' split
  all_goals simp [h]

theorem execStreamRetire_leavesSafe : leavesSafe (execStreamRetire s) := by
  unfold execStreamRetire
  refine leavesSafe_atSlot h fun _ => ?_
  dsimp only
  repeat' split
  all_goals simp [h]

theorem execStoreDrainLeave_leavesSafe : leavesSafe (execStoreDrainLeave s) := by
  unfold execStoreDrainLeave
  refine leavesSafe_atEntry h fun _ _ => ?_
  dsimp only
  repeat' split
  all_goals simp [h]

theorem execSwaitPoll_leavesSafe : leavesSafe (execSwaitPoll s) := by
  unfold execSwaitPoll
  refine leavesSafe_atEntry h fun _ _ => ?_
  dsimp only
  repeat' split
  all_goals simp [h]

theorem execSkernTaskPlacement_leavesSafe : leavesSafe (execSkernTaskPlacement s) := by
  unfold execSkernTaskPlacement
  refine leavesSafe_atSlot h fun _ => ?_
  dsimp only
  repeat' split
  all_goals simp [h]

theorem execTaskEndReport_leavesSafe : leavesSafe (execTaskEndReport s) := by
  unfold execTaskEndReport
  refine leavesSafe_atRequest h fun _ => ?_
  dsimp only
  repeat' split
  all_goals simp [h]

theorem execMacroTileStep_leavesSafe : leavesSafe (execMacroTileStep s) := by
  unfold execMacroTileStep
  repeat' split
  all_goals (refine leavesSafe_next ?_; simp [h])

theorem execCellarPartComplete_leavesSafe : leavesSafe (execCellarPartComplete s) := by
  unfold execCellarPartComplete
  repeat' split
  all_goals (refine leavesSafe_next ?_; simp [h])

theorem execRemotePartArrival_leavesSafe : leavesSafe (execRemotePartArrival s) := by
  unfold execRemotePartArrival
  refine leavesSafe_atRequest h fun _ => ?_
  dsimp only
  repeat' split
  all_goals simp [h]

theorem execStreamFaultRaise_leavesSafe : leavesSafe (execStreamFaultRaise s) := by
  unfold execStreamFaultRaise
  refine leavesSafe_atSlot h fun _ => ?_
  dsimp only
  repeat' split
  all_goals simp [h]

theorem execAutostartClaim_leavesSafe : leavesSafe (execAutostartClaim s) := by
  unfold execAutostartClaim
  dsimp only
  repeat' split
  all_goals (refine leavesSafe_next ?_; simp [h])

theorem execHartLoadComplete_leavesSafe : leavesSafe (execHartLoadComplete s) := by
  unfold execHartLoadComplete
  refine leavesSafe_atHart h fun _ => ?_
  dsimp only
  repeat' split
  all_goals simp [h]

theorem execHsaveDrainComplete_leavesSafe : leavesSafe (execHsaveDrainComplete s) := by
  unfold execHsaveDrainComplete
  refine leavesSafe_atHart h fun _ => ?_
  repeat' split
  all_goals simp [h]

theorem execHartSaveComplete_leavesSafe : leavesSafe (execHartSaveComplete s) := by
  unfold execHartSaveComplete
  refine leavesSafe_atHart h fun _ => ?_
  dsimp only
  repeat' split
  all_goals simp [h]

theorem execHstopComplete_leavesSafe : leavesSafe (execHstopComplete s) := by
  unfold execHstopComplete
  refine leavesSafe_atHart h fun _ => ?_
  dsimp only
  repeat' split
  all_goals simp [h]

theorem execHopSend_leavesSafe : leavesSafe (execHopSend s) := by
  unfold execHopSend
  refine leavesSafe_atHart h fun _ => ?_
  dsimp only
  repeat' split
  all_goals simp [h]

theorem execHartWake_leavesSafe : leavesSafe (execHartWake s) := by
  unfold execHartWake
  refine leavesSafe_atHart h fun _ => ?_
  dsimp only
  repeat' split
  all_goals simp [h]

theorem execQuantumExpiry_leavesSafe : leavesSafe (execQuantumExpiry s) := by
  unfold execQuantumExpiry
  refine leavesSafe_atHart h fun _ => ?_
  dsimp only
  repeat' split
  all_goals simp [h]

theorem execInterruptTrap_leavesSafe : leavesSafe (execInterruptTrap s) := by
  unfold execInterruptTrap
  refine leavesSafe_atHart h fun _ => ?_
  split <;> simp [h]

theorem execDeferredFaultTrap_leavesSafe : leavesSafe (execDeferredFaultTrap s) := by
  unfold execDeferredFaultTrap
  refine leavesSafe_atHart h fun _ => ?_
  split <;> simp [h]

theorem execUpcallEntry_leavesSafe : leavesSafe (execUpcallEntry s) := by
  unfold execUpcallEntry
  refine leavesSafe_atHart h fun _ => ?_
  repeat' split
  all_goals simp [h]

theorem execFaultRecordWrite_leavesSafe : leavesSafe (execFaultRecordWrite s) := by
  unfold execFaultRecordWrite
  dsimp only
  repeat' split
  all_goals (refine leavesSafe_next ?_; simp [h])

theorem execBarrierArrivalReport_leavesSafe : leavesSafe (execBarrierArrivalReport s) := by
  unfold execBarrierArrivalReport
  refine leavesSafe_atRequest h fun _ => ?_
  dsimp only
  repeat' split
  all_goals simp [h]

theorem execNiRequestSend_leavesSafe : leavesSafe (execNiRequestSend s) := by
  unfold execNiRequestSend
  refine leavesSafe_atRequest h fun _ => ?_
  repeat' split
  all_goals simp [h]

theorem execAcknowledgementArrival_leavesSafe : leavesSafe (execAcknowledgementArrival s) := by
  unfold execAcknowledgementArrival
  refine leavesSafe_atRequest h fun _ => ?_
  dsimp only
  repeat' split
  all_goals simp [h]

theorem execNegativeAcknowledgement_leavesSafe : leavesSafe (execNegativeAcknowledgement s) := by
  unfold execNegativeAcknowledgement
  refine leavesSafe_atRequest h fun _ => ?_
  dsimp only
  repeat' split
  all_goals simp [h]

theorem execRetrySend_leavesSafe : leavesSafe (execRetrySend s) := by
  unfold execRetrySend
  refine leavesSafe_atRequest h fun _ => ?_
  repeat' split
  all_goals simp [h]

theorem execRemoteFaultArrival_leavesSafe : leavesSafe (execRemoteFaultArrival s) := by
  unfold execRemoteFaultArrival
  refine leavesSafe_atRequest h fun _ => ?_
  dsimp only
  repeat' split
  all_goals simp [h]

theorem execTlbInvalidation_leavesSafe : leavesSafe (execTlbInvalidation s) := by
  unfold execTlbInvalidation
  repeat' split
  all_goals (refine leavesSafe_next ?_; simp [h])

theorem execSfenceVmaComplete_leavesSafe : leavesSafe (execSfenceVmaComplete s) := by
  unfold execSfenceVmaComplete
  refine leavesSafe_atRequest h fun _ => ?_
  split <;> simp [h]

theorem execDoorplateForward_leavesSafe : leavesSafe (execDoorplateForward s) := by
  unfold execDoorplateForward
  refine leavesSafe_atRequest h fun _ => ?_
  dsimp only
  repeat' split
  all_goals simp [h]

theorem execRedirectArrival_leavesSafe : leavesSafe (execRedirectArrival s) := by
  unfold execRedirectArrival
  refine leavesSafe_atRequest h fun _ => ?_
  repeat' split
  all_goals simp [h]

theorem execBounceArrival_leavesSafe : leavesSafe (execBounceArrival s) := by
  unfold execBounceArrival
  refine leavesSafe_atRequest h fun _ => ?_
  repeat' split
  all_goals simp [h]

theorem execMapUpdateAck_leavesSafe : leavesSafe (execMapUpdateAck s) := by
  unfold execMapUpdateAck
  refine leavesSafe_atRequest h fun _ => ?_
  dsimp only
  repeat' split
  all_goals simp [h]

theorem execStubReclaim_leavesSafe : leavesSafe (execStubReclaim s) := by
  unfold execStubReclaim
  repeat' split
  all_goals (refine leavesSafe_next ?_; simp [h])

theorem execFlushMarker_leavesSafe : leavesSafe (execFlushMarker s) := by
  unfold execFlushMarker
  refine leavesSafe_atRequest h fun _ => ?_
  dsimp only
  repeat' split
  all_goals simp [h]

theorem execCollectiveCompletion_leavesSafe : leavesSafe (execCollectiveCompletion s) := by
  unfold execCollectiveCompletion
  refine leavesSafe_atRequest h fun _ => ?_
  dsimp only
  repeat' split
  all_goals simp [h]

theorem execUnitResultFill_leavesSafe : leavesSafe (execUnitResultFill s) := by
  unfold execUnitResultFill
  repeat' split
  all_goals (refine leavesSafe_next ?_; simp [h])

theorem execMxResultFill_leavesSafe : leavesSafe (execMxResultFill s) := by
  unfold execMxResultFill
  dsimp only
  repeat' split
  all_goals (refine leavesSafe_next ?_; simp [h])

theorem execWbTriggerStart_leavesSafe : leavesSafe (execWbTriggerStart s) := by
  unfold execWbTriggerStart
  dsimp only
  repeat' split
  all_goals (refine leavesSafe_next ?_; simp [h])

theorem execWbResultFill_leavesSafe : leavesSafe (execWbResultFill s) := by
  unfold execWbResultFill
  dsimp only
  repeat' split
  all_goals (refine leavesSafe_next ?_; simp [h])

theorem execCeListActivate_leavesSafe : leavesSafe (execCeListActivate s) := by
  unfold execCeListActivate
  dsimp only
  repeat' split
  all_goals (refine leavesSafe_next ?_; simp [h])

theorem execCeTransfer_leavesSafe : leavesSafe (execCeTransfer s) := by
  unfold execCeTransfer
  split <;> (refine leavesSafe_next ?_; simp [h])

theorem execCeCommandComplete_leavesSafe : leavesSafe (execCeCommandComplete s) := by
  unfold execCeCommandComplete
  dsimp only
  repeat' split
  all_goals (refine leavesSafe_next ?_; simp [h])

theorem execPortEnable_leavesSafe : leavesSafe (execPortEnable s) := by
  unfold execPortEnable
  refine leavesSafe_atPort h fun _ _ => ?_
  split <;> simp [h]

theorem execTrainingTimeout_leavesSafe : leavesSafe (execTrainingTimeout s) := by
  unfold execTrainingTimeout
  refine leavesSafe_atPort h fun _ _ => ?_
  split <;> simp [h]

theorem execPortQuiesce_leavesSafe : leavesSafe (execPortQuiesce s) := by
  unfold execPortQuiesce
  refine leavesSafe_atPort h fun _ _ => ?_
  split <;> simp [h]

theorem execQuiesceComplete_leavesSafe : leavesSafe (execQuiesceComplete s) := by
  unfold execQuiesceComplete
  refine leavesSafe_atPort h fun _ _ => ?_
  split <;> simp [h]

theorem execPortDisable_leavesSafe : leavesSafe (execPortDisable s) := by
  unfold execPortDisable
  refine leavesSafe_atPort h fun _ _ => ?_
  split <;> simp [h]

theorem execFlitReceive_leavesSafe : leavesSafe (execFlitReceive s) := by
  unfold execFlitReceive
  dsimp only
  repeat' split
  all_goals (refine leavesSafe_next ?_; simp [h])

theorem execRepeatRequestReceive_leavesSafe : leavesSafe (execRepeatRequestReceive s) := by
  unfold execRepeatRequestReceive
  split <;> (refine leavesSafe_next ?_; simp [h])

theorem execPortDegrade_leavesSafe : leavesSafe (execPortDegrade s) := by
  unfold execPortDegrade
  refine leavesSafe_atPort h fun _ _ => ?_
  split <;> simp [h]

theorem execLaneLoss_leavesSafe : leavesSafe (execLaneLoss s) := by
  unfold execLaneLoss
  dsimp only
  repeat' split
  all_goals (refine leavesSafe_next ?_; simp [h])

theorem execLaneRealign_leavesSafe : leavesSafe (execLaneRealign s) := by
  unfold execLaneRealign
  refine leavesSafe_atPort h fun _ _ => ?_
  split <;> simp [h]

theorem execPortDead_leavesSafe : leavesSafe (execPortDead s) := by
  unfold execPortDead
  dsimp only
  repeat' split
  all_goals (refine leavesSafe_next ?_; simp [h])

theorem execPathDeathSettle_leavesSafe : leavesSafe (execPathDeathSettle s) := by
  unfold execPathDeathSettle
  split <;> (refine leavesSafe_next ?_; simp [h])

theorem execDieBoundaryFailure_leavesSafe : leavesSafe (execDieBoundaryFailure s) := by
  unfold execDieBoundaryFailure
  repeat' split
  all_goals (refine leavesSafe_next ?_; simp [h])

theorem execThermalStop_leavesSafe : leavesSafe (execThermalStop s) := by
  unfold execThermalStop
  refine leavesSafe_atHeat h fun t d n ht => ?_
  dsimp only
  repeat' split
  all_goals simp [ht]

theorem execThermalRecover_leavesSafe : leavesSafe (execThermalRecover s) := by
  unfold execThermalRecover
  refine leavesSafe_atHeat h fun t d n ht => ?_
  dsimp only
  repeat' split
  all_goals simp [ht]

theorem execPowerLimitStep_leavesSafe : leavesSafe (execPowerLimitStep s) := by
  unfold execPowerLimitStep
  dsimp only
  repeat' split
  all_goals (refine leavesSafe_next ?_; simp [h])

theorem execPowerRestoreStep_leavesSafe : leavesSafe (execPowerRestoreStep s) := by
  unfold execPowerRestoreStep
  dsimp only
  repeat' split
  all_goals (refine leavesSafe_next ?_; simp [h])

theorem execHbmScrub_leavesSafe : leavesSafe (execHbmScrub s) := by
  unfold execHbmScrub
  repeat' split
  all_goals (refine leavesSafe_next ?_; simp [h])

theorem execWfi_leavesSafe : leavesSafe (execWfi s) := by
  unfold execWfi
  split <;> (refine leavesSafe_next ?_; simp [h])

theorem execMret_leavesSafe : leavesSafe (execMret s) := by
  unfold execMret
  split <;> (refine leavesSafe_next ?_; simp [h])

theorem execSret_leavesSafe : leavesSafe (execSret s) := by
  unfold execSret
  split <;> (refine leavesSafe_next ?_; simp [h])

theorem execUpret_leavesSafe : leavesSafe (execUpret s) := by
  unfold execUpret
  dsimp only
  repeat' split
  all_goals (refine leavesSafe_next ?_; simp [h])

theorem execCxlLinkReturn_leavesSafe : leavesSafe (execCxlLinkReturn s) := by
  unfold execCxlLinkReturn
  split <;> (refine leavesSafe_next ?_; simp [h])

theorem execBackInvalidationResponse_leavesSafe : leavesSafe (execBackInvalidationResponse s) := by
  unfold execBackInvalidationResponse
  repeat' split
  all_goals (refine leavesSafe_next ?_; simp [h])

theorem execPortImageTransferComplete_leavesSafe : leavesSafe (execPortImageTransferComplete s) := by
  unfold execPortImageTransferComplete
  refine leavesSafe_atHart h fun _ => ?_
  dsimp only
  repeat' split
  all_goals simp [h]

theorem execOverlayUpdateComplete_leavesSafe : leavesSafe (execOverlayUpdateComplete s) := by
  unfold execOverlayUpdateComplete
  refine leavesSafe_atHart h fun _ => ?_
  dsimp only
  repeat' split
  all_goals simp [h]

end

theorem exec_leavesSafe {s : State} (h : Memory.wf s.mem = true) (i : Instr) : leavesSafe (exec i s) := by
  cases i with
  | ccEnd | ccCopy | ccCopy2d | ccFill | ccGather | ccWait | ccBump | ccWrite | ccLink | fence |
      fenceI | mov2 | mov | mvpxD | mvpxW | mvxpD | mvxpW | mvbxD | mvbxW | mvip | vaAdd | vaSub |
      vaMul | vaMin | vaMax | vaSll | vaSra | vaSrl | vaFadd | vaFsub | vaFmul | vaFma | vaFnma |
      vaFmin | vaFmax | vaSgnj | vaAnd | vaOr | vaXor | vaSelW | vaSelD | vaCeqW | vaCltW | vaCltuW
      | vaCeqD | vaCltD | vaFceqS | vaFcltS | vaFcleS | vaFceqD | vaFcltD | vaFcleD | vaExp2S |
      vaLog2S | vaRcpS | vaRsqrtS | vsPerm | vsBcast | vsZiplo | vsZiphi | vsRotb | vsCompress |
      vsExpand | vsRsumD | vsRmaxD | vsRminD | vsRsumS | vsRmaxS | vsRminS | vsRsumBf | vsRmaxBf |
      vsRminBf | vsRsumHf | vsRmaxHf | vsRminHf | vsIrsumW | vsIrsumD | vsIrmaxW | vsIrminW |
      vsIrmaxuW | vsIrminuW | vsIrmaxD | vsIrminD | vsIrmaxuD | vsIrminuD | cvBf16F32 | cvF16F32 |
      cvF32F64 | cvI32F32 | cvI64F64 | cvF32I32 | cvF64I64 | cvE4m3F32 | cvE5m2F32 | cvI8I32 |
      cvF32Bf16 | cvF32F16 | cvF64F32 | cvF32E4m3 | cvF32E5m2 | cvI32I8 | cvMxencE4m3 | cvMxencE5m2
      | cvF4encLo | cvF4encHi | lsLd | lsLdlo | lsLdhi | lsLdn | lsSt | lsStm | mxMm | mxMmw | mxMmd
      | mxMmn | mxZero | mxSt | mxLd | wbLd | wbLdc | wbClr | ceRun | ceRunv | niSt | niTst |
      niVaddI32 | niVaddI64 | niVaddF32 | niVaddF64 | niVaddBf16 | niTaddI32 | niTaddF32 | niTaddF64
      | niGet | niMsg | niCap | fbump | raddfInt | raddfFloat | rfadd | rfswap | rfand | rfor |
      rfxor | rfmin | rfmax | rfminu | rfmaxu | rfaddf | rcas | rfenceRel | rfenceAcq | kget | gsum
      | gmax | gmin | flitDiscard | ecall | ebreak =>
    exact leavesSafe_next (by simp [h])
  | sload | sstore | sfill | smm | sew | sred | sxpose | scvt | sgather | sscatter | sreduce | skern
      | sput | sget | swait | ssignal | sfence | shalt | sown =>
    exact State.startWork_wf h _ fun _ _ => by simp [h]
  | tdecl => exact execTdecl_leavesSafe h _
  | sgroup => exact execSgroup_leavesSafe h _
  | sbr => exact execSbr_leavesSafe h _
  | sloop => exact execSloop_leavesSafe h _
  | sendloop f => exact execSendloop_leavesSafe h f
  | sswitch => exact execSswitch_leavesSafe h _
  | scalarLoad => exact execScalarLoad_leavesSafe h _ _ _ _
  | scalarStore => exact execScalarStore_leavesSafe h _ _ _ _
  | amo => exact execAmo_leavesSafe h _ _ _ _ _ _ _
  | lr dbl aq rl rd rs1 => exact execLr_leavesSafe h dbl aq rl rd rs1
  | sc => exact execSc_leavesSafe h _ _ _ _ _ _
  | integerOp => exact execIntegerOp_leavesSafe h _
  | sfenceVma => exact execSfenceVma_leavesSafe h _ _
  | csrAccess => exact execCsrAccess_leavesSafe h _ _ _ _ _
  | niWin => exact execNiWin_leavesSafe h _
  | fwait => exact execFwait_leavesSafe h _ _
  | tdef => exact execTdef_leavesSafe h _ _
  | tarm => exact execTarm_leavesSafe h _ _
  | trel => exact execTrel_leavesSafe h _
  | twait => exact execTwait_leavesSafe h _
  | pstf => exact execPstf_leavesSafe h _ _ _ _
  | msend => exact execMsend_leavesSafe h _ _ _
  | qmov => exact execQmov_leavesSafe h _ _
  | callat => exact execCallat_leavesSafe h _ _ _ _
  | hop => exact execHop_leavesSafe h _ _
  | own => exact execOwn_leavesSafe h _ _ _
  | ocinv => exact execOcinv_leavesSafe h _
  | kset => exact execKset_leavesSafe h _ _
  | gbar => exact execGbar_leavesSafe h _
  | hstart => exact execHstart_leavesSafe h _ _ _
  | hreap => exact execHreap_leavesSafe h _ _
  | hsave => exact execHsave_leavesSafe h _ _
  | hload => exact execHload_leavesSafe h _ _
  | tqpush => exact execTqpush_leavesSafe h _ _ _
  | tqpop => exact execTqpop_leavesSafe h _ _ _
  | psave => exact execPsave_leavesSafe h _
  | pload => exact execPload_leavesSafe h _
  | cmig => exact execCmig_leavesSafe h _ _
  | ovmap => exact execOvmap_leavesSafe h _ _
  | ovunmap => exact execOvunmap_leavesSafe h _
  | coldReset => exact execColdReset_leavesSafe
  | warmReset => exact execWarmReset_leavesSafe h
  | phaseRom => exact execPhaseRom_leavesSafe h
  | firmwareVerify => exact execFirmwareVerify_leavesSafe h
  | phaseMemory => exact execPhaseMemory_leavesSafe h
  | phaseConfig => exact execPhaseConfig_leavesSafe h
  | phaseLinks => exact execPhaseLinks_leavesSafe h
  | mailboxReport => exact execMailboxReport_leavesSafe h
  | mailboxCert => exact execMailboxCert_leavesSafe h
  | bindContext => exact execBindContext_leavesSafe h
  | unbindContext => exact execUnbindContext_leavesSafe h
  | mailboxUnknownCommand => exact execMailboxUnknownCommand_leavesSafe h
  | registerWrite => exact execRegisterWrite_leavesSafe h
  | corectlWrite => exact execCorectlWrite_leavesSafe h
  | fwstatWrite => exact execFwstatWrite_leavesSafe h
  | fbtailWrite => exact execFbtailWrite_leavesSafe h
  | softerrClr => exact execSofterrClr_leavesSafe h
  | dclkctlTargetWrite => exact execDclkctlTargetWrite_leavesSafe h
  | clockHalt => exact execClockHalt_leavesSafe h
  | clockRelock => exact execClockRelock_leavesSafe h
  | flush => exact execFlush_leavesSafe h
  | flushrange => exact execFlushrange_leavesSafe h
  | hostFlushComplete => exact execHostFlushComplete_leavesSafe h
  | hostApertureWrite => exact execHostApertureWrite_leavesSafe h
  | hostApertureRead => exact execHostApertureRead_leavesSafe h
  | hostWindowWrite => exact execHostWindowWrite_leavesSafe h
  | cxlLinkDown => exact execCxlLinkDown_leavesSafe h
  | sctlOpen => exact execSctlOpen_leavesSafe h
  | slotOpenComplete => exact execSlotOpenComplete_leavesSafe h
  | sctlClose => exact execSctlClose_leavesSafe h
  | slotCloseComplete => exact execSlotCloseComplete_leavesSafe h
  | slimitWrite => exact execSlimitWrite_leavesSafe h
  | streamLineFetch => exact execStreamLineFetch_leavesSafe h
  | streamDecode => exact execStreamDecode_leavesSafe h
  | streamIssue => exact execStreamIssue_leavesSafe h
  | streamEntryDone => exact execStreamEntryDone_leavesSafe h
  | streamRetire => exact execStreamRetire_leavesSafe h
  | storeDrainLeave => exact execStoreDrainLeave_leavesSafe h
  | swaitPoll => exact execSwaitPoll_leavesSafe h
  | skernTaskPlacement => exact execSkernTaskPlacement_leavesSafe h
  | taskEndReport => exact execTaskEndReport_leavesSafe h
  | macroTileStep => exact execMacroTileStep_leavesSafe h
  | cellarPartComplete => exact execCellarPartComplete_leavesSafe h
  | remotePartArrival => exact execRemotePartArrival_leavesSafe h
  | streamFaultRaise => exact execStreamFaultRaise_leavesSafe h
  | autostartClaim => exact execAutostartClaim_leavesSafe h
  | hartLoadComplete => exact execHartLoadComplete_leavesSafe h
  | hsaveDrainComplete => exact execHsaveDrainComplete_leavesSafe h
  | hartSaveComplete => exact execHartSaveComplete_leavesSafe h
  | hstopComplete => exact execHstopComplete_leavesSafe h
  | hopSend => exact execHopSend_leavesSafe h
  | cmigComplete => exact execCmigComplete_leavesSafe h
  | hartWake => exact execHartWake_leavesSafe h
  | quantumExpiry => exact execQuantumExpiry_leavesSafe h
  | interruptTrap => exact execInterruptTrap_leavesSafe h
  | deferredFaultTrap => exact execDeferredFaultTrap_leavesSafe h
  | upcallEntry => exact execUpcallEntry_leavesSafe h
  | faultRecordWrite => exact execFaultRecordWrite_leavesSafe h
  | taskRecordArrival => exact execTaskRecordArrival_leavesSafe h
  | messageArrival => exact execMessageArrival_leavesSafe h
  | barrierArrivalReport => exact execBarrierArrivalReport_leavesSafe h
  | barrierCompletionArrival => exact execBarrierCompletionArrival_leavesSafe h
  | niRequestSend => exact execNiRequestSend_leavesSafe h
  | remoteStorePerform => exact execRemoteStorePerform_leavesSafe h
  | remoteLoadPerform => exact execRemoteLoadPerform_leavesSafe h
  | remoteAtomicPerform => exact execRemoteAtomicPerform_leavesSafe h
  | flagArrival => exact execFlagArrival_leavesSafe h
  | tileArrival => exact execTileArrival_leavesSafe h
  | acknowledgementArrival => exact execAcknowledgementArrival_leavesSafe h
  | splitPhaseFill => exact execSplitPhaseFill_leavesSafe h
  | negativeAcknowledgement => exact execNegativeAcknowledgement_leavesSafe h
  | retrySend => exact execRetrySend_leavesSafe h
  | remoteFaultArrival => exact execRemoteFaultArrival_leavesSafe h
  | releasePerform => exact execReleasePerform_leavesSafe h
  | ownerLookup => exact execOwnerLookup_leavesSafe h
  | pageWalk => exact execPageWalk_leavesSafe h
  | tlbInvalidation => exact execTlbInvalidation_leavesSafe h
  | sfenceVmaComplete => exact execSfenceVmaComplete_leavesSafe h
  | ownRequestArrival => exact execOwnRequestArrival_leavesSafe h
  | chunkCopy => exact execChunkCopy_leavesSafe h
  | doorplateForward => exact execDoorplateForward_leavesSafe h
  | redirectArrival => exact execRedirectArrival_leavesSafe h
  | bounceArrival => exact execBounceArrival_leavesSafe h
  | mapUpdate => exact execMapUpdate_leavesSafe h
  | mapUpdateAck => exact execMapUpdateAck_leavesSafe h
  | stubReclaim => exact execStubReclaim_leavesSafe h
  | flushMarker => exact execFlushMarker_leavesSafe h
  | collectiveCompletion => exact execCollectiveCompletion_leavesSafe h
  | unitResultFill => exact execUnitResultFill_leavesSafe h
  | mxTriggerStart => exact execMxTriggerStart_leavesSafe h
  | mxResultFill => exact execMxResultFill_leavesSafe h
  | wbTriggerStart => exact execWbTriggerStart_leavesSafe h
  | wbResultFill => exact execWbResultFill_leavesSafe h
  | ceListActivate => exact execCeListActivate_leavesSafe h
  | ceTransfer => exact execCeTransfer_leavesSafe h
  | ceCommandComplete => exact execCeCommandComplete_leavesSafe h
  | portEnable => exact execPortEnable_leavesSafe h
  | portTrained => exact execPortTrained_leavesSafe h
  | trainingTimeout => exact execTrainingTimeout_leavesSafe h
  | portQuiesce => exact execPortQuiesce_leavesSafe h
  | quiesceComplete => exact execQuiesceComplete_leavesSafe h
  | portDisable => exact execPortDisable_leavesSafe h
  | flitReceive => exact execFlitReceive_leavesSafe h
  | repeatRequestReceive => exact execRepeatRequestReceive_leavesSafe h
  | portDegrade => exact execPortDegrade_leavesSafe h
  | laneLoss => exact execLaneLoss_leavesSafe h
  | laneRealign => exact execLaneRealign_leavesSafe h
  | portDead => exact execPortDead_leavesSafe h
  | pathDeathSettle => exact execPathDeathSettle_leavesSafe h
  | dieBoundaryFailure => exact execDieBoundaryFailure_leavesSafe h
  | thermalLimit => exact execThermalLimit_leavesSafe h
  | thermalStop => exact execThermalStop_leavesSafe h
  | thermalRecover => exact execThermalRecover_leavesSafe h
  | powerLimitStep => exact execPowerLimitStep_leavesSafe h
  | powerRestoreStep => exact execPowerRestoreStep_leavesSafe h
  | hbmScrub => exact execHbmScrub_leavesSafe h
  | wfi => exact execWfi_leavesSafe h
  | mret => exact execMret_leavesSafe h
  | sret => exact execSret_leavesSafe h
  | hstop => exact execHstop_leavesSafe h
  | upret => exact execUpret_leavesSafe h
  | cxlLinkReturn => exact execCxlLinkReturn_leavesSafe h
  | backInvalidationResponse => exact execBackInvalidationResponse_leavesSafe h
  | portImageTransferComplete => exact execPortImageTransferComplete_leavesSafe h
  | overlayUpdateComplete => exact execOverlayUpdateComplete_leavesSafe h
  | niLocalTriggerComplete => exact execNiLocalTriggerComplete_leavesSafe h

/-- The state in which a turn ends or runs its instruction has memory in its canonical form. -/
def TurnResult.canonical : TurnResult → Prop
  | .done s | .run s _ => Memory.wf s.mem = true
  | .fault _ => True

section
variable {s : State} (h : Memory.wf s.mem = true)
include h

theorem State.slotOf_canonical : s.slotOf.turn.canonical := by
  unfold State.slotOf
  extract_lets g v u
  have hu : Memory.wf u.mem = true := by simp [u, h]
  have hf := State.fetch_wf hu g
  split
  · simp [SlotResult.turn, TurnResult.canonical, hu]
  · split
    · simp [SlotResult.turn, TurnResult.canonical, hu]
    · split
      · simp [SlotResult.turn, TurnResult.canonical, hu]
      · split
        · simp [SlotResult.turn, TurnResult.canonical, hu]
        · split
          · exact hu
          · split
            · simp [SlotResult.turn, TurnResult.canonical, hu]
            · split
              all_goals rename_i he; have ht := wf_of_eq he hf
              · simp [SlotResult.turn, TurnResult.canonical, ht]
              · exact ht
              · split
                · simp [SlotResult.turn, TurnResult.canonical, ht]
                · split
                  · exact ht
                  · simp [SlotResult.turn, TurnResult.canonical, ht]

theorem State.slotTurn_canonical : s.slotTurn.canonical := by
  unfold State.slotTurn
  split
  · have hs := State.slotOf_canonical h
    unfold TurnResult.throughUpsets
    split
    · rename_i t i he
      rw [he] at hs
      have ht : Memory.wf t.mem = true := hs
      split
      · exact ht
      · split
        · rename_i u hu
          exact (congrArg Memory.wf (State.throughUpsets_mem (.inl hu))).trans ht
        · rename_i u hu
          exact (congrArg Memory.wf (State.throughUpsets_mem (.inr hu))).trans ht
    · exact hs
  · exact State.transferSlot_wf h

theorem State.streamTurn_canonical (i : SlotId) (n : Nat) : (s.streamTurn i n).canonical := by
  unfold State.streamTurn
  split
  · split <;> exact h
  · trivial

theorem State.listTurn_canonical (core i : Nat) : (s.listTurn core i).canonical := by
  have hc := State.copyTurn_wf h core i
  unfold State.listTurn
  split
  · trivial
  · split
    all_goals rename_i he; exact wf_of_eq he hc

theorem State.takeTurn_canonical (t : Turn) : (s.takeTurn t).canonical := by
  unfold State.takeTurn
  split
  · split <;> exact h
  · split
    · rename_i q hq
      have hqm : Memory.wf q.mem = true := (congrArg Memory.wf (State.nextIssue_mem hq)).trans h
      split
      · exact State.slotTurn_canonical (State.catchUp_wf hqm)
      · simp [TurnResult.canonical, h]
    · simp [TurnResult.canonical, h]
  · exact State.streamTurn_canonical h _ _
  · exact State.listTurn_canonical h _ _
  · split <;> simp [TurnResult.canonical, h]

theorem step_leavesSafe : leavesSafe (step s) := by
  have ht := State.takeTurn_canonical (s := s.catchUp.nextTurn.2) (by simp [h]) s.catchUp.nextTurn.1
  unfold step
  split
  all_goals rename_i he; rw [he] at ht
  · exact ht
  · exact exec_leavesSafe ht _
  · trivial

end

/-- Settles O57. A step is what has come due, a turn and one instruction, and each leaves memory canonical. -/
theorem stepsKeepMemoryCanonical : Obligations.StepsKeepMemoryCanonical := by
  intro s t h hst
  have ht := step_leavesSafe h
  rwa [hst] at ht

end Sys2Proof.Machine
end

section
/-! SUPPORT. Flag waits and the tile table (R72 to R78, R171 to R175), with the statement FlagAndTileInstructions. -/

namespace Sys2Proof.Machine

/-! ### Windows of an address (R61, R62, R65) -/

/-- An address of a scratchpad byte names its window where the alignment test looks for it. -/
theorem State.windowField_of_spad {s : State} {core c off win : Nat} {a : Word} (h : s.place core a = some (.spad c off win)) :
    windowField a = win := by
  unfold State.place at h
  unfold windowField
  dsimp only at h
  generalize field a 60 4 = sel at h ⊢
  split_ifs at h <;> simp_all
  all_goals split at h <;> simp_all

theorem aligned_of_word {a : Word} (h : windowField a = 0) (size : Nat) : aligned a size = (a.toNat % size == 0) := by
  unfold aligned; simp only [h]

/-! ### Accesses of one address (R361, R413, R414) -/

theorem State.targets_misaligned (s : State) (k : Kind) {a : Word} {size : Nat} (p : Option Place) (perform : State)
    (hal : aligned a size = false) : s.targets k [(a, size, p)] perform = s.trap k.alignCause a := by
  simp [State.targets, hal]

/-- Where the checks of the address pass, a data breakpoint comes before the access. -/
theorem State.targets_admitted (s : State) {k : Kind} {bit : Nat} (hbit : k.breakBit = bit) {a : Word} {size : Nat} (p : Place)
    (perform : State) (hal : aligned a size = true) :
    s.targets k [(a, size, some p)] perform = if s.me.breaks bit a then s.trap 3 a else perform := by
  subst hbit
  unfold State.targets
  simp only [List.find?_cons, List.find?_nil, hal, Bool.not_true, Option.isNone_some]
  cases s.me.breaks k.breakBit a <;> rfl

/-! ### Flag waits (R77, R78, R171) -/

/-- A target is reached where the 48-bit difference has its top bit clear (R77). -/
theorem flagReached_iff (word target : Nat) :
    flagReached word target = true ↔ (word + (2 ^ 48 - target % 2 ^ 48)) % 2 ^ 48 < 2 ^ 47 := by
  have hlt : target % 2 ^ 48 < 2 ^ 48 := Nat.mod_lt _ (by norm_num)
  rw [flagReached, decide_eq_true_iff, Nat.add_sub_assoc hlt.le]

/-- The core of the issuing hart with its watch entry set on a word of the scratchpad and a target (R78). -/
def State.watching (s : State) (off : Nat) (target : Word) : Core :=
  { s.myCore with watch := s.myCore.watch.set s.cur.hart ⟨BitVec.ofNat 18 off, true, target.extractLsb' 0 48⟩ }

section
variable {s : State} {a b : Reg} {off : Nat} (ha : s.me.isFull a = true) (hb : s.me.isFull b = true)
  (hp : s.place s.cur.core (s.me.readX a) = some (.spad s.cur.core off 0))
include ha hb hp

/-- A flag wait on a word of the own scratchpad. -/
theorem exec_fwait_own : exec (.fwait b a) s = .next (s.targets .read
      [(s.me.readX a, 8, s.targetPlace s.cur .read (s.me.readX a) 8 false false false)]
      (if s.anyPoisoned ((List.range 8).map fun i => spadKey s.cur.core (off + i)) then s.localSoft 0 (s.me.readX a)
        else if flagReached (s.spadWord s.cur.core off) (s.me.readX b).toNat then s.complete s.me
        else (s.setMyCore (s.watching off (s.me.readX b))).park .flag)) := by
  show Host.Outcome.next (s.reading [a, b] _) = _
  rw [State.reading_two ha hb]
  simp only [hp, ne_eq, not_true_eq_false, if_false]
  rfl

theorem exec_fwait_misaligned (hal : (s.me.readX a).toNat % 8 ≠ 0) : exec (.fwait b a) s = .next (s.trap 4 (s.me.readX a)) := by
  have halign : aligned (s.me.readX a) 8 = false := by rw [aligned_of_word (State.windowField_of_spad hp)]; simpa using hal
  rw [exec_fwait_own ha hb hp, State.targets_misaligned _ _ _ _ halign]
  rfl

/-- A flag wait that the checks allow: a data breakpoint comes first, then the word decides. -/
theorem exec_fwait_aligned (hal : (s.me.readX a).toNat % 8 = 0)
    (hck : s.checkSpad s.cur s.me.mode .read (s.me.readX a) s.device.toNat s.cur.core off 0 8 = true)
    (hpo : s.anyPoisoned ((List.range 8).map (spadKey s.cur.core off + ·)) = false) :
    exec (.fwait b a) s = .next (if s.me.breaks 2 (s.me.readX a) then s.trap 3 (s.me.readX a)
      else if flagReached (s.spadWord s.cur.core off) (s.me.readX b).toNat then s.complete s.me
      else (s.setMyCore (s.watching off (s.me.readX b))).park .flag) := by
  have halign : aligned (s.me.readX a) 8 = true := by rw [aligned_of_word (State.windowField_of_spad hp)]; simpa using hal
  have htarget : s.targetPlace s.cur .read (s.me.readX a) 8 false false false = some (.spad s.cur.core off 0) := by
    unfold State.targetPlace
    rw [hp]
    exact if_pos (by simpa [State.me] using hck)
  have hkeys : ((List.range 8).map fun i => spadKey s.cur.core (off + i)) = (List.range 8).map (spadKey s.cur.core off + ·) :=
    List.map_congr_left fun i _ => (Nat.add_assoc _ _ _).symm
  rw [exec_fwait_own ha hb hp, htarget, State.targets_admitted _ (bit := 2) rfl _ _ halign, hkeys, hpo, if_neg Bool.false_ne_true]

end

/-! ### Tiles (R72 to R75, R173 to R175) -/

/-- An instruction on a tile that its register names. -/
theorem State.onTile_named {s : State} {a : Reg} {rs : List Reg} {n : Fin 64} (ha : s.me.isFull a = true)
    (hrs : ∀ r ∈ rs, s.me.isFull r = true) (hn : (s.me.readX a).toNat = n.val) (f : Nat → Tile → State) :
    s.onTile a rs f = f n.val s.myCore.tiles[n] := by
  unfold State.onTile
  rw [State.reading_full (by simpa using ⟨ha, hrs⟩)]
  have htile : s.myCore.tile n.val = s.myCore.tiles[n] := by simp [Core.tile, Nat.mod_eq_of_lt n.isLt]
  simp only [hn, htile]
  exact if_neg (by omega)

theorem Core.setTile_tiles (c : Core) (n m : Fin 64) (t : Tile) :
    (c.setTile n.val t).tiles[m] = if m = n then t else c.tiles[m] := by
  unfold Core.setTile
  by_cases h : m = n
  · subst h; simp [Nat.mod_eq_of_lt m.isLt]
  · have hne : n.val % 64 ≠ m.val := by rw [Nat.mod_eq_of_lt n.isLt]; exact fun e => h (Fin.ext e.symm)
    simp [h, Vector.getElem_set_ne _ _ hne]

/-- A tile after those that drain are dropped, by whether a trigger that names it is in flight (R73). -/
def Tile.drained (inUse : Bool) (t : Tile) : Tile :=
  if t.st = .draining ∧ inUse = false then { t with st := .empty } else t

theorem Core.drainTiles_tiles (c : Core) (m : Fin 64) : c.drainTiles.tiles[m] = c.tiles[m].drained (c.tileInUse m.val) := by
  have hone (v : Vector Tile 64) (i : Fin 64) :
      (if v[i].st == .draining && !c.tileInUse i.val then v.set i { v[i] with st := .empty } else v) =
        v.set i (Tile.drained (c.tileInUse i.val) v[i]) := by
    unfold Tile.drained
    by_cases h : v[i].st = .draining ∧ c.tileInUse i.val = false
    · rw [if_pos h, if_pos (by simpa using h)]
    · rw [if_neg h, if_neg (by simpa using h)]
      exact (Vector.set_getElem_self _).symm
  unfold Core.drainTiles
  simp only [hone]
  exact getElem_foldl_set_finRange (fun (i : Fin 64) t => Tile.drained (c.tileInUse i.val) t) c.tiles m

theorem Core.drainTiles_eq (c : Core) : c.drainTiles = { c with tiles := c.drainTiles.tiles } := by
  unfold Core.drainTiles
  dsimp only

theorem Core.drainTiles_harts (c : Core) : c.drainTiles.harts = c.harts := by rw [Core.drainTiles_eq]

/-- Whether a trigger in flight names a tile, as the model has it. -/
theorem Core.tileInUse_eq (c : Core) (n : Fin 64) : c.tileInUse n.val =
    (c.mxq.any (fun q => q.macroOp.isNone && q.a.toNat % 64 == n.val)
      || c.mx.any (fun q => q.t.macroOp.isNone && q.t.a.toNat % 64 == n.val)) := by
  have h64 (x : Nat) : bits x 0 6 = x % 64 := by simp [bits]
  simp only [Core.tileInUse, h64]

theorem tileDescriptorOk_iff (d : Word) : tileDescriptorOk d = true ↔
    d.extractLsb' 0 6 = 0 ∧ d.extractLsb' 21 11 = 0 ∧ d.extractLsb' 45 19 = 0 ∧ 1 ≤ (d.extractLsb' 32 13).toNat ∧
      (d.extractLsb' 32 13).toNat ≤ 4096 ∧ (d.extractLsb' 0 18).toNat + 64 * (d.extractLsb' 32 13).toNat ≤ 0x40000 := by
  have hz {lo len : Nat} : field d lo len = 0 ↔ d.extractLsb' lo len = 0 := by
    rw [field_eq_extract]; exact ⟨fun h => BitVec.eq_of_toNat_eq h, fun h => by rw [h]; rfl⟩
  simp only [tileDescriptorOk, Bool.and_eq_true, beq_iff_eq, decide_eq_true_iff, hz, and_assoc]
  simp only [field_eq_extract]

/-- An expected count of 16 bits is 0 where the word is (R174). -/
theorem count_eq_zero {d : Word} (h : d.extractLsb' 16 48 = 0) : d.extractLsb' 0 16 = 0 ↔ d = 0 := by
  have hd := d.isLt
  have hhigh : d.toNat / 2 ^ 16 % 2 ^ 48 = 0 := by rw [← Nat.shiftRight_eq_div_pow, ← BitVec.extractLsb'_toNat, h]; rfl
  constructor
  · intro h0
    have hlow : d.toNat % 2 ^ 16 = 0 := by
      have := congrArg BitVec.toNat h0
      simpa using this
    exact BitVec.eq_of_toNat_eq (by change _ = 0; omega)
  · rintro rfl; rfl

theorem State.me_setMyCore_same {s : State} (c : Core) (h : c.harts = s.myCore.harts) : (s.setMyCore c).me = s.me := by
  rw [State.me_setMyCore, h]; rfl

/-- An instruction that leaves the harts of its core goes on as the issuing hart was. -/
theorem State.complete_same {s : State} (c : Core) (h : c.harts = s.myCore.harts) :
    (s.setMyCore c).complete (s.setMyCore c).me = (s.setMyCore c).complete s.me := by
  rw [State.me_setMyCore_same c h]

/-- Tile n of the issuing core is v after an instruction that goes on, and no other tile that does not drain is changed. -/
def setsTile (s : State) (i : Instr) (n : Fin 64) (v : Tile) : Prop :=
  ∃ t, exec i s = .next t ∧ t.me = s.me.next ∧ t = s.setMyCore t.myCore ∧
    t.myCore = { s.myCore with harts := s.myCore.harts.set s.cur.hart t.me, tiles := t.myCore.tiles } ∧
    ∀ m : Fin 64, (m = n → t.myCore.tiles[m] = v) ∧
      (m ≠ n → s.myCore.tiles[m].st ≠ .draining → t.myCore.tiles[m] = s.myCore.tiles[m])

theorem setsTile_of_exec {s : State} {i : Instr} {n : Fin 64} {v : Tile} {tiles : Vector Tile 64}
    (he : exec i s = .next ((s.setMyCore { s.myCore with tiles := tiles }).complete s.me)) (hn : tiles[n] = v)
    (ho : ∀ m : Fin 64, m ≠ n → s.myCore.tiles[m].st ≠ .draining → tiles[m] = s.myCore.tiles[m]) : setsTile s i n v := by
  rw [State.complete_setMyCore] at he
  refine ⟨_, he, ?_, ?_, ?_, fun m => ⟨?_, ?_⟩⟩
  · simp [State.me_setMyCore]
  · simp
  · simp [State.me_setMyCore]
  · rintro rfl; simpa using hn
  · simpa using ho m


section
variable {s : State} {a b : Reg} {n : Fin 64} (ha : s.me.isFull a = true) (hn : (s.me.readX a).toNat = n.val)
include ha hn

theorem exec_tdef_named (hb : s.me.isFull b = true) : exec (.tdef b a) s = .next (
    if !tileDescriptorOk (s.me.readX b) then s.operand b
    else if s.myCore.tiles[n].st ≠ .empty then s.trapCode 0x04 (BitVec.ofNat 8 n.val)
    else (s.setMyCore (s.myCore.setTile n.val { s.myCore.tiles[n] with
      base := (s.me.readX b).extractLsb' 0 18, win := (s.me.readX b).extractLsb' 18 3
      lines := (s.me.readX b).extractLsb' 32 13 })).complete s.me) := by
  show Host.Outcome.next (s.onTile a [b] _) = _
  rw [State.onTile_named ha (by simpa using hb) hn]
  dsimp only
  rw [State.complete_same (s.myCore.setTile n.val _) rfl]

theorem exec_tarm_named (hb : s.me.isFull b = true) : exec (.tarm b a) s = .next (
    if field (s.me.readX b) 16 48 ≠ 0 then s.operand b
    else if s.myCore.tiles[n].st ≠ .empty then s.trapCode 0x05 (BitVec.ofNat 8 n.val)
    else (s.setMyCore (s.myCore.setTile n.val (s.myCore.tiles[n].arm ((s.me.readX b).extractLsb' 0 16)))).complete s.me) := by
  show Host.Outcome.next (s.onTile a [b] _) = _
  rw [State.onTile_named ha (by simpa using hb) hn]
  dsimp only
  rw [State.complete_same (s.myCore.setTile n.val _) rfl]

theorem exec_trel_named : exec (.trel a) s = .next (match s.myCore.tiles[n].st with
    | .filling => s.operand a
    | .ready =>
      (s.setMyCore (s.myCore.setTile n.val { s.myCore.tiles[n] with st := .draining }).drainTiles).complete s.me
    | _ => s.complete s.me) := by
  show Host.Outcome.next (s.onTile a [] _) = _
  rw [State.onTile_named ha (by simp) hn]
  dsimp only
  rw [State.complete_same (s.myCore.setTile n.val _).drainTiles (by rw [Core.drainTiles_harts]; rfl)] <;> rfl

theorem exec_twait_named : exec (.twait a) s = .next (
    if s.myCore.tiles[n].st = .ready then s.complete s.me else s.park (.tile (BitVec.ofNat 6 n.val))) := by
  show Host.Outcome.next (s.onTile a [] _) = _
  rw [State.onTile_named ha (by simp) hn]

end

/-- Arming says by the count whether the tile fills or is ready (R73). -/
theorem Tile.arm_eq (t : Tile) {d : Word} (h : d.extractLsb' 16 48 = 0) : t.arm (d.extractLsb' 0 16) =
    if d = 0 then { t with st := .ready, arrived := 0, gen := t.gen + 1 }
    else { t with st := .filling, expect := d.extractLsb' 0 16, arrived := 0 } := by
  unfold Tile.arm
  exact if_congr (count_eq_zero h) rfl rfl

theorem setsTile_of_setTile {s : State} {i : Instr} {n : Fin 64} {v : Tile}
    (he : exec i s = .next ((s.setMyCore (s.myCore.setTile n.val v)).complete s.me)) : setsTile s i n v :=
  setsTile_of_exec (tiles := (s.myCore.setTile n.val v).tiles) he
    (by rw [Core.setTile_tiles, if_pos rfl]) fun m hm _ => by rw [Core.setTile_tiles, if_neg hm]

/-- Releasing a READY tile (R73, R174). -/
theorem setsTile_of_release {s : State} {i : Instr} {n : Fin 64}
    (he : exec i s = .next ((s.setMyCore (s.myCore.setTile n.val { s.myCore.tiles[n] with st := .draining }).drainTiles).complete
      s.me)) :
    setsTile s i n { s.myCore.tiles[n] with st := if s.myCore.tileInUse n.val then .draining else .empty } := by
  rw [Core.drainTiles_eq] at he
  refine setsTile_of_exec he ?_ ?_
  · rw [Core.drainTiles_tiles, Core.setTile_tiles, if_pos rfl]
    show Tile.drained (s.myCore.tileInUse n.val) _ = _
    unfold Tile.drained
    cases s.myCore.tileInUse n.val <;> simp
  · intro m hm hst
    rw [Core.drainTiles_tiles, Core.setTile_tiles, if_neg hm]
    exact if_neg fun h => hst h.1

/-- Settles O59. A flag wait by its word, and each tile instruction by the state of the tile that it names. -/
theorem flagAndTileInstructions : Obligations.FlagAndTileInstructions := by
  refine ⟨fun s a b off => ?_, fun s a b n => ?_⟩
  · intro addr target word reached parked ha hb hp
    refine ⟨fun hal hck hpo => ?_, fun hal => traps_of_exec (exec_fwait_misaligned ha hb hp hal) (by decide)⟩
    have he := exec_fwait_aligned ha hb hp hal hck hpo
    have hreached : flagReached (s.spadWord s.cur.core off) (s.me.readX b).toNat = true ↔ reached := flagReached_iff _ _
    refine ⟨fun hbr => ?_, fun hbr => ⟨fun hr => ?_, fun hr => ?_⟩⟩
    · rw [if_pos hbr] at he
      exact traps_of_exec he (by decide)
    · rw [if_neg (by rw [hbr]; decide), if_pos (hreached.2 hr)] at he
      exact he
    · rw [if_neg (by rw [hbr]; decide), if_neg (mt hreached.1 hr)] at he
      obtain ⟨hme, hst, hwait, hpc, hx, -⟩ := (s.setMyCore (s.watching off (s.me.readX b))).park_frame .flag
      rw [State.me_setMyCore_same (s.watching off (s.me.readX b)) rfl] at hpc hx
      have htarget : (s.me.readX b).extractLsb' 0 48 = BitVec.ofNat 48 target :=
        BitVec.eq_of_toNat_eq (by simp [target])
      refine ⟨_, he, hst, hwait, hpc, hx, State.park_mem _ _, ?_⟩
      rw [hme, State.setMe_eq, State.myCore_setMyCore, State.setMyCore_setMyCore, State.myCore_setMyCore, State.watching, htarget]
      simp [State.me_setMyCore]
  · intro c tile d described sets ha hn
    have hdesc : tileDescriptorOk d = true ↔ described := tileDescriptorOk_iff d
    have hcount : field d 16 48 = 0 ↔ d.extractLsb' 16 48 = 0 := by
      rw [field_eq_extract]; exact ⟨fun h => BitVec.eq_of_toNat_eq h, fun h => by rw [h]; rfl⟩
    refine ⟨fun hb => ?_, fun hst => ?_, fun hst => ?_, fun hst => ?_, ?_⟩
    · have hdef := exec_tdef_named ha hn hb
      have harm := exec_tarm_named ha hn hb
      refine ⟨fun hd hst => ?_, fun hd => ?_, fun hst hd => ?_, fun hst hd => ?_, fun hst hd => ?_⟩
      · rw [if_neg (by simpa using hdesc.2 hd), if_pos hst] at hdef
        exact trapsWith_of_trapCode hdef
      · rw [if_pos (by simpa using mt hdesc.1 hd)] at hdef
        exact trapsWith_of_operand hdef
      · rw [if_neg (by simpa using hdesc.2 hd), if_neg (not_not.2 hst)] at hdef
        exact setsTile_of_setTile hdef
      · rw [if_neg (by simpa using hcount.2 hd), if_neg (not_not.2 hst), Tile.arm_eq _ hd] at harm
        exact setsTile_of_setTile harm
      · rw [if_neg (by simpa using hcount.2 hd), if_pos hst] at harm
        exact trapsWith_of_trapCode harm
    · have he := exec_trel_named ha hn
      simp only [show s.myCore.tiles[n].st = .ready from hst] at he
      have := setsTile_of_release he
      rwa [Core.tileInUse_eq] at this
    · have he := exec_trel_named ha hn
      rcases hst with hst | hst
      · simp only [show s.myCore.tiles[n].st = .empty from hst] at he
        exact he
      · simp only [show s.myCore.tiles[n].st = .draining from hst] at he
        exact he
    · have he := exec_trel_named ha hn
      simp only [show s.myCore.tiles[n].st = .filling from hst] at he
      exact trapsWith_of_operand he
    · have he := exec_twait_named ha hn
      split
      · next hst =>
        rw [if_pos hst] at he
        exact he
      · next hst =>
        rw [if_neg hst] at he
        obtain ⟨hme, hpark, hwait, hpc, hx, -⟩ := s.park_frame (.tile (BitVec.ofNat 6 n.val))
        exact ⟨_, he, hme, hpark, hpc, hx, hwait⟩

end Sys2Proof.Machine
end

section
/-! SUPPORT. Scalar loads and stores that the checks allow (R68, R119, R120, R159), with the statements LoadsFillOrEmpty and
StoresWriteOrPost. -/

namespace Sys2Proof.Machine

/-! ### The checks at issue (R361, R413, R414) -/

theorem State.guarded_coreReg {s : State} {k : Kind} {a : Word} {size : Nat} {words : Bool} (perform : Place → State)
    (h : s.checkScalar s.cur k a size words = .coreReg) : s.guarded k a size words perform = s.trapCode 0x0D 0 := by
  unfold State.guarded; rw [h]

theorem State.guarded_trap {s : State} {k : Kind} {a : Word} {size c : Nat} {words : Bool} (perform : Place → State)
    (h : s.checkScalar s.cur k a size words = .trap c) : s.guarded k a size words perform = s.trap c a := by
  unfold State.guarded; rw [h]

theorem State.guarded_break {s : State} {k : Kind} {a : Word} {size : Nat} {words : Bool} {p : Place} (perform : Place → State)
    (h : s.checkScalar s.cur k a size words = .ok p) (hb : s.me.breaks k.breakBit a = true) :
    s.guarded k a size words perform = s.trap 3 a := by
  unfold State.guarded; rw [h]; exact if_pos hb

theorem State.guarded_ok {s : State} {k : Kind} {a : Word} {size : Nat} {words : Bool} {p : Place} (perform : Place → State)
    (h : s.checkScalar s.cur k a size words = .ok p) (hb : s.me.breaks k.breakBit a = false) :
    s.guarded k a size words perform = perform p := by
  unfold State.guarded; rw [h]; exact if_neg (by rw [hb]; decide)

/-- What the checks allow is the place that the address names. -/
theorem State.place_of_checkScalar {s : State} {h : HartRef} {k : Kind} {a : Word} {size : Nat} {words : Bool} {p : Place}
    (hc : s.checkScalar h k a size words = .ok p) : s.place h.core a = some p := by
  unfold State.checkScalar at hc
  dsimp only at hc
  split at hc
  · cases hc
  · generalize s.place h.core a = q at hc ⊢
    repeat' split at hc
    all_goals simp_all

/-! ### Loads and stores as checks and an access -/

section
variable {s : State} {a b : Reg} (ha : s.me.isFull a = true)
include ha

theorem exec_scalarLoad_of_full (k : LoadKind) (rd : Reg) (imm : BitVec 12) : exec (.scalarLoad k rd a imm) s =
    .next (s.guarded .read (s.me.readX a + imm.signExtend 64) (loadBytes k) true
      (s.loadPlace k rd (s.me.readX a + imm.signExtend 64))) := by
  show execScalarLoad k rd a imm s = _
  unfold execScalarLoad
  rw [Hart.firstEmpty_eq_none (by simpa using ha)]
  rfl

variable (hb : s.me.isFull b = true)
include hb

theorem exec_scalarStore_of_full (k : StoreKind) (imm : BitVec 12) (hc : s.place s.cur.core (s.me.readX a + imm.signExtend 64) ≠
    some (.coreReg 0) ∨ storeBytes k ≠ 8 ∨ s.cur.hart = 0) : exec (.scalarStore k a b imm) s =
    .next (s.guarded .write (s.me.readX a + imm.signExtend 64) (storeBytes k) true
      (s.storePlace (storeBytes k) (s.me.readX b) (s.me.readX a + imm.signExtend 64))) := by
  show execScalarStore k a b imm s = _
  unfold execScalarStore
  rw [Hart.firstEmpty_eq_none (by simpa using ⟨ha, hb⟩)]
  exact if_neg (by simp only [State.namesCorectl, Bool.and_eq_true, beq_iff_eq, Hart.address]; tauto)

/-- A hart other than hart 0 may not store to CORECTL (R41, R166). -/
theorem exec_scalarStore_corectl (imm : BitVec 12) (hp : s.place s.cur.core (s.me.readX a + imm.signExtend 64) = some (.coreReg 0))
    (hh : s.cur.hart ≠ 0) : exec (.scalarStore .sd a b imm) s = .next (s.trapCode 0x0D 0) := by
  show execScalarStore .sd a b imm s = _
  unfold execScalarStore
  rw [Hart.firstEmpty_eq_none (by simpa using ⟨ha, hb⟩)]
  have hn : s.namesCorectl (s.me.readX a + imm.signExtend 64) 8 = true := by simp [State.namesCorectl, hp]
  refine (if_pos ⟨hn, hh⟩).trans ?_
  rw [State.storeCorectl, if_neg hh]

end

/-! ### Accesses through the outbound queue (R120) -/

theorem State.orderRegister_frame (s : State) (p : Place) : (s.orderRegister p).reqs = s.reqs ∧ (s.orderRegister p).nextId = s.nextId ∧
    (s.orderRegister p).cur = s.cur ∧ ∃ l w, (s.orderRegister p).me = { s.me with holdAll := l, holdWrites := w } := by
  unfold State.orderRegister
  split
  · exact ⟨rfl, rfl, rfl, _, _, State.me_holdLater _ _ _⟩
  · exact ⟨rfl, rfl, rfl, _, _, rfl⟩

/-- An access that finds room in the outbound queue joins it, and its hart goes on. The state that issues it is one that differs from s
in no request and not in the issuing hart. -/
theorem State.sendOff_enqueued {s u : State} {r : Req} {p : Place} {clear : Hart → Hart} {a : Word} {op : ReqOp} {data : List Byte}
    {dest : Dest} (hu : u.reqs = s.reqs ∧ u.nextId = s.nextId ∧ u.msgs = s.msgs ∧ u.cur = s.cur ∧ u.me = s.me)
    (hr : r = { s.hartReq s.cur with addr := a, op := op, data := data, dest := dest }) (hop : op ≠ .arrivalOnly)
    (hclear : ∀ (v : Hart) (l w : List Nat), clear { v with holdAll := l, holdWrites := w } =
      { clear v with holdAll := l, holdWrites := w })
    (hfull : s.niFull s.cur.core = false) : let t := u.sendOff r p clear
    enqueued s t a op data dest ∧
      t.me = { (clear s.me).next with holdAll := t.me.holdAll, holdWrites := t.me.holdWrites } ∧ t.mem = u.mem := by
  obtain ⟨hreqs, hid, hmsgs, hcur, hme⟩ := hu
  have hrop : r.op = op := congrArg Req.op hr
  obtain ⟨q, he, hq, hall, -⟩ := u.issueReq_plain u.cur (by rw [hcur]; exact congrArg Req.src hr) (congrArg Req.arrival hr) (hrop ▸ hop)
  have hfull' : u.niFull u.cur.core = false := by
    rw [← hfull, hcur]; unfold State.niFull State.queuedOf; rw [hreqs]
  obtain ⟨horeqs, hoid, hocur, l, w, home⟩ := (u.addReq q).orderRegister_frame p
  have hsend : u.sendOff r p clear = ((u.addReq q).orderRegister p).complete (clear ((u.addReq q).orderRegister p).me) := by
    unfold State.sendOff
    rw [if_neg (by rw [hfull']; decide), he]
  rw [State.addReq_me, hme] at home
  have hoh : (u.hart u.cur).holdAll = s.me.holdAll := congrArg Hart.holdAll hme
  have hout (n : Nat) (hn : n ∈ s.outstanding s.me.holdAll) : n ∈ u.outstanding (u.hart u.cur).holdAll := by
    rw [hoh]; exact State.outstanding_mono (fun r hr => hreqs ▸ hr) hmsgs.symm hn
  have hq' : q = { s.hartReq s.cur with
      addr := a, op := op, data := data, dest := dest, born := q.born, waits := q.waits, after := q.after } := by
    rw [hr] at hq; exact hq
  intro t
  rw [show t = _ from hsend]
  refine ⟨⟨{ q with id := s.nextId }, ?_, ?_, rfl, congrArg Req.kind hq', congrArg Req.src hq', congrArg Req.core hq',
    congrArg Req.user hq', congrArg Req.asid hq', congrArg Req.addr hq', congrArg Req.op hq', congrArg Req.data hq',
    congrArg Req.dest hq', congrArg Req.arrival hq', congrArg Req.stage hq', fun n hn => hall n (hout n hn)⟩, ?_, ?_⟩
  · rw [State.complete_reqs, horeqs, State.addReq_reqs, hreqs, hid]
  · rw [State.complete_nextId, hoid, State.addReq_nextId, hid]
  · rw [State.me_complete, home, hclear]
    rfl
  · rw [State.complete_mem, State.orderRegister_mem]
    rfl

theorem State.sendOff_full {s u : State} {r : Req} {p : Place} {clear : Hart → Hart} (hreqs : u.reqs = s.reqs) (hcur : u.cur = s.cur)
    (hfull : s.niFull s.cur.core = true) : u.sendOff r p clear = u := by
  refine if_pos ?_
  rw [← hfull, hcur]; unfold State.niFull State.queuedOf; rw [hreqs]

/-! ### The access of a place -/

/-- A load of a place that only requests reach. -/
theorem State.loadPlace_remote (s : State) (k : LoadKind) (rd : Reg) {a : Word} {p : Place} (hp : throughNi a p) :
    s.loadPlace k rd a p = s.sendOff { s.hartReq s.cur with
      addr := a, op := .read ((scalarSpan p.win (loadBytes k)).getD 0), dest := .load rd ⟨k, BitVec.ofNat 3 p.win⟩ } p
      (·.empty rd) := by
  unfold State.loadPlace
  cases p with
  | tileTable | coreReg | watchTable => exact hp.elim
  | spad core off win => exact if_neg (by simpa [isLocal] using show field a 60 4 ≠ 8 from hp)
  | _ => rfl

theorem State.loadPlace_local (s : State) (k : LoadKind) (rd : Reg) {a : Word} (core off win : Nat) (ha : field a 60 4 = 8) :
    s.loadPlace k rd a (.spad core off win) =
      s.loadLocal rd ⟨k, BitVec.ofNat 3 win⟩ core off ((scalarSpan win (loadBytes k)).getD 0) a :=
  if_pos (by simpa [isLocal] using ha)

/-- A store to a place that only requests reach counts the events of its window and enters the queue. -/
theorem State.storePlace_remote (s : State) (size : Nat) (v : Word) {a : Word} {p : Place} (hp : throughNi a p) :
    s.storePlace size v a p = if s.niFull s.cur.core then s
      else (s.setMyCore (s.myCore.countEvents (s.storedBytes p.win size v).2)).sendOff { s.hartReq s.cur with
        addr := a, op := .write, data := (s.storedBytes p.win size v).1 } p id := by
  unfold State.storePlace
  cases p with
  | tileTable | coreReg | watchTable => exact hp.elim
  | spad core off win => exact if_neg (by simpa [isLocal] using show field a 60 4 ≠ 8 from hp)
  | _ => rfl

theorem State.storePlace_local (s : State) (size : Nat) (v : Word) {a : Word} (core off win : Nat) (ha : field a 60 4 = 8) :
    s.storePlace size v a (.spad core off win) =
      let u := (s.setMyCore (s.myCore.countEvents (s.storedBytes win size v).2)).writeSpad core off (s.storedBytes win size v).1
      u.complete u.me :=
  if_pos (by simpa [isLocal] using ha)

/-- A local load of bytes that are not poisoned fills its register. -/
theorem State.loadLocal_fills (s : State) (rd : Reg) (f : LoadForm) (core off n : Nat) (a : Word)
    (h : s.anyPoisoned ((List.range n).map fun i => spadKey core (off + i)) = false) :
    s.loadLocal rd f core off n a = s.setMe ((s.me.fill rd (loadValue (bitOf s.me.csr.compat 2) f
      (((List.range n).map fun i => spadKey core (off + i)).map (Memory.read s.mem)))).next) := by
  unfold State.loadLocal
  exact if_neg (by rw [h]; decide)

/-! ### The value of a load (R68, R159) -/

theorem Memory.readBytes_eq_map (m : List Host.Cell) (key n : Nat) :
    Memory.readBytes m key n = (List.range n).map fun i => Memory.read m (key + i) := by
  induction n generalizing key with
  | zero => rfl
  | succ n ih =>
    rw [Memory.readBytes, ih, List.range_succ_eq_map, List.map_cons, List.map_map]
    refine congrArg _ (List.map_congr_left fun i _ => congrArg _ ?_)
    show key + 1 + i = key + (i + 1)
    omega

/-- The bytes of a span of a scratchpad, read by their keys. -/
theorem Memory.map_read_spadKey (m : List Host.Cell) (core off n : Nat) :
    ((List.range n).map fun i => spadKey core (off + i)).map (Memory.read m) = Memory.readBytes m (spadKey core off) n := by
  rw [Memory.readBytes_eq_map, List.map_map]
  exact List.map_congr_left fun i _ => congrArg _ (Nat.add_assoc _ _ _).symm

/-- A value of as many bits as are kept is itself in a wider word. -/
theorem zeroExtend_ofNat_of_lt {v w : Nat} (h : v < 2 ^ w) : (BitVec.ofNat w v).zeroExtend 64 = BitVec.ofNat 64 v :=
  BitVec.eq_of_toNat_eq (by simp [Nat.mod_eq_of_lt h])

/-- What a kind of load makes of a value: the signed ones extend its sign (R159). -/
def loadExtended (k : LoadKind) (v : Nat) : Word :=
  match k with
  | .lb | .lh | .lw => (BitVec.ofNat (8 * loadBytes k) v).signExtend 64
  | .ld | .lbu | .lhu | .lwu => BitVec.ofNat 64 v

/-- Through window 0 a load takes the little-endian bytes. -/
theorem loadValue_whole (nanpay : Bool) (k : LoadKind) {b : List Byte} (hb : b.length = loadBytes k) :
    loadValue nanpay ⟨k, 0⟩ b = loadExtended k (leNat b) := by
  have hlt : leNat b < 2 ^ (8 * loadBytes k) := by
    rw [pow_mul, ← hb]; exact leNat_lt b
  cases k with
  | lbu | lhu | lwu => exact zeroExtend_ofNat_of_lt hlt
  | _ => rfl

/-- Settles O15. The checks allow the place, and the load of that place fills its register or sends a request. -/
theorem loadsFillOrEmpty : Obligations.LoadsFillOrEmpty := by
  intro s k rd a imm p ha size addr i hck hbr
  have hsize : size = loadBytes k := by cases k <;> rfl
  have he : exec i s = .next (s.loadPlace k rd addr p) := by
    rw [exec_scalarLoad_of_full ha, State.guarded_ok _ (hsize ▸ hck) hbr]
  refine ⟨?_, fun hni => ⟨fun hfull => ?_, fun hfull => ?_⟩⟩
  · intro core off win hp hsel n keys value hpo
    subst hp
    show exec i s = .next (s.setMe ((s.me.fill rd value).next))
    rw [he, State.loadPlace_local s k rd core off win hsel, ← hsize, State.loadLocal_fills _ _ _ _ _ _ _ hpo]
    congr
    by_cases hw : win = 0
    · subst hw
      have hn : (Memory.readBytes s.mem (spadKey core off) n).length = loadBytes k := by
        rw [Memory.length_readBytes, ← hsize]; rfl
      rw [Memory.map_read_spadKey]
      refine (loadValue_whole _ k hn).trans ?_
      cases k <;> rfl
    · exact (if_neg hw).symm
  · rw [he, State.loadPlace_remote _ _ _ hni, State.sendOff_full rfl rfl hfull]
  · refine ⟨_, he.trans (congrArg _ (State.loadPlace_remote _ _ _ hni)), ?_⟩
    rw [← hsize]
    exact State.sendOff_enqueued ⟨rfl, rfl, rfl, rfl, rfl⟩ rfl (by simp) (fun v l w => v.empty_withHolds l w rd) hfull

/-! ### Stores -/

theorem windowWrite_whole (c : WinCtx) (f : Fmt) (b : List Byte) : (windowWrite c 0 f b).1 = b := rfl

/-- Counting the events of a window leaves the harts of a core. -/
theorem State.me_counting (s : State) (e : Events) : (s.setMyCore (s.myCore.countEvents e)).me = s.me :=
  State.me_setMyCore_same _ rfl

/-- A write into a scratchpad changes memory, poison, the cores and the reservations of other devices alone. -/
theorem State.writeSpad_eq (s : State) (core off : Nat) (b : List Byte) : ∃ poison cores resv, s.writeSpad core off b = { s with
    mem := Memory.writeKeys s.mem (b.zipIdx.map fun (x, i) => (spadKey core off + i, x)), poison := poison, cores := cores
    foreignResv := resv } := by
  obtain ⟨poison, cores, resv, hw⟩ := s.writeKeys_eq (b.zipIdx.map fun (x, i) => (spadKey core off + i, x))
  obtain ⟨cores', he⟩ := (s.writeAt (spadKey core off) b).evalWatch_eq core
  refine ⟨poison, cores', resv, ?_⟩
  rw [State.writeSpad, he, State.writeAt, hw]

theorem State.writeSpad_reqs (s : State) (core off : Nat) (b : List Byte) : (s.writeSpad core off b).reqs = s.reqs := by
  obtain ⟨_, _, _, h⟩ := s.writeSpad_eq core off b
  rw [h]

/-- What a store to the own scratchpad leaves: its bytes, and the hart with its reservation broken or not. -/
theorem State.storeLocal_frame (s : State) {e : Events} {storedBytes : List Byte} (core off : Nat) :
    let u := (s.setMyCore (s.myCore.countEvents e)).writeSpad core off storedBytes
    let t := u.complete u.me
    t.mem = Memory.writeBytes s.mem (spadKey core off) storedBytes ∧ t.reqs = s.reqs ∧
      t.me = { s.me.next with resv := t.me.resv } := by
  intro u t
  have hcur : u.cur = s.cur := State.writeSpad_cur _ _ _ _
  have hu : u.me = { s.me with resv := u.me.resv } := by
    have h := (s.setMyCore (s.myCore.countEvents e)).hart_writeSpad core off storedBytes s.cur
    rw [show (s.setMyCore (s.myCore.countEvents e)).hart s.cur = s.me from s.me_counting e] at h
    simpa only [State.me, hcur] using h
  refine ⟨?_, ?_, ?_⟩
  · rw [State.complete_mem, State.writeSpad_mem, State.setMyCore_mem]
  · rw [State.complete_reqs, State.writeSpad_reqs, State.setMyCore_reqs]
  · rw [State.me_complete, hu]
    rfl

/-- Settles O16. The checks allow the place, and the store of that place writes it or sends a request. -/
theorem storesWriteOrPost : Obligations.StoresWriteOrPost := by
  intro s k a b imm p ha hb size addr i bytes hck hbr
  have hsize : size = storeBytes k := by cases k <;> rfl
  have hbytes (win : Nat) (h : p.win = win) : (s.storedBytes win (storeBytes k) (s.me.readX b)).1 = bytes := by
    rw [← h, ← hsize]; rfl
  have hplace : s.place s.cur.core addr = some p := State.place_of_checkScalar hck
  have he (hp : p ≠ .coreReg 0) : exec i s = .next (s.storePlace (storeBytes k) (s.me.readX b) addr p) := by
    rw [exec_scalarStore_of_full ha hb k imm (.inl (by rw [show s.place _ _ = _ from hplace]; simpa using hp)),
      State.guarded_ok _ (hsize ▸ hck) hbr]
  refine ⟨?_, fun hni => ?_⟩
  · intro core off win hp hsel
    have hex := he (by rw [hp]; simp)
    subst hp
    rw [State.storePlace_local s _ _ core off win hsel, hbytes win rfl] at hex
    obtain ⟨hmem, hreqs, hme⟩ := s.storeLocal_frame (storedBytes := bytes)
      (e := (s.storedBytes win (storeBytes k) (s.me.readX b)).2) core off
    refine ⟨_, hex, hmem, fun j hj => ?_, fun hw => ?_, hme, hreqs⟩
    · rw [hmem, Memory.read_writeBytes_other _ hj]
    · subst hw; rfl
  · have hex := he (by rintro rfl; exact hni)
    rw [State.storePlace_remote _ _ _ hni, hbytes _ rfl] at hex
    refine ⟨fun hfull => ?_, fun hfull => ?_⟩
    · rw [hex, if_pos hfull]
    · rw [if_neg (by rw [hfull]; decide)] at hex
      exact ⟨_, hex, State.sendOff_enqueued ⟨rfl, rfl, rfl, rfl, s.me_counting _⟩ rfl (by simp) (fun _ _ _ => rfl) hfull⟩

end Sys2Proof.Machine
end

section
/-! SUPPORT. The checks of an address by the place that it names (R61, R62, R64, R72, R78, R166, R361, R413, R414), with the statements
CoreTablesAndRegisters and AccessesTrap. -/

namespace Sys2Proof.Machine

/-! ### The checks by place (R64, R166, R361, R413, R414, R417) -/

/-- Whether there is a word of a size in the region of own core space at an offset (R64, R166). -/
def regionWord (region off size : Nat) : Bool :=
  match region with
  | 1 => size == 8 && off % 8 == 0 && decide (off < 0x400)
  | 2 => size == 8 && coreRegisterExists off
  | 3 => size == 8 && off % 8 == 0 && decide (off < 0x100)
  | _ => true

/-- What the checks say of a word of the tables and registers of the own core, by whether it is one of theirs (R64, R166). -/
def registerCheck (there words : Bool) (k : Kind) (p : Place) : Check :=
  if !there then .coreReg else if words then .ok p else .trap k.accessCause

section
variable {s : State} {h : HartRef} {k : Kind} {a : Word} {size : Nat} {words : Bool}

theorem State.checkScalar_tileTable {off : Nat} (hp : s.place h.core a = some (.tileTable off)) :
    s.checkScalar h k a size words = registerCheck (regionWord 1 off size) words k (.tileTable off) := by
  unfold State.checkScalar
  rw [hp]
  rfl

theorem State.checkScalar_watchTable {off : Nat} (hp : s.place h.core a = some (.watchTable off)) :
    s.checkScalar h k a size words = registerCheck (regionWord 3 off size) words k (.watchTable off) := by
  unfold State.checkScalar
  rw [hp]
  rfl

theorem State.checkScalar_coreReg {off : Nat} (hp : s.place h.core a = some (.coreReg off)) :
    s.checkScalar h k a size words = registerCheck (regionWord 2 off size) words k (.coreReg off) := by
  unfold State.checkScalar
  rw [hp]
  rfl

/-- An address that names nothing, of a region of the tables and registers that holds no such word. -/
theorem State.checkScalar_bad (hp : s.place h.core a = none) (hbad : coreRegionBad a size = true) :
    s.checkScalar h k a size words = .coreReg := by
  unfold State.checkScalar
  rw [hp, hbad]
  rfl

/-- An address that names nothing, elsewhere. -/
theorem State.checkScalar_none (hp : s.place h.core a = none) (hbad : coreRegionBad a size = false) :
    s.checkScalar h k a size words = .trap (if aligned a size then k.accessCause else k.alignCause) := by
  unfold State.checkScalar
  rw [hp, hbad]
  cases aligned a size <;> rfl

/-- A place that is none of the tables and registers is checked for alignment first. -/
theorem State.checkScalar_misaligned {p : Place} (hp : s.place h.core a = some p)
    (hreg : ∀ off, p ≠ .tileTable off ∧ p ≠ .watchTable off ∧ p ≠ .coreReg off) (hal : aligned a size = false) :
    s.checkScalar h k a size words = .trap k.alignCause := by
  unfold State.checkScalar
  rw [hp, hal]
  cases p with
  | tileTable off => exact absurd rfl (hreg off).1
  | watchTable off => exact absurd rfl (hreg off).2.1
  | coreReg off => exact absurd rfl (hreg off).2.2
  | _ => rfl

theorem State.checkScalar_virtual {va : Nat} (hp : s.place h.core a = some (.virt va)) (hal : aligned a size = true) :
    s.checkScalar h k a size words = .ok (.virt va) := by
  unfold State.checkScalar
  rw [hp, hal]
  rfl

end

theorem coreRegionBad_eq {a : Word} (size : Nat) (h : field a 60 4 = 8) :
    coreRegionBad a size = !regionWord (field a 21 3) (field a 0 18) size := by
  unfold coreRegionBad regionWord
  simp only [h, beq_self_eq_true, Bool.true_and]
  generalize field a 21 3 = region
  have hle (x n : Nat) : decide (n ≤ x) = !decide (x < n) := by rw [← decide_not]; exact decide_eq_decide.2 not_lt.symm
  split <;> simp [bne, hle]

/-- Own core space names its scratchpad in region 0, and its tables and registers in regions 1 to 3 (R64). -/
theorem State.place_own {s : State} {core : Nat} {a : Word} (h : field a 60 4 = 8) (h24 : field a 24 36 = 0) :
    s.place core a = match field a 21 3 with
      | 0 => some (.spad core (field a 0 18) (field a 18 3))
      | 1 => if field a 18 3 = 0 then some (.tileTable (field a 0 18)) else none
      | 2 => if field a 18 3 = 0 then some (.coreReg (field a 0 18)) else none
      | 3 => if field a 18 3 = 0 then some (.watchTable (field a 0 18)) else none
      | _ => none := by
  unfold State.place
  dsimp only
  rw [h, if_neg (by decide), if_pos rfl, if_neg (by simpa using h24)] <;> rfl

theorem State.place_own_reserved {s : State} {core : Nat} {a : Word} (h : field a 60 4 = 8) (h24 : field a 24 36 ≠ 0) :
    s.place core a = none := by
  unfold State.place
  dsimp only
  rw [h, if_neg (by decide), if_pos rfl, if_pos h24]

/-- A place of a region of own core space is named by its fields. -/
theorem State.fields_of_place {s : State} {core off : Nat} {a : Word} :
    (s.place core a = some (.tileTable off) → field a 60 4 = 8 ∧ field a 21 3 = 1 ∧ field a 0 18 = off) ∧
    (s.place core a = some (.coreReg off) → field a 60 4 = 8 ∧ field a 21 3 = 2 ∧ field a 0 18 = off) ∧
    (s.place core a = some (.watchTable off) → field a 60 4 = 8 ∧ field a 21 3 = 3 ∧ field a 0 18 = off) := by
  by_cases h8 : field a 60 4 = 8
  · by_cases h24 : field a 24 36 = 0
    · rw [State.place_own h8 h24]
      split
      · simp
      · split <;> simp_all
      · split <;> simp_all
      · split <;> simp_all
      · simp
    · rw [State.place_own_reserved h8 h24]
      simp
  · unfold State.place
    simp only [h8, if_false, false_and]
    split_ifs
    all_goals simp

/-- A word that no region of the tables and registers holds is refused before all other checks (R64, R414). -/
theorem State.checkScalar_absent {s : State} {h : HartRef} (k : Kind) {a : Word} {size : Nat} (words : Bool)
    (hbad : coreRegionBad a size = true) : s.checkScalar h k a size words = .coreReg := by
  have h8 : field a 60 4 = 8 := by
    unfold coreRegionBad at hbad
    simp only [Bool.and_eq_true, beq_iff_eq] at hbad
    exact hbad.1
  have hword := hbad
  rw [coreRegionBad_eq size h8, Bool.not_eq_true'] at hword
  by_cases h24 : field a 24 36 = 0
  · have hp := s.place_own (core := h.core) h8 h24
    generalize field a 21 3 = region at hp hword
    split at hp
    · simp [regionWord] at hword
    · split_ifs at hp
      · rw [State.checkScalar_tileTable hp, hword]
        rfl
      · exact State.checkScalar_bad hp hbad
    · split_ifs at hp
      · rw [State.checkScalar_coreReg hp, hword]
        rfl
      · exact State.checkScalar_bad hp hbad
    · split_ifs at hp
      · rw [State.checkScalar_watchTable hp, hword]
        rfl
      · exact State.checkScalar_bad hp hbad
    · exact State.checkScalar_bad hp hbad
  · exact State.checkScalar_bad (s.place_own_reserved h8 h24) hbad

/-- An A-extension access of a place outside virtual space and window 0 of the own scratchpad, where the place holds such a word
(R61, R417). -/
theorem State.checkScalar_atomic {s : State} {h : HartRef} (k : Kind) {a : Word} {size : Nat} {p : Place}
    (hp : s.place h.core a = some p) (hvirt : ∀ va, p ≠ .virt va) (hown : ∀ core off, p = .spad core off 0 → field a 60 4 ≠ 8)
    (hal : aligned a size = true) (hbad : coreRegionBad a size = false) :
    s.checkScalar h k a size false = .trap k.accessCause := by
  have hregion {r off : Nat} (hf : field a 60 4 = 8 ∧ field a 21 3 = r ∧ field a 0 18 = off) : regionWord r off size = true := by
    obtain ⟨h8, rfl, rfl⟩ := hf
    rwa [coreRegionBad_eq size h8, Bool.not_eq_false'] at hbad
  cases p with
  | tileTable off => rw [State.checkScalar_tileTable hp, hregion (State.fields_of_place.1 hp)]; rfl
  | coreReg off => rw [State.checkScalar_coreReg hp, hregion (State.fields_of_place.2.1 hp)]; rfl
  | watchTable off => rw [State.checkScalar_watchTable hp, hregion (State.fields_of_place.2.2 hp)]; rfl
  | virt va => exact absurd rfl (hvirt va)
  | spad core off win =>
    have hw : (field a 60 4 == 8 && win == 0) = false := by
      rcases Nat.eq_zero_or_pos win with rfl | hpos
      · simpa using hown core off rfl
      · simp [hpos.ne']
    unfold State.checkScalar
    simp [hp, hal, hw]
  | nothing =>
    unfold State.checkScalar
    simp only [hp, hal]
    cases scalarSpan (field a 18 3) size <;> rfl
  | _ =>
    unfold State.checkScalar
    simp [hp, hal]

/-! ### The tables and registers of the own core (R64, R72, R78, R166) -/

theorem loadBytes_eq_eight {k : LoadKind} : loadBytes k = 8 ↔ k = .ld := by cases k <;> decide

theorem storeBytes_eq_eight {k : StoreKind} : storeBytes k = 8 ↔ k = .sd := by cases k <;> decide

/-- No word of another size than 8 stands in the tables and registers. -/
theorem registerCheck_of_size {n off size : Nat} (hn : n = 1 ∨ n = 2 ∨ n = 3) (hs : size ≠ 8) (words : Bool) (k : Kind) (p : Place) :
    registerCheck (regionWord n off size) words k p = .coreReg := by
  have h8 : (size == 8) = false := by simpa using hs
  rcases hn with rfl | rfl | rfl <;> simp [regionWord, registerCheck, h8]

/-- An access of another size than 8 to the tables and registers. -/
theorem State.checkScalar_size {s : State} {h : HartRef} (k : Kind) {a : Word} {size : Nat} (words : Bool) {off : Nat}
    (hp : s.place h.core a ∈ [some (.tileTable off), some (.watchTable off), some (.coreReg off)]) (hs : size ≠ 8) :
    s.checkScalar h k a size words = .coreReg := by
  simp only [List.mem_cons, List.not_mem_nil, or_false] at hp
  rcases hp with hp | hp | hp
  · rw [State.checkScalar_tileTable hp]; exact registerCheck_of_size (.inl rfl) hs _ _ _
  · rw [State.checkScalar_watchTable hp]; exact registerCheck_of_size (.inr (.inr rfl)) hs _ _ _
  · rw [State.checkScalar_coreReg hp]; exact registerCheck_of_size (.inr (.inl rfl)) hs _ _ _

theorem Core.writeRegister_harts (c : Core) (off : Nat) (v : Word) (cycle : Nat) : (c.writeRegister off v cycle).harts = c.harts := by
  unfold Core.writeRegister
  split
  · rfl
  · split
    · rfl
    · unfold Core.writeFwstat; split <;> rfl
    · rfl
    · rfl

section
variable {s : State} {a b : Reg} {imm : BitVec 12} {p : Place} {there : Bool} (ha : s.me.isFull a = true) (hb : s.me.isFull b = true)
  (hck : ∀ k, s.checkScalar s.cur k (s.me.readX a + imm.signExtend 64) 8 true = registerCheck there true k p)
include ha hck

/-- A doubleword of the tables and registers is loaded at issue where it exists. -/
theorem exec_ld_register (rd : Reg) (h2 : s.me.breaks 2 (s.me.readX a + imm.signExtend 64) = false) (hthere : there = true) :
    exec (.scalarLoad .ld rd a imm) s = .next (s.loadPlace .ld rd (s.me.readX a + imm.signExtend 64) p) := by
  subst hthere
  rw [exec_scalarLoad_of_full ha]
  exact congrArg _ (State.guarded_ok _ (hck .read) h2)

theorem exec_ld_absent (rd : Reg) (hthere : there = false) : exec (.scalarLoad .ld rd a imm) s = .next (s.trapCode 0x0D 0) := by
  subst hthere
  rw [exec_scalarLoad_of_full ha]
  exact congrArg _ (State.guarded_coreReg _ (hck .read))

variable (hp : s.place s.cur.core (s.me.readX a + imm.signExtend 64) ≠ some (.coreReg 0))
include hb hp

theorem exec_sd_register (h3 : s.me.breaks 3 (s.me.readX a + imm.signExtend 64) = false) (hthere : there = true) :
    exec (.scalarStore .sd a b imm) s =
      .next (s.storePlace 8 (s.me.readX b) (s.me.readX a + imm.signExtend 64) p) := by
  subst hthere
  rw [exec_scalarStore_of_full ha hb .sd imm (.inl hp)]
  exact congrArg _ (State.guarded_ok _ (hck .write) h3)

theorem exec_sd_absent (hthere : there = false) : exec (.scalarStore .sd a b imm) s = .next (s.trapCode 0x0D 0) := by
  subst hthere
  rw [exec_scalarStore_of_full ha hb .sd imm (.inl hp)]
  exact congrArg _ (State.guarded_coreReg _ (hck .write))

end

theorem regionWord_tiles (off : Nat) : regionWord 1 off 8 = true ↔ off % 8 = 0 ∧ off < 0x400 := by simp [regionWord]

theorem regionWord_watch (off : Nat) : regionWord 3 off 8 = true ↔ off % 8 = 0 ∧ off < 0x100 := by simp [regionWord]

theorem regionWord_registers (off : Nat) : regionWord 2 off 8 = coreRegisterExists off := by simp [regionWord]

/-- Settles O17. The checks say whether there is a word, and the access reads it or performs nothing. -/
theorem coreTablesAndRegisters : Obligations.CoreTablesAndRegisters := by
  intro s rd a b imm k k' ha hb addr c absent
  have hnot {off : Nat} {p : Place} (hp : s.place s.cur.core addr = some p) (h0 : p ≠ .coreReg 0) :
      s.place s.cur.core addr ≠ some (.coreReg 0) := by rw [hp]; simpa using h0
  refine ⟨fun off hp => ⟨fun hk => ?_, fun hk => ?_⟩, fun off hp h2 h3 => ?_, fun off hp h2 h3 => ?_, fun off hp h2 h3 => ?_,
    fun hp hh => exec_scalarStore_corectl ha hb imm hp hh⟩
  · rw [exec_scalarLoad_of_full ha]
    exact congrArg _ (State.guarded_coreReg _ (State.checkScalar_size _ _ hp (mt loadBytes_eq_eight.1 hk)))
  · rw [exec_scalarStore_of_full ha hb k' imm (.inr (.inl (mt storeBytes_eq_eight.1 hk)))]
    exact congrArg _ (State.guarded_coreReg _ (State.checkScalar_size _ _ hp (mt storeBytes_eq_eight.1 hk)))
  · have hck (k : Kind) : s.checkScalar s.cur k addr 8 true = registerCheck (regionWord 1 off 8) true k (.tileTable off) :=
      State.checkScalar_tileTable hp
    have hne := hnot (off := off) hp (by simp)
    split
    · next hoff =>
      have hthere := (regionWord_tiles off).2 hoff
      refine ⟨(exec_ld_register ha hck rd h2 hthere).trans ?_, exec_sd_register ha hb hck hne h3 hthere⟩
      have hidx : off / 16 % 64 = off / 16 := by omega
      simp only [State.loadPlace, hidx]
      rfl
    · next hoff =>
      have hthere : regionWord 1 off 8 = false := Bool.eq_false_iff.2 (mt (regionWord_tiles off).1 hoff)
      exact ⟨exec_ld_absent ha hck rd hthere, exec_sd_absent ha hb hck hne hthere⟩
  · have hck (k : Kind) : s.checkScalar s.cur k addr 8 true = registerCheck (regionWord 3 off 8) true k (.watchTable off) :=
      State.checkScalar_watchTable hp
    have hne := hnot (off := off) hp (by simp)
    split
    · next hoff =>
      have hthere := (regionWord_watch off).2 hoff
      refine ⟨(exec_ld_register ha hck rd h2 hthere).trans ?_, exec_sd_register ha hb hck hne h3 hthere⟩
      have hidx : off / 16 % 16 = off / 16 := by omega
      simp only [State.loadPlace, hidx]
      rfl
    · next hoff =>
      have hthere : regionWord 3 off 8 = false := Bool.eq_false_iff.2 (mt (regionWord_watch off).1 hoff)
      exact ⟨exec_ld_absent ha hck rd hthere, exec_sd_absent ha hb hck hne hthere⟩
  · have hck (k : Kind) : s.checkScalar s.cur k addr 8 true = registerCheck (coreRegisterExists off) true k (.coreReg off) :=
      (State.checkScalar_coreReg hp).trans (by rw [regionWord_registers])
    split
    · next hthere =>
      refine ⟨exec_ld_register ha hck rd h2 hthere, fun h0 => ?_⟩
      have hst := exec_sd_register ha hb hck (hnot (off := off) hp (by simpa using h0)) h3 hthere
      refine ⟨_, hst, ?_, rfl⟩
      rw [State.storePlace, State.me_complete, State.me_setMyCore_same _ (Core.writeRegister_harts _ _ _ _)]
    · next hthere =>
      have h0 : off ≠ 0 := by rintro rfl; exact hthere rfl
      exact ⟨exec_ld_absent ha hck rd (Bool.eq_false_iff.2 hthere),
        exec_sd_absent ha hb hck (hnot (off := off) hp (by simpa using h0)) (Bool.eq_false_iff.2 hthere)⟩

/-! ### Where accesses trap (R62, R64, R361, R413, R414, R417) -/

/-- A doubleword address meets the alignment of every size (R62). -/
theorem aligned_of_doubleword {a : Word} {size : Nat} (h : a.toNat % 8 = 0) (hs : size ∣ 8) : aligned a size = true := by
  have hd : size ∣ a.toNat := hs.trans (Nat.dvd_of_mod_eq_zero h)
  have h2 : a.toNat % 2 = 0 := by omega
  unfold aligned
  split
  · simpa using Nat.mod_eq_zero_of_dvd hd
  all_goals simp [h2]

theorem State.windowField_of_virt {s : State} {core va : Nat} {a : Word} (h : s.place core a = some (.virt va)) :
    windowField a = 0 := by
  unfold State.place at h
  unfold windowField
  dsimp only at h
  generalize field a 60 4 = sel at h ⊢
  split_ifs at h <;> simp_all
  all_goals split at h <;> simp_all

/-- An instruction is an access: the checks of its address come first (R414). -/
def accesses (s : State) (i : Instr) (k : Kind) (a : Word) (size : Nat) (words : Bool) : Prop :=
  ∃ perform, exec i s = .next (s.guarded k a size words perform)

section
variable {s : State} {a b : Reg} (ha : s.me.isFull a = true)
include ha

theorem accesses_scalarLoad (k : LoadKind) (rd : Reg) : accesses s (.scalarLoad k rd a 0) .read (s.me.readX a) (loadBytes k) true := by
  have he := exec_scalarLoad_of_full ha k rd 0
  rw [show s.me.readX a + (0 : BitVec 12).signExtend 64 = s.me.readX a from BitVec.add_zero _] at he
  exact ⟨_, he⟩

theorem accesses_lr (dbl aq rl : Bool) (rd : Reg) : accesses s (.lr dbl aq rl rd a) .read (s.me.readX a) (atomBytes dbl) false := by
  refine ⟨?_, ?_⟩
  rotate_left
  · show execLr dbl aq rl rd a s = _
    unfold execLr
    rw [Hart.firstEmpty_eq_none (by simpa using ha)]

variable (hb : s.me.isFull b = true)
include hb

theorem accesses_scalarStore (k : StoreKind) (hc : s.place s.cur.core (s.me.readX a) ≠ some (.coreReg 0) ∨ storeBytes k ≠ 8) :
    accesses s (.scalarStore k a b 0) .write (s.me.readX a) (storeBytes k) true := by
  have hz : s.me.readX a + (0 : BitVec 12).signExtend 64 = s.me.readX a := BitVec.add_zero _
  have he := exec_scalarStore_of_full ha hb k 0 (by rw [hz]; tauto)
  rw [hz] at he
  exact ⟨_, he⟩

theorem accesses_amo (op : AmoOp) (dbl aq rl : Bool) (rd : Reg) :
    accesses s (.amo op dbl aq rl rd a b) .readWrite (s.me.readX a) (atomBytes dbl) false := by
  refine ⟨?_, ?_⟩
  rotate_left
  · show execAmo op dbl aq rl rd a b s = _
    unfold execAmo
    rw [Hart.firstEmpty_eq_none (by simpa using ⟨ha, hb⟩)]

theorem accesses_sc (dbl aq rl : Bool) (rd : Reg) : accesses s (.sc dbl aq rl rd a b) .write (s.me.readX a) (atomBytes dbl) false := by
  refine ⟨?_, ?_⟩
  rotate_left
  · show execSc dbl aq rl rd a b s = _
    unfold execSc
    rw [Hart.firstEmpty_eq_none (by simpa using ⟨ha, hb⟩)]

end

section
variable {s : State} {i : Instr} {k : Kind} {a : Word} {size : Nat} {words : Bool} (hi : accesses s i k a size words)
include hi

theorem traps_of_check {c : Nat} (hck : s.checkScalar s.cur k a size words = .trap c) (hc : c < 2 ^ 63) : traps i s c a := by
  obtain ⟨f, he⟩ := hi
  exact traps_of_exec (he.trans (congrArg _ (State.guarded_trap f hck))) hc

theorem trapsWith_of_check (hck : s.checkScalar s.cur k a size words = .coreReg) : trapsWith i s 0x0D 0 := by
  obtain ⟨f, he⟩ := hi
  exact trapsWith_of_trapCode (he.trans (congrArg _ (State.guarded_coreReg f hck)))

theorem traps_of_break {p : Place} (hck : s.checkScalar s.cur k a size words = .ok p) (hb : s.me.breaks k.breakBit a = true) :
    traps i s 3 a := by
  obtain ⟨f, he⟩ := hi
  exact traps_of_exec (he.trans (congrArg _ (State.guarded_break f hck hb))) (by decide)

end

/-- A misaligned address of virtual space, or of a scratchpad through window 0. -/
theorem State.checkScalar_word_misaligned {s : State} {h : HartRef} (k : Kind) {a : Word} {size va core off : Nat} (words : Bool)
    (hp : s.place h.core a ∈ [some (.virt va), some (.spad core off 0)]) (hal : a.toNat % size ≠ 0) :
    s.checkScalar h k a size words = .trap k.alignCause := by
  simp only [List.mem_cons, List.not_mem_nil, or_false] at hp
  rcases hp with hp | hp
  · exact State.checkScalar_misaligned hp (by simp) (by rw [aligned_of_word (State.windowField_of_virt hp)]; simpa using hal)
  · exact State.checkScalar_misaligned hp (by simp) (by rw [aligned_of_word (State.windowField_of_spad hp)]; simpa using hal)

theorem loadBytes_dvd (k : LoadKind) : loadBytes k ∣ 8 := by cases k <;> decide

theorem storeBytes_dvd (k : StoreKind) : storeBytes k ∣ 8 := by cases k <;> decide

theorem atomBytes_dvd (dbl : Bool) : atomBytes dbl ∣ 8 := by cases dbl <;> decide

theorem State.selector_of_virt {s : State} {core va : Nat} {a : Word} (h : s.place core a = some (.virt va)) : field a 60 4 = 0 := by
  unfold State.place at h
  dsimp only at h
  generalize field a 60 4 = sel at h ⊢
  split_ifs at h <;> simp_all
  all_goals split at h <;> simp_all

/-- Own core space names no scratchpad but the own one (R64). -/
theorem State.core_of_own {s : State} {core c off win : Nat} {a : Word} (h8 : field a 60 4 = 8)
    (h : s.place core a = some (.spad c off win)) : c = core := by
  by_cases h24 : field a 24 36 = 0
  · rw [State.place_own h8 h24] at h
    split at h
    · simp_all
    · split at h <;> simp_all
    · split at h <;> simp_all
    · split at h <;> simp_all
    · cases h
  · rw [State.place_own_reserved h8 h24] at h
    cases h

/-- An address of a region of the tables and registers that holds no word of a size there (R64, R166). -/
theorem coreRegionBad_of_absent {a : Word} {size : Nat} (h8 : a.extractLsb' 60 4 = 8)
    (h : a.extractLsb' 21 3 = 1 ∧ ¬ (size = 8 ∧ a.toNat % 8 = 0 ∧ (a.extractLsb' 0 18).toNat < 0x400) ∨
      a.extractLsb' 21 3 = 2 ∧ ¬ (size = 8 ∧ coreRegisterExists (a.extractLsb' 0 18).toNat = true) ∨
      a.extractLsb' 21 3 = 3 ∧ ¬ (size = 8 ∧ a.toNat % 8 = 0 ∧ (a.extractLsb' 0 18).toNat < 0x100)) :
    coreRegionBad a size = true := by
  have hfield {lo len n : Nat} {v : BitVec len} (he : a.extractLsb' lo len = v) (hv : v.toNat = n) : field a lo len = n := by
    rw [field_eq_extract, he, hv]
  have hoff : (a.extractLsb' 0 18).toNat = field a 0 18 := (field_eq_extract _ _ _).symm
  have hlow : a.toNat % 8 = field a 0 18 % 8 := by unfold field; omega
  rw [hoff, hlow] at h
  rw [coreRegionBad_eq size (hfield h8 rfl), Bool.not_eq_true']
  rcases h with ⟨hr, h⟩ | ⟨hr, h⟩ | ⟨hr, h⟩
  · rw [hfield hr rfl]; exact Bool.eq_false_iff.2 fun hw => h (by simpa [regionWord, and_assoc] using hw)
  · rw [hfield hr rfl]; exact Bool.eq_false_iff.2 fun hw => h (by simpa [regionWord] using hw)
  · rw [hfield hr rfl]; exact Bool.eq_false_iff.2 fun hw => h (by simpa [regionWord, and_assoc] using hw)

/-- Settles O19. Each instruction is an access, and the checks say where it traps. -/
theorem accessesTrap : Obligations.AccessesTrap := by
  intro s op dbl aq rl k k' rd a b va addr loadSize storeSize n ha hb
  have hl : loadSize = loadBytes k := by cases k <;> rfl
  have hs : storeSize = storeBytes k' := by cases k' <;> rfl
  have hn : n = atomBytes dbl := rfl
  have hload := accesses_scalarLoad ha k rd
  have hlr := accesses_lr ha dbl aq rl rd
  have hamo := accesses_amo ha hb op dbl aq rl rd
  have hsc := accesses_sc ha hb dbl aq rl rd
  rw [← hl] at hload
  rw [← hn] at hlr hamo hsc
  have hstore (hc : s.place s.cur.core addr ≠ some (.coreReg 0) ∨ storeBytes k' ≠ 8) :
      accesses s (.scalarStore k' a b 0) .write addr storeSize true := hs ▸ accesses_scalarStore ha hb k' hc
  refine ⟨fun core off hp => ⟨fun hal => ?_, fun hal => ?_, fun hal => ⟨?_, ?_, ?_⟩⟩, fun hp => ⟨fun hal hbr => ?_, fun hal hbr => ?_⟩,
    fun hp hal => ⟨fun hbad => ?_, fun hbad => ?_⟩, fun hsel hal hbad hown => ?_, ?_⟩
  · exact traps_of_check hload (State.checkScalar_word_misaligned _ _ hp hal) (by decide)
  · refine traps_of_check (hstore (.inl ?_)) (State.checkScalar_word_misaligned _ _ hp hal) (by decide)
    simp only [List.mem_cons, List.not_mem_nil, or_false] at hp
    rcases hp with hp | hp <;> rw [hp] <;> simp
  · exact traps_of_check hlr (State.checkScalar_word_misaligned _ _ hp hal) (by decide)
  · exact traps_of_check hamo (State.checkScalar_word_misaligned _ _ hp hal) (by decide)
  · exact traps_of_check hsc (State.checkScalar_word_misaligned _ _ hp hal) (by decide)
  · exact traps_of_break hload (State.checkScalar_virtual hp
      (by rw [aligned_of_word (State.windowField_of_virt hp)]; simpa using hal)) hbr
  · exact traps_of_break (hstore (.inl (by rw [hp]; simp))) (State.checkScalar_virtual hp
      (by rw [aligned_of_word (State.windowField_of_virt hp)]; simpa using hal)) hbr
  · have hck := State.checkScalar_none (h := s.cur) (k := .read) (words := true) hp hbad
    rw [if_pos (aligned_of_doubleword hal (hl ▸ loadBytes_dvd k))] at hck
    exact traps_of_check hload hck (by decide)
  · have hck := State.checkScalar_none (h := s.cur) (k := .write) (words := true) hp hbad
    rw [if_pos (aligned_of_doubleword hal (hs ▸ storeBytes_dvd k'))] at hck
    exact traps_of_check (hstore (.inl (by rw [hp]; simp))) hck (by decide)
  · have haln : aligned addr n = true := aligned_of_doubleword hal (atomBytes_dvd dbl)
    have hck (k : Kind) : s.checkScalar s.cur k addr n false = .trap k.accessCause := by
      cases hp : s.place s.cur.core addr with
      | none => rw [State.checkScalar_none hp hbad, if_pos haln]
      | some p =>
        refine State.checkScalar_atomic k hp ?_ ?_ haln hbad
        · rintro va' rfl
          exact hsel.elim (fun h => h (State.selector_of_virt hp)) (by rw [hp]; simp)
        · rintro core off rfl h8
          obtain rfl := State.core_of_own h8 hp
          exact (hown off).elim (fun h => h hp) (fun h => h h8)
    exact ⟨traps_of_check hlr (hck _) (by decide), traps_of_check hamo (hck _) (by decide), traps_of_check hsc (hck _) (by decide)⟩
  · intro absent
    have hbad {size : Nat} (h : absent size) : coreRegionBad addr size = true := coreRegionBad_of_absent h.1 h.2
    refine ⟨fun h => ?_, fun h => ?_, fun h => ?_⟩
    · exact trapsWith_of_check hload (State.checkScalar_absent _ _ (hbad h))
    · refine trapsWith_of_check (hstore (not_and_or.1 (fun hc => ?_))) (State.checkScalar_absent _ _ (hbad h))
      obtain ⟨hp, h8⟩ := hc
      have hck := State.checkScalar_absent (s := s) (h := s.cur) .write true (hbad h)
      rw [hs, h8, State.checkScalar_coreReg hp] at hck
      cases hck
    · exact ⟨trapsWith_of_check hlr (State.checkScalar_absent _ _ (hbad h)),
        trapsWith_of_check hamo (State.checkScalar_absent _ _ (hbad h)), trapsWith_of_check hsc (State.checkScalar_absent _ _ (hbad h))⟩

end Sys2Proof.Machine
end

section
/-! SUPPORT. Fences and waits (R63, R128, R161), with the statement FencesAndWaits. -/

namespace Sys2Proof.Machine

/-- The request of a fence stands for the accesses and the triggers of its hart that it waits for (R128). -/
theorem State.gather_spec (s : State) (text : Bool) : ∃ r : Req,
    (s.gather s.cur text).1.reqs = s.reqs ++ [r] ∧ r.id = s.nextId ∧ r.kind = .gather text ∧ r.after = s.me.flights.map (·.seq) ∧
      ∀ q ∈ s.reqs, q.kind = .access → q.src.hart? = some s.cur →
        (text = true → q.isWrite = true ∧ q.namesMemory = true ∧ isVirtual q.addr = true) → q.id ∈ r.waits := by
  refine ⟨_, rfl, rfl, rfl, rfl, fun q hq hk hsrc ht => ?_⟩
  refine List.mem_map.2 ⟨q, List.mem_filter.2 ⟨?_, ?_⟩, rfl⟩
  · simp [State.accessesOf, hq, hk, hsrc]
  · cases text with
    | false => rfl
    | true =>
      obtain ⟨hw, hm, hv⟩ := ht rfl
      simp [hw, hm, hv]

/-- A hart that goes on after it has added to what its later accesses wait for. -/
theorem goesOn_holdLater (s : State) (f : Hart → Hart) (l w : List Nat) {n : Nat} (hn : n ∈ l)
    (hf : ∀ h h' : List Nat, f { s.me with holdAll := h, holdWrites := h' } = { f s.me with holdAll := h, holdWrites := h' }) :
    let u := s.holdLater s.cur l w
    goesOn (u.complete (f u.me)) (f s.me) ∧ n ∈ (u.complete (f u.me)).me.holdAll := by
  intro u
  have hu : u.me = _ := s.me_holdLater l w
  unfold goesOn
  rw [State.me_complete, hu, hf]
  exact ⟨rfl, List.mem_append_right _ hn⟩

/-- An invalidation leaves for every die of the device, and later accesses wait for it (R161). -/
theorem exec_sfenceVma_of_allowed {s : State} {a b : Reg} (hm : s.me.mode = .machine ∨ s.me.mode = .supervisor ∧
      s.me.csr.mstatus.getLsbD 20 = false) (ha : s.me.isFull a = true) (hb : s.me.isFull b = true) :
    exec (.sfenceVma a b) s = .next (
      let u := (s.send (dieOf s.cur.core) (.invalidate s.cur (if a = 0 then none else some (s.me.readX a))
        (if b = 0 then none else some ((s.me.readX b).extractLsb' 0 16))
        ((List.finRange 4).filter fun d => decide (d.val < s.dieCount)))).holdLater s.cur [s.nextId] []
      u.complete { u.me with lines := [] }) := by
  have hallowed : ¬ (s.me.mode = .user ∨ (s.me.mode = .supervisor ∧ bitOf s.me.csr.mstatus 20)) := by
    rcases hm with hm | ⟨hm, hbit⟩
    · simp [hm]
    · simpa [hm, bitOf] using hbit
  show execSfenceVma a b s = _
  unfold execSfenceVma
  dsimp only
  rw [if_neg hallowed, Hart.firstEmpty_eq_none (by simpa using ⟨ha, hb⟩)]

/-- Settles O22. Each fence is one request or one message that its hart then waits for. -/
theorem fencesAndWaits : Obligations.FencesAndWaits := by
  intro s fm pred succ imm a b rd v gathers
  refine ⟨?_, ?_, fun hm ha hb => ?_, ?_⟩
  · obtain ⟨r, hreqs, hid, hkind, hafter, hwaits⟩ := s.gather_spec false
    obtain ⟨hgoes, hmem⟩ := goesOn_holdLater (s.gather s.cur false).1 id [s.nextId] []
      (n := s.nextId) List.mem_cons_self fun _ _ => rfl
    exact ⟨_, r, rfl, hreqs, ⟨hid, hkind, hafter, fun q hq hk hs _ => hwaits q hq hk hs (by simp)⟩, hgoes, hid ▸ hmem, rfl⟩
  · obtain ⟨r, hreqs, hid, hkind, hafter, hwaits⟩ := s.gather_spec true
    refine ⟨_, r, rfl, hreqs, ⟨hid, hkind, hafter, fun q hq hk hs hf => hwaits q hq hk hs fun _ => ?_⟩, ?_, rfl⟩
    · exact ⟨hf.1, hf.2.1, by simpa [isVirtual] using hf.2.2⟩
    · rw [State.me_complete, hid]
      rfl
  · have he := exec_sfenceVma_of_allowed hm ha hb
    obtain ⟨hgoes, hmem⟩ := goesOn_holdLater (s.send (dieOf s.cur.core) (.invalidate s.cur (if a = 0 then none else some (s.me.readX a))
      (if b = 0 then none else some ((s.me.readX b).extractLsb' 0 16)) ((List.finRange 4).filter fun d => decide (d.val < s.dieCount))))
      (fun v => { v with lines := [] }) [s.nextId] [] (n := s.nextId) List.mem_cons_self fun _ _ => rfl
    refine ⟨_, (List.finRange 4).filter fun d => decide (d.val < s.dieCount), he, hgoes, hmem, ?_, fun d => by simp, rfl, rfl⟩
    rw [← BitVec.setWidth_eq_extractLsb' (by decide)]
    rfl
  · have he : exec .wfi s = .next (if s.interruptPending s.cur then s.complete s.me else s.park .interrupt) := rfl
    split
    · next h => rw [he, if_pos h]; rfl
    · next h =>
      obtain ⟨hme, hst, hwait, hpc, hx, -⟩ := s.park_frame .interrupt
      rw [if_neg h] at he
      exact ⟨_, he, hme, hst, hwait, hpc, hx⟩

end Sys2Proof.Machine
end

section
/-! SUPPORT. A tile-tagged write that finds its FILLING tile without an arrival left (R73, log 90): it waits, whatever
the tile's state promises. The refutation of the statement on requests at their home. -/

namespace Sys2Proof.Machine

/-- Tile 0 of core 0 FILLING though it expects no arrival. -/
def overfullCore : Core :=
  { Core.reset with tiles := Core.reset.tiles.set 0 { Tile.reset with st := .filling } }

/-- A store of no bytes to scratchpad byte 0x40 of core 0, with an arrival at tile 0, that has come to its home. -/
def taggedStore : Req :=
  { State.reset.hartReq ⟨0, 0⟩ with
    id := 5, mapped := true, addr := 0xA000000000000040, op := .write, arrival := .tile 0xA000000000000040 0,
    stage := .sent, route := some (0, 0) }

/-- The turn of that store. -/
def overfullState : State :=
  { State.reset with arg := .request 5, reqs := [taggedStore], cores := [(0, overfullCore)] }

theorem overfullState_place :
    overfullState.place taggedStore.core taggedStore.addr = some (.spad 0 0x40 0) := by decide

theorem overfullState_locate : overfullState.locate taggedStore = .keys [] := by decide +kernel

theorem overfullState_arrivedHere : overfullState.arrivedHere taggedStore = true := by decide +kernel

theorem overfullState_coreTurn : overfullState.coreTurn 0 = true := by decide

theorem overfullState_tile : ((overfullState.core 0).tile 0).st = .filling := by decide

/-- A tagged write that finds its FILLING tile without an arrival left changes nothing (log 90). -/
theorem exec_tileArrival_of_noRoom {s : State} {r : Req} {a : Word} {i : BitVec 6} {c off win : Nat} {keys : List Nat}
    (harg : s.arg = .request r.id) (hreq : s.req? r.id = some r) (hop : r.op = .write) (harrival : r.arrival = .tile a i)
    (hhere : s.arrivedHere r = true) (hplace : s.place r.core r.addr = some (.spad c off win))
    (hkeys : s.locate r = .keys keys) (hst : ((s.core c).tile i.toNat).st = .filling) (hroom : s.tileRoom r c i = false) :
    exec .tileArrival s = .next s := by
  have hlacks : r.lacks = none := by simp [Req.lacks, Req.capability, hop, harrival, bitOf, ownCapability]
  have harrive : ∃ t, ((s.core c).tile i.toNat).arrive = .inl (some t) := by
    simp only [Tile.arrive, hst]
    split <;> exact ⟨_, rfl⟩
  obtain ⟨t, harrive⟩ := harrive
  show execTileArrival s = .next s
  simp [execTileArrival, State.actsOn, State.atHome, harg, hreq, harrival, hhere, hplace, hlacks, hkeys, harrive, hroom]

/-- Refutes O33: the clause on tile arrivals asks of the tile that it is FILLING, and not that it expects more than has arrived. With
EXPECT and ARRIVED 0 a tagged store waits (log 90), and is not answered. -/
theorem not_requestsPerform : ¬ Obligations.RequestsPerform := by
  unfold Obligations.RequestsPerform
  intro h
  obtain ⟨-, performs, -⟩ := h overfullState taggedStore [] rfl rfl rfl ⟨⟨0, 0⟩, rfl⟩
  obtain ⟨-, -, -, -, arrives⟩ := performs overfullState_arrivedHere rfl rfl overfullState_locate
    (fun k hk => absurd hk (List.not_mem_nil)) rfl
  obtain ⟨filling, -⟩ := arrives 0xA000000000000040 0 0 0x40 0 rfl rfl overfullState_place
    (by decide) overfullState_coreTurn (by decide) (by decide)
  obtain ⟨t, ht, hreqs, -⟩ := filling overfullState_tile
  rw [exec_tileArrival_of_noRoom (i := 0) rfl rfl rfl rfl overfullState_arrivedHere overfullState_place overfullState_locate
    overfullState_tile (by decide)] at ht
  cases ht
  exact absurd (congrArg (List.map Req.stage) hreqs) (by decide)

end Sys2Proof.Machine
end

section
/-! SUPPORT. Owner lookups, walks, invalidations, redirects and bounces (R84, R85, R89 to R91, R161, R390), with the statement
TranslationSteps. -/

namespace Sys2Proof.Machine

/-! ### Answers to a request of a hart -/

theorem State.answer_of_hart (s : State) {r : Req} {h : HartRef} (hsrc : r.src = .hart h) (a : Answer) :
    s.answer r a = { s with reqs := s.answered r a } := by
  unfold State.answer
  split
  · next heq => cases hsrc.symm.trans heq
  · rfl

/-- A request without a sequence number that is turned away is answered; the die may have met its source. -/
theorem State.turnAway_of_hart (s : State) {r : Req} {h : HartRef} (hsrc : r.src = .hart h) (hseq : r.seq = none) (a : Answer) :
    ∃ dies, s.turnAway r a = { s with dies := dies, reqs := s.answered r a } := by
  unfold State.turnAway
  rw [hseq]
  exact ⟨_, State.answer_of_hart _ hsrc a⟩

/-! ### Owner lookups (R85) -/

theorem ownerLookup_of_routeOf {s : State} {r : Req} {va : Nat} (hroute : s.routeOf r = none)
    (hplace : s.place r.core r.addr = some (.virt va)) : ownerLookup (s.core r.core).owners r.asid (regionOf va) = none := by
  unfold State.routeOf at hroute
  rw [hplace] at hroute
  split at hroute
  · cases hroute
  · dsimp only at hroute
    split at hroute
    · cases hroute
    · assumption

/-- The step of a request that waits for the owner of its region, whose core's cache does not know it. -/
theorem exec_ownerLookup_of_miss {s : State} {r : Req} {va : Nat} (harg : s.arg = .request r.id) (hreq : s.req? r.id = some r)
    (hkind : r.kind = .access) (hni : r.ni = true) (hst : r.stage = .queued) (hroute : s.routeOf r = none)
    (hplace : s.place r.core r.addr = some (.virt va)) (hmapped : r.mapped = true) :
    exec .ownerLookup s = .next (match s.agentOwner (dieOf r.core) r.asid va with
      | .inl code => s.answer r (walkAnswer code r.addr)
      | .inr (device, die) => s.setCore r.core { s.core r.core with
          owners := ownerInstall (s.core r.core).owners ⟨r.asid, regionOf va, device, die⟩ }) := by
  show execOwnerLookup s = _
  unfold execOwnerLookup
  rw [State.atRequest_of_arg harg]
  simp only [hreq, hst, hkind, hni, hroute, hplace, hmapped, State.ownerFor, ownerLookup_of_routeOf hroute hplace]
  cases s.agentOwner (dieOf r.core) r.asid va <;> rfl

/-! ### Walks (R84) -/

@[simp] theorem State.writeAt_reqs (s : State) (key : Nat) (b : List Byte) : (s.writeAt key b).reqs = s.reqs := by
  obtain ⟨_, _, _, h⟩ := s.writeKeys_eq (b.zipIdx.map fun (x, i) => (key + i, x))
  rw [State.writeAt, h]

/-- A walk of a home agent may mark a leaf and fill its translations: the requests stay. -/
theorem State.agentLeaf_reqs (s : State) (d : DieId) (asid : BitVec 16) (va : Nat) (n : Need) (row : Nat) :
    (s.agentLeaf d asid va n row).1.reqs = s.reqs := by
  unfold State.agentLeaf
  dsimp only
  repeat' split
  all_goals simp only [State.setDie_reqs, State.writeAt_reqs]

theorem exec_pageWalk_of_miss {s : State} {r : Req} {va : Nat} (harg : s.arg = .request r.id) (hreq : s.req? r.id = some r)
    (hhere : s.arrivedHere r = true) (hmem : r.namesMemory = true) (hplace : s.place r.core r.addr = some (.virt va))
    (hwalk : s.locate r = .walk) :
    exec .pageWalk s = .next (match s.agentLeaf r.die r.asid va r.need (clusterRow r.core) with
      | (u, .inl (.fault c)) => u.turnAway r (walkAnswer c r.addr)
      | (u, .inl (.away device die)) => u.answer r (.bounced device die.val r.parts)
      | (u, _) => u) := by
  show execPageWalk s = _
  unfold execPageWalk
  rw [State.atRequest_of_arg harg]
  simp only [hreq, hhere, hmem, hplace, hwalk, Bool.and_self] <;> rfl

/-! ### Invalidations (R84, R161) -/

theorem TlbEntry.covered_iff (e : TlbEntry) (page : Option Word) (asid : Option (BitVec 16)) :
    e.covered page asid = true ↔
      (∀ a, asid = some a → e.asid = a ∧ e.entry.getLsbD 7 = false) ∧
      (∀ a, page = some a → e.page = if e.large then a.toNat % 2 ^ 57 / 2 ^ 21 else a.toNat % 2 ^ 57 / 2 ^ 16) := by
  have global : bits e.entry.toNat 7 1 = 0 ↔ e.entry.getLsbD 7 = false := by
    rw [bits, BitVec.getLsbD, Nat.testBit_eq_decide_div_mod_eq, decide_eq_false_iff_not]
    omega
  cases asid <;> cases page <;> simp [TlbEntry.covered, global]

theorem exec_tlbInvalidation_of_turn {s : State} {n : Nat} {d : DieId} {h : HartRef} {page : Option Word}
    {asid : Option (BitVec 16)} {dies : List DieId} (harg : s.arg = .requestAt n d)
    (hmsg : s.msg? n = some (.invalidate h page asid dies)) (hd : d ∈ dies) (hopen : s.routeOpen (s.msgDie n) d = true) :
    exec .tlbInvalidation s = .next { s.setDie d { s.die d with tlb := (s.die d).tlb.filter fun t => !t.covered page asid } with
      msgs := s.msgs.map fun m => if m.id = n then { m with body := .invalidate h page asid (dies.filter (· != d)) } else m } := by
  show execTlbInvalidation s = _
  unfold execTlbInvalidation
  rw [harg]
  dsimp only
  rw [hmsg]
  dsimp only
  rw [if_pos ⟨List.contains_iff_mem.2 hd, hopen⟩]
  rfl

/-! ### Redirects and bounces (R89 to R91) -/

theorem State.owners_learnOwner (s : State) (core : Nat) (e : OwnerEntry) :
    ((s.learnOwner core e).core core).owners = ownerInstall (s.core core).owners e := by
  rw [State.learnOwner]
  simp only [State.core_setCore_same]

theorem exec_redirectArrival_of_turn {s : State} {n core device : Nat} {asid : BitVec 16} {region : BitVec 36} {die : DieId}
    (harg : s.arg = .request n) (hmsg : s.msg? n = some (.redirect core asid region device die))
    (hopen : s.routeOpen (s.msgDie n) (dieOf core) = true) :
    exec .redirectArrival s = .next ((s.dropMsg n).learnOwner core ⟨asid, region, device, die⟩) := by
  show execRedirectArrival s = _
  unfold execRedirectArrival
  rw [State.atRequest_of_arg harg]
  simp only [hmsg, hopen, if_true]

theorem exec_bounceArrival_of_hart {s : State} {r : Req} {h : HartRef} {device die : Nat} {parts : List (Nat × List Byte)}
    (harg : s.arg = .request r.id) (hreq : s.req? r.id = some r) (hsrc : r.src = .hart h) (hni : r.ni = true)
    (hst : r.stage = .answered (.bounced device die parts)) :
    exec .bounceArrival s = .next ((s.setReq { r with stage := .queued, hops := 0, route := none, parts := parts }).learnOwner
      r.core ⟨r.asid, regionOf r.addr.toNat, device, Fin.ofNat 4 die⟩) := by
  show execBounceArrival s = _
  unfold execBounceArrival
  rw [State.atRequest_of_arg harg]
  simp only [hreq, hst, hsrc, hni, if_true]

/-! ### The statement -/

/-- Settles O35: each step has its equation, of which the clauses read the fields they name. -/
theorem translationSteps : Obligations.TranslationSteps := by
  unfold Obligations.TranslationSteps
  intro s n r
  dsimp only
  refine ⟨?_, ?_, ?_, ?_, ?_, ?_⟩
  · rintro va ⟨harg, hreq, hkind, h, hsrc⟩ hni hst hroute hplace hmapped
    have hexec := exec_ownerLookup_of_miss harg hreq hkind hni hst hroute hplace hmapped
    refine ⟨fun device die hw => ?_, fun die hw => ?_, fun code hcode hw => ?_, fun hw _ => ?_⟩
    all_goals rw [State.agentOwner, hw] at hexec
    · exact ⟨_, hexec, rfl, rfl, State.core_setCore_same _ _ _⟩
    · exact ⟨_, hexec, rfl, rfl, State.core_setCore_same _ _ _⟩
    · refine ⟨_, hexec, ?_⟩
      show (s.answer r (walkAnswer code r.addr)).reqs = _
      rw [walkAnswer, if_neg (show code ≠ cHomeSoft from hcode), State.answer_of_hart s hsrc]
      rfl
    · refine ⟨_, hexec, ?_⟩
      show (s.answer r (walkAnswer cHomeSoft r.addr)).reqs = _
      rw [walkAnswer, if_pos rfl, State.answer_of_hart s hsrc]
      rfl
  · rintro va u x ⟨harg, hreq, hkind, h, hsrc⟩ hhere hmem hplace hwalk hseq hleaf
    have hexec := exec_pageWalk_of_miss harg hreq hhere hmem hplace hwalk
    have hreqs : u.reqs = s.reqs := by rw [← s.agentLeaf_reqs r.die r.asid va r.need (clusterRow r.core), hleaf]
    rw [hleaf] at hexec
    refine ⟨_, hexec, ?_⟩
    match x with
    | .inl (.fault c) =>
      obtain ⟨dies, hturned⟩ := u.turnAway_of_hart hsrc hseq (walkAnswer c r.addr)
      refine ⟨u.turnAway_mem _ _, ?_⟩
      show (u.turnAway r (walkAnswer c r.addr)).reqs = _
      rw [hturned, ← hreqs]
      rfl
    | .inl (.away device die) =>
      refine ⟨u.answer_mem _ _, ?_⟩
      show (u.answer r (.bounced device die.val r.parts)).reqs = _
      rw [State.answer_of_hart u hsrc, ← hreqs]
      rfl
    | .inl (.keys _) => exact ⟨rfl, hreqs⟩
    | .inr _ => exact ⟨rfl, hreqs⟩
  · intro d h page asid dies harg hmsg hd hopen
    refine ⟨_, exec_tlbInvalidation_of_turn harg hmsg hd hopen, rfl, fun e => ?_, ?_⟩
    · have htlb : ({ s.setDie d { s.die d with tlb := (s.die d).tlb.filter fun t => !t.covered page asid } with
          msgs := s.msgs.map fun m => if m.id = n then { m with body := .invalidate h page asid (dies.filter (· != d)) } else m }
          : State).die d = { s.die d with tlb := (s.die d).tlb.filter fun t => !t.covered page asid } := State.die_setDie_same _ _ _
      rw [htlb, List.mem_filter, Bool.not_eq_true', ← Bool.not_eq_true, TlbEntry.covered_iff]
    · simp only [bne, decide_not]
      rfl
  · intro h page asid harg hmsg
    refine ⟨s.dropMsg n, ?_, rfl, rfl, rfl⟩
    show execSfenceVmaComplete s = _
    rw [execSfenceVmaComplete, State.atRequest_of_arg harg, hmsg]
  · intro core asid region device die harg hmsg hopen
    exact ⟨_, exec_redirectArrival_of_turn harg hmsg hopen, rfl, rfl, rfl, State.owners_learnOwner _ _ _⟩
  · rintro device die parts ⟨harg, hreq, hkind, h, hsrc⟩ hni hst -
    refine ⟨_, exec_bounceArrival_of_hart harg hreq hsrc hni hst, rfl, ?_, rfl⟩
    rw [State.owners_learnOwner, regionOf_eq_extract]
    rfl

end Sys2Proof.Machine
end

section
/-! SUPPORT. Ownership transfer, doorplates, map updates and flush markers (R86 to R92, R187, R312, R434), with the statement
OwnershipSteps. -/

namespace Sys2Proof.Machine

/-! ### Folds over steps -/

/-- A fold in which one element brings about what every step keeps has brought it about. -/
theorem foldl_establishes {σ α : Type} {P : σ → Prop} {f : σ → α → σ} {a : α} (hset : ∀ s, P (f s a))
    (hkeep : ∀ s b, P s → P (f s b)) {l : List α} (ha : a ∈ l) (s : σ) : P (l.foldl f s) := by
  have keeps : ∀ (l : List α) (s : σ), P s → P (l.foldl f s) := by
    intro l
    induction l with
    | nil => exact fun s hs => hs
    | cons b l ih => exact fun s hs => ih _ (hkeep s b hs)
  induction l generalizing s with
  | nil => cases ha
  | cons b l ih =>
    rcases List.mem_cons.1 ha with rfl | ha
    · exact keeps l _ (hset s)
    · exact ih ha _

theorem foldl_preserves {σ α : Type} {P : σ → Prop} {f : σ → α → σ} (hkeep : ∀ s b, P s → P (f s b)) (l : List α) {s : σ}
    (hs : P s) : P (l.foldl f s) := by
  induction l generalizing s with
  | nil => exact hs
  | cons b l ih => exact ih (hkeep s b hs)

theorem mem_of_tableGet {α : Type} {l : List (Nat × α)} {k : Nat} {v : α} (h : tableGet l k = some v) : (k, v) ∈ l := by
  induction l with
  | nil => cases h
  | cons p l ih =>
    obtain ⟨a, w⟩ := p
    rw [tableGet] at h
    split at h
    · next hk =>
      cases h
      rw [hk]
      exact List.mem_cons_self
    · exact List.mem_cons_of_mem _ (ih h)

/-! ### What the operations of the fabric change -/

theorem State.sendNumbered_eq (s : State) (device : Nat) (m : FabricMsg) : ∃ ports out next sent,
    s.sendNumbered device m = { s with ports := ports, fabricOut := out, vc2Next := next, vc2Sent := sent } := by
  unfold State.sendNumbered
  dsimp only
  split <;> exact ⟨_, _, _, _, rfl⟩

/-- A message into the fabric changes what the ports hold alone. -/
theorem State.toFabric_eq (s : State) (x : DieId) (device : Nat) (m : FabricMsg) : ∃ ports out next sent sprayed held,
    s.toFabric x device m = { s with
      ports := ports, fabricOut := out, vc2Next := next, vc2Sent := sent, sprayed := sprayed, txHeld := held } := by
  obtain ⟨ports, out, next, sent, hnumbered⟩ := s.sendNumbered_eq device m
  unfold State.toFabric
  split
  · split
    · exact ⟨_, _, _, _, _, _, hnumbered⟩
    · exact ⟨_, _, _, _, _, _, rfl⟩
  · split
    · exact ⟨_, _, _, _, _, _, rfl⟩
    · split
      · exact ⟨_, _, _, _, _, _, hnumbered⟩
      · exact ⟨_, _, _, _, _, _, hnumbered⟩
      · exact ⟨_, _, _, _, _, _, rfl⟩
      · exact ⟨_, _, _, _, _, _, rfl⟩

section
variable (s : State) (x : DieId) (device : Nat) (m : FabricMsg)

@[simp] theorem State.toFabric_dies : (s.toFabric x device m).dies = s.dies := by
  obtain ⟨_, _, _, _, _, _, h⟩ := s.toFabric_eq x device m
  rw [h]

@[simp] theorem State.toFabric_cores : (s.toFabric x device m).cores = s.cores := by
  obtain ⟨_, _, _, _, _, _, h⟩ := s.toFabric_eq x device m
  rw [h]

@[simp] theorem State.toFabric_reqs : (s.toFabric x device m).reqs = s.reqs := by
  obtain ⟨_, _, _, _, _, _, h⟩ := s.toFabric_eq x device m
  rw [h]

@[simp] theorem State.toFabric_msgs : (s.toFabric x device m).msgs = s.msgs := by
  obtain ⟨_, _, _, _, _, _, h⟩ := s.toFabric_eq x device m
  rw [h]

@[simp] theorem State.toFabric_markers : (s.toFabric x device m).markers = s.markers := by
  obtain ⟨_, _, _, _, _, _, h⟩ := s.toFabric_eq x device m
  rw [h]
end

/-- While no die's clock is halted every way over the mesh is open (R305, R317). -/
theorem State.routeOpen_of_running {s : State} (h : ∀ y : DieId, (s.die y).halted = false) (x y : DieId) : s.routeOpen x y = true := by
  simp [State.routeOpen, h]

/-- A message whose path is open departs in a flit, unless it is one of VC 2 (R308, R311). -/
theorem State.toFabric_departs {s : State} {x : DieId} {device p : Nat} {m : FabricMsg} (hpath : s.pathFor device m = some p)
    (hopen : ∀ y : DieId, s.routeOpen x y = true) (hch : fabricChannel m ≠ 2) :
    ∃ out ∈ (s.toFabric x device m).fabricOut, out.device = device ∧ out.msg = m := by
  unfold State.toFabric
  rw [hpath]
  dsimp only
  rw [if_neg (by simp [hopen])]
  split
  · exact absurd rfl hch
  · exact absurd rfl hch
  · exact absurd rfl hch
  · exact ⟨_, List.mem_cons_self, rfl, rfl⟩

/-! ### What an answer and a fault record leave -/

@[simp] theorem State.answer_dies (s : State) (r : Req) (a : Answer) : (s.answer r a).dies = s.dies := by
  unfold State.answer
  split
  · split
    · dsimp only
      split <;> rfl
    · exact State.toFabric_dies _ _ _ _
  · rfl

@[simp] theorem State.raise_fabricOut (s : State) (d : DieId) (f : FaultRec) : (s.raise d f).fabricOut = s.fabricOut := by
  obtain ⟨_, _, h⟩ := s.raise_eq d f
  rw [h]

@[simp] theorem State.setStub_fabricOut (s : State) (d : DieId) (i : Nat) (t : Stub) : (s.setStub d i t).fabricOut = s.fabricOut := rfl

@[simp] theorem State.stub_setStub (s : State) (d : DieId) (i : Nat) (t : Stub) :
    tableGet ((s.setStub d i t).die d).stubs i = some t := by
  simp [State.setStub]

/-! ### Requests for ownership (R87, R187) -/

theorem State.newOwner_of_hart (s : State) {r : Req} {h : HartRef} (hsrc : r.src = .hart h) : s.newOwner r = s.device.toNat := by
  unfold State.newOwner
  split
  · next heq => cases hsrc.symm.trans heq
  · rfl

theorem State.newOwner_of_foreign (s : State) {r : Req} {x c tag : Nat} {h : HartId} (hsrc : r.src = .foreign x c h tag) :
    s.newOwner r = x := by
  rw [State.newOwner, hsrc]

section
variable {s : State} {r : Req} {desc : Word} {va : Nat} {die : DieId}
  (harg : s.arg = .request r.id) (hreq : s.req? r.id = some r) (hhere : s.arrivedHere r = true) (hop : r.op = .own desc)
  (hplace : s.place r.core r.addr = some (.virt va)) (hmapped : r.mapped = true)
  (hstub : stubFor (s.die r.die).stubs r.asid (regionOf va) = none) (hwalk : s.walk r.die true r.asid va = .home die)
include harg hreq hhere hop hplace hmapped hstub hwalk

/-- The owner answers the request of its own device (R187). -/
theorem exec_ownRequestArrival_own (hown : s.newOwner r = s.device.toNat) :
    exec .ownRequestArrival s = .next (s.answer r (.done (leBytes 1 8))) := by
  show execOwnRequestArrival s = _
  rw [execOwnRequestArrival, State.atRequest_of_arg harg]
  simp [hreq, hhere, hop, hplace, hmapped, hstub, hwalk, hown]

/-- The owner takes the request of another device, for which it has a stub free (R87). -/
theorem exec_ownRequestArrival_other {i : Nat} (hown : s.newOwner r ≠ s.device.toNat) (hseq : r.seq = none) (hdie : die = r.die)
    (hleaves : ∃ l ∈ s.chunkLeaves r.die r.asid (regionOf va), l ≠ none) (hfree : s.freeStub r.die = some i) :
    exec .ownRequestArrival s = .next (s.startCopy r desc va i (s.chunkLeaves r.die r.asid (regionOf va))) := by
  have hsome : (s.chunkLeaves r.die r.asid (regionOf va)).all Option.isNone = false := by
    obtain ⟨l, hl, hne⟩ := hleaves
    rw [List.all_eq_false]
    exact ⟨l, hl, by simpa [Option.isNone_iff_eq_none] using hne⟩
  show execOwnRequestArrival s = _
  rw [execOwnRequestArrival, State.atRequest_of_arg harg]
  simp [hreq, hhere, hop, hplace, hmapped, hstub, hwalk, hown, hdie, hsome, hfree, State.deduped, hseq]
end

theorem State.stub_startCopy (s : State) (r : Req) (desc : Word) (va i : Nat) (leaves : List (Option (Nat × Bool))) :
    tableGet ((s.startCopy r desc va i leaves).die r.die).stubs i = some ⟨.copying, false, 0, regionOf va, r.asid,
      BitVec.ofNat 13 (s.newOwner r), desc.extractLsb' 21 2, 0, 0, 0, some r.id, false⟩ := by
  have hdies : (s.startCopy r desc va i leaves).dies = (s.setStub r.die i ⟨.copying, false, 0, regionOf va, r.asid,
      BitVec.ofNat 13 (s.newOwner r), desc.extractLsb' 21 2, 0, 0, 0, some r.id, false⟩).dies := by
    unfold State.startCopy
    dsimp only
    split
    · exact State.toFabric_dies _ _ _ _
    · rfl
  rw [State.die, hdies]
  exact State.stub_setStub _ _ _ _

/-! ### Copies of chunks (R87) -/

/-- A byte as a leaf gives it: 0 where its stack is not attached (R377). -/
def State.leafByte (s : State) (leaf : Nat × Bool) (va : Nat) : Byte :=
  let (x, p) := leafPlace leaf.1 leaf.2 va
  if s.stackAttached x (channelOf leaf.1 p) = true then Memory.read s.mem (x * 2 ^ 40 + p) else 0

theorem State.copyChunk_data (s : State) (d : DieId) (asid : BitVec 16) (region : BitVec 36) (n : Nat) :
    (s.copyChunk d asid region n).1 = match s.chunkLeaf d asid (region.toNat * 2 ^ 21 + n * 2 ^ 16) with
      | some leaf => (List.range 65536).map fun k => s.leafByte leaf (region.toNat * 2 ^ 21 + n * 2 ^ 16 + k)
      | none => List.replicate 65536 0 := by
  unfold State.copyChunk
  rw [show (65536 : Nat) = 2 ^ 16 by norm_num]
  dsimp only
  cases s.chunkLeaf d asid (region.toNat * 2 ^ 21 + n * 2 ^ 16) with
  | none => rfl
  | some leaf =>
    dsimp only
    rw [List.map_map]
    refine List.map_congr_left fun k _ => ?_
    simp only [Function.comp, State.leafByte]
    by_cases attached : s.stackAttached (leafPlace leaf.1 leaf.2 (region.toNat * 2 ^ 21 + n * 2 ^ 16 + k)).1
        (channelOf leaf.1 (leafPlace leaf.1 leaf.2 (region.toNat * 2 ^ 21 + n * 2 ^ 16 + k)).2) = true
    · rw [if_pos attached, if_pos attached]
      rfl
    · rw [if_neg attached, if_neg attached]

/-- The step that sends the next chunk of a region that is being copied, down a live path. -/
theorem exec_chunkCopy_of_turn {s : State} {d : DieId} {i : Nat} {stub : Stub} (harg : s.arg = .stub d i)
    (hstub : tableGet (s.die d).stubs i = some stub) (hst : stub.st = .copying) (hsending : stub.sending = false)
    (hlive : s.livePaths stub.ndev.toNat ≠ []) (hrun : (s.die d).halted = false) :
    ∃ bad t, exec .chunkCopy s = .next t ∧ t.mem = s.mem ∧ tableGet (t.die d).stubs i = some { stub with sending := true } ∧
      t.fabricOut = (s.toFabric d stub.ndev.toNat (.chunk stub.asid stub.region stub.copied.toNat
        (s.copyChunk d stub.asid stub.region stub.copied.toNat).1 bad)).fabricOut := by
  rcases hc : s.copyChunk d stub.asid stub.region stub.copied.toNat with ⟨data, bad, absent⟩
  refine ⟨bad, ?_, ?exec, ?mem, ?stub, ?out⟩
  case exec =>
    show execChunkCopy s = _
    unfold execChunkCopy
    rw [harg]
    dsimp only
    rw [hstub]
    dsimp only
    rw [if_neg (by simp [hst, hsending, hlive, hrun]), hc]
  case stub => exact State.stub_setStub _ _ _ _
  case mem => split <;> split <;> simp
  case out => split <;> split <;> simp

/-! ### The end of a copy (R88) -/

/-- The copied chunk belongs to the first die that has a stub of the region. -/
theorem findSome?_finRange_four {β : Type} {f : DieId → Option β} {d : DieId} {y : β} (hd : f d = some y)
    (hbelow : ∀ x : DieId, x < d → f x = none) : (List.finRange 4).findSome? f = some y := by
  rw [show List.finRange 4 = (List.finRange 4).take d.val ++ d :: (List.finRange 4).drop (d.val + 1) by clear hd hbelow; revert d; decide,
    List.findSome?_append, List.findSome?_eq_none_iff.2, Option.none_or, List.findSome?_cons, hd]
  intro x hx
  refine hbelow x ?_
  obtain ⟨i, hi, rfl⟩ := List.mem_take_iff_getElem.1 hx
  simp only [List.getElem_finRange]
  exact Fin.lt_def.2 (by simp at hi ⊢; omega)

/-- With the last chunk the dies are left as the stub is set, whatever else the end of a copy does. -/
theorem State.finishCopy_dies (s : State) (d : DieId) (i : Nat) (t : Stub) : ∃ (u : State) (acks : BitVec 13) (last : BitVec 36),
    (s.finishCopy d i t).dies = (u.setStub d i { t with
      st := .forwarding, copied := 0, acks := acks, lastFwd := last, fwdAt := u.refTime, sending := false }).dies := by
  have sends : ∀ (own : Nat) (l : List Nat) (v : State), (l.foldl (fun (s : State) (x : Nat) =>
      if x = own then s.send d (.mapUpdate t.asid t.region t.ndev.toNat (Fin.ofNat 4 t.ndie.toNat) own d i)
      else s.toFabric d x (.mapUpdate t.asid t.region t.ndev.toNat t.ndie.toNat own d.val i)) v).dies = v.dies := by
    intro own l v
    refine foldl_keeps State.dies _ (fun s x => ?_) l v
    split <;> simp
  unfold State.finishCopy
  dsimp only
  split
  · split
    · exact ⟨_, _, _, (State.toFabric_dies _ _ _ _).trans (sends _ _ _)⟩
    · exact ⟨_, _, _, (State.answer_dies _ _ _).trans (sends _ _ _)⟩
  · exact ⟨_, _, _, sends _ _ _⟩

/-- As the last chunk is copied its stub forwards, to the same place (R88). -/
theorem State.stub_finishCopy (s : State) (d : DieId) (i : Nat) (t : Stub) : ∃ p,
    tableGet ((s.finishCopy d i t).die d).stubs i = some p ∧ p.st = .forwarding ∧ p.copied = 0 ∧ p.ndev = t.ndev ∧ p.ndie = t.ndie := by
  obtain ⟨u, acks, last, hdies⟩ := s.finishCopy_dies d i t
  rw [State.die, hdies]
  exact ⟨_, State.stub_setStub u d i _, rfl, rfl, rfl, rfl⟩

/-- A chunk that the new owner holds counts, unless it is the last (R87). -/
theorem State.chunkCopied_of_turn {s : State} {d : DieId} {i : Nat} {stub : Stub}
    (hfor : stubFor (s.die d).stubs stub.asid stub.region = some (i, stub))
    (hbelow : ∀ x : DieId, x < d → stubFor (s.die x).stubs stub.asid stub.region = none) (hst : stub.st = .copying)
    (hsending : stub.sending = true) : s.chunkCopied stub.asid stub.region stub.copied.toNat =
      if stub.copied = 31 then s.finishCopy d i stub
      else s.setStub d i { stub with copied := stub.copied + 1, sending := false } := by
  have hat : ((List.finRange 4).findSome? fun (d : DieId) =>
      (stubFor (s.die d).stubs stub.asid stub.region).map fun x => (d, x)) = some (d, i, stub) :=
    findSome?_finRange_four (by rw [hfor]; rfl) fun x hx => by rw [hbelow x hx]; rfl
  have hlast : stub.copied.toNat = 31 ↔ stub.copied = 31 := by bv_omega
  unfold State.chunkCopied
  rw [hat]
  simp [hst, hsending, hlast]

/-! ### Doorplates (R89) -/

theorem State.countForward_eq (s : State) (d : DieId) (asid : BitVec 16) (region : BitVec 36) :
    ∃ dies, s.countForward d asid region = { s with dies := dies } := by
  unfold State.countForward
  split <;> exact ⟨_, rfl⟩

/-- What a hart's request at a doorplate teaches its NI. -/
theorem State.teach_of_hart (s : State) {r : Req} {h : HartRef} (hsrc : r.src = .hart h) (asid : BitVec 16) (region : BitVec 36)
    (device : Nat) (die : DieId) : s.teach r asid region device die =
      if r.ni then s.send r.die (.redirect r.core asid region device die) else s := by
  unfold State.teach
  split
  · next heq => cases hsrc.symm.trans heq
  · rfl

/-- What a doorplate does before it sends a request on: it counts the forward and teaches, where it does. -/
def State.doorplated (s : State) (r : Req) (va : Nat) (die : DieId) (teach : Bool) : State :=
  if teach then (s.countForward r.die r.asid (regionOf va)).teach r r.asid (regionOf va) s.device.toNat die else s

theorem State.doorplated_eq (s : State) {r : Req} {h : HartRef} (hsrc : r.src = .hart h) (va : Nat) (die : DieId) (teach : Bool) :
    ∃ dies msgs next, s.doorplated r va die teach = { s with dies := dies, msgs := msgs, nextId := next } ∧
      (teach = true → r.ni = true → ∃ m ∈ msgs, m.body = .redirect r.core r.asid (regionOf va) s.device.toNat die) := by
  unfold State.doorplated
  obtain ⟨dies, hcount⟩ := s.countForward_eq r.die r.asid (regionOf va)
  rw [State.teach_of_hart _ hsrc, hcount]
  cases teach with
  | false => exact ⟨_, _, _, rfl, nofun⟩
  | true => cases hni : r.ni with
    | false => exact ⟨_, _, _, rfl, nofun⟩
    | true => exact ⟨_, _, _, rfl, fun _ _ => ⟨_, List.mem_append_right _ (List.mem_singleton.2 rfl), rfl⟩⟩

theorem State.launch_home (s : State) (r : Req) (die : DieId) : s.launch r s.device.toNat die = { s with
    sends := s.sends + 1
    reqs := s.reqs.map fun q => if q.id = r.id then
      { r with stage := .sent, route := some (s.device.toNat, die.val), sentAt := s.time, sentNo := s.sends } else q } := by
  unfold State.launch
  exact if_pos rfl

section
variable {s : State} {r : Req} {k va : Nat} {die : DieId} {teach : Bool} (harg : s.arg = .request r.id) (hreq : s.req? r.id = some r)
  (hhere : s.arrivedHere r = true) (hop : r.op = .read k) (hplace : s.place r.core r.addr = some (.virt va))
  (hregion : s.regionState r.die r.asid va = some (.forward s.device.toNat die teach))
include harg hreq hhere hop hplace hregion

/-- A doorplate sends a read on to a die of this device. -/
theorem exec_doorplateForward_on (hhops : r.hops < 3) : exec .doorplateForward s = .next
    ((s.doorplated r va die teach).launch { r with hops := r.hops + 1 } s.device.toNat die) := by
  show execDoorplateForward s = _
  rw [execDoorplateForward, State.atRequest_of_arg harg]
  simp [hreq, hhere, hop, hplace, hregion, hhops, State.portOpen, State.doorplated]

/-- After three hops it bounces the read (R392). -/
theorem exec_doorplateForward_back (hhops : 3 ≤ r.hops) : exec .doorplateForward s = .next
    (s.answer r (.bounced s.device.toNat die.val r.parts)) := by
  show execDoorplateForward s = _
  rw [execDoorplateForward, State.atRequest_of_arg harg]
  simp [hreq, hhere, hop, hplace, hregion, hhops]
end

/-! ### Map updates (R90) -/

/-- A list of owners knows none of a region. -/
def knowsNone (asid : BitVec 16) (region : BitVec 36) (l : List OwnerEntry) : Prop :=
  ∀ e ∈ l, ¬ (e.asid = asid ∧ e.region = region)

theorem knowsNone_ownerDrop (asid : BitVec 16) (region : BitVec 36) (l : List OwnerEntry) :
    knowsNone asid region (ownerDrop l asid region) := fun _ he => (mem_ownerDrop.1 he).2

theorem knowsNone_of_ownerLookup {asid : BitVec 16} {region : BitVec 36} {l : List OwnerEntry}
    (h : ownerLookup l asid region = none) : knowsNone asid region l := by
  intro e he
  have := List.find?_eq_none.1 h e he
  simpa using this

theorem State.updateMap_eq (s : State) (d : DieId) (asid : BitVec 16) (region : BitVec 36) (device : Nat) (die : DieId) :
    ∃ mem poison cores resv dies, s.updateMap d asid region device die = { s with
      mem := mem, poison := poison, cores := cores, foreignResv := resv, dies := dies } := by
  have written : ∀ key, ∃ mem poison cores resv, s.writeAt key (leBytes (remoteEntry device die.val) 16) = { s with
      mem := mem, poison := poison, cores := cores, foreignResv := resv } := by
    intro key
    obtain ⟨poison, cores, resv, h⟩ :=
      s.writeKeys_eq ((leBytes (remoteEntry device die.val) 16).zipIdx.map fun (x, i) => (key + i, x))
    exact ⟨_, _, _, _, h⟩
  unfold State.updateMap
  dsimp only
  split
  · next key e _ =>
    split
    · exact ⟨_, _, _, _, _, rfl⟩
    · obtain ⟨_, _, _, _, h⟩ := written key
      rw [h]
      exact ⟨_, _, _, _, _, rfl⟩
  · exact ⟨_, _, _, _, _, rfl⟩

/-- A map update leaves its die no owner entry of the region, and those of another die alone. -/
theorem State.owners_updateMap (s : State) (d x : DieId) (asid : BitVec 16) (region : BitVec 36) (device : Nat) (die : DieId) :
    ((s.updateMap d asid region device die).die x).owners =
      if x = d then ownerDrop (s.die x).owners asid region else (s.die x).owners := by
  have written : ∀ key b, (s.writeAt key b).dies = s.dies := by
    intro key b
    obtain ⟨_, _, _, h⟩ := s.writeKeys_eq (b.zipIdx.map fun (x, i) => (key + i, x))
    rw [State.writeAt, h]
  have owners : ∀ u : State, u.dies = s.dies → ((u.setDie d { u.die d with
      tlb := tlbDropRegion (u.die d).tlb asid region.toNat, owners := ownerDrop (u.die d).owners asid region }).die x).owners =
        if x = d then ownerDrop (s.die x).owners asid region else (s.die x).owners := by
    intro u hu
    have hdie : ∀ y, u.die y = s.die y := fun y => by rw [State.die, hu, State.die]
    split
    · next hx =>
      rw [hx, State.die_setDie_same, hdie]
    · next hx =>
      rw [State.die_setDie_other _ _ hx, hdie]
  unfold State.updateMap
  refine owners _ ?_
  split
  · dsimp only
    split
    · rfl
    · exact written _ _
  · rfl

theorem State.forgetOwner_eq (s : State) (core : Nat) (asid : BitVec 16) (region : BitVec 36) (device : Nat) (die : DieId) :
    ∃ cores, s.forgetOwner core asid region device die = { s with cores := cores } := ⟨_, rfl⟩

theorem State.knowsNone_forgetOwner_same (s : State) (core : Nat) (asid : BitVec 16) (region : BitVec 36) (device : Nat)
    (die : DieId) : knowsNone asid region ((s.forgetOwner core asid region device die).core core).owners := by
  rw [State.forgetOwner]
  simp only [State.core_setCore_same]
  exact knowsNone_ownerDrop _ _ _

theorem State.core_forgetOwner_other (s : State) {core c : Nat} (hc : c ≠ core) (asid : BitVec 16) (region : BitVec 36) (device : Nat)
    (die : DieId) : (s.forgetOwner core asid region device die).core c = s.core c := by
  rw [State.forgetOwner, State.core_setCore_other _ _ hc, State.learnOwner, State.core_setCore_other _ _ hc]

theorem State.knowsNone_forgetOwner (s : State) (core c : Nat) (asid : BitVec 16) (region : BitVec 36) (device : Nat)
    (die : DieId) (h : knowsNone asid region (s.core c).owners) :
    knowsNone asid region ((s.forgetOwner core asid region device die).core c).owners := by
  by_cases hc : c = core
  · rw [hc]
    exact s.knowsNone_forgetOwner_same core asid region device die
  · rwa [s.core_forgetOwner_other hc]

/-- A core that is not among those of the table whose caches know the owner of a region knows none. -/
theorem State.knowsNone_of_not_caching {s : State} {asid : BitVec 16} {region : BitVec 36} {c : Nat}
    (h : c ∉ (s.cores.filter fun c => (ownerLookup c.2.owners asid region).isSome).map (·.1)) :
    knowsNone asid region (s.core c).owners := by
  refine knowsNone_of_ownerLookup ?_
  cases hget : tableGet s.cores c with
  | none =>
    rw [State.core, hget]
    rfl
  | some v =>
    rw [State.core, hget]
    by_contra hknown
    exact h (List.mem_map.2 ⟨(c, v), List.mem_filter.2 ⟨mem_of_tableGet hget, by
      simpa [Option.isSome_iff_ne_none] using hknown⟩, rfl⟩)

/-- The dies of a device. -/
def State.presentDies (s : State) : List DieId := (List.finRange 4).filter fun d => decide (d.val < s.dieCount)

/-- A state after the agents of all its dies have acted on a map update. -/
def State.updateMaps (s : State) (asid : BitVec 16) (region : BitVec 36) (device : Nat) (die : DieId) : State :=
  s.presentDies.foldl (fun (s : State) (d : DieId) => s.updateMap d asid region device die) s

/-- The cores that may use an old owner of a region: those that cache one, and those with requests of it. -/
def State.ownerHolders (s : State) (asid : BitVec 16) (region : BitVec 36) : List Nat :=
  ((s.cores.filter fun c => (ownerLookup c.2.owners asid region).isSome).map (·.1)
    ++ (s.reqs.filter fun r => r.ni && r.via.isSome && r.asid == asid && isVirtual r.addr
      && regionOf r.addr.toNat == region).map (·.core)).dedup

/-- A state after those cores have forgotten the owner. -/
def State.forgetOwners (s : State) (asid : BitVec 16) (region : BitVec 36) (device : Nat) (die : DieId) : State :=
  (s.ownerHolders asid region).foldl (fun (s : State) (c : Nat) => s.forgetOwner c asid region device die) s

theorem State.updateMaps_eq (s : State) (asid : BitVec 16) (region : BitVec 36) (device : Nat) (die : DieId) :
    ∃ mem poison cores resv dies, s.updateMaps asid region device die = { s with
      mem := mem, poison := poison, cores := cores, foreignResv := resv, dies := dies } := by
  unfold State.updateMaps
  refine foldl_preserves (P := fun u => ∃ mem poison cores resv dies, u = { s with
    mem := mem, poison := poison, cores := cores, foreignResv := resv, dies := dies }) ?_ _ ?_
  · rintro u d ⟨mem, poison, cores, resv, dies, rfl⟩
    exact State.updateMap_eq _ d asid region device die
  · exact ⟨_, _, _, _, _, rfl⟩

theorem State.forgetOwners_eq (s : State) (asid : BitVec 16) (region : BitVec 36) (device : Nat) (die : DieId) :
    ∃ cores, s.forgetOwners asid region device die = { s with cores := cores } := by
  unfold State.forgetOwners
  refine foldl_preserves (P := fun u => ∃ cores, u = { s with cores := cores }) ?_ _ ?_
  · rintro u c ⟨cores, rfl⟩
    exact ⟨_, rfl⟩
  · exact ⟨_, rfl⟩

/-- No die of the device that has acted knows an owner of the region. -/
theorem State.knowsNone_updateMaps (s : State) (asid : BitVec 16) (region : BitVec 36) (device : Nat) (die : DieId) {x : DieId}
    (hx : x.val < s.dieCount) : knowsNone asid region ((s.updateMaps asid region device die).die x).owners := by
  unfold State.updateMaps
  refine foldl_establishes (a := x) (P := fun u => knowsNone asid region (u.die x).owners) (fun u => ?_) (fun u d hu => ?_)
    ?_ s
  · rw [State.owners_updateMap, if_pos rfl]
    exact knowsNone_ownerDrop _ _ _
  · rw [State.owners_updateMap]
    split
    · exact knowsNone_ownerDrop _ _ _
    · exact hu
  · exact List.mem_filter.2 ⟨List.mem_finRange x, decide_eq_true hx⟩

/-- No core knows an owner of a region once those that may have forgotten it. -/
theorem State.knowsNone_forgetOwners (s : State) (asid : BitVec 16) (region : BitVec 36) (device : Nat) (die : DieId) (c : Nat) :
    knowsNone asid region ((s.forgetOwners asid region device die).core c).owners := by
  have keeps : ∀ (u : State) (b : Nat), knowsNone asid region (u.core c).owners →
      knowsNone asid region ((u.forgetOwner b asid region device die).core c).owners :=
    fun u b => u.knowsNone_forgetOwner b c asid region device die
  unfold State.forgetOwners
  by_cases hc : c ∈ s.ownerHolders asid region
  · exact foldl_establishes (P := fun (u : State) => knowsNone asid region (u.core c).owners)
      (f := fun (u : State) (b : Nat) => u.forgetOwner b asid region device die) (a := c)
      (fun (u : State) => u.knowsNone_forgetOwner_same c asid region device die) keeps hc s
  · refine foldl_preserves (P := fun (u : State) => knowsNone asid region (u.core c).owners) keeps _ (State.knowsNone_of_not_caching ?_)
    exact fun hcaching => hc (List.mem_dedup.2 (List.mem_append_left _ hcaching))

theorem exec_mapUpdate_of_turn {s : State} {n : Nat} {asid : BitVec 16} {g : BitVec 36} {device : Nat} {die fromDie : DieId}
    {fromStub : Nat} (harg : s.arg = .request n)
    (hmsg : s.msg? n = some (.mapUpdate asid g device die s.device.toNat fromDie fromStub))
    (hopen : ∀ x : DieId, x.val < s.dieCount → s.routeOpen (s.msgDie n) x = true) :
    exec .mapUpdate s = .next ((((s.dropMsg n).updateMaps asid g device die).forgetOwners asid g device die).send (s.msgDie n)
      (.mapUpdateAck fromDie fromStub)) := by
  have hdevice : (((s.dropMsg n).updateMaps asid g device die).forgetOwners asid g device die).device = s.device := by
    obtain ⟨_, hforget⟩ := ((s.dropMsg n).updateMaps asid g device die).forgetOwners_eq asid g device die
    obtain ⟨_, _, _, _, _, hupdate⟩ := (s.dropMsg n).updateMaps_eq asid g device die
    rw [hforget, hupdate]
    rfl
  show execMapUpdate s = _
  unfold execMapUpdate
  rw [State.atRequest_of_arg harg]
  simp only [hmsg]
  rw [if_neg (by simpa using hopen)]
  refine congrArg Host.Outcome.next (if_pos ?_)
  exact congrArg BitVec.toNat hdevice.symm

/-! ### Acknowledgements of map updates (R92) -/

theorem exec_mapUpdateAck_of_turn {s : State} {n i : Nat} {d : DieId} {stub : Stub} (harg : s.arg = .request n)
    (hmsg : s.msg? n = some (.mapUpdateAck d i)) (hstub : tableGet (s.die d).stubs i = some stub) (hacks : stub.acks ≠ 0)
    (hopen : s.routeOpen (s.msgDie n) d = true) : exec .mapUpdateAck s = .next ((s.dropMsg n).setStub d i { stub with
      acks := stub.acks - 1, st := if stub.acks = 1 ∧ stub.st = .forwarding then .quiet else stub.st }) := by
  have hlast : stub.acks - 1#13 = 0#13 ↔ stub.acks = 1#13 := by bv_omega
  have hsome : stub.acks ≠ 0#13 := hacks
  have hstub' : tableGet ((s.dropMsg n).die d).stubs i = some stub := hstub
  show execMapUpdateAck s = _
  unfold execMapUpdateAck
  rw [State.atRequest_of_arg harg]
  simp [hmsg, hopen, hstub', hsome, hlast]

/-! ### Flush markers (R312) -/

/-- Whether a marker is of a release of a core of a device. -/
def ofRelease (device core release : Nat) (x : Nat × Nat × Nat × Nat) : Bool :=
  x.1 == device && x.2.1 == core && x.2.2.1 == release

theorem exec_flushMarker_of_turn {s : State} {n device core release path live : Nat} (harg : s.arg = .request n)
    (hmsg : s.msg? n = some (.flushMarker device core release path live)) (hnew : (device, core, release, path) ∉ s.markers)
    (hforeign : ∀ q ∈ s.reqs, ∀ a b c e, q.src ≠ .foreign a b c e) (hrun : (s.die (s.msgDie n)).halted = false) :
    exec .flushMarker s = .next (
      if live ≤ (((device, core, release, path) :: s.markers).filter (ofRelease device core release)).length then
        State.toFabric { s.dropMsg n with
          markers := ((device, core, release, path) :: s.markers).filter fun x =>
            !(((device, core, release, path) :: s.markers).filter (ofRelease device core release)).contains x }
          (s.msgDie n) device (.collectiveCompletion s.device.toNat core release)
      else { s.dropMsg n with markers := (device, core, release, path) :: s.markers }) := by
  show execFlushMarker s = _
  unfold execFlushMarker
  rw [State.atRequest_of_arg harg]
  simp only [hmsg]
  refine congrArg Host.Outcome.next ((if_neg ?idle).trans ?counts)
  case idle =>
    rintro (hpending | hhalted)
    · obtain ⟨q, hq, hsrc⟩ := List.any_eq_true.1 hpending
      split at hsrc
      · next heq => exact hforeign q hq _ _ _ _ heq
      · cases hsrc
    · exact absurd hhalted (by rw [hrun]; simp)
  case counts =>
    have hmarkers : (s.dropMsg n).markers.contains (device, core, release, path) = false := by
      simpa [State.dropMsg] using hnew
    simp only [hmarkers]
    rfl

/-! ### Collective completions (R312) -/

/-- No request has an identifier. -/
def noRequest (id : Nat) (s : State) : Prop := ∀ x ∈ s.reqs, x.id ≠ id

theorem noRequest_dropReq (s : State) (id : Nat) : noRequest id (s.dropReq id) := by
  intro x hx
  simpa using (List.mem_filter.1 hx).2

theorem noRequest_setReq {id : Nat} {s : State} (hs : noRequest id s) (r : Req) : noRequest id (s.setReq r) := by
  intro x hx
  obtain ⟨q, hq, rfl⟩ := List.mem_map.1 hx
  split
  · next heq => exact fun hr => hs q hq (heq.trans hr)
  · exact hs q hq

theorem noRequest_of_reqs {id : Nat} {s t : State} (hs : noRequest id s) (h : t.reqs = s.reqs) : noRequest id t := by
  rwa [noRequest, h]

theorem noRequest_answer {id : Nat} {s : State} (hs : noRequest id s) (r : Req) (a : Answer) : noRequest id (s.answer r a) := by
  have dropped : noRequest id (s.dropReq r.id) := fun x hx => hs x (List.mem_of_mem_filter hx)
  unfold State.answer
  split
  · split
    · dsimp only
      split
      · exact noRequest_setReq dropped _
      · exact dropped
    · exact noRequest_of_reqs dropped (State.toFabric_reqs _ _ _ _)
  · exact noRequest_setReq hs _

@[simp] theorem State.countWindow_reqs (s : State) (ctx : Option (BitVec 8)) (w : Option Nat) (f : PutWindow → PutWindow) :
    (s.countWindow ctx w f).reqs = s.reqs := by
  unfold State.countWindow
  split
  · split
    · split <;> rfl
    · rfl
  · rfl

theorem State.finishReq_reqs (s : State) (r : Req) : (s.finishReq r).reqs = (s.dropReq r.id).reqs := by
  have counts : (r.windows.foldl (fun (s : State) (w : Nat) => s.countWindow r.ctx (some w) fun w => { w with acked := w.acked + 1 })
      (s.dropReq r.id)).reqs = (s.dropReq r.id).reqs :=
    foldl_keeps State.reqs _ (fun s w => s.countWindow_reqs r.ctx (some w) _) _ _
  unfold State.finishReq
  dsimp only
  split
  · split <;> exact counts
  · split <;> exact counts
  · exact counts

theorem noRequest_completeWrite {id : Nat} {s : State} (hs : noRequest id s) (q : Req) : noRequest id (s.completeWrite q) := by
  unfold State.completeWrite
  split
  · unfold State.dataPerformed
    split
    · exact noRequest_setReq hs _
    · exact noRequest_answer hs _ _
  · exact fun x hx => hs x (List.mem_of_mem_filter (by rwa [State.finishReq_reqs] at hx))

/-- A completed write without an arrival leaves. -/
theorem noRequest_completeWrite_same (s : State) {q : Req} (harrival : q.arrival = .none) : noRequest q.id (s.completeWrite q) := by
  have hfinish : s.completeWrite q = s.finishReq q := by simp [State.completeWrite, State.homeArrival, harrival]
  rw [hfinish]
  exact noRequest_of_reqs (noRequest_dropReq s q.id) (State.finishReq_reqs s q)

/-- The writes of a core that a collective completion of a device covers: those sent before the markers. -/
def State.coveredBy (s : State) (core device : Nat) (rel : Req) : List Req :=
  s.reqs.filter fun q => q.core == core && q.tracked && q.acknowledged && q.stage == .sent && decide (q.sentNo < rel.sentNo)
    && (q.route.map (·.1) == some device)

theorem exec_collectiveCompletion_of_turn {s : State} {n device core : Nat} {rel : Req} (harg : s.arg = .request n)
    (hmsg : s.msg? n = some (.collective device core rel.id)) (hrel : s.req? rel.id = some rel)
    (hopen : s.routeOpen (s.msgDie n) (dieOf core) = true) : exec .collectiveCompletion s = .next
      ((s.coveredBy core device rel).foldl (fun (s : State) (q : Req) => s.completeWrite q) (s.dropMsg n)) := by
  have hrel' : (s.dropMsg n).req? rel.id = some rel := hrel
  show execCollectiveCompletion s = _
  unfold execCollectiveCompletion
  rw [State.atRequest_of_arg harg]
  simp only [hmsg, hopen, hrel']
  rfl

theorem State.pathFor_chunk {s : State} {device : Nat} (h : s.livePaths device ≠ []) (asid : BitVec 16) (region : BitVec 36) (k : Nat)
    (data : List Byte) (bad : List Nat) :
    s.pathFor device (.chunk asid region k data bad) = some (s.nextPath 5120 device (s.livePaths device)) :=
  if_neg (by simpa using h)

theorem State.pathFor_collectiveCompletion {s : State} {device : Nat} (h : s.replyPaths device ≠ []) (own core release : Nat) :
    s.pathFor device (.collectiveCompletion own core release) = some (s.nextPath 5120 device (s.replyPaths device)) :=
  if_neg (by simpa using h)

/-! ### The statement -/

/-- The markers that stay once those of a release, with its last, are gathered. -/
theorem filter_gathered {m : Nat × Nat × Nat × Nat} {same : Nat × Nat × Nat × Nat → Bool} (hm : same m = true)
    (l : List (Nat × Nat × Nat × Nat)) :
    ((m :: l).filter fun x => !((m :: l).filter same).contains x) = l.filter fun x => !same x := by
  have hgot : ∀ x ∈ m :: l, ((m :: l).filter same).contains x = same x := by
    intro x hx
    rw [Bool.eq_iff_iff, List.contains_iff_mem, List.mem_filter]
    exact ⟨fun h => h.2, fun h => ⟨hx, h⟩⟩
  rw [List.filter_congr fun x hx => congrArg Bool.not (hgot x hx), List.filter_cons_of_neg (by simp [hm])]

/-- Settles O36: every step has its equation, of which the clauses read the fields they name. -/
theorem ownershipSteps : Obligations.OwnershipSteps := by
  unfold Obligations.OwnershipSteps
  intro s n r d i
  dsimp only
  refine ⟨?_, ?_, ?_, ?_, ?_, ?_, ?_, ?_, ?_⟩
  · rintro desc va die ⟨harg, hreq, hhere, hseq⟩ hop hplace hmapped hstub hwalk
    refine ⟨fun ⟨h, hsrc⟩ => ?_, fun x c h tag hsrc hx hdie hleaves hfree => ?_⟩
    · refine ⟨_, exec_ownRequestArrival_own harg hreq hhere hop hplace hmapped hstub hwalk (s.newOwner_of_hart hsrc), ?_,
        s.answer_mem _ _⟩
      rw [State.answer_of_hart s hsrc]
      rfl
    · have howner := s.newOwner_of_foreign hsrc
      refine ⟨_, exec_ownRequestArrival_other harg hreq hhere hop hplace hmapped hstub hwalk (howner ▸ hx) hseq hdie hleaves hfree,
        s.startCopy_mem _ _ _ _ _, ?_⟩
      rw [State.stub_startCopy, howner]
  · intro stub harg hstub hst hsending hlive hrun
    obtain ⟨bad, t, hexec, hmem, hstub', hout⟩ := exec_chunkCopy_of_turn harg hstub hst hsending hlive (hrun d)
    obtain ⟨m, hm, hdevice, hbody⟩ := State.toFabric_departs
      (State.pathFor_chunk hlive stub.asid stub.region stub.copied.toNat (s.copyChunk d stub.asid stub.region stub.copied.toNat).1 bad)
      (State.routeOpen_of_running hrun d) (by simp [fabricChannel])
    refine ⟨t, hexec, hmem, hstub', m, hout ▸ hm, hdevice, bad, ?_⟩
    rw [hbody, State.copyChunk_data]
    rfl
  · intro stub hstub hfor hbelow hst hsending
    rw [State.chunkCopied_of_turn hfor hbelow hst hsending]
    by_cases hlast : stub.copied = 31
    · rw [if_pos hlast]
      obtain ⟨p, hp, hst', hcopied, hndev, hndie⟩ := s.stub_finishCopy d i stub
      exact ⟨p, hp, fun hne => absurd hlast hne, fun _ => ⟨hst', hcopied, hndev, hndie⟩⟩
    · rw [if_neg hlast]
      exact ⟨_, State.stub_setStub _ _ _ _, fun _ => ⟨rfl, rfl⟩, fun h => absurd h hlast⟩
  · rintro va k die teach ⟨harg, hreq, hhere, hseq⟩ ⟨h, hsrc⟩ hop hplace hregion
    refine ⟨fun hhops => ?_, fun hhops => ?_⟩
    · have hexec := exec_doorplateForward_on harg hreq hhere hop hplace hregion hhops
      obtain ⟨dies, msgs, next, hstate, hteach⟩ := s.doorplated_eq hsrc va die teach
      have hlaunch := State.launch_home (s.doorplated r va die teach) { r with hops := r.hops + 1 } die
      rw [show (s.doorplated r va die teach).device = s.device by rw [hstate]] at hlaunch
      rw [hlaunch] at hexec
      rw [hstate] at hexec
      exact ⟨_, hexec, rfl, rfl, hteach⟩
    · refine ⟨_, exec_doorplateForward_back harg hreq hhere hop hplace hregion hhops, ?_, s.answer_mem _ _⟩
      rw [State.answer_of_hart s hsrc]
      rfl
  · intro asid g device die fromDie fromStub harg hmsg hopen
    refine ⟨_, exec_mapUpdate_of_turn harg hmsg hopen, ?_⟩
    have hcores := ((s.dropMsg n).updateMaps asid g device die).knowsNone_forgetOwners asid g device die
    have hdies := fun (x : DieId) (hx : x.val < s.dieCount) => (s.dropMsg n).knowsNone_updateMaps asid g device die hx
    obtain ⟨cores, hforget⟩ := ((s.dropMsg n).updateMaps asid g device die).forgetOwners_eq asid g device die
    obtain ⟨mem, poison, _, resv, dies, hupdate⟩ := (s.dropMsg n).updateMaps_eq asid g device die
    rw [hforget, hupdate] at hcores ⊢
    rw [hupdate] at hdies
    exact ⟨rfl, rfl, hcores, hdies⟩
  · intro stub harg hmsg hstub hacks hopen
    exact ⟨_, exec_mapUpdateAck_of_turn harg hmsg hstub hacks hopen, rfl, State.stub_setStub _ _ _ _⟩
  · intro stub harg hstub hst
    have hexec : exec .stubReclaim s = if stub.st = .quiet ∧ stub.fwdAt + 100000 ≤ s.refTime
        then .next (s.setStub d i Stub.reset) else .next s := by
      show execStubReclaim s = _
      simp only [execStubReclaim, harg, hstub]
    refine ⟨fun hdue => ⟨_, _, hexec.trans (if_pos ⟨hst, hdue⟩), rfl, State.stub_setStub _ _ _ _, rfl⟩,
      fun hearly => hexec.trans (if_neg fun h => absurd h.2 (Nat.not_le.2 hearly))⟩
  · intro device core release path live harg hmsg hnew hforeign hrun
    have hexec := exec_flushMarker_of_turn harg hmsg hnew hforeign (hrun _)
    have hm : ofRelease device core release (device, core, release, path) = true := by simp [ofRelease]
    rw [filter_gathered hm, List.filter_cons_of_pos hm, List.length_cons] at hexec
    by_cases hmore : (s.markers.filter (ofRelease device core release)).length + 1 < live
    · rw [if_neg (Nat.not_le.2 hmore)] at hexec
      exact ⟨_, hexec, rfl, rfl, (if_pos hmore).mpr ⟨rfl, rfl⟩⟩
    · rw [if_pos (Nat.le_of_not_lt hmore)] at hexec
      refine ⟨_, hexec, State.toFabric_mem _ _ _ _, State.toFabric_msgs _ _ _ _, (if_neg hmore).mpr ?_⟩
      refine ⟨State.toFabric_markers _ _ _ _, fun hlive => ?_⟩
      exact State.toFabric_departs (State.pathFor_collectiveCompletion (s := { s.dropMsg n with markers := _ }) hlive _ _ _)
        (State.routeOpen_of_running hrun _) (by simp [fabricChannel])
  · intro device core rel harg hmsg hrel hopen
    refine ⟨_, exec_collectiveCompletion_of_turn harg hmsg hrel hopen, ?_, ?_⟩
    · exact foldl_keeps State.mem _ State.completeWrite_mem _ _
    · rintro q hq hcore hkind hop hdest harrival hst hni hsent ⟨k, hroute⟩ -
      refine foldl_establishes (P := noRequest q.id) (f := fun (u : State) (p : Req) => u.completeWrite p) (a := q)
        (fun u => noRequest_completeWrite_same u harrival) (fun u p hu => noRequest_completeWrite hu p) ?_ _
      refine List.mem_filter.2 ⟨hq, ?_⟩
      simp [hcore, hkind, hop, hdest, hst, hsent, hroute, Req.tracked, Req.acknowledged, Req.isWrite]

end Sys2Proof.Machine
end

section
/-! SUPPORT. Requests that join the outbound queue of a hart's core after what revision 1 or a release puts before them, and the checks
of several addresses; then the statement PostedAtomicsReleasesAndAcquires (R120, R124, R125, R136, R172, R176 to R180). -/

namespace Sys2Proof.Machine

/-! ### States to which only requests have joined (R124, R125, R136) -/

/-- A state that differs from s, for the accesses that the issuing hart makes next, in that they may wait for more. -/
structure State.joinedBy (s u : State) : Prop where
  cur : u.cur = s.cur
  mem : u.mem = s.mem
  reqs : ∀ q ∈ s.reqs, q ∈ u.reqs
  nextId : s.nextId ≤ u.nextId
  me : u.me = { s.me with holdAll := u.me.holdAll, holdWrites := u.me.holdWrites }
  holdAll : ∀ n ∈ s.outstanding s.me.holdAll, n ∈ u.outstanding u.me.holdAll
  holdWrites : ∀ n ∈ s.outstanding s.me.holdWrites, n ∈ u.outstanding u.me.holdWrites

theorem State.joinedBy_refl (s : State) : s.joinedBy s := ⟨rfl, rfl, fun _ h => h, le_refl _, rfl, fun _ h => h, fun _ h => h⟩

theorem State.joinedBy_trans {s u t : State} (h : s.joinedBy u) (h' : u.joinedBy t) : s.joinedBy t where
  cur := h'.cur.trans h.cur
  mem := h'.mem.trans h.mem
  reqs q hq := h'.reqs q (h.reqs q hq)
  nextId := h.nextId.trans h'.nextId
  me := by rw [h'.me, h.me]
  holdAll n hn := h'.holdAll n (h.holdAll n hn)
  holdWrites n hn := h'.holdWrites n (h.holdWrites n hn)

/-- A request joins, and the hart's later accesses may wait for it. -/
theorem State.joinedBy_holdLater (s : State) (r : Req) (l w : List Nat) : s.joinedBy ((s.addReq r).holdLater s.cur l w) := by
  have hme : ((s.addReq r).holdLater s.cur l w).me = _ := State.me_holdLater (s.addReq r) l w
  have hkept {held more : List Nat} {n : Nat} (hn : n ∈ s.outstanding held) :
      n ∈ ((s.addReq r).holdLater s.cur l w).outstanding ((s.addReq r).outstanding held ++ more) := by
    have h1 : n ∈ (s.addReq r).outstanding held := State.outstanding_mono (s.mem_addReq r) rfl hn
    exact State.mem_outstanding.2 ⟨List.mem_append_left _ h1, (State.mem_outstanding.1 h1).2⟩
  exact ⟨rfl, rfl, s.mem_addReq r, Nat.le_succ _, by rw [hme]; rfl, fun n hn => by rw [hme]; exact hkept hn,
    fun n hn => by rw [hme]; exact hkept hn⟩

theorem State.joinedBy_release (s : State) (scope : BitVec 2) (dest : Dest) : s.joinedBy (s.release s.cur scope dest).1 := by
  obtain ⟨r, hr, -⟩ := s.release_eq s.cur scope dest
  rw [hr]
  exact s.joinedBy_holdLater r _ _

/-- Events counted at the issuing core do not matter to its accesses. -/
theorem State.joinedBy_counting (s : State) (e : Events) : s.joinedBy (s.setMyCore (s.myCore.countEvents e)) := by
  have hme := s.me_counting e
  exact ⟨rfl, rfl, fun _ h => h, le_refl _, by rw [hme], fun n hn => by rw [hme]; exact hn, fun n hn => by rw [hme]; exact hn⟩

/-- A request of the issuing hart is the same after events have been counted. -/
theorem State.hartReq_counting (s : State) (e : Events) :
    (s.setMyCore (s.myCore.countEvents e)).hartReq s.cur = s.hartReq s.cur := by
  have hh : (s.setMyCore (s.myCore.countEvents e)).hart s.cur = s.hart s.cur := s.me_counting e
  have hc : (s.setMyCore (s.myCore.countEvents e)).core s.cur.core = s.myCore.countEvents e := State.core_setCore_same _ _ _
  unfold State.hartReq State.blankReq
  rw [hh, hc]
  rfl

theorem State.flagOf_counting (s : State) (e : Events) (c : Reg) :
    (s.setMyCore (s.myCore.countEvents e)).flagOf c = s.flagOf c := by
  unfold State.flagOf
  rw [s.me_counting e]

/-! ### Requests that lead the queue (R120, R124, R125) -/

/-- A request of the issuing hart that joins last leads the queue. -/
theorem posts_addReq {s u t : State} (hj : s.joinedBy u) {a : Word} {op : ReqOp} {data : List Byte} {arrival : Arrival} {dest : Dest}
    {q : Req} (hq : q = { s.hartReq s.cur with
      addr := a, op := op, data := data, arrival := arrival, dest := dest, born := q.born, waits := q.waits, after := q.after })
    (hall : ∀ n ∈ u.outstanding u.me.holdAll, n ∈ q.waits)
    (hwrites : q.isWrite = true → ∀ n ∈ u.outstanding u.me.holdWrites, n ∈ q.waits)
    (hreqs : t.reqs = (u.addReq q).reqs) (hid : t.nextId = u.nextId + 1) :
    posts s t a op data arrival dest { q with id := u.nextId } :=
  ⟨by rw [hreqs]; exact List.getLast?_concat, fun p hp => by rw [hreqs]; exact u.mem_addReq q p (hj.reqs p hp), hid, hj.nextId,
    congrArg Req.kind hq, congrArg Req.src hq, congrArg Req.core hq, congrArg Req.user hq, congrArg Req.asid hq, congrArg Req.addr hq,
    congrArg Req.op hq, congrArg Req.data hq, congrArg Req.arrival hq, congrArg Req.dest hq, congrArg Req.stage hq,
    fun n hn => hall n (hj.holdAll n hn), fun hw n hn => hwrites hw n (hj.holdWrites n hn)⟩

/-- A request of a hart's instruction joins the queue, after the release that revision 1 puts before a tagged one (R136). -/
theorem State.issueReq_joins (s : State) {r : Req} (hsrc : r.src = .hart s.cur) : ∃ (u : State) (q : Req), s.joinedBy u ∧
    s.issueReq s.cur r = u.addReq q ∧ q = { r with born := q.born, waits := q.waits, after := q.after } ∧
    (∀ n ∈ u.outstanding u.me.holdAll, n ∈ q.waits) ∧
    (r.isWrite = true → ∀ n ∈ u.outstanding u.me.holdWrites, n ∈ q.waits) := by
  have hscalar : r.isScalar = true := by unfold Req.isScalar; rw [hsrc]
  obtain ⟨u, hj, hu⟩ : ∃ u : State, s.joinedBy u ∧ u =
      if s.revision s.cur.core == 1 && ((r.arrival != .none || r.op == .arrivalOnly) && r.isScalar)
      then (s.release s.cur (s.implicitScope s.cur.core (r.addr :: arrivalAddrs r.arrival)) .none).1 else s := by
    refine ⟨_, ?_, rfl⟩
    split
    · exact s.joinedBy_release _ _
    · exact s.joinedBy_refl
  have hv : u.hart s.cur = u.me := by rw [State.me, hj.cur]
  unfold State.issueReq
  dsimp only
  rw [← hu, hv]
  simp only [hscalar, if_true]
  refine ⟨u, _, hj, rfl, rfl, fun n hn => ?_, fun hw n hn => ?_⟩
  · obtain ⟨hin, hout⟩ := State.mem_outstanding.1 hn
    exact List.mem_append_left _ (State.mem_outstanding.2 ⟨List.mem_append_left _ (List.mem_append_right _ hin), hout⟩)
  · obtain ⟨hin, hout⟩ := State.mem_outstanding.1 hn
    exact List.mem_append_left _ (State.mem_outstanding.2 ⟨List.mem_append_right _ (by rw [if_pos hw]; exact hin), hout⟩)

/-- An instruction that posts a request, or issues again while the outbound queue is full (R120, R264). -/
def sendsRequest (s : State) (i : Instr) (a : Word) (op : ReqOp) (data : List Byte) (arrival : Arrival) (dest : Dest) (v : Hart) :
    Prop :=
  if s.niFull s.cur.core = true then exec i s = .next s
  else ∃ t r, exec i s = .next t ∧ posts s t a op data arrival dest r ∧ goesOn t v ∧ t.mem = s.mem

/-- What a hart's next registers are does not depend on what its later accesses wait for. -/
def keepsHolds (clear : Hart → Hart) : Prop :=
  ∀ (v : Hart) (l w : List Nat), clear { v with holdAll := l, holdWrites := w } = { clear v with holdAll := l, holdWrites := w }

theorem keepsHolds_id : keepsHolds id := fun _ _ _ => rfl

theorem keepsHolds_empty (d : Reg) : keepsHolds fun h : Hart => h.empty d := fun v l w => v.empty_withHolds l w d

/-- With the outbound queue full a post changes nothing. -/
theorem State.post_queue (s : State) {r : Req} {clear : Hart → Hart} :
    s.post r clear = if s.niFull s.cur.core then s else s.post r clear := by
  split
  · next hfull => exact if_pos hfull
  · rfl

/-- A post of a write, from the issuing state or from one that has counted events first. -/
theorem sendsRequest_of_post {s u : State} {i : Instr} {a : Word} {op : ReqOp} {data : List Byte} {arrival : Arrival} {dest : Dest}
    {clear : Hart → Hart} {r : Req} (hr : r = { s.hartReq s.cur with
      addr := a, op := op, data := data, arrival := arrival, dest := dest })
    (hj : s.joinedBy u) (hqueue : u.niFull u.cur.core = s.niFull s.cur.core) (hclear : keepsHolds clear)
    (hex : exec i s = .next (if s.niFull s.cur.core then s else u.post r clear)) :
    sendsRequest s i a op data arrival dest (clear s.me) := by
  unfold sendsRequest
  split
  · next hfull => rw [hex, if_pos hfull]
  · next hroom =>
    obtain ⟨w, q, hj', he, hq, hall, hwrites⟩ := u.issueReq_joins (r := r) (by rw [hj.cur]; exact congrArg Req.src hr)
    have hpost : u.post r clear = (w.addReq q).complete (clear w.me) := by
      unfold State.post
      rw [if_neg (by rwa [hqueue]), he]
      rfl
    have hjw := State.joinedBy_trans hj hj'
    have hop : q.op = r.op := by rw [hq]
    have hq' : q = { s.hartReq s.cur with
        addr := a, op := op, data := data, arrival := arrival, dest := dest, born := q.born, waits := q.waits, after := q.after } := by
      rw [hr] at hq; exact hq
    rw [hex, if_neg hroom, hpost]
    refine ⟨_, _, rfl, posts_addReq hjw hq' hall (fun hw => hwrites ?_) rfl rfl, ?_, hjw.mem⟩
    · unfold Req.isWrite at hw ⊢
      rwa [← hop]
    · unfold goesOn
      rw [State.me_complete, hjw.me, hclear]
      rfl

/-! ### The checks of several addresses (R165, R413, R414) -/

/-- Addresses that are aligned and that an instruction may name. -/
def admitted (ts : List (Word × Nat × Option Place)) : Prop := ∀ t ∈ ts, aligned t.1 t.2.1 = true ∧ t.2.2.isSome = true

theorem find?_misaligned_of_admitted {ts : List (Word × Nat × Option Place)} (hts : admitted ts) :
    ts.find? (fun t => !aligned t.1 t.2.1) = none := List.find?_eq_none.2 fun t ht => by simp [(hts t ht).1]

theorem find?_unplaced_of_admitted {ts : List (Word × Nat × Option Place)} (hts : admitted ts) :
    ts.find? (fun t => t.2.2.isNone) = none :=
  List.find?_eq_none.2 fun t ht => by simp [Option.isNone_iff_eq_none, Option.isSome_iff_ne_none.1 (hts t ht).2]

theorem State.targets_passed (s : State) (k : Kind) {ts : List (Word × Nat × Option Place)} (hts : admitted ts)
    (hbreak : ∀ t ∈ ts, s.me.breaks k.breakBit t.1 = false) (perform : State) : s.targets k ts perform = perform := by
  have hnone : ts.find? (fun t => s.me.breaks k.breakBit t.1) = none :=
    List.find?_eq_none.2 fun t ht => by rw [hbreak t ht]; decide
  simp only [State.targets, find?_misaligned_of_admitted hts, find?_unplaced_of_admitted hts, hnone]

theorem State.targets_broken (s : State) (k : Kind) {a : Word} {n : Nat} {p : Option Place} {ts : List (Word × Nat × Option Place)}
    (hts : admitted ((a, n, p) :: ts)) (hbreak : s.me.breaks k.breakBit a = true) (perform : State) :
    s.targets k ((a, n, p) :: ts) perform = s.trap 3 a := by
  have hfirst : ((a, n, p) :: ts).find? (fun t => s.me.breaks k.breakBit t.1) = some (a, n, p) := List.find?_cons_of_pos hbreak
  simp only [State.targets, find?_misaligned_of_admitted hts, find?_unplaced_of_admitted hts, hfirst]

theorem State.targets_nowhere (s : State) (k : Kind) {a : Word} {n : Nat} (hal : aligned a n = true) (perform : State) :
    s.targets k [(a, n, none)] perform = s.trap k.accessCause a := by
  simp [State.targets, hal]

/-- An address that is a multiple of 8 is aligned for a flag, whatever it names. -/
theorem aligned_flag {a : Word} (h : a.toNat % 8 = 0) : aligned a 8 = true := by
  unfold aligned
  split <;> simp [h]

/-- The flag address of an instruction, where it names one, is aligned and one of a flag (R172). -/
def State.flagOk (s : State) (c : Reg) : Prop :=
  c = 0 ∨ ((s.me.readX c).toNat % 8 = 0 ∧ ∃ p, s.flagPlace s.cur (s.me.readX c) = some p)

theorem State.admitted_flagTarget {s : State} {c : Reg} (h : s.flagOk c) : admitted (s.flagTarget c) := by
  unfold State.flagTarget
  split
  · simp [admitted]
  · next hc =>
    obtain ⟨hal, p, hp⟩ := h.resolve_left hc
    intro t ht
    rw [List.mem_singleton.1 ht, hp]
    exact ⟨aligned_flag hal, rfl⟩

theorem State.flagTarget_unbroken {s : State} {c : Reg} (h : c = 0 ∨ s.me.breaks 3 (s.me.readX c) = false) :
    ∀ t ∈ s.flagTarget c, s.me.breaks 3 t.1 = false := by
  unfold State.flagTarget
  split
  · simp
  · next hc =>
    intro t ht
    rw [List.mem_singleton.1 ht]
    exact h.resolve_left hc

/-! ### The instructions (R172, R176 to R179) -/

/-- The bytes of an access in virtual space, as the checks see it with the flag of its instruction. -/
def State.virtTargets (s : State) (a : Reg) (n va : Nat) (flag : Reg) : List (Word × Nat × Option Place) :=
  (s.me.readX a, n, some (.virt va)) :: s.flagTarget flag

/-- With its register full `fbump` checks its flag address and posts its arrival (R172). -/
theorem exec_fbump_of_full {s : State} {c : Reg} (hc : s.me.isFull c = true) :
    exec (.fbump c) s = .next (s.targets .write [(s.me.readX c, 8, s.flagPlace s.cur (s.me.readX c))]
      (s.post { s.hartReq s.cur with addr := s.me.readX c, op := .arrivalOnly, arrival := .flag (s.me.readX c) } id)) := by
  show execFbump c s = _
  rw [execFbump, State.reading_one hc]

section
variable {s : State} {a : Reg} {va : Nat} (hp : s.place s.cur.core (s.me.readX a) = some (.virt va))
include hp

theorem State.targetPlace_virt (k : Kind) (n : Nat) (window narrow : Bool) :
    s.targetPlace s.cur k (s.me.readX a) n true window narrow = some (.virt va) := by
  unfold State.targetPlace
  simp only [hp, if_true]

theorem State.flagPlace_virt : s.flagPlace s.cur (s.me.readX a) = none := by
  unfold State.flagPlace State.targetPlace
  simp [hp]

theorem State.aligned_virt (n : Nat) : aligned (s.me.readX a) n = ((s.me.readX a).toNat % n == 0) :=
  aligned_of_word (State.windowField_of_virt hp) n

theorem State.admitted_virtTargets {n : Nat} {c : Reg} (hal : (s.me.readX a).toNat % n = 0) (hflag : s.flagOk c) :
    admitted (s.virtTargets a n va c) := by
  intro t ht
  rcases List.mem_cons.1 ht with rfl | ht
  · exact ⟨by rw [State.aligned_virt hp, hal]; rfl, rfl⟩
  · exact State.admitted_flagTarget hflag t ht

/-- With its registers full an atomic checks its addresses and posts its request. -/
theorem State.remoteAtomic_of_full (ha : s.me.isFull a = true) {reads : List Reg} (hreads : ∀ r ∈ reads, s.me.isFull r = true)
    (flag : Reg) (op : AtomOp) (dbl : Bool) (v e : Reg) (dest : Dest) (clear : Hart → Hart) :
    s.remoteAtomic a reads flag op dbl v e dest clear = s.targets .readWrite (s.virtTargets a (atomBytes dbl) va flag)
      (s.post { s.hartReq s.cur with
        addr := s.me.readX a, op := .atomic op dbl (s.me.readX v) (s.me.readX e), arrival := s.flagOf flag, dest := dest } clear) := by
  unfold State.remoteAtomic
  rw [State.reading_full (by simpa using ⟨ha, hreads⟩)]
  dsimp only
  rw [State.targetPlace_virt hp]
  rfl

/-- With its registers full `pstf` checks its addresses and posts its bytes. -/
theorem exec_pstf_of_full (ha : s.me.isFull a = true) {b c : Reg} (hb : s.me.isFull b = true) (hc : s.me.isFull c = true)
    (w : BitVec 2) : ∃ ev, exec (.pstf c w b a) s = .next (s.targets .write (s.virtTargets a (2 ^ w.toNat) va c)
      (if s.niFull s.cur.core then s else (s.setMyCore (s.myCore.countEvents ev)).post { s.hartReq s.cur with
        addr := s.me.readX a, op := .write, data := leBytes (s.me.readX b).toNat (2 ^ w.toNat), arrival := s.flagOf c } id)) := by
  refine ⟨(s.storedBytes 0 (2 ^ w.toNat) (s.me.readX b)).2, ?_⟩
  show execPstf c w b a s = _
  unfold execPstf
  rw [State.reading_full (by simpa using ⟨ha, hb, hc⟩)]
  dsimp only
  rw [State.targetPlace_virt hp]
  refine congrArg _ (congrArg _ (ite_congr rfl (fun _ => rfl) fun _ => ?_))
  rw [← s.hartReq_counting (s.storedBytes 0 (2 ^ w.toNat) (s.me.readX b)).2,
    ← s.flagOf_counting (s.storedBytes 0 (2 ^ w.toNat) (s.me.readX b)).2]
  rfl

end

/-! ### The instructions as what they check and post -/

/-- An instruction that checks an address in virtual space, and then its flag where it has one, before it writes. -/
def checksVirtual (s : State) (i : Instr) (a : Reg) (va : Nat) (c : Reg) : Prop :=
  ∃ k n flag perform, exec i s = .next (s.targets k (s.virtTargets a n va flag) perform) ∧ k.breakBit = 3 ∧ n ∣ 8 ∧
    (flag = c ∨ flag = 0)

theorem checksVirtual_traps {s : State} {i : Instr} {a : Reg} {va : Nat} {c : Reg}
    (hp : s.place s.cur.core (s.me.readX a) = some (.virt va)) (hi : checksVirtual s i a va c) (hflag : s.flagOk c)
    (hal : (s.me.readX a).toNat % 8 = 0) (hbreak : s.me.breaks 3 (s.me.readX a) = true) : traps i s 3 (s.me.readX a) := by
  obtain ⟨k, n, flag, perform, hex, hk, hn, hf⟩ := hi
  have hok : s.flagOk flag := by
    rcases hf with rfl | rfl
    · exact hflag
    · exact .inl rfl
  have hts := State.admitted_virtTargets hp (Nat.mod_eq_zero_of_dvd (hn.trans (Nat.dvd_of_mod_eq_zero hal))) hok
  rw [State.virtTargets, s.targets_broken k hts (by rw [hk]; exact hbreak)] at hex
  exact traps_of_exec hex (by decide)

theorem atomBytes_eq (w : BitVec 1) : atomBytes (w == 1) = if w = 1 then 8 else 4 := by simp [atomBytes]

section
variable {s : State} {a : Reg} {va : Nat} (hp : s.place s.cur.core (s.me.readX a) = some (.virt va)) (ha : s.me.isFull a = true)
include hp ha

theorem checksVirtual_remoteAtomic {i : Instr} {reads : List Reg} (hreads : ∀ r ∈ reads, s.me.isFull r = true) {c flag : Reg}
    (hflag : flag = c ∨ flag = 0) {op : AtomOp} {dbl : Bool} {v e : Reg} {dest : Dest} {clear : Hart → Hart}
    (hex : exec i s = .next (s.remoteAtomic a reads flag op dbl v e dest clear)) : checksVirtual s i a va c :=
  ⟨_, _, _, _, hex.trans (congrArg _ (State.remoteAtomic_of_full hp ha hreads _ _ _ _ _ _ _)), rfl, atomBytes_dvd dbl, hflag⟩

/-- An atomic whose addresses pass posts its request (R177 to R179). -/
theorem sendsRequest_remoteAtomic {i : Instr} {reads : List Reg} (hreads : ∀ r ∈ reads, s.me.isFull r = true) {flag : Reg}
    {op : AtomOp} {dbl : Bool} {v e : Reg} {dest : Dest} {clear : Hart → Hart} (hclear : keepsHolds clear)
    (hex : exec i s = .next (s.remoteAtomic a reads flag op dbl v e dest clear)) (hal : (s.me.readX a).toNat % atomBytes dbl = 0)
    (hflag : s.flagOk flag) (hbreak : s.me.breaks 3 (s.me.readX a) = false) (hfree : flag = 0 ∨ s.me.breaks 3 (s.me.readX flag) = false) :
    sendsRequest s i (s.me.readX a) (.atomic op dbl (s.me.readX v) (s.me.readX e)) [] (s.flagOf flag) dest (clear s.me) := by
  have hpass : ∀ t ∈ s.virtTargets a (atomBytes dbl) va flag, s.me.breaks 3 t.1 = false :=
    List.forall_mem_cons.2 ⟨hbreak, State.flagTarget_unbroken hfree⟩
  rw [State.remoteAtomic_of_full hp ha hreads,
    s.targets_passed .readWrite (State.admitted_virtTargets hp hal hflag) hpass] at hex
  exact sendsRequest_of_post rfl s.joinedBy_refl rfl hclear (hex.trans (congrArg _ s.post_queue))

end

/-- `rfence.rel` waits for the accesses of its scope and for the triggers of its hart (R125, R180). -/
theorem State.release_spec (s : State) (scope : BitVec 2) (dest : Dest) : ∃ r : Req,
    (s.release s.cur scope dest).1.reqs = s.reqs ++ [r] ∧ r.id = s.nextId ∧ r.kind = .release scope ∧ r.dest = dest ∧
      r.src = .hart s.cur ∧ r.after = s.me.flights.map (·.seq) ∧
      (scope = 3 → ∀ q ∈ s.reqs, q.kind = .access → q.src.hart? = some s.cur → q.born ≤ s.nextId → q.id ∈ r.waits) ∧
      r.id ∈ (s.release s.cur scope dest).1.me.holdWrites := by
  refine ⟨_, rfl, rfl, rfl, rfl, rfl, rfl, fun hscope q hq hk hsrc hborn => ?_, ?_⟩
  · refine List.mem_map.2 ⟨q, List.mem_filter.2 ⟨?_, ?_⟩, rfl⟩
    · simp [State.accessesOf, hq, hk, hsrc]
    · subst hscope
      have hin : s.inScope s.cur.core 3#2 q = true := by
        unfold State.inScope
        split <;> rfl
      simp [hborn, hin]
  · obtain ⟨r, hr, -⟩ := s.release_eq s.cur scope dest
    have hheld := State.me_holdLater (s.addReq r) [] [s.nextId]
    rw [State.addReq_cur] at hheld
    rw [hr, hheld]
    exact List.mem_append_right _ List.mem_cons_self

/-- `rfence.acq` waits for the reads and AMOs of its hart (R124, R180). -/
theorem State.acquire_spec (s : State) (dest : Dest) : ∃ r : Req,
    (s.acquire s.cur dest).1.reqs = s.reqs ++ [r] ∧ r.id = s.nextId ∧ r.kind = .acquire ∧ r.dest = dest ∧ r.src = .hart s.cur ∧
      (∀ q ∈ s.reqs, q.kind = .access → q.src.hart? = some s.cur → q.isRead = true → q.id ∈ r.waits) ∧
      s.joinedBy (s.acquire s.cur dest).1 ∧ r.id ∈ (s.acquire s.cur dest).1.me.holdAll := by
  refine ⟨_, rfl, rfl, rfl, rfl, rfl, fun q hq hk hsrc hread => ?_, s.joinedBy_holdLater _ _ _, ?_⟩
  · refine List.mem_map.2 ⟨q, List.mem_filter.2 ⟨?_, hread⟩, rfl⟩
    simp [State.accessesOf, hq, hk, hsrc]
  · obtain ⟨r, hr⟩ : ∃ r : Req, (s.acquire s.cur dest).1 = (s.addReq r).holdLater s.cur [s.nextId] [] := ⟨_, rfl⟩
    have hheld := State.me_holdLater (s.addReq r) [s.nextId] []
    rw [State.addReq_cur] at hheld
    rw [hr, hheld]
    exact List.mem_append_right _ List.mem_cons_self

/-- A hart that goes on from a state to which requests have joined. -/
theorem goesOn_of_joinedBy {s u : State} (hj : s.joinedBy u) {clear : Hart → Hart} (hclear : keepsHolds clear) :
    goesOn (u.complete (clear u.me)) (clear s.me) ∧ (u.complete (clear u.me)).me.holdAll = (clear u.me).holdAll ∧
      (u.complete (clear u.me)).me.holdWrites = (clear u.me).holdWrites := by
  refine ⟨?_, by rw [State.me_complete]; rfl, by rw [State.me_complete]; rfl⟩
  unfold goesOn
  rw [State.me_complete, hj.me, hclear]
  rfl

theorem exec_rfenceRel_eq (s : State) (scope : BitVec 2) (d : Reg) : exec (.rfenceRel scope d) s =
    .next ((s.release s.cur scope (.xreg d true)).1.complete ((s.release s.cur scope (.xreg d true)).1.me.empty d)) := rfl

theorem exec_rfenceAcq_eq (s : State) (scope : BitVec 2) (d : Reg) : exec (.rfenceAcq scope d) s =
    .next ((s.acquire s.cur (.xreg d true)).1.complete ((s.acquire s.cur (.xreg d true)).1.me.empty d)) := rfl

/-- Settles O60. Each instruction checks its addresses and posts its request, of the state to which its releases have joined. -/
theorem postedAtomicsReleasesAndAcquires : Obligations.PostedAtomicsReleasesAndAcquires := by
  refine ⟨?_, ?_⟩
  · intro s a b c d w2 w va addr flag x dbl n sends fetches arrival flagOk ha hp
    have hn : n = atomBytes dbl := (atomBytes_eq w).symm
    have hreads2 (hb : s.me.isFull b = true) (hc : s.me.isFull c = true) : ∀ r ∈ [b, c], s.me.isFull r = true := by
      simpa using ⟨hb, hc⟩
    have hreads1 (hb : s.me.isFull b = true) : ∀ r ∈ [b], s.me.isFull r = true := by simpa using hb
    refine ⟨fun hb hc hflag hal hbreak => ?_, fun hbreak hb hc hflag hfree => ⟨fun hal => ?_, fun hal => ?_⟩,
      fun hbreak hb hal => ?_, fun hal hb => ?_, fun hc hal hplace => ?_, fun hal => ?_⟩
    · obtain ⟨ev, hpstf⟩ := exec_pstf_of_full hp ha hb hc w2
      have post : checksVirtual s (.pstf c w2 b a) a va c :=
        ⟨_, _, _, _, hpstf, rfl, pow_dvd_pow 2 (show w2.toNat ≤ 3 by omega), .inl rfl⟩
      have posted (op : AtomOp) {i : Instr} (hex : exec i s = .next (s.remoteAtomic a [b, c] c op dbl b 0 .none id)) :
          checksVirtual s i a va c := checksVirtual_remoteAtomic hp ha (hreads2 hb hc) (.inl rfl) hex
      have fetched (op : AtomOp) {i : Instr} (hex : exec i s = .next (s.fetchAtomic op w b a d)) :
          checksVirtual s i a va c := checksVirtual_remoteAtomic hp ha (hreads1 hb) (.inr rfl) hex
      have cas : checksVirtual s (.rcas c w b a d) a va c := checksVirtual_remoteAtomic hp ha (hreads2 hb hc) (.inr rfl) rfl
      have all : ∀ i ∈ ([.pstf c w2 b a, .raddfInt c w b a, .raddfFloat c w b a, .rfadd w b a d, .rfswap w b a d, .rfand w b a d,
          .rfor w b a d, .rfxor w b a d, .rfmin w b a d, .rfmax w b a d, .rfminu w b a d, .rfmaxu w b a d, .rfaddf w b a d,
          .rcas c w b a d] : List Instr), checksVirtual s i a va c := by
        simp only [List.forall_mem_cons]
        exact ⟨post, posted .add rfl, posted .addf rfl, fetched .add rfl, fetched .swap rfl, fetched .and rfl, fetched .or rfl,
          fetched .xor rfl, fetched .min rfl, fetched .max rfl, fetched .minu rfl, fetched .maxu rfl, fetched .addf rfl, cas, nofun⟩
      exact fun i hi => checksVirtual_traps hp (all i hi) hflag hal hbreak
    · obtain ⟨ev, hpstf⟩ := exec_pstf_of_full hp ha hb hc w2
      have hpass : ∀ t ∈ s.virtTargets a (2 ^ w2.toNat) va c, s.me.breaks 3 t.1 = false :=
        List.forall_mem_cons.2 ⟨hbreak, State.flagTarget_unbroken hfree⟩
      rw [s.targets_passed .write (State.admitted_virtTargets hp hal hflag) hpass] at hpstf
      exact sendsRequest_of_post rfl (s.joinedBy_counting ev) rfl keepsHolds_id hpstf
    · have posted (op : AtomOp) {i : Instr} (hex : exec i s = .next (s.remoteAtomic a [b, c] c op dbl b 0 .none id)) :
          sends i addr (.atomic op dbl x 0) [] arrival .none s.me :=
        sendsRequest_remoteAtomic hp ha (hreads2 hb hc) keepsHolds_id hex (hn ▸ hal) hflag hbreak hfree
      exact ⟨posted .add rfl, posted .addf rfl⟩
    · have fetched (op : AtomOp) {i : Instr} (hex : exec i s = .next (s.fetchAtomic op w b a d)) : fetches i op :=
        sendsRequest_remoteAtomic hp ha (hreads1 hb) (keepsHolds_empty d) hex (hn ▸ hal) (.inl rfl) hbreak (.inl rfl)
      exact ⟨fetched .add rfl, fetched .swap rfl, fetched .and rfl, fetched .or rfl, fetched .xor rfl, fetched .min rfl,
        fetched .max rfl, fetched .minu rfl, fetched .maxu rfl, fetched .addf rfl, fun hc =>
          sendsRequest_remoteAtomic hp ha (hreads2 hb hc) (keepsHolds_empty d) rfl (hn ▸ hal) (.inl rfl) hbreak (.inl rfl)⟩
    · have hmis : aligned addr (atomBytes dbl) = false := by rw [State.aligned_virt hp]; simpa [hn] using hal
      have hex : exec (.rfadd w b a d) s = .next (s.trap 6 addr) := congrArg _
        ((State.remoteAtomic_of_full hp ha (hreads1 hb) 0 _ _ _ _ _ _).trans (s.targets_misaligned .readWrite _ _ hmis))
      exact traps_of_exec hex (by decide)
    · obtain ⟨p, hplace⟩ := hplace
      have hex := exec_fbump_of_full hc
      rw [hplace, s.targets_admitted (k := .write) (bit := 3) rfl p _ (aligned_flag hal)] at hex
      split
      · next hbreak => exact traps_of_exec (hex.trans (congrArg _ (if_pos hbreak))) (by decide)
      · next hbreak =>
        rw [if_neg hbreak] at hex
        exact sendsRequest_of_post rfl s.joinedBy_refl rfl keepsHolds_id (hex.trans (congrArg _ s.post_queue))
    · have hex := exec_fbump_of_full ha
      rw [State.flagPlace_virt hp, s.targets_nowhere .write (aligned_flag hal)] at hex
      exact traps_of_exec hex (by decide)
  · intro s scope d
    refine ⟨?_, ?_⟩
    · obtain ⟨r, hreqs, hid, hkind, hdest, hsrc, hafter, hwaits, hhold⟩ := s.release_spec scope (.xreg d true)
      obtain ⟨hgo, -, hw⟩ := goesOn_of_joinedBy (s.joinedBy_release scope (.xreg d true)) (keepsHolds_empty d)
      exact ⟨_, r, exec_rfenceRel_eq s scope d, hreqs, hid, hkind, hdest, hsrc, hafter, hwaits, hgo,
        by rw [hw, Hart.empty_holdWrites]; exact hhold,
        (s.joinedBy_release scope (.xreg d true)).mem⟩
    · obtain ⟨r, hreqs, hid, hkind, hdest, hsrc, hwaits, hj, hhold⟩ := s.acquire_spec (.xreg d true)
      obtain ⟨hgo, hw, -⟩ := goesOn_of_joinedBy hj (keepsHolds_empty d)
      exact ⟨_, r, exec_rfenceAcq_eq s scope d, hreqs, hid, hkind, hdest, hsrc, hwaits, hgo,
        by rw [hw, Hart.empty_holdAll]; exact hhold, hj.mem⟩

end Sys2Proof.Machine
end

section
/-! SUPPORT. Atomics, LR and SC in the own scratchpad and in virtual space (R61, R119, R120, R124, R125, R159, R160), with the statement
AtomicsInMemory. -/

namespace Sys2Proof.Machine

/-! ### The values (R159) -/

@[simp] theorem length_leBytes (v n : Nat) : (leBytes v n).length = n := by
  induction n generalizing v with
  | zero => rfl
  | succ n ih => rw [leBytes, List.length_cons, ih]

/-- A number that fits its bytes is the number that they hold. -/
theorem leNat_leBytes_of_lt {v n : Nat} (h : v < 256 ^ n) : leNat (leBytes v n) = v := by
  induction n generalizing v with
  | zero => exact (Nat.lt_one_iff.1 h).symm
  | succ n ih =>
    have hv : v / 256 < 256 ^ n := Nat.div_lt_of_lt_mul (by rwa [Nat.pow_succ'] at h)
    rw [leBytes, leNat, ih hv, BitVec.toNat_ofNat]
    omega

/-- The bits of an operand at a width are those that the width keeps. -/
theorem atWidth_eq (dbl : Bool) (v : Word) : atWidth dbl v = v.toNat % 2 ^ (8 * atomBytes dbl) := by
  cases dbl with
  | true => exact (Nat.mod_eq_of_lt v.isLt).symm
  | false => rfl

theorem atWidth_lt (dbl : Bool) (v : Word) : atWidth dbl v < 2 ^ (8 * atomBytes dbl) := by
  rw [atWidth_eq]
  exact Nat.mod_lt _ (by positivity)

/-- The old value that an atomic returns is that of its bytes. -/
theorem atomWord_leBytes (dbl : Bool) {b : List Byte} {n : Nat} (h : b.length = n) :
    atomWord dbl (leBytes (leNat b) n) = atomWord dbl b := by
  unfold atomWord
  rw [leNat_leBytes_of_lt (h ▸ leNat_lt b)]

/-- What a home makes of an AMO is RISC-V's result (R159). -/
theorem atomicValue_amoAtom (op : AmoOp) {w m v : Nat} (hm : m < 2 ^ w) (hv : v < 2 ^ w) :
    atomicValue (amoAtom op) w m v 0 = (amoResult op (BitVec.ofNat w m) (BitVec.ofNat w v)).toNat := by
  have hm' : (BitVec.ofNat w m).toNat = m := Nat.mod_eq_of_lt hm
  have hv' : (BitVec.ofNat w v).toNat = v := Nat.mod_eq_of_lt hv
  cases op with
  | add => rw [amoResult, BitVec.toNat_add, hm', hv']; rfl
  | swap => exact hv'.symm
  | xor => rw [amoResult, BitVec.toNat_xor, hm', hv']; rfl
  | or => rw [amoResult, BitVec.toNat_or, hm', hv']; rfl
  | and => rw [amoResult, BitVec.toNat_and, hm', hv']; rfl
  | min | max => simp only [amoResult, atomicValue, amoAtom, apply_ite BitVec.toNat, hm', hv']
  | minu =>
    simp only [amoResult, atomicValue, amoAtom, apply_ite BitVec.toNat, hm', hv']
    exact Nat.min_def
  | maxu =>
    simp only [amoResult, atomicValue, amoAtom, apply_ite BitVec.toNat, hm', hv']
    exact Nat.max_def

/-! ### Accesses of the own scratchpad (R119, R160) -/

/-- The release that an access may put first is all that it does before it performs (R125). -/
theorem State.joinedBy_releaseIf (s : State) (rl : Bool) : s.joinedBy (s.releaseIf rl) := by
  cases rl with
  | true => exact s.joinedBy_release 2 .none
  | false => exact s.joinedBy_refl

/-- The release that goes first holds back the writes that follow it (R125). -/
theorem State.releaseIf_holds (s : State) : ∃ q ∈ (s.releaseIf true).reqs, q.kind = .release 2 ∧
    q.id ∈ (s.releaseIf true).outstanding (s.releaseIf true).me.holdWrites := by
  obtain ⟨q, hreqs, -, hkind, -, -, -, -, hheld⟩ := s.release_spec 2 .none
  have hin : q ∈ (s.releaseIf true).reqs := by
    rw [State.releaseIf, if_pos rfl, hreqs]
    exact List.mem_append_right _ List.mem_cons_self
  exact ⟨q, hin, hkind, State.mem_outstanding.2 ⟨hheld, .inl ⟨q, hin, rfl⟩⟩⟩

/-- What a hart's next registers are depends on its reservation in its reservation alone, and not on what it waits for. -/
def keepsReservation (f : Hart → Hart) : Prop := ∀ (v : Hart) (resv : Option Reservation) (l w : List Nat),
  f { v with resv := resv, holdAll := l, holdWrites := w } =
    { f v with resv := (f { v with resv := resv, holdAll := l, holdWrites := w }).resv, holdAll := l, holdWrites := w }

theorem keepsReservation_fill (rd : Reg) (x : Word) : keepsReservation fun v : Hart => v.fill rd x := by
  intro v resv l w
  unfold Hart.fill
  split <;> rfl

/-- The hart whose SC has failed: rd is 1, its reservation is gone, and its latest LR may be (R160). -/
def Hart.failed (rd : Reg) (mark : Option Nat → Option Nat) (v : Hart) : Hart :=
  { v.fill rd 1 with resv := none, lr := mark (v.fill rd 1).lr }

theorem keepsHolds_failed (rd : Reg) (mark : Option Nat → Option Nat) : keepsHolds (Hart.failed rd mark) := by
  intro v l w
  rw [Hart.failed, v.fill_withHolds]
  rfl

theorem keepsReservation_sc (rd : Reg) (x : Word) :
    keepsReservation fun v : Hart => { v.fill rd x with resv := none, lr := none } := by
  intro v resv l w
  unfold Hart.fill
  dsimp only
  split <;> rfl

/-- A write of the own scratchpad at issue: its bytes, and the registers of its hart (R119). -/
theorem State.writeSpad_goesOn {s u : State} (hj : s.joinedBy u) (core off : Nat) (b : List Byte) {f : Hart → Hart}
    (hf : keepsReservation f) : let w := u.writeSpad core off b; let t := w.complete (f w.me)
    goesOn t { f s.me with resv := t.me.resv } ∧ t.mem = Memory.writeBytes s.mem (spadKey core off) b ∧ t.reqs = u.reqs := by
  intro w t
  have hw : w.me = { s.me with resv := w.me.resv, holdAll := u.me.holdAll, holdWrites := u.me.holdWrites } := by
    have h := u.hart_writeSpad core off b u.cur
    have hcur : w.cur = u.cur := u.writeSpad_cur core off b
    rw [show u.hart u.cur = u.me from rfl, hj.me] at h
    simpa only [State.me, hcur] using h
  refine ⟨?_, ?_, ?_⟩
  · unfold goesOn
    rw [show t.me = (f w.me).next from State.me_complete _ _, hw, hf]
    rfl
  · rw [State.complete_mem, State.writeSpad_mem, hj.mem]
  · rw [State.complete_reqs, State.writeSpad_reqs]

theorem keepsMemoryBut_of_writeBytes {s t : State} {key : Nat} {b : List Byte} {n : Nat} (h : t.mem = Memory.writeBytes s.mem key b)
    (hn : b.length = n) : keepsMemoryBut s t key n := by
  subst hn
  intro j hj
  rw [h, Memory.read_writeBytes_other b hj]

/-- Bytes of a scratchpad that are not poisoned, as an A-extension access names their keys. -/
theorem State.anyPoisoned_span {s : State} {core off n : Nat}
    (h : s.anyPoisoned ((List.range n).map (spadKey core off + ·)) = false) :
    s.anyPoisoned ((List.range n).map fun i => spadKey core (off + i)) = false := by
  rw [← h]
  exact congrArg _ (List.map_congr_left fun i _ => (Nat.add_assoc (2 ^ 44 + core * 2 ^ 18) off i).symm)

section
variable {s : State} {a : Reg} {dbl : Bool} (ha : s.me.isFull a = true)
include ha

section
variable (hbr : s.me.breaks 2 (s.me.readX a) = false) (aq rl : Bool) (rd : Reg)
include hbr

theorem exec_lr_own {core off win : Nat}
    (hck : s.checkScalar s.cur .read (s.me.readX a) (atomBytes dbl) false = .ok (.spad core off win))
    (hpo : s.anyPoisoned ((List.range (atomBytes dbl)).map (spadKey core off + ·)) = false) :
    exec (.lr dbl aq rl rd a) s = .next (s.complete {
      s.me.fill rd (atomWord dbl (Memory.readBytes s.mem (spadKey core off) (atomBytes dbl))) with
      resv := some ⟨spadKey core (off / 8 * 8), none⟩, lr := none }) := by
  show execLr dbl aq rl rd a s = _
  unfold execLr
  rw [Hart.firstEmpty_eq_none (by simpa using ha), ← Memory.map_read_spadKey]
  refine congrArg _ ((State.guarded_ok _ hck hbr).trans ?_)
  exact if_neg (by rw [State.anyPoisoned_span hpo]; decide)

theorem exec_lr_virtual {va : Nat} (hck : s.checkScalar s.cur .read (s.me.readX a) (atomBytes dbl) false = .ok (.virt va)) :
    exec (.lr dbl aq rl rd a) s = .next (s.sendAtomic { s.hartReq s.cur with
      addr := s.me.readX a, op := .lr dbl, dest := .xreg rd dbl } aq false rd fun _ id => some id) := by
  show execLr dbl aq rl rd a s = _
  unfold execLr
  rw [Hart.firstEmpty_eq_none (by simpa using ha)]
  exact congrArg _ (State.guarded_ok _ hck hbr)

end

variable {b : Reg} (hb : s.me.isFull b = true) (hbr : s.me.breaks 3 (s.me.readX a) = false) (aq rl : Bool) (rd : Reg)
include hb hbr

theorem exec_amo_own (op : AmoOp) {core off win : Nat}
    (hck : s.checkScalar s.cur .readWrite (s.me.readX a) (atomBytes dbl) false = .ok (.spad core off win))
    (hpo : s.anyPoisoned ((List.range (atomBytes dbl)).map (spadKey core off + ·)) = false) :
    let old := leNat (Memory.readBytes s.mem (spadKey core off) (atomBytes dbl))
    let u := (s.releaseIf rl).writeSpad core off
      (leBytes (atomicValue (amoAtom op) (8 * atomBytes dbl) old (atWidth dbl (s.me.readX b)) 0) (atomBytes dbl))
    exec (.amo op dbl aq rl rd a b) s = .next (u.complete (u.me.fill rd (atomWord dbl (leBytes old (atomBytes dbl))))) := by
  show execAmo op dbl aq rl rd a b s = _
  unfold execAmo
  rw [Hart.firstEmpty_eq_none (by simpa using ⟨ha, hb⟩), ← Memory.map_read_spadKey]
  refine congrArg _ ((State.guarded_ok _ hck hbr).trans ?_)
  exact if_neg (by rw [State.anyPoisoned_span hpo]; decide)

theorem exec_amo_virtual (op : AmoOp) {va : Nat}
    (hck : s.checkScalar s.cur .readWrite (s.me.readX a) (atomBytes dbl) false = .ok (.virt va)) :
    exec (.amo op dbl aq rl rd a b) s = .next (s.sendAtomic { s.hartReq s.cur with
      addr := s.me.readX a, op := .atomic (amoAtom op) dbl (s.me.readX b) 0, dest := .xreg rd dbl } aq rl rd fun lr _ => lr) := by
  show execAmo op dbl aq rl rd a b s = _
  unfold execAmo
  rw [Hart.firstEmpty_eq_none (by simpa using ⟨ha, hb⟩)]
  exact congrArg _ (State.guarded_ok _ hck hbr)

theorem exec_sc_own {core off win : Nat}
    (hck : s.checkScalar s.cur .write (s.me.readX a) (atomBytes dbl) false = .ok (.spad core off win)) :
    let u := (s.releaseIf rl).writeSpad core off (leBytes (atWidth dbl (s.me.readX b)) (atomBytes dbl))
    exec (.sc dbl aq rl rd a b) s = .next (
      if s.me.resv = some ⟨spadKey core (off / 8 * 8), none⟩ then u.complete { u.me.fill rd 0 with resv := none, lr := none }
      else (s.releaseIf rl).complete ((s.releaseIf rl).me.failed rd fun _ => none)) := by
  have hresv : (s.releaseIf rl).me.resv = s.me.resv := by rw [(s.joinedBy_releaseIf rl).me]
  rw [← hresv]
  show execSc dbl aq rl rd a b s = _
  unfold execSc
  rw [Hart.firstEmpty_eq_none (by simpa using ⟨ha, hb⟩)]
  exact congrArg _ (State.guarded_ok _ hck hbr)

theorem exec_sc_virtual {va : Nat} (hck : s.checkScalar s.cur .write (s.me.readX a) (atomBytes dbl) false = .ok (.virt va)) :
    exec (.sc dbl aq rl rd a b) s = .next (
      if s.me.lr.isNone then (s.releaseIf rl).complete ((s.releaseIf rl).me.failed rd id)
      else s.sendAtomic { s.hartReq s.cur with
        addr := s.me.readX a, op := .sc dbl (s.me.readX b), dest := .xreg rd true } aq rl rd fun _ _ => none) := by
  show execSc dbl aq rl rd a b s = _
  unfold execSc
  rw [Hart.firstEmpty_eq_none (by simpa using ⟨ha, hb⟩)]
  exact congrArg _ (State.guarded_ok _ hck hbr)

end

/-- An access that has performed at issue, where no release went first leaving the requests as they were (R119). -/
def performsAtIssue (s t : State) (rl : Bool) (rd : Reg) (v : Word) (lr : Option Nat) : Prop :=
  goesOn t { s.me.fill rd v with resv := t.me.resv, lr := lr } ∧ (rl = false → t.reqs = s.reqs)

section
variable {s : State} {a b : Reg} {dbl : Bool} (ha : s.me.isFull a = true) (hb : s.me.isFull b = true)
  (hbr : s.me.breaks 3 (s.me.readX a) = false) (aq rl : Bool) (rd : Reg) {core off win : Nat}
include ha hb hbr

/-- An AMO in the own scratchpad returns the old value and stores RISC-V's result (R119, R159). -/
theorem amo_own_performs (op : AmoOp)
    (hck : s.checkScalar s.cur .readWrite (s.me.readX a) (atomBytes dbl) false = .ok (.spad core off win))
    (hpo : s.anyPoisoned ((List.range (atomBytes dbl)).map (spadKey core off + ·)) = false) :
    let b' := Memory.readBytes s.mem (spadKey core off) (atomBytes dbl)
    let new := amoResult op (BitVec.ofNat (8 * atomBytes dbl) (leNat b')) (BitVec.ofNat (8 * atomBytes dbl) (s.me.readX b).toNat)
    ∃ t, exec (.amo op dbl aq rl rd a b) s = .next t ∧ performsAtIssue s t rl rd (atomWord dbl b') s.me.lr ∧
      t.mem = Memory.writeBytes s.mem (spadKey core off) (leBytes new.toNat (atomBytes dbl)) := by
  intro b' new
  have hlen : b'.length = atomBytes dbl := Memory.length_readBytes _ _ _
  have hmod : BitVec.ofNat (8 * atomBytes dbl) ((s.me.readX b).toNat % 2 ^ (8 * atomBytes dbl)) =
      BitVec.ofNat (8 * atomBytes dbl) (s.me.readX b).toNat := BitVec.eq_of_toNat_eq (by simp)
  have hnew : atomicValue (amoAtom op) (8 * atomBytes dbl) (leNat b') (atWidth dbl (s.me.readX b)) 0 = new.toNat := by
    rw [atomicValue_amoAtom op (by rw [pow_mul, ← hlen]; exact leNat_lt b') (atWidth_lt dbl _), atWidth_eq, hmod]
  have hex := exec_amo_own ha hb hbr aq rl rd op hck hpo
  dsimp only at hex
  rw [atomWord_leBytes dbl hlen, hnew] at hex
  obtain ⟨hgo, hmem, hreqs⟩ := State.writeSpad_goesOn (s.joinedBy_releaseIf rl) core off (leBytes new.toNat (atomBytes dbl))
    (keepsReservation_fill rd (atomWord dbl b'))
  refine ⟨_, hex, ⟨?_, fun hrl => ?_⟩, hmem⟩
  · rw [← Hart.fill_lr s.me rd (atomWord dbl b')]
    exact hgo
  · subst hrl
    exact hreqs

/-- An SC in the own scratchpad stores while its reservation holds, and else fails (R160). -/
theorem sc_own_performs (hck : s.checkScalar s.cur .write (s.me.readX a) (atomBytes dbl) false = .ok (.spad core off win)) :
    ∃ t, exec (.sc dbl aq rl rd a b) s = .next t ∧ t.me.resv = none ∧
      if s.me.resv = some ⟨spadKey core (off / 8 * 8), none⟩ then performsAtIssue s t rl rd 0 none ∧
        t.mem = Memory.writeBytes s.mem (spadKey core off) (leBytes (atWidth dbl (s.me.readX b)) (atomBytes dbl))
      else performsAtIssue s t rl rd 1 none ∧ t.mem = s.mem := by
  have hj := s.joinedBy_releaseIf rl
  have hex := exec_sc_own ha hb hbr aq rl rd hck
  dsimp only at hex
  split at hex
  · next hheld =>
    obtain ⟨hgo, hmem, hreqs⟩ := State.writeSpad_goesOn hj core off (leBytes (atWidth dbl (s.me.readX b)) (atomBytes dbl))
      (keepsReservation_sc rd 0)
    refine ⟨_, hex, by rw [State.me_complete]; rfl, ?_⟩
    rw [if_pos hheld]
    exact ⟨⟨hgo, fun hrl => by subst hrl; exact hreqs⟩, hmem⟩
  · next hheld =>
    obtain ⟨hgo, -⟩ := goesOn_of_joinedBy hj (keepsHolds_failed rd fun _ => none)
    have hresv : ((s.releaseIf rl).complete ((s.releaseIf rl).me.failed rd fun _ => none)).me.resv = none := by
      rw [State.me_complete]
      rfl
    refine ⟨_, hex, hresv, ?_⟩
    rw [if_neg hheld]
    refine ⟨⟨?_, fun hrl => by subst hrl; rfl⟩, hj.mem⟩
    rw [hresv]
    exact hgo

end

/-! ### Accesses that return (R120, R124, R125) -/

/-- What an access in virtual space does: it issues again while the outbound queue is full, and else leads it. -/
def sendsAtomic (s : State) (i : Instr) (a : Word) (rd : Reg) (aq : Bool) (op : ReqOp) (dest : Dest) (rel : Bool)
    (lr : Nat → Option Nat) : Prop :=
  if s.niFull s.cur.core = true then exec i s = .next s
  else ∃ t r, exec i s = .next t ∧ posts s t a op [] .none dest r ∧ goesOn t { s.me.empty rd with lr := lr r.id } ∧
    t.mem = s.mem ∧ (rel = true → ∃ q ∈ t.reqs, q.kind = .release 2 ∧ q.id ∈ r.waits ∧ q.id ∈ t.me.holdWrites) ∧
    (rel = false → t.reqs = s.reqs ++ [r]) ∧ (aq = true → r.id ∈ t.me.holdAll)

/-- A request joins, and later accesses wait for it where it acquires (R124). -/
theorem State.joinedBy_acquireIf (s : State) (q : Req) (aq : Bool) : s.joinedBy ((s.addReq q).acquireIf aq) ∧
    ((s.addReq q).acquireIf aq).reqs = (s.addReq q).reqs ∧ ((s.addReq q).acquireIf aq).nextId = s.nextId + 1 ∧
    (aq = true → s.nextId ∈ ((s.addReq q).acquireIf aq).me.holdAll) := by
  cases aq with
  | false =>
    have hmono {l : List Nat} {n : Nat} (hn : n ∈ s.outstanding l) : n ∈ (s.addReq q).outstanding l :=
      State.outstanding_mono (s.mem_addReq q) rfl hn
    exact ⟨⟨rfl, rfl, s.mem_addReq q, Nat.le_succ _, rfl, fun _ => hmono, fun _ => hmono⟩, rfl, rfl, nofun⟩
  | true =>
    refine ⟨s.joinedBy_holdLater q _ _, rfl, rfl, fun _ => ?_⟩
    have hme : ((s.addReq q).acquireIf true).me = _ := State.me_holdLater (s.addReq q) [s.nextId] []
    rw [hme]
    exact List.mem_append_right _ List.mem_cons_self

/-- The hart that waits for an access: its destination is empty, and it has marked or dropped its latest LR (R160). -/
def Hart.awaiting (rd : Reg) (mark : Option Nat → Option Nat) (v : Hart) : Hart := { v.empty rd with lr := mark v.lr }

theorem keepsHolds_awaiting (rd : Reg) (mark : Option Nat → Option Nat) : keepsHolds (Hart.awaiting rd mark) := by
  intro v l w
  rw [Hart.awaiting, v.empty_withHolds]
  rfl

/-- The access goes after the release that precedes it, and before those that wait for it. -/
theorem State.sendAtomic_of_room {s : State} (hroom : ¬ s.niFull s.cur.core = true) {r : Req} (hsrc : r.src = .hart s.cur)
    (harr : r.arrival = .none) (hop : r.op ≠ .arrivalOnly) (aq rl : Bool) (rd : Reg) (mark : Option Nat → Nat → Option Nat) :
    ∃ q : Req, q = { r with born := q.born, waits := q.waits, after := q.after } ∧
      (∀ n ∈ (s.releaseIf rl).outstanding (s.releaseIf rl).me.holdAll, n ∈ q.waits) ∧
      (r.isWrite = true → ∀ n ∈ (s.releaseIf rl).outstanding (s.releaseIf rl).me.holdWrites, n ∈ q.waits) ∧
      s.sendAtomic r aq rl rd mark = (((s.releaseIf rl).addReq q).acquireIf aq).complete
        ((((s.releaseIf rl).addReq q).acquireIf aq).me.awaiting rd fun lr => mark lr (s.releaseIf rl).nextId) := by
  have hcur := (s.joinedBy_releaseIf rl).cur
  obtain ⟨q, he, hq, hall, hwrites⟩ := (s.releaseIf rl).issueReq_plain (s.releaseIf rl).cur (by rw [hcur, hsrc]) harr hop
  obtain ⟨-, -, hid, -⟩ := (s.releaseIf rl).joinedBy_acquireIf q aq
  refine ⟨q, hq, hall, hwrites, ?_⟩
  rw [hcur] at he
  rw [State.sendAtomic, if_neg hroom, he]
  dsimp only
  rw [hid]
  rfl

theorem sendsAtomic_of_exec {s : State} {i : Instr} {a : Word} {rd : Reg} {aq rl : Bool} {op : ReqOp} {dest : Dest}
    {mark : Option Nat → Nat → Option Nat} {r : Req} (hr : r = { s.hartReq s.cur with addr := a, op := op, dest := dest })
    (hop : op ≠ .arrivalOnly) (hwrite : rl = true → r.isWrite = true) (hex : exec i s = .next (s.sendAtomic r aq rl rd mark)) :
    sendsAtomic s i a rd aq op dest rl (mark s.me.lr) := by
  unfold sendsAtomic
  split
  · next hfull => rw [hex, State.sendAtomic, if_pos hfull]
  · next hroom =>
    have hrop : r.op = op := by rw [hr]
    obtain ⟨q, hq, hall, hwrites, hsend⟩ := State.sendAtomic_of_room hroom (r := r) (by rw [hr]; rfl) (by rw [hr]; rfl) (hrop ▸ hop)
      aq rl rd mark
    have hj := s.joinedBy_releaseIf rl
    obtain ⟨hj', hreqs, hid, hacq⟩ := (s.releaseIf rl).joinedBy_acquireIf q aq
    obtain ⟨hgo, hheld, hheldWrites⟩ := goesOn_of_joinedBy (State.joinedBy_trans hj hj') (keepsHolds_awaiting rd fun lr =>
      mark lr (s.releaseIf rl).nextId)
    have hqwrite : q.isWrite = r.isWrite := by unfold Req.isWrite; rw [hq]
    have hq' : q = { s.hartReq s.cur with
        addr := a, op := op, data := [], arrival := .none, dest := dest, born := q.born, waits := q.waits, after := q.after } := by
      rw [hr] at hq; exact hq
    refine ⟨_, _, hex.trans (congrArg _ hsend), posts_addReq hj hq' hall (fun hw => hwrites (hqwrite ▸ hw)) hreqs hid, hgo,
      (State.joinedBy_trans hj hj').mem, fun hrel => ?_, fun hrel => ?_, fun hq => ?_⟩
    · subst hrel
      obtain ⟨l, hl, hkind, hout⟩ := s.releaseIf_holds
      refine ⟨l, hj'.reqs l hl, hkind, hwrites (hwrite rfl) _ hout, ?_⟩
      rw [hheldWrites]
      exact (Hart.empty_holdWrites _ rd).symm ▸ (State.mem_outstanding.1 (hj'.holdWrites _ hout)).1
    · subst hrel
      exact hreqs
    · rw [hheld]
      exact (Hart.empty_holdAll _ rd).symm ▸ hacq hq

/-- Settles O18. In the own scratchpad an access performs at issue; in virtual space it leads the queue, and its hart waits for it. -/
theorem atomicsInMemory : Obligations.AtomicsInMemory := by
  refine ⟨?_, ?_⟩
  · intro s op dbl aq rl rd a b core off win n addr key old word granule new done stores ha
    refine ⟨fun hck hbr hpo => ?_, fun hb hbr => ⟨fun hck hpo => ?_, fun hck => ?_⟩⟩
    · have hme := State.me_complete s { s.me.fill rd word with resv := some granule, lr := none }
      refine ⟨_, exec_lr_own ha hbr aq rl rd hck hpo, ⟨goesOn_of_me ?_, fun _ => rfl⟩, congrArg Hart.resv hme, rfl, rfl⟩
      exact hme.trans (congrArg (fun r => ({ s.me.fill rd word with resv := r, lr := none } : Hart).next) (congrArg Hart.resv hme).symm)
    · obtain ⟨t, hex, hdone, hmem⟩ := amo_own_performs ha hb hbr aq rl rd op hck hpo
      exact ⟨t, hex, hdone, hmem, keepsMemoryBut_of_writeBytes hmem (length_leBytes _ _)⟩
    · obtain ⟨t, hex, hresv, hout⟩ := sc_own_performs ha hb hbr aq rl rd hck
      refine ⟨t, hex, hresv, ?_⟩
      split at hout
      · next hheld =>
        obtain ⟨hdone, hmem⟩ := hout
        rw [if_pos hheld]
        rw [atWidth_eq] at hmem
        exact ⟨hdone, hmem, keepsMemoryBut_of_writeBytes hmem (length_leBytes _ _)⟩
      · next hheld =>
        rw [if_neg hheld]
        exact hout
  · intro s op atom dbl aq rl rd a b va hop n addr sends ha hp hal
    have hck (k : Kind) : s.checkScalar s.cur k addr (atomBytes dbl) false = .ok (.virt va) :=
      State.checkScalar_virtual hp (by rw [State.aligned_virt hp]; exact beq_iff_eq.2 hal)
    refine ⟨fun hbr => ?_, fun hb hbr => ⟨?_, fun hlr => ?_, fun hlr => ?_⟩⟩
    · exact sendsAtomic_of_exec (mark := fun _ id => some id) rfl (by simp) nofun (exec_lr_virtual ha hbr aq rl rd (hck .read))
    · have hall : ∀ x ∈ ([(.add, .add), (.swap, .swap), (.xor, .xor), (.or, .or), (.and, .and), (.min, .min), (.max, .max),
          (.minu, .minu), (.maxu, .maxu)] : List (AmoOp × AtomOp)), amoAtom x.1 = x.2 := by decide
      have hatom : amoAtom op = atom := hall _ hop
      subst hatom
      exact sendsAtomic_of_exec (mark := fun lr _ => lr) rfl (by simp) (fun _ => rfl)
        (exec_amo_virtual ha hb hbr aq rl rd op (hck .readWrite))
    · have hex := exec_sc_virtual ha hb hbr aq rl rd (hck .write)
      rw [if_neg (by simpa using hlr)] at hex
      exact sendsAtomic_of_exec (mark := fun _ _ => none) rfl (by simp) (fun _ => rfl) hex
    · have hex := exec_sc_virtual ha hb hbr aq rl rd (hck .write)
      rw [if_pos (by simpa using hlr)] at hex
      have hj := s.joinedBy_releaseIf rl
      obtain ⟨hgo, -⟩ := goesOn_of_joinedBy hj (keepsHolds_failed rd id)
      exact ⟨_, hex, hgo, hj.mem, fun hrl => by subst hrl; rfl⟩

end Sys2Proof.Machine
end

section
/-! SUPPORT. Answers to the requests of harts: fills, acknowledgements, retries and faults, and releases and acquires that complete
(R120, R124, R125, R265, R365 to R367); then the statement RequestsComplete. -/

namespace Sys2Proof.Machine

/-! ### What finding a fault leaves -/

@[simp] theorem State.hold_reqs (s : State) (h : HartRef) : (s.hold h).reqs = s.reqs := by
  obtain ⟨_, he⟩ := s.hold_eq h; rw [he]

@[simp] theorem State.raise_reqs (s : State) (d : DieId) (f : FaultRec) : (s.raise d f).reqs = s.reqs := by
  obtain ⟨_, _, he⟩ := s.raise_eq d f; rw [he]

theorem State.upcalls_hold (s : State) (h : HartRef) : ((s.hold h).hart h).upcalls = (s.hart h).upcalls := by
  unfold State.hold
  dsimp only
  split
  · rw [State.hart_setHart_same]; rfl
  · rw [State.hart_setHart_same]; rfl
  · rfl

section
variable {s : State} {r : Req} {h : HartRef}

/-- Records that follow a fault are those of its die: the request alone has changed. -/
theorem State.recordFault_spec (s : State) (r : Req) (code : BitVec 8) (addr : Word) (detail : BitVec 16) (source : Nat) :
    (s.recordFault r code addr detail source).reqs = (s.setReq { r with stage := .recorded code }).reqs ∧
      (s.recordFault r code addr detail source).mem = s.mem := by
  obtain ⟨f, d, he⟩ : ∃ f d, s.recordFault r code addr detail source = (s.setReq { r with stage := .recorded code }).raise d f :=
    ⟨_, _, rfl⟩
  rw [he]
  exact ⟨State.raise_reqs _ _ _, State.raise_mem _ _ _⟩

/-! ### Steps on a request of a hart -/

section
variable (harg : s.arg = .request r.id) (hreq : s.req? r.id = some r) (hsrc : r.src = .hart h)
include harg hreq hsrc

theorem State.atAnswer_of_hart (hhere : s.answerHere r = true) (f : Req → State) : s.atAnswer f = .next (f r) := by
  unfold State.atAnswer
  rw [State.atRequest_of_arg harg, hreq]
  simp only [hsrc, hhere, if_true]

end

/-- A request of a hart that no put window counts just leaves. -/
theorem State.finishReq_of_hart (s : State) (hsrc : r.src = .hart h) (hwin : r.windows = []) : s.finishReq r = s.dropReq r.id := by
  unfold State.finishReq
  rw [hwin, hsrc]
  rfl

/-! ### Fills (R120, R231) -/

/-- Where a running hart neither drains nor saves its image, its registers fill. -/
theorem Hart.fills_of_running {v : Hart} (hst : v.st = .running) (hjob : v.job = .none) : v.holdsFills = false := by
  unfold Hart.holdsFills
  rw [hst, hjob]
  rfl

section
variable (himg : r.image = none) (hst : (s.hart h).st = .running) (hjob : (s.hart h).job = .none)
include himg hst hjob

theorem State.fillRegister_of_running (x : Reg) (v : Word) : s.fillRegister r h x v = s.setHart h ((s.hart h).fill x v) := by
  unfold State.fillRegister
  rw [himg]
  exact if_neg (by rw [Hart.fills_of_running hst hjob]; decide)

variable (hsrc : r.src = .hart h)
include hsrc

theorem State.fillDest_xreg {rd : Reg} {dbl : Bool} (hdest : r.dest = .xreg rd dbl) (data : List Byte) :
    s.fillDest r data = s.setHart h ((s.hart h).fill rd (atomWord dbl data)) := by
  unfold State.fillDest
  simp only [hdest, hsrc]
  exact State.fillRegister_of_running himg hst hjob _ _

theorem State.fillDest_load {rd : Reg} {f : LoadForm} (hdest : r.dest = .load rd f) (data : List Byte) :
    s.fillDest r data = s.setHart h ((s.hart h).fill rd (loadValue ((s.hart h).csr.compat.getLsbD 2) f data)) := by
  unfold State.fillDest
  simp only [hdest, hsrc]
  exact State.fillRegister_of_running himg hst hjob _ _

theorem State.fillWaits_of_running : s.fillWaits r = false := by
  unfold State.fillWaits
  rw [hsrc, himg]
  exact Hart.fills_of_running hst hjob

variable (harg : s.arg = .request r.id) (hreq : s.req? r.id = some r) (hhere : s.answerHere r = true)
include harg hreq hhere

/-- The answer to a request for a register fills it, and the request is gone (R120). -/
theorem exec_splitPhaseFill_of_register (hkind : r.kind = .access) {data : List Byte} (hstage : r.stage = .answered (.done data))
    (hwin : r.windows = []) (hdest : (∃ rd dbl, r.dest = .xreg rd dbl) ∨ ∃ rd f, r.dest = .load rd f) :
    exec .splitPhaseFill s = .next ((s.fillDest r data).dropReq r.id) := by
  have hack : r.acknowledged = false := by
    unfold Req.acknowledged
    rcases hdest with ⟨rd, dbl, hd⟩ | ⟨rd, f, hd⟩ <;> rw [hd, Bool.and_false]
  show execSplitPhaseFill s = _
  unfold execSplitPhaseFill
  simp only [harg]
  rw [State.atAnswer_of_hart harg hreq hsrc hhere]
  rw [← State.finishReq_of_hart _ hsrc hwin]
  refine congrArg _ ?_
  rcases hdest with ⟨rd, dbl, hd⟩ | ⟨rd, f, hd⟩ <;>
    simp [State.fillWaits_of_running himg hst hjob hsrc, hkind, hstage, hd, hack]

/-- An acquire whose set has completed fills its register with 0 (R124). -/
theorem exec_splitPhaseFill_of_acquire (hkind : r.kind = .acquire) (hready : s.ready r = true) (hself : r.id ∉ r.waits) :
    exec .splitPhaseFill s = .next (s.completeAcquire r) := by
  show execSplitPhaseFill s = _
  unfold execSplitPhaseFill
  simp only [harg]
  rw [State.atAnswer_of_hart harg hreq hsrc hhere]
  simp [State.fillWaits_of_running himg hst hjob hsrc, hkind, hready, hself]

end

/-! ### Acknowledgements and refusals (R120, R265) -/

/-- No list orders the faults of a hart's own requests (R365). -/
theorem State.earlierDone_of_hart (s : State) (hsrc : r.src = .hart h) : s.earlierDone r = true := by
  unfold State.earlierDone
  rw [hsrc]

section
variable (harg : s.arg = .request r.id) (hreq : s.req? r.id = some r) (hsrc : r.src = .hart h)
include harg hreq hsrc

/-- An acknowledgement alone completes a write (R120). -/
theorem exec_acknowledgementArrival_of_write (hhere : s.answerHere r = true) {data : List Byte}
    (hstage : r.stage = .answered (.done data)) (hwin : r.windows = []) (hop : r.op = .write) (hdest : r.dest = .none)
    (harr : r.arrival = .none) : exec .acknowledgementArrival s = .next (s.dropReq r.id) := by
  have hack : r.acknowledged = true := by
    unfold Req.acknowledged Req.isWrite
    rw [hop, hdest]
    rfl
  have hhome : s.homeArrival r = false := by
    unfold State.homeArrival
    rw [harr]
  show execAcknowledgementArrival s = _
  unfold execAcknowledgementArrival
  rw [State.atAnswer_of_hart harg hreq hsrc hhere, hstage, ← State.finishReq_of_hart s hsrc hwin]
  simp [hack, State.completeWrite, hhome]

section
variable (hhere : s.answerHere r = true)
include hhere

/-- A refused request goes again after its back-off (R265). -/
theorem exec_negativeAcknowledgement_again (hstage : r.stage = .answered .refused) (hroom : s.retriesOf r.core < 32)
    (hretries : r.retries < 16) : exec .negativeAcknowledgement s = .next (s.setReq { r with
      stage := .retry (s.coreCycle r.core + min (64 * 2 ^ r.retries) 8192), retries := r.retries + 1 }) := by
  show execNegativeAcknowledgement s = _
  unfold execNegativeAcknowledgement
  rw [State.atAnswer_of_hart harg hreq hsrc hhere, hstage]
  dsimp only
  rw [if_neg (by omega), if_neg (by omega)]
  rfl

/-- A request refused 16 times is faulted (R265). -/
theorem exec_negativeAcknowledgement_last (hstage : r.stage = .answered .refused) (hretries : r.retries = 16) :
    ∃ addr, exec .negativeAcknowledgement s = .next (s.faultReq r 0x31 addr 16 2) ∧ ∀ k, r.op = .read k → addr = r.addr := by
  refine ⟨match r.op with | .message t _ => t | _ => r.addr, ?_, fun k hop => by rw [hop]⟩
  show execNegativeAcknowledgement s = _
  unfold execNegativeAcknowledgement
  rw [State.atAnswer_of_hart harg hreq hsrc hhere, hstage]
  dsimp only
  rw [if_pos (by omega), s.earlierDone_of_hart hsrc]
  exact congrArg _ (if_pos rfl)

end

end

/-! ### Faults (R365 to R367) -/

/-- A faulted request of a hart that is no fetch waits for its record (R366). -/
theorem State.faultReq_of_hart (s : State) (hsrc : r.src = .hart h) (hfetch : ∀ l, r.dest ≠ .fetch l)
    (hstaged : ∀ a x, r.dest ≠ .staged a x) (code : BitVec 8) (addr : Word) (detail : BitVec 16) (source : Nat) :
    s.faultReq r code addr detail source = s.recordFault r code addr detail source := by
  unfold State.faultReq
  rw [hsrc]
  split <;> simp_all

/-- A faulted fetch waits for the slot of its hart (log 22). -/
theorem State.faultReq_of_fetch (s : State) (hsrc : r.src = .hart h) {l : Nat} (hdest : r.dest = .fetch l)
    (hf : (s.hart h).fetching = some r.id) (code : BitVec 8) (addr : Word) (detail : BitVec 16) (source : Nat) :
    s.faultReq r code addr detail source = s.setReq { r with stage := .answered (.faulted code addr detail) } := by
  unfold State.faultReq
  rw [hsrc, hdest]
  exact if_pos hf

theorem State.useOwner_eq (s : State) (r : Req) : ∃ cores, s.useOwner r = { s with cores := cores } := by
  unfold State.useOwner
  dsimp only
  split <;> exact ⟨_, rfl⟩

/-- A fault that an upcall will deliver waits in the retry buffer (R367). -/
theorem State.waitUpcall_spec (s : State) (r : Req) (h : HartRef) (code : BitVec 8) (addr : Word) :
    (s.waitUpcall r h code addr).reqs = (s.setReq { r with stage := .faulted code addr }).reqs ∧
      (s.waitUpcall r h code addr).mem = s.mem ∧
      ((s.waitUpcall r h code addr).hart h).upcalls = (s.hart h).upcalls ++ [⟨code, addr, r.id⟩] := by
  unfold State.waitUpcall
  dsimp only
  split
  · exact ⟨State.hold_reqs _ _, State.hold_mem _ _, (State.upcalls_hold _ _).trans (by rw [State.hart_setHart_same])⟩
  · exact ⟨rfl, rfl, by rw [State.hart_setHart_same]⟩

section
variable (harg : s.arg = .request r.id) (hreq : s.req? r.id = some r) (hsrc : r.src = .hart h)
include harg hreq hsrc

/-- A faulted access of a hart that is no fetch goes to an upcall where one takes it, and else to a record (R366, R367). -/
theorem exec_remoteFaultArrival_of_access (hhere : s.answerHere r = true) {code : BitVec 8} {addr : Word} {detail : BitVec 16}
    (hstage : r.stage = .answered (.faulted code addr detail)) (hfetch : ∀ l, r.dest ≠ .fetch l)
    (hstaged : ∀ a x, r.dest ≠ .staged a x) : exec .remoteFaultArrival s = .next (
      if isTranslation code = true ∧ r.user = true ∧ (s.hart h).csr.upvec ≠ 0 ∧ (s.hart h).st ≠ .off
      then s.waitUpcall r h code addr else s.recordFault r code addr detail (if code.toNat / 16 = 4 then 3 else 2)) := by
  have hh : r.src.hart? = some h := by rw [hsrc]; rfl
  show execRemoteFaultArrival s = _
  unfold execRemoteFaultArrival
  rw [State.atAnswer_of_hart harg hreq hsrc hhere, hstage, hh]
  simp only [answerFault, s.earlierDone_of_hart hsrc, s.faultReq_of_hart hsrc hfetch hstaged]
  split <;> simp_all

/-! ### Retries (R265) -/

omit hsrc in
/-- A request whose back-off has passed goes to its home again (R265). -/
theorem exec_retrySend_home {due : Nat} {die : DieId} (hstage : r.stage = .retry due) (hdue : due ≤ s.coreCycle r.core)
    (hrun : (s.die (dieOf r.core)).halted = false) (hway : s.wayOf r = .go s.device.toNat die) :
    exec .retrySend s = .next ((s.useOwner r).launch { r with low := s.lowOf r, via := some (s.device.toNat, die.val) }
      s.device.toNat die) := by
  show execRetrySend s = _
  unfold execRetrySend
  rw [State.atRequest_of_arg harg, hreq]
  simp [hstage, hdue, hrun, hway, State.portOpen]

/-! ### Releases and acquires that complete (R124, R125) -/

/-- A release whose set has completed performs (R125). -/
theorem exec_releasePerform_of_ready {scope : BitVec 2} (hkind : r.kind = .release scope) (hready : s.ready r = true) :
    exec .releasePerform s = .next (if scope = 3 then (s.setHart h { s.hart h with windowsUsed := [] }).completeAcquire r
      else s.completeAcquire r) := by
  show execReleasePerform s = _
  unfold execReleasePerform
  simp only [harg]
  rw [State.atRequest_of_arg harg, hreq]
  simp only [hkind, hready, hsrc, if_true]
  split
  · next g hg =>
    cases hg
    rfl
  · next hne =>
    exact congrArg _ (if_neg fun h3 => hne h h3 rfl).symm

end

end

/-- What `completeAcquire` leaves where the hart runs: the register is 0, and the request is gone (R124, R125). -/
theorem State.completeAcquire_of_running {s : State} {r : Req} {h : HartRef} (hsrc : r.src = .hart h) (himg : r.image = none)
    (hst : (s.hart h).st = .running) (hjob : (s.hart h).job = .none) {rd : Reg} (hdest : r.dest = .xreg rd true) :
    s.completeAcquire r = (s.setHart h ((s.hart h).fill rd 0)).dropReq r.id := by
  unfold State.completeAcquire
  rw [State.fillDest_xreg himg hst hjob hsrc hdest]
  rfl

/-- Settles O34. The answer, the refusal or the fault of a request, and the set of a release or an acquire, decide its step. -/
theorem requestsComplete : Obligations.RequestsComplete := by
  intro s r h harg hreq hsrc hwin himg v staged gone
  refine ⟨fun data hkind hstage hhere => ⟨fun hop hdest harr => ?_, fun rd dbl hdest hst hjob => ?_, fun rd f hdest hst hjob => ?_⟩,
    fun hstage hhere hroom hretries => exec_negativeAcknowledgement_again harg hreq hsrc hhere hstage hroom hretries,
    fun hstage hhere hretries => ⟨fun hfetch hstaged => ?_, fun l k hdest hop hf => ?_⟩,
    fun due die hstage hdue hrun hway => ?_, fun code addr detail hstage hhere hfetch hstaged => ?_,
    fun scope rd hkind hready hdest hst hjob => ?_, fun rd hkind hready hhere hself hdest hst hjob => ?_⟩
  · exact ⟨_, exec_acknowledgementArrival_of_write harg hreq hsrc hhere hstage hwin hop hdest harr, rfl, rfl, rfl⟩
  · have hex := exec_splitPhaseFill_of_register himg hst hjob hsrc harg hreq hhere hkind hstage hwin (.inl ⟨rd, dbl, hdest⟩)
    rw [State.fillDest_xreg himg hst hjob hsrc hdest] at hex
    exact ⟨_, hex, rfl, rfl, State.hart_setHart_same s h _⟩
  · have hex := exec_splitPhaseFill_of_register himg hst hjob hsrc harg hreq hhere hkind hstage hwin (.inr ⟨rd, f, hdest⟩)
    rw [State.fillDest_load himg hst hjob hsrc hdest] at hex
    exact ⟨_, hex, rfl, rfl, State.hart_setHart_same s h _⟩
  · obtain ⟨addr, hex, -⟩ := exec_negativeAcknowledgement_last harg hreq hsrc hhere hstage hretries
    rw [s.faultReq_of_hart hsrc hfetch hstaged] at hex
    exact ⟨_, hex, s.recordFault_spec r _ _ _ _⟩
  · obtain ⟨addr, hex, haddr⟩ := exec_negativeAcknowledgement_last harg hreq hsrc hhere hstage hretries
    rw [s.faultReq_of_fetch hsrc hdest hf, haddr k hop] at hex
    exact hex
  · have hex := exec_retrySend_home harg hreq hstage hdue hrun hway
    obtain ⟨cores, hown⟩ := s.useOwner_eq r
    rw [hown] at hex
    exact ⟨_, _, hex.trans (congrArg _ (State.launch_home { s with cores := cores } _ die)), rfl, rfl, rfl, rfl, rfl, rfl, rfl, rfl⟩
  · have hex := exec_remoteFaultArrival_of_access harg hreq hsrc hhere hstage hfetch hstaged
    refine ⟨fun hno => ?_, fun htrans huser hvec hst => ?_⟩
    · have hrecord : ¬ (isTranslation code = true ∧ r.user = true ∧ (s.hart h).csr.upvec ≠ 0 ∧ (s.hart h).st ≠ .off) := by
        rintro ⟨htrans, huser, hvec, -⟩
        rcases hno with hcode | hmode | hbase
        · exact hcode (beq_iff_eq.1 htrans)
        · rw [huser] at hmode
          cases hmode
        · exact hvec hbase
      rw [if_neg hrecord] at hex
      exact ⟨_, hex, s.recordFault_spec r _ _ _ _⟩
    · rw [if_pos ⟨by unfold isTranslation; exact beq_iff_eq.2 htrans, huser, hvec, by rw [hst]; decide⟩] at hex
      exact ⟨_, hex, s.waitUpcall_spec r h code addr⟩
  · have hex := exec_releasePerform_of_ready harg hreq hsrc hkind hready
    split at hex
    · next hscope =>
      have hme := State.hart_setHart_same s h { s.hart h with windowsUsed := [] }
      rw [State.completeAcquire_of_running hsrc himg (by rw [hme]; exact hst) (by rw [hme]; exact hjob) hdest, State.setHart_setHart,
        hme] at hex
      refine ⟨_, hex, rfl, rfl, (State.hart_setHart_same s h _).trans ?_⟩
      rw [if_pos hscope]
      unfold Hart.fill
      split <;> rfl
    · next hscope =>
      rw [State.completeAcquire_of_running hsrc himg hst hjob hdest] at hex
      refine ⟨_, hex, rfl, rfl, (State.hart_setHart_same s h _).trans ?_⟩
      rw [if_neg hscope, ← Hart.fill_windowsUsed v rd 0]
  · have hex := exec_splitPhaseFill_of_acquire himg hst hjob hsrc harg hreq hhere hkind hready hself
    rw [State.completeAcquire_of_running hsrc himg hst hjob hdest] at hex
    exact ⟨_, hex, rfl, rfl, State.hart_setHart_same s h _⟩

end Sys2Proof.Machine
end

section
/-! SUPPORT. The host's register writes, its aperture and window, and its link (R134, R314, R315, R321, R408), with the statement
HostSteps. -/

namespace Sys2Proof.Machine

/-! ### Records of agents (R371, R373) -/

/-- A fault that is found waits at its die, to be written or for room (R373). -/
theorem State.raise_recorded (s : State) (d : DieId) {f : FaultRec} (h : f.hart = none) :
    f ∈ ((s.raise d f).die d).found ++ ((s.raise d f).die d).holding := by
  unfold State.raise
  dsimp only
  split
  · rw [h]
    simp
  · simp

theorem State.raise_hostRead (s : State) (d : DieId) (f : FaultRec) : (s.raise d f).hostRead = s.hostRead := by
  obtain ⟨_, _, he⟩ := s.raise_eq d f; rw [he]

theorem State.raise_cxlUp (s : State) (d : DieId) (f : FaultRec) : (s.raise d f).cxlUp = s.cxlUp := by
  obtain ⟨_, _, he⟩ := s.raise_eq d f; rw [he]

theorem recordWord0_code (code : BitVec 8) (source : Nat) (seq : BitVec 8) (unit : Nat) (func : BitVec 8) (ctx : BitVec 8)
    (asid : BitVec 16) : (recordWord0 code source seq unit func ctx asid).extractLsb' 0 8 = code := Laws.extract_here _ _

/-- The record of an agent's fault is found with its code and DETAIL. -/
theorem State.raise_agentRecord (s t : State) (d e : DieId) (code : BitVec 8) (source : Nat) (fn ctx : BitVec 8) (asid : BitVec 16)
    (addr : Word) (detail : BitVec 16) : recordsOn (s.raise d (t.agentRecord e code source fn ctx asid addr detail)) d code detail :=
  ⟨_, s.raise_recorded d rfl, recordWord0_code _ _ _ _ _ _ _, rfl⟩

/-! ### Writes of bytes -/

/-- A write of bytes changes them, poison, reservations and nothing else (R160, R377). -/
theorem State.writeAt_eq (s : State) (key : Nat) (b : List Byte) : ∃ poison cores resv, s.writeAt key b = { s with
    mem := Memory.writeBytes s.mem key b, poison := poison, cores := cores, foreignResv := resv } := by
  obtain ⟨poison, cores, resv, he⟩ := s.writeKeys_eq (b.zipIdx.map fun (x, i) => (key + i, x))
  exact ⟨poison, cores, resv, by rw [← s.writeAt_mem key b, State.writeAt, he]⟩

/-- Bytes that have been written are read. -/
theorem Memory.readBytes_writeBytes {m : List Host.Cell} (hm : Memory.wf m = true) (k : Nat) {b : List Byte} {n : Nat}
    (hn : b.length = n) : Memory.readBytes (Memory.writeBytes m k b) k n = b := by
  subst hn
  refine List.ext_getElem (Memory.length_readBytes _ _ _) fun i h₁ h₂ => ?_
  simp only [Memory.readBytes_eq_map, List.getElem_map, List.getElem_range]
  exact Memory.read_writeBytes b hm h₂

/-! ### Flushes (R315) -/

/-- A write of the host to a register performs where its step takes it (R319). -/
theorem State.onWrite_of_host {s : State} {d : DieId} {off : Nat} {w : Word} (hw : hostWrites s d off w)
    {accept : DieId → Nat → Word → Bool} (hacc : accept d off w = true) (perform : State → DieId → Nat → Word → State) :
    s.onWrite accept perform = .next (perform s d off w) := by
  obtain ⟨b, harg, hreg⟩ := hw
  unfold State.onWrite
  split
  · next src hsrc =>
    cases harg.symm.trans hsrc
    rw [hreg]
    exact if_neg (by rw [hacc]; decide)
  · next hno => exact absurd harg (hno _)

/-- What a flush command leaves: one that runs goes on, and another waits for the writes that it covers (R315). -/
def State.flushing (s : State) (covers : Req → Bool) : State :=
  if s.hflBusy then s
  else { s with hflBusy := true, hflWaits := (s.reqs.filter fun r => r.src == .host && r.isWrite && covers r).map (·.id) }

theorem State.flushCommand_of_write {s : State} {d : DieId} {w : Word} (hw : hostWrites s d 0x30000 w) {cmd : Nat}
    (hcmd : (w.extractLsb' 0 2).toNat = cmd) (covers : State → Req → Bool) :
    s.flushCommand cmd covers = .next (s.flushing (covers s)) :=
  State.onWrite_of_host hw (by rw [field_eq_extract, hcmd]; simp) _

/-- A flush command is ignored while one runs, and else waits for the writes that it covers. -/
theorem flushes_of_command {s : State} {i : Instr} {covers : Req → Bool} {P : Req → Prop} (hP : ∀ r, covers r = true ↔ P r)
    (hex : exec i s = .next (s.flushing covers)) : (s.hflBusy = true → exec i s = .next s) ∧
      (s.hflBusy = false → ∃ l, exec i s = .next { s with hflBusy := true, hflWaits := l } ∧
        ∀ n, n ∈ l ↔ ∃ r ∈ s.reqs, r.id = n ∧ r.src = .host ∧ r.isWrite = true ∧ P r) := by
  refine ⟨fun hbusy => hex.trans (congrArg _ (if_pos hbusy)), fun hidle =>
    ⟨_, hex.trans (congrArg _ (if_neg (by rw [hidle]; decide))), fun n => ?_⟩⟩
  simp only [List.mem_map, List.mem_filter, Bool.and_eq_true, beq_iff_eq, hP]
  constructor
  · rintro ⟨r, ⟨hr, ⟨hsrc, hwrite⟩, hcov⟩, rfl⟩
    exact ⟨r, hr, rfl, hsrc, hwrite, hcov⟩
  · rintro ⟨r, hr, rfl, hsrc, hwrite, hcov⟩
    exact ⟨r, ⟨hr, ⟨hsrc, hwrite⟩, hcov⟩, rfl⟩

/-- Nothing of a list is outstanding where no request and no message has its numbers. -/
theorem State.outstanding_eq_nil {s : State} {l : List Nat}
    (h : ∀ n ∈ l, (∀ r ∈ s.reqs, r.id ≠ n) ∧ ∀ m ∈ s.msgs, m.id ≠ n) : s.outstanding l = [] := by
  refine List.eq_nil_iff_forall_not_mem.2 fun n hn => ?_
  obtain ⟨hin, ⟨r, hr, hid⟩ | ⟨m, hm, hid⟩⟩ := State.mem_outstanding.1 hn
  · exact (h n hin).1 r hr hid
  · exact (h n hin).2 m hm hid

/-- A flag's count after one more arrival (R76). -/
def countedOnce (w : Nat) : Nat := w / 2 ^ 48 * 2 ^ 48 + (w % 2 ^ 48 + 1) % 2 ^ 48

theorem countedOnce_lt {w : Nat} (h : w < 256 ^ 8) : countedOnce w < 256 ^ 8 := by
  unfold countedOnce
  omega

/-- A flush that waits for nothing more counts its arrival (R315). -/
theorem exec_hostFlushComplete_of_done {s : State} (hbusy : s.hflBusy = true) (hdone : s.outstanding s.hflWaits = [])
    (hline : 8 * s.hflFlag.toNat / 64 ∉ s.hostLines) (hpo : s.anyPoisoned [windowKey (8 * s.hflFlag.toNat)] = false) :
    exec .hostFlushComplete s = .next (State.writeAt { s with hflBusy := false, hflWaits := [] } (windowKey (8 * s.hflFlag.toNat))
      (leBytes (countedOnce (leNat (Memory.readBytes s.mem (windowKey (8 * s.hflFlag.toNat)) 8))) 8)) := by
  have hpo' : State.anyPoisoned { s with hflBusy := false, hflWaits := [] } [windowKey (8 * s.hflFlag.toNat)] = false := hpo
  show execHostFlushComplete s = _
  unfold execHostFlushComplete
  rw [if_pos ⟨hbusy, by rw [hdone]; rfl⟩, State.finishFlush]
  dsimp only
  rw [if_neg (by simpa using hline), hpo']
  rfl

/-! ### The aperture (R315) -/

theorem State.hostOpen_iff (s : State) : s.hostOpen = true ↔ s.phase = .ready ∧ s.cxlUp = true := by
  unfold State.hostOpen
  simp

theorem apertureSpan_iff (off n : Nat) : apertureSpan off n = true ↔ 0 < n ∧ off % 64 + n ≤ 64 ∧ off + n ≤ 2 ^ 32 := by
  unfold apertureSpan
  simp [and_assoc]

section
variable {s : State} {off n : Nat} {data : List Byte}

theorem exec_hostApertureWrite_of_arg (harg : s.arg = .hostWrite off data) : exec .hostApertureWrite s =
    .next (if s.hostOpen ∧ apertureSpan off data.length then s.hostAccess off .write data else s) := by
  show execHostApertureWrite s = _
  unfold execHostApertureWrite
  rw [harg, apply_ite Host.Outcome.next]

theorem exec_hostApertureRead_of_arg (harg : s.arg = .hostRead off n) : exec .hostApertureRead s =
    .next (if s.hostOpen ∧ apertureSpan off n then s.hostAccess off (.read n) [] else s) := by
  show execHostApertureRead s = _
  unfold execHostApertureRead
  rw [harg, apply_ite Host.Outcome.next]

/-- An access of a bound context leaves in its address space (R315). -/
theorem State.hostAccess_of_bound {c : Ctx} (hctx : s.ctx? s.hapCtx = some c) (op : ReqOp) (b : List Byte) :
    s.hostAccess off op b = s.addReq { s.blankReq .host 0 with
      asid := c.asid, ctx := some s.hapCtx, addr := BitVec.ofNat 64 (s.hapBase.toNat * 2 ^ 32 + off), op := op, data := b } := by
  unfold State.hostAccess
  rw [hctx]

/-- A read of an unbound context returns all ones, and is recorded (R315). -/
theorem State.hostAccess_of_unbound (hctx : s.ctx? s.hapCtx = none) (n : Nat) :
    (s.hostAccess off (.read n) []).hostRead = List.replicate n 0xFF ∧ recordsOn (s.hostAccess off (.read n) []) 0 0x36 0 ∧
      (s.hostAccess off (.read n) []).mem = s.mem := by
  unfold State.hostAccess
  rw [hctx]
  exact ⟨State.raise_hostRead _ _ _, State.raise_agentRecord _ _ _ _ _ _ _ _ _ _ _, State.raise_mem _ _ _⟩

end

/-! ### The coherent window (R134, R314) -/

theorem mem_windowLines {off n i : Nat} (hi : i < n) :
    (off + i) / 64 ∈ windowLines ((List.range n).map fun i => windowKey (off + i)) := by
  unfold windowLines
  refine List.mem_dedup.2 (List.mem_map.2 ⟨windowKey (off + i), List.mem_filter.2 ⟨?_, ?_⟩, ?_⟩)
  · exact List.mem_map.2 ⟨i, List.mem_range.2 hi, rfl⟩
  · exact decide_eq_true (Nat.le_add_right _ _)
  · rw [windowKey, Nat.add_sub_cancel_left]

/-- The host holds a copy of every line of the bytes, beside those that it held (R314). -/
theorem State.hostLines_holdLines (s : State) (off n : Nat) :
    (∀ i, i < n → (off + i) / 64 ∈ (s.holdLines off n).hostLines) ∧ ∀ l ∈ s.hostLines, l ∈ (s.holdLines off n).hostLines := by
  refine ⟨fun i hi => ?_, fun l hl => List.mem_append_left _ hl⟩
  by_cases hheld : (off + i) / 64 ∈ s.hostLines
  · exact List.mem_append_left _ hheld
  · exact List.mem_append_right _ (List.mem_filter.2 ⟨mem_windowLines hi, by simpa using hheld⟩)

section
variable {s : State} {off n : Nat} {data : List Byte}

theorem exec_hostWindowWrite_of_write (harg : s.arg = .hostWrite off data) : exec .hostWindowWrite s =
    .next (if s.hostOpen ∧ 0 < data.length ∧ off + data.length ≤ 2 ^ 22 then
      (s.writeAt (windowKey off) data).holdLines off data.length else s) := by
  show execHostWindowWrite s = _
  unfold execHostWindowWrite
  rw [harg, apply_ite Host.Outcome.next]

/-- A read of the window returns its bytes (R314). -/
theorem exec_hostWindowWrite_of_read (harg : s.arg = .hostRead off n) (hopen : s.hostOpen = true) (hn : 0 < n)
    (hin : off + n ≤ 2 ^ 22) (hpo : s.anyPoisoned ((List.range n).map fun i => windowKey (off + i)) = false) :
    exec .hostWindowWrite s = .next { s.holdLines off n with hostRead := Memory.readBytes s.mem (windowKey off) n } := by
  have hread : (s.holdLines off n).readKeys ((List.range n).map fun i => windowKey (off + i)) =
      Memory.readBytes s.mem (windowKey off) n := by
    rw [Memory.readBytes_eq_map, State.readKeys, List.map_map]
    exact List.map_congr_left fun i _ => congrArg (Memory.read s.mem) (Nat.add_assoc (2 ^ 45) off i).symm
  have hpo' : (s.holdLines off n).anyPoisoned ((List.range n).map fun i => windowKey (off + i)) = false := hpo
  show execHostWindowWrite s = _
  unfold execHostWindowWrite
  rw [harg]
  dsimp only
  rw [if_pos ⟨hopen, hn, hin⟩, hpo', hread]
  rfl

end

/-! ### The link (R408) -/

section
variable {s : State}

theorem exec_cxlLinkDown_of_up (h : s.cxlUp = true) : ∃ t, exec .cxlLinkDown s = .next t ∧ t.cxlUp = false ∧
    recordsOn t 0 0x61 0x200 ∧ t.mem = s.mem :=
  ⟨_, if_pos h, State.raise_cxlUp _ _ _, State.raise_agentRecord _ _ _ _ _ _ _ _ _ _ _, State.raise_mem _ _ _⟩

theorem exec_cxlLinkDown_of_down (h : s.cxlUp = false) : exec .cxlLinkDown s = .next s := if_neg (by rw [h]; decide)

theorem exec_cxlLinkReturn_of_up (h : s.cxlUp = true) : exec .cxlLinkReturn s = .next s := if_pos (.inl h)

theorem exec_cxlLinkReturn_of_down (h : s.cxlUp = false) (hready : s.phase = .ready) :
    ((∀ n, s.arg ≠ .line n) → exec .cxlLinkReturn s = .next { s with cxlUp := true, hostLines := [], backInv := [] }) ∧
      ∀ n, s.arg = .line n → exec .cxlLinkReturn s = .next { s with hostLines := [], backInv := [] } := by
  have hex : exec .cxlLinkReturn s = .next { s with
      cxlUp := match s.arg with | .line _ => false | _ => true
      hostLines := [], backInv := [] } := if_neg (by rw [h, hready]; decide)
  refine ⟨fun hno => ?_, fun n harg => ?_⟩
  · rw [hex]
    split
    · next n harg => exact absurd harg (hno n)
    · rfl
  · rw [hex, harg, h]

theorem exec_backInvalidationResponse_of_up (h : s.cxlUp = true) {n : Nat} (harg : s.arg = .line n) :
    exec .backInvalidationResponse s = .next { s with
      hostLines := s.hostLines.filter (· != n), backInv := s.backInv.filter fun x => x.1 != n } := by
  show execBackInvalidationResponse s = _
  unfold execBackInvalidationResponse
  rw [harg]
  exact if_pos h

end

/-- Settles O52. Each step of the host does what the state of its link, its aperture and its window allows. -/
theorem hostSteps : Obligations.HostSteps := by
  intro s d w flushes ready key flag
  refine ⟨fun hw hcmd => ?_, fun hw hcmd => ?_, fun hidle => if_neg (by rw [hidle]; simp), fun hbusy hwaits hline hpo hwf => ?_,
    ?_, fun n harg hup => exec_backInvalidationResponse_of_up hup harg,
    fun hup => ⟨exec_cxlLinkDown_of_up hup, exec_cxlLinkReturn_of_up hup⟩,
    fun hdown => ⟨exec_cxlLinkDown_of_down hdown, exec_cxlLinkReturn_of_down hdown⟩⟩
  · exact flushes_of_command (covers := fun _ => true) (fun _ => by simp)
      (State.flushCommand_of_write hw (congrArg BitVec.toNat hcmd) fun _ _ => true)
  · exact flushes_of_command (fun r => by simp)
      (State.flushCommand_of_write hw (congrArg BitVec.toNat hcmd) fun s r => r.ctx == some s.hflCtx &&
        decide (s.hflAddr.toNat ≤ r.addr.toNat + (r.data.length - 1) ∧ r.addr.toNat < s.hflAddr.toNat + s.hflLen.toNat))
  · have hex := exec_hostFlushComplete_of_done hbusy (State.outstanding_eq_nil hwaits) hline hpo
    have hflag : flag < 256 ^ 8 := by
      have h := leNat_lt (Memory.readBytes s.mem key 8)
      rwa [Memory.length_readBytes] at h
    obtain ⟨_, _, _, he⟩ := State.writeAt_eq { s with hflBusy := false, hflWaits := [] } key (leBytes (countedOnce flag) 8)
    rw [he] at hex
    refine ⟨_, hex, rfl, rfl, rfl, ?_, keepsMemoryBut_of_writeBytes rfl (length_leBytes _ _)⟩
    rw [Memory.readBytes_writeBytes hwf key (length_leBytes _ _), leNat_leBytes_of_lt (countedOnce_lt hflag)]
    rfl
  · intro off n data inside addr leaves
    have hspan (n : Nat) (h : inside n) : apertureSpan off n = true := (apertureSpan_iff off n).2 h
    refine ⟨fun harg hready hin c hctx => ?_, fun harg hready hin => ⟨fun c hctx => ?_, fun hctx => ?_⟩, fun harg hclosed => ?_,
      fun harg hclosed => ?_, fun harg hready hn hin hpo => ?_, fun harg hready hn hin hwf => ?_⟩
    · have hex := exec_hostApertureWrite_of_arg harg
      rw [if_pos ⟨s.hostOpen_iff.2 hready, hspan _ hin⟩, State.hostAccess_of_bound hctx] at hex
      exact ⟨_, hex, rfl, rfl, rfl, rfl, rfl, rfl, rfl, rfl⟩
    · have hex := exec_hostApertureRead_of_arg harg
      rw [if_pos ⟨s.hostOpen_iff.2 hready, hspan _ hin⟩, State.hostAccess_of_bound hctx] at hex
      exact ⟨_, hex, rfl, rfl, rfl, rfl, rfl, rfl, rfl, rfl⟩
    · have hex := exec_hostApertureRead_of_arg harg
      rw [if_pos ⟨s.hostOpen_iff.2 hready, hspan _ hin⟩] at hex
      exact ⟨_, hex, State.hostAccess_of_unbound hctx n⟩
    · have hshut : ¬ s.hostOpen = true := fun h => hclosed (s.hostOpen_iff.1 h)
      exact ⟨(exec_hostApertureWrite_of_arg harg).trans (congrArg _ (if_neg fun h => hshut h.1)),
        (exec_hostWindowWrite_of_write harg).trans (congrArg _ (if_neg fun h => hshut h.1))⟩
    · have hshut : ¬ s.hostOpen = true := fun h => hclosed (s.hostOpen_iff.1 h)
      exact (exec_hostApertureRead_of_arg harg).trans (congrArg _ (if_neg fun h => hshut h.1))
    · exact ⟨_, exec_hostWindowWrite_of_read harg (s.hostOpen_iff.2 hready) hn hin hpo, rfl, rfl, rfl, s.hostLines_holdLines off n⟩
    · have hex := exec_hostWindowWrite_of_write harg
      rw [if_pos ⟨s.hostOpen_iff.2 hready, hn, hin⟩] at hex
      obtain ⟨_, _, _, he⟩ := s.writeAt_eq (windowKey off) data
      rw [he] at hex
      obtain ⟨hnew, hkept⟩ := State.hostLines_holdLines { s with
        mem := Memory.writeBytes s.mem (windowKey off) data, poison := _, cores := _, foreignResv := _ } off data.length
      refine ⟨_, hex, rfl, fun i hi => ⟨?_, hnew i hi⟩, hkept, keepsMemoryBut_of_writeBytes rfl rfl⟩
      rw [show windowKey (off + i) = windowKey off + i from (Nat.add_assoc _ _ _).symm]
      exact Memory.read_writeBytes data hwf hi

end Sys2Proof.Machine
end

section
/-! SUPPORT. Words: every instruction of each of the three tables reads back from its word, and the statements DecodeUndoesEncode and
WordsDecode (R136 to R148, R251, R287). -/

namespace Sys2Proof.Laws.RoundTrip

/-- Core words read back (R139 to R146). The instructions that are left have no core word. -/
theorem of_encodeCore {i : Instr} {w : BitVec 32} (he : encodeCore i = some w) : Statement i := by
  cases i with
  -- The standard subset (R159)
  | scalarLoad k rd rs1 imm => exact scalarLoad k rd rs1 imm | scalarStore k rs1 rs2 imm => exact scalarStore k rs1 rs2 imm
  | amo op dbl aq rl rd rs1 rs2 => exact amo op dbl aq rl rd rs1 rs2 | lr dbl aq rl rd rs1 => exact lr dbl aq rl rd rs1
  | sc dbl aq rl rd rs1 rs2 => exact sc dbl aq rl rd rs1 rs2 | integerOp op => exact integerOp op
  | fence fm pred succ rs1 rd => exact fence fm pred succ rs1 rd | fenceI imm rs1 rd => exact fenceI imm rs1 rd
  | sfenceVma rs1 rs2 => exact sfenceVma rs1 rs2 | wfi => exact wfi | mret => exact mret | sret => exact sret
  | ecall => exact ecall | ebreak => exact ebreak | csrAccess op imm rd src csr => exact csrAccess op imm rd src csr
  -- Custom-0, moves (R144)
  | mov2 b c a d => exact mov2 b c a d | mov a d => exact mov a d | mvpxD p l d => exact mvpxD p l d
  | mvpxW p l d => exact mvpxW p l d | mvxpD p l a => exact mvxpD p l a | mvxpW p l a => exact mvxpW p l a
  | mvbxD p a => exact mvbxD p a | mvbxW p a => exact mvbxW p a | mvip p i => exact mvip p i
  -- Custom-2 (R145)
  | fwait b a => exact fwait b a | fbump a => exact fbump a | tdef b a => exact tdef b a | tarm b a => exact tarm b a
  | trel a => exact trel a | twait a => exact twait a | pstf c w b a => exact pstf c w b a
  | raddfInt c w b a => exact raddfInt c w b a | raddfFloat c w b a => exact raddfFloat c w b a
  | rfadd w b a d => exact rfadd w b a d | rfswap w b a d => exact rfswap w b a d | rfand w b a d => exact rfand w b a d
  | rfor w b a d => exact rfor w b a d | rfxor w b a d => exact rfxor w b a d | rfmin w b a d => exact rfmin w b a d
  | rfmax w b a d => exact rfmax w b a d | rfminu w b a d => exact rfminu w b a d | rfmaxu w b a d => exact rfmaxu w b a d
  | rfaddf w b a d => exact rfaddf w b a d | rcas c w b a d => exact rcas c w b a d | rfenceRel s d => exact rfenceRel s d
  | rfenceAcq s d => exact rfenceAcq s d | msend b a q => exact msend b a q | qmov q d => exact qmov q d
  | callat b a p q => exact callat b a p q | hop b a => exact hop b a | own b a d => exact own b a d
  | ocinv a => exact ocinv a | kget k d => exact kget k d | kset a k => exact kset a k | gbar a => exact gbar a
  | gsum b a d => exact gsum b a d | gmax b a d => exact gmax b a d | gmin b a d => exact gmin b a d
  -- Custom-3 (R146)
  | hstart b a d => exact hstart b a d | hreap a d => exact hreap a d | hsave b a => exact hsave b a
  | hload b a => exact hload b a | hstop => exact hstop | tqpush b a d => exact tqpush b a d
  | tqpop b a d => exact tqpop b a d | psave a => exact psave a | pload a => exact pload a | upret => exact upret
  | cmig a d => exact cmig a d | ovmap b a => exact ovmap b a | ovunmap a => exact ovunmap a
  -- Custom-1 (R142, R143): VA
  | vaAdd g w => exact vaAdd g w | vaSub g w => exact vaSub g w | vaMul g w => exact vaMul g w | vaMin g w => exact vaMin g w
  | vaMax g w => exact vaMax g w | vaSll g w => exact vaSll g w | vaSra g w => exact vaSra g w | vaSrl g w => exact vaSrl g w
  | vaFadd g f => exact vaFadd g f | vaFsub g f => exact vaFsub g f | vaFmul g f => exact vaFmul g f
  | vaFma g f => exact vaFma g f | vaFnma g f => exact vaFnma g f | vaFmin g f => exact vaFmin g f
  | vaFmax g f => exact vaFmax g f | vaSgnj g f => exact vaSgnj g f | vaAnd g => exact vaAnd g | vaOr g => exact vaOr g
  | vaXor g => exact vaXor g | vaSelW g => exact vaSelW g | vaSelD g => exact vaSelD g | vaCeqW g => exact vaCeqW g
  | vaCltW g => exact vaCltW g | vaCltuW g => exact vaCltuW g | vaCeqD g => exact vaCeqD g | vaCltD g => exact vaCltD g
  | vaFceqS g => exact vaFceqS g | vaFcltS g => exact vaFcltS g | vaFcleS g => exact vaFcleS g | vaFceqD g => exact vaFceqD g
  | vaFcltD g => exact vaFcltD g | vaFcleD g => exact vaFcleD g | vaExp2S g => exact vaExp2S g | vaLog2S g => exact vaLog2S g
  | vaRcpS g => exact vaRcpS g | vaRsqrtS g => exact vaRsqrtS g
  -- VS
  | vsPerm g w => exact vsPerm g w | vsBcast g w => exact vsBcast g w | vsZiplo g w => exact vsZiplo g w
  | vsZiphi g w => exact vsZiphi g w | vsRotb g => exact vsRotb g | vsCompress g w => exact vsCompress g w
  | vsExpand g w => exact vsExpand g w | vsRsumD g => exact vsRsumD g | vsRmaxD g => exact vsRmaxD g
  | vsRminD g => exact vsRminD g | vsRsumS g => exact vsRsumS g | vsRmaxS g => exact vsRmaxS g | vsRminS g => exact vsRminS g
  | vsRsumBf g => exact vsRsumBf g | vsRmaxBf g => exact vsRmaxBf g | vsRminBf g => exact vsRminBf g
  | vsRsumHf g => exact vsRsumHf g | vsRmaxHf g => exact vsRmaxHf g | vsRminHf g => exact vsRminHf g
  | vsIrsumW g => exact vsIrsumW g | vsIrsumD g => exact vsIrsumD g | vsIrmaxW g => exact vsIrmaxW g
  | vsIrminW g => exact vsIrminW g | vsIrmaxuW g => exact vsIrmaxuW g | vsIrminuW g => exact vsIrminuW g
  | vsIrmaxD g => exact vsIrmaxD g | vsIrminD g => exact vsIrminD g | vsIrmaxuD g => exact vsIrmaxuD g
  | vsIrminuD g => exact vsIrminuD g
  -- CV
  | cvBf16F32 g c => exact cvBf16F32 g c | cvF16F32 g c => exact cvF16F32 g c | cvF32F64 g c => exact cvF32F64 g c
  | cvI32F32 g c => exact cvI32F32 g c | cvI64F64 g c => exact cvI64F64 g c | cvF32I32 g c => exact cvF32I32 g c
  | cvF64I64 g c => exact cvF64I64 g c | cvE4m3F32 g c => exact cvE4m3F32 g c | cvE5m2F32 g c => exact cvE5m2F32 g c
  | cvI8I32 g => exact cvI8I32 g | cvF32Bf16 g c => exact cvF32Bf16 g c | cvF32F16 g c => exact cvF32F16 g c
  | cvF64F32 g c => exact cvF64F32 g c | cvF32E4m3 g c => exact cvF32E4m3 g c | cvF32E5m2 g c => exact cvF32E5m2 g c
  | cvI32I8 g c => exact cvI32I8 g c | cvMxencE4m3 g => exact cvMxencE4m3 g | cvMxencE5m2 g => exact cvMxencE5m2 g
  | cvF4encLo g => exact cvF4encLo g | cvF4encHi g => exact cvF4encHi g
  -- LS
  | lsLd g => exact lsLd g | lsLdlo g => exact lsLdlo g | lsLdhi g => exact lsLdhi g | lsLdn g => exact lsLdn g
  | lsSt g => exact lsSt g | lsStm g => exact lsStm g
  -- MX
  | mxMm g => exact mxMm g | mxMmw g => exact mxMmw g | mxMmd g => exact mxMmd g | mxMmn g => exact mxMmn g
  | mxZero g => exact mxZero g | mxSt g => exact mxSt g | mxLd g => exact mxLd g
  -- WB
  | wbLd g => exact wbLd g | wbLdc g => exact wbLdc g | wbClr g => exact wbClr g
  -- CE
  | ceRun g => exact ceRun g | ceRunv g => exact ceRunv g
  -- NI
  | niSt g t => exact niSt g t | niTst g t => exact niTst g t | niVaddI32 g t => exact niVaddI32 g t
  | niVaddI64 g t => exact niVaddI64 g t | niVaddF32 g t => exact niVaddF32 g t | niVaddF64 g t => exact niVaddF64 g t
  | niVaddBf16 g t => exact niVaddBf16 g t | niTaddI32 g t => exact niTaddI32 g t | niTaddF32 g t => exact niTaddF32 g t
  | niTaddF64 g t => exact niTaddF64 g t | niGet g t => exact niGet g t | niMsg g => exact niMsg g | niWin g => exact niWin g
  | niCap g => exact niCap g
  | _ => nomatch he

/-- Stream words read back (R147, R148). The instructions that are left have no stream word. -/
theorem of_encodeStream {i : Instr} {w : BitVec 128} (he : encodeStream i = some w) : Statement i := by
  cases i with
  | tdecl f => exact tdecl f | sload f => exact sload f | sstore f => exact sstore f | sfill f => exact sfill f
  | smm f => exact smm f | sew f => exact sew f | sred f => exact sred f | sxpose f => exact sxpose f
  | scvt f => exact scvt f | sgather f => exact sgather f | sscatter f => exact sscatter f | sreduce f => exact sreduce f
  | skern f => exact skern f | sgroup f => exact sgroup f | sput f => exact sput f | sget f => exact sget f
  | sbr f => exact sbr f | sloop f => exact sloop f | sendloop f => exact sendloop f | sswitch f => exact sswitch f
  | swait f => exact swait f | ssignal f => exact ssignal f | sfence f => exact sfence f | shalt f => exact shalt f
  | sown f => exact sown f
  | _ => nomatch he

/-- Copy commands read back (R251, R252). The instructions that are left are none. -/
theorem of_encodeCopy {i : Instr} {w : BitVec 512} (he : encodeCopy i = some w) : Statement i := by
  cases i with
  | ccEnd c => exact ccEnd c | ccCopy c => exact ccCopy c | ccCopy2d c => exact ccCopy2d c | ccFill c => exact ccFill c
  | ccGather c => exact ccGather c | ccWait c => exact ccWait c | ccBump c => exact ccBump c | ccWrite c => exact ccWrite c
  | ccLink c => exact ccLink c
  | _ => nomatch he

/-- The words of an instruction are those of one of the three tables. -/
theorem encode_of_tables {i : Instr} (hcore : encodeCore i = none) (hstream : encodeStream i = none) (hcopy : encodeCopy i = none) :
    encode i = .none := by
  unfold encode
  rw [hcore, hstream, hcopy]

/-- Settles O54: by the table that words the instruction; without words there is nothing to read back. -/
theorem decodeUndoesEncode : Obligations.DecodeUndoesEncode := by
  intro i
  show Statement i
  cases hcore : encodeCore i with
  | some w => exact of_encodeCore hcore
  | none =>
    cases hstream : encodeStream i with
    | some w => exact of_encodeStream hstream
    | none =>
      cases hcopy : encodeCopy i with
      | some w => exact of_encodeCopy hcopy
      | none => exact of_none (encode_of_tables hcore hstream hcopy)

/-- Words of a KIND that R252 does not name are no copy command. -/
theorem decodeCopy_of_kind {w : BitVec 512} {kind : BitVec 8} (hkind : w.extractLsb' 0 8 = kind)
    (hop : ∀ c, copyOp kind c = none) : decodeCopy w = none := by
  unfold decodeCopy
  rw [hkind, hop]
  exact ite_self _

/-- Settles O55: each worked word evaluates to its instruction, and the words of no OP and of no KIND to none. -/
theorem wordsDecode : Obligations.WordsDecode :=
  have noKind : decodeCopy 0xFF = none := decodeCopy_of_kind (kind := 0xFF) (by simp) fun _ => rfl
  ⟨rfl, rfl, rfl, rfl, rfl, rfl, rfl, rfl, rfl, rfl, rfl, rfl, rfl, rfl, rfl, rfl, rfl, rfl, noKind⟩

end Sys2Proof.Laws.RoundTrip
end

section
/-! SUPPORT. The computations of RISC-V as integers, jumps and branches (R159, R361, R417), and the statement
IntegerInstructions. -/

namespace Sys2Proof.Machine

/-! ### Computations at every width as integers (R159) -/

section
variable {w : Nat} (a b : BitVec w) (n : Nat)

theorem ofInt_toNat_self : BitVec.ofInt w a.toNat = a := by simp

theorem add_eq_ofInt : a + b = BitVec.ofInt w (a.toNat + b.toNat) := by simp [BitVec.ofInt_add]

theorem sub_eq_ofInt : a - b = BitVec.ofInt w (a.toNat - b.toNat) := by
  rw [Int.sub_eq_add_neg, BitVec.ofInt_add, BitVec.ofInt_neg, ofInt_toNat_self, ofInt_toNat_self, BitVec.sub_eq_add_neg]

theorem mul_eq_ofInt : a * b = BitVec.ofInt w (a.toNat * b.toNat) := by simp [BitVec.ofInt_mul]

theorem shiftLeft_eq_ofInt : a <<< n = BitVec.ofInt w (a.toNat * 2 ^ n) := by
  have hcast : ((a.toNat : Int) * 2 ^ n) = ((a.toNat * 2 ^ n : Nat) : Int) := by push_cast; rfl
  rw [hcast, BitVec.ofInt_natCast]
  refine BitVec.eq_of_toNat_eq ?_
  rw [BitVec.toNat_shiftLeft, BitVec.toNat_ofNat, Nat.shiftLeft_eq]

theorem ushiftRight_eq_ofInt : a >>> n = BitVec.ofInt w (a.toNat / 2 ^ n) := by
  have hcast : ((a.toNat : Int) / 2 ^ n) = (((a >>> n).toNat : Nat) : Int) := by
    rw [BitVec.toNat_ushiftRight, Nat.shiftRight_eq_div_pow]; push_cast; rfl
  rw [hcast, ofInt_toNat_self]

theorem sshiftRight_eq_ofInt : a.sshiftRight n = BitVec.ofInt w (a.toInt / 2 ^ n) := by
  rw [← BitVec.ofInt_toInt (x := a.sshiftRight n), BitVec.toInt_sshiftRight, Int.shiftRight_eq_div_pow]
  norm_cast

theorem allOnes_eq_ofInt (w : Nat) : BitVec.allOnes w = BitVec.ofInt w (-1) := by
  rw [BitVec.ofInt_neg, ← BitVec.neg_one_eq_allOnes]
  rfl

/-- RISC-V's signed quotient: −1 by 0, and the dividend where the quotient overflows. -/
theorem rvDiv_eq_ofInt : rvDiv a b = BitVec.ofInt w (if b = 0 then -1 else a.toInt.tdiv b.toInt) := by
  unfold rvDiv
  split
  · exact allOnes_eq_ofInt w
  · refine BitVec.eq_of_toInt_eq ?_
    rw [BitVec.toInt_sdiv, BitVec.toInt_ofInt]

theorem rvRem_eq_ofInt : rvRem a b = BitVec.ofInt w (if b = 0 then a.toInt else a.toInt.tmod b.toInt) := by
  unfold rvRem
  split
  · rw [BitVec.ofInt_toInt]
  · rw [← BitVec.toInt_srem, BitVec.ofInt_toInt]

theorem rvDivu_eq_ofInt : rvDivu a b = BitVec.ofInt w (if b = 0 then -1 else a.toNat / b.toNat) := by
  unfold rvDivu
  split
  · exact allOnes_eq_ofInt w
  · rw [← Int.natCast_ediv, ← BitVec.toNat_udiv, ofInt_toNat_self]

theorem rvRemu_eq_ofInt : rvRemu a b = BitVec.ofInt w (if b = 0 then a.toNat else a.toNat % b.toNat) := by
  unfold rvRemu
  split
  · rw [ofInt_toNat_self]
  · rw [← Int.natCast_emod, ← BitVec.toNat_umod, ofInt_toNat_self]

/-- The low bits of a value depend on it as a signed number alone. -/
theorem setWidth_eq_ofInt_toInt {m : Nat} (h : m ≤ w) : a.setWidth m = BitVec.ofInt m a.toInt := by
  refine BitVec.eq_of_toInt_eq ?_
  rw [BitVec.toInt_setWidth, BitVec.toInt_ofInt, BitVec.toInt_eq_toNat_bmod,
    Int.bmod_bmod_of_dvd (by exact_mod_cast Nat.pow_dvd_pow 2 h)]

end

theorem boolWord_decide (p : Prop) [Decidable p] : boolWord (decide p) = if p then 1 else 0 := by
  by_cases h : p <;> simp [boolWord, h]

theorem boolWord_slt (a b : Word) : boolWord (a.slt b) = if a.toInt < b.toInt then 1 else 0 := by
  rw [BitVec.slt_eq_decide, boolWord_decide]

theorem boolWord_ult (a b : Word) : boolWord (a.ult b) = if a.toNat < b.toNat then 1 else 0 := by
  rw [BitVec.ult_eq_decide, boolWord_decide]

/-- Each 64-bit computation takes the low bits of an integer. -/
theorem alu_eq_ofInt (o : AluOp) (a b : Word) : alu o a b = BitVec.ofInt 64 (aluInt o a b) := by
  cases o with
  | add => exact add_eq_ofInt a b
  | sub => exact sub_eq_ofInt a b
  | sll => exact shiftLeft_eq_ofInt a _
  | slt =>
    refine (boolWord_slt a b).trans ?_
    rw [aluInt]
    split <;> rfl
  | sltu =>
    refine (boolWord_ult a b).trans ?_
    rw [aluInt]
    split <;> rfl
  | xor => exact (ofInt_toNat_self _).symm
  | srl => exact ushiftRight_eq_ofInt a _
  | sra => exact sshiftRight_eq_ofInt a _
  | or => exact (ofInt_toNat_self _).symm
  | and => exact (ofInt_toNat_self _).symm
  | mul => exact mul_eq_ofInt a b
  | mulh => rfl
  | mulhsu => rfl
  | mulhu =>
    rw [alu, aluInt, ← BitVec.ofInt_natCast]
    push_cast
    rfl
  | div => exact rvDiv_eq_ofInt a b
  | divu => exact rvDivu_eq_ofInt a b
  | rem => exact rvRem_eq_ofInt a b
  | remu => exact rvRemu_eq_ofInt a b

/-- Each 32-bit computation takes the low bits of an integer. -/
theorem aluW32_eq_ofInt (o : AluWOp) (a b : BitVec 32) : aluW32 o a b = BitVec.ofInt 32 (aluIntW o a b) := by
  cases o with
  | addw => exact add_eq_ofInt a b
  | subw => exact sub_eq_ofInt a b
  | sllw => exact shiftLeft_eq_ofInt a _
  | srlw => exact ushiftRight_eq_ofInt a _
  | sraw => exact sshiftRight_eq_ofInt a _
  | mulw => exact mul_eq_ofInt a b
  | divw => exact rvDiv_eq_ofInt a b
  | divuw => exact rvDivu_eq_ofInt a b
  | remw => exact rvRem_eq_ofInt a b
  | remuw => exact rvRemu_eq_ofInt a b

/-! ### The register-immediate forms (R159) -/

/-- A sum of a register and an immediate on 32 bits. -/
theorem addw_immediate (x : Word) (imm : BitVec 12) :
    aluW .addw x (imm.signExtend 64) = (BitVec.ofInt 32 (x.toInt + imm.toInt)).signExtend 64 := by
  rw [aluW, aluW32, setWidth_eq_ofInt_toInt x (by decide), setWidth_eq_ofInt_toInt (imm.signExtend 64) (by decide),
    BitVec.toInt_signExtend_of_le (by decide), BitVec.ofInt_add]

/-- The shift amount of an immediate form, as the register form takes it. -/
theorem shamt_mod (sh : BitVec 6) : (sh.zeroExtend 64).toNat % 64 = sh.toNat := by
  have := sh.isLt
  rw [BitVec.toNat_setWidth]
  omega

theorem shamtW_mod (sh : BitVec 5) : ((sh.zeroExtend 64).setWidth 32).toNat % 32 = sh.toNat := by
  have := sh.isLt
  rw [BitVec.toNat_setWidth, BitVec.toNat_setWidth]
  omega

theorem sllw_immediate (x : Word) (sh : BitVec 5) : aluW .sllw x (sh.zeroExtend 64) =
    (BitVec.ofInt 32 (x.toNat * 2 ^ sh.toNat)).signExtend 64 := by
  rw [aluW, aluW32, shamtW_mod, shiftLeft_eq_ofInt, BitVec.ofInt_mul, ofInt_toNat_self, BitVec.ofInt_mul, BitVec.ofInt_natCast,
    BitVec.ofNat_toNat]

theorem srlw_immediate (x : Word) (sh : BitVec 5) : aluW .srlw x (sh.zeroExtend 64) =
    (BitVec.ofInt 32 ((x.setWidth 32).toNat / 2 ^ sh.toNat)).signExtend 64 := by
  rw [aluW, aluW32, shamtW_mod, ushiftRight_eq_ofInt]

theorem sraw_immediate (x : Word) (sh : BitVec 5) : aluW .sraw x (sh.zeroExtend 64) =
    (BitVec.ofInt 32 ((x.setWidth 32).toInt / 2 ^ sh.toNat)).signExtend 64 := by
  rw [aluW, aluW32, shamtW_mod, sshiftRight_eq_ofInt]

theorem slt_immediate (x : Word) (imm : BitVec 12) :
    alu .slt x (imm.signExtend 64) = if x.toInt < imm.toInt then 1 else 0 := by
  rw [alu, boolWord_slt, BitVec.toInt_signExtend_of_le (by decide)]

/-! ### Branches (R159) -/

theorem branchHolds_iff (c : BranchCond) (a b : Word) : branchHolds c a b = true ↔ branchTaken c a b := by
  cases c with
  | beq => simp [branchHolds, branchTaken]
  | bne => simp [branchHolds, branchTaken]
  | blt => exact BitVec.slt_iff_toInt_lt
  | bge => simp [branchHolds, branchTaken, BitVec.slt_eq_decide]
  | bltu => exact BitVec.ult_iff_toNat_lt
  | bgeu => simp [branchHolds, branchTaken, BitVec.ult_eq_decide]

/-! ### What an integer instruction does (R30, R35, R361, R417) -/

/-- The registers of an instruction are full: it performs (R30). -/
def State.readsFull (s : State) (op : IntOp) : Prop := ∀ r ∈ intReads op, s.me.isFull r = true

theorem full_one {h : Hart} {a : Reg} (ha : h.isFull a = true) : ∀ r ∈ [a], h.isFull r = true := List.forall_mem_singleton.2 ha

theorem full_two {h : Hart} {a b : Reg} (ha : h.isFull a = true) (hb : h.isFull b = true) : ∀ r ∈ [a, b], h.isFull r = true :=
  List.forall_mem_cons.2 ⟨ha, full_one hb⟩

/-- The hart with the result of an instruction that has one (R137). -/
def Hart.linked (h : Hart) : Option (Reg × Word) → Hart
  | some (rd, v) => h.fill rd v
  | none => h

/-- An instruction goes to a target, with the hart that it leaves, or traps on a target that is no multiple of 4 (R417). -/
def jumpsTo (i : Instr) (s : State) (h : Hart) (target : Word) : Prop :=
  if target.extractLsb' 0 2 = 0 then exec i s = .next (s.setMe { h.next with pc := target })
  else exec i s = .next (s.trap 0 target)

section
variable {s : State} {op : IntOp} {rd : Reg} {v w t : Word} (hf : s.readsFull op)
include hf

theorem exec_integerOp_of_no_target (ht : intTarget op s.me = none) :
    exec (.integerOp op) s = .next (s.setMe (s.me.linked (intResult op s.me)).next) := by
  have he : exec (.integerOp op) s = execIntegerOp op s := rfl
  rw [he, execIntegerOp, Hart.firstEmpty_eq_none hf, ht]
  cases intResult op s.me with
  | none => rfl
  | some _ => rfl

/-- A computation fills its destination. -/
theorem fillsRegister_of_result (ht : intTarget op s.me = none) (hr : intResult op s.me = some (rd, v)) (hv : v = w) :
    fillsRegister (.integerOp op) s rd w := by
  rw [fillsRegister, exec_integerOp_of_no_target hf ht, hr, hv]
  rfl

/-- A jump, or a branch that is taken, goes to its target. -/
theorem jumpsTo_of_target (ht : intTarget op s.me = some t) :
    jumpsTo (.integerOp op) s (s.me.linked (intResult op s.me)) t := by
  have he : exec (.integerOp op) s = execIntegerOp op s := rfl
  rw [jumpsTo, he, execIntegerOp, Hart.firstEmpty_eq_none hf, ht]
  dsimp only
  split
  · cases intResult op s.me with
    | none => rfl
    | some _ => rfl
  · rfl

end

/-- Settles O13: each computation by the integer whose low bits it takes, each jump by its target. -/
theorem integerInstructions : Obligations.IntegerInstructions := by
  constructor
  · intro s rd a b imm sh shw up o ow x y z word
    refine ⟨?_, ?_, fun ha => ?_, fun ha hb => ?_⟩
    · exact fillsRegister_of_result nofun rfl rfl rfl
    · exact fillsRegister_of_result nofun rfl rfl rfl
    · have hone := full_one ha
      have hsh := shamt_mod sh
      exact ⟨fillsRegister_of_result hone rfl rfl rfl, fillsRegister_of_result hone rfl rfl (slt_immediate _ _),
        fillsRegister_of_result hone rfl rfl (boolWord_ult _ _), fillsRegister_of_result hone rfl rfl rfl,
        fillsRegister_of_result hone rfl rfl rfl, fillsRegister_of_result hone rfl rfl rfl,
        fillsRegister_of_result hone rfl rfl (congrArg (x <<< ·) hsh),
        fillsRegister_of_result hone rfl rfl (congrArg (x >>> ·) hsh),
        fillsRegister_of_result hone rfl rfl ((congrArg x.sshiftRight hsh).trans (sshiftRight_eq_ofInt _ _)),
        fillsRegister_of_result hone rfl rfl (addw_immediate _ _), fillsRegister_of_result hone rfl rfl (sllw_immediate _ _),
        fillsRegister_of_result hone rfl rfl (srlw_immediate _ _), fillsRegister_of_result hone rfl rfl (sraw_immediate _ _)⟩
    · have htwo := full_two ha hb
      exact ⟨fillsRegister_of_result htwo rfl rfl (alu_eq_ofInt _ _ _),
        fillsRegister_of_result htwo rfl rfl (congrArg (BitVec.signExtend 64) (aluW32_eq_ofInt _ _ _))⟩
  · intro s rd a b j imm off c x y jumps
    refine ⟨?_, fun ha => ?_, fun ha hb => ⟨fun hc => ?_, fun hc => ?_⟩⟩
    · exact jumpsTo_of_target nofun rfl
    · exact jumpsTo_of_target (op := .jalr rd a imm) (full_one ha) rfl
    · exact jumpsTo_of_target (op := .branch c a b off) (full_two ha hb)
        (if_pos ((branchHolds_iff c x y).2 hc))
    · exact exec_integerOp_of_no_target (op := .branch c a b off) (full_two ha hb)
        (if_neg fun h => hc ((branchHolds_iff c x y).1 h))

end Sys2Proof.Machine
end

section
/-! SUPPORT. Environment calls, breakpoints, what a mode may not run, and returns from traps (R159, R161, R361, R417), with the
statement EnvironmentTrapsAndReturns. -/

namespace Sys2Proof.Machine

/-! ### What a mode may not run (R361, R417) -/

/-- An instruction that is none traps with its word. -/
theorem traps_of_illegal {s : State} {i : Instr} (he : exec i s = .next s.illegal) : traps i s 2 (s.insn.zeroExtend 64) :=
  traps_of_exec he (by decide)

theorem ecall_traps {s : State} {m : Mode} (hm : s.me.mode = m) : traps .ecall s (ecallCause m) 0 := by
  have he : exec .ecall s = .next (s.trap (ecallCause s.me.mode) 0) := rfl
  rw [hm] at he
  exact traps_of_exec he (by cases m <;> decide)

theorem mret_illegal {s : State} (hm : s.me.mode ≠ .machine) : exec .mret s = .next s.illegal :=
  congrArg Host.Outcome.next (if_neg hm)

theorem sret_illegal {s : State} (hm : s.me.mode = .user ∨ s.me.mode = .supervisor ∧ s.me.csr.mstatus.getLsbD 22 = true) :
    exec .sret s = .next s.illegal :=
  congrArg Host.Outcome.next (if_pos hm)

theorem sfenceVma_illegal {s : State} (a b : Reg)
    (hm : s.me.mode = .user ∨ s.me.mode = .supervisor ∧ s.me.csr.mstatus.getLsbD 20 = true) :
    exec (.sfenceVma a b) s = .next s.illegal :=
  if_pos hm

/-! ### Returns (R161) -/

theorem Mode.ofCode_eq (c : BitVec 2) : Mode.ofCode c = if c = 3 then .machine else if c = 1 then .supervisor else .user := by
  revert c
  decide

/-- The bits outside MPP. -/
theorem notMpp_bit (n : Nat) : (~~~ (0x1800#64)).getLsbD n = (decide (n < 64) && !(decide (n = 11) || decide (n = 12))) := by
  by_cases hn : n < 64
  · interval_cases n <;> decide
  · rw [BitVec.getLsbD_of_ge _ _ (by omega)]
    simp [hn]

/-- mstatus after `mret`, bit by bit. -/
theorem Hart.returnM_mstatus_bit (v : Hart) (n : Nat) : v.returnM.csr.mstatus.getLsbD n =
    if n = 3 then v.csr.mstatus.getLsbD 7 else if n = 7 then true else if n = 11 ∨ n = 12 then false
    else v.csr.mstatus.getLsbD n := by
  unfold Hart.returnM bitOf
  dsimp only
  rw [BitVec.getLsbD_and, notMpp_bit, setBit_bit _ _ (by decide), setBit_bit _ _ (by decide)]
  by_cases h3 : n = 3
  · simp [h3]
  · by_cases h7 : n = 7
    · simp [h7]
    · by_cases h11 : n = 11
      · simp [h11]
      · by_cases h12 : n = 12
        · simp [h12]
        · by_cases hn : n < 64
          · simp [h3, h7, h11, h12, hn]
          · simp [h3, h7, h11, h12, hn, BitVec.getLsbD_of_ge v.csr.mstatus n (by omega)]

/-- mstatus after `sret`, bit by bit. -/
theorem Hart.returnS_mstatus_bit (v : Hart) (n : Nat) : v.returnS.csr.mstatus.getLsbD n =
    if n = 1 then v.csr.mstatus.getLsbD 5 else if n = 5 then true else if n = 8 then false else v.csr.mstatus.getLsbD n := by
  unfold Hart.returnS bitOf
  dsimp only
  rw [setBit_bit _ _ (by decide), setBit_bit _ _ (by decide), setBit_bit _ _ (by decide)]
  by_cases h1 : n = 1
  · simp [h1]
  · by_cases h5 : n = 5
    · simp [h5]
    · simp only [if_neg h1, if_neg h5]

theorem exec_mret_of_machine {s : State} (hm : s.me.mode = .machine) : exec .mret s = .next (s.setMe s.me.returnM) :=
  congrArg Host.Outcome.next (if_pos hm)

theorem exec_sret_of_admitted {s : State}
    (hm : s.me.mode = .machine ∨ s.me.mode = .supervisor ∧ s.me.csr.mstatus.getLsbD 22 = false) :
    exec .sret s = .next (s.setMe s.me.returnS) := by
  refine congrArg Host.Outcome.next (if_neg ?_)
  rcases hm with hm | ⟨hm, htsr⟩
  · simp [hm]
  · have hbit : bitOf s.me.csr.mstatus 22 = false := htsr
    simp [hm, hbit]

/-- Settles O20: each trap by its cause, each return by the bits of mstatus. -/
theorem environmentTrapsAndReturns : Obligations.EnvironmentTrapsAndReturns := by
  constructor
  · exact fun s a b => ⟨ecall_traps, ecall_traps, ecall_traps, traps_of_exec rfl (by decide),
      fun hm => traps_of_illegal (mret_illegal hm), fun hm => traps_of_illegal (sret_illegal hm),
      fun hm => traps_of_illegal (sfenceVma_illegal a b hm)⟩
  · intro s v old returns
    refine ⟨fun hm => ⟨_, exec_mret_of_machine hm, ?_⟩, fun hm => ⟨_, exec_sret_of_admitted hm, ?_⟩⟩
    · rw [State.me_setMe]
      exact ⟨rfl, Mode.ofCode_eq _, rfl, v.returnM_mstatus_bit, rfl⟩
    · rw [State.me_setMe]
      exact ⟨rfl, rfl, rfl, v.returnS_mstatus_bit, rfl⟩

end Sys2Proof.Machine
end

section
/-! SUPPORT. Port images, ends of tasks, returns from upcalls, moves of core contexts and overlay updates as a hart issues them
(R195 to R199, R228, R367, R368, R393, R421), with the statement TransfersAndEnds. -/

namespace Sys2Proof.Machine

/-! ### Transfers of port images (R196, R228) -/

/-- The issuing hart has begun a job that ends later, its PC where it was (R196, R199). -/
def State.beginJob (s : State) (j : Job) : State := s.setMe { s.me with job := j, jobDue := 0 }

section
variable {s : State} {a : Reg} (ha : s.me.isFull a = true)
include ha

theorem exec_psave_of_span {off : Nat} (hspan : s.ownSpan s.cur.core (s.me.readX a) 64 1280 = some off)
    (huse : s.usableSpan .write off 1280) : exec (.psave a) s = .next (s.beginJob (.portSave off)) := by
  have he : exec (.psave a) s = execPsave a s := rfl
  rw [he, execPsave, State.reading_one ha, State.ownBytes_usable _ _ hspan rfl huse]
  rfl

theorem exec_pload_of_span {off : Nat} (hspan : s.ownSpan s.cur.core (s.me.readX a) 64 1280 = some off)
    (hok : portImageOk (Memory.readBytes s.mem (spadKey s.cur.core off) 1280) = true) (huse : s.usableSpan .read off 1280) :
    exec (.pload a) s = .next (s.beginJob (.portLoad off)) := by
  have he : exec (.pload a) s = execPload a s := rfl
  rw [he, execPload, State.reading_one ha, State.ownBytes_usable _ _ hspan (if_pos hok) huse]
  rfl

end

/-! ### The debug overlay (R199, R409) -/

theorem pageOk_of_fields {p : Word} (h : p.extractLsb' 57 7 = 0 ∧ p.extractLsb' 0 16 = 0) : pageOk p = true := by
  obtain ⟨hhigh, hlow⟩ := h
  simp [pageOk, field_eq_zero hhigh, field_eq_zero hlow]

theorem State.overlays_any (s : State) (p : Word) : s.overlays.any (fun o => o.1 == p) = true ↔ ∃ o ∈ s.overlays, o.1 = p := by
  simp

theorem State.machineOnly_of_machine {s : State} (hm : s.me.mode = .machine) (rs : List Reg) (t : State) :
    s.machineOnly rs t = s.reading rs t := if_neg (not_not.2 hm)

theorem State.machineOnly_of_other {s : State} (hm : s.me.mode ≠ .machine) (rs : List Reg) (t : State) :
    s.machineOnly rs t = s.trapCode 0x03 0 := if_pos hm

section
variable {s : State} {a b : Reg} (hm : s.me.mode = .machine) (ha : s.me.isFull a = true) (hpage : pageOk (s.me.readX a) = true)
include hm ha hpage

/-- `ovmap` of a page that the table holds, or for which it has room, begins its update. -/
theorem exec_ovmap_of_room (hb : s.me.isFull b = true) (hto : pageOk (s.me.readX b) = true)
    (hroom : s.overlays.length < 16 ∨ ∃ o ∈ s.overlays, o.1 = s.me.readX a) :
    exec (.ovmap b a) s = .next (s.beginJob (.overlay (s.me.readX a) (some (s.me.readX b)))) := by
  have he : exec (.ovmap b a) s = execOvmap b a s := rfl
  have hin : ¬ ((!pageOk (s.me.readX a)) = true ∨
      (16 ≤ s.overlays.length ∧ (!s.overlays.any fun o => o.1 == s.me.readX a) = true)) := by
    rintro (h | ⟨hlen, hno⟩)
    · simp [hpage] at h
    · rcases hroom with hroom | hroom
      · omega
      · rw [(s.overlays_any _).2 hroom] at hno
        simp at hno
  rw [he, execOvmap, State.machineOnly_of_machine hm, State.reading_two ha hb]
  dsimp only
  rw [if_neg hin, if_neg (by simp [hto])]
  rfl

/-- `ovunmap` of a page that the table holds begins its update. -/
theorem exec_ovunmap_of_held (hheld : ∃ o ∈ s.overlays, o.1 = s.me.readX a) :
    exec (.ovunmap a) s = .next (s.beginJob (.overlay (s.me.readX a) none)) := by
  have he : exec (.ovunmap a) s = execOvunmap a s := rfl
  rw [he, execOvunmap, State.machineOnly_of_machine hm, State.reading_one ha]
  dsimp only
  rw [if_neg (by simp [hpage]), if_pos ((s.overlays_any _).2 hheld)]
  rfl

/-- `ovunmap` of any other page does nothing. -/
theorem exec_ovunmap_of_absent (habsent : ¬ ∃ o ∈ s.overlays, o.1 = s.me.readX a) :
    exec (.ovunmap a) s = .next (s.setMe s.me.next) := by
  have he : exec (.ovunmap a) s = execOvunmap a s := rfl
  rw [he, execOvunmap, State.machineOnly_of_machine hm, State.reading_one ha]
  dsimp only
  rw [if_neg (by simp [hpage]), if_neg fun h => habsent ((s.overlays_any _).1 h)]
  rfl

end

/-! ### The drain of a core (R50, R198) -/

/-- What the drain of harts 1 to 15 of a core leaves of its harts, of its move and of memory: each hart differs by its reservation
and its job, which is new where it is the drain, and memory by what a hart parked in `fwait` marks. -/
structure State.drainsTo (s : State) (core : Nat) (t : State) : Prop where
  cur : t.cur = s.cur
  migration : (t.core core).migration = (s.core core).migration
  hart : ∀ i : HartId, t.hart ⟨core, i⟩ = { s.hart ⟨core, i⟩ with
    resv := (t.hart ⟨core, i⟩).resv, job := (t.hart ⟨core, i⟩).job, jobDue := (t.hart ⟨core, i⟩).jobDue }
  job : ∀ i : HartId, (t.hart ⟨core, i⟩).job = (s.hart ⟨core, i⟩).job ∨ i ≠ 0 ∧ (t.hart ⟨core, i⟩).job = .migrate
  mem : (∀ i : HartId, (s.hart ⟨core, i⟩).wait ≠ .flag) → t.mem = s.mem

section
variable {s t u : State} {core : Nat}

theorem State.drainsTo_refl (s : State) (core : Nat) : s.drainsTo core s :=
  ⟨rfl, rfl, fun _ => rfl, fun _ => .inl rfl, fun _ => rfl⟩

theorem State.drainsTo.st (h : s.drainsTo core t) (i : HartId) : (t.hart ⟨core, i⟩).st = (s.hart ⟨core, i⟩).st := by
  rw [h.hart i]

theorem State.drainsTo.wait (h : s.drainsTo core t) (i : HartId) : (t.hart ⟨core, i⟩).wait = (s.hart ⟨core, i⟩).wait := by
  rw [h.hart i]

theorem State.drainsTo.trans (h : s.drainsTo core t) (g : t.drainsTo core u) : s.drainsTo core u where
  cur := g.cur.trans h.cur
  migration := g.migration.trans h.migration
  hart i := by
    have hi := g.hart i
    rw [h.hart i] at hi
    exact hi
  job i := by
    rcases g.job i with hjob | hjob
    · rw [hjob]
      exact h.job i
    · exact .inr hjob
  mem hw := (g.mem fun i => by rw [h.wait]; exact hw i).trans (h.mem hw)

/-- A hart other than hart 0 whose job becomes the drain. -/
theorem State.drainsTo_setJob (s : State) {core : Nat} {i : HartId} (hi : i ≠ 0) (due : Nat) :
    s.drainsTo core (s.setHart ⟨core, i⟩ { s.hart ⟨core, i⟩ with job := .migrate, jobDue := due }) where
  cur := rfl
  migration := by rw [State.setHart, State.core_setCore_same]
  hart j := by
    by_cases hj : j = i
    · subst hj
      rw [State.hart_setHart_same]
    · rw [State.hart_setHart_other _ _ fun e => hj (congrArg HartRef.hart e)]
  job j := by
    by_cases hj : j = i
    · subst hj
      rw [State.hart_setHart_same]
      exact .inr ⟨hi, rfl⟩
    · rw [State.hart_setHart_other _ _ fun e => hj (congrArg HartRef.hart e)]
      exact .inl rfl
  mem _ := rfl

/-- What the drain of a hart parked in `fwait` does first: the word is marked SWAPPED and the watch entry cleared (R79). -/
def State.markSwapped (s : State) (h : HartRef) : State :=
  match (s.hart h).wait with
  | .flag =>
    let key := spadKey h.core ((s.core h.core).watch[h.hart]).off.toNat
    (s.writeAt key (leBytes (leNat (Memory.readBytes s.mem key 8) % 2 ^ 63 + 2 ^ 63) 8)).unwatch h
  | _ => s

theorem State.beginDrain_eq (s : State) (h : HartRef) (job : Job) : s.beginDrain h job = (s.markSwapped h).setHart h
    { (s.markSwapped h).hart h with job := job, jobDue := (s.markSwapped h).coreCycle h.core + 1 } := by
  cases hw : (s.hart h).wait <;> simp only [State.beginDrain, State.markSwapped, hw]

@[simp] theorem State.unwatch_migration (s : State) (h : HartRef) (c : Nat) :
    ((s.unwatch h).core c).migration = (s.core c).migration := by
  unfold State.unwatch
  dsimp only
  split
  · by_cases hc : c = h.core
    · subst hc
      rw [State.core_setCore_same]
    · rw [State.core_setCore_other _ _ hc]
  · rfl

theorem State.drainsTo_markSwapped (s : State) (core : Nat) (i : HartId) : s.drainsTo core (s.markSwapped ⟨core, i⟩) := by
  by_cases hw : (s.hart ⟨core, i⟩).wait = .flag
  · obtain ⟨key, b, he⟩ : ∃ key b, s.markSwapped ⟨core, i⟩ = (s.writeAt key b).unwatch ⟨core, i⟩ := by
      unfold State.markSwapped
      rw [hw]
      exact ⟨_, _, rfl⟩
    have hhart (j : HartId) : (s.markSwapped ⟨core, i⟩).hart ⟨core, j⟩ = { s.hart ⟨core, j⟩ with
        resv := ((s.markSwapped ⟨core, i⟩).hart ⟨core, j⟩).resv } := by
      rw [he, State.hart_unwatch]
      exact s.hart_writeAt key b _
    refine ⟨?_, ?_, fun j => ?_, fun j => .inl ?_, fun hno => absurd hw (hno i)⟩
    · rw [he, State.unwatch_cur, State.writeAt_cur]
    · rw [he, State.unwatch_migration, (s.core_writeAt key b core).1]
    · rw [hhart j]
    · rw [hhart j]
  · have he : s.markSwapped ⟨core, i⟩ = s := by
      unfold State.markSwapped
      split
      · exact absurd ‹_› hw
      · rfl
    rw [he]
    exact s.drainsTo_refl core

theorem State.drainsTo_beginDrain (s : State) {core : Nat} {i : HartId} (hi : i ≠ 0) :
    s.drainsTo core (s.beginDrain ⟨core, i⟩ .migrate) := by
  rw [State.beginDrain_eq]
  exact (s.drainsTo_markSwapped core i).trans (State.drainsTo_setJob _ hi _)

theorem State.job_beginDrain (s : State) (h : HartRef) (job : Job) : ((s.beginDrain h job).hart h).job = job := by
  rw [State.beginDrain_eq, State.hart_setHart_same]

/-- What the drain of a core does to one hart (R198). -/
def State.drainHart (core : Nat) (s : State) (i : HartId) : State :=
  if i = 0 ∨ !(s.hart ⟨core, i⟩).drainable then s
  else match (s.hart ⟨core, i⟩).st with
    | .running | .parked => s.beginDrain ⟨core, i⟩ .migrate
    | .held => s.setHart ⟨core, i⟩ { s.hart ⟨core, i⟩ with job := .migrate, jobDue := 0 }
    | _ => s

theorem State.drainCore_eq (s : State) (core : Nat) : s.drainCore core = (List.finRange 16).foldl (State.drainHart core) s := rfl

theorem State.drainsTo_drainHart (core : Nat) (s : State) (i : HartId) : s.drainsTo core (s.drainHart core i) := by
  unfold State.drainHart
  split
  · exact s.drainsTo_refl core
  next hgo =>
    have hi : i ≠ 0 := fun h => hgo (.inl h)
    split
    · exact s.drainsTo_beginDrain hi
    · exact s.drainsTo_beginDrain hi
    · exact s.drainsTo_setJob hi 0
    · exact s.drainsTo_refl core

theorem State.drainsTo_drainCore (s : State) (core : Nat) : s.drainsTo core (s.drainCore core) := by
  rw [State.drainCore_eq]
  exact foldl_preserves (fun t i (ht : s.drainsTo core t) => ht.trans (t.drainsTo_drainHart core i)) _ (s.drainsTo_refl core)

/-- A RUNNING or PARKED hart of a state has a job. -/
def State.busyIfActive (t : State) (h : HartRef) : Prop :=
  (t.hart h).st = .running ∨ (t.hart h).st = .parked → (t.hart h).job ≠ .none

theorem State.drainsTo.busyIfActive {i : HartId} (h : s.drainsTo core t) (hs : s.busyIfActive ⟨core, i⟩) :
    t.busyIfActive ⟨core, i⟩ := by
  intro hst
  rw [h.st i] at hst
  rcases h.job i with hjob | ⟨-, hjob⟩
  · rw [hjob]
    exact hs hst
  · rw [hjob]
    nofun

theorem State.drainHart_busyIfActive (core : Nat) (s : State) {i : HartId} (hi : i ≠ 0) :
    (s.drainHart core i).busyIfActive ⟨core, i⟩ := by
  by_cases hjob : (s.hart ⟨core, i⟩).job = .none
  · intro hst
    rw [(s.drainsTo_drainHart core i).st i] at hst
    have hgo : ¬ (i = 0 ∨ (!(s.hart ⟨core, i⟩).drainable) = true) := by simp [hi, Hart.drainable, hjob]
    have he : s.drainHart core i = s.beginDrain ⟨core, i⟩ .migrate := by
      rw [State.drainHart, if_neg hgo]
      rcases hst with hst | hst
      · rw [hst]
      · rw [hst]
    rw [he, State.job_beginDrain]
    nofun
  · exact (s.drainsTo_drainHart core i).busyIfActive fun _ => hjob

/-- Every RUNNING or PARKED hart but hart 0 that has no job drains (R198). -/
theorem State.drainCore_migrates (s : State) (core : Nat) {i : HartId} (hi : i ≠ 0)
    (hst : (s.hart ⟨core, i⟩).st = .running ∨ (s.hart ⟨core, i⟩).st = .parked) (hjob : (s.hart ⟨core, i⟩).job = .none) :
    ((s.drainCore core).hart ⟨core, i⟩).job = .migrate := by
  have hbusy : (s.drainCore core).busyIfActive ⟨core, i⟩ := by
    rw [State.drainCore_eq]
    exact foldl_establishes (P := fun t : State => t.busyIfActive ⟨core, i⟩) (fun t => t.drainHart_busyIfActive core hi)
      (fun t j ht => (t.drainsTo_drainHart core j).busyIfActive ht) (List.mem_finRange i) s
  have hdrain := s.drainsTo_drainCore core
  rw [State.busyIfActive, hdrain.st i] at hbusy
  rcases hdrain.job i with h | ⟨-, h⟩
  · exact absurd (h.trans hjob) (hbusy hst)
  · exact h

end

/-! ### Moves of core contexts (R198, R393) -/

/-- An address that names a scratchpad of this device names no die that it lacks (R2). -/
theorem State.absentDie_of_spad {s : State} {core : Nat} {x : Word} {target o w : Nat}
    (hplace : s.place core x = some (.spad target o w)) : s.absentDie x = false := by
  by_contra habsent
  rw [Bool.not_eq_false, State.absentDie] at habsent
  simp only [Bool.and_eq_true, Bool.or_eq_true, beq_iff_eq, bne_iff_ne] at habsent
  obtain ⟨⟨hdies, hfield⟩, hsel⟩ := habsent
  have hle : s.dieCount ≤ field x 32 2 := by omega
  unfold State.place at hplace
  rcases hsel with hsel | ⟨hsel, hdevice⟩
  · simp only [hsel] at hplace
    simp [hle] at hplace
  · simp only [hsel] at hplace
    simp [hle, hdevice] at hplace

/-- The state in which a `cmig` has begun, before its core's other harts drain. -/
def State.migrationBegun (s : State) (target : Nat) (d : Reg) : State :=
  let u := s.beginJob .migrate
  u.setMyCore { u.myCore with migration := some ⟨target, d⟩ }

theorem exec_cmig_of_place {s : State} {a d : Reg} {target o w : Nat} (hm : s.me.mode ≠ .user) (h0 : s.cur.hart = 0)
    (ha : s.me.isFull a = true) (hplace : s.place s.cur.core (s.me.readX a) = some (.spad target o w))
    (hsel : field (s.me.readX a) 60 4 = 10 ∨ field (s.me.readX a) 60 4 = 11) :
    exec (.cmig a d) s = .next (if s.migrationTarget s.cur.core target = true then (s.migrationBegun target d).drainCore s.cur.core
      else s.complete (s.me.fill d 1)) := by
  have he : exec (.cmig a d) s = execCmig a d s := rfl
  rw [he, execCmig, if_neg hm, if_neg (not_not.2 h0), State.reading_one ha]
  dsimp only
  rw [if_neg (by omega), State.absentDie_of_spad hplace, if_neg (by decide), hplace]
  rfl

theorem State.hart_migrationBegun_other (s : State) (target : Nat) (d : Reg) {g : HartRef} (hg : g ≠ s.cur) :
    (s.migrationBegun target d).hart g = s.hart g := by
  have h : (s.migrationBegun target d).hart g = (s.beginJob .migrate).hart g := State.hart_setCore_of_harts _ (by rfl) g
  rw [h]
  exact State.hart_setHart_other _ _ hg

theorem State.me_migrationBegun (s : State) (target : Nat) (d : Reg) :
    (s.migrationBegun target d).hart s.cur = { s.me with job := .migrate, jobDue := 0 } := by
  have h : (s.migrationBegun target d).hart s.cur = (s.beginJob .migrate).hart s.cur := State.hart_setCore_of_harts _ (by rfl) s.cur
  rw [h]
  exact State.me_setMe s _

/-- What a `cmig` with a fit target leaves (R198). -/
theorem State.migrationBegun_drained (s : State) (target : Nat) (d : Reg) (h0 : s.cur.hart = 0) :
    let t := (s.migrationBegun target d).drainCore s.cur.core
    t.myCore.migration = some ⟨target, d⟩ ∧ t.me.pc = s.me.pc ∧
      ((∀ i : HartId, (s.hart ⟨s.cur.core, i⟩).wait ≠ .flag) → t.mem = s.mem) ∧ (t.me.st = s.me.st ∧ t.me.job = .migrate) ∧
      ∀ i : HartId, i ≠ 0 → (s.hart ⟨s.cur.core, i⟩).st = .running ∨ (s.hart ⟨s.cur.core, i⟩).st = .parked →
        (s.hart ⟨s.cur.core, i⟩).job = .none → (t.hart ⟨s.cur.core, i⟩).job = .migrate := by
  intro t
  have hself : (⟨s.cur.core, 0⟩ : HartRef) = s.cur := by rw [← h0]
  have hdrain : (s.migrationBegun target d).drainsTo s.cur.core t := State.drainsTo_drainCore _ _
  have hcur : t.cur = s.cur := hdrain.cur
  have hzero := s.me_migrationBegun target d
  have hother {i : HartId} (hi : i ≠ 0) :
      (s.migrationBegun target d).hart ⟨s.cur.core, i⟩ = s.hart ⟨s.cur.core, i⟩ :=
    s.hart_migrationBegun_other target d fun e => hi ((congrArg HartRef.hart e).trans h0)
  have hme : t.me = { s.me with
      resv := t.me.resv, job := t.me.job, jobDue := t.me.jobDue } := by
    have h := hdrain.hart 0
    rw [hself, hzero] at h
    rw [State.me, hcur]
    exact h
  refine ⟨?_, by rw [hme], fun hw => ?_, ⟨by rw [hme], ?_⟩, fun i hi hst hjob => ?_⟩
  · rw [State.myCore, hcur, hdrain.migration]
    exact congrArg Core.migration (State.core_setCore_same _ _ _)
  · refine hdrain.mem fun i => ?_
    by_cases hi : i = 0
    · subst hi
      have h := hw 0
      rw [hself] at h ⊢
      rw [hzero]
      exact h
    · rw [hother hi]
      exact hw i
  · rcases hdrain.job 0 with h | ⟨h, -⟩
    · rw [hself, hzero] at h
      rw [State.me, hcur]
      exact h
    · exact absurd rfl h
  · rw [← hother hi] at hst hjob
    exact State.drainCore_migrates _ _ hi hst hjob

/-! ### The end of a task (R195) -/

theorem exec_hstop_of_other {s : State} (h0 : s.cur.hart ≠ 0) (hf : s.me.isFull 10 = true) : ∃ t r, exec .hstop s = .next t ∧
    t.reqs = s.reqs ++ [r] ∧ r.id = s.nextId ∧ r.kind = .release (if s.me.csr.taskret.getLsbD 63 then 3 else 2) ∧ t.mem = s.mem ∧
    t.me = { s.me with
      job := .stopping r.id, jobDue := s.coreCycle s.cur.core + 1, holdAll := t.me.holdAll, holdWrites := t.me.holdWrites } := by
  have he : exec .hstop s = execHstop s := rfl
  rw [he, execHstop, if_neg h0, State.reading_one hf]
  have hscope : (if taskValid s.me.csr.taskret then 3 else 2 : BitVec 2) = if s.me.csr.taskret.getLsbD 63 then 3 else 2 := rfl
  rw [hscope]
  generalize (if s.me.csr.taskret.getLsbD 63 then 3 else 2 : BitVec 2) = scope
  have hme := s.me_release scope .none
  obtain ⟨r, hr, hkind, -, -⟩ := s.release_eq s.cur scope .none
  rw [hr] at hme ⊢
  refine ⟨_, { r with id := s.nextId }, rfl, rfl, rfl, hkind, rfl, ?_⟩
  dsimp only at hme ⊢
  rw [State.me_setMe, hme]
  rfl

/-! ### Returns from upcalls (R197, R367, R368) -/

theorem State.releaseHeld_of_not_held {s : State} {h : HartRef} (hst : (s.hart h).st ≠ .held) : s.releaseHeld h = s :=
  if_pos (.inl hst)

/-- The end of a reservation on a core with no hart HELD (R46). -/
theorem State.freeReservation_of_none_held {s : State} {core : Nat} (h : ∀ i : HartId, (s.hart ⟨core, i⟩).st ≠ .held) :
    s.freeReservation core = s.setCore core { s.core core with reservations := (s.core core).reservations - 1 } := by
  refine foldl_fixed _ fun i _ => State.releaseHeld_of_not_held ?_
  rw [State.hart_setCore_of_harts _ (by rfl)]
  exact h i

/-- The hart after its `upret` (R368). -/
def Hart.upReturned (v : Hart) : Hart := { v with
  pc := v.csr.upepc, upReserved := false
  csr := { v.csr with upstat := setBit v.csr.upstat 0 false, instret := v.csr.instret + 1 } }

theorem exec_upret_of_upcall {s : State} (hm : s.me.mode = .user) (hup : s.me.csr.upstat.getLsbD 0 = true) :
    exec .upret s = .next ((s.setMe s.me.upReturned).freeReservation s.cur.core) :=
  congrArg Host.Outcome.next (if_neg (by simp [hm, bitOf, hup]))

theorem exec_upret_outside_upcall {s : State} (h : s.me.mode ≠ .user ∨ s.me.csr.upstat.getLsbD 0 = false) :
    exec .upret s = .next (s.trapCode 0x03 0) :=
  congrArg Host.Outcome.next (if_pos (by simpa [bitOf] using h))

/-- What `upret` leaves where no hart of its core is HELD. -/
theorem State.upReturned_freed {s : State} (hheld : ∀ i : HartId, (s.hart ⟨s.cur.core, i⟩).st ≠ .held) :
    let t := (s.setMe s.me.upReturned).freeReservation s.cur.core
    t.me = s.me.upReturned ∧ t.myCore.reservations = s.myCore.reservations - 1 ∧ t.mem = s.mem := by
  intro t
  have hstill (i : HartId) : ((s.setMe s.me.upReturned).hart ⟨s.cur.core, i⟩).st ≠ .held := by
    by_cases hi : (⟨s.cur.core, i⟩ : HartRef) = s.cur
    · have hst : s.me.upReturned.st = (s.hart ⟨s.cur.core, i⟩).st := by rw [hi]; rfl
      rw [hi, State.setMe, State.hart_setHart_same, hst]
      exact hheld i
    · rw [State.setMe, State.hart_setHart_other _ _ hi]
      exact hheld i
  have ht : t = _ := State.freeReservation_of_none_held hstill
  rw [ht]
  refine ⟨?_, ?_, rfl⟩
  · exact (State.hart_setCore_of_harts _ (by rfl) s.cur).trans (State.me_setMe s _)
  · rw [State.myCore, State.setCore_cur, State.setMe, State.setHart_cur, State.core_setCore_same, State.setHart,
      State.core_setCore_same]
    rfl

/-- Settles O28: each instruction by what it begins, and `cmig` and `upret` by what they leave of every hart of the core. -/
theorem transfersAndEnds : Obligations.TransfersAndEnds := by
  intro s a b d off target x y span job page
  refine ⟨fun ha => ⟨fun ⟨hspan, hprot⟩ => ⟨?_, fun hok hsound => ?_⟩, fun hm hx => ⟨fun hroom hb hy => ?_, ?_⟩, fun hm => ⟨?_, ?_⟩,
    fun hm h0 o w hplace hsel => ?_⟩, fun hm => ?_, fun h0 => ?_, exec_hstop_of_other, fun h => ?_, fun hm hup hheld => ?_⟩
  · exact exec_psave_of_span ha hspan ⟨hprot _, nofun⟩
  · exact exec_pload_of_span ha hspan hok ⟨hprot _, fun _ => hsound⟩
  · exact exec_ovmap_of_room hm ha (pageOk_of_fields hx) hb (pageOk_of_fields hy) hroom
  · split
    next hin => exact exec_ovunmap_of_held hm ha (pageOk_of_fields hx) hin
    next hout => exact exec_ovunmap_of_absent hm ha (pageOk_of_fields hx) hout
  · exact trapsWith_of_trapCode (congrArg Host.Outcome.next (State.machineOnly_of_other hm _ _))
  · exact trapsWith_of_trapCode (congrArg Host.Outcome.next (State.machineOnly_of_other hm _ _))
  · have hfield : field x 60 4 = 10 ∨ field x 60 4 = 11 := by
      rw [field_eq_extract]
      rcases hsel with h | h
      · exact .inl (congrArg BitVec.toNat h)
      · exact .inr (congrArg BitVec.toNat h)
    have he := exec_cmig_of_place (d := d) hm h0 ha hplace hfield
    split
    next hfit =>
      rw [if_pos hfit] at he
      exact ⟨_, he, s.migrationBegun_drained target d h0⟩
    next hunfit =>
      rw [if_neg hunfit] at he
      exact he
  · exact trapsWith_of_trapCode (congrArg Host.Outcome.next (if_pos hm))
  · exact trapsWith_of_trapCode (congrArg Host.Outcome.next (if_pos h0))
  · exact trapsWith_of_trapCode (exec_upret_outside_upcall h)
  · obtain ⟨hme, hfreed, hmem⟩ := State.upReturned_freed hheld
    refine ⟨_, exec_upret_of_upcall hm hup, ?_⟩
    rw [hme]
    exact ⟨rfl, (setBit_bit _ _ (by decide) 0).trans (if_pos rfl), rfl, hm, rfl, hfreed, hmem⟩

end Sys2Proof.Machine
end

section
/-! SUPPORT. Triggers of VA, VS and CV: what a required latch that is empty does, and the lanes of a result by their rule; then the
statement VaIntegerLanes (R203, R206, R210, R211). -/

namespace Sys2Proof.Machine

/-! ### A required latch that is empty (R203, R414) -/

/-- The lower of two ports that a test tells apart. -/
theorem lowestPort_pair {x y p : BitVec 6} {f : BitVec 6 → Bool} (hxy : x.toNat < y.toNat) (hp : f p = true)
    (h : p = x ∨ p = y ∧ f x = false) : lowestPort [x, y] f = some p := by
  obtain rfl | ⟨rfl, hx⟩ := h
  · unfold lowestPort
    rw [List.filter_cons, if_pos hp]
    cases hy : f y <;> simp [hy]
    omega
  · simp [lowestPort, hx, hp]

/-- A trigger of VA or VS whose own operand or second operand is empty takes EMPTYSRC with its port (R414). -/
theorem State.compute_lacks {s : State} {g : Trig} {u : EngineUnit} {x y p : BitVec 6} (h : lacks s g u x y p)
    (hxy : x.toNat < y.toNat) (ho : g.ord = 0 ∧ g.scope = 0) (fn : BitVec 8) (latency : Nat) (f : Hart → Wide × FFlags × Events) :
    s.compute g u fn [x, y] [] latency f = s.trapCode 0x08 (p.zeroExtend 8) := by
  obtain ⟨hown, -, hx, hy, hp, hfirst⟩ := h
  have hlost : lowestPort [x, y] (fun q => (s.me.latch q).st == .lost) = none :=
    lowestPort_none _ _ (by simp [hx, hy])
  have hempty : lowestPort [x, y] (fun q => (s.me.latch q).st == .empty) = some p := by
    refine lowestPort_pair hxy (by simp [hp]) ?_
    obtain hpx | ⟨hpy, hfull⟩ := hfirst
    · exact .inl hpx
    · exact .inr ⟨hpy, by simp [hfull]⟩
  have hcheck : s.checkPorts s.cur [] [] [x, y] [] = .bad 0x08 (p.zeroExtend 8) := by
    unfold State.checkPorts
    simp only [List.nil_append, List.append_nil, List.filter_nil]
    rw [show s.hart s.cur = s.me from rfl, hlost]
    dsimp only
    rw [hempty]
  unfold State.compute State.trigger
  simp [hown, unorderedOnly, ho, hcheck, State.decided]

theorem exec_of_lacks {i : Instr} {s : State} {g : Trig} {u : EngineUnit} {x y p : BitVec 6} {fn : BitVec 8} {latency : Nat}
    {f : Hart → Wide × FFlags × Events} (he : exec i s = .next (s.compute g u fn [x, y] [] latency f))
    (h : lacks s g u x y p) (hxy : x.toNat < y.toNat) (ho : g.ord = 0 ∧ g.scope = 0) :
    exec i s = .next (s.trapCode 0x08 (p.zeroExtend 8)) := by
  rw [he, State.compute_lacks h hxy ho]

/-! ### Lanes of a result by their rule (R210) -/

theorem lane_lt (w : Nat) (v : Wide) (l : Nat) : lane w v l < 2 ^ w := Nat.mod_lt _ (Nat.two_pow_pos w)

theorem lane_mod (w : Nat) (v : Wide) (l : Nat) : lane w v l % 2 ^ w = lane w v l := Nat.mod_eq_of_lt (lane_lt w v l)

/-- A result of VA is also that of any rule that agrees on lanes. -/
theorem vaResult_congr {s : State} {g : Trig} {w : Nat} {op op' : Nat → Nat → Nat → Nat} {r : Wide}
    (hop : ∀ x y z, x < 2 ^ w → y < 2 ^ w → op x y z % 2 ^ w = op' x y z % 2 ^ w) (h : vaResult s g w op r) :
    vaResult s g w op' r := fun l hl => by
  rw [h l hl, hop _ _ _ (lane_lt w _ l) (lane_lt w _ l)]

/-- ORing no flags gives none. -/
theorem foldl_or_zero {α : Type} (l : List α) : l.foldl (fun (fl : FFlags) _ => fl ||| 0) 0 = 0 := by
  induction l with
  | nil => rfl
  | cons x r ih => exact ih

/-- A rule without flags raises none. -/
theorem vaFlags_none {s : State} {g : Trig} {w : Nat} {fl : BitVec 5} (h : vaFlags s g w (fun _ _ _ => 0) fl) : fl = 0 :=
  h.trans (foldl_or_zero _)

/-! ### Integer functions (R211) -/

theorem triggers_vaInteger {i : Instr} {s : State} {g : Trig} {c : BitVec 2} {op : Nat} {f : Nat → Nat → Nat → Nat}
    {rule : Nat → Nat → Nat} (he : exec i s = .next (s.vaInteger g c op f)) (ha : armed s g .va [0x10, 0x11] [])
    (ho : g.ord = 0 ∧ g.scope = 0)
    (hf : ∀ x y, x < 2 ^ (8 * 2 ^ c.toNat) → y < 2 ^ (8 * 2 ^ c.toNat) →
      f (8 * 2 ^ c.toNat) x y % 2 ^ (8 * 2 ^ c.toNat) = rule x y % 2 ^ (8 * 2 ^ c.toNat)) :
    triggers i s g .va (BitVec.ofNat 8 (4 * op + c.toNat)) 2
      (fun r fl => vaResult s g (8 * 2 ^ c.toNat) (fun x y _ => rule x y) r ∧ fl = 0) := by
  obtain ⟨hr, hfl⟩ := vaResult_vaLanes s g (8 * 2 ^ c.toNat) (Nat.le_mul_of_pos_right 8 (Nat.two_pow_pos _))
    (fun x y _ => (f (8 * 2 ^ c.toNat) x y % 2 ^ (8 * 2 ^ c.toNat), 0))
  exact triggers_of_compute he ha ho
    ⟨vaResult_congr (fun x y _ hx hy => (Nat.mod_mod _ _).trans (hf x y hx hy)) hr, vaFlags_none hfl⟩

/-- Lanes that stand for one signed number are equal. -/
theorem eq_of_laneInt_eq {w x y : Nat} (hx : x < 2 ^ w) (hy : y < 2 ^ w) (h : laneInt w x = laneInt w y) : x = y := by
  have := congrArg BitVec.toNat (BitVec.eq_of_toInt_eq h)
  rwa [BitVec.toNat_ofNat, BitVec.toNat_ofNat, Nat.mod_eq_of_lt hx, Nat.mod_eq_of_lt hy] at this

/-- The smaller of two lanes, whichever comparison finds it. -/
theorem laneMin_eq {w x y : Nat} (hx : x < 2 ^ w) (hy : y < 2 ^ w) :
    (if laneInt w x ≤ laneInt w y then x else y) = if laneInt w x < laneInt w y then x else y := by
  rcases lt_trichotomy (laneInt w x) (laneInt w y) with h | h | h
  · rw [if_pos h.le, if_pos h]
  · rw [if_pos h.le, if_neg h.not_lt, eq_of_laneInt_eq hx hy h]
  · rw [if_neg h.not_ge, if_neg h.not_gt]

/-- The larger of two lanes, whichever comparison finds it. -/
theorem laneMax_eq {w x y : Nat} (hx : x < 2 ^ w) (hy : y < 2 ^ w) :
    (if laneInt w x ≤ laneInt w y then y else x) = if laneInt w x < laneInt w y then y else x := by
  rcases lt_trichotomy (laneInt w x) (laneInt w y) with h | h | h
  · rw [if_pos h.le, if_pos h]
  · rw [if_pos h.le, if_neg h.not_lt, eq_of_laneInt_eq hx hy h]
  · rw [if_neg h.not_ge, if_neg h.not_gt]

/-- An arithmetic shift is a division of the signed lane, rounded down (R211). -/
theorem laneSra_eq (w x k : Nat) :
    ((BitVec.ofNat w x).sshiftRight k).toNat = (laneInt w x / 2 ^ k % 2 ^ w).toNat := by
  rw [BitVec.sshiftRight, Int.shiftRight_eq_div_pow, BitVec.toNat_ofInt]
  norm_cast

/-- Settles O1: each function by its rule on two lanes, and the check of the ports where a latch is empty. -/
theorem vaIntegerLanes : Obligations.VaIntegerLanes := by
  refine ⟨fun s g c ha ho hs => ?_, fun s g c p hl ho hs i hi => ?_⟩
  · have hgo := And.intro ho hs
    refine ⟨triggers_vaInteger rfl ha hgo fun _ _ _ _ => rfl, triggers_vaInteger rfl ha hgo fun x y _ hy => ?_,
      triggers_vaInteger rfl ha hgo fun _ _ _ _ => rfl, triggers_vaInteger rfl ha hgo fun x y hx hy => ?_,
      triggers_vaInteger rfl ha hgo fun x y hx hy => ?_, triggers_vaInteger rfl ha hgo fun _ _ _ _ => rfl,
      triggers_vaInteger rfl ha hgo fun x y _ _ => ?_, triggers_vaInteger rfl ha hgo fun _ _ _ _ => rfl⟩
    · rw [Nat.mod_eq_of_lt hy, Nat.add_sub_assoc hy.le]
    · exact congrArg (· % _) (laneMin_eq hx hy)
    · exact congrArg (· % _) (laneMax_eq hx hy)
    · exact congrArg (· % _) (laneSra_eq _ x _)
  · simp only [List.mem_cons, List.not_mem_nil, or_false] at hi
    rcases hi with rfl | rfl | rfl | rfl | rfl | rfl | rfl | rfl <;> exact exec_of_lacks rfl hl (by decide) ⟨ho, hs⟩

end Sys2Proof.Machine
end

section
/-! SUPPORT. The floating and transcendental functions of VA (R112, R212, R214), with the statement VaFloatFunctions. -/

namespace Sys2Proof.Machine

theorem State.rm_sourceMove (s : State) (u : EngineUnit) (p : BitVec 6) :
    (s.sourceMove u p).me.rm = Rm.ofCode (s.me.csr.vfcsr.extractLsb' 5 3) := by
  rw [Hart.rm, State.csr_sourceMove]

theorem State.nanpay_sourceMove (s : State) (u : EngineUnit) (p : BitVec 6) :
    (s.sourceMove u p).me.nanpay = s.me.csr.compat.getLsbD 2 := by
  rw [Hart.nanpay, State.csr_sourceMove, bitOf]

/-- A trigger on lanes of w bits, of a rule that may depend on the hart, gives each enabled lane that rule's value and flags. -/
theorem triggers_vaLanes {i : Instr} {s : State} {g : Trig} {fn : BitVec 8} {required : List (BitVec 6)} {latency w : Nat}
    {f : Hart → Nat → Nat → Nat → Nat × FFlags} {op : Nat → Nat → Nat → Nat × FFlags}
    (he : exec i s = .next (s.compute g .va fn required [] latency fun h => h.vaLanes w (f h)))
    (ha : armed s g .va required []) (ho : g.ord = 0 ∧ g.scope = 0) (hw : 8 ≤ w) (hf : f (s.sourceMove .va g.port).me = op) :
    triggers i s g .va fn latency
      (fun r fl => vaResult s g w (fun x y z => (op x y z).1) r ∧ vaFlags s g w (fun x y z => (op x y z).2) fl) :=
  triggers_of_compute he ha ho (hf ▸ vaResult_vaLanes s g w hw _)

/-- The formats by their codes and the widths of their lanes (R212). -/
theorem vaFormat_eq : ∀ f : BitVec 2, vaFormat f = ([fp64, fp32, bf16, fp16] : List Fmt).getD f.toNat fp64 ∧
    (vaFormat f).mag + 1 = ([64, 32, 16, 16] : List Nat).getD f.toNat 64 ∧ 8 ≤ ([64, 32, 16, 16] : List Nat).getD f.toNat 64 := by
  decide

/-- A floating trigger, of the format and the lanes that its code names. -/
theorem triggers_vaFloat {i : Instr} {s : State} {g : Trig} {c : BitVec 2} {op latency : Nat} {z : Bool}
    {f : Hart → Fmt → Nat → Nat → Nat → Nat × FFlags} {rule : Nat → Nat → Nat → Nat × FFlags}
    (he : exec i s = .next (s.vaFloat g c op latency z f))
    (ha : armed s g .va (if z then [0x10, 0x11, 0x12] else [0x10, 0x11]) []) (ho : g.ord = 0 ∧ g.scope = 0)
    (hf : f (s.sourceMove .va g.port).me (([fp64, fp32, bf16, fp16] : List Fmt).getD c.toNat fp64) = rule) :
    triggers i s g .va (BitVec.ofNat 8 (0x20 + 4 * op + c.toNat)) latency (fun r fl =>
      vaResult s g (([64, 32, 16, 16] : List Nat).getD c.toNat 64) (fun x y z => (rule x y z).1) r ∧
      vaFlags s g (([64, 32, 16, 16] : List Nat).getD c.toNat 64) (fun x y z => (rule x y z).2) fl) := by
  obtain ⟨ht, hw, hw8⟩ := vaFormat_eq c
  rw [State.vaFloat] at he
  dsimp only at he
  rw [hw, ht] at he
  exact triggers_vaLanes he ha ho hw8 hf

/-- Settles O2: each function by the operation of its format on the lanes, in the mode and with the NaN rule of the hart. -/
theorem vaFloatFunctions : Obligations.VaFloatFunctions := by
  refine ⟨fun s g f ho hs => ⟨fun ha => ⟨?_, ?_, ?_, ?_, ?_, ?_⟩, fun ha => ⟨?_, ?_⟩⟩, fun s g ha ho hs => ⟨?_, ?_, ?_, ?_⟩⟩
  case refine_1 | refine_2 | refine_3 | refine_4 | refine_5 | refine_6 | refine_7 | refine_8 =>
    exact triggers_vaFloat rfl ha ⟨ho, hs⟩ (by simp only [State.rm_sourceMove, State.nanpay_sourceMove])
  all_goals exact triggers_vaLanes rfl ha ⟨ho, hs⟩ (by decide) (by simp only [State.rm_sourceMove, State.nanpay_sourceMove])

end Sys2Proof.Machine
end

section
/-! SUPPORT. The logic, select and compare functions of VA, and what a compare of floating values finds (R213), with the statement
VaLogicSelectAndCompares. -/

namespace Sys2Proof.Machine

/-! ### Logic and selects (R213) -/

/-- A logic or select trigger, of va.x and va.y as they stand after the source move. -/
theorem triggers_vaLogic {i : Instr} {s : State} {g : Trig} {fn : BitVec 8} {f : Hart → Wide → Wide → Wide} {rule : Wide → Prop}
    (he : exec i s = .next (s.vaLogic g fn f)) (ha : armed s g .va [0x10, 0x11] []) (ho : g.ord = 0 ∧ g.scope = 0)
    (hr : rule (f (s.sourceMove .va g.port).me (triggerValue s g .va) (operandLatch s 0x11))) :
    triggers i s g .va fn 2 (fun r fl => rule r ∧ fl = 0) := by
  have hx : (s.sourceMove .va g.port).me.readPort 0x10 = triggerValue s g .va := s.readPort_sourceMove_operand g .va
  have hy := s.readPort_sourceMove g .va 0x11 (by decide) (by decide)
  rw [← hx, ← hy] at hr
  exact triggers_of_compute he ha ho ⟨hr, rfl⟩

/-- A lane of a select is of va.x where the mask enables it, else of va.y. -/
theorem lane_selectLanes (s : State) (g : Trig) (x y : Wide) {w l : Nat} (hw : 8 ≤ w) (hl : l < 512 / w) :
    lane w (selectLanes w (s.sourceMove .va g.port).me.vaMask x y) l = if vaEnabled s l then lane w x l else lane w y l := by
  have hm := s.vaMask_sourceMove g (l := l) (Nat.lt_of_lt_of_le hl (Nat.div_le_of_le_mul (by omega)))
  rw [selectLanes, lane_ofLanes_map w _ l hl, hm, ← apply_ite (f := fun v => lane w v l)]
  exact lane_mod w _ l

/-! ### Compares (R213) -/

theorem triggers_vaIntCompare {i : Instr} {s : State} {g : Trig} {fn : BitVec 8} {w : Nat} {rel : Nat → Nat → Bool}
    (he : exec i s = .next (s.vaIntCompare g fn w rel)) (ha : armed s g .va [0x10, 0x11] []) (ho : g.ord = 0 ∧ g.scope = 0)
    (hw : 8 ≤ w) : triggers i s g .va fn 2 (fun r fl => vaRelation s g w rel r ∧ fl = 0) := by
  obtain ⟨hr, hfl⟩ := vaRelation_vaCompare s g w hw fun x y => (rel x y, 0)
  exact triggers_of_compute he ha ho ⟨hr, vaFlags_none hfl⟩

theorem triggers_vaFloatCompare {i : Instr} {s : State} {g : Trig} {fn : BitVec 8} {w : Nat} {t : Fmt} {c : FCmp}
    (he : exec i s = .next (s.vaFloatCompare g fn t c)) (ha : armed s g .va [0x10, 0x11] []) (ho : g.ord = 0 ∧ g.scope = 0)
    (hw : 8 ≤ w) (ht : t.mag + 1 = w) : triggers i s g .va fn 2 (fun r fl =>
      vaRelation s g w (fun x y => (fCompare c (unpack t x) (unpack t y)).1) r ∧
      vaFlags s g w (fun x y _ => (fCompare c (unpack t x) (unpack t y)).2) fl) := by
  subst ht
  exact triggers_of_compute he ha ho (vaRelation_vaCompare s g _ hw _)

/-- What each relation asks of two numbers. -/
def FCmp.holds (c : FCmp) (x y : Int) : Bool :=
  match c with
  | .eq => decide (x = y)
  | .lt => decide (x < y)
  | .le => decide (x ≤ y)

/-- A NaN makes every relation false, and signals as its relation has it. -/
theorem fCompare_of_nan (c : FCmp) {a b : Val} (h : a.isNan ∨ b.isNan) : fCompare c a b = (false, match c with
    | .eq => if a.isSignalling ∨ b.isSignalling then 0x10 else 0
    | _ => 0x10) := by
  unfold fCompare
  rw [if_pos (by simpa using h)]
  cases c with
  | eq =>
    simp [snanFlag, flNV]
  | lt => rfl
  | le => rfl

/-- Values that order as two numbers do compare as these. -/
theorem fCompare_of_sign (c : FCmp) {a b : Val} {x y : Int} (h : ¬ (a.isNan ∨ b.isNan)) (hs : compareVal a b = (x - y).sign) :
    fCompare c a b = (c.holds x y, 0) := by
  unfold fCompare
  rw [if_neg (by simpa using h), hs]
  cases c with
  | eq => exact Prod.ext (Bool.eq_iff_iff.2 (by simp [FCmp.holds, Int.sign_eq_zero_iff_zero, sub_eq_zero])) rfl
  | lt => simp [FCmp.holds, Int.sign_neg_iff]
  | le => simp [FCmp.holds, Int.sign_nonpos_iff]

/-- Finite values order as their integer multiples of the finer last place. -/
theorem compareVal_fin (n k : Bool) (m j : Nat) (e d : Int) : compareVal (.fin n m e) (.fin k j d) =
    ((if n then -1 else 1) * m * 2 ^ (e - min e d).toNat - (if k then -1 else 1) * j * 2 ^ (d - min e d).toNat : Int).sign := by
  rw [compareVal, exactAdd, scaleTo, scaleTo]
  congr 1
  cases n <;> cases k <;> simp <;> ring

/-- Settles O3: each function by its rule on va.x, va.y and the mask; the compares of values by the numbers that they are. -/
theorem vaLogicSelectAndCompares : Obligations.VaLogicSelectAndCompares := by
  refine ⟨fun s g ha ho hs => ?_, fun c a b h => fCompare_of_nan c h, fun c n k m j e d => ⟨?_, ?_, ?_, ?_⟩,
    fun s g p hl ho hs i hi => ?_⟩
  · have hgo := And.intro ho hs
    have hselect {w : Nat} (hw : 8 ≤ w) (l : Nat) := lane_selectLanes s g (triggerValue s g .va) (operandLatch s 0x11) (l := l) hw
    refine ⟨triggers_vaLogic rfl ha hgo rfl, triggers_vaLogic rfl ha hgo rfl, triggers_vaLogic rfl ha hgo rfl,
      triggers_vaLogic rfl ha hgo (hselect (by decide)), triggers_vaLogic rfl ha hgo (hselect (by decide)), ?_⟩
    refine ⟨triggers_vaIntCompare rfl ha hgo (by decide), triggers_vaIntCompare rfl ha hgo (by decide),
      triggers_vaIntCompare rfl ha hgo (by decide), triggers_vaIntCompare rfl ha hgo (by decide),
      triggers_vaIntCompare rfl ha hgo (by decide), ?_⟩
    exact ⟨triggers_vaFloatCompare rfl ha hgo (by decide) rfl, triggers_vaFloatCompare rfl ha hgo (by decide) rfl,
      triggers_vaFloatCompare rfl ha hgo (by decide) rfl, triggers_vaFloatCompare rfl ha hgo (by decide) rfl,
      triggers_vaFloatCompare rfl ha hgo (by decide) rfl, triggers_vaFloatCompare rfl ha hgo (by decide) rfl⟩
  · exact fCompare_of_sign c (by simp [Val.isNan]) (compareVal_fin n k m j e d)
  · exact fCompare_of_sign c (by simp [Val.isNan]) (by cases n <;> cases k <;> rfl)
  · exact fCompare_of_sign c (by simp [Val.isNan]) (by cases n <;> rfl)
  · exact fCompare_of_sign c (by simp [Val.isNan]) (by cases k <;> rfl)
  · simp only [List.mem_cons, List.not_mem_nil, or_false] at hi
    rcases hi with rfl | rfl | rfl | rfl | rfl | rfl | rfl | rfl | rfl | rfl | rfl | rfl | rfl | rfl | rfl | rfl <;>
      exact exec_of_lacks rfl hl (by decide) ⟨ho, hs⟩

end Sys2Proof.Machine
end

section
/-! SUPPORT. The permutes, compress and expand of VS, lane by lane (R215, R216), with the statement VsShuffles. -/

namespace Sys2Proof.Machine

/-- A shuffle trigger, of vs.x and vs.y as they stand after the source move. -/
theorem triggers_vsShuffle {i : Instr} {s : State} {g : Trig} {fn : BitVec 8} {latency : Nat} {f : Wide → Wide → Wide}
    {rule : Wide → Prop} (he : exec i s = .next (s.vsShuffle g fn latency f)) (ha : armed s g .vs [0x15, 0x16] [])
    (ho : g.ord = 0 ∧ g.scope = 0) (hr : rule (f (triggerValue s g .vs) (operandLatch s 0x16))) :
    triggers i s g .vs fn latency (fun r fl => rule r ∧ fl = 0) := by
  have hx : (s.sourceMove .vs g.port).me.readPort 0x15 = triggerValue s g .vs := s.readPort_sourceMove_operand g .vs
  have hy := s.readPort_sourceMove g .vs 0x16 (by decide) (by decide)
  rw [← hx, ← hy] at hr
  exact triggers_of_compute he ha ho ⟨hr, rfl⟩

/-! ### Permutes (R215) -/

theorem lane_permLanes {w i : Nat} (x y : Wide) (hi : i < 512 / w) :
    lane w (permLanes w x y) i = lane w x (lane w y i % (512 / w)) := by
  rw [permLanes, allLanes, lanes, List.map_map, lane_ofLanes_map w _ i hi]
  exact lane_mod w x _

theorem lane_bcastLanes {w i : Nat} (x y : Wide) (hi : i < 512 / w) :
    lane w (bcastLanes w x y) i = lane w x ((y.extractLsb' 0 6).toNat % (512 / w)) := by
  have hy : (y.extractLsb' 0 6).toNat = y.toNat % 64 := by simp [BitVec.extractLsb'_toNat]
  have hmap : List.replicate (512 / w) (lane w x (y.toNat % 64 % (512 / w))) =
      (List.range (512 / w)).map fun _ => lane w x (y.toNat % 64 % (512 / w)) := by simp [List.map_const']
  rw [bcastLanes, hmap, lane_ofLanes_map w _ i hi, lane_mod, hy]

theorem lane_rotBytes {i : Nat} (x y : Wide) (hi : i < 64) :
    lane 8 (rotBytes x y) i = lane 8 x ((i + (y.extractLsb' 0 6).toNat) % 64) := by
  have hy : (y.extractLsb' 0 6).toNat = y.toNat % 64 := by simp [BitVec.extractLsb'_toNat]
  rw [rotBytes, hy]
  exact (lane_ofLanes_map 8 _ i hi).trans (lane_mod 8 x _)

/-- The entries of a list of pairs written out: the first of pair i at 2i, the second after it. -/
theorem getElem?_flatMap_pair {α β : Type} (f g : α → β) (l : List α) (i : Nat) :
    (l.flatMap fun k => [f k, g k])[2 * i]? = l[i]?.map f ∧ (l.flatMap fun k => [f k, g k])[2 * i + 1]? = l[i]?.map g := by
  induction l generalizing i with
  | nil => simp
  | cons k r ih =>
    cases i with
    | zero => simp
    | succ i => simpa [Nat.mul_succ] using ih i

/-- A zip takes its lanes in turn from x and y, from the first or the second half of each. -/
theorem lane_zipLanes {w i : Nat} (high : Bool) (x y : Wide) (hi : i < 512 / w / 2) :
    lane w (zipLanes w high x y) (2 * i) = lane w x (i + if high then 512 / w / 2 else 0) ∧
    lane w (zipLanes w high x y) (2 * i + 1) = lane w y (i + if high then 512 / w / 2 else 0) := by
  obtain ⟨hx, hy⟩ := getElem?_flatMap_pair (fun k => lane w x (k + if high then 512 / w / 2 else 0))
    (fun k => lane w y (k + if high then 512 / w / 2 else 0)) (List.range (512 / w / 2)) i
  rw [List.getElem?_range hi] at hx hy
  have hlen (f g : Nat → Nat) : w * ((List.range (512 / w / 2)).flatMap fun k => [f k, g k]).length ≤ 512 := by
    have h2 : ((List.range (512 / w / 2)).flatMap fun k => [f k, g k]).length = 512 / w / 2 * 2 := by simp
    rw [h2]
    exact (Nat.mul_le_mul_left w (Nat.div_mul_le_self _ 2)).trans (Nat.mul_div_le 512 w)
  unfold zipLanes
  dsimp only
  rw [lane_ofLanes _ _ _ (hlen _ _), lane_ofLanes _ _ _ (hlen _ _), List.getD, List.getD, hx, hy]
  exact ⟨lane_mod w x _, lane_mod w y _⟩

/-! ### Compress and expand (R216) -/

/-- Lane j of a compress is the lane of x that the j-th set bit of y selects, 0 past the last. -/
theorem lane_compressLanes {w j : Nat} (x y : Wide) : lane w (compressLanes w x y) j =
    match ((List.range (512 / w)).filter fun i => y.getLsbD i)[j]? with
    | some i => lane w x i
    | none => 0 := by
  have hlen : w * ((setBits (512 / w) y.toNat).map (lane w x)).length ≤ 512 := by
    have h : (setBits (512 / w) y.toNat).length ≤ 512 / w := (List.length_filter_le _ _).trans_eq List.length_range
    rw [List.length_map]
    exact (Nat.mul_le_mul_left w h).trans (Nat.mul_div_le 512 w)
  have hbits : ((List.range (512 / w)).filter fun i => y.getLsbD i) = setBits (512 / w) y.toNat := rfl
  rw [compressLanes, lane_ofLanes w _ j hlen, hbits, List.getD, List.getElem?_map]
  cases (setBits (512 / w) y.toNat)[j]? with
  | none => rfl
  | some i => exact lane_mod w x i

/-- Lane i of an expand is the next lane of x where y has a set bit, else 0. -/
theorem lane_expandLanes {w i : Nat} (x y : Wide) (hi : i < 512 / w) : lane w (expandLanes w x y) i =
    if y.getLsbD i then lane w x (((List.range i).filter fun k => y.getLsbD k).length) else 0 := by
  rw [expandLanes, lane_ofLanes_map w _ i hi]
  change (if y.getLsbD i then lane w x (((List.range i).filter fun k => y.getLsbD k).length) else 0) % 2 ^ w = _
  split
  · exact lane_mod w x _
  · rfl

/-- Settles O4: each shuffle by the lanes of its result, and the check of the ports where a latch is empty. -/
theorem vsShuffles : Obligations.VsShuffles := by
  refine ⟨fun s g c ha ho hs => ?_, fun s g c p hl ho hs i hi => ?_⟩
  · have hgo := And.intro ho hs
    exact ⟨triggers_vsShuffle rfl ha hgo fun _ hi => lane_permLanes _ _ hi,
      triggers_vsShuffle rfl ha hgo fun _ hi => lane_bcastLanes _ _ hi,
      triggers_vsShuffle rfl ha hgo fun _ hi => lane_rotBytes _ _ hi,
      triggers_vsShuffle rfl ha hgo fun _ _ => lane_compressLanes _ _,
      triggers_vsShuffle rfl ha hgo fun _ hi => lane_expandLanes _ _ hi,
      fun _ => ⟨triggers_vsShuffle rfl ha hgo fun _ hi => lane_zipLanes false _ _ hi,
        triggers_vsShuffle rfl ha hgo fun _ hi => lane_zipLanes true _ _ hi⟩⟩
  · simp only [List.mem_cons, List.not_mem_nil, or_false] at hi
    rcases hi with rfl | rfl | rfl | rfl | rfl | rfl | rfl <;> exact exec_of_lacks rfl hl (by decide) ⟨ho, hs⟩

end Sys2Proof.Machine
end

section
/-! SUPPORT. The conversions of CV, lane by lane, and its encodes (R97, R218 to R221), with the statements CvRoundedConversions,
CvWidenings and CvEncodes. -/

namespace Sys2Proof.Machine

/-! ### Conversions (R218 to R220) -/

/-- An instruction that triggers with one result triggers with any that this one is. -/
theorem triggers_imp {i : Instr} {s : State} {g : Trig} {u : EngineUnit} {fn : BitVec 8} {latency : Nat}
    {p q : Wide → BitVec 5 → Prop} (h : triggers i s g u fn latency p) (hpq : ∀ r fl, p r fl → q r fl) :
    triggers i s g u fn latency q := by
  obtain ⟨t, r, fl, he, hr, hslot⟩ := h
  exact ⟨t, r, fl, he, hpq r fl hr, hslot⟩

/-- A conversion gives one result for each of the m lanes of its part, packed from bit 0, and 0 above them. -/
theorem triggers_cvLanes {i : Instr} {s : State} {g : Trig} {fn : BitVec 8} {src dst m part : Nat}
    {f : Hart → Nat → Nat × FFlags} {rule : Nat → Nat × FFlags} (he : exec i s = .next (s.cvLanes g fn src dst m part f))
    (ha : armed s g .cv [0x18] []) (ho : g.ord = 0 ∧ g.scope = 0) (hm : dst * m ≤ 512)
    (hf : f (s.sourceMove .cv g.port).me = rule) :
    triggers i s g .cv fn 3 (fun r fl =>
      (∀ j, lane dst r j = if j < m then (rule (lane src (triggerValue s g .cv) (part * m + j))).1 % 2 ^ dst else 0) ∧
      fl = (List.range m).foldl (fun a j => a ||| (rule (lane src (triggerValue s g .cv) (part * m + j))).2) 0) := by
  have hx : (s.sourceMove .cv g.port).me.readPort 0x18 = triggerValue s g .cv := s.readPort_sourceMove_operand g .cv
  refine triggers_of_compute he ha ho ⟨fun j => ?_, ?_⟩
  · dsimp only
    rw [hf, hx, List.map_map, lane_ofLanes _ _ _ (by simpa using hm), List.getD, List.getElem?_map]
    split
    next hj => rw [List.getElem?_range hj]; rfl
    next hj => rw [List.getElem?_eq_none (by simpa using hj)]; exact Nat.zero_mod _
  · dsimp only
    rw [hf, hx, List.foldl_map]

/-- The rounding mode that a conversion's code names, after the source move (R97, R218). -/
theorem State.cvMode_sourceMove (s : State) (u : EngineUnit) (p : BitVec 6) {c : BitVec 2} (hc : c ≠ 3) :
    (s.sourceMove u p).me.cvMode c = if c = 0 then (if s.me.csr.compat.getLsbD 0 then Rm.rmm else Rm.rne)
      else if c = 1 then Rm.rtz else Rm.ofCode (s.me.csr.vfcsr.extractLsb' 5 3) := by
  unfold Hart.cvMode
  rw [State.csr_sourceMove, State.rm_sourceMove]
  have hcases : c = 0 ∨ c = 1 ∨ c = 2 := by revert hc; revert c; decide
  rcases hcases with rfl | rfl | rfl <;> rfl

/-- A conversion of lanes from lane 0 on. -/
theorem triggers_cvFirst {i : Instr} {s : State} {g : Trig} {fn : BitVec 8} {src dst m : Nat}
    {f : Hart → Nat → Nat × FFlags} {rule : Nat → Nat × FFlags} (he : exec i s = .next (s.cvLanes g fn src dst m 0 f))
    (ha : armed s g .cv [0x18] []) (ho : g.ord = 0 ∧ g.scope = 0) (hm : dst * m ≤ 512)
    (hf : f (s.sourceMove .cv g.port).me = rule) :
    triggers i s g .cv fn 3 (fun r fl =>
      (∀ j, j < 512 / dst → lane dst r j = if j < m then (rule (lane src (triggerValue s g .cv) j)).1 % 2 ^ dst else 0) ∧
      fl = (List.range m).foldl (fun a j => a ||| (rule (lane src (triggerValue s g .cv) j)).2) 0) := by
  refine triggers_imp (triggers_cvLanes he ha ho hm hf) fun r fl h => ?_
  simp only [Nat.zero_mul, Nat.zero_add] at h
  exact ⟨fun j _ => h.1 j, h.2⟩

/-- Settles O6: each conversion by its rule on the lanes, in the mode that its code names. -/
theorem cvRoundedConversions : Obligations.CvRoundedConversions := by
  intro s g c hc ha ho hs x pay mode code converts
  have hmode : (s.sourceMove .cv g.port).me.cvMode c = mode := s.cvMode_sourceMove .cv g.port hc
  have hpay : (s.sourceMove .cv g.port).me.nanpay = pay := s.nanpay_sourceMove .cv g.port
  have hconv {i : Instr} {fn : BitVec 8} {src dst m : Nat} {f : Hart → Nat → Nat × FFlags} {rule : Nat → Nat × FFlags}
      (he : exec i s = .next (s.cvLanes g fn src dst m 0 f)) (hm : dst * m ≤ 512) (hf : f (s.sourceMove .cv g.port).me = rule) :
      triggers i s g .cv fn 3 (converts src dst m rule) := triggers_cvFirst he ha ⟨ho, hs⟩ hm hf
  clear_value converts
  refine ⟨?_, ?_, ?_, ?_, ?_, ?_, ?_, ?_, ?_, ?_⟩
  case refine_10 => exact hconv rfl (by decide) rfl
  case refine_6 | refine_7 => exact hconv rfl (by decide) (by simp only [hmode]; rfl)
  all_goals exact hconv rfl (by decide) (by simp only [hmode, hpay])

/-- A widening reads its part alone, and fills as many lanes of the wider format. -/
theorem triggers_cvPart {i : Instr} {s : State} {g : Trig} {fn : BitVec 8} {src dst m part : Nat}
    {f : Hart → Nat → Nat × FFlags} {rule : Nat → Nat × FFlags} (he : exec i s = .next (s.cvLanes g fn src dst m part f))
    (ha : armed s g .cv [0x18] []) (ho : g.ord = 0 ∧ g.scope = 0) (hm : dst * m ≤ 512)
    (hf : f (s.sourceMove .cv g.port).me = rule) :
    triggers i s g .cv fn 3 (fun r fl =>
      (∀ j, j < m → lane dst r j = (rule (lane src (triggerValue s g .cv) (part * m + j))).1 % 2 ^ dst) ∧
      fl = (List.range m).foldl (fun a j => a ||| (rule (lane src (triggerValue s g .cv) (part * m + j))).2) 0) :=
  triggers_imp (triggers_cvLanes he ha ho hm hf) fun _ _ h => ⟨fun j hj => (h.1 j).trans (if_pos hj), h.2⟩

/-- Settles O7: each widening by its rule on the lanes of its part. -/
theorem cvWidenings : Obligations.CvWidenings := by
  intro s g c b ha ho hs x pay widens
  have hpay : (s.sourceMove .cv g.port).me.nanpay = pay := s.nanpay_sourceMove .cv g.port
  have hconv {i : Instr} {fn : BitVec 8} {part src dst m : Nat} {f : Hart → Nat → Nat × FFlags} {rule : Nat → Nat × FFlags}
      (he : exec i s = .next (s.cvLanes g fn src dst m part f)) (hm : dst * m ≤ 512)
      (hf : f (s.sourceMove .cv g.port).me = rule) : triggers i s g .cv fn 3 (widens part src dst m rule) :=
    triggers_cvPart he ha ⟨ho, hs⟩ hm hf
  clear_value widens
  refine ⟨?_, ?_, ?_, ?_, ?_, ?_⟩
  case refine_6 => exact hconv rfl (by decide) rfl
  all_goals exact hconv rfl (by decide) (by simp only [hpay])

/-! ### Encodes (R221) -/

/-- The values of cv.x that an encode takes, after the source move. -/
theorem State.cvBf16_sourceMove (s : State) (g : Trig) : (s.sourceMove .cv g.port).me.cvBf16 =
    (List.range 32).map fun i => unpack bf16 (lane 16 (triggerValue s g .cv) i) := by
  have hx : (s.sourceMove .cv g.port).me.readPort 0x18 = triggerValue s g .cv := s.readPort_sourceMove_operand g .cv
  rw [Hart.cvBf16, allLanes, lanes, hx, List.map_map]
  rfl

theorem State.win_sourceMove (s : State) (u : EngineUnit) (p : BitVec 6) :
    (s.sourceMove u p).me.win = WinCtx.of s.me.csr.bandsc s.me.csr.compat := by
  rw [Hart.win, State.csr_sourceMove]

/-- The source move leaves the count of events. -/
theorem State.numevt_sourceMove (s : State) (u : EngineUnit) (p : BitVec 6) :
    (s.sourceMove u p).myCore.numevt = s.myCore.numevt :=
  (congrArg Core.numevt (s.myCore_sourceMove u p s.myCore.harts) :)

/-- A trigger that performs counts the events of its function at the core (R113, R114). -/
theorem State.compute_numevt {s : State} {g : Trig} {u : EngineUnit} {required optional : List (BitVec 6)}
    (ha : armed s g u required optional) (ho : g.ord = 0 ∧ g.scope = 0) (fn : BitVec 8) (latency : Nat)
    (f : Hart → Wide × FFlags × Events) : (s.compute g u fn required optional latency f).myCore.numevt =
      countEvents s.myCore.numevt (f (s.sourceMove u g.port).me).2.2 := by
  have hf : s.compute g u fn required optional latency f = _ :=
    s.trigger_fires g u ⟨required, optional, fun _ => unorderedOnly g⟩ (fun _ => none) _ ha rfl (by simp [unorderedOnly, ho])
  rw [hf]
  dsimp only
  rw [State.complete_eq, State.setMe_eq, State.myCore_setMyCore, State.myCore_setMyCore, ← State.numevt_sourceMove s u g.port]
  rfl

/-- An encode gives its bytes and no flag, and counts its events at the core. -/
theorem triggers_cvEncode {i : Instr} {s : State} {g : Trig} {fn : BitVec 8} {f : Hart → List Byte × Events} {b : List Byte}
    {e : Events} (he : exec i s = .next (s.cvEncode g fn f)) (ha : armed s g .cv [0x18] []) (ho : g.ord = 0 ∧ g.scope = 0)
    (hf : f (s.sourceMove .cv g.port).me = (b, e)) :
    triggers i s g .cv fn 6 (fun r fl => r = BitVec.ofNat 512 (leNat b) ∧ fl = 0) ∧
      ∀ t, exec i s = .next t → t.myCore.numevt = countEvents s.myCore.numevt e := by
  refine ⟨triggers_of_compute he ha ho ⟨by rw [hf], rfl⟩, fun t ht => ?_⟩
  have hcount := State.compute_numevt ha ho fn 6 fun h => (BitVec.ofNat 512 (leNat (f h).1), 0, (f h).2)
  rw [hf] at hcount
  rw [he] at ht
  exact Host.Outcome.next.inj ht ▸ hcount

/-- Settles O8: each encode by what the window encode of the hart's context gives of the 32 values. -/
theorem cvEncodes : Obligations.CvEncodes := by
  intro s g ha ho hs
  have hv := s.cvBf16_sourceMove g
  have hwin := s.win_sourceMove .cv g.port
  refine ⟨triggers_cvEncode rfl ha ⟨ho, hs⟩ ?_, triggers_cvEncode rfl ha ⟨ho, hs⟩ ?_, triggers_cvEncode rfl ha ⟨ho, hs⟩ ?_,
    triggers_cvEncode rfl ha ⟨ho, hs⟩ ?_⟩
  case refine_1 | refine_2 => rw [hv, hwin]
  all_goals rw [hv, hwin]; rfl

end Sys2Proof.Machine
end

section
/-! SUPPORT. The operand that a trigger's source brings, and the loads and stores of LS (R200, R206, R222, R223), with the statement
LsTriggers. -/

namespace Sys2Proof.Machine

/-! ### The low bits of a wide value (R200) -/

theorem getLsbD_lowBits (v : Wide) (n i : Nat) : (lowBits v n).getLsbD i = (decide (i < n) && v.getLsbD i) := by
  rw [lowBits, BitVec.getLsbD_ofNat, Nat.testBit_mod_two_pow]
  by_cases hi : i < 512
  · simp [hi, BitVec.testBit_toNat]
  · simp [hi, BitVec.getLsbD_of_ge v i (by omega)]

@[simp] theorem lowBits_lowBits (v : Wide) (n : Nat) : lowBits (lowBits v n) n = lowBits v n := by
  refine BitVec.eq_of_getLsbD_eq fun i _ => ?_
  simp [getLsbD_lowBits]

/-- A field within the low n bits reads the same of them. -/
theorem extractLsb'_lowBits (v : Wide) {n a k : Nat} (h : a + k ≤ n) : (lowBits v n).extractLsb' a k = v.extractLsb' a k := by
  refine BitVec.eq_of_getLsbD_eq fun i hi => ?_
  rw [BitVec.getLsbD_extractLsb', BitVec.getLsbD_extractLsb', getLsbD_lowBits, decide_eq_true (by omega : a + i < n), Bool.true_and]

/-! ### The operand of a trigger (R203, R206) -/

/-- A trigger that is armed has an operand to check: its value at the width of its port. -/
theorem State.triggerOperand_of_armed {s : State} {g : Trig} {u : EngineUnit} {required optional : List (BitVec 6)}
    (ha : armed s g u required optional) :
    s.triggerOperand u g.port = some (lowBits (triggerValue s g u) (portWidth (operandPort u))) := by
  have hports : operandPort u ≠ 0x2A ∧ operandPort u ≠ 0x2C := by cases u <;> decide
  have hsrc := ha.1
  unfold State.triggerOperand triggerValue
  split at hsrc
  next hp =>
    rw [if_neg (hp ▸ hports.1), if_pos (.inr hsrc), if_pos hp, Hart.readPort, if_neg (hp ▸ hports.2)]
  next hp =>
    obtain ⟨-, hc | ⟨hq, -, hpop⟩ | ⟨hq, hfull⟩⟩ := hsrc
    · rw [if_neg (by rw [hc]; decide), if_pos (.inl hc), if_neg hp, if_neg (by rw [hc]; decide), lowBits_lowBits]
    · rw [if_pos hq, if_neg (by omega), if_neg hp, if_pos hq, lowBits_lowBits]
    · rw [if_neg hq, if_pos (.inr hfull), if_neg hp, if_neg hq, lowBits_lowBits]

/-! ### What the source move leaves of the state -/

@[simp] theorem State.place_sourceMove (s : State) (u : EngineUnit) (p : BitVec 6) (core : Nat) (a : Word) :
    (s.sourceMove u p).place core a = s.place core a := by
  unfold State.sourceMove; split <;> rfl

@[simp] theorem State.device_sourceMove (s : State) (u : EngineUnit) (p : BitVec 6) : (s.sourceMove u p).device = s.device := by
  unfold State.sourceMove; split <;> rfl

@[simp] theorem State.coreCycle_sourceMove (s : State) (u : EngineUnit) (p : BitVec 6) (core : Nat) :
    (s.sourceMove u p).coreCycle core = s.coreCycle core := by
  unfold State.sourceMove; split <;> rfl

@[simp] theorem State.mode_sourceMove (s : State) (u : EngineUnit) (p : BitVec 6) : (s.sourceMove u p).me.mode = s.me.mode := by
  rw [State.me_sourceMove_with]

/-- The protection unit reads the issuing hart's control registers, which the source move leaves (R71). -/
@[simp] theorem State.protects_sourceMove (s : State) (u : EngineUnit) (p : BitVec 6) (m : Mode) (k : Kind) (d core off len : Nat) :
    (s.sourceMove u p).protects s.cur m k d core off len = s.protects s.cur m k d core off len := by
  have hcsr : ((s.sourceMove u p).hart s.cur).csr = (s.hart s.cur).csr := by
    have h := s.csr_sourceMove u p
    rwa [State.me, State.sourceMove_cur] at h
  unfold State.protects regionPermits
  rw [hcsr, State.device_sourceMove]

@[simp] theorem State.lsPlace_sourceMove (s : State) (u : EngineUnit) (p : BitVec 6) (fn : BitVec 8) (v : Wide) :
    (s.sourceMove u p).lsPlace fn v = s.lsPlace fn v := by
  unfold State.lsPlace
  simp only [State.sourceMove_cur, State.place_sourceMove, State.mode_sourceMove, State.protects_sourceMove, State.device_sourceMove]

/-! ### Loads and stores (R222, R223) -/

/-- The operand of LS is 128 bits wide. -/
theorem State.lsPlace_lowBits (s : State) (fn : BitVec 8) (v : Wide) : s.lsPlace fn (lowBits v 128) = s.lsPlace fn v := by
  have ha : lsAddress (lowBits v 128) = lsAddress v := extractLsb'_lowBits v (by decide)
  have hx : lsAux (lowBits v 128) = lsAux v := extractLsb'_lowBits v (by decide)
  unfold State.lsPlace
  rw [ha, hx]

/-- A trigger of LS whose operand keeps its limits performs after its source move. -/
theorem State.lsTrigger_fires {s : State} {g : Trig} {fn : BitVec 8} {required : List (BitVec 6)} {off win : Nat}
    (ha : armed s g .ls required []) (ho : g.ord = 0 ∧ g.scope = 0)
    (hp : s.lsPlace fn (triggerValue s g .ls) = some (off, win)) (perform : State → State) :
    s.trigger g .ls ⟨required, [], s.lsCheck g fn⟩ (fun _ => none) perform = perform (s.sourceMove .ls g.port) := by
  refine s.trigger_fires g .ls ⟨required, [], s.lsCheck g fn⟩ _ perform ha rfl ?_
  have hplace : s.lsPlace fn (lowBits (triggerValue s g .ls) (portWidth (operandPort .ls))) = some (off, win) :=
    (s.lsPlace_lowBits fn _).trans hp
  rw [State.triggerOperand_of_armed ha]
  simp [State.lsCheck, hplace, unorderedOnly, ho]

theorem State.readPort_sourceMove_ls (s : State) (g : Trig) :
    (s.sourceMove .ls g.port).me.readPort 0x1B = triggerValue s g .ls := s.readPort_sourceMove_operand g .ls

/-- A trigger completes in its slot, with any count of events, as `triggerSlot` says. -/
theorem State.complete_triggerSlot {s t : State} {g : Trig} {u : EngineUnit} (fn : BitVec 8) (due : Nat) (r : Wide) (fl : BitVec 5)
    (acc : LsAccess) (n : Word) (hcur : t.cur = s.cur) (hset : ∀ c, t.setMyCore c = s.setMyCore c)
    (hcore : t.myCore = { (s.sourceMove u g.port).myCore with numevt := n }) (hme : t.me = (s.sourceMove u g.port).me) :
    triggerSlot s (t.complete (t.me.startTrigger u fn due r fl acc)) g u fn ⟨u, s.me.seq, fn, due, r, fl, acc, true⟩ := by
  have h := triggerSlot_of s g u fn due r fl acc n
  rw [State.complete_eq, State.setMe_eq, hset, hme, hcore]
  simp only [hcur]
  exact h

/-- A load takes its slot, and its access is of the span of its window, or of the bytes that AUX counts. -/
theorem lsLoad_slot {s : State} {g : Trig} {fn : BitVec 8} {off win : Nat} (ha : armed s g .ls [0x1B] [])
    (ho : g.ord = 0 ∧ g.scope = 0) (hp : s.lsPlace fn (triggerValue s g .ls) = some (off, win)) :
    triggerSlot s (s.lsLoad g fn) g .ls fn ⟨.ls, s.me.seq, fn, s.coreCycle s.cur.core + lsLatency win, 0, 0,
      .load fn win off (if fn = 3 then ((triggerValue s g .ls).extractLsb' 64 7).toNat else lsSpan win)
        s.me.csr.bandsc s.me.csr.compat, true⟩ := by
  have haux : field (lsAux (triggerValue s g .ls)) 0 7 = ((triggerValue s g .ls).extractLsb' 64 7).toNat := by
    simp [field, lsAux, BitVec.extractLsb'_toNat]
  have h := State.complete_triggerSlot (g := g) (u := .ls) fn (s.coreCycle s.cur.core + lsLatency win) 0 0
    (.load fn win off (if fn = 3 then ((triggerValue s g .ls).extractLsb' 64 7).toNat else lsSpan win)
      s.me.csr.bandsc s.me.csr.compat) _ (s.sourceMove_cur .ls g.port) (s.setMyCore_sourceMove .ls g.port) rfl rfl
  rw [State.lsLoad, State.lsTrigger_fires ha ho hp]
  dsimp only
  rw [State.readPort_sourceMove_ls, State.lsPlace_sourceMove, hp, State.csr_sourceMove, State.sourceMove_cur,
    State.coreCycle_sourceMove, haux]
  exact h

/-- The bytes of a store: the window's encoding of ls.d, or of these the ones that the mask selects. -/
theorem State.lsCells_sourceMove (s : State) (g : Trig) (fn : BitVec 8) (off win : Nat) :
    ((s.sourceMove .ls g.port).lsCells fn off win).1 =
      let b := (windowWrite (WinCtx.of s.me.csr.bandsc s.me.csr.compat) win (if win = 3 ∨ win = 4 then bf16 else fp32)
        (leBytes (operandLatch s 0x1C).toNat 64)).1
      let cells := b.zipIdx.map fun (x, i) => (spadKey s.cur.core (off + i), x)
      if fn = 9 then ((List.range 64).filter fun i => (triggerValue s g .ls).getLsbD (64 + i)).filterMap fun i => cells[i]?
      else cells := by
  have hd : (s.sourceMove .ls g.port).me.readPort 0x1C = operandLatch s 0x1C :=
    s.readPort_sourceMove g .ls 0x1C (by decide) (by decide)
  have hmask : setBits 64 (lsAux (triggerValue s g .ls)).toNat =
      (List.range 64).filter fun i => (triggerValue s g .ls).getLsbD (64 + i) := by
    refine List.filter_congr fun i hi => ?_
    rw [← BitVec.getLsbD, lsAux, BitVec.getLsbD_extractLsb', decide_eq_true (List.mem_range.1 hi), Bool.true_and]
  unfold State.lsCells
  dsimp only
  rw [hd, State.win_sourceMove, State.sourceMove_cur, State.readPort_sourceMove_ls, hmask]

/-- A store takes its slot, and its access is of the bytes taken at the trigger. -/
theorem lsStore_slot {s : State} {g : Trig} {fn : BitVec 8} {off win : Nat} (ha : armed s g .ls [0x1B, 0x1C] [])
    (ho : g.ord = 0 ∧ g.scope = 0) (hp : s.lsPlace fn (triggerValue s g .ls) = some (off, win)) :
    triggerSlot s (s.lsStore g fn) g .ls fn ⟨.ls, s.me.seq, fn, s.coreCycle s.cur.core + lsLatency win, 0, 0,
      .store ((s.sourceMove .ls g.port).lsCells fn off win).1, true⟩ := by
  generalize hcells : (s.sourceMove .ls g.port).lsCells fn off win = x
  have hcycle : ((s.sourceMove .ls g.port).setMyCore ((s.sourceMove .ls g.port).myCore.countEvents x.2)).coreCycle s.cur.core =
      s.coreCycle s.cur.core := s.coreCycle_sourceMove .ls g.port _
  have h := State.complete_triggerSlot (s := s) (g := g) (u := .ls)
    (t := (s.sourceMove .ls g.port).setMyCore ((s.sourceMove .ls g.port).myCore.countEvents x.2))
    fn (s.coreCycle s.cur.core + lsLatency win) 0 0 (.store x.1) _ (s.sourceMove_cur .ls g.port)
    (fun c => ((s.sourceMove .ls g.port).setMyCore_setMyCore _ c).trans (s.setMyCore_sourceMove .ls g.port c))
    ((s.sourceMove .ls g.port).myCore_setMyCore _) ((s.sourceMove .ls g.port).me_counting x.2)
  rw [State.lsStore, State.lsTrigger_fires ha ho hp]
  dsimp only
  rw [State.readPort_sourceMove_ls, State.lsPlace_sourceMove, hp]
  dsimp only [Option.getD_some]
  rw [hcells, State.setMyCore_cur, State.sourceMove_cur, hcycle]
  exact h

/-- Settles O9: each load by the span of its window, each store by its cells. -/
theorem lsTriggers : Obligations.LsTriggers := by
  intro s g off win ho hs
  have hgo := And.intro ho hs
  refine ⟨fun ha => ⟨fun hp => ⟨_, rfl, lsLoad_slot ha hgo hp⟩, fun hp => ⟨_, rfl, lsLoad_slot ha hgo hp⟩,
    fun hp => ⟨_, rfl, lsLoad_slot ha hgo hp⟩, fun hp => ⟨_, rfl, lsLoad_slot ha hgo hp⟩⟩,
    fun ha => ⟨fun hp => ⟨_, rfl, ?_⟩, fun hp => ⟨_, rfl, ?_⟩⟩⟩
  · have h := lsStore_slot ha hgo hp
    rw [State.lsCells_sourceMove] at h
    exact h
  · have h := lsStore_slot ha hgo hp
    rw [State.lsCells_sourceMove] at h
    exact h

end Sys2Proof.Machine
end

section
/-! SUPPORT. The results of fixed latency (R202, R206, R208, R209, R223), with the statement FixedLatencyResults. -/

namespace Sys2Proof.Machine

/-! ### Which trigger is due (R208) -/

theorem State.flight_of_mem_dueOf {s : State} {core : Nat} {c : Core} {x : Nat × HartRef × Flight} (hx : x ∈ s.dueOf core c) :
    x.2.2 ∈ c.harts[x.2.1.hart].flights := by
  simp only [State.dueOf, List.mem_flatMap, List.mem_map, List.mem_filter] at hx
  obtain ⟨i, -, f, ⟨hf, -⟩, rfl⟩ := hx
  exact hf

/-- A trigger of fixed latency is due once the slot of the die cycle of its result has issued. -/
theorem State.mem_dueOf {s : State} {h : HartRef} {c : Core} {f : Flight} (hslot : s.slotPending h.core = false)
    (hf : f ∈ c.harts[h.hart].flights) (hfix : fixedLatency f.unit = true) (hdue : f.due ≤ s.coreCycle h.core) :
    (s.cycleTime (dieOf h.core) f.due, h, f) ∈ s.dueOf h.core c := by
  simp only [State.dueOf, List.mem_flatMap, List.mem_map, List.mem_filter]
  exact ⟨h.hart, List.mem_finRange _, f, ⟨hf, by simp [hfix, hslot, hdue]⟩, rfl⟩

/-- A hart's one trigger of a unit is what the step of that unit finds, once it is due. -/
theorem exec_unitResultFill_of_due {s : State} {h : HartRef} {u : EngineUnit} {f : Flight} (harg : s.arg = .unit h u)
    (hfix : fixedLatency u = true) (hone : (s.hart h).flights.filter (fun x => x.unit == u) = [f])
    (hdue : f.due ≤ s.coreCycle h.core) (hslot : s.slotPending h.core = false) :
    exec .unitResultFill s = .next (s.fillFlight h f) := by
  have honly {x : Flight} (hx : x ∈ (s.hart h).flights) (hu : x.unit = u) : x = f := by
    have hmem : x ∈ (s.hart h).flights.filter (fun x => x.unit == u) := List.mem_filter.2 ⟨hx, by simp [hu]⟩
    rwa [hone, List.mem_singleton] at hmem
  obtain ⟨hf, hu⟩ := List.mem_filter.1 (hone ▸ List.mem_singleton_self f : f ∈ (s.hart h).flights.filter fun x => x.unit == u)
  have hu : f.unit = u := by simpa using hu
  have hin := State.mem_dueOf hslot hf (hu ▸ hfix) hdue
  show execUnitResultFill s = _
  unfold execUnitResultFill
  rw [harg]
  dsimp only
  cases hfind : (s.dueOf h.core (s.core h.core)).find? fun x => x.2.1 == h && x.2.2.unit == u with
  | none => exact absurd (List.find?_eq_none.1 hfind _ hin) (by simp [hu])
  | some x =>
    obtain ⟨n, g, f'⟩ := x
    have hp := List.find?_some hfind
    simp only [Bool.and_eq_true, beq_iff_eq] at hp
    obtain ⟨rfl, hu'⟩ := hp
    have hf' : f' ∈ (s.hart g).flights := State.flight_of_mem_dueOf (List.mem_of_find?_eq_some hfind)
    rw [honly hf' hu']

/-! ### What the end of a trigger leaves (R202, R206, R209) -/

/-- A hart w that is v but for its one trigger f of a unit, which has left flight with a result. -/
def Hart.resultFilled (v w : Hart) (u : EngineUnit) (f : Flight) (r : Wide) : Prop :=
  w.flights = v.flights.filter (fun x => !(x.unit == u && x.seq == f.seq)) ∧
  w.csr.vfcsr = v.csr.vfcsr ||| f.flags.zeroExtend 64 ∧
  w.ring = (if (v.seq - 1 - f.seq).toNat < 32 then
      v.ring.set (f.seq.toNat % 32) (ringWord u f.fn true false) (Nat.mod_lt _ (by decide)) else v.ring) ∧
  (∀ p, w.latch p = if f.latest ∧ p = resultPort u then ⟨.full, r⟩ else v.latch p) ∧
  w.pc = v.pc ∧ w.x = v.x ∧ w.xFull = v.xFull

theorem Hart.endRing_eq (v : Hart) (seq : BitVec 8) (u : EngineUnit) (fn : BitVec 8) (fault : Bool) :
    v.endRing seq u fn fault = { v with ring := (if (v.seq - 1 - seq).toNat < 32 then
      v.ring.set (seq.toNat % 32) (ringWord u fn true fault) (Nat.mod_lt _ (by decide)) else v.ring) } := by
  unfold Hart.endRing
  split <;> rfl

theorem Hart.fillResult_resultFilled {v : Hart} {u : EngineUnit} {f : Flight}
    (hone : v.flights.filter (fun x => x.unit == u) = [f]) (r : Wide) : v.resultFilled (v.fillResult u f.seq r) u f r := by
  have hflight : v.flight? u f.seq = some f := by
    have hfind : v.flight? u f.seq = (v.flights.filter fun x => x.unit == u).find? fun x => x.seq == f.seq := by
      rw [Hart.flight?, List.find?_filter]
      refine congrArg (List.find? · v.flights) (funext fun x => ?_)
      rw [Bool.eq_iff_iff]
      simp
    rw [hfind, hone]
    simp
  unfold Hart.fillResult Hart.endTrigger
  rw [hflight]
  dsimp only
  rw [Hart.endRing_eq]
  split
  next hl =>
    refine ⟨rfl, rfl, rfl, fun p => ?_, rfl, rfl, rfl⟩
    by_cases hp : p = resultPort u
    · subst hp; exact (Hart.latch_setLatch_same _ _ _).trans (if_pos ⟨hl, rfl⟩).symm
    · exact (Hart.latch_setLatch_other _ _ hp).trans (if_neg fun h => hp h.2).symm
  next hl => exact ⟨rfl, rfl, rfl, fun p => (if_neg fun h => hl h.1).symm, rfl, rfl, rfl⟩

/-! ### The statement -/

/-- A write at keys changes no hart but for its reservation. -/
theorem State.hart_writeCells (s : State) (core : Nat) (cells : List (Nat × Byte)) (h : HartRef) :
    ∃ resv, (s.writeCells [core] cells).hart h = { s.hart h with resv := resv } :=
  ⟨_, ((s.writeKeys cells).hart_evalWatch core h).trans ((s.core_writeKeys cells h.core).2 h.hart)⟩

/-- Settles O10: the step finds the trigger, which ends with its result, or after its access has performed. -/
theorem fixedLatencyResults : Obligations.FixedLatencyResults := by
  intro s h u f hu harg hone hdue hslot v filled
  have hfix : fixedLatency u = true := by rcases hu with rfl | rfl | rfl | rfl <;> rfl
  have he := exec_unitResultFill_of_due harg hfix hone hdue hslot
  obtain rfl : f.unit = u := by
    have hmem := List.mem_singleton_self f
    rw [← hone, List.mem_filter] at hmem
    simpa using hmem.2
  have hfilled {t : State} {w : Hart} (r : Wide) (hw : ∃ resv, w = { v with resv := resv })
      (ht : t.hart h = w.fillResult f.unit f.seq r) : filled t r := by
    obtain ⟨resv, rfl⟩ := hw
    have hw := Hart.fillResult_resultFilled (v := { v with resv := resv }) hone r
    rw [← ht] at hw
    exact hw
  refine ⟨fun hacc => ⟨_, he, ?_⟩, fun cells hacc => ⟨_, he, ?_⟩, ?_⟩
  · unfold State.fillFlight
    rw [hacc]
    exact ⟨hfilled _ ⟨_, rfl⟩ (State.hart_setHart_same _ _ _), rfl⟩
  · unfold State.fillFlight
    rw [hacc]
    exact ⟨hfilled _ (s.hart_writeCells h.core cells h) (State.hart_setHart_same _ _ _), s.writeCells_mem _ _⟩
  · intro fn win off n bandsc compat hacc keys hsound
    rcases hwin : windowRead (WinCtx.of bandsc compat) win (keys.map (Memory.read s.mem)) with ⟨d, ev⟩
    have hdelivered : lsDelivered fn win (WinCtx.of bandsc compat) (s.readKeys keys) =
        (if fn = 1 then d.take 64 else if fn = 2 then d.drop 64 else d, ev) := by
      unfold lsDelivered State.readKeys
      rw [hwin]
      dsimp only
      split
      · rfl
      · split <;> rfl
    have hkept : (s.setCore h.core ((s.core h.core).countEvents ev)).hart h = v := 
      s.hart_setCore_of_harts (c := (s.core h.core).countEvents ev) rfl h
    refine ⟨_, he, ?_⟩
    unfold State.fillFlight
    rw [hacc]
    dsimp only
    rw [if_neg (by rw [hsound]; decide), hdelivered]
    refine ⟨hfilled _ ⟨_, rfl⟩ ((State.hart_setHart_same _ _ _).trans (by rw [hkept])), rfl, ?_⟩
    rw [State.setHart, State.core_setCore_same, State.core_setCore_same]
    rfl

end Sys2Proof.Machine
end

section
/-! SUPPORT. Moves between ports and registers (R201, R203 to R205, R224, R225), with the statement MovesBetweenPortsAndRegisters. -/

namespace Sys2Proof.Machine

/-! ### When a move performs (R203, R414) -/

theorem Hart.emptyResult_of_readable {v : Hart} {p : BitVec 6} (b : Bool) (h : p = 0x2A ∨ p = 0x2C ∨ (v.latch p).st = .full) :
    v.emptyResult b p = false := by
  obtain rfl | rfl | hfull := h
  · rfl
  · rfl
  · unfold Hart.emptyResult
    rw [hfull]
    split <;> rfl

theorem length_filter_beq (l : List (BitVec 6)) (a : BitVec 6) : (l.filter (· == a)).length = l.count a := by
  rw [List.count_eq_countP, List.countP_eq_length_filter]

theorem State.downstream_of_pushable {s : State} {h : HartRef} {n : Nat} (hp : s.pushable h n = true) :
    (s.downstream h.core).isNone = false := by
  unfold State.pushable at hp
  split at hp
  · exact absurd hp (by decide)
  · next hd => rw [hd]; rfl

/-- A move whose ports are as it needs them performs. -/
theorem State.checkPorts_of_movable {s : State} {sources dests : List (BitVec 6)} (h : movable s sources dests) :
    s.checkPorts s.cur sources dests [] [] = .ok := by
  obtain ⟨hsrc, hpop, hpush⟩ := h
  have hreadable (b : Bool) {p : BitVec 6} (hp : p ∈ sources) : s.me.emptyResult b p = false :=
    Hart.emptyResult_of_readable b (hsrc p hp).2
  have hlost : lowestPort sources (fun p => (s.me.latch p).st == .lost) = none :=
    lowestPort_none _ _ fun p hp => by simpa using (hsrc p hp).1
  have hempty : sources.filter (s.me.emptyResult false) = [] :=
    List.filter_eq_nil_iff.2 fun p hp => by simp [hreadable false hp]
  have hpark : sources.find? (s.me.emptyResult true) = none :=
    List.find?_eq_none.2 fun p hp => by simp [hreadable true hp]
  have hup : ¬ (sources.count 0x2A ≠ 0 ∧ (!s.hasUpstream s.cur.core) = true) := fun ⟨hn, hno⟩ => by
    simp [(hpop (List.count_pos_iff.1 (Nat.pos_of_ne_zero hn))).1] at hno
  have hdown : ¬ (dests.count 0x2B ≠ 0 ∧ (s.downstream s.cur.core).isNone = true) := fun ⟨hn, hno⟩ => by
    simp [State.downstream_of_pushable (hpush (List.count_pos_iff.1 (Nat.pos_of_ne_zero hn)))] at hno
  have hpops : ¬ s.poppable s.cur.core < sources.count 0x2A := by
    by_cases hin : 0x2A ∈ sources
    · exact Nat.not_lt.2 (hpop hin).2
    · rw [List.count_eq_zero.2 hin]; exact Nat.not_lt_zero _
  have hroom : ¬ (dests.count 0x2B ≠ 0 ∧ (!s.pushable s.cur (dests.count 0x2B)) = true) := fun ⟨hn, hno⟩ => by
    rw [hpush (List.count_pos_iff.1 (Nat.pos_of_ne_zero hn))] at hno
    exact absurd hno (by decide)
  unfold State.checkPorts
  dsimp only
  rw [length_filter_beq, length_filter_beq, show s.hart s.cur = s.me from rfl, List.append_nil, List.append_nil, List.append_nil,
    hlost, hempty, hpark]
  dsimp only [lowestPort, List.filter_nil, List.foldl_nil]
  rw [if_neg (not_or.2 ⟨hup, hdown⟩), if_neg hpops, if_neg hroom]

/-! ### What a move writes (R200, R201, R204, R224) -/

/-- A whole write changes the latch of its port, where this is one. -/
theorem Hart.latch_writePort (h : Hart) (d p : BitVec 6) (x : Wide) :
    (h.writePort d x).latch p = if p = d ∧ p ≠ 0x2B ∧ p ≠ 0x2C then ⟨.full, lowBits x (portWidth p)⟩ else h.latch p := by
  unfold Hart.writePort
  split
  next hd => rw [if_neg (by rintro ⟨rfl, h1, h2⟩; exact hd.elim h2 h1)]
  next hd =>
    by_cases hp : p = d
    · subst hp
      rw [if_pos ⟨rfl, fun h => hd (.inr h), fun h => hd (.inl h)⟩, Hart.latch_setLatch_same]
    · rw [if_neg fun h => hp h.1, Hart.latch_setLatch_other _ _ hp]

/-- The same, of the port that the instruction names. -/
theorem Hart.latch_writePort_eq_ite (h : Hart) (p q : BitVec 6) (x : Wide) :
    (h.writePort p x).latch q = if q = p ∧ p ≠ 0x2C ∧ p ≠ 0x2B then ⟨.full, lowBits x (portWidth p)⟩ else h.latch q := by
  rw [Hart.latch_writePort]
  by_cases hq : q = p
  · subst hq; simp only [true_and, and_comm]
  · rw [if_neg fun h => hq h.1, if_neg fun h => hq h.1]

theorem Hart.writePort_eq (h : Hart) (d : BitVec 6) (x : Wide) : h.writePort d x = { h with ports := (h.writePort d x).ports } := by
  unfold Hart.writePort
  split <;> rfl

/-- A state u that is s but for the ports of the issuing hart, which is v, for the entries that it has popped, and for those that it
has pushed to the core downstream. -/
structure State.portsMoved (s u : State) (n : Nat) (v : Hart) (pushed : List (Wide × Nat)) : Prop where
  cur : u.cur = s.cur
  mem : u.mem = s.mem
  reqs : u.reqs = s.reqs
  cycle : u.coreCycle s.cur.core = s.coreCycle s.cur.core
  downstream : u.downstream s.cur.core = s.downstream s.cur.core
  myCore : u.myCore = { s.myCore with harts := s.myCore.harts.set s.cur.hart v, qn := s.myCore.qn.drop n }
  others : ∀ c, c ≠ s.cur.core → u.core c = { s.core c with
    qn := if s.downstream s.cur.core = some c then (s.core c).qn ++ pushed else (s.core c).qn }

theorem State.portsMoved.me {s u : State} {n : Nat} {v : Hart} {pushed : List (Wide × Nat)} (h : s.portsMoved u n v pushed) :
    u.me = v := by
  have hme : u.me = u.myCore.harts[u.cur.hart] := rfl
  rw [hme, h.myCore]
  simp only [h.cur]
  simp

/-- The core downstream is another. -/
theorem State.downstream_ne {s : State} {core d : Nat} (h : s.downstream core = some d) : d ≠ core := by
  have := List.find?_some h
  simp only [Bool.and_eq_true, decide_eq_true_eq] at this
  omega

theorem State.portsMoved_popQueue (s : State) (n : Nat) : s.portsMoved (s.popQueue s.cur.core n) n s.me [] where
  cur := rfl
  mem := rfl
  reqs := rfl
  cycle := rfl
  downstream := rfl
  myCore := by
    have hset : s.myCore.harts.set s.cur.hart s.me = s.myCore.harts := Vector.set_getElem_self _
    rw [hset, State.popQueue, State.myCore, State.setCore_cur, State.core_setCore_same]
    rfl
  others c hc := by
    rw [State.popQueue, State.core_setCore_other _ _ hc, List.append_nil, ite_self]

/-- A whole write to a port, or a push to the core downstream. -/
theorem State.portsMoved.writeDest {s u : State} {n : Nat} {v : Hart} {pushed : List (Wide × Nat)} (h : s.portsMoved u n v pushed)
    (p : BitVec 6) (x : Wide) : s.portsMoved (u.writeDest p x) n (v.writePort p x)
      (pushed ++ if p = 0x2B then [(x, s.coreCycle s.cur.core)] else []) := by
  unfold State.writeDest
  split
  next hp =>
    have hdrop : v.writePort p x = v := if_pos (.inr hp)
    rw [hdrop, h.cur, State.pushQueue, h.downstream, h.cycle]
    cases hd : s.downstream s.cur.core with
    | none =>
      refine ⟨h.cur, h.mem, h.reqs, h.cycle, h.downstream, h.myCore, fun c hc => ?_⟩
      rw [h.others c hc, hd]
      simp
    | some d =>
      have hne := State.downstream_ne hd
      refine ⟨h.cur, h.mem, h.reqs, h.cycle, h.downstream, ?_, fun c hc => ?_⟩
      · exact (State.core_setCore_other u _ (h.cur ▸ hne.symm)).trans h.myCore
      · by_cases hcd : c = d
        · subst hcd
          rw [State.core_setCore_same, h.others c hc, hd]
          simp
        · rw [State.core_setCore_other _ _ hcd, h.others c hc, hd]
          simp [Ne.symm hcd]
  next hp =>
    rw [List.append_nil, h.me, State.setMe_eq, h.myCore]
    refine ⟨h.cur, h.mem, h.reqs, h.cycle, h.downstream, ?_, fun c hc => ?_⟩
    · rw [State.myCore_setMyCore]
      simp only [h.cur]
      rw [Vector.set_set]
    · exact (State.core_setCore_other u _ (by rwa [h.cur])).trans (h.others c hc)

/-- Two moves in one instruction: both sources are read first, and the writes come in order (R204). -/
theorem State.move2_portsMoved {s : State} {sa da sb db : BitVec 6} (h : movable s [sa, sb] [da, db]) :
    ∃ u, s.move2 sa da sb db = u.complete u.me ∧ s.portsMoved u ([sa, sb].count 0x2A)
      ((s.me.writePort da (sourceValue s sa 0)).writePort db (sourceValue s sb (if sa = 0x2A then 1 else 0)))
      (([(da, sourceValue s sa 0), (db, sourceValue s sb (if sa = 0x2A then 1 else 0))].filter (·.1 = 0x2B)).map fun x =>
        (x.2, s.coreCycle s.cur.core)) := by
  have hm := ((s.portsMoved_popQueue ([sa, sb].count 0x2A)).writeDest da (sourceValue s sa 0)).writeDest db
    (sourceValue s sb (if sa = 0x2A then 1 else 0))
  have hpushed (va vb : Wide) (n : Nat) : ([] ++ (if da = 0x2B then [(va, n)] else [])) ++ (if db = 0x2B then [(vb, n)] else []) =
      ([(da, va), (db, vb)].filter (·.1 = 0x2B)).map fun x => (x.2, n) := by
    simp only [List.filter_cons, List.filter_nil, decide_eq_true_eq, List.nil_append]
    split_ifs <;> rfl
  rw [hpushed] at hm
  refine ⟨_, ?_, hm⟩
  unfold State.move2
  dsimp only
  rw [State.checkPorts_of_movable h, length_filter_beq]
  rfl

/-- What a move leaves, once its instruction is complete. -/
theorem State.portsMoved.complete {s u : State} {n : Nat} {v : Hart} {pushed : List (Wide × Nat)} (h : s.portsMoved u n v pushed) :
    s.portsMoved (u.complete u.me) n v.next pushed := by
  refine ⟨h.cur, h.mem, h.reqs, h.cycle, h.downstream, ?_, fun c hc => ?_⟩
  · rw [h.me, State.complete_eq, State.setMe_eq, h.myCore, State.myCore_setMyCore]
    simp only [h.cur]
    rw [Vector.set_set]
    rfl
  · exact (State.core_setCore_other u _ (by rwa [h.cur])).trans (h.others c hc)

/-! ### Moves of registers (R201, R205) -/

/-- A lane of a port moves into a register. -/
theorem State.moveOut_of_movable {s : State} {p : BitVec 6} (h : movable s [p] []) (w l : Nat) (rd : Reg) :
    s.moveOut p w l rd = s.setMe ((s.me.next).fill rd ((BitVec.ofNat w (lane w (s.me.readPort p) l)).signExtend 64)) := by
  have hfill (v : Hart) (x : Word) : (v.fill rd x).advance = v.next.fill rd x := by
    unfold Hart.fill
    split <;> rfl
  unfold State.moveOut
  dsimp only
  rw [State.checkPorts_of_movable h, State.decided, State.complete_eq, hfill]

theorem readPort_eq_sourceValue {s : State} {p : BitVec 6} (n : Nat) (hp : p ≠ 0x2A) : s.me.readPort p = sourceValue s p n :=
  (if_neg hp).symm

/-- An instruction that completes with other ports changes these alone. -/
theorem changesPorts_of_complete {i : Instr} {s : State} {v : Hart} {latch : BitVec 6 → Latch} (he : exec i s = .next (s.complete v))
    (hv : v = { s.me with ports := v.ports }) (hl : ∀ p, v.latch p = latch p) : changesPorts i s latch := by
  refine ⟨_, he, ?_, fun p => ?_⟩
  · rw [State.me_complete, State.complete_eq, hv]
    rfl
  · rw [State.me_complete]
    exact hl p

theorem State.moveIn_full {s : State} {a : Reg} (ha : s.me.isFull a = true) (write : Hart → Word → Hart) :
    s.moveIn a write = s.complete (write s.me (s.me.readX a)) := by
  unfold State.moveIn
  rw [Hart.firstEmpty_eq_none (by simpa using ha)]

/-- A write of one lane changes the latch of its port. -/
theorem Hart.latch_writeLane (h : Hart) (p q : BitVec 6) (w l x : Nat) : (h.writeLane p w l x).latch q =
    let old : Wide := match (h.latch p).st with
      | .full => (h.latch p).val
      | _ => 0
    if q = p ∧ p ≠ 0x2C then ⟨.full, if w * l < portWidth p then setLane w old l x else old⟩ else h.latch q := by
  unfold Hart.writeLane
  split
  next hp => exact (if_neg fun h => h.2 hp).symm
  next hp =>
    by_cases hq : q = p
    · subst hq; exact (Hart.latch_setLatch_same _ _ _).trans (if_pos ⟨rfl, hp⟩).symm
    · exact (Hart.latch_setLatch_other _ _ hq).trans (if_neg fun h => hq h.1).symm

theorem Hart.writeLane_eq (h : Hart) (p : BitVec 6) (w l x : Nat) :
    h.writeLane p w l x = { h with ports := (h.writeLane p w l x).ports } := by
  unfold Hart.writeLane
  split <;> rfl

/-- A register written into every lane is its value times the number with a 1 in each. -/
theorem ofLanes_replicate (w n x : Nat) (hw : 0 < w) (hn : w * n = 512) :
    ofLanes w (List.replicate n x) = BitVec.ofNat 512 (x % 2 ^ w * ((2 ^ 512 - 1) / (2 ^ w - 1))) := by
  have hsum (n : Nat) : lanesNat w (List.replicate n x) = x % 2 ^ w * ∑ i ∈ Finset.range n, (2 ^ w) ^ i := by
    induction n with
    | zero => simp [lanesNat]
    | succ n ih =>
      have hcons : lanesNat w (List.replicate (n + 1) x) = x % 2 ^ w + 2 ^ w * lanesNat w (List.replicate n x) := rfl
      rw [hcons, ih, geom_sum_succ]
      ring
  have hbase : 2 ≤ 2 ^ w := Nat.le_self_pow hw.ne' 2
  have hvalue := hsum n
  rw [Nat.geomSum_eq hbase, ← pow_mul, hn] at hvalue
  exact congrArg (BitVec.ofNat 512) hvalue

/-- Settles O12: `mov2` by its two writes after both reads, and the moves of registers by what they fill or write. -/
theorem movesBetweenPortsAndRegisters : Obligations.MovesBetweenPortsAndRegisters := by
  refine ⟨fun s sa da sb db hm => ?_, fun s p d w a imm => ⟨fun hp hm => ⟨?_, ?_⟩, fun ha => ⟨?_, ?_, ?_, ?_⟩, ?_⟩⟩
  · intro va vb pushed moves
    obtain ⟨u, hu, hmoved⟩ := State.move2_portsMoved hm
    have hdone := hmoved.complete
    have hmoves {i : Instr} (he : exec i s = .next (s.move2 sa da sb db)) : moves i := by
      refine ⟨_, he.trans (congrArg _ hu), fun p => ?_, ?_, ?_, hdone.others, hdone.mem, hdone.reqs⟩
      · rw [hdone.me]
        exact (Hart.latch_writePort _ db p vb).trans (by rw [Hart.latch_writePort]; rfl)
      · rw [hdone.me, Hart.writePort_eq, Hart.writePort_eq]
        rfl
      · rw [hdone.me]
        exact hdone.myCore
    refine ⟨hmoves rfl, ?_⟩
    rintro rfl rfl
    exact hmoves rfl
  · rw [← readPort_eq_sourceValue 0 hp]
    exact (congrArg Host.Outcome.next (State.moveOut_of_movable hm 64 _ a)).trans (by rw [BitVec.signExtend_eq])
  · rw [← readPort_eq_sourceValue 0 hp]
    exact congrArg Host.Outcome.next (State.moveOut_of_movable hm 32 _ a)
  · exact changesPorts_of_complete (congrArg _ (State.moveIn_full ha _)) (Hart.writeLane_eq ..) fun q => Hart.latch_writeLane ..
  · exact changesPorts_of_complete (congrArg _ (State.moveIn_full ha _)) (Hart.writeLane_eq ..) fun q => Hart.latch_writeLane ..
  · refine changesPorts_of_complete (congrArg _ (State.moveIn_full ha _)) (Hart.writePort_eq ..) fun q => ?_
    have hall := ofLanes_replicate 64 8 (s.me.readX a).toNat (by decide) rfl
    rw [Nat.mod_eq_of_lt (s.me.readX a).isLt] at hall
    rw [hall]
    exact Hart.latch_writePort_eq_ite ..
  · refine changesPorts_of_complete (congrArg _ (State.moveIn_full ha _)) (Hart.writePort_eq ..) fun q => ?_
    rw [ofLanes_replicate 32 16 _ (by decide) rfl]
    exact Hart.latch_writePort_eq_ite ..
  · refine changesPorts_of_complete rfl (Hart.writePort_eq ..) fun q => ?_
    have hall := ofLanes_replicate 32 16 (imm.signExtend 32).toNat (by decide) rfl
    rw [Nat.mod_eq_of_lt (imm.signExtend 32).isLt] at hall
    rw [hall]
    exact Hart.latch_writePort_eq_ite ..

end Sys2Proof.Machine
end

section
/-! SUPPORT. The queues of MX, WB, CE and NI: what an acquire and a release put before a trigger, its snapshot and its entry (R116,
R124, R125, R127, R206, R232). -/

namespace Sys2Proof.Machine

/-! ### Releases and acquires of the issuing hart (R124, R125) -/

/-- A state u that is s but for requests that have joined and for what the issuing hart's later accesses wait for. -/
structure State.orderedBy (s u : State) : Prop where
  joined : s.joinedBy u
  myCore : u.myCore = { s.myCore with harts := s.myCore.harts.set s.cur.hart u.me }
  others : ∀ c, c ≠ s.cur.core → u.core c = s.core c

theorem State.orderedBy_refl (s : State) : s.orderedBy s := by
  refine ⟨s.joinedBy_refl, ?_, fun _ _ => rfl⟩
  have hset : s.myCore.harts.set s.cur.hart s.me = s.myCore.harts := Vector.set_getElem_self _
  rw [hset]

theorem State.orderedBy_trans {s u t : State} (h : s.orderedBy u) (h' : u.orderedBy t) : s.orderedBy t := by
  have hcur := h.joined.cur
  refine ⟨State.joinedBy_trans h.joined h'.joined, ?_, fun c hc => ?_⟩
  · rw [h'.myCore, h.myCore]
    simp only [hcur]
    rw [Vector.set_set]
  · rw [h'.others c (by rwa [hcur]), h.others c hc]

/-- A request joins, and the hart's later accesses may wait for it. -/
theorem State.orderedBy_holdLater (s : State) (r : Req) (l w : List Nat) : s.orderedBy ((s.addReq r).holdLater s.cur l w) := by
  refine ⟨s.joinedBy_holdLater r l w, ?_, fun c hc => State.core_setCore_other _ _ hc⟩
  have hme : ((s.addReq r).holdLater s.cur l w).me = _ := State.hart_setHart_same (s.addReq r) s.cur _
  rw [hme]
  exact State.core_setCore_same (s.addReq r) s.cur.core _

/-- A release joins, which the hart's later writes wait for. -/
theorem State.release_ordered (s : State) (scope : BitVec 2) (dest : Dest) :
    s.orderedBy (s.release s.cur scope dest).1 ∧ ∃ r ∈ (s.release s.cur scope dest).1.reqs, r.kind = .release scope ∧
      r.id ∈ (s.release s.cur scope dest).1.outstanding (s.release s.cur scope dest).1.me.holdWrites := by
  obtain ⟨r, hr, hkind, -⟩ := s.release_eq s.cur scope dest
  have hin : { r with id := s.nextId } ∈ ((s.addReq r).holdLater s.cur [] [s.nextId]).reqs :=
    List.mem_append_right _ List.mem_cons_self
  have hme : ((s.addReq r).holdLater s.cur [] [s.nextId]).me = _ := State.me_holdLater (s.addReq r) [] [s.nextId]
  rw [hr]
  refine ⟨s.orderedBy_holdLater r _ _, _, hin, hkind, ?_⟩
  dsimp only
  rw [hme]
  exact State.mem_outstanding.2 ⟨List.mem_append_right _ List.mem_cons_self, .inl ⟨_, hin, rfl⟩⟩

/-- An acquire joins, which all the hart's later accesses wait for. -/
theorem State.acquire_ordered (s : State) (dest : Dest) :
    s.orderedBy (s.acquire s.cur dest).1 ∧ ∃ r ∈ (s.acquire s.cur dest).1.reqs, r.kind = .acquire ∧
      r.id ∈ (s.acquire s.cur dest).1.me.holdAll := by
  obtain ⟨r, hr, hkind⟩ : ∃ r : Req, s.acquire s.cur dest = ((s.addReq r).holdLater s.cur [s.nextId] [], s.nextId) ∧
      r.kind = .acquire := ⟨_, rfl, rfl⟩
  have hin : { r with id := s.nextId } ∈ ((s.addReq r).holdLater s.cur [s.nextId] []).reqs :=
    List.mem_append_right _ List.mem_cons_self
  have hme : ((s.addReq r).holdLater s.cur [s.nextId] []).me = _ := State.me_holdLater (s.addReq r) [s.nextId] []
  rw [hr]
  refine ⟨s.orderedBy_holdLater r _ _, _, hin, hkind, ?_⟩
  dsimp only
  rw [hme]
  exact List.mem_append_right _ List.mem_cons_self

/-! ### The state in which a trigger enters its queue (R127, R136) -/

/-- The state after the implicit release of a trigger under revision 1, where it has one (R136). -/
def State.implicitRelease (s : State) : Option (BitVec 2) → State
  | some scope => (s.release s.cur scope .none).1
  | none => s

theorem State.implicitRelease_ordered (s : State) (implicit : Option (BitVec 2)) : s.orderedBy (s.implicitRelease implicit) := by
  cases implicit with
  | some scope => exact (s.release_ordered scope .none).1
  | none => exact s.orderedBy_refl

/-- The state after the implicit release of a trigger, where it has one, and the release and the acquire of its ordering. -/
def State.ordering (s : State) (g : Trig) (implicit : Option (BitVec 2)) : State :=
  let s := s.implicitRelease implicit
  let s := if bitOf (g.ord.zeroExtend 64) 1 then (s.release s.cur g.scope .none).1 else s
  if bitOf (g.ord.zeroExtend 64) 0 then (s.acquire s.cur .none).1 else s

/-- A trigger of the issuing hart enters the queue of its unit with its snapshot q, and the hart completes its instruction. -/
def State.enterQueue (w : State) (u : EngineUnit) (fn : BitVec 8) (put : Core → Trigger → Core) (q : Trigger) : State :=
  let t := State.setMyCore { w with nextId := w.nextId + 1 } (put { w.myCore with entered := w.myCore.entered + 1 } q)
  t.complete (t.me.startTrigger u fn 0 0 0 .none)

theorem State.queueTrigger_eq (s : State) (g : Trig) (u : EngineUnit) (fn : BitVec 8) (implicit : Option (BitVec 2))
    (put : Core → Trigger → Core) : ∃ after, s.queueTrigger g u fn implicit put =
      (s.ordering g implicit).enterQueue u fn put ((s.ordering g implicit).snapshot g u fn after) :=
  ⟨_, rfl⟩

theorem State.orderedBy_ite {s u : State} (c : Prop) [Decidable c] (h : s.orderedBy u) : s.orderedBy (if c then u else s) := by
  split
  · exact h
  · exact s.orderedBy_refl

/-- What the ordering of a trigger leaves: a release that later writes wait for, an acquire that all later accesses wait for. -/
theorem State.ordering_ordered (s : State) (g : Trig) (implicit : Option (BitVec 2)) :
    s.orderedBy (s.ordering g implicit) ∧
    (g.ord.getLsbD 1 = true → ∃ r ∈ (s.ordering g implicit).reqs, r.kind = .release g.scope ∧
      r.id ∈ (s.ordering g implicit).me.holdWrites) ∧
    (g.ord.getLsbD 0 = true → ∃ r ∈ (s.ordering g implicit).reqs, r.kind = .acquire ∧
      r.id ∈ (s.ordering g implicit).me.holdAll) := by
  have hbit (n : Nat) (hn : n < 64) : bitOf (g.ord.zeroExtend 64) n = g.ord.getLsbD n := by
    rw [bitOf, BitVec.zeroExtend, BitVec.getLsbD_setWidth, decide_eq_true hn, Bool.true_and]
  obtain ⟨a, ha⟩ : ∃ a : State, a = s.implicitRelease implicit := ⟨_, rfl⟩
  have hsa : s.orderedBy a := ha ▸ s.implicitRelease_ordered implicit
  obtain ⟨b, hb, hab⟩ : ∃ b : State, b = (if g.ord.getLsbD 1 then (a.release a.cur g.scope .none).1 else a) ∧ a.orderedBy b :=
    ⟨_, rfl, State.orderedBy_ite _ (a.release_ordered g.scope .none).1⟩
  have hbc : b.orderedBy (if g.ord.getLsbD 0 then (b.acquire b.cur .none).1 else b) :=
    State.orderedBy_ite _ (b.acquire_ordered .none).1
  have hw : s.ordering g implicit = if g.ord.getLsbD 0 then (b.acquire b.cur .none).1 else b := by
    unfold State.ordering
    dsimp only
    rw [← ha, hbit 1 (by decide), hbit 0 (by decide), ← hb]
  rw [← hw] at hbc
  refine ⟨State.orderedBy_trans (State.orderedBy_trans hsa hab) hbc, fun h1 => ?_, fun h0 => ?_⟩
  · rw [if_pos h1] at hb
    obtain ⟨-, r, hr, hkind, hid⟩ := a.release_ordered g.scope .none
    rw [← hb] at hr hid
    exact ⟨r, hbc.joined.reqs r hr, hkind, (State.mem_outstanding.1 (hbc.joined.holdWrites _ hid)).1⟩
  · rw [hw, if_pos h0]
    exact (b.acquire_ordered .none).2

end Sys2Proof.Machine
end

section
/-! SUPPORT. The triggers of MX, WB, CE and NI (R206, R232, R235, R245, R250, R257 to R263), with the statement
EngineTriggersQueue. -/

namespace Sys2Proof.Machine

/-! ### What a trigger leaves as it enters its queue (R206, R232) -/

/-- Putting a trigger into a queue of a core has nothing to do with the core's harts. -/
def keepsHarts (put : Core → Trigger → Core) : Prop := ∀ c v q, put { c with harts := v } q = { put c q with harts := v }

theorem keepsHarts.harts_eq {put : Core → Trigger → Core} (hput : keepsHarts put) (c : Core) (q : Trigger) :
    (put c q).harts = c.harts := by
  have h := congrArg Core.harts (hput c c.harts q)
  exact h

/-- The trigger is in flight and its snapshot stands in the queue. -/
theorem State.enterQueue_leaves (w : State) (u : EngineUnit) (fn : BitVec 8) {put : Core → Trigger → Core} (hput : keepsHarts put)
    (q : Trigger) :
    let t := w.enterQueue u fn put q
    t.cur = w.cur ∧ t.mem = w.mem ∧ t.reqs = w.reqs ∧ t.me = (w.me.startTrigger u fn 0 0 0 .none).advance ∧
    t.myCore = put { w.myCore with harts := w.myCore.harts.set w.cur.hart t.me, entered := w.myCore.entered + 1 } q ∧
    ∀ c, c ≠ w.cur.core → t.core c = w.core c := by
  have hme : (State.setMyCore { w with nextId := w.nextId + 1 } (put { w.myCore with entered := w.myCore.entered + 1 } q)).me =
      w.me := by
    rw [State.me_setMyCore]
    simp only [hput.harts_eq]
    rfl
  have ht : w.enterQueue u fn put q = State.setMyCore { w with nextId := w.nextId + 1 }
      (put { w.myCore with
        harts := w.myCore.harts.set w.cur.hart (w.me.startTrigger u fn 0 0 0 .none).advance, entered := w.myCore.entered + 1 } q) := by
    unfold State.enterQueue
    dsimp only
    rw [hme, State.complete_eq, State.setMe_eq, State.myCore_setMyCore, State.setMyCore_setMyCore, hput.harts_eq, ← hput]
    rfl
  have htme : (w.enterQueue u fn put q).me = (w.me.startTrigger u fn 0 0 0 .none).advance := by
    rw [ht, State.me_setMyCore]
    simp only [hput.harts_eq]
    exact Vector.getElem_set_self _
  dsimp only
  refine ⟨rfl, rfl, rfl, htme, ?_, fun c hc => ?_⟩
  · rw [htme, ht, State.myCore_setMyCore]
  · rw [ht]
    exact State.core_setCore_other _ _ hc

theorem State.queueTrigger_cur (s : State) (g : Trig) (u : EngineUnit) (fn : BitVec 8) (implicit : Option (BitVec 2))
    (put : Core → Trigger → Core) : (s.queueTrigger g u fn implicit put).cur = s.cur := by
  obtain ⟨after, heq⟩ := s.queueTrigger_eq g u fn implicit put
  rw [heq]
  exact (s.ordering_ordered g implicit).1.joined.cur

/-- The same in terms of the state before the ordering, whatever the hart's later accesses are made to wait for in addition. -/
theorem State.queueTrigger_ordered {s t : State} {g : Trig} {u : EngineUnit} {fn : BitVec 8} {implicit : Option (BitVec 2)}
    {put : Core → Trigger → Core} (hput : keepsHarts put) (h : (s.queueTrigger g u fn implicit put).orderedBy t) :
    ∃ after, let w := s.ordering g implicit
      t.me = { (s.me.startTrigger u fn 0 0 0 .none).advance with holdAll := t.me.holdAll, holdWrites := t.me.holdWrites } ∧
      t.myCore = put { s.myCore with harts := s.myCore.harts.set s.cur.hart t.me, entered := s.myCore.entered + 1 }
        (w.snapshot g u fn after) ∧
      (∀ c, c ≠ s.cur.core → t.core c = s.core c) ∧ t.mem = s.mem ∧ ∀ r ∈ w.reqs, r ∈ t.reqs := by
  obtain ⟨after, heq⟩ := s.queueTrigger_eq g u fn implicit put
  obtain ⟨hcur, hmem, hreqs, hme, hcore, hothers⟩ :=
    (s.ordering g implicit).enterQueue_leaves u fn hput ((s.ordering g implicit).snapshot g u fn after)
  rw [← heq] at hcur hmem hreqs hme hcore hothers
  obtain ⟨hw, -, -⟩ := s.ordering_ordered g implicit
  have hwcur := hw.joined.cur
  have hqcur := hcur.trans hwcur
  refine ⟨after, ?_, ?_, fun c hc => ?_, ?_, fun r hr => h.joined.reqs r (hreqs ▸ hr)⟩
  · rw [h.joined.me, hme, hw.joined.me]
    rfl
  · rw [h.myCore, hcore]
    simp only [hqcur, hwcur, hput.harts_eq, Vector.set_set]
    refine (hput _ _ _).symm.trans ?_
    simp only [hw.myCore, Vector.set_set]
  · rw [h.others c (by rwa [hqcur]), hothers c (by rwa [hwcur]), hw.others c hc]
  · rw [h.joined.mem, hmem, hw.joined.mem]

/-! ### The snapshot of a trigger (R116, R206) -/

/-- The latches that a trigger reads after its source move are those that its snapshot takes. -/
theorem State.latchBits_sourceMove {s : State} {g : Trig} {u : EngineUnit} {required optional : List (BitVec 6)}
    (ha : armed s g u required optional) (p : BitVec 6) (n : Nat) :
    (s.sourceMove u g.port).me.latchBits p n = snapshotOf s g u p n := by
  have hsrc := ha.1
  unfold Hart.latchBits Hart.fullLatch snapshotOf
  rw [State.latch_sourceMove]
  by_cases hp : p = operandPort u
  · by_cases hg : g.port = operandPort u
    · rw [if_pos hg] at hsrc
      rw [if_neg (not_and_not_right.2 fun _ => hg), if_pos hp, hp, ← hg, hsrc, triggerValue, if_pos hg]
      rfl
    · rw [if_pos ⟨hp, hg⟩, if_pos hp]
      rfl
  · rw [if_neg (fun h => hp h.1), if_neg hp]
    cases (s.me.latch p).st with
    | full => rfl
    | empty => simp
    | lost => simp

/-- The other cores after the source move of a trigger. -/
theorem State.core_sourceMove (s : State) (u : EngineUnit) (p : BitVec 6) {c : Nat} (hc : c ≠ s.cur.core) :
    (s.sourceMove u p).core c = s.core c := by
  unfold State.sourceMove
  split
  · rfl
  · exact (State.core_setCore_other _ _ hc).trans (State.core_setCore_other _ _ hc)

/-- The latches as a trigger starts: its result latch empties (R206). -/
theorem Hart.latch_startTrigger (h : Hart) (u : EngineUnit) (fn : BitVec 8) (due : Nat) (r : Wide) (fl : BitVec 5) (acc : LsAccess)
    (p : BitVec 6) : (h.startTrigger u fn due r fl acc).latch p = if p = resultPort u then Latch.empty else h.latch p := by
  show (h.setLatch (resultPort u) Latch.empty).latch p = _
  split
  next hp => rw [hp]; exact Hart.latch_setLatch_same _ _ _
  next hp => exact Hart.latch_setLatch_other _ _ hp

/-- An instruction whose trigger enters its unit's queue after the source move. -/
theorem queues_of_queueTrigger {i : Instr} {s t : State} {g : Trig} {u : EngineUnit} {fn : BitVec 8} {implicit : Option (BitVec 2)}
    {put : Core → Trigger → Core} {required optional : List (BitVec 6)} (he : exec i s = .next t)
    (ha : armed s g u required optional) (hput : keepsHarts put)
    (ht : ((s.sourceMove u g.port).queueTrigger g u fn implicit put).orderedBy t) : queues i s g u fn put := by
  obtain ⟨after, hme, hcore, hothers, hmem, hreqs⟩ := State.queueTrigger_ordered hput ht
  obtain ⟨hw, hrelease, hacquire⟩ := (s.sourceMove u g.port).ordering_ordered g implicit
  generalize (s.sourceMove u g.port).ordering g implicit = w at *
  have hlatch (p : BitVec 6) (n : Nat) : w.me.latchBits p n = snapshotOf s g u p n := by
    rw [← State.latchBits_sourceMove ha, hw.joined.me]
    rfl
  have hwme : w.me = { s.me with ports := w.me.ports, holdAll := w.me.holdAll, holdWrites := w.me.holdWrites } := by
    rw [hw.joined.me, State.me_sourceMove_with]
  simp only [s.sourceMove_cur] at hcore hothers
  refine ⟨t, w.snapshot g u fn after, he, ?_, fun p => ?_, ?_, ?_, hlatch _ _, ?_, ?_, fun h1 => ?_, fun h0 => ?_, ?_,
    fun c hc => (hothers c hc).trans (s.core_sourceMove u g.port hc), hmem.trans (s.sourceMove_mem u g.port)⟩
  · rw [hme, State.me_sourceMove_with]
    rfl
  · rw [hme]
    show ((s.sourceMove u g.port).me.startTrigger u fn 0 0 0 .none).latch p = _
    rw [Hart.latch_startTrigger, State.latch_sourceMove]
    rfl
  · have hseq : w.me.seq = s.me.seq := by rw [hwme]
    have hmode : w.me.mode = s.me.mode := by rw [hwme]
    exact ⟨hw.joined.cur.trans (s.sourceMove_cur u g.port), hseq, rfl, rfl, rfl, hmode⟩
  · have hcsr : w.me.csr = s.me.csr := by rw [hwme]
    refine ⟨?_, ?_, ?_⟩ <;> simp only [State.snapshot, hcsr]
  · rintro rfl
    exact ⟨hlatch _ _, hlatch _ _⟩
  · rintro rfl
    exact ⟨hlatch _ _, hlatch _ _⟩
  · obtain ⟨r, hr, hkind, hid⟩ := hrelease h1
    exact ⟨r, hreqs r hr, hkind, List.mem_append_right _ hid⟩
  · obtain ⟨r, hr, hkind, hid⟩ := hacquire h0
    exact ⟨r, hreqs r hr, hkind, hid⟩
  · rw [hcore, s.harts_sourceMove]
    have hmove := s.myCore_sourceMove u g.port (s.myCore.harts.set s.cur.hart t.me)
    exact congrArg (fun c : Core => put { c with entered := c.entered + 1 } (w.snapshot g u fn after)) hmove

/-! ### The operands of the four units (R235, R245, R250, R257, R419) -/

theorem State.mxCheck_lowBits (s : State) (fn : BitVec 8) (v : Wide) :
    s.mxCheck fn (some (lowBits v 128)) = s.mxCheck fn (some v) := by
  unfold State.mxCheck
  dsimp only
  rw [extractLsb'_lowBits v (by decide : 0 + 128 ≤ 128)]

theorem wbCheck_lowBits (fn : BitVec 8) (v : Wide) : wbCheck fn (some (lowBits v 128)) = wbCheck fn (some v) := by
  unfold wbCheck
  dsimp only
  rw [extractLsb'_lowBits v (by decide : 0 + 128 ≤ 128)]

theorem ceCheck_lowBits (fn : BitVec 8) (v : Wide) : ceCheck fn (some (lowBits v 128)) = ceCheck fn (some v) := by
  unfold ceCheck
  dsimp only
  rw [extractLsb'_lowBits v (by decide : 0 + 128 ≤ 128)]

theorem State.niCheck_lowBits (s : State) (fn : BitVec 8) (v : Wide) :
    s.niCheck fn (some (lowBits v 128)) = s.niCheck fn (some v) := by
  unfold State.niCheck
  dsimp only
  rw [extractLsb'_lowBits v (by decide : 0 + 128 ≤ 128)]

/-! ### The triggers of the four units -/

/-- A trigger of MX whose tile is READY enters its queue (R235). -/
theorem mxTrigger_queues {i : Instr} {s : State} {g : Trig} {fn : BitVec 8} (he : exec i s = .next (s.mxTrigger g fn))
    (ha : armed s g .mx [0x1E, 0x1F] [0x20]) (htile : (s.myCore.tile (mxTile ((triggerValue s g .mx).extractLsb' 0 128))).st = .ready)
    (hop : s.mxCheck fn (some (triggerValue s g .mx)) = none) :
    queues i s g .mx fn fun c q => { c with mxq := c.mxq ++ [q] } := by
  have hopnd : s.triggerOperand .mx g.port = some (lowBits (triggerValue s g .mx) 128) := State.triggerOperand_of_armed ha
  have hfires : s.mxTrigger g fn =
      (s.sourceMove .mx g.port).queueTrigger g .mx fn none fun c q => { c with mxq := c.mxq ++ [q] } := by
    refine s.trigger_fires g .mx ⟨[0x1E, 0x1F], [0x20], s.mxCheck fn⟩ _ _ ha ?_ ?_
    · rw [hopnd]
      dsimp only
      rw [extractLsb'_lowBits _ (by decide : 0 + 128 ≤ 128), if_pos htile]
    · rw [hopnd]
      exact (s.mxCheck_lowBits fn _).trans hop
  exact queues_of_queueTrigger (he.trans (congrArg _ hfires)) ha (fun _ _ _ => rfl) (State.orderedBy_refl _)

/-- A trigger of WB enters its queue (R245). -/
theorem wbTrigger_queues {i : Instr} {s : State} {g : Trig} {fn : BitVec 8} (he : exec i s = .next (s.wbTrigger g fn))
    (ha : armed s g .wb [0x22] []) (hop : wbCheck fn (some (triggerValue s g .wb)) = none) :
    queues i s g .wb fn fun c q => { c with wbq := c.wbq ++ [q] } := by
  have hfires := s.trigger_fires g .wb ⟨[0x22], [], wbCheck fn⟩ (fun _ => none)
    (fun s => s.queueTrigger g .wb fn none fun c t => { c with wbq := c.wbq ++ [t] }) ha rfl
    (by rw [State.triggerOperand_of_armed ha]; exact (wbCheck_lowBits fn _).trans hop)
  exact queues_of_queueTrigger (he.trans (congrArg _ hfires)) ha (fun _ _ _ => rfl) (State.orderedBy_refl _)

/-- The releases that revision 1 puts before tagged commands hold later writes alone (R136). -/
theorem State.impliedHold_ordered (s : State) (t : Trigger) : s.orderedBy (s.impliedHold s.cur t) := by
  unfold State.impliedHold
  exact State.orderedBy_ite _ (s.orderedBy_holdLater _ _ _)

/-- A trigger of CE enters its queue (R250). -/
theorem ceTrigger_queues {i : Instr} {s : State} {g : Trig} {fn : BitVec 8} (he : exec i s = .next (s.ceTrigger g fn))
    (ha : armed s g .ce [0x24] []) (hop : ceCheck fn (some (triggerValue s g .ce)) = none) :
    queues i s g .ce fn fun c q => { c with ceq := c.ceq ++ [q] } := by
  have hput : keepsHarts fun c q => { c with ceq := c.ceq ++ [q] } := fun _ _ _ => rfl
  have hfires := s.trigger_fires g .ce ⟨[0x24], [], ceCheck fn⟩ (fun _ => none)
    (fun s => (s.queueTrigger g .ce fn none fun c t => { c with ceq := c.ceq ++ [t] }).impliedHold s.cur (s.snapshot g .ce fn []))
    ha rfl (by rw [State.triggerOperand_of_armed ha]; exact (ceCheck_lowBits fn _).trans hop)
  refine queues_of_queueTrigger (implicit := none) (he.trans (congrArg _ hfires)) ha hput ?_
  rw [← State.queueTrigger_cur (s.sourceMove .ce g.port) g .ce fn none fun c q => { c with ceq := c.ceq ++ [q] }]
  exact State.impliedHold_ordered _ _

/-- A trigger of NI enters its queue, whatever its implicit release (R136, R257). -/
theorem niTrigger_queues {i : Instr} {s : State} {g : Trig} {fn : BitVec 8} (he : exec i s = .next (s.niTrigger g fn))
    (ha : armed s g .ni ([0x26] ++ (if niData (niOp fn) then [0x28] else []) ++ (if niTag fn = 0 then [] else [0x27])) [])
    (hop : s.niCheck fn (some (triggerValue s g .ni)) = none) :
    queues i s g .ni fn fun c q => { c with niq := c.niq ++ [q] } := by
  have hcheck : s.niCheck fn (s.triggerOperand .ni g.port) = none := by
    rw [State.triggerOperand_of_armed ha]
    exact (s.niCheck_lowBits fn _).trans hop
  unfold State.niTrigger at he
  dsimp only at he
  rw [s.trigger_fires g .ni _ _ _ ha rfl hcheck] at he
  exact queues_of_queueTrigger he ha (fun _ _ _ => rfl) (State.orderedBy_refl _)

/-- A trigger of NI by its operation and its TAG: it needs ni.d where it carries data and ni.f where it is tagged. -/
theorem niTrigger_queues_tagged {i : Instr} {s : State} {g : Trig} {op : Nat} {t : BitVec 2} {data : Bool}
    (he : exec i s = .next (s.niTrigger g (BitVec.ofNat 8 (4 * op + t.toNat)))) (hop : op < 64) (hdata : niData op = data)
    (ha : armed s g .ni ([0x26] ++ (if data then [0x28] else []) ++ (if t = 0 then [] else [0x27])) [])
    (hc : s.niCheck (BitVec.ofNat 8 (4 * op + t.toNat)) (some (triggerValue s g .ni)) = none) :
    queues i s g .ni (BitVec.ofNat 8 (4 * op + t.toNat)) fun c q => { c with niq := c.niq ++ [q] } := by
  have ht := t.isLt
  have hfnOp : niOp (BitVec.ofNat 8 (4 * op + t.toNat)) = op := by
    rw [niOp, BitVec.toNat_ofNat]
    omega
  have hfnTag : niTag (BitVec.ofNat 8 (4 * op + t.toNat)) = t.toNat := by
    rw [niTag, BitVec.toNat_ofNat]
    omega
  have htag : (niTag (BitVec.ofNat 8 (4 * op + t.toNat)) = 0) = (t = 0) := by rw [hfnTag, ← BitVec.toNat_inj]; rfl
  refine niTrigger_queues he ?_ hc
  simp only [hfnOp, htag, hdata]
  exact ha

/-- Settles O11: each trigger of the four units fires after its source move and enters its queue. -/
theorem engineTriggersQueue : Obligations.EngineTriggersQueue := by
  refine ⟨fun s g => ⟨fun ha => ?_, fun ha => ?_, fun ha => ?_⟩, fun s g t _ => ?_⟩
  · have hmx {i : Instr} {fn : BitVec 8} (he : exec i s = .next (s.mxTrigger g fn)) := mxTrigger_queues he ha
    exact ⟨hmx rfl, hmx rfl, hmx rfl, hmx rfl, hmx rfl, hmx rfl, hmx rfl⟩
  · have hwb {i : Instr} {fn : BitVec 8} (he : exec i s = .next (s.wbTrigger g fn)) := wbTrigger_queues he ha
    exact ⟨hwb rfl, hwb rfl, hwb rfl⟩
  · exact ⟨ceTrigger_queues rfl ha, ceTrigger_queues rfl ha⟩
  · have hwin : s.me.mode ≠ .user → exec (.niWin g) s = .next (s.niTrigger g 0x30) := fun h => congrArg _ (if_neg h)
    have hni {i : Instr} {op : Nat} {tag : BitVec 2} {data : Bool} (hop : op < 64 ∧ niData op = data)
        (he : exec i s = .next (s.niTrigger g (BitVec.ofNat 8 (4 * op + tag.toNat)))) :=
      niTrigger_queues_tagged he hop.1 hop.2
    exact ⟨hni (by decide) rfl, hni (by decide) rfl, hni (by decide) rfl, hni (by decide) rfl, hni (by decide) rfl,
      hni (by decide) rfl, hni (by decide) rfl, hni (by decide) rfl, hni (by decide) rfl, hni (by decide) rfl,
      hni (by decide) rfl, hni (by decide) rfl, fun h => hni (by decide) (hwin h), hni (by decide) rfl,
      fun h => congrArg _ (if_pos h)⟩

end Sys2Proof.Machine
end
